-- ==== Sys2Proof/Word.lean ====
section
/-! DEFINITION. The word types of Flesia Keten: 32-bit instruction words and registers (R28), 64-bit addresses and pairs
(R54), bytes of memory (R6). -/
namespace Sys2Proof

/-- An instruction word, or the contents of one register. -/
abbrev Word := BitVec 32

/-- An address, or the contents of a pair of registers. -/
abbrev DWord := BitVec 64

/-- A byte of memory. -/
abbrev Byte := BitVec 8

end Sys2Proof
end

