-- ==== Sys2Proof/Config.lean ====
section
/-! DEFINITION. What the spec leaves open, and what a part fixes at manufacture.
A free value is a constant without a body, applied to the tick of the machine and to the place that reads it, so no proof
can see its value (assumption 3). The values that a part fixes at manufacture are those of one Keten-X (assumption 5). -/
namespace Sys2Proof

/-- An unspecified 32-bit value: the value of a register that a matrix post holds (R78), of a mismatched reduction slot
(R195) and the like. The arguments are the tick, and two numbers that name the place. -/
opaque Config.freeWord : Nat → Nat → Nat → Word

/-- An unspecified 64-bit value: the payload of mixed barrier operations (R227), the value of a remote load. -/
opaque Config.freeDWord : Nat → Nat → Nat → DWord

/-- An unspecified byte: a byte of a mixed-size race (R154), of an overlapping copy (R257), of an abandoned buffer. -/
opaque Config.freeByte : Nat → Nat → Nat → Byte

/-- An unspecified choice between two values that the spec allows: the old or the new value of a register (R37, R78), a
stored or a written frame header field (R99). -/
opaque Config.freeBool : Nat → Nat → Nat → Bool

/-- The arithmetic clocks that one step takes (R52 fixes rates at no contention only). -/
opaque Config.freeClocks : Nat → Nat

/-- The SM3 digest of a string of bytes (R410, R411, R416): the spec names the function and does not state it. -/
opaque Config.sm3 : List Byte → BitVec 256

/-- The fused digest of the root key (R410). -/
opaque Config.rootKey : BitVec 256

/-- The keys and the signatures that come with those images. -/
opaque Config.imageKey : Bool → Bool → BitVec 512

/-- See `Config.imageKey`. -/
opaque Config.imageSig : Bool → Bool → BitVec 512

/-- The SM3 digests of the images in the two slots of the boot flash: of the second slot, of the system firmware (R416). -/
opaque Config.imageDigest : Bool → Bool → BitVec 256

/-- The SM3 digest of an image that software or a host hands over (R397, R409): how its bytes lie is not stated. The arguments are the
tick and a number that names the image. -/
opaque Config.loadedDigest : Nat → Nat → BitVec 256

/-- The key that comes with such an image. -/
opaque Config.loadedKey : Nat → Nat → BitVec 512

/-- The signature that comes with such an image. -/
opaque Config.loadedSig : Nat → Nat → BitVec 512

/-- Whether the two numbers are an SM2 signature of the digest by the key (R410, R411). -/
opaque Config.sm2Verifies : BitVec 512 → BitVec 256 → BitVec 512 → Bool

/-- The SM2 signature by the device identity key (R416). -/
opaque Config.deviceSignature : BitVec 256 → BitVec 512

/-- The fixed hash of a 128-byte line address that chooses a link (R402). -/
opaque Config.linkHash : BitVec 64 → Nat

/-- CAPS of a Keten-X with its PCIe port an endpoint (R3). The variant is a DESIGN CHOICE (assumption 5). -/
def Config.caps : DWord := 0x000000000FFF38FF

/-- The register ID: vendor 0xC1E0, device 1 (R399); the silicon revision is fused, DESIGN CHOICE 0 (assumption 5). -/
def Config.idReg : DWord := 0xC1E0000100000000

/-- What an address of memory that nothing has written reads as: DESIGN CHOICE (assumption 4). -/
def Config.freshByte : Byte := 0

end Sys2Proof
end

