-- ==== Sys2Proof/Syntax.lean ====
section
/-! DEFINITION. The instructions and the device events of Flesia Keten, one constructor for each row of the opcode table.
A row that has an encoding holds the fields of its word, each with the width the word gives it (R28, R42, R45).
A row without an encoding is an event of the device: it holds the names of the objects that it acts on. -/
namespace Sys2Proof

/-- One operation or event of the opcode table. The comment of a constructor names its row and the rule of its entry. -/
inductive Instr where
  /-- ADD (R116). -/
  | add (d : BitVec 6) (a : BitVec 6) (b : BitVec 6) (f : BitVec 3) (h : BitVec 2)
  /-- SUB (R116). -/
  | sub (d : BitVec 6) (a : BitVec 6) (b : BitVec 6) (f : BitVec 3) (h : BitVec 2)
  /-- MUL (R117). -/
  | mul (d : BitVec 6) (a : BitVec 6) (b : BitVec 6) (f : BitVec 1) (h : BitVec 2)
  /-- MULH (R117). -/
  | mulh (d : BitVec 6) (a : BitVec 6) (b : BitVec 6) (f : BitVec 1) (h : BitVec 2)
  /-- MAD (R118). -/
  | mad (d : BitVec 6) (a : BitVec 6) (b : BitVec 6) (f : BitVec 3) (h : BitVec 2)
  /-- DIV (R119). -/
  | div (d : BitVec 6) (a : BitVec 6) (b : BitVec 6) (f : BitVec 1) (h : BitVec 2)
  /-- REM (R119). -/
  | rem (d : BitVec 6) (a : BitVec 6) (b : BitVec 6) (f : BitVec 1) (h : BitVec 2)
  /-- MINMAX (R120). -/
  | minmax (d : BitVec 6) (a : BitVec 6) (b : BitVec 6) (f : BitVec 3) (h : BitVec 2)
  /-- ABSNEG (R120). -/
  | absneg (d : BitVec 6) (a : BitVec 6) (f : BitVec 3) (h : BitVec 1)
  /-- LOGIC (R121). -/
  | logic (d : BitVec 6) (a : BitVec 6) (b : BitVec 6) (f : BitVec 3) (h : BitVec 2)
  /-- SHIFT (R122). -/
  | shift (d : BitVec 6) (a : BitVec 6) (b : BitVec 6) (f : BitVec 3) (h : BitVec 2)
  /-- BITS (R123). -/
  | bits (d : BitVec 6) (a : BitVec 6) (f : BitVec 3) (h : BitVec 1)
  /-- BFX (R124). -/
  | bfx (d : BitVec 6) (a : BitVec 6) (b : BitVec 6) (f : BitVec 3) (h : BitVec 2)
  /-- BFI (R124). -/
  | bfi (d : BitVec 6) (a : BitVec 6) (b : BitVec 6) (h : BitVec 2)
  /-- CMP (R125). -/
  | cmp (m : BitVec 3) (c : BitVec 3) (a : BitVec 6) (b : BitVec 6) (f : BitVec 3) (h : BitVec 2)
  /-- SEL (R126). -/
  | sel (d : BitVec 6) (a : BitVec 6) (b : BitVec 6) (f : BitVec 3) (h : BitVec 2)
  /-- MOV (R127). -/
  | mov (d : BitVec 6) (a : BitVec 6) (f : BitVec 1) (h : BitVec 1)
  /-- MOVS (R111). -/
  | movs (d : BitVec 6) (a : BitVec 6) (h : BitVec 1)
  /-- LI (R128). -/
  | li (d : BitVec 6) (i : BitVec 18)
  /-- LIH (R128). -/
  | lih (d : BitVec 6) (i : BitVec 18)
  /-- ADDI (R116). -/
  | addi (d : BitVec 6) (a : BitVec 6) (i : BitVec 12)
  /-- FADD (R129). -/
  | fadd (d : BitVec 6) (a : BitVec 6) (b : BitVec 6) (f : BitVec 3) (h : BitVec 2)
  /-- FSUB (R129). -/
  | fsub (d : BitVec 6) (a : BitVec 6) (b : BitVec 6) (f : BitVec 3) (h : BitVec 2)
  /-- FMUL (R129). -/
  | fmul (d : BitVec 6) (a : BitVec 6) (b : BitVec 6) (f : BitVec 3) (h : BitVec 2)
  /-- FMA (R130). -/
  | fma (d : BitVec 6) (a : BitVec 6) (b : BitVec 6) (f : BitVec 3) (h : BitVec 2)
  /-- FMINMAX (R131). -/
  | fminmax (d : BitVec 6) (a : BitVec 6) (b : BitVec 6) (f : BitVec 3) (h : BitVec 2)
  /-- FABSNEG (R132). -/
  | fabsneg (d : BitVec 6) (a : BitVec 6) (f : BitVec 3) (h : BitVec 1)
  /-- FCLASS (R133). -/
  | fclass (d : BitVec 6) (a : BitVec 6) (f : BitVec 3) (h : BitVec 1)
  /-- FRND (R134). -/
  | frnd (d : BitVec 6) (a : BitVec 6) (f : BitVec 3) (h : BitVec 1)
  /-- CVT (R137). -/
  | cvt (d : BitVec 6) (a : BitVec 6) (f : BitVec 6) (t : BitVec 6)
  /-- FDIV (R136). -/
  | fdiv (d : BitVec 6) (a : BitVec 6) (b : BitVec 6) (f : BitVec 3) (h : BitVec 2)
  /-- SFU (R136). -/
  | sfu (d : BitVec 6) (a : BitVec 6) (f : BitVec 3) (h : BitVec 1)
  /-- SFD (R136). -/
  | sfd (d : BitVec 6) (a : BitVec 6) (f : BitVec 3) (h : BitVec 1)
  /-- LGMUL (R138). -/
  | lgmul (d : BitVec 6) (a : BitVec 6) (b : BitVec 6) (h : BitVec 2)
  /-- LGDOT (R139). -/
  | lgdot (d : BitVec 6) (a : BitVec 6) (b : BitVec 6) (h : BitVec 2)
  /-- FSCL (R135). -/
  | fscl (d : BitVec 6) (a : BitVec 6) (b : BitVec 6) (f : BitVec 3) (h : BitVec 2)
  /-- SMXA (R141). -/
  | smxa (d : BitVec 6) (a : BitVec 6) (h : BitVec 1)
  /-- SMXB (R142). -/
  | smxb (d : BitVec 6) (a : BitVec 6) (b : BitVec 6) (f : BitVec 3) (h : BitVec 2)
  /-- TAGSET (R143). -/
  | tagset (d : BitVec 6) (a : BitVec 6) (t : BitVec 4)
  /-- TAGGET (R144). -/
  | tagget (d : BitVec 6) (a : BitVec 6) (h : BitVec 1)
  /-- SHFL (R106). -/
  | shfl (d : BitVec 6) (a : BitVec 6) (b : BitVec 6) (f : BitVec 3) (h : BitVec 2)
  /-- BALLOT (R107). -/
  | ballot (m : BitVec 3) (a : BitVec 6) (h : BitVec 1)
  /-- RED (R108). -/
  | red (d : BitVec 6) (a : BitVec 6) (f : BitVec 3) (h : BitVec 1)
  /-- SCAN (R109). -/
  | scan (d : BitVec 6) (a : BitVec 6) (f : BitVec 3) (h : BitVec 1)
  /-- ELECT (R107). -/
  | elect (m : BitVec 3)
  /-- LVIDX (R191). -/
  | lvidx (d : BitVec 6) (k : BitVec 2)
  /-- LVEXT (R191). -/
  | lvext (d : BitVec 6) (k : BitVec 2)
  /-- LVRED (R195). -/
  | lvred (d : BitVec 6) (a : BitVec 6) (k : BitVec 2) (f : BitVec 3) (h : BitVec 1)
  /-- LVBAR (R189). -/
  | lvbar (k : BitVec 2) (o : BitVec 20)
  /-- LVEND (R189). -/
  | lvend (k : BitVec 2) (o : BitVec 20)
  /-- LVSHARE (R193). -/
  | lvshare (d : BitVec 6) (n : BitVec 8)
  /-- LVCARRY (R193). -/
  | lvcarry (d : BitVec 6) (k : BitVec 2)
  /-- LVLEAD (R196). -/
  | lvlead (m : BitVec 3) (k : BitVec 2)
  /-- BR (R102). -/
  | br (m : BitVec 3) (s : BitVec 1) (o : BitVec 20)
  /-- CALL (R102). -/
  | call (m : BitVec 3) (s : BitVec 1) (o : BitVec 20)
  /-- JMP (R103). -/
  | jmp (a : BitVec 6)
  /-- CALLR (R103). -/
  | callr (a : BitVec 6)
  /-- RET (R105). -/
  | ret
  /-- ENTER (R104). -/
  | enter (o : BitVec 6) (n : BitVec 6)
  /-- EXIT (R105). -/
  | exit
  /-- BRW (R102). -/
  | brw (m : BitVec 3) (s : BitVec 1) (o : BitVec 20)
  /-- YIELD (R344). -/
  | yield (h : BitVec 6)
  /-- NOP (R105). -/
  | nop
  /-- MARK (R285). -/
  | mark (t : BitVec 12)
  /-- CUT (R286). -/
  | cut (d : BitVec 6) (a : BitVec 6) (t : BitVec 12)
  /-- GRAFT (R287). -/
  | graft (a : BitVec 6) (b : BitVec 6) (h : BitVec 2)
  /-- UNMARK (R285). -/
  | unmark (t : BitVec 12)
  /-- SLSHARE (R290). -/
  | slshare (a : BitVec 6)
  /-- SLFREE (R290). -/
  | slfree (a : BitVec 6)
  /-- SLINFO (R291). -/
  | slinfo (d : BitVec 6) (a : BitVec 6)
  /-- LD8S (R166). -/
  | ld8s (d : BitVec 6) (a : BitVec 6) (o : BitVec 8) (q : BitVec 4)
  /-- LD8Z (R166). -/
  | ld8z (d : BitVec 6) (a : BitVec 6) (o : BitVec 8) (q : BitVec 4)
  /-- LD16S (R166). -/
  | ld16s (d : BitVec 6) (a : BitVec 6) (o : BitVec 8) (q : BitVec 4)
  /-- LD16Z (R166). -/
  | ld16z (d : BitVec 6) (a : BitVec 6) (o : BitVec 8) (q : BitVec 4)
  /-- LD32 (R166). -/
  | ld32 (d : BitVec 6) (a : BitVec 6) (o : BitVec 8) (q : BitVec 4)
  /-- LD64 (R166). -/
  | ld64 (d : BitVec 6) (a : BitVec 6) (o : BitVec 8) (q : BitVec 4)
  /-- LD128 (R166). -/
  | ld128 (d : BitVec 6) (a : BitVec 6) (o : BitVec 8) (q : BitVec 4)
  /-- ST8 (R167). -/
  | st8 (d : BitVec 6) (a : BitVec 6) (o : BitVec 8) (q : BitVec 4)
  /-- ST16 (R167). -/
  | st16 (d : BitVec 6) (a : BitVec 6) (o : BitVec 8) (q : BitVec 4)
  /-- ST32 (R167). -/
  | st32 (d : BitVec 6) (a : BitVec 6) (o : BitVec 8) (q : BitVec 4)
  /-- ST64 (R167). -/
  | st64 (d : BitVec 6) (a : BitVec 6) (o : BitVec 8) (q : BitVec 4)
  /-- ST128 (R167). -/
  | st128 (d : BitVec 6) (a : BitVec 6) (o : BitVec 8) (q : BitVec 4)
  /-- ATOM (R169). -/
  | atom (d : BitVec 6) (a : BitVec 6) (p : BitVec 4) (t : BitVec 4) (q : BitVec 4)
  /-- ATOMR (R169). -/
  | atomr (d : BitVec 6) (a : BitVec 6) (p : BitVec 4) (t : BitVec 4) (q : BitVec 4)
  /-- PREFETCH (R171). -/
  | prefetch (a : BitVec 6) (o : BitVec 8) (q : BitVec 4)
  /-- AWAIT (R170). -/
  | await (d : BitVec 6) (a : BitVec 6) (o : BitVec 8) (q : BitVec 4)
  /-- FENCE (R172). -/
  | fence (s : BitVec 4) (k : BitVec 2) (l : BitVec 1) (q : BitVec 4)
  /-- XFENCE (R173). -/
  | xfence (s : BitVec 4) (b : BitVec 4) (c : BitVec 4)
  /-- PREFIX (R31). -/
  | prefixWord (c : BitVec 6) (m : BitVec 3) (e : BitVec 1) (z : BitVec 1) (r : BitVec 3) (s : BitVec 1)
  /-- UADD (R145). -/
  | uadd (d : BitVec 6) (a : BitVec 6) (b : BitVec 6) (f : BitVec 6)
  /-- USUB (R145). -/
  | usub (d : BitVec 6) (a : BitVec 6) (b : BitVec 6) (f : BitVec 6)
  /-- UMUL (R145). -/
  | umul (d : BitVec 6) (a : BitVec 6) (b : BitVec 6) (f : BitVec 6)
  /-- UMINMAX (R145). -/
  | uminmax (d : BitVec 6) (a : BitVec 6) (b : BitVec 6) (f : BitVec 6)
  /-- ULOGIC (R145). -/
  | ulogic (d : BitVec 6) (a : BitVec 6) (b : BitVec 6) (f : BitVec 6)
  /-- USHIFT (R145). -/
  | ushift (d : BitVec 6) (a : BitVec 6) (b : BitVec 6) (f : BitVec 6)
  /-- UBITS (R145). -/
  | ubits (d : BitVec 6) (a : BitVec 6) (f : BitVec 6)
  /-- UCMP (R146). -/
  | ucmp (d : BitVec 6) (a : BitVec 6) (b : BitVec 6) (c : BitVec 3) (t : BitVec 3)
  /-- UMOV (R145). -/
  | umov (d : BitVec 6) (a : BitVec 6) (f : BitVec 6)
  /-- ULI (R147). -/
  | uli (d : BitVec 6) (i : BitVec 18)
  /-- ULIH (R147). -/
  | ulih (d : BitVec 6) (i : BitVec 18)
  /-- UADDI (R147). -/
  | uaddi (d : BitVec 6) (a : BitVec 6) (i : BitVec 12)
  /-- MLOGIC (R110). -/
  | mlogic (d : BitVec 3) (a : BitVec 3) (b : BitVec 3) (f : BitVec 6)
  /-- MPOPC (R110). -/
  | mpopc (d : BitVec 6) (a : BitVec 3)
  /-- MTOS (R110). -/
  | mtos (d : BitVec 6) (a : BitVec 3)
  /-- STOM (R110). -/
  | stom (d : BitVec 3) (a : BitVec 6)
  /-- MFIRST (R110). -/
  | mfirst (d : BitVec 6) (a : BitVec 3)
  /-- ULANE (R111). -/
  | ulane (d : BitVec 6) (a : BitVec 6) (n : BitVec 6)
  /-- ULD32 (R168). -/
  | uld32 (d : BitVec 6) (a : BitVec 6) (o : BitVec 8) (q : BitVec 4)
  /-- ULD64 (R168). -/
  | uld64 (d : BitVec 6) (a : BitVec 6) (o : BitVec 8) (q : BitVec 4)
  /-- UST32 (R168). -/
  | ust32 (d : BitVec 6) (a : BitVec 6) (o : BitVec 8) (q : BitVec 4)
  /-- UST64 (R168). -/
  | ust64 (d : BitVec 6) (a : BitVec 6) (o : BitVec 8) (q : BitVec 4)
  /-- RGROW (R112). -/
  | rgrow (n : BitVec 6)
  /-- RGROW_TRY (R112). -/
  | rgrowTry (d : BitVec 6) (n : BitVec 6)
  /-- RSHRINK (R112). -/
  | rshrink (n : BitVec 6)
  /-- CPY (R257). -/
  | cpy (d : BitVec 6) (a : BitVec 6)
  /-- MMPOST (R262). -/
  | mmpost (d : BitVec 6) (a : BitVec 6)
  /-- MMFENCE (R266). -/
  | mmfence
  /-- TWAIT (R267). -/
  | twait (a : BitVec 6)
  /-- COLL (R270). -/
  | coll (d : BitVec 6) (a : BitVec 6)
  /-- STAMP (R273). -/
  | stamp (c : BitVec 12)
  /-- SMAP_RW (R245). -/
  | smapRw (d : BitVec 6) (a : BitVec 6) (b : BitVec 6) (q : BitVec 4)
  /-- SMAP_RO (R245). -/
  | smapRo (d : BitVec 6) (a : BitVec 6) (b : BitVec 6) (q : BitVec 4)
  /-- SMAP_SCRATCH (R245). -/
  | smapScratch (d : BitVec 6) (b : BitVec 6)
  /-- SUNMAP (R246). -/
  | sunmap (a : BitVec 6)
  /-- SFLUSH (R247). -/
  | sflush (a : BitVec 6) (b : BitVec 6)
  /-- SINV (R247). -/
  | sinv (a : BitVec 6) (b : BitVec 6)
  /-- SSTAT (R248). -/
  | sstat (d : BitVec 6) (a : BitVec 6) (s : BitVec 6)
  /-- BINIT (R223). -/
  | binit (a : BitVec 6) (l : BitVec 2) (n : BitVec 4)
  /-- BARRIVE (R224). -/
  | barrive (d : BitVec 6) (l : BitVec 2) (n : BitVec 4)
  /-- BWAIT (R224). -/
  | bwait (a : BitVec 6) (l : BitVec 2) (n : BitVec 4)
  /-- BSYNC (R224). -/
  | bsync (l : BitVec 2) (n : BitVec 4)
  /-- BPAY (R227). -/
  | bpay (d : BitVec 6) (a : BitVec 6) (p : BitVec 3) (l : BitVec 2) (n : BitVec 4)
  /-- HCFG (R304). -/
  | hcfg (a : BitVec 6) (m : BitVec 3)
  /-- HREF (R305). -/
  | href (a : BitVec 6) (m : BitVec 3)
  /-- HRD (R306). -/
  | hrd (d : BitVec 6) (a : BitVec 6) (m : BitVec 3)
  /-- HARM (R307). -/
  | harm (a : BitVec 6) (m : BitVec 3)
  /-- HCHK (R308). -/
  | hchk (d : BitVec 6) (m : BitVec 3)
  /-- VSTAT (R217). -/
  | vstat (d : BitVec 6) (s : BitVec 12)
  /-- NLAUNCH (R197). -/
  | nlaunch (a : BitVec 6)
  /-- SIGW (R386). -/
  | sigw (a : BitVec 6)
  /-- TRAP (R360). -/
  | trap (n : BitVec 4)
  /-- BKPT (R360). -/
  | bkpt
  /-- RETT (R359). -/
  | rett
  /-- SRD (R361). -/
  | srd (d : BitVec 6) (r : BitVec 12)
  /-- SWR (R361). -/
  | swr (a : BitVec 6) (r : BitVec 12)
  /-- ICINV (R369). -/
  | icinv (a : BitVec 6) (s : BitVec 3)
  /-- ICINV_ALL (R369). -/
  | icinvAll (s : BitVec 3)
  /-- TLBINV_ALL (R333). -/
  | tlbinvAll
  /-- TLBINV_ASID (R333). -/
  | tlbinvAsid (b : BitVec 6)
  /-- TLBINV_VA (R333). -/
  | tlbinvVa (a : BitVec 6) (b : BitVec 6)
  /-- HLRD (R357). -/
  | hlrd (d : BitVec 6) (a : BitVec 6) (c : BitVec 6)
  /-- HLWR (R358). -/
  | hlwr (d : BitVec 6) (a : BitVec 6) (b : BitVec 6) (c : BitVec 6)
  /-- FSTAT_WRITE (R59). -/
  | fstatWrite (bundle : Nat) (lanes : BitVec 64) (value : BitVec 32)
  /-- BSTAT_WRITE (R88). -/
  | bstatWrite (bundle : Nat) (value : BitVec 32)
  /-- TAGMODE_WRITE (R80). -/
  | tagmodeWrite (asid : BitVec 16) (value : BitVec 32)
  /-- LEASH_WRITE (R91). -/
  | leashWrite (asid : BitVec 16) (value : BitVec 32)
  /-- STREAMCFG_WRITE (R150). -/
  | streamcfgWrite (asid : BitVec 16) (n : BitVec 4) (value : BitVec 32)
  /-- HENTRY_WRITE (R371). -/
  | hentryWrite (asid : BitVec 16) (value : BitVec 64)
  /-- INJECT_WRITE (R317). -/
  | injectWrite (asid : BitVec 16) (value : BitVec 64)
  /-- COMPLETION_FLAG_CLEAR (R35). -/
  | completionFlagClear (bundle : Nat) (op : Nat)
  /-- LEASH_ROTATE (R90). -/
  | leashRotate (bundle : Nat)
  /-- LEASH_TURN_END (R90). -/
  | leashTurnEnd (bundle : Nat)
  /-- RGROW_GRANT (R112). -/
  | rgrowGrant (place : Nat) (sub : Nat)
  /-- MEMORY_ACCESS_PERFORMED (R152). -/
  | memoryAccessPerformed (bundle : Nat) (lane : Nat) (item : Nat)
  /-- AWAIT_REREAD (R170). -/
  | awaitReread (bundle : Nat) (lane : Nat)
  /-- STASH_FILL_ARRIVES (R239). -/
  | stashFillArrives (team : Nat) (window : Nat) (line : Nat)
  /-- STASH_RECALL (R239). -/
  | stashRecall (team : Nat) (window : Nat) (line : Nat) (store : Bool)
  /-- STASH_WRITEBACK_ACK (R239). -/
  | stashWritebackAck (team : Nat) (window : Nat) (line : Nat)
  /-- STASH_WRITEBACK_TIMEOUT (R240). -/
  | stashWritebackTimeout (team : Nat) (window : Nat) (line : Nat)
  /-- UNCORRECTABLE_ERROR (R243). -/
  | uncorrectableError (team : Nat) (window : Nat) (line : Nat)
  /-- ENGINE_COMMAND_QUEUED (R252). -/
  | engineCommandQueued (bundle : Nat)
  /-- COPY_START (R257). -/
  | copyStart (cmd : Nat)
  /-- COPY_DONE (R258). -/
  | copyDone (cmd : Nat)
  /-- MATRIX_TURN (R262). -/
  | matrixTurn (cmd : Nat)
  /-- MATRIX_DONE (R262). -/
  | matrixDone (cmd : Nat)
  /-- COLLECTIVE_DONE (R270). -/
  | collectiveDone (cmd : Nat) (result : BitVec 3) (flags : BitVec 5)
  /-- TEAM_PLACED (R208). -/
  | teamPlaced (pack : Nat) (origin : Nat)
  /-- TEAM_PUBLISH (R208). -/
  | teamPublish (team : Nat)
  /-- TEAM_KILL (R209). -/
  | teamKill (team : Nat) (cause : BitVec 8)
  /-- PAGE_WALK_COMPLETE (R328). -/
  | pageWalkComplete (asid : BitVec 16) (va : BitVec 64) (store : Bool)
  /-- PAGE_FAULT_RECORD_POST (R332). -/
  | pageFaultRecordPost (ticket : BitVec 32)
  /-- RESUME_REPLAY (R330). -/
  | resumeReplay (ring : Nat) (ticket : BitVec 32)
  /-- RESUME_DELIVER (R330). -/
  | resumeDeliver (ring : Nat) (ticket : BitVec 32)
  /-- TLBREQ_ALL (R398). -/
  | tlbreqAll
  /-- TLBREQ_ASID (R398). -/
  | tlbreqAsid (asid : BitVec 16)
  /-- TLBREQ_VA (R398). -/
  | tlbreqVa (asid : BitVec 16) (va : BitVec 64)
  /-- HANDLER_EVENT_START (R353). -/
  | handlerEventStart (bundle : Nat)
  /-- STEP (R365). -/
  | step (bundle : Nat)
  /-- WHISTLE_RAISE (R339). -/
  | whistleRaise (asid : BitVec 16) (part : Nat)
  /-- WHISTLE_DEADLINE (R337). -/
  | whistleDeadline (asid : BitVec 16) (part : Nat)
  /-- CONTEXT_SAVE_DONE (R341). -/
  | contextSaveDone (asid : BitVec 16) (part : Nat)
  /-- KENNEL_EVICT (R337). -/
  | kennelEvict (asid : BitVec 16) (part : Nat)
  /-- KENNEL_STAGE (R337). -/
  | kennelStage (asid : BitVec 16) (part : Nat) (target : Nat)
  /-- CONTEXT_RESUME (R346). -/
  | contextResume (asid : BitVec 16) (part : Nat) (target : Nat)
  /-- RESTORE_DONE (R337). -/
  | restoreDone (asid : BitVec 16) (part : Nat) (badTeams : List Nat)
  /-- DOORBELL (R383). -/
  | doorbell (qid : Nat)
  /-- KICK_SERVICE (R383). -/
  | kickService (qid : Nat)
  /-- LAUNCH (R380). -/
  | launch (qid : Nat)
  /-- BARRIER_AND (R384). -/
  | barrierAnd (qid : Nat)
  /-- BARRIER_OR (R384). -/
  | barrierOr (qid : Nat)
  /-- SIGNAL (R384). -/
  | signal (qid : Nat)
  /-- NOP_PACKET (R384). -/
  | nopPacket (qid : Nat)
  /-- SIGNAL_RESCAN (R385). -/
  | signalRescan
  /-- CREATE_CONTEXT (R335). -/
  | createContext
  /-- DESTROY_CONTEXT (R337). -/
  | destroyContext
  /-- CREATE_QUEUE (R377). -/
  | createQueue
  /-- START_QUEUE (R377). -/
  | startQueue
  /-- SUSPEND_QUEUE (R377). -/
  | suspendQueue
  /-- DESTROY_QUEUE (R392). -/
  | destroyQueue
  /-- GRANT (R391). -/
  | grant
  /-- USAGE (R390). -/
  | usage
  /-- LOAD_UPDATE (R397). -/
  | loadUpdate
  /-- ROLE_EXCHANGE (R397). -/
  | roleExchange
  /-- SHEPHERD_TAKEOVER (R396). -/
  | shepherdTakeover
  /-- LINK_ENABLE (R400). -/
  | linkEnable (link : Nat)
  /-- LINK_RESET (R401). -/
  | linkReset (link : Nat)
  /-- LINK_RETRAIN (R401). -/
  | linkRetrain (link : Nat)
  /-- LINK_TRAINED (R400). -/
  | linkTrained (link : Nat) (lanes : BitVec 4) (node : BitVec 9)
  /-- TRAINING_TIMEOUT (R400). -/
  | trainingTimeout (link : Nat)
  /-- LANE_FAIL (R400). -/
  | laneFail (link : Nat) (lanes : BitVec 4)
  /-- FLIT_RETRY (R400). -/
  | flitRetry (link : Nat) (count : BitVec 32)
  /-- LINK_FENCE (R403). -/
  | linkFence (link : Nat)
  /-- REMOTE_TIMEOUT (R403). -/
  | remoteTimeout (link : Nat)
  /-- REMOTE_REQUEST (R402). -/
  | remoteRequest (node : BitVec 9) (kind : BitVec 2) (op : BitVec 4) (ty : BitVec 4) (size : Nat) (pa : BitVec 64) (value : BitVec 128) (compare : BitVec 128)
  /-- ETH_DOORBELL (R405). -/
  | ethDoorbell (port : Nat) (ring : Nat) (value : BitVec 32)
  /-- ETH_COMPLETION (R406). -/
  | ethCompletion (port : Nat) (work : Nat) (status : BitVec 7) (count : BitVec 32) (imm : BitVec 32)
  /-- ETH_FRAME_RECEIVE (R406). -/
  | ethFrameReceive (port : Nat) (work : Nat) (qpn : BitVec 24) (frame : List (BitVec 8)) (imm : BitVec 32)
  /-- BOOT (R409). -/
  | boot
  /-- FUSEREQ (R415). -/
  | fusereq (value : BitVec 64)
  /-- ATTEST (R416). -/
  | attest
  /-- DEBUG_HALT (R370). -/
  | debugHalt
  /-- DEBUG_RESUME (R370). -/
  | debugResume
  /-- SITTER_EXPIRY (R370). -/
  | sitterExpiry
  /-- POWER_SAMPLE (R417). -/
  | powerSample (watts : BitVec 16)
  /-- THERMAL_LIMIT (R417). -/
  | thermalLimit (die : Nat)
  /-- REGISTER_WRITE (R398). -/
  | registerWrite (offset : BitVec 39) (value : BitVec 64)
  /-- ILLEGAL_OPCODE (R46). -/
  | illegalOpcode
  /-- PCIE_HOST_ACCESS (R408). -/
  | pcieHostAccess (store : Bool) (bar : BitVec 3) (offset : BitVec 64) (size : Nat) (value : BitVec 128)
  /-- SYSTEM_CORE_ACCESS (R148). -/
  | systemCoreAccess (kind : BitVec 2) (op : BitVec 4) (ty : BitVec 4) (size : Nat) (pa : BitVec 64) (value : BitVec 128) (compare : BitVec 128)
  /-- ETH_LINK_CHANGE (R407). -/
  | ethLinkChange (port : Nat) (up : Bool)
  deriving DecidableEq, Repr

/-- The instruction names an encoded word; the other constructors are events of the device that no word encodes. -/
def Instr.encoded : Instr → Bool
  | .add _ _ _ _ _ => true
  | .sub _ _ _ _ _ => true
  | .mul _ _ _ _ _ => true
  | .mulh _ _ _ _ _ => true
  | .mad _ _ _ _ _ => true
  | .div _ _ _ _ _ => true
  | .rem _ _ _ _ _ => true
  | .minmax _ _ _ _ _ => true
  | .absneg _ _ _ _ => true
  | .logic _ _ _ _ _ => true
  | .shift _ _ _ _ _ => true
  | .bits _ _ _ _ => true
  | .bfx _ _ _ _ _ => true
  | .bfi _ _ _ _ => true
  | .cmp _ _ _ _ _ _ => true
  | .sel _ _ _ _ _ => true
  | .mov _ _ _ _ => true
  | .movs _ _ _ => true
  | .li _ _ => true
  | .lih _ _ => true
  | .addi _ _ _ => true
  | .fadd _ _ _ _ _ => true
  | .fsub _ _ _ _ _ => true
  | .fmul _ _ _ _ _ => true
  | .fma _ _ _ _ _ => true
  | .fminmax _ _ _ _ _ => true
  | .fabsneg _ _ _ _ => true
  | .fclass _ _ _ _ => true
  | .frnd _ _ _ _ => true
  | .cvt _ _ _ _ => true
  | .fdiv _ _ _ _ _ => true
  | .sfu _ _ _ _ => true
  | .sfd _ _ _ _ => true
  | .lgmul _ _ _ _ => true
  | .lgdot _ _ _ _ => true
  | .fscl _ _ _ _ _ => true
  | .smxa _ _ _ => true
  | .smxb _ _ _ _ _ => true
  | .tagset _ _ _ => true
  | .tagget _ _ _ => true
  | .shfl _ _ _ _ _ => true
  | .ballot _ _ _ => true
  | .red _ _ _ _ => true
  | .scan _ _ _ _ => true
  | .elect _ => true
  | .lvidx _ _ => true
  | .lvext _ _ => true
  | .lvred _ _ _ _ _ => true
  | .lvbar _ _ => true
  | .lvend _ _ => true
  | .lvshare _ _ => true
  | .lvcarry _ _ => true
  | .lvlead _ _ => true
  | .br _ _ _ => true
  | .call _ _ _ => true
  | .jmp _ => true
  | .callr _ => true
  | .ret => true
  | .enter _ _ => true
  | .exit => true
  | .brw _ _ _ => true
  | .yield _ => true
  | .nop => true
  | .mark _ => true
  | .cut _ _ _ => true
  | .graft _ _ _ => true
  | .unmark _ => true
  | .slshare _ => true
  | .slfree _ => true
  | .slinfo _ _ => true
  | .ld8s _ _ _ _ => true
  | .ld8z _ _ _ _ => true
  | .ld16s _ _ _ _ => true
  | .ld16z _ _ _ _ => true
  | .ld32 _ _ _ _ => true
  | .ld64 _ _ _ _ => true
  | .ld128 _ _ _ _ => true
  | .st8 _ _ _ _ => true
  | .st16 _ _ _ _ => true
  | .st32 _ _ _ _ => true
  | .st64 _ _ _ _ => true
  | .st128 _ _ _ _ => true
  | .atom _ _ _ _ _ => true
  | .atomr _ _ _ _ _ => true
  | .prefetch _ _ _ => true
  | .await _ _ _ _ => true
  | .fence _ _ _ _ => true
  | .xfence _ _ _ => true
  | .prefixWord _ _ _ _ _ _ => true
  | .uadd _ _ _ _ => true
  | .usub _ _ _ _ => true
  | .umul _ _ _ _ => true
  | .uminmax _ _ _ _ => true
  | .ulogic _ _ _ _ => true
  | .ushift _ _ _ _ => true
  | .ubits _ _ _ => true
  | .ucmp _ _ _ _ _ => true
  | .umov _ _ _ => true
  | .uli _ _ => true
  | .ulih _ _ => true
  | .uaddi _ _ _ => true
  | .mlogic _ _ _ _ => true
  | .mpopc _ _ => true
  | .mtos _ _ => true
  | .stom _ _ => true
  | .mfirst _ _ => true
  | .ulane _ _ _ => true
  | .uld32 _ _ _ _ => true
  | .uld64 _ _ _ _ => true
  | .ust32 _ _ _ _ => true
  | .ust64 _ _ _ _ => true
  | .rgrow _ => true
  | .rgrowTry _ _ => true
  | .rshrink _ => true
  | .cpy _ _ => true
  | .mmpost _ _ => true
  | .mmfence => true
  | .twait _ => true
  | .coll _ _ => true
  | .stamp _ => true
  | .smapRw _ _ _ _ => true
  | .smapRo _ _ _ _ => true
  | .smapScratch _ _ => true
  | .sunmap _ => true
  | .sflush _ _ => true
  | .sinv _ _ => true
  | .sstat _ _ _ => true
  | .binit _ _ _ => true
  | .barrive _ _ _ => true
  | .bwait _ _ _ => true
  | .bsync _ _ => true
  | .bpay _ _ _ _ _ => true
  | .hcfg _ _ => true
  | .href _ _ => true
  | .hrd _ _ _ => true
  | .harm _ _ => true
  | .hchk _ _ => true
  | .vstat _ _ => true
  | .nlaunch _ => true
  | .sigw _ => true
  | .trap _ => true
  | .bkpt => true
  | .rett => true
  | .srd _ _ => true
  | .swr _ _ => true
  | .icinv _ _ => true
  | .icinvAll _ => true
  | .tlbinvAll => true
  | .tlbinvAsid _ => true
  | .tlbinvVa _ _ => true
  | .hlrd _ _ _ => true
  | .hlwr _ _ _ _ => true
  | .fstatWrite _ _ _ => false
  | .bstatWrite _ _ => false
  | .tagmodeWrite _ _ => false
  | .leashWrite _ _ => false
  | .streamcfgWrite _ _ _ => false
  | .hentryWrite _ _ => false
  | .injectWrite _ _ => false
  | .completionFlagClear _ _ => false
  | .leashRotate _ => false
  | .leashTurnEnd _ => false
  | .rgrowGrant _ _ => false
  | .memoryAccessPerformed _ _ _ => false
  | .awaitReread _ _ => false
  | .stashFillArrives _ _ _ => false
  | .stashRecall _ _ _ _ => false
  | .stashWritebackAck _ _ _ => false
  | .stashWritebackTimeout _ _ _ => false
  | .uncorrectableError _ _ _ => false
  | .engineCommandQueued _ => false
  | .copyStart _ => false
  | .copyDone _ => false
  | .matrixTurn _ => false
  | .matrixDone _ => false
  | .collectiveDone _ _ _ => false
  | .teamPlaced _ _ => false
  | .teamPublish _ => false
  | .teamKill _ _ => false
  | .pageWalkComplete _ _ _ => false
  | .pageFaultRecordPost _ => false
  | .resumeReplay _ _ => false
  | .resumeDeliver _ _ => false
  | .tlbreqAll => false
  | .tlbreqAsid _ => false
  | .tlbreqVa _ _ => false
  | .handlerEventStart _ => false
  | .step _ => false
  | .whistleRaise _ _ => false
  | .whistleDeadline _ _ => false
  | .contextSaveDone _ _ => false
  | .kennelEvict _ _ => false
  | .kennelStage _ _ _ => false
  | .contextResume _ _ _ => false
  | .restoreDone _ _ _ => false
  | .doorbell _ => false
  | .kickService _ => false
  | .launch _ => false
  | .barrierAnd _ => false
  | .barrierOr _ => false
  | .signal _ => false
  | .nopPacket _ => false
  | .signalRescan => false
  | .createContext => false
  | .destroyContext => false
  | .createQueue => false
  | .startQueue => false
  | .suspendQueue => false
  | .destroyQueue => false
  | .grant => false
  | .usage => false
  | .loadUpdate => false
  | .roleExchange => false
  | .shepherdTakeover => false
  | .linkEnable _ => false
  | .linkReset _ => false
  | .linkRetrain _ => false
  | .linkTrained _ _ _ => false
  | .trainingTimeout _ => false
  | .laneFail _ _ => false
  | .flitRetry _ _ => false
  | .linkFence _ => false
  | .remoteTimeout _ => false
  | .remoteRequest _ _ _ _ _ _ _ _ => false
  | .ethDoorbell _ _ _ => false
  | .ethCompletion _ _ _ _ _ => false
  | .ethFrameReceive _ _ _ _ _ => false
  | .boot => false
  | .fusereq _ => false
  | .attest => false
  | .debugHalt => false
  | .debugResume => false
  | .sitterExpiry => false
  | .powerSample _ => false
  | .thermalLimit _ => false
  | .registerWrite _ _ => false
  | .illegalOpcode => false
  | .pcieHostAccess _ _ _ _ _ => false
  | .systemCoreAccess _ _ _ _ _ _ _ => false
  | .ethLinkChange _ _ => false

end Sys2Proof
end

