-- ==== Sys2Proof/Machine/State.lean ====
section
/-! DEFINITION. The state of a Flesia Keten package: all that the spec gives the machine, as plain data, and the state after
reset. Fields marked MODEL'S OWN are scheduling data of the model and stand for no register of the spec (assumptions 2, 3). -/
namespace Sys2Proof.Machine

/-- Memory as a list of (address, byte) cells in canonical form (see Memory.wf). Addresses are local physical offsets
(R321) where the list is main memory, and offsets or physical addresses of a team elsewhere. -/
abbrev Memory := List Host.Cell

/-- Addresses rise strictly, and no cell equals what an unlisted address reads as. -/
def Memory.wf : Memory → Bool
  | [] => true
  | [(_, b)] => b != Config.freshByte
  | (a, b) :: (a', b') :: m => b != Config.freshByte && a < a' && Memory.wf ((a', b') :: m)

/-! ### Registers and tags -/

/-- The format tags of R76; the reserved codes 0xA to 0xD are never produced. -/
inductive Tag where
  | raw | int | w64 | f32 | f64 | bf16x2 | f16x2 | e4m3x4 | e5m2x4 | lg6x5 | pend | empty
  deriving DecidableEq, Repr

/-- A register: its contents and its tag, which change together (R76). -/
structure Reg where
  val : Word
  tag : Tag
  deriving DecidableEq, Repr

/-- A register that nothing has written since its thread or bundle was created (R79). -/
def Reg.fresh : Reg := ⟨0, .empty⟩

/-! ### Threads (R83) -/

/-- What a trap tells: the fields of the fault record (R349), the record's PC where it is not the trap PC (R155), and, for
PAGE_NOT_PRESENT, the bits of ACCESS and the REASON of R328. -/
structure TrapInfo where
  cause : BitVec 8
  reg : BitVec 8
  addr : DWord
  size : Nat
  bmask : BitVec 16
  stream : Nat
  aux : Nat
  okind : Nat
  other : DWord
  pc : Option DWord
  access : BitVec 16
  reason : Nat
  deriving DecidableEq, Repr

/-- Where the increment that a `graft` has made of INPROG stands (R287): the address of SYNC, and its home, as stash lines name homes,
with the version that it acts in; none while a line or a SCRATCH window of the team alone holds it. -/
structure SyncHome where
  va : DWord
  off : Option Nat
  ver : Option Nat
  deriving DecidableEq, Repr

/-- What a WAITING thread waits for (R85). -/
inductive Wait where
  /-- The release of a generation: `bwait`, `bsync` (R224). -/
  | barrier (pack : Bool) (num : Nat) (gen : Word)
  /-- The level barrier that a fall-through of `lvbar` (`bar`) or `lvend` waits at (R189). -/
  | level (k : Nat) (bar : Bool)
  /-- The completion of the command whose token pair is named (R267). -/
  | token (reg : Nat)
  /-- A grant of registers (R112). -/
  | grow
  /-- A save of the part, with the liveness hint (R344). -/
  | yield (hint : Nat)
  /-- A posting word in CHECKING (R252). -/
  | posting
  /-- The completion of the word's own operation: of `sunmap` (R246), `mmfence` (R266), `tlbinv` (R333) and the slice words
  (R286 to R291). `lanes` is the set that issued the word `i`, and `args` are the uniform operands that it read; `home` is the increment of
INPROG that a `graft` of the lane has made (R287). -/
  | word (lanes : BitVec 64) (i : Instr) (args : List DWord) (home : Option SyncHome)
  deriving DecidableEq, Repr

/-- Why a thread is PARKED (R83). -/
inductive ParkReason where
  | await | trap | handler
  deriving DecidableEq, Repr

/-- The state of a thread (R85). -/
inductive TState where
  | ready
  | waiting (w : Wait)
  | parked (r : ParkReason)
  | exited
  deriving DecidableEq, Repr

/-- The frame engine's copy of a frame's header (R99), and the frame's own FP. -/
structure Frame where
  fp : DWord
  cfp : DWord
  csp : DWord
  rpc : DWord
  n : Nat
  o : Nat
  nc : Nat
  deriving DecidableEq, Repr

/-- The four words of a fault record (R349). -/
structure FaultRec where
  w0 : DWord
  addr : DWord
  pc : DWord
  other : DWord
  deriving DecidableEq, Repr

/-- An `lvred` contribution (R195): level, slot, operation, destination, local iteration, value. -/
structure LvSlot where
  k : Nat
  slot : Nat
  op : Nat
  vd : Nat
  iter : Nat
  val : Word
  deriving DecidableEq, Repr

/-- A thread's pending-wait record (R219). -/
structure PWait where
  pack : Bool
  num : Nat
  gen : Word
  deriving DecidableEq, Repr

/-- A request to another node (R402): the Span link that carries it, its physical address, and CLK when it was sent. -/
structure Sent where
  link : Nat
  pa : Nat
  clk : DWord
  deriving DecidableEq, Repr

/-- A store that has issued and is not yet performed (R152). `pa` is its physical address, `ver` the team whose version it
writes, `mix` its bytes that race an access of another size (R154), `link` its request to another node, `vis` who
else sees it already (R158): 0 nobody, 1 the threads of its core, 2 those of its partition too; `llc` says that its stream has POLICY
LLCONLY. -/
structure PStore where
  stream : Nat
  va : DWord
  pa : Nat
  bytes : List Byte
  ver : Option Nat
  strong : Bool
  sizechk : Bool
  llc : Bool
  vis : Nat
  mix : BitVec 16
  link : Option Sent
  pc : DWord
  deriving DecidableEq, Repr

/-- A fence that waits for earlier accesses (R159, R162): the streams it orders earlier and later, whether later loads are
held, and whether it waits for write-backs of the team's windows (R240). -/
structure FenceMark where
  early : BitVec 16
  late : BitVec 16
  loads : Bool
  wide : Bool
  deriving DecidableEq, Repr

/-- An entry of a thread's list of outstanding accesses, in program order. -/
inductive Pending where
  | store (x : PStore)
  | fence (f : FenceMark)
  deriving DecidableEq, Repr

/-- A strong access that is performed and may still race (R154); `lanes` are the lanes of the bundle whose access it is (R157), and
`rel` is the tick at which a release of its agent has ordered it, and `own` are the streams in which that agent's later stores come
after it. -/
structure Touch where
  lanes : BitVec 64
  stream : Nat
  pa : Nat
  size : Nat
  ver : Option Nat
  store : Bool
  rel : Option Nat
  own : BitVec 16
  deriving DecidableEq, Repr

/-- A ring register bound by a matrix post (R262): its ring index, the command, whether it is an accumulator, whether the
command is DONE but not observed, and the other outcome of R78: of an accumulator, the value written meanwhile; of an operand,
the value that a write replaced. -/
structure Bound where
  idx : Nat
  cmd : Nat
  acc : Bool
  done : Bool
  alt : Option Reg
  deriving DecidableEq, Repr

/-- A thread (R83). `ring` holds the P − 8 windowed registers; ring register i is at i modulo its length. `base` is the ring
base, `lo` the lowest ring register that is resident; `holes` are those above it that a `graft` holds spilled (R287). `frames` are the frame engine's headers, the current frame first.
`fell` says that the thread reached its PC by falling through from the preceding word (R38), `plain` that the last word it
issued was plain-form code (R40), `parkAsked` that a handler park waits for its waiting word to complete (R85), `stale` that the
thread has issued since its fault record was written (R349); `recent` are its accesses that may still race (R154), and `acq` is for each
stream the tick of its last acquire. `report` is the report of R155 that waits for its next instruction boundary. `readAt` is the arithmetic
clock at which its `await` has read last (R170).
ARRIVED and EXCUSED hold bit n for team barrier n and bit 16 + n for pack barrier n (R219). -/
structure Thread where
  pc : DWord
  st : TState
  fell : Bool
  plain : Bool
  parkAsked : Bool
  unpark : Bool
  skip : Bool
  ticket : Option Nat
  fixed : List Reg
  ring : List Reg
  base : Nat
  lo : Nat
  holes : List Nat
  n : Nat
  o : Nat
  nc : Nat
  entered : Bool
  linkPc : DWord
  frames : List Frame
  fbase : DWord
  flimit : DWord
  fstat : BitVec 6
  marktop : DWord
  frec : FaultRec
  stale : Bool
  ctr : List Nat
  slots : List LvSlot
  arrived : BitVec 24
  excused : BitVec 24
  pwait : Option PWait
  out : List Pending
  recent : List Touch
  acq : List Nat
  report : Option TrapInfo
  readAt : Nat
  bound : List Bound
  deriving DecidableEq, Repr

/-! ### Engine commands (R249 to R272) -/

/-- A copy, from its shape record (R256). `dir` is 0 IN, 1 OUT, 2 PEERIN, 3 PEEROUT. -/
structure CopySpec where
  gbase : DWord
  sbase : DWord
  rows : Nat
  rbytes : Nat
  gstride : Nat
  sstride : Nat
  esize : Nat
  dir : Nat
  deriving DecidableEq, Repr

/-- A matrix post, from its parameter block (R259), with its time t (R262). -/
structure MatSpec where
  afmt : BitVec 6
  bfmt : BitVec 6
  k : Nat
  abase : Nat
  cbase : Nat
  accz : Bool
  reuse : Bool
  asrc : Bool
  astash : DWord
  bstash : DWord
  astride : Nat
  bstride : Nat
  ascoff : Nat
  bscoff : Nat
  time : Nat
  deriving DecidableEq, Repr

/-- A collective, from its block (R269), with the number of earlier collectives of the group (R270). -/
structure CollSpec where
  send : DWord
  recv : DWord
  count : Nat
  members : List (BitVec 9)
  group : Word
  rank : Nat
  kind : Nat
  rop : Nat
  fmt : BitVec 6
  number : Nat
  deriving DecidableEq, Repr

/-- What a command does. -/
inductive CmdSpec where
  | copy (c : CopySpec)
  | matrix (m : MatSpec)
  | coll (c : CollSpec)
  deriving DecidableEq, Repr

/-- The states of a command (R252); `cancelled` is a command whose team was killed. -/
inductive CmdState where
  | queued | running | suspended | done | cancelled
  deriving DecidableEq, Repr

/-- A command. `core` is the core number of R249, `cfg` the stream's entry as it stood at the post (R150), `progress` the
beats that a copy has made, `snap` the stash operands of a matrix post as they stood at its acceptance (R265), `pins` the pinned
translations of its global pages and of the pages behind its stash lines, each a page of 64 KiB with its physical address (R254), `devs` those of them that are device pages (R324),
`sent` the requests to other nodes that it may have outstanding (R403), `slot` its stamp slot, which it uses where `stamp` or `retire` is set, `observed` whether the bundle has observed it (R251), `acq` the tick of
the last acquire before it by the lanes `lanes` that posted it, and `born` that of its acceptance (R258), `orphan`
whether its team was killed while it runs on (R209), `due` the value of CLK at which a matrix post that meets no contention ends
(R271). -/
structure Cmd where
  asid : BitVec 16
  bundle : Nat
  team : Nat
  core : Nat
  seq : BitVec 48
  pc : DWord
  token : Nat
  st : CmdState
  spec : CmdSpec
  stream : Nat
  cfg : BitVec 6
  progress : Nat
  snap : List Byte
  paused : Bool
  sizeovl : Bool
  result : BitVec 3
  flags : BitVec 5
  slot : Nat
  stamp : Bool
  retire : Bool
  observed : Bool
  lanes : BitVec 64
  born : Nat
  acq : Nat
  pins : List (Nat × Nat)
  devs : List Nat
  sent : List Sent
  orphan : Bool
  due : Option DWord
  deriving DecidableEq, Repr

/-- A posting word in CHECKING (R252): its issued lanes, the command it will make, and CLK when its checks and fills were done. -/
structure Posting where
  lanes : BitVec 64
  cmd : Cmd
  ready : Option DWord
  deriving DecidableEq, Repr

/-- A stamp slot of a core for a context that is resident there (R271): CLK at its first stamp and the latest of each stamp. -/
structure StampSlot where
  asid : BitVec 16
  core : Nat
  num : Nat
  base : DWord
  times : List (Option DWord)
  deriving DecidableEq, Repr

/-! ### Bundles (R86 to R90, R350 to R368) -/

/-- An event for a handler bundle (R350). `report` holds the words of a WATCH_REPORT (R368), `cmd` the copy it pauses. -/
structure TrapEvent where
  cause : BitVec 8
  nobundle : Bool
  sub : Nat
  slot : Nat
  pc : DWord
  lanes : BitVec 64
  team : Option Nat
  report : List DWord
  lost : Nat
  cmd : Option Nat
  deriving DecidableEq, Repr

/-- The queue of a core's handler bundle: the open event and those that wait (R353). -/
structure Handler where
  current : Option TrapEvent
  queue : List TrapEvent
  deriving DecidableEq, Repr

/-- The leash of a bundle (R90): rotation mode, the counter C, and the group of the turn with the issues it has made and the
PC at which it began. -/
structure Leash where
  rot : Bool
  count : Nat
  group : BitVec 64
  turn : Nat
  start : DWord
  deriving DecidableEq, Repr

/-- A lane register that a long-latency word will write. Key n below 8 is vn, key 8 + i is ring register i. `clash` says
that another word has written it since (R37). -/
structure LateWrite where
  lane : Nat
  key : Nat
  reg : Reg
  clash : Bool
  deriving DecidableEq, Repr

/-- A lane's load that has issued and may still take another value (R158): its stream with the entry as it stood at issue (R150), its
address, where its bytes are, whether behind a device page, how it extends them (1 and 2 bytes: with the sign or with zeros), and the keys
of its destination registers. -/
structure LateLoad where
  lane : Nat
  stream : Nat
  cfg : BitVec 6
  va : DWord
  pa : Nat
  size : Nat
  ver : Option Nat
  dev : Bool
  signed : Bool
  keys : List Nat
  deriving DecidableEq, Repr

/-- An outstanding long-latency word (R35): its address, its completion flag, its lane and uniform writes, the requests
to other nodes that its loads wait for, and its loads that may still take another value. -/
structure LateOp where
  pc : DWord
  flag : Option Nat
  lanes : List LateWrite
  unis : List LateWrite
  links : List Sent
  loads : List LateLoad
  deriving DecidableEq, Repr

/-- A barrier (R219). `teams` are the teams that completed the team stage of the open generation (R225), `drift` the released
generations whose check tripped with ACTION TRAP, each with its monitor (R300), `word` the address of the word of the last
arrival (R316). -/
structure Barrier where
  gen : Word
  counting : Bool
  all : Bool
  expected : Nat
  arrcnt : Nat
  payop : Option Nat
  payload : DWord
  mixed : Bool
  teams : List Nat
  drift : List (Nat × Nat)
  word : DWord
  deriving DecidableEq, Repr

/-- A payload delivery that a bundle waits for (R227). -/
structure Delivery where
  pack : Bool
  num : Nat
  reg : Nat
  deriving DecidableEq, Repr

/-- A bundle (R87). `pid` is its part (R337); `part`, `core`, `sub` and `slot` are its place (R86), `lbars` its LANE-level barriers (R228), `late` its
outstanding long-latency words, oldest first. A handler bundle has no team; a killed team's bundle has none either, and `was` is that
team (R182, R209). `transl` is the code address of the
translation that it runs from (R41). -/
structure Bundle where
  live : Bool
  resident : Bool
  asid : BitVec 16
  team : Option Nat
  was : Option Nat
  pid : Nat
  part : Nat
  core : Nat
  sub : Nat
  slot : Nat
  w : Nat
  p : Nat
  bidx : Nat
  threads : List Thread
  s : List Reg
  m : List (BitVec 64)
  flags : BitVec 12
  late : List LateOp
  leash : Leash
  bempty : Bool
  hold : Bool
  steps : Nat
  stepping : Bool
  lbars : List Barrier
  deliver : List Delivery
  posting : Option Posting
  handler : Option Handler
  transl : Option DWord
  deriving DecidableEq, Repr

/-- A request for registers on a sub-core (R112). -/
structure GrowReq where
  place : Nat
  sub : Nat
  bundle : Nat
  lanes : BitVec 64
  n : Nat
  deriving DecidableEq, Repr

/-! ### Teams and packs (R205 to R218, R236 to R248, R295 to R312) -/

/-- The states of a stash line (R239); an INVALID line is not listed. -/
inductive LineState where
  | filling | clean | dirty | writing
  deriving DecidableEq, Repr

/-- A line of a backed window: its number, state, EXCL, home address, 128 bytes, dirty bytes, bytes written during WRITING,
whether that address is on another node (then `pa` is the physical address and 2^52 more, and else the local offset), the arithmetic clock at
which it last became DIRTY from CLEAN (R240), whether a fence waits for the bytes written during WRITING (R159), and the
request of its fill or write-back to another node (R402). -/
structure Line where
  num : Nat
  st : LineState
  excl : Bool
  pa : Nat
  remote : Bool
  data : BitVec 1024
  dirty : BitVec 128
  redirty : BitVec 128
  since : Nat
  again : Bool
  link : Option Sent
  deriving DecidableEq, Repr

/-- The modes of a window (R236). -/
inductive WinMode where
  | rw | ro | scratch
  deriving DecidableEq, Repr

/-- A stash window (R236). `direct` is the DIRECT bit of its stream recorded at `smap` (R238); `bytes` are the contents of a
SCRATCH window by offset. -/
structure Window where
  num : Nat
  base : DWord
  size : Nat
  mode : WinMode
  stream : Nat
  direct : Bool
  lines : List Line
  bytes : Memory
  deriving DecidableEq, Repr

/-- The states of a version (R310). -/
inductive VerState where
  | none | open | early | committing | published | discarded
  deriving DecidableEq, Repr

/-- A version: its state and the bytes it holds, by physical address, rising. `drain` says that it has been published early in
this step, so that the team's other writes are performed as the step ends (R311). -/
structure Version where
  st : VerState
  cells : List Host.Cell
  drain : Bool
  deriving DecidableEq, Repr

/-- The states of a monitor (R302). -/
inductive MonState where
  | unconfigured | disarmed | armed
  deriving DecidableEq, Repr

/-- A monitor (R295 to R300); `partials` are the core partials. -/
structure Monitor where
  st : MonState
  base : DWord
  limit : Nat
  bound : Nat
  stride : Nat
  foff : Nat
  stream : Nat
  fmt : Nat
  p : Nat
  level : Nat
  copy : Bool
  action : Nat
  partials : List (Nat × Int)
  ref : Int
  ovf : Bool
  part : Bool
  lasttrip : Bool
  trips : Nat
  inexact : Nat
  checks : Word
  stores : Nat
  touched : Bool
  deriving DecidableEq, Repr

/-- The states of a team (R208). -/
inductive TeamState where
  | reserved | loading | running | parked | childwait | committing | retired | killed | relaunching | failed
  deriving DecidableEq, Repr

/-- A team. `members` of its pack are held by the pack; `pid` is its part (R337); `block` is the number of the first core of its
block of `cores` cores (R206); `slot` its team slot (R336). -/
structure Team where
  launch : Nat
  asid : BitVec 16
  index : Nat
  st : TeamState
  count : Nat
  pack : Nat
  rank : Nat
  pid : Nat
  part : Nat
  block : Nat
  cores : Nat
  slot : Option Nat
  windows : List Window
  ver : Version
  bars : List Barrier
  mons : List Monitor
  deriving DecidableEq, Repr

/-- A pack barrier of one instance (R228). -/
structure PackBar where
  num : Nat
  inst : Nat
  bar : Barrier
  deriving DecidableEq, Repr

/-- A pack (R212): its shape, its teams by rank, the partition of its origin, and its barriers. A team outside any pack has
a pack of its own with `formed` false, which acts as a pack of one for barriers and monitors (R218, R295). -/
structure Pack where
  launch : Nat
  formed : Bool
  cols : Nat
  rows : Nat
  members : List Nat
  origin : Option Nat
  early : Bool
  bars : List PackBar
  deriving DecidableEq, Repr

/-! ### Launches (R174 to R200) -/

/-- The roles of R181. -/
inductive Role where
  | none | lane | bundle | team | seq
  deriving DecidableEq, Repr

/-- A launch record (R177), with its address. -/
structure LaunchRec where
  addr : DWord
  code : DWord
  ext : List Nat
  args : DWord
  shares : DWord
  signal : DWord
  crec : DWord
  sharesz : Nat
  pdiv8 : Nat
  prio : Nat
  arg16 : BitVec 16
  deriving DecidableEq, Repr

/-- A share entry (R176). -/
structure ShareEntry where
  level : Nat
  bytes : Nat
  align : Nat
  deriving DecidableEq, Repr

/-- A code object: the fields of its header (R174) and its tables. -/
structure CodeObj where
  kflags : BitVec 16
  tlimit : Nat
  nlevels : Nat
  pack : BitVec 8
  nest : List Word
  entry : DWord
  codesize : Nat
  sharetab : Nat
  shares : List ShareEntry
  secver : Nat
  sigoff : Nat
  deriving DecidableEq, Repr

/-- The states of a launch (R180). -/
inductive LaunchState where
  | accepted | waiting | ready | reserving | running | completing | done
  deriving DecidableEq, Repr

/-- A launch. `parent` is the team whose thread launched it (R197), `packet` the queue and index of its packet (R384),
`packs` the number of packs of the launch, `placed` how many have been made, `stopped` says that no further pack is
reserved (R392). -/
structure Launch where
  asid : BitVec 16
  st : LaunchState
  lrec : LaunchRec
  obj : Option CodeObj
  depth : Nat
  parent : Option Nat
  packet : Option (Nat × Nat)
  affinity : BitVec 8
  prio : Nat
  roles : List Role
  lvmap : List DWord
  packs : Nat
  made : Nat
  stopped : Bool
  status : BitVec 8
  failTeam : Option Nat
  relaunches : Nat
  deriving DecidableEq, Repr

/-! ### Contexts and parts (R335 to R347) -/

/-- A context: its record (R335) and its special registers (R362). `seqs` are the engine sequence counters by engine
identifier (R249), `colls` the collectives posted to each group (R270), `grant` the partitions granted (R391), `wpt` the
physical addresses of WPA0 to WPA7 when they last took effect (R366). -/
structure Context where
  asid : BitVec 16
  destroyed : Bool
  root : DWord
  priv : Bool
  handler : Bool
  unsig : Bool
  deadline : Nat
  stampdesc : DWord
  framebase : DWord
  framesize : Nat
  nslot : Nat
  savebase : DWord
  saveimg : Nat
  vpool : Nat
  streamcfg : List (BitVec 6)
  tagcheck : Bool
  leash : Nat
  hentry : DWord
  inject : DWord
  bkpta : List DWord
  bkpts : List DWord
  wpa : List DWord
  wpm : List DWord
  wpt : List (Option Nat)
  seqs : List (Nat × BitVec 48)
  colls : List (Word × Nat)
  grant : BitVec 8
  slice : BitVec 40
  deriving DecidableEq, Repr

/-- The states of a part (R337); `destroyed` is also a part whose partition went back to the grant. -/
inductive PartState where
  | resident | whistled | yielded | forced | kennelled | stored | faulted | resuming | destroyed
  deriving DecidableEq, Repr

/-- A part: a context's share of one partition, named by its place in the list of parts. `part` is the partition that it is on,
or was on last; `raised` and `left` are WHIST (R338); `resTime` and `idleTime` are its counters (R390); `kennel` is the partition
whose kennel holds its image, and `image` the save-area image that holds it or takes it; `seqs` and `stamps` are the engine counters
(R249) and stamp slots (R271) of its cores while it is saved. `idle` says that Shepherd has told the
operating system that the part is idle, and for how many arithmetic clocks something has waited for a partition since (R347). -/
structure Part where
  asid : BitVec 16
  part : Nat
  st : PartState
  raised : Bool
  left : Nat
  kennel : Option Nat
  image : Option Nat
  resTime : Nat
  idleTime : Nat
  idle : Option Nat
  seqs : List (Nat × BitVec 48)
  stamps : List StampSlot
  deriving DecidableEq, Repr

/-! ### Translation (R321 to R334) -/

/-- A cached translation (R326): the cache that holds it (the global number of a core, or 256 and the number of a partition; what
is on no partition has the numbers 128 and 264), the context, the page as its address divided by its size, log2 of the size, the
frame, and the bits of the leaf. -/
structure TlbEntry where
  place : Nat
  asid : BitVec 16
  page : Nat
  size : Nat
  frame : Nat
  leaf : DWord
  deriving DecidableEq, Repr

/-- An entry of the walk cache of a partition (R326): the lowest virtual bit that its table indexes, the bits of the address from
there up, and the table that the entry names. -/
structure WalkEntry where
  part : Nat
  asid : BitVec 16
  lo : Nat
  page : Nat
  table : Nat
  deriving DecidableEq, Repr

/-- An instruction word held in the instruction cache of a core (R369). -/
structure ILine where
  place : Nat
  asid : BitVec 16
  va : DWord
  word : Word
  plain : Bool
  deriving DecidableEq, Repr

/-- A translation of a plain-form kernel into native form, with its map (R41, R412): the context, the code it covers, the SECVER that
it records, and whether its signature holds. -/
structure Translation where
  asid : BitVec 16
  code : DWord
  size : Nat
  secver : Nat
  signed : Bool
  deriving DecidableEq, Repr

/-- A page-fault record (R328, R332) and its ring (R329). -/
structure PageRec where
  ticket : Nat
  ring : Nat
  asid : BitVec 16
  page : Nat
  reason : Nat
  access : BitVec 16
  va : DWord
  pc : DWord
  posted : Bool
  deriving DecidableEq, Repr

/-- An entry that waits for its ring (R329): a page record by ticket, or the 32 bytes of a containment record (R316). -/
inductive RingEntry where
  | page (asid : BitVec 16) (ticket : Nat)
  | containment (asid : BitVec 16) (ring : Nat) (bytes : List Byte)
  deriving DecidableEq, Repr

/-- The interrupt controller (R328, R329, R398). `steer` lists the entries of the steering table that have been written, `tlbreq` is the
request of TLBREQ that is not done (kind, ASID, address), `irqs` the message-signalled interrupts pending at the system cores. -/
structure Intc where
  ringdesc : List DWord
  steer : List (Nat × Byte)
  tlbva : DWord
  tlbdone : Bool
  tlbreq : Option (Nat × BitVec 16 × DWord)
  nextTicket : Nat
  records : List PageRec
  waiting : List RingEntry
  irqs : List Nat
  deriving DecidableEq, Repr

/-! ### Queues and Shepherd (R376 to R397) -/

/-- The states of a queue (R377). -/
inductive QueueState where
  | created | active | suspended | draining | destroyed | fenced
  deriving DecidableEq, Repr

/-- What an accepted packet is (R379, R380). -/
inductive PacketKind where
  | launch (id : Nat)
  | barrier (any : Bool) (deps : List DWord)
  | signal (addr value : DWord) (store : Bool)
  | nop
  deriving DecidableEq, Repr

/-- An accepted packet. `started` and `ended` are those of R384. -/
structure Packet where
  index : Nat
  kind : PacketKind
  fenceprev : Bool
  done : DWord
  started : Bool
  ended : Bool
  deriving DecidableEq, Repr

/-- A queue: the physical address of its control block, its fields, Shepherd's read index r, its pending kick. -/
structure Queue where
  qid : Nat
  asid : BitVec 16
  qcb : DWord
  base : DWord
  size : Nat
  pubn : Nat
  prio : Nat
  host : Bool
  st : QueueState
  reason : BitVec 8
  r : Nat
  kick : Bool
  abort : Bool
  packets : List Packet
  deriving DecidableEq, Repr

/-- Shepherd (R393 to R397). `held` lists the completions held back during a takeover, as launches in the order reached;
`version` counts the committed versions of the state table, `verSeq` is the last SEQ that the latest reflects, `imported` the version
that the standby has imported, `update` the entry of the LOAD_UPDATE under way and its DONE, `image` the digest of the image that LOAD_UPDATE
has brought to run, none for the one of the boot flash, `loaded` that of the one on the standby. -/
structure Shepherd where
  active : Nat
  standby : Bool
  dead : Bool
  taking : Bool
  seq : Nat
  verSeq : Nat
  held : List Nat
  version : Nat
  imported : Nat
  update : Option (DWord × DWord)
  image : Option (BitVec 256)
  loaded : Option (BitVec 256)
  deriving DecidableEq, Repr

/-! ### Links, ports, boot and power (R398 to R417) -/

/-- The states of a Span link (R400). -/
inductive LinkState where
  | down | training | up | degraded | fenced
  deriving DecidableEq, Repr

/-- A Span link (R401); `retries` counts the retries of the current millisecond. -/
structure Link where
  st : LinkState
  lanes : Nat
  node : BitVec 9
  errcnt : Word
  thresh : BitVec 16
  enable : Bool
  retries : Nat
  deriving DecidableEq, Repr

/-- A ring block of an Ethernet port engine (R405). -/
structure EthRing where
  num : Nat
  base : DWord
  size : Word
  kind : Byte
  cq : Byte
  prod : Word
  cons : Word
  deriving DecidableEq, Repr

/-- An Ethernet port engine (R407). -/
structure EthPort where
  mac : BitVec 48
  up : Bool
  rings : List EthRing
  deriving DecidableEq, Repr

/-- A firmware image (R410): the SM3 digest of its bytes, the public key and the signature that come with it, and its security
version. -/
structure Image where
  digest : BitVec 256
  key : BitVec 512
  sig : BitVec 512
  ver : Nat
  deriving DecidableEq, Repr

/-- A slot of the boot flash: whether its bundle can be read, and its two images. -/
structure FlashSlot where
  readable : Bool
  shep : Image
  sys : Image
  deriving DecidableEq, Repr

/-- Boot and fuses (R409 to R415). `root` is the fused digest of the root key; `complex0` and `complex1` say whether a Shepherd
complex starts. -/
structure Boot where
  root : BitVec 256
  stage : Nat
  failed : Nat
  slot1 : Bool
  shepsvn : Nat
  syssvn : Nat
  codesvn : Nat
  flash : List FlashSlot
  lpddr : Bool
  complex0 : Bool
  complex1 : Bool
  deriving DecidableEq, Repr

/-- The registers of the host window that are stored (R399), the halt and the Sitter (R370). -/
structure HostRegs where
  caps : DWord
  idreg : DWord
  journal : DWord
  mgmtring : DWord
  keytab : DWord
  sitter : BitVec 8
  halted : Bool
  answering : Bool
  attest : DWord
  deriving DecidableEq, Repr

/-- Power (R417): power in W over the last millisecond, the arithmetic clock of each die in MHz, and whether the power manager has
taken a sample, before which PWRSTAT keeps its reset value (R399). -/
structure Power where
  watts : BitVec 16
  mhz : List Nat
  sampled : Bool
  deriving DecidableEq, Repr

/-! ### Scheduling (MODEL'S OWN) and the whole -/

/-- What the next step may do: issue a word of a bundle, let a WAITING lane's word go on with its own operation (R85), or let an
event of the opcode table happen. -/
inductive Move where
  | issue (bundle : Nat)
  | again (bundle lane : Nat)
  | event (i : Instr)
  deriving DecidableEq, Repr

/-- The fields of a prefix word (R31). -/
structure Pfx where
  c : BitVec 6
  mask : BitVec 3
  men : Bool
  zero : Bool
  rnd : BitVec 3
  sat : Bool
  deriving DecidableEq, Repr

/-- MODEL'S OWN: the word that the front end has selected: its bundle, its address, the trap PC (that of its prefix where it
has one, R48), the issued lanes, the prefix, and the completion flag that its clause assigns it (R35). `start` is the PC at
which the set stood, and `fell` the lanes that had fallen through to it, to which a word that cannot issue goes back. `args` are the
uniform operands of a word that goes on, `homes` the lanes whose `graft` counts in INPROG already, with where (R287), and `stops` the lanes that the issue has parked at a breakpoint, with the
cause, and `reports` those that the word's accesses report (R155), which park as the word ends; both share one event with those that the
word itself parks (R350), and `told` says that this event has been made. -/
structure Issue where
  bundle : Nat
  pc : DWord
  trapPc : DWord
  lanes : BitVec 64
  pfx : Option Pfx
  flag : Option Nat
  plain : Bool
  stalled : Bool
  start : DWord
  fell : BitVec 64
  args : List DWord
  homes : List (Nat × SyncHome)
  stops : List (Nat × BitVec 8)
  reports : List (Nat × TrapInfo)
  told : Bool
  deriving DecidableEq, Repr

/-- The state of the package. `regwrites` are stores to the device windows that reach their registers at the end of the step,
in order. `nodeset` says that a link has reached UP, so that NODEID holds (R400). `badmem` lists the 8-byte words of main memory, by
their number, in which an uncorrectable error lies (R328, R387); `outside` are the accesses of agents outside the partitions that may still
race (R154). `aclk` has for each die the sum over the periods of CLK of its arithmetic
clock in MHz (R417): 2250 of it are one arithmetic clock that the die has run. -/
structure State where
  mem : Memory
  clk : DWord
  aclk : List Nat
  ctxs : List Context
  parts : List Part
  launches : List Launch
  packs : List Pack
  teams : List Team
  bundles : List Bundle
  cmds : List Cmd
  stamps : List StampSlot
  grow : List GrowReq
  tlb : List TlbEntry
  walks : List WalkEntry
  badmem : List Nat
  outside : List Touch
  translations : List Translation
  icache : List ILine
  intc : Intc
  queues : List Queue
  shep : Shepherd
  links : List Link
  route : List (Nat × BitVec 16)
  nodeid : BitVec 9
  nodeset : Bool
  eth : List EthPort
  boot : Boot
  host : HostRegs
  power : Power
  cur : Issue
  agenda : List Move
  regwrites : List (BitVec 39 × DWord)
  turn : Nat
  ticks : Nat
  deriving DecidableEq, Repr

/-- The machine never stops with a fault: every fault of the spec is a trap or a record that the device takes. The type has
no constructor that a step uses; `none` stands so that the type is a closed inductive with a value. -/
inductive Fault where
  /-- Raised by nothing (safe). -/
  | none
  deriving DecidableEq, Repr

/-- Why a step has no meaning. -/
inductive Refusal where
  /-- Raised by an arm of exec whose instruction has no meaning yet (safe). -/
  | notModelled (mnemonic : String)
  deriving DecidableEq, Repr

/-- The image of the boot flash that the machine is delivered with, of the second slot and of the system firmware where the
arguments say so: its bytes and its signature are not stated, its security version is 0 (assumption 5). -/
def Config.flashImage (slot1 sys : Bool) : Image :=
  ⟨Config.imageDigest slot1 sys, Config.imageKey slot1 sys, Config.imageSig slot1 sys, 0⟩

/-- An image that software or a host hands over: its bytes are not in a form that the spec states (assumption 5). -/
def Config.loadedImage (tick k : Nat) : Image :=
  ⟨Config.loadedDigest tick k, Config.loadedKey tick k, Config.loadedSig tick k, (Config.freeWord tick 410 k).toNat⟩

/-- A Span link after reset (R400, R401). -/
def Link.reset : Link := ⟨.down, 0, 0, 0, 1024, true, 0⟩

/-- The reset state of the issue latch: nothing selected. -/
def Issue.reset : Issue := ⟨0, 0, 0, 0, none, none, false, false, 0, 0, [], [], [], [], false⟩

/-- The package right after reset: no context, launch, team or bundle exists, memory lists nothing, every register has its
reset value, and boot is about to run (R409). Values that the spec leaves open: assumptions 2 to 6. -/
def State.reset : State where
  mem := []
  clk := 0
  aclk := [0, 0, 0, 0]
  ctxs := []
  parts := []
  launches := []
  packs := []
  teams := []
  bundles := []
  cmds := []
  stamps := []
  grow := []
  tlb := []
  walks := []
  badmem := []
  outside := []
  translations := []
  icache := []
  intc := ⟨List.replicate 24 0, [], 0, false, none, 1, [], [], []⟩
  queues := []
  shep := ⟨0, true, false, false, 1, 0, [], 0, 0, none, none, none⟩
  links := List.replicate 12 Link.reset
  route := []
  nodeid := 0
  nodeset := false
  eth := [⟨0, false, []⟩, ⟨0, false, []⟩]
  boot := ⟨Config.rootKey, 0, 0, false, 0, 0, 0, [⟨true, Config.flashImage false false, Config.flashImage false true⟩,
    ⟨true, Config.flashImage true false, Config.flashImage true true⟩], true, true, true⟩
  host := ⟨Config.caps, Config.idReg, 0, 0, 0, 0x1E, false, false, 0⟩
  power := ⟨0, [2250, 2250, 2250, 2250], false⟩
  cur := Issue.reset
  agenda := [.event .boot]
  regwrites := []
  turn := 0
  ticks := 0

end Sys2Proof.Machine
end

