-- ==== Sys2Proof/Machine/Base.lean ====
section
/-! DEFINITION. Named access to the parts of the state: objects by number, lane sets, bytes and words, tags, registers and
register windows (R76 to R79, R97). -/
namespace Sys2Proof.Machine

/-! ### Bits, bytes and lane sets -/

/-- The `n` low bytes of a number, least significant first (R6). -/
def bytesOf : Nat → Nat → List Byte
  | 0, _ => []
  | n + 1, v => BitVec.ofNat 8 v :: bytesOf n (v / 256)

/-- The number that bytes hold, least significant first (R6). -/
def ofBytes : List Byte → Nat
  | [] => 0
  | b :: bs => b.toNat + 256 * ofBytes bs

/-- `len` bits of a number from bit `lo` up. -/
def bitsAt (v lo len : Nat) : Nat := (v / 2 ^ lo) % 2 ^ len

/-- `x` rounded up to a multiple of `n`. -/
def alignUp (x n : Nat) : Nat := (x + n - 1) / n * n

/-- An address rounded up to a multiple of 16, modulo 2^64 (R98). -/
def align16 (a : DWord) : DWord := (a + 15) &&& 0xFFFFFFFFFFFFFFF0

/-- The set of one lane. -/
def laneBit (l : Nat) : BitVec 64 := 1#64 <<< l

/-- The lanes of a set below `w`, ascending. -/
def lanesIn (m : BitVec 64) (w : Nat) : List Nat := (List.range w).filter m.getLsbD

/-- The set of a list of lanes. -/
def laneSet (ls : List Nat) : BitVec 64 := ls.foldl (fun m l => m ||| laneBit l) 0

/-- All ones below bit `w`. -/
def lowMask (w : Nat) : BitVec 64 := BitVec.ofNat 64 (2 ^ w - 1)

/-- Change bit `l` of a mask. -/
def setBit (m : BitVec 64) (l : Nat) (v : Bool) : BitVec 64 := if v then m ||| laneBit l else m &&& ~~~laneBit l

/-- The first entry of a table with the key. -/
def lookupKey {α : Type} (k : Nat) : List (Nat × α) → Option α
  | [] => none
  | (k', v) :: l => if k = k' then some v else lookupKey k l

/-- A table with the entry of the key replaced, or added at its end. -/
def setKey {α : Type} (k : Nat) (v : α) : List (Nat × α) → List (Nat × α)
  | [] => [(k, v)]
  | (k', v') :: l => if k = k' then (k, v) :: l else (k', v') :: setKey k v l

/-! ### Tags -/

/-- The code of a tag (R76). -/
def Tag.code : Tag → BitVec 4
  | .raw => 0 | .int => 1 | .w64 => 2 | .f32 => 3 | .f64 => 4 | .bf16x2 => 5 | .f16x2 => 6 | .e4m3x4 => 7
  | .e5m2x4 => 8 | .lg6x5 => 9 | .pend => 0xE | .empty => 0xF

/-- The tag of a code 0x0 to 0x9 (R143). -/
def Tag.ofCode (c : Nat) : Tag :=
  match c with
  | 0 => .raw | 1 => .int | 2 => .w64 | 3 => .f32 | 4 => .f64 | 5 => .bf16x2 | 6 => .f16x2 | 7 => .e4m3x4
  | 8 => .e5m2x4 | _ => .lg6x5

/-- The tag that a move gives: the source's, but PEND and EMPTY become RAW (R77). -/
def Tag.moved : Tag → Tag
  | .pend => .raw
  | .empty => .raw
  | t => t

/-- A register as a move copies it (R77). -/
def Reg.moved (r : Reg) : Reg := ⟨r.val, r.tag.moved⟩

/-- The two registers of a 64-bit value, with one tag (R54). -/
def pairRegs (v : DWord) (t : Tag) : List Reg := [⟨v.setWidth 32, t⟩, ⟨(v >>> 32).setWidth 32, t⟩]

/-- The 64-bit value of two registers (R54). -/
def joinPair (lo hi : Word) : DWord := hi ++ lo

/-! ### Absent objects: what a number that names no object stands for -/

/-- A thread that does not exist: EXITED, with no window. -/
def Thread.absent : Thread :=
  { pc := 0, st := .exited, fell := false, plain := false, parkAsked := false, unpark := false, skip := false, ticket := none
    fixed := [], ring := [], base := 0, lo := 0, holes := [], n := 0, o := 0, nc := 0, entered := false, linkPc := 0, frames := []
    fbase := 0, flimit := 0, fstat := 0, marktop := 0, frec := ⟨0, 0, 0, 0⟩, stale := false, ctr := [0, 0, 0, 0], slots := []
    arrived := 0, excused := 0, pwait := none, out := [], recent := [], acq := [], report := none, readAt := 0, bound := [] }

/-- A leash at creation (R90). -/
def Leash.fresh : Leash := ⟨false, 0, 0, 0, 0⟩

/-- A bundle that does not exist. -/
def Bundle.absent : Bundle :=
  ⟨false, false, 0, none, none, 0, 0, 0, 0, 0, 16, 64, 0, [], [], [], 0, [], Leash.fresh, false, false, 0, false, [], [], none, none, none⟩

/-- A context that does not exist. -/
def Context.absent : Context :=
  ⟨0, true, 0, false, false, false, 1000, 0, 0, 4096, 1, 0, 0, 0, List.replicate 15 0 ++ [8], false, 4096, 0, 0,
    List.replicate 16 0, List.replicate 16 0, List.replicate 8 0, List.replicate 8 0, List.replicate 8 none, [], [], 0, 0⟩

/-- A version that does not exist. -/
def Version.absent : Version := ⟨.none, [], false⟩

/-- A team that does not exist. -/
def Team.absent : Team := ⟨0, 0, 0, .failed, 0, 0, 0, 0, 0, 0, 1, none, [], Version.absent, [], []⟩

/-- A part that does not exist. -/
def Part.absent : Part := ⟨0, 0, .destroyed, false, 0, none, none, 0, 0, none, [], []⟩

/-- A pack that does not exist. -/
def Pack.absent : Pack := ⟨0, false, 1, 1, [], none, false, []⟩

/-- A launch record of zeros. -/
def LaunchRec.absent : LaunchRec := ⟨0, 0, [1, 1, 1, 1], 0, 0, 0, 0, 0, 8, 0, 0⟩

/-- LVMAP of a level at or beyond n (R186). -/
def lvmapNone : DWord := 0x0001001000000001

/-- A launch that does not exist. -/
def Launch.absent : Launch :=
  ⟨0, .done, LaunchRec.absent, none, 1, none, none, 0, 0, [], List.replicate 4 lvmapNone, 0, 0, true, 0, none, 0⟩

/-- A code object of zeros. -/
def CodeObj.absent : CodeObj := ⟨0, 16, 1, 0, [0, 0, 0, 0], 0, 0, 0, [], 0, 0⟩

/-- A barrier at creation (R219). -/
def Barrier.fresh (expected : Nat) : Barrier := ⟨0, false, true, expected, 0, none, 0, false, [], [], 0⟩

/-! ### Objects of the state -/

/-- The bundle of a number. -/
def State.bundle (s : State) (b : Nat) : Bundle := s.bundles.getD b Bundle.absent

/-- A lane of a bundle. -/
def Bundle.thread (b : Bundle) (l : Nat) : Thread := b.threads.getD l Thread.absent

/-- The thread of a bundle's lane. -/
def State.thread (s : State) (b l : Nat) : Thread := (s.bundle b).thread l

/-- The context of an ASID. -/
def State.ctx (s : State) (asid : BitVec 16) : Context := (s.ctxs.find? (fun c => c.asid == asid)).getD Context.absent

/-- The team of a number. -/
def State.team (s : State) (t : Nat) : Team := s.teams.getD t Team.absent

/-- The part of a number. -/
def State.partOf (s : State) (p : Nat) : Part := s.parts.getD p Part.absent

/-- Change a part. -/
def State.modPart (s : State) (p : Nat) (f : Part → Part) : State := { s with parts := s.parts.modify p f }

/-- The pack of a number. -/
def State.pack (s : State) (p : Nat) : Pack := s.packs.getD p Pack.absent

/-- The launch of a number. -/
def State.launch (s : State) (n : Nat) : Launch := s.launches.getD n Launch.absent

/-- The command of a number, where there is one. -/
def State.cmd? (s : State) (c : Nat) : Option Cmd := s.cmds[c]?

/-- Change a bundle. -/
def State.modBundle (s : State) (b : Nat) (f : Bundle → Bundle) : State := { s with bundles := s.bundles.modify b f }

/-- Change a lane of a bundle. -/
def Bundle.modThread (b : Bundle) (l : Nat) (f : Thread → Thread) : Bundle := { b with threads := b.threads.modify l f }

/-- Change a thread. -/
def State.modThread (s : State) (b l : Nat) (f : Thread → Thread) : State := s.modBundle b (fun x => x.modThread l f)

/-- Change a context. -/
def State.modCtx (s : State) (asid : BitVec 16) (f : Context → Context) : State :=
  { s with ctxs := s.ctxs.map (fun c => if c.asid == asid then f c else c) }

/-- Change a team. -/
def State.modTeam (s : State) (t : Nat) (f : Team → Team) : State := { s with teams := s.teams.modify t f }

/-- Change a pack. -/
def State.modPack (s : State) (p : Nat) (f : Pack → Pack) : State := { s with packs := s.packs.modify p f }

/-- Change a launch. -/
def State.modLaunch (s : State) (n : Nat) (f : Launch → Launch) : State := { s with launches := s.launches.modify n f }

/-- Change a command. -/
def State.modCmd (s : State) (c : Nat) (f : Cmd → Cmd) : State := { s with cmds := s.cmds.modify c f }

/-- The numbers of a list's entries. -/
def indices {α : Type} (l : List α) : List Nat := List.range l.length

/-- The bundles of a team that have not retired. -/
def State.teamBundles (s : State) (t : Nat) : List Nat :=
  (indices s.bundles).filter (fun b => (s.bundle b).live && (s.bundle b).team == some t)

/-! ### The word at issue -/

/-- The bundle of the word at issue. -/
def State.curB (s : State) : Bundle := s.bundle s.cur.bundle

/-- The context of the word at issue. -/
def State.curCtx (s : State) : Context := s.ctx s.curB.asid

/-- The issued lanes of the word at issue, ascending. -/
def State.issued (s : State) : List Nat := lanesIn s.cur.lanes s.curB.threads.length

/-- The lanes that the prefix leaves active (R94): those whose bit of its mask register is 1, or all. -/
def State.activeMask (s : State) : BitVec 64 :=
  match s.cur.pfx with
  | some p => if p.men then s.cur.lanes &&& s.curB.m.getD p.mask.toNat 0 else s.cur.lanes
  | none => s.cur.lanes

/-- The lane is active (R94). -/
def State.isActive (s : State) (l : Nat) : Bool := s.activeMask.getLsbD l

/-- The prefix asks for zeroing of inactive lanes (R94). -/
def State.zeroing (s : State) : Bool := (s.cur.pfx.map (·.zero)).getD false

/-- The prefix asks for saturation (R31). -/
def State.saturating (s : State) : Bool := (s.cur.pfx.map (·.sat)).getD false

/-- The rounding mode of the prefix (R31); RNE without one. -/
def State.rounding (s : State) : BitVec 3 := (s.cur.pfx.map (·.rnd)).getD 0

/-- The fourth operand that the prefix names (R31). -/
def State.pfxC (s : State) : Nat := ((s.cur.pfx.map Pfx.c).getD 0).toNat

/-- TAGMODE.CHECK of the issuing context (R80). -/
def State.tagCheck (s : State) : Bool := s.curCtx.tagcheck

/-! ### Register windows (R97) -/

/-- The key of register vn of a thread: n below 8, or 8 plus its ring register. -/
def Thread.key (t : Thread) (n : Nat) : Nat := if n < 8 then n else 8 + (t.base + (n - 8))

/-- Register vn lies in the thread's window (R97). -/
def Thread.inWindow (t : Thread) (n : Nat) : Bool := n < 8 + t.n

/-- The contents of a ring register. -/
def Thread.ringGet (t : Thread) (i : Nat) : Reg := t.ring.getD (i % t.ring.length) Reg.fresh

/-- Change a ring register. -/
def Thread.ringSet (t : Thread) (i : Nat) (r : Reg) : Thread := { t with ring := t.ring.set (i % t.ring.length) r }

/-- The contents of the register of a key. -/
def Thread.keyGet (t : Thread) (k : Nat) : Reg := if k < 8 then t.fixed.getD k Reg.fresh else t.ringGet (k - 8)

/-- Change the register of a key, whatever holds it. -/
def Thread.keySet (t : Thread) (k : Nat) (r : Reg) : Thread :=
  if k < 8 then { t with fixed := t.fixed.set k r } else t.ringSet (k - 8) r

/-- The binding of the register of a key by a matrix post that the bundle has not observed (R262, R263). -/
def Thread.boundAt (t : Thread) (k : Nat) : Option Bound :=
  if k < 8 then none else t.bound.find? (fun x => x.idx == k - 8)

/-- Write the register of a key (R78): an accumulator that a matrix post holds keeps the written value beside it until the
post is observed; an operand is written, and the value that it had is kept beside it. -/
def Thread.writeKey (t : Thread) (k : Nat) (r : Reg) : Thread :=
  if k < 8 || t.bound.isEmpty then t.keySet k r
  else
    let i := k - 8
    let acc := t.bound.any (fun y => y.acc && y.idx == i)
    let old := if acc then r else t.ringGet i
    let t : Thread := { t with bound := t.bound.map (fun y =>
      if y.idx != i then y
      else if y.acc then { y with alt := some r }
      else { y with alt := some (y.alt.getD old) }) }
    if acc then t else t.keySet k r

/-- Write register vn; a register beyond the window is not written (R94). -/
def Thread.writeV (t : Thread) (n : Nat) (r : Reg) : Thread := if t.inWindow n then t.writeKey (t.key n) r else t

/-- The tag that register vn shows: PEND while a matrix post holds it (R144). -/
def Thread.tagV (t : Thread) (n : Nat) : Tag := if (t.boundAt (t.key n)).isSome then .pend else (t.keyGet (t.key n)).tag

/-- The outstanding long-latency write of a lane's register (R37), the newest. -/
def Bundle.lateFor (b : Bundle) (l k : Nat) : Option LateWrite :=
  b.late.foldl (fun acc o => match o.lanes.find? (fun w => w.lane == l && w.key == k) with
    | some w => some w
    | none => acc) none

/-- The outstanding long-latency write of a uniform register (R37), the newest. -/
def Bundle.lateForS (b : Bundle) (n : Nat) : Option LateWrite :=
  b.late.foldl (fun acc o => match o.unis.find? (fun w => w.key == n) with
    | some w => some w
    | none => acc) none

/-- Register vn as a word of the lane reads it: an unspecified value tagged PEND while a matrix post holds it (R78), the old
or the new register while a long-latency write is outstanding (R37), else its contents. -/
def State.readV (s : State) (b l n : Nat) : Reg :=
  let t := s.thread b l
  let k := t.key n
  match t.boundAt k with
  | some _ => ⟨Config.freeWord s.ticks l k, .pend⟩
  | none =>
    match (s.bundle b).lateFor l k with
    | some w => if Config.freeBool s.ticks l k then w.reg else t.keyGet k
    | none => t.keyGet k

/-- Uniform register sn as a word reads it (R93, R37). -/
def State.readS (s : State) (b n : Nat) : Reg :=
  let r := (s.bundle b).s.getD n Reg.fresh
  match (s.bundle b).lateForS n with
  | some w => if Config.freeBool s.ticks 64 n then w.reg else r
  | none => r

/-- Mark the outstanding long-latency write of a lane's register as contested (R37). -/
def Bundle.clashV (b : Bundle) (l k : Nat) : Bundle :=
  if b.late.isEmpty then b else
  { b with late := b.late.map (fun o => { o with lanes := o.lanes.map (fun w =>
      if w.lane == l && w.key == k then { w with clash := true } else w) }) }

/-- Mark the outstanding long-latency write of a uniform register as contested (R37). -/
def Bundle.clashS (b : Bundle) (n : Nat) : Bundle :=
  if b.late.isEmpty then b else
  { b with late := b.late.map (fun o => { o with unis := o.unis.map (fun w =>
      if w.key == n then { w with clash := true } else w) }) }

/-- Write registers of a lane: each register vn with its value. -/
def Bundle.writeLane (b : Bundle) (l : Nat) (ws : List (Nat × Reg)) : Bundle :=
  ws.foldl (fun b w => (b.modThread l (fun t => t.writeV w.1 w.2)).clashV l ((b.thread l).key w.1)) b

/-- Write registers of a lane of the bundle at issue. -/
def State.writeLane (s : State) (l : Nat) (ws : List (Nat × Reg)) : State :=
  s.modBundle s.cur.bundle (fun b => b.writeLane l ws)

/-- Write uniform registers of a bundle. -/
def Bundle.writeS (b : Bundle) (ws : List (Nat × Reg)) : Bundle :=
  ws.foldl (fun b w => { b with s := b.s.set w.1 w.2 }.clashS w.1) b

/-- Write uniform registers of the bundle at issue (R93). -/
def State.writeS (s : State) (ws : List (Nat × Reg)) : State := s.modBundle s.cur.bundle (fun b => b.writeS ws)

/-- Write a mask register of a bundle; m7 is all ones and ignores writes (R87). -/
def Bundle.writeM (b : Bundle) (n : Nat) (v : BitVec 64) : Bundle := if n < 7 then { b with m := b.m.set n v } else b

/-- Write a mask register of the bundle at issue (R95). -/
def State.writeM (s : State) (n : Nat) (v : BitVec 64) : State := s.modBundle s.cur.bundle (fun b => b.writeM n v)

/-- A mask register of the bundle at issue. -/
def State.readM (s : State) (n : Nat) : BitVec 64 := s.curB.m.getD n 0

/-- The pair of registers n and n + 1 of registers given by `f`. -/
def pairOf (f : Nat → Reg) (n : Nat) : DWord := joinPair (f n).val (f (n + 1)).val

/-- A uniform pair as a word at issue reads it. -/
def State.pairS (s : State) (n : Nat) : DWord := pairOf (s.readS s.cur.bundle) n

/-- A lane's pair as a word at issue reads it. -/
def State.pairV (s : State) (l n : Nat) : DWord := pairOf (s.readV s.cur.bundle l) n

/-- The engine's pair SP (v4:v5) of a thread. -/
def Thread.sp (t : Thread) : DWord := pairOf t.keyGet 4

/-- The engine's pair FP (v6:v7) of a thread. -/
def Thread.fp (t : Thread) : DWord := pairOf t.keyGet 6

/-- Set SP, tagged W64 (R98). -/
def Thread.setSp (t : Thread) (v : DWord) : Thread :=
  (t.keySet 4 ⟨v.setWidth 32, .w64⟩).keySet 5 ⟨(v >>> 32).setWidth 32, .w64⟩

/-- Set FP, tagged W64 (R98). -/
def Thread.setFp (t : Thread) (v : DWord) : Thread :=
  (t.keySet 6 ⟨v.setWidth 32, .w64⟩).keySet 7 ⟨(v >>> 32).setWidth 32, .w64⟩

/-- Set the PC of a thread that a transfer of control moves (R38). -/
def Thread.goto (t : Thread) (pc : DWord) : Thread := { t with pc := pc, fell := false }

/-- Advance a thread past the word at `pc`. -/
def Thread.advance (t : Thread) (pc : DWord) : Thread := { t with pc := pc + 4, fell := true }

/-- The thread is READY. -/
def Thread.isReady (t : Thread) : Bool := t.st == .ready

/-- The thread is EXITED. -/
def Thread.isExited (t : Thread) : Bool := t.st == .exited

/-- The thread is WAITING. -/
def Thread.isWaiting (t : Thread) : Bool :=
  match t.st with
  | .waiting _ => true
  | _ => false

/-- The thread is PARKED. -/
def Thread.isParked (t : Thread) : Bool :=
  match t.st with
  | .parked _ => true
  | _ => false

/-- Change every thread of the bundle at issue by its lane. -/
def State.mapLanes (s : State) (f : Nat → Thread → Thread) : State :=
  s.modBundle s.cur.bundle (fun b => { b with threads := b.threads.mapIdx f })

/-- Advance the issued lanes of the word at issue that are still READY at it. -/
def State.advanceAll (s : State) : State :=
  s.mapLanes (fun l t => if s.cur.lanes.getLsbD l && t.isReady then t.advance s.cur.pc else t)

/-- A waiting word of a thread completes: the thread is READY, or PARKED where a handler park waits for this (R85). -/
def Thread.wake (t : Thread) : Thread :=
  if t.isWaiting then
    if t.parkAsked then { t with st := .parked .handler, parkAsked := false } else { t with st := .ready }
  else t

/-- The die of a partition (R1, R214): the column of the grid that it stands in. -/
def dieOf (part : Nat) : Nat := part % 4

/-- The arithmetic clocks that a die has run, of its sum in `aclk` (R417). -/
def clocksRun (aclk : List Nat) (die : Nat) : Nat := aclk.getD die 0 / 2250

/-- The columns of a block of `c` cores (R206): the shapes are 1×1, 2×1, 2×2, 4×2 and 4×4. -/
def blockColumns (c : Nat) : Nat := if c = 1 then 1 else if c ≤ 4 then 2 else 4

/-- Core `j` of a block of `c` cores that begins at core `first` of the 4×4 mesh, in row-major order (R206). -/
def blockCore (first c j : Nat) : Nat := first + j / blockColumns c * 4 + j % blockColumns c

/-- The cores of a team's block, by their numbers in it (R206). -/
def Team.blockCores (t : Team) : List Nat := (List.range t.cores).map (blockCore t.block t.cores)

/-- The global core number of a bundle (R249). -/
def Bundle.coreNo (b : Bundle) : Nat := 16 * b.part + b.core

/-- Free values number the ticks of the machine: each step and each draw has its own (assumption 3). -/
def State.tick (s : State) : State := { s with ticks := s.ticks + 1 }

end Sys2Proof.Machine
end

