-- ==== Sys2Proof/Machine/Mem.lean ====
section
/-! DEFINITION. Physical memory, versions and stash copies: reading and writing bytes, keeping outside copies coherent
(R239 to R241), publishing a version (R310 to R312), rings in memory (R272), and page walks with their caches
(R321 to R328). -/
namespace Sys2Proof.Machine

/-! ### Bytes -/

/-- The byte at an address. -/
def Memory.read : Memory → Nat → Byte
  | [], _ => Config.freshByte
  | (a, b) :: m, x => if x = a then b else if x < a then Config.freshByte else Memory.read m x

/-- Memory with the byte at an address replaced, in canonical form. -/
def Memory.write : Memory → Nat → Byte → Memory
  | [], x, v => if v = Config.freshByte then [] else [(x, v)]
  | (a, b) :: m, x, v =>
    if x < a then (if v = Config.freshByte then (a, b) :: m else (x, v) :: (a, b) :: m)
    else if x = a then (if v = Config.freshByte then m else (a, v) :: m)
    else (a, b) :: Memory.write m x v

/-- `n` bytes from an address up. -/
def Memory.readBytes (m : Memory) (a : Nat) : Nat → List Byte
  | 0 => []
  | n + 1 => m.read a :: Memory.readBytes m (a + 1) n

/-- Memory with bytes written from an address up. -/
def Memory.writeBytes (m : Memory) (a : Nat) : List Byte → Memory
  | [] => m
  | b :: bs => (m.write a b).writeBytes (a + 1) bs

/-- The byte that a version holds at an address. -/
def cellAt : List Host.Cell → Nat → Option Byte
  | [], _ => none
  | (a, b) :: m, x => if x = a then some b else if x < a then none else cellAt m x

/-- A version with a byte put in. -/
def cellPut : List Host.Cell → Nat → Byte → List Host.Cell
  | [], x, v => [(x, v)]
  | (a, b) :: m, x, v => if x < a then (x, v) :: (a, b) :: m else if x = a then (a, v) :: m else (a, b) :: cellPut m x v

/-- The number of 128-byte lines that cells rising by address lie in; `last` is the line counted last, plus 1. -/
def cellLines : List Host.Cell → Nat → Nat
  | [], _ => 0
  | (a, _) :: m, last => if a / 128 + 1 = last then cellLines m last else 1 + cellLines m (a / 128 + 1)

/-- A line of 128 bytes as bytes. -/
def lineBytes (d : BitVec 1024) : List Byte := (List.range 128).map (fun i => d.extractLsb' (8 * i) 8)

/-- The byte of a line at an offset. -/
def lineGet (d : BitVec 1024) (i : Nat) : Byte := d.extractLsb' (8 * i) 8

/-- A line with the byte at an offset replaced. -/
def linePut (d : BitVec 1024) (i : Nat) (v : Byte) : BitVec 1024 :=
  (d &&& ~~~((0xFF#1024) <<< (8 * i))) ||| ((v.setWidth 1024) <<< (8 * i))

/-! ### Physical addresses (R321) -/

/-- The node of a physical address. -/
def paNode (pa : Nat) : Nat := bitsAt pa 43 9

/-- The local offset of a physical address. -/
def paOffset (pa : Nat) : Nat := pa % 2 ^ 43

/-- One past the last offset of LPDDR: 768 GiB. -/
def lpddrEnd : Nat := 0xC000000000

/-- The offset of the device windows (R398). -/
def deviceBase : Nat := 0x7C000000000

/-- The address names this device (R321, R400). -/
def State.isLocal (s : State) (pa : Nat) : Bool := paNode pa == s.nodeid.toNat

/-- The device has a Span link (R3). -/
def State.hasSpan (s : State) : Bool := s.host.caps.extractLsb' 16 12 != 0

/-- The address lies in a listed region of R321, of this node or of another one. -/
def State.paExists (s : State) (pa : Nat) : Bool :=
  (paOffset pa < lpddrEnd || deviceBase ≤ paOffset pa) && (s.isLocal pa || s.hasSpan)

/-- Where a line of memory has its home, as stash lines name it: the local offset, or on another node the physical address and 2^52
more. -/
def State.homeOf (s : State) (pa : Nat) : Nat := if s.isLocal pa then paOffset pa else pa + 2 ^ 52

/-- The address lies in the device windows of this device. -/
def State.paDevice (s : State) (pa : Nat) : Bool := s.isLocal pa && deviceBase ≤ paOffset pa

/-! ### Containment records (R316) -/

/-- The launch of a team. -/
def State.teamLaunch (s : State) (t : Nat) : Launch := s.launch (s.team t).launch

/-- The bytes of a containment record. -/
def containmentBytes (cause : BitVec 8) (outcome : Nat) (mon : Option Nat) (count team : Nat) (launch pc clk : DWord) : List Byte :=
  bytesOf 1 cause.toNat ++ bytesOf 1 outcome ++ bytesOf 1 (match mon with | some m => 0x80 + m | none => 0)
    ++ bytesOf 1 count ++ bytesOf 4 team ++ bytesOf 8 launch.toNat ++ bytesOf 8 pc.toNat ++ bytesOf 8 clk.toNat

/-- The ring of a context (R329): a value of 24 or more in the steering table names ring 0. -/
def Intc.ringOf (i : Intc) (asid : BitVec 16) : Nat :=
  let v := ((lookupKey asid.toNat i.steer).getD 0).toNat
  if v ≥ 24 then 0 else v

/-- Hand a containment record to the operating system ring of the context (R316, R329). -/
def State.containmentRecord (s : State) (t : Nat) (cause : BitVec 8) (outcome : Nat) (mon : Option Nat) (pc : DWord) : State :=
  let tm := s.team t
  { s with intc := { s.intc with waiting := s.intc.waiting ++
      [.containment tm.asid (s.intc.ringOf tm.asid) (containmentBytes cause outcome mon tm.count tm.index (s.teamLaunch t).lrec.addr pc s.clk)] } }

/-! ### Versions and home slices (R310 to R312) -/

/-- The team's kernel is versioned (R174). -/
def State.versioned (s : State) (t : Nat) : Bool := (((s.teamLaunch t).obj.getD CodeObj.absent).kflags).getLsbD 0

/-- The version of a team takes its writes: OPEN or COMMITTING (R310, R311). -/
def Team.verOpen (t : Team) : Bool := t.ver.st == .open || t.ver.st == .committing

/-- Write bytes of committed memory; beyond LPDDR there is none (R321). Writing a word whole ends its uncorrectable error. -/
def State.memWrite (s : State) (pa : Nat) (bs : List Byte) : State :=
  if pa + bs.length ≤ lpddrEnd then { s with
      mem := s.mem.writeBytes pa bs
      badmem := s.badmem.filter (fun k => !(pa ≤ 8 * k && 8 * k + 8 ≤ pa + bs.length)) }
  else s

/-- Put bytes of one line into the version of a team (R310). -/
def State.versionPut (s : State) (t pa : Nat) (bs : List Byte) : State :=
  s.modTeam t (fun x => { x with ver := { x.ver with
    cells := (bs.zip (List.range bs.length)).foldl (fun c b => cellPut c (pa + b.2) b.1) x.ver.cells } })

/-- Write bytes at home, into the version of team `ver` while it takes writes, with no regard to its limits. -/
def State.homePut (s : State) (ver : Option Nat) (pa : Nat) (bs : List Byte) : State :=
  match ver with
  | none => s.memWrite pa bs
  | some t => if (s.team t).verOpen then s.versionPut t pa bs else s.memWrite pa bs

/-! ### Stash copies (R239 to R241) -/

/-- The version that the window's lines are written back into: the team's own when its stream is versioned (R242), while it takes
writes (R311). -/
def State.winVer (s : State) (t : Nat) (w : Window) : Option Nat :=
  if s.versioned t && !w.direct && (s.team t).verOpen then some t else none

/-- Change a window of a team. -/
def State.modWindow (s : State) (t w : Nat) (f : Window → Window) : State :=
  s.modTeam t (fun x => { x with windows := x.windows.map (fun y => if y.num == w then f y else y) })

/-- The window of a team with a number. -/
def Team.window (t : Team) (w : Nat) : Option Window := t.windows.find? (fun y => y.num == w)

/-- The line of a window with a number, unless it is INVALID. -/
def Window.line (w : Window) (n : Nat) : Option Line := w.lines.find? (fun y => y.num == n)

/-- Change a line of a team's window. -/
def State.modLine (s : State) (t w n : Nat) (f : Line → Line) : State :=
  s.modWindow t w (fun y => { y with lines := y.lines.map (fun l => if l.num == n then f l else l) })

/-- Make a line INVALID. -/
def State.dropLine (s : State) (t w n : Nat) : State :=
  s.modWindow t w (fun y => { y with lines := y.lines.filter (fun l => l.num != n) })

/-- How bytes are written at home: a function of the version, the address and the bytes. -/
abbrev HomeWriter := State → Option Nat → Nat → List Byte → State

/-- Where an increment of INPROG stands once the line at `va`, whose home is at `pa`, has sent the bytes of the mask home (R287). -/
def SyncHome.sent (va pa : Nat) (mask : BitVec 128) (ver : Option Nat) (h : SyncHome) : SyncHome :=
  if h.off.isNone && h.va.toNat / 128 == va / 128 && mask.getLsbD (h.va.toNat % 128) then
    { h with off := some (pa + h.va.toNat % 128), ver := ver }
  else h

/-- A wait as `SyncHome.sent` leaves it. -/
def Wait.sent (va pa : Nat) (mask : BitVec 128) (ver : Option Nat) : Wait → Wait
  | .word ls i as home => .word ls i as (home.map (SyncHome.sent va pa mask ver))
  | w => w

/-- A line of a team has been sent home: where increments of INPROG stand follows (R287). -/
def State.syncSent (s : State) (t : Nat) (w : Window) (l : Line) (mask : BitVec 128) : State :=
  let ver := s.winVer t w
  let va := w.base.toNat + 128 * l.num
  let bundles := s.bundles.map (fun b => if b.team == some t then
      { b with threads := b.threads.map (fun x => match x.st with
        | .waiting y => { x with st := .waiting (y.sent va l.pa mask ver) }
        | _ => x) } else b)
  { s with
    bundles := bundles
    cur := if s.cur.homes.isEmpty then s.cur else
      { s.cur with homes := s.cur.homes.map (fun h => (h.1, h.2.sent va l.pa mask ver)) } }

/-- Send the bytes of a line that the mask marks to its home; another node's memory is not in this state. The store that dirtied the line
had W, and the walk for it set D (R324, R325). -/
def State.sendBy (put : HomeWriter) (s : State) (t : Nat) (w : Window) (l : Line) (mask : BitVec 128) : State :=
  if l.remote then s else
  (((List.range 128).filter mask.getLsbD).foldl (fun s i => put s (s.winVer t w) (l.pa + i) [lineGet l.data i]) s).syncSent t w l mask

/-- A line with its dirty bytes sent and acknowledged. -/
def Line.cleaned (l : Line) : Line := { l with st := .clean, dirty := 0, redirty := 0, again := false, link := none }

/-- A stash copy of a line of memory: its team, window and line. -/
structure Holder where
  team : Nat
  win : Window
  line : Line

/-- The two copies are one. -/
def Holder.same (x y : Holder) : Bool := x.team == y.team && x.win.num == y.win.num && x.line.num == y.line.num

/-- The stash copies of the line at `pa`, but those that `skip` leaves out; a FILLING line holds nothing yet. -/
def State.holders (s : State) (pa : Nat) (skip : Nat → Window → Bool) : List Holder :=
  (indices s.teams).flatMap (fun t => ((s.team t).windows.filter (fun w => !skip t w)).flatMap (fun w =>
    (w.lines.filter (fun l => l.pa / 128 == pa / 128 && l.st != .filling)).map (fun l => ⟨t, w, l⟩)))

/-- Recall the stash copies of the line at `pa` before an outside access (R239, R241): dirty bytes go home first, each of which is
an outside store to every other copy; a copy that an outside store meets is dropped, and an outside load leaves a copy CLEAN with
EXCL clear. The boolean says whether dirty bytes were sent. -/
def State.recallBy (put : HomeWriter) (s : State) (pa : Nat) (store : Bool) (skip : Nat → Window → Bool) : State × Bool :=
  let hs := s.holders pa skip
  let ds := hs.filter (fun h => h.line.dirty ||| h.line.redirty != 0)
  let s := ds.foldl (fun s h => s.sendBy put h.team h.win h.line (h.line.dirty ||| h.line.redirty)) s
  (hs.foldl (fun s h =>
    if store || ds.any (fun d => !d.same h) then s.dropLine h.team h.win.num h.line.num
    else s.modLine h.team h.win.num h.line.num (fun l => { l.cleaned with excl := false })) s, !ds.isEmpty)

/-! ### Publication (R310 to R312) -/

/-- Publish the bytes of a team's version into committed memory (R312) and empty it: stash copies are recalled first, but for the
team's own of the version (R241). `put` writes what the recalls send home. -/
def State.publishBy (put : HomeWriter) (s : State) (t : Nat) : State :=
  let s := ((s.team t).ver.cells.map (fun c => c.1 / 128)).eraseDups.foldl (fun s n =>
    (s.recallBy put (128 * n) true (fun t' w => t' == t && s.winVer t' w == some t)).1) s
  let s := (s.team t).ver.cells.foldl (fun s c => s.memWrite c.1 [c.2]) s
  s.modTeam t (fun x => { x with ver := { x.ver with cells := [] } })

/-- An access that acted in the version of a team acts in committed memory, for the version has been published early (R311). -/
def leaveVersion (t : Nat) (ver : Option Nat) : Option Nat := if ver == some t then none else ver

/-- The accesses of a thread of a team whose version has been published early: those that act in it are direct ones from then on. -/
def Thread.leaveVersion (t : Nat) (x : Thread) : Thread :=
  { x with
    out := x.out.map (fun p => match p with
      | .store y => .store { y with ver := Machine.leaveVersion t y.ver }
      | .fence f => .fence f)
    recent := x.recent.map (fun y => { y with ver := Machine.leaveVersion t y.ver }) }

/-- A bundle of a team whose version has been published early. -/
def Bundle.leaveVersion (t : Nat) (b : Bundle) : Bundle :=
  if b.team != some t then b else
  { b with
    threads := b.threads.map (Thread.leaveVersion t)
    late := b.late.map (fun o => { o with loads := o.loads.map (fun y => { y with ver := Machine.leaveVersion t y.ver }) }) }

/-- Early publication (R311): the version becomes EARLY, the pack is not relaunchable, and a record is delivered. The team's other
writes are performed as the step ends, so that the publication is a release of all of them (R312). -/
def State.publishEarlyBy (put : HomeWriter) (s : State) (t : Nat) : State :=
  let s := s.publishBy put t
  let s := s.modTeam t (fun x => { x with ver := { x.ver with st := .early, drain := true } })
  let s : State := { s with bundles := s.bundles.map (Bundle.leaveVersion t) }
  let s := s.modPack (s.team t).pack (fun p => { p with early := true })
  s.containmentRecord t 0x62 3 none 0

/-- The lines that the versions of a context's teams hold together. -/
def State.poolLines (s : State) (asid : BitVec 16) : Nat :=
  s.teams.foldl (fun n t => if t.asid == asid then n + cellLines t.ver.cells 0 else n) 0

/-- A write to the line at `pa` would take the team above 64 MiB or the context above its pool (R310, R311). -/
def State.versionFull (s : State) (t pa : Nat) : Bool :=
  let tm := s.team t
  if tm.ver.cells.any (fun c => c.1 / 128 == pa / 128) then false
  else cellLines tm.ver.cells 0 ≥ 524288 || s.poolLines tm.asid ≥ (s.ctx tm.asid).vpool * 8192

/-- Write bytes of one line at their home: into the version of team `ver`, or into committed memory. A write that the version has no
room for publishes it early, and what the recalls of that send home may do the same to another team's (R311). `busy` are the teams whose
versions are being published, and the number bounds how many can be. -/
def State.writeHome : Nat → List Nat → HomeWriter
  | 0, _, s, ver, pa, bs => s.homePut ver pa bs
  | n + 1, busy, s, ver, pa, bs =>
    match ver with
    | none => s.memWrite pa bs
    | some t =>
      if (s.team t).verOpen && !busy.contains t && s.versionFull t pa then
        (State.publishEarlyBy (State.writeHome n (t :: busy)) s t).memWrite pa bs
      else s.homePut (some t) pa bs

/-- Write bytes of one line at their home. -/
def State.homeWrite (s : State) (ver : Option Nat) (pa : Nat) (bs : List Byte) : State := s.writeHome (s.teams.length + 1) [] ver pa bs

/-- Publish the version of a team (R312). -/
def State.publishCells (s : State) (t : Nat) : State := s.publishBy (State.writeHome s.teams.length [t]) t

/-- The byte at an address as the team of a version sees it (R164). -/
def State.homeByte (s : State) (ver : Option Nat) (pa : Nat) : Byte :=
  match ver with
  | none => s.mem.read pa
  | some t => (cellAt (s.team t).ver.cells pa).getD (s.mem.read pa)

/-- Bytes at an address as the team of a version sees them. -/
def State.homeBytes (s : State) (ver : Option Nat) (pa n : Nat) : List Byte :=
  (List.range n).map (fun i => s.homeByte ver (pa + i))

/-! ### Accesses at home (R241) -/

/-- Send marked bytes of a line home (R240). -/
def State.sendLine (s : State) (t : Nat) (w : Window) (l : Line) (mask : BitVec 128) : State := s.sendBy State.homeWrite t w l mask

/-- Recall the stash copies of the line at `pa` but the one of a window of team `except` (R241). -/
def State.recall (s : State) (pa : Nat) (store : Bool) (except : Option (Nat × Nat)) : State × Bool :=
  s.recallBy State.homeWrite pa store (fun t w => except == some (t, w.num))

/-- An outside load of bytes of one line at home (R241). -/
def State.outsideRead (s : State) (ver : Option Nat) (pa n : Nat) : State × List Byte :=
  let s := (s.recall pa false none).1
  (s, s.homeBytes ver pa n)

/-- An outside store of bytes of one line at home (R241). -/
def State.outsideWrite (s : State) (ver : Option Nat) (pa : Nat) (bs : List Byte) : State :=
  (s.recall pa true none).1.homeWrite ver pa bs

/-- Read a number of `n` bytes of committed memory at home. -/
def State.physRead (s : State) (pa n : Nat) : State × Nat :=
  let (s, bs) := s.outsideRead none pa n
  (s, ofBytes bs)

/-- Write a number of `n` bytes of committed memory at home. -/
def State.physWrite (s : State) (pa n v : Nat) : State := s.outsideWrite none pa (bytesOf n v)

/-- Before the bytes of a line of a team go home, home recalls every other copy (R240); where one of them had dirty bytes, that was
an outside store to this line, which is dropped once its own bytes are sent (R239). The bytes of mask go home, and `next` is what
becomes of the line otherwise. -/
def State.sendHome (s : State) (t : Nat) (w : Window) (l : Line) (mask : BitVec 128) (next : Line → Line) : State :=
  let r := s.recall l.pa true (some (t, w.num))
  let s := r.1.sendLine t w l (if r.2 then l.dirty ||| l.redirty else mask)
  if r.2 then s.dropLine t w.num l.num else s.modLine t w.num l.num next

/-- Begin a write-back (R240): the dirty bytes go to home, and the line is WRITING until home acknowledges. -/
def State.startWriting (s : State) (t : Nat) (w : Window) (l : Line) (link : Option Sent) : State :=
  s.sendHome t w l l.dirty (fun x => { x with st := .writing, dirty := 0, redirty := 0, again := false, link := link })

/-- Write back a line and leave it CLEAN: a write-back of R240 with its acknowledgement. -/
def State.cleanLine (s : State) (t : Nat) (w : Window) (l : Line) : State :=
  s.sendHome t w l (l.dirty ||| l.redirty) Line.cleaned

/-- A write-back of the team is not acknowledged yet. -/
def State.teamWriting (s : State) (t : Nat) : Bool :=
  (s.team t).windows.any (fun w => w.lines.any (fun l => l.st == .writing))

/-- Change every thread of the resident bundles of a team. -/
def State.mapTeamThreads (s : State) (t : Nat) (f : Thread → Thread) : State :=
  { s with bundles := s.bundles.map (fun b => if b.live && b.team == some t then { b with threads := b.threads.map f } else b) }

/-! ### Stores that are outstanding (R152, R154, R317) -/

/-- Unspecified bytes. -/
def freeBytes (tick place n : Nat) : List Byte := (List.range n).map (fun i => Config.freeByte tick place i)

/-- Bytes with those of a mask replaced by unspecified ones. -/
def mixBytes (tick place : Nat) (m : BitVec 16) (bs : List Byte) : List Byte :=
  bs.mapIdx (fun i b => if m.getLsbD i then Config.freeByte tick place i else b)

/-- Eight bytes as a 64-bit value, least significant first. -/
def dwordOf (bs : List Byte) : DWord := BitVec.ofNat 64 (ofBytes bs)

/-- A store to the device windows reaches its register at the end of the step (R398); another size is ignored. -/
def State.windowStore (s : State) (pa : Nat) (bs : List Byte) : State :=
  if bs.length = 8 then
    { s with regwrites := s.regwrites ++ [(BitVec.ofNat 39 (paOffset pa - deviceBase), dwordOf bs)] }
  else s

/-- The outstanding stores of a thread. -/
def Thread.stores (t : Thread) : List PStore :=
  t.out.filterMap (fun p => match p with
    | .store x => some x
    | .fence _ => none)

/-- Recall the stash copies of a line of another node, whose home a request reaches (R239, R241). -/
def State.recallRemote (s : State) (pa : Nat) (store : Bool) : State := (s.recall (s.homeOf pa) store none).1

/-- Perform a store (R152): its bytes reach home, or its register, or its node; a request that stands for a load has none. -/
def State.performOne (s : State) (place : Nat) (x : PStore) : State :=
  if x.link.isSome then (if x.bytes.isEmpty then s else s.recallRemote x.pa true)
  else if x.pa ≥ lpddrEnd then s.windowStore x.pa x.bytes
  else s.outsideWrite x.ver x.pa (mixBytes s.ticks place x.mix x.bytes)

/-- The injection register's effect on a write (R317): the bit of the named byte is inverted once. -/
def State.inject (s : State) (asid : BitVec 16) (va : DWord) (bs : List Byte) : State × List Byte :=
  let j := (s.ctx asid).inject
  let bit := (j.extractLsb' 56 6).toNat
  let at_ := (j.extractLsb' 3 53).toNat * 8 + bit / 8
  if j.getLsbD 63 && j.extractLsb' 0 3 == 1 && va.toNat ≤ at_ && at_ < va.toNat + bs.length then
    (s.modCtx asid (fun c => { c with inject := (c.inject &&& ~~~(1#64 <<< 63)) ||| (1#64 <<< 62) }),
      bs.modify (at_ - va.toNat) (fun b => b ^^^ (1#8 <<< (bit % 8))))
  else (s, bs)

/-! ### Rings in memory (R272, R329, R391, R393) -/

/-- Append a record to the ring whose descriptor is at a physical address, unless it is full; `big` records of 64 bytes or
others of 32. The boolean says whether the record was written. -/
def State.ringAppend (s : State) (desc recBytes : Nat) (bs : List Byte) (overwrite : Bool) : State × Bool :=
  let (s, base) := s.physRead desc 8
  let (s, size) := s.physRead (desc + 8) 4
  let (s, wr) := s.physRead (desc + 16) 8
  let (s, rd) := s.physRead (desc + 24) 8
  if size = 0 then (s, false)
  else if !overwrite && (wr + 2 ^ 64 - rd) % 2 ^ 64 ≥ size then (s, false)
  else
    let at_ := paOffset (base + recBytes * (wr % size))
    let s := (bs.zip (List.range bs.length)).foldl (fun s b => s.outsideWrite none (at_ + b.2) [b.1]) s
    (s.physWrite (desc + 16) 8 ((wr + 1) % 2 ^ 64), true)

/-! ### Page walks (R322 to R328) -/

/-- Why an address is translated (R324, R328). -/
inductive Access where
  | read | write | fetch | atomic | engineRead | engineWrite
  deriving DecidableEq, Repr

/-- The access needs W (R324). -/
def Access.isStore : Access → Bool
  | .write => true
  | .atomic => true
  | .engineWrite => true
  | _ => false

/-- The bits of ACCESS in a page record (R328). -/
def Access.bits : Access → BitVec 16
  | .read => 1
  | .write => 2
  | .fetch => 4
  | .atomic => 8
  | .engineRead => 0x11
  | .engineWrite => 0x12

/-- The end of a walk: a leaf with log2 of its page size, the address of its entry and the entry, or a failure with the
REASON of R328. -/
inductive WalkEnd where
  | leaf (size : Nat) (at_ : Nat) (pte : DWord)
  | fail (reason : Nat)
  deriving DecidableEq, Repr

/-- A level of the walk (R322): the lowest virtual bit it indexes, how many bits, whether a leaf is allowed and whether one
is required, and the alignment of the next table. -/
structure WalkLevel where
  lo : Nat
  bits : Nat
  leafOk : Bool
  leafOnly : Bool
  next : Nat
  deriving DecidableEq, Repr

/-- The five levels T4 to T0 (R322). -/
def walkLevels : List WalkLevel :=
  [⟨48, 8, false, false, 4096⟩, ⟨39, 9, false, false, 4096⟩, ⟨30, 9, true, false, 4096⟩, ⟨21, 9, true, false, 256⟩,
    ⟨16, 5, true, true, 1⟩]

/-- The frame or table address of an entry (R323). -/
def ptePa (e : DWord) : Nat := (e.extractLsb' 8 44).toNat * 256

/-- A valid entry is malformed at a level (R323). -/
def pteMalformed (l : WalkLevel) (e : DWord) : Bool :=
  let leaf := e.getLsbD 1
  let mtype := (e.extractLsb' 58 2).toNat
  e.extractLsb' 60 4 != 0 || e.extractLsb' 52 6 != 0
  || (leaf && !l.leafOk) || (!leaf && l.leafOnly)
  || (leaf && ptePa e % 2 ^ l.lo != 0) || (!leaf && ptePa e % l.next != 0)
  || (!leaf && (mtype != 0 || e.extractLsb' 2 6 != 0))
  || (e.getLsbD 3 && !e.getLsbD 2) || (e.getLsbD 5 && !e.getLsbD 4)
  || mtype ≥ 2 || (mtype == 1 && e.getLsbD 4)

/-- The place of an agent that is on no partition, such as Shepherd, a system core or a port, whose translations have caches of
their own (assumption 78). -/
def packagePlace : Nat := 128

/-- The partition of a place, and the caches that serve it (R326). -/
def placePart (place : Nat) : Nat := place / 16

/-- The number that the partition's cache of a place has. -/
def partPlace (place : Nat) : Nat := 256 + placePart place

/-- The table that the walk cache of a place has for an address at a level (R326). -/
def State.walkCached (s : State) (place : Nat) (asid : BitVec 16) (va : DWord) (lo : Nat) : Option Nat :=
  (s.walks.find? (fun e => e.part == placePart place && e.asid == asid && e.lo == lo && e.page == va.toNat / 2 ^ lo)).map (·.table)

/-- Walk the levels from a table (R322) for an agent at a place, with the entries of tables that it read on the way. Entries are
read at home, but for those that the walk cache holds (R326); a table outside this device's memory is malformed (assumption 7),
and an uncorrectable error in an entry ends the walk (R328). -/
def State.walkFrom (s : State) (place : Nat) (asid : BitVec 16) (va : DWord) :
    List WalkLevel → Nat → List WalkEntry → State × WalkEnd × List WalkEntry
  | [], _, es => (s, .fail 1, es)
  | l :: ls, table, es =>
    match s.walkCached place asid va l.lo with
    | some next => State.walkFrom s place asid va ls next es
    | none =>
      let at_ := table + 8 * bitsAt va.toNat l.lo l.bits
      if !(s.isLocal at_ && paOffset at_ < lpddrEnd) then (s, .fail 1, es)
      else if s.badmem.contains (paOffset at_ / 8) then (s, .fail 2, es)
      else
        let (s, e) := s.physRead (paOffset at_) 8
        let e : DWord := BitVec.ofNat 64 e
        if !e.getLsbD 0 then (s, .fail 0, es)
        else if pteMalformed l e then (s, .fail 1, es)
        else if e.getLsbD 1 then (s, .leaf l.lo (paOffset at_) e, es)
        else s.walkFrom place asid va ls (ptePa e) (⟨placePart place, asid, l.lo, va.toNat / 2 ^ l.lo, ptePa e⟩ :: es)

/-- A translation of an address in one cache (R326). -/
def State.tlbIn (s : State) (cache : Nat) (asid : BitVec 16) (va : DWord) : Option TlbEntry :=
  s.tlb.find? (fun e => e.place == cache && e.asid == asid && va.toNat / 2 ^ e.size == e.page)

/-- Put a translation into a cache, in place of the one that it has for the page. -/
def State.tlbPut (s : State) (e : TlbEntry) : State :=
  { s with tlb := e :: s.tlb.filter (fun x => !(x.place == e.place && x.asid == e.asid && x.size == e.size && x.page == e.page)) }

/-- The cached translation that an agent at a place finds (R326): its core's, or else its partition's. -/
def State.tlbFind (s : State) (place : Nat) (asid : BitVec 16) (va : DWord) : Option TlbEntry :=
  match s.tlbIn place asid va with
  | some e => some e
  | none => s.tlbIn (partPlace place) asid va

/-- Walk for an access, set A, and D for a store (R325), and cache what the walk found (R326). -/
def State.walkFill (s : State) (place : Nat) (asid : BitVec 16) (va : DWord) (store : Bool) : State × Option TlbEntry × Nat :=
  match s.walkFrom place asid va walkLevels (s.ctx asid).root.toNat [] with
  | (s, .fail r, _) => (s, none, r)
  | (s, .leaf size at_ pte, es) =>
    let pte' := pte ||| 0x40 ||| (if store then 0x80 else 0)
    let s := if pte' == pte then s else s.physWrite at_ 8 pte'.toNat
    let e : TlbEntry := ⟨place, asid, va.toNat / 2 ^ size, size, ptePa pte, pte'⟩
    let s := (s.tlbPut { e with place := partPlace place }).tlbPut e
    ({ s with walks := es ++ s.walks }, some e, 0)

/-- The outcome of a translation: an address with the leaf, an absent page with its REASON, or a permission refused. -/
inductive Xl where
  | ok (pa : Nat) (leaf : DWord)
  | absent (reason : Nat)
  | prot
  deriving DecidableEq, Repr

/-- The unresumed record of a page (R328). -/
def State.pageRecOf (s : State) (asid : BitVec 16) (va : DWord) : Option PageRec :=
  s.intc.records.find? (fun r => r.asid == asid && r.page == va.toNat / 65536)

/-- The leaf allows the access (R324). -/
def leafAllows (leaf : DWord) (k : Access) : Bool :=
  match k with
  | .fetch => leaf.getLsbD 4
  | .write => leaf.getLsbD 3
  | .atomic => leaf.getLsbD 3 && leaf.extractLsb' 58 2 != 1
  | .engineWrite => leaf.getLsbD 3
  | .read => leaf.getLsbD 2
  | .engineRead => leaf.getLsbD 2

/-- Translate an address for an access of an agent at a place (R321 to R328). A cached translation is used until it is removed; a
store walks again where it finds D clear (R325). A page with an unresumed record misses at once (R328). -/
def State.xlate (s : State) (place : Nat) (asid : BitVec 16) (va : DWord) (k : Access) : State × Xl :=
  let hit := match s.tlbFind place asid va with
    | some e => if k.isStore && !e.leaf.getLsbD 7 then none else some e
    | none => none
  let answer (e : TlbEntry) : Xl :=
    if leafAllows e.leaf k then .ok (e.frame + va.toNat % 2 ^ e.size) e.leaf else .prot
  match hit with
  | some e => (if e.place == place then s else s.tlbPut { e with place := place }, answer e)
  | none =>
    match s.pageRecOf asid va with
    | some r => (s, .absent r.reason)
    | none =>
      match s.walkFill place asid va k.isStore with
      | (s, some e, _) => (s, answer e)
      | (s, none, r) => (s, .absent r)

/-- Translate without any effect: a cached translation, or a walk that sets and caches nothing. For reads that never fault
and for a comparison that the device makes on its own (R99, R366). -/
def State.peekXlate (s : State) (place : Nat) (asid : BitVec 16) (va : DWord) : Option Nat :=
  match s.tlbFind place asid va with
  | some e => some (e.frame + va.toNat % 2 ^ e.size)
  | none =>
    match (s.walkFrom place asid va walkLevels (s.ctx asid).root.toNat []).2.1 with
    | .leaf size _ pte => some (ptePa pte + va.toNat % 2 ^ size)
    | .fail _ => none

/-- The address is valid: bits 63 to 56 are zero (R148). -/
def vaValid (va : DWord) : Bool := va.extractLsb' 56 8 == 0

/-- The address lies in the team-private range (R236). -/
def vaPrivate (va : DWord) : Bool := va.extractLsb' 40 24 == 0x00FFFF

/-- The lowest address of the team-private range, where window 0 starts (R236). -/
def privateBase : Nat := 0x00FFFF0000000000

/-- How a firmware access to a context's memory ends: a value, memory of another node, whose value is free (assumption 1), or a
fault. -/
inductive Virt where
  | val (v : Nat)
  | remote
  | fault
  deriving DecidableEq, Repr

/-- The value of a read, if this node holds it. -/
def Virt.value : Virt → Option Nat
  | .val v => some v
  | _ => none

/-- The value of a read, free where another node holds it (assumption 1). -/
def Virt.orFree (free : Nat) : Virt → Option Nat
  | .val v => some v
  | .remote => some free
  | .fault => none

/-- Firmware and device accesses to a context's memory (R182, R272, R380): read `n` bytes at a virtual address. -/
def State.virtLook (s : State) (asid : BitVec 16) (va : DWord) (n : Nat) : State × Virt :=
  if !vaValid va || vaPrivate va then (s, .fault) else
  match s.xlate packagePlace asid va .read with
  | (s, .ok pa _) =>
    if !s.paExists pa then (s, .fault)
    else if !s.isLocal pa then (s, .remote)
    else if paOffset pa < lpddrEnd then
      if s.badmem.any (fun k => paOffset pa / 8 ≤ k && k ≤ (paOffset pa + n - 1) / 8) then (s, .fault)
      else let (s, v) := s.physRead (paOffset pa) n; (s, .val v)
    else (s, .fault)
  | (s, _) => (s, .fault)

/-- Read `n` bytes at a virtual address, none where this node does not hold them or the access would fault. -/
def State.virtRead (s : State) (asid : BitVec 16) (va : DWord) (n : Nat) : State × Option Nat :=
  let (s, v) := s.virtLook asid va n
  (s, v.value)

/-- Write `n` bytes at a virtual address with direct strong stores; the boolean says whether the access faulted not. -/
def State.virtWrite (s : State) (asid : BitVec 16) (va : DWord) (n v : Nat) : State × Bool :=
  if !vaValid va || vaPrivate va then (s, false) else
  match s.xlate packagePlace asid va .write with
  | (s, .ok pa _) =>
    if s.isLocal pa && paOffset pa < lpddrEnd then (s.physWrite (paOffset pa) n v, true) else (s, false)
  | (s, _) => (s, false)

end Sys2Proof.Machine
end

