-- ==== Sys2Proof/Machine/Firmware.lean ====
section
/-! DEFINITION. What Shepherd does inside a step: the journal (R393, R394), the progress of accepted packets (R384, R385),
the completion of a launch (R182), the kill and the relaunch of teams (R208 to R211). -/
namespace Sys2Proof.Machine

/-! ### The journal (R393) -/

/-- A new version of the state table is committed with the journal entry that is made (R395): at a TAKEOVER or UPDATE entry, and
where half of the ring's entries have been made since the last version. -/
def State.commitsTable (s : State) (kind : Nat) : Bool :=
  kind == 5 || kind == 6 ||
  (s.host.journal != 0 && (s.physRead (paOffset s.host.journal.toNat + 8) 4).2 / 2 ≤ s.shep.seq - s.shep.verSeq)

/-- Write a journal entry: kind, state, queue, context, type and index. Without a journal descriptor nothing is written. -/
def State.journal (s : State) (kind st qid : Nat) (asid : BitVec 16) (type : Nat) (index : Nat) : State :=
  let bs := bytesOf 8 s.shep.seq ++ bytesOf 1 kind ++ bytesOf 1 st ++ bytesOf 2 qid ++ bytesOf 2 asid.toNat ++ bytesOf 2 type
    ++ bytesOf 8 index ++ bytesOf 8 s.clk.toNat
  let s' := if s.host.journal == 0 then s else (s.ringAppend (paOffset s.host.journal.toNat) 32 bs true).1
  let commit := s.commitsTable kind
  { s' with shep := { s'.shep with
      seq := s.shep.seq + 1
      verSeq := if commit then s.shep.seq else s'.shep.verSeq
      version := if commit then s'.shep.version + 1 else s'.shep.version } }

/-- The state code of a queue in its control block (R376). -/
def QueueState.code : QueueState → Nat
  | .created => 0 | .active => 1 | .suspended => 2 | .draining => 3 | .destroyed => 4 | .fenced => 5

/-- Change a queue. -/
def State.modQueue (s : State) (qid : Nat) (f : Queue → Queue) : State :=
  { s with queues := s.queues.map (fun q => if q.qid == qid && q.st != .destroyed then f q else q) }

/-- The queue of a number that is not DESTROYED. -/
def State.queue? (s : State) (qid : Nat) : Option Queue := s.queues.find? (fun q => q.qid == qid && q.st != .destroyed)

/-- Write the state of a queue with its fence reason, and FAULTIDX (R376). -/
def State.statusQueue (s : State) (q : Queue) (faultidx : Nat) : State :=
  let s := s.physWrite (paOffset q.qcb.toNat + 36) 4 (q.st.code + 256 * q.reason.toNat)
  s.physWrite (paOffset q.qcb.toNat + 40) 8 faultidx

/-- Publish READ with the state, at a transition that does so (R377, R382). -/
def State.publishQueue (s : State) (q : Queue) (faultidx : Nat) : State :=
  (s.physWrite (paOffset q.qcb.toNat + 8) 8 q.r).statusQueue q faultidx

/-- Subtract 1 from a signal as one atomic (R182, R385); address 0 names none. -/
def State.signalDown (s : State) (asid : BitVec 16) (addr : DWord) : State :=
  if addr == 0 then s else
  match s.virtRead asid addr 8 with
  | (s, some v) => (s.virtWrite asid addr 8 ((v + 2 ^ 64 - 1) % 2 ^ 64)).1
  | (s, none) => s

/-- A dependence is satisfied: the signal's value, read as signed, is 0 or below (R385). What a signal on another node holds is
free (assumption 1). -/
def State.depSatisfied (s : State) (asid : BitVec 16) (addr : DWord) : State × Bool :=
  let (s, r) := s.virtLook asid addr 8
  match r.orFree (Config.freeDWord s.ticks 64 addr.toNat).toNat with
  | some v => (s, v == 0 || v ≥ 2 ^ 63)
  | none => (s, false)

/-- Drop the dependences that are satisfied, and say whether one was. -/
def State.scanDeps (s : State) (asid : BitVec 16) : List DWord → State × List DWord × Bool
  | [] => (s, [], false)
  | d :: ds =>
    let (s, ok) := s.depSatisfied asid d
    let (s, rest, any) := s.scanDeps asid ds
    (s, if ok then rest else d :: rest, any || ok)

/-- Change a packet of a queue. -/
def State.modPacket (s : State) (qid index : Nat) (f : Packet → Packet) : State :=
  s.modQueue qid (fun q => { q with packets := q.packets.map (fun p => if p.index == index then f p else p) })

/-- A packet ends (R384); the ends of barriers and launches are journaled (R394). -/
def State.endPacket (s : State) (q : Queue) (p : Packet) (type : Nat) : State :=
  (s.journal 2 0 q.qid q.asid type p.index).modPacket q.qid p.index (fun x => { x with started := true, ended := true })

/-- Let one accepted packet of a queue start or end (R384): `prev` are the earlier packets of its queue. In a queue that drains, no
launch starts, a barrier is dropped and a signal is not performed (R392). -/
def State.packetStep (s : State) (q : Queue) (prev : List Packet) (p : Packet) : State :=
  let isBarrier (x : Packet) : Bool := match x.kind with
    | .barrier _ _ => true
    | _ => false
  let canStart := prev.all (fun x => x.ended || !(isBarrier x || p.fenceprev))
  let draining := q.st == .draining
  if p.ended || (!canStart && !draining) then s
  else match p.kind with
    | .launch id =>
      if draining then s else
      let s := s.modPacket q.qid p.index (fun x => { x with started := true })
      s.modLaunch id (fun l => if l.st == .waiting || l.st == .accepted then { l with st := .ready } else l)
    | .nop => s.endPacket q p 5
    | .signal addr value store =>
      let s := if draining then s else match s.virtRead q.asid addr 8 with
        | (s, some v) => (s.virtWrite q.asid addr 8 (if store then value.toNat else (v + value.toNat) % 2 ^ 64)).1
        | (s, none) => s
      s.endPacket q p 4
    | .barrier any deps =>
      let (s, rest, hit) := s.scanDeps q.asid deps
      let s := s.modPacket q.qid p.index (fun x => { x with started := true, kind := .barrier any rest })
      if draining || deps.isEmpty || (if any then hit else rest.isEmpty) then (s.endPacket q p (if any then 3 else 2)).signalDown q.asid p.done
      else s

/-- One pass over the packets of a queue in index order. -/
def State.queuePass (s : State) (qid : Nat) : State :=
  match s.queue? qid with
  | none => s
  | some q =>
    (List.range q.packets.length).foldl (fun s i =>
      match s.queue? qid with
      | some q => (match q.packets[i]? with
        | some p => s.packetStep q (q.packets.take i) p
        | none => s)
      | none => s) s

/-- A draining queue whose accepted packets have all ended is DESTROYED (R377). -/
def State.queueDrained (s : State) (qid : Nat) : State :=
  match s.queue? qid with
  | some q =>
    if q.st == .draining && q.packets.all (·.ended) then
      let q' := { q with st := .destroyed, kick := false }
      let s := s.publishQueue q' 0
      { s.journal 3 4 q.qid q.asid 0 0 with queues := s.queues.map (fun x => if x.qid == qid && x.st != .destroyed then q' else x) }
    else s
  | none => s

/-- Let every accepted packet progress as far as it can (R384, R385); each pass may satisfy what the next one finds. -/
def State.serviceQueues (s : State) : State :=
  let pass (s : State) : State := s.queues.foldl (fun s q => s.queuePass q.qid) s
  let fuel := s.queues.foldl (fun n q => n + (q.packets.filter (fun p => !p.ended)).length) 0
  let s := (List.range fuel).foldl (fun s _ => pass s) s
  s.queues.foldl (fun s q => s.queueDrained q.qid) s

/-! ### Completion of a launch (R179, R182) -/

/-- The stores of a launch's killed teams that no version has taken with it are performed (R182, R209). -/
def State.drainKilled (s : State) (n : Nat) : State :=
  (indices s.bundles).foldl (fun s b =>
    if (s.bundle b).was.map (fun t => (s.team t).launch) == some n then
      (indices (s.bundle b).threads).foldl (fun s l =>
        ((s.thread b l).stores.foldl (fun s x => s.performOne l x) s).modThread b l (fun t => { t with out := [] })) s
    else s) s

/-- The completion steps of R182: the fence, the record, the journal entry, the signal. What retired teams have stored has been
performed as they were published (R208). -/
def State.writeCompletion (s : State) (n : Nat) : State :=
  let s := s.drainKilled n
  let l := s.launch n
  let s := if l.lrec.crec == 0 then s else
    let team := if l.status == 6 then (l.failTeam.getD 0xFFFFFFFF) else 0xFFFFFFFF
    let s := (s.virtWrite l.asid l.lrec.crec 8 (l.status.toNat + 2 ^ 32 * team)).1
    (s.virtWrite l.asid (l.lrec.crec + 8) 8 l.relaunches).1
  let s := match l.packet with
    | some (qid, i) => s.journal 2 l.status.toNat qid l.asid 1 i
    | none => s.journal 2 l.status.toNat 0xFFFF l.asid 1 l.lrec.addr.toNat
  let s := s.signalDown l.asid l.lrec.signal
  let s := s.modLaunch n (fun x => { x with st := .done })
  match l.packet with
  | some (qid, i) => s.modPacket qid i (fun x => { x with started := true, ended := true })
  | none => s

/-- A launch reaches COMPLETING with a status (R180): it completes, unless a takeover holds completions back (R396). -/
def State.completeLaunch (s : State) (n : Nat) (status : BitVec 8) : State :=
  let s := s.modLaunch n (fun l => { l with st := .completing, status := status })
  if s.shep.taking then { s with shep := { s.shep with held := s.shep.held ++ [n] } }
  else (s.writeCompletion n).serviceQueues

/-- The teams of a launch. -/
def State.launchTeams (s : State) (n : Nat) : List Nat := (indices s.teams).filter (fun t => (s.team t).launch == n)

/-- The team has ended: RETIRED or FAILED. -/
def Team.ended (t : Team) : Bool := t.st == .retired || t.st == .failed

/-- A RUNNING launch whose packs are all made and whose teams have all ended completes (R180); one that was stopped before its packs were
all made is ABORTED (R392). -/
def State.launchCheck (s : State) (n : Nat) : State :=
  let l := s.launch n
  if l.st == .running && (l.made == l.packs || l.stopped) && (s.launchTeams n).all (fun t => (s.team t).ended) then
    s.completeLaunch n (if l.stopped && l.made < l.packs then 7 else if l.failTeam.isSome then 6 else 0)
  else s

/-! ### Kill, relaunch and failure (R208 to R211) -/

/-- A store that has issued and that no version takes with it: it stays (R209). -/
def Pending.stays : Pending → Bool
  | .store x => x.ver.isNone
  | .fence _ => false

/-- The accesses of a thread that may still race are ordered by a release at a tick (R154): those of the streams that a set names. The
thread's own later stores in the streams of `late` come after them. -/
def Touch.releasedAt (tick : Nat) (early late : BitVec 16) (x : Touch) : Touch :=
  if early.getLsbD x.stream || x.stream ≥ 16 then { x with rel := some (x.rel.getD tick), own := x.own ||| late } else x

/-- A thread of a killed team (R209): its direct stores are still performed. -/
def Thread.kill (tick : Nat) (x : Thread) : Thread :=
  { x with
    st := .exited, ticket := none, out := x.out.filter Pending.stays, recent := x.recent.map (Touch.releasedAt tick 0xFFFF 0xFFFF)
    report := none, slots := [], pwait := none, bound := [] }

/-- A bundle of a killed team (R209), which is none of a relaunched team's. -/
def Bundle.kill (tick : Nat) (b : Bundle) : Bundle :=
  { b with
    live := false, team := none, was := b.team.or b.was, late := [], posting := none, deliver := []
    threads := b.threads.map (Thread.kill tick) }

/-- The command of a killed team (R209, R252): a copy is cancelled; a matrix post or a collective runs on, and no thread gets its
token. -/
def Cmd.kill (c : Cmd) : Cmd :=
  match c.st, c.spec with
  | .done, _ => c
  | _, .copy _ => { c with st := .cancelled }
  | _, _ => { c with orphan := true }

/-- The increment of INPROG that a `graft` of the thread has made (R287). -/
def Thread.graftHome (t : Thread) : Option SyncHome :=
  match t.st with
  | .waiting (.word _ _ _ home) => home
  | _ => none

/-- A SYNC word with INPROG changed by a number modulo 2^16 (R279). -/
def syncProg (n v : Nat) : Nat := v - v % 65536 + (v + n) % 65536

/-- The version that an access acts in now: one that has been published, early or not, acts in committed memory (R311, R312). -/
def State.verNow (s : State) (ver : Option Nat) : Option Nat :=
  match ver with
  | some t => if (s.team t).verOpen then some t else none
  | none => none

/-- The increment of INPROG by a `graft` of a killed team is undone by one atomic (R209, R289), which the injection register may alter
(R317); one that the discarded version, a discarded line or a window of the team alone holds goes with it. -/
def State.graftUndone (s : State) (asid : BitVec 16) (h : SyncHome) : State :=
  match h.off with
  | none => s
  | some off =>
    if (s.verNow h.ver).isSome then s
    else if off ≥ 2 ^ 52 then ((s.recall off true none).1.inject asid h.va (freeBytes s.ticks off 8)).1
    else
      let (s, v) := s.physRead off 8
      let (s, bs) := s.inject asid h.va (bytesOf 8 (syncProg 65535 v))
      s.outsideWrite none off bs

/-- The stash of killed teams is discarded (R209): no line of it is written back. -/
def State.dropStash (s : State) (ts : List Nat) : State := ts.foldl (fun s t => s.modTeam t (fun x => { x with windows := [] })) s

/-- The effects of a kill on one team (R209): grafts undone, threads EXITED, slots and registers returned, copies cancelled, posts and
collectives drained with their tokens undelivered, stash and version discarded, barriers and monitors discarded. No bundle of the killed
run, those that have retired among them, is one of the team any more (R210). -/
def State.teardown (s : State) (t : Nat) : State :=
  let s := s.dropStash [t]
  let homes := (s.bundles.filter (fun b => b.team == some t)).flatMap (fun b => b.threads.filterMap Thread.graftHome)
  let s := homes.foldl (fun s h => s.graftUndone (s.team t).asid h) s
  let s : State := { s with bundles := s.bundles.map (fun b => if b.team == some t then b.kill s.ticks else b) }
  let s : State := { s with cmds := s.cmds.map (fun c => if c.team == t then c.kill else c) }
  let s : State := { s with grow := s.grow.filter (fun g => (s.bundle g.bundle).live) }
  s.modTeam t (fun x =>
    let v : Version := ⟨if x.ver.st == .none then .none else .discarded, [], false⟩
    { x with bars := [], mons := [], ver := v })

/-- Launches that a thread of the team launched and that are not DONE (R200). -/
def State.childrenOf (s : State) (t : Nat) : List Nat :=
  (indices s.launches).filter (fun n => (s.launch n).parent == some t && (s.launch n).st != .done)

/-- Abort a launch (R180, R392): its teams are killed and not relaunched, the children of its teams are aborted (R200), and
it completes with ABORTED. The first argument bounds the depth of children, which R197 keeps at 10. -/
def State.abortLaunch : Nat → State → Nat → State
  | 0, s, _ => s
  | fuel + 1, s, n =>
    if (s.launch n).st == .done || (s.launch n).st == .completing then s
    else
      let ts := (s.launchTeams n).filter (fun t => !(s.team t).ended)
      let kids := (indices s.launches).filter (fun k => ts.any (fun t => (s.launch k).parent == some t))
      let s := s.dropStash ts
      let s := ts.foldl (fun s t => (s.teardown t).modTeam t (fun x => { x with st := .failed, slot := none })) s
      let s := s.modLaunch n (fun l => { l with stopped := true })
      let s := kids.foldl (fun s k => State.abortLaunch fuel s k) s
      s.completeLaunch n 7

/-- The depth of launches is at most 10 (R197). -/
def launchDepth : Nat := 12

/-- The relaunch limit of a team's kernel (R174). -/
def State.relaunchLimit (s : State) (t : Nat) : Nat :=
  (((s.teamLaunch t).obj.getD CodeObj.absent).kflags.extractLsb' 2 3).toNat

/-- The kernel is versioned or idempotent (R210). -/
def State.restartable (s : State) (t : Nat) : Bool :=
  let k := ((s.teamLaunch t).obj.getD CodeObj.absent).kflags
  k.getLsbD 0 || k.getLsbD 1

/-- A containment event now would relaunch the team, its count aside (R210). -/
def State.relaunchable (s : State) (t : Nat) : Bool := s.restartable t && !(s.pack (s.team t).pack).early

/-- The teams of a team's pack that have not ended (R211). -/
def State.packTeams (s : State) (t : Nat) : List Nat :=
  ((s.pack (s.team t).pack).members).filter (fun x => !(s.team x).ended)

/-- A containment event may kill a team in this state (R208). -/
def TeamState.killable : TeamState → Bool
  | .loading | .running | .parked | .childwait | .committing => true
  | _ => false

/-- Kill a team with its pack (R209 to R211, R313): every killed team relaunches, or all fail; `final` forbids a relaunch (ACTION
FAIL, R300). `record` delivers the containment records, given the outcome of R316 and whether the count alone forbids a relaunch. -/
def State.killPack (s : State) (t : Nat) (final : Bool) (record : State → List Nat → Nat → Bool → State) : State :=
  if !(s.team t).st.killable then s else
  let ts := s.packTeams t
  let may := s.relaunchable t && !final
  let room := ts.all (fun x => (s.team x).count < s.relaunchLimit x)
  let kids := (indices s.launches).filter (fun k => ts.any (fun x => (s.launch k).parent == some x))
  let pk := (s.team t).pack
  let n := (s.team t).launch
  let s := s.dropStash ts
  let s := ts.foldl (fun s x => s.teardown x) s
  let s := kids.foldl (fun s k => State.abortLaunch launchDepth s k) s
  let s := s.modPack pk (fun p => { p with bars := [] })
  if may && room then
    let s := ts.foldl (fun s x => s.modTeam x (fun y => { y with st := .relaunching, count := y.count + 1 })) s
    let s := s.modPack pk (fun p => { p with origin := none })
    let s := s.modLaunch n (fun l => { l with relaunches := l.relaunches + ts.length })
    record s ts 0 false
  else
    let s := ts.foldl (fun s x => s.modTeam x (fun y => { y with st := .failed, slot := none })) s
    let s := s.modLaunch n (fun l => { l with failTeam := some (l.failTeam.getD (s.team t).index) })
    (record s ts 1 may).launchCheck n

/-- A containment event of a team (R208, R313): a cause, at a word, by a monitor perhaps; one containment record is delivered
(R316), with the cause RELAUNCH_LIMIT where the count alone forbids a relaunch (R315). -/
def State.killTeam (s : State) (t : Nat) (cause : BitVec 8) (final : Bool) (mon : Option Nat) (pc : DWord) : State :=
  s.killPack t final (fun s _ outcome limit => s.containmentRecord t (if limit then 0x63 else cause) outcome mon pc)

end Sys2Proof.Machine
end

