-- ==== Sys2Proof/Machine/Encoding.lean ====
section
/-! DEFINITION. The encoding checks of R42 to R48 that concern the word alone: variants that the opcode map does not list
(RESERVED_FN), fields that must be zero (MBZ_SET, R30) and register numbers (BAD_REGISTER, R29), in the order of R48. -/
namespace Sys2Proof

/-- A defect of a word that its fields show without the state: the causes 0x01, 0x02 and 0x05 of R47. -/
inductive EncFault where
  /-- A variant that the opcode map does not list. -/
  | reservedFn
  /-- A bit or a field that must be zero is not zero. -/
  | mbzSet
  /-- A register number breaks a constraint of R29. -/
  | badRegister
  deriving DecidableEq, Repr

/-- A register field that a 64-bit operand may not name (R29). -/
def odd (r : BitVec 6) : Bool := r.getLsbD 0

/-- A register field that is not a multiple of `n` (R29). -/
def unaligned (r : BitVec 6) (n : Nat) : Bool := r.toNat % n != 0

/-- The format codes of R43 that are integers. -/
def fmtIsInt (c : BitVec 6) : Bool := 1 ≤ c && c ≤ 8

/-- The format codes of R43 whose value fills a pair of registers. -/
def fmtIsWide (c : BitVec 6) : Bool := c == 0x07 || c == 0x08 || c == 0x13

/-- The conversions of R68: from-format `f`, to-format `t`. -/
def cvtLegal (f t : BitVec 6) : Bool :=
  (fmtIsInt f && fmtIsInt t && f != t)
  || (fmtIsInt f && (t == 0x12 || t == 0x13))
  || ((f == 0x12 || f == 0x13) && fmtIsInt t)
  || (f == 0x12 && (t == 0x13 || t == 0x11 || t == 0x10 || t == 0x14 || t == 0x15 || t == 0x18))
  || (t == 0x12 && (f == 0x13 || f == 0x11 || f == 0x10 || f == 0x14 || f == 0x15 || f == 0x18))

/-- The number of consecutive registers that a conversion reads (R68). -/
def cvtReads (f t : BitVec 6) : Nat :=
  if fmtIsWide f then 2
  else if f == 0x12 && (t == 0x11 || t == 0x10) then 2
  else if f == 0x12 && (t == 0x14 || t == 0x15) then 4
  else if f == 0x12 && t == 0x18 then 5
  else 1

/-- The number of consecutive registers that a conversion writes (R68). -/
def cvtWrites (f t : BitVec 6) : Nat :=
  if fmtIsWide t then 2
  else if t == 0x12 && (f == 0x11 || f == 0x10) then 2
  else if t == 0x12 && (f == 0x14 || f == 0x15) then 4
  else if t == 0x12 && f == 0x18 then 5
  else 1

/-- A group of `n` registers that starts at `r` breaks its alignment or passes register 63 (R68). -/
def badGroup (r : BitVec 6) (n : Nat) : Bool :=
  if n == 5 then r > 59 else unaligned r n

/-- A conversion names a register group wrongly (R68). -/
def cvtBadRegister (d a f t : BitVec 6) : Bool := badGroup a (cvtReads f t) || badGroup d (cvtWrites f t)

/-- The operations and types of `atom` and `atomr` (R44). -/
def atomLegal (p t : BitVec 4) : Bool := (p ≤ 7 && t ≤ 3) || (8 ≤ p && p ≤ 10 && t == 4)

/-- The level and the number of a barrier (R45, R222). -/
def barLegal (l : BitVec 2) (n : BitVec 4) : Bool := l == 1 || (l == 2 && n ≤ 3)

/-- The special-register numbers that R362 assigns. -/
def srAssigned (r : BitVec 12) : Bool :=
  r ≤ 0x005 || (0x008 ≤ r && r ≤ 0x00B) || (0x010 ≤ r && r ≤ 0x016) || (0x020 ≤ r && r ≤ 0x033)
  || (0x040 ≤ r && r ≤ 0x06F) || r == 0x080

/-- The special registers that are 64 bits wide (R362). -/
def srWide (r : BitVec 12) : Bool :=
  (0x008 ≤ r && r ≤ 0x00B) || r == 0x010 || r == 0x014 || (0x031 ≤ r && r ≤ 0x033) || (0x040 ≤ r && r ≤ 0x06F) || r == 0x080

/-- The first defect of an instruction's word in the order of R48, of those that the word alone shows. An event has none. -/
def encDefect : Instr → Option EncFault
  | .add d a b f _ => if f > 1 then some .reservedFn else if f == 1 && (odd d || odd a || odd b) then some .badRegister else none
  | .sub d a b f _ => if f > 1 then some .reservedFn else if f == 1 && (odd d || odd a || odd b) then some .badRegister else none
  | .mul d a b f _ => if f == 1 && (odd d || odd a || odd b) then some .badRegister else none
  | .mulh _ _ _ _ _ => none
  | .mad d a b f _ => if f > 1 then some .reservedFn else if f == 1 && (odd d || odd a || odd b) then some .badRegister else none
  | .div _ _ _ _ _ => none
  | .rem _ _ _ _ _ => none
  | .minmax d a b f _ => if f > 5 then some .reservedFn else if f ≥ 4 && (odd d || odd a || odd b) then some .badRegister else none
  | .absneg d a f _ => if f > 3 then some .reservedFn else if f ≥ 2 && (odd d || odd a) then some .badRegister else none
  | .logic _ _ b f h => if f > 6 then some .reservedFn else if f == 6 && (b != 0 || h.getLsbD 1) then some .mbzSet else none
  | .shift d a _ f _ => if f > 6 then some .reservedFn else if f ≥ 4 && (odd d || odd a) then some .badRegister else none
  | .bits _ _ f _ => if f > 3 then some .reservedFn else none
  | .bfx _ _ _ f _ => if f > 1 then some .reservedFn else none
  | .bfi _ _ _ _ => none
  | .cmp _ c a b f _ => if f > 5 || (c ≥ 6 && f < 4) then some .reservedFn else if (f == 2 || f == 3 || f == 5) && (odd a || odd b) then some .badRegister else none
  | .sel d a b f _ => if f > 1 then some .reservedFn else if f == 1 && (odd d || odd a || odd b) then some .badRegister else none
  | .mov d a f _ => if f == 1 && (odd d || odd a) then some .badRegister else none
  | .movs _ _ _ => none
  | .li _ _ => none
  | .lih _ _ => none
  | .addi _ _ _ => none
  | .fadd d a b f _ => if f > 3 then some .reservedFn else if f == 1 && (odd d || odd a || odd b) then some .badRegister else none
  | .fsub d a b f _ => if f > 3 then some .reservedFn else if f == 1 && (odd d || odd a || odd b) then some .badRegister else none
  | .fmul d a b f _ => if f > 3 then some .reservedFn else if f == 1 && (odd d || odd a || odd b) then some .badRegister else none
  | .fma d a b f _ => if f > 3 then some .reservedFn else if f == 1 && (odd d || odd a || odd b) then some .badRegister else none
  | .fminmax d a b f _ => if f > 5 then some .reservedFn else if (f == 2 || f == 3) && (odd d || odd a || odd b) then some .badRegister else none
  | .fabsneg d a f _ => if f > 3 then some .reservedFn else if f ≥ 2 && (odd d || odd a) then some .badRegister else none
  | .fclass _ a f _ => if f > 1 then some .reservedFn else if f == 1 && odd a then some .badRegister else none
  | .frnd d a f _ => if f > 1 then some .reservedFn else if f == 1 && (odd d || odd a) then some .badRegister else none
  | .cvt d a f t => if !(cvtLegal f t) then some .reservedFn else if cvtBadRegister d a f t then some .badRegister else none
  | .fdiv d a b f _ => if f > 1 then some .reservedFn else if f == 1 && (odd d || odd a || odd b) then some .badRegister else none
  | .sfu _ _ f _ => if f > 6 then some .reservedFn else none
  | .sfd d a f _ => if f > 2 then some .reservedFn else if odd d || odd a then some .badRegister else none
  | .lgmul _ _ _ _ => none
  | .lgdot _ _ _ _ => none
  | .fscl d a _ f _ => if f > 1 then some .reservedFn else if f == 1 && (odd d || odd a) then some .badRegister else none
  | .smxa d a _ => if unaligned d 4 || a > 32 then some .badRegister else none
  | .smxb d a b f _ => if f > 2 then some .reservedFn else if d > 32 || a > 32 || unaligned b 4 then some .badRegister else none
  | .tagset _ _ t => if t > 9 then some .reservedFn else none
  | .tagget _ _ _ => none
  | .shfl _ _ _ f _ => if f > 3 then some .reservedFn else none
  | .ballot _ _ _ => none
  | .red _ _ _ _ => none
  | .scan _ _ f _ => if f > 5 then some .reservedFn else none
  | .elect _ => none
  | .lvidx _ _ => none
  | .lvext _ _ => none
  | .lvred _ _ _ _ _ => none
  | .lvbar _ _ => none
  | .lvend _ _ => none
  | .lvshare d _ => if odd d then some .badRegister else none
  | .lvcarry d _ => if odd d then some .badRegister else none
  | .lvlead _ _ => none
  | .br _ _ _ => none
  | .call _ _ _ => none
  | .jmp a => if odd a then some .badRegister else none
  | .callr a => if odd a then some .badRegister else none
  | .ret => none
  | .enter o n => if n < 8 || n > 56 || o > n then some .reservedFn else none
  | .exit => none
  | .brw _ _ _ => none
  | .yield _ => none
  | .nop => none
  | .mark _ => none
  | .cut d a _ => if odd d || odd a then some .badRegister else none
  | .graft a _ _ => if odd a then some .badRegister else none
  | .unmark _ => none
  | .slshare a => if odd a then some .badRegister else none
  | .slfree a => if odd a then some .badRegister else none
  | .slinfo d a => if odd d || odd a then some .badRegister else none
  | .ld8s _ a _ _ => if odd a then some .badRegister else none
  | .ld8z _ a _ _ => if odd a then some .badRegister else none
  | .ld16s _ a _ _ => if odd a then some .badRegister else none
  | .ld16z _ a _ _ => if odd a then some .badRegister else none
  | .ld32 _ a _ _ => if odd a then some .badRegister else none
  | .ld64 d a _ _ => if odd d || odd a then some .badRegister else none
  | .ld128 d a _ _ => if unaligned d 4 || odd a then some .badRegister else none
  | .st8 _ a _ _ => if odd a then some .badRegister else none
  | .st16 _ a _ _ => if odd a then some .badRegister else none
  | .st32 _ a _ _ => if odd a then some .badRegister else none
  | .st64 d a _ _ => if odd d || odd a then some .badRegister else none
  | .st128 d a _ _ => if unaligned d 4 || odd a then some .badRegister else none
  | .atom d a p t _ => if !(atomLegal p t) then some .reservedFn else if odd a || ((t == 2 || t == 3) && odd d) then some .badRegister else none
  | .atomr d a p t _ => if !(atomLegal p t) then some .reservedFn else if odd a || ((t == 2 || t == 3) && odd d) then some .badRegister else none
  | .prefetch a _ _ => if odd a then some .badRegister else none
  | .await _ a _ _ => if odd a then some .badRegister else none
  | .fence s k l q => if s ≥ 8 || k == 3 then some .reservedFn else if l == 1 && q != 0 then some .mbzSet else none
  | .xfence s _ _ => if s ≥ 8 then some .reservedFn else none
  | .prefixWord _ _ _ _ _ _ => none
  | .uadd d a b f => if f > 1 then some .reservedFn else if f == 1 && (odd d || odd a || odd b) then some .badRegister else none
  | .usub d a b f => if f > 1 then some .reservedFn else if f == 1 && (odd d || odd a || odd b) then some .badRegister else none
  | .umul d a b f => if f > 3 then some .reservedFn else if f == 1 && (odd d || odd a || odd b) then some .badRegister else none
  | .uminmax d a b f => if f > 5 then some .reservedFn else if f ≥ 4 && (odd d || odd a || odd b) then some .badRegister else none
  | .ulogic _ _ b f => if f > 6 then some .reservedFn else if f == 6 && b != 0 then some .mbzSet else none
  | .ushift d a _ f => if f > 6 then some .reservedFn else if f ≥ 4 && (odd d || odd a) then some .badRegister else none
  | .ubits _ _ f => if f > 3 then some .reservedFn else none
  | .ucmp _ a b c t => if c ≥ 6 || t ≥ 4 then some .reservedFn else if t ≥ 2 && (odd a || odd b) then some .badRegister else none
  | .umov d a f => if f > 1 then some .reservedFn else if f == 1 && (odd d || odd a) then some .badRegister else none
  | .uli _ _ => none
  | .ulih _ _ => none
  | .uaddi _ _ _ => none
  | .mlogic _ _ b f => if f > 6 then some .reservedFn else if f == 6 && b != 0 then some .mbzSet else none
  | .mpopc _ _ => none
  | .mtos d _ => if odd d then some .badRegister else none
  | .stom _ a => if odd a then some .badRegister else none
  | .mfirst _ _ => none
  | .ulane _ _ _ => none
  | .uld32 _ a _ _ => if odd a then some .badRegister else none
  | .uld64 d a _ _ => if odd d || odd a then some .badRegister else none
  | .ust32 _ a _ _ => if odd a then some .badRegister else none
  | .ust64 d a _ _ => if odd d || odd a then some .badRegister else none
  | .rgrow n => if n == 0 then some .reservedFn else none
  | .rgrowTry _ n => if n == 0 then some .reservedFn else none
  | .rshrink n => if n == 0 then some .reservedFn else none
  | .cpy d a => if odd d || odd a then some .badRegister else none
  | .mmpost d a => if odd d || unaligned a 8 then some .badRegister else none
  | .mmfence => none
  | .twait a => if odd a then some .badRegister else none
  | .coll d a => if odd d || odd a then some .badRegister else none
  | .stamp _ => none
  | .smapRw d a _ _ => if odd d || odd a then some .badRegister else none
  | .smapRo d a _ _ => if odd d || odd a then some .badRegister else none
  | .smapScratch d _ => if odd d then some .badRegister else none
  | .sunmap a => if odd a then some .badRegister else none
  | .sflush a _ => if odd a then some .badRegister else none
  | .sinv a _ => if odd a then some .badRegister else none
  | .sstat d a s => if s > 2 then some .reservedFn else if s == 2 && a != 0 then some .mbzSet else if (s != 0 && odd d) || (s != 2 && odd a) then some .badRegister else none
  | .binit _ l n => if !(barLegal l n) then some .reservedFn else none
  | .barrive _ l n => if !(barLegal l n) then some .reservedFn else none
  | .bwait _ l n => if !(barLegal l n) then some .reservedFn else none
  | .bsync l n => if !(barLegal l n) then some .reservedFn else none
  | .bpay d a p l n => if p > 5 || !(barLegal l n) then some .reservedFn else if odd d || odd a then some .badRegister else none
  | .hcfg a _ => if odd a then some .badRegister else none
  | .href a _ => if unaligned a 4 then some .badRegister else none
  | .hrd d _ _ => if unaligned d 4 then some .badRegister else none
  | .harm _ _ => none
  | .hchk _ _ => none
  | .vstat d s => if s > 2 then some .reservedFn else if s == 1 && odd d then some .badRegister else none
  | .nlaunch a => if odd a then some .badRegister else none
  | .sigw a => if odd a then some .badRegister else none
  | .trap n => if n > 11 then some .reservedFn else none
  | .bkpt => none
  | .rett => none
  | .srd d r => if !(srAssigned r) then some .reservedFn else if srWide r && odd d then some .badRegister else none
  | .swr a r => if !(srAssigned r) then some .reservedFn else if srWide r && odd a then some .badRegister else none
  | .icinv a _ => if odd a then some .badRegister else none
  | .icinvAll _ => none
  | .tlbinvAll => none
  | .tlbinvAsid _ => none
  | .tlbinvVa a _ => if odd a then some .badRegister else none
  | .hlrd d a c => if c > 10 then some .reservedFn else if odd d || odd a then some .badRegister else none
  | .hlwr _ a b c => if c > 10 then some .reservedFn else if odd a || odd b then some .badRegister else none
  | .fstatWrite _ _ _ => none
  | .bstatWrite _ _ => none
  | .tagmodeWrite _ _ => none
  | .leashWrite _ _ => none
  | .streamcfgWrite _ _ _ => none
  | .hentryWrite _ _ => none
  | .injectWrite _ _ => none
  | .completionFlagClear _ _ => none
  | .leashRotate _ => none
  | .leashTurnEnd _ => none
  | .rgrowGrant _ _ => none
  | .memoryAccessPerformed _ _ _ => none
  | .awaitReread _ _ => none
  | .stashFillArrives _ _ _ => none
  | .stashRecall _ _ _ _ => none
  | .stashWritebackAck _ _ _ => none
  | .stashWritebackTimeout _ _ _ => none
  | .uncorrectableError _ _ _ => none
  | .engineCommandQueued _ => none
  | .copyStart _ => none
  | .copyDone _ => none
  | .matrixTurn _ => none
  | .matrixDone _ => none
  | .collectiveDone _ _ _ => none
  | .teamPlaced _ _ => none
  | .teamPublish _ => none
  | .teamKill _ _ => none
  | .pageWalkComplete _ _ _ => none
  | .pageFaultRecordPost _ => none
  | .resumeReplay _ _ => none
  | .resumeDeliver _ _ => none
  | .tlbreqAll => none
  | .tlbreqAsid _ => none
  | .tlbreqVa _ _ => none
  | .handlerEventStart _ => none
  | .step _ => none
  | .whistleRaise _ _ => none
  | .whistleDeadline _ _ => none
  | .contextSaveDone _ _ => none
  | .kennelEvict _ _ => none
  | .kennelStage _ _ _ => none
  | .contextResume _ _ _ => none
  | .restoreDone _ _ _ => none
  | .doorbell _ => none
  | .kickService _ => none
  | .launch _ => none
  | .barrierAnd _ => none
  | .barrierOr _ => none
  | .signal _ => none
  | .nopPacket _ => none
  | .signalRescan => none
  | .createContext => none
  | .destroyContext => none
  | .createQueue => none
  | .startQueue => none
  | .suspendQueue => none
  | .destroyQueue => none
  | .grant => none
  | .usage => none
  | .loadUpdate => none
  | .roleExchange => none
  | .shepherdTakeover => none
  | .linkEnable _ => none
  | .linkReset _ => none
  | .linkRetrain _ => none
  | .linkTrained _ _ _ => none
  | .trainingTimeout _ => none
  | .laneFail _ _ => none
  | .flitRetry _ _ => none
  | .linkFence _ => none
  | .remoteTimeout _ => none
  | .remoteRequest _ _ _ _ _ _ _ _ => none
  | .ethDoorbell _ _ _ => none
  | .ethCompletion _ _ _ _ _ => none
  | .ethFrameReceive _ _ _ _ _ => none
  | .boot => none
  | .fusereq _ => none
  | .attest => none
  | .debugHalt => none
  | .debugResume => none
  | .sitterExpiry => none
  | .powerSample _ => none
  | .thermalLimit _ => none
  | .registerWrite _ _ => none
  | .illegalOpcode => none
  | .pcieHostAccess _ _ _ _ _ => none
  | .systemCoreAccess _ _ _ _ _ _ _ => none
  | .ethLinkChange _ _ => none

end Sys2Proof
end

