-- ==== Sys2Proof/Machine/Words.lean ====
section
/-! DEFINITION. What the opcode map and the rules of prefixes, clauses and handler bundles say of each word: its pipe (R28),
the prefix fields that it may use and those that it needs (R32), whether it is long-latency (R36) or a control-flow word (R39),
whether a handler bundle may execute it (R352), the uniform registers that it reads and
those that it writes, for the stall of R78 and the observations of R251, and the stream of a memory word with whether it stores, for the holds of R152. -/
namespace Sys2Proof.Machine

/-- The registers of a group of `n` that starts at a field. -/
def groupRegs (r : BitVec 6) (n : Nat) : List Nat := (List.range n).map (fun i => r.toNat + i)

/-- The two registers of a pair. -/
def pairRegsOf (r : BitVec 6) : List Nat := groupRegs r 2

/-- The properties of a word. `event` marks a row that no word encodes; `alone` a lane word before which any prefix is BAD_PREFIX, one with no
field set too (R102, R105, R189, R190, R284, R344). -/
structure WordInfo where
  event : Bool
  lane : Bool
  alone : Bool
  c : Bool
  cNeed : Bool
  cEven : Bool
  mask : Bool
  maskNeed : Bool
  zero : Bool
  rnd : Bool
  sat : Bool
  long : Bool
  flow : Bool
  handlerBan : Bool
  handlerOnly : Bool
  ureads : List Nat
  uwrites : List Nat
  mem : Option (BitVec 4 × Bool)
  deriving DecidableEq, Repr

/-- The uniform registers that a word reads or writes. -/
def WordInfo.uni (w : WordInfo) : List Nat := w.ureads ++ w.uwrites

/-- A lane word that uses no prefix field. -/
def WordInfo.plainLane : WordInfo :=
  ⟨false, true, false, false, false, false, false, false, false, false, false, false, false, false, false, [], [], none⟩

/-- A uniform word. -/
def WordInfo.uniform : WordInfo := { WordInfo.plainLane with lane := false }

/-- An event of the device. -/
def WordInfo.ofEvent : WordInfo := { WordInfo.uniform with event := true }

/-- The properties of each row of the opcode table. `twait` reads its token pair without a stall, for it is the wait. The
monitor words are banned in a handler bundle as R352 lists them, though R300 speaks of a handler that reads a monitor with `hrd` and
clears it with `href`: DESIGN CHOICE (assumption 111). -/
def wordInfo : Instr → WordInfo
  | .add _ _ _ _ _ => { WordInfo.plainLane with mask := true, zero := true, sat := true }
  | .sub _ _ _ _ _ => { WordInfo.plainLane with mask := true, zero := true, sat := true }
  | .mul _ _ _ _ _ => { WordInfo.plainLane with mask := true, zero := true }
  | .mulh _ _ _ _ _ => { WordInfo.plainLane with mask := true, zero := true }
  | .mad _ _ _ f _ => { WordInfo.plainLane with mask := true, zero := true, c := true, cNeed := true, cEven := f == 1, sat := true }
  | .div _ _ _ _ _ => { WordInfo.plainLane with mask := true, zero := true, long := true }
  | .rem _ _ _ _ _ => { WordInfo.plainLane with mask := true, zero := true, long := true }
  | .minmax _ _ _ _ _ => { WordInfo.plainLane with mask := true, zero := true }
  | .absneg _ _ _ _ => { WordInfo.plainLane with mask := true, zero := true }
  | .logic _ _ _ _ _ => { WordInfo.plainLane with mask := true, zero := true }
  | .shift _ _ _ _ _ => { WordInfo.plainLane with mask := true, zero := true }
  | .bits _ _ _ _ => { WordInfo.plainLane with mask := true, zero := true }
  | .bfx _ _ _ _ _ => { WordInfo.plainLane with mask := true, zero := true }
  | .bfi _ _ _ _ => { WordInfo.plainLane with mask := true, zero := true, c := true, cNeed := true }
  | .cmp _ _ _ _ _ _ => { WordInfo.plainLane with mask := true, zero := true }
  | .sel _ _ _ _ _ => { WordInfo.plainLane with mask := true, zero := true, maskNeed := true }
  | .mov _ _ _ _ => { WordInfo.plainLane with mask := true, zero := true }
  | .movs _ a _ => { WordInfo.plainLane with mask := true, zero := true, ureads := [a.toNat] }
  | .li _ _ => { WordInfo.plainLane with mask := true, zero := true }
  | .lih _ _ => { WordInfo.plainLane with mask := true, zero := true }
  | .addi _ _ _ => { WordInfo.plainLane with mask := true, zero := true, sat := true }
  | .fadd _ _ _ _ _ => { WordInfo.plainLane with mask := true, zero := true, rnd := true }
  | .fsub _ _ _ _ _ => { WordInfo.plainLane with mask := true, zero := true, rnd := true }
  | .fmul _ _ _ _ _ => { WordInfo.plainLane with mask := true, zero := true, rnd := true }
  | .fma _ _ _ f _ => { WordInfo.plainLane with mask := true, zero := true, c := true, cNeed := true, cEven := f == 1, rnd := true }
  | .fminmax _ _ _ _ _ => { WordInfo.plainLane with mask := true, zero := true }
  | .fabsneg _ _ _ _ => { WordInfo.plainLane with mask := true, zero := true }
  | .fclass _ _ _ _ => { WordInfo.plainLane with mask := true, zero := true }
  | .frnd _ _ _ _ => { WordInfo.plainLane with mask := true, zero := true, rnd := true }
  | .cvt _ _ _ _ => { WordInfo.plainLane with mask := true, zero := true, rnd := true, sat := true }
  | .fdiv _ _ _ _ _ => { WordInfo.plainLane with mask := true, zero := true, rnd := true, long := true }
  | .sfu _ _ _ _ => { WordInfo.plainLane with mask := true, zero := true, rnd := true, long := true }
  | .sfd _ _ _ _ => { WordInfo.plainLane with mask := true, zero := true, rnd := true, long := true }
  | .lgmul _ _ _ _ => { WordInfo.plainLane with mask := true, zero := true }
  | .lgdot _ _ _ _ => { WordInfo.plainLane with mask := true, zero := true, rnd := true }
  | .fscl _ _ _ _ _ => { WordInfo.plainLane with mask := true, zero := true, rnd := true }
  | .smxa _ _ _ => { WordInfo.plainLane with mask := true, zero := true }
  | .smxb _ _ _ _ _ => { WordInfo.plainLane with mask := true, zero := true }
  | .tagset _ _ _ => { WordInfo.plainLane with mask := true, zero := true }
  | .tagget _ _ _ => { WordInfo.plainLane with mask := true, zero := true }
  | .shfl _ _ _ _ _ => { WordInfo.plainLane with mask := true, zero := true }
  | .ballot _ _ _ => { WordInfo.plainLane with mask := true, zero := true }
  | .red _ _ _ _ => { WordInfo.plainLane with mask := true, zero := true, long := true }
  | .scan _ _ _ _ => { WordInfo.plainLane with mask := true, zero := true, long := true }
  | .elect _ => { WordInfo.plainLane with mask := true }
  | .lvidx _ _ => { WordInfo.plainLane with alone := true }
  | .lvext _ _ => { WordInfo.plainLane with alone := true }
  | .lvred _ _ _ _ _ => WordInfo.plainLane
  | .lvbar _ _ => { WordInfo.plainLane with alone := true, flow := true }
  | .lvend _ _ => { WordInfo.plainLane with alone := true, flow := true }
  | .lvshare _ _ => WordInfo.plainLane
  | .lvcarry _ _ => WordInfo.plainLane
  | .lvlead _ _ => WordInfo.plainLane
  | .br _ _ _ => { WordInfo.plainLane with alone := true, flow := true }
  | .call _ _ _ => { WordInfo.plainLane with alone := true, flow := true }
  | .jmp _ => { WordInfo.plainLane with mask := true, flow := true }
  | .callr _ => { WordInfo.plainLane with mask := true, flow := true }
  | .ret => { WordInfo.plainLane with alone := true, flow := true, mem := some (0, false) }
  | .enter _ _ => { WordInfo.plainLane with mem := some (0, true) }
  | .exit => { WordInfo.plainLane with alone := true, flow := true }
  | .brw _ _ _ => { WordInfo.plainLane with alone := true, flow := true }
  | .yield _ => { WordInfo.plainLane with alone := true, flow := true }
  | .nop => { WordInfo.plainLane with alone := true }
  | .mark _ => { WordInfo.plainLane with alone := true, handlerBan := true, mem := some (0, true) }
  | .cut _ _ _ => { WordInfo.plainLane with alone := true, flow := true, handlerBan := true, mem := some (0, true) }
  | .graft _ _ _ => { WordInfo.plainLane with alone := true, flow := true, handlerBan := true, mem := some (0, true) }
  | .unmark _ => { WordInfo.plainLane with alone := true, handlerBan := true, mem := some (0, true) }
  | .slshare _ => { WordInfo.plainLane with alone := true, handlerBan := true, mem := some (0, true) }
  | .slfree _ => { WordInfo.plainLane with alone := true, handlerBan := true, mem := some (0, true) }
  | .slinfo _ _ => { WordInfo.plainLane with alone := true, handlerBan := true, mem := some (0, false) }
  | .ld8s _ _ _ q => { WordInfo.plainLane with mask := true, zero := true, long := true, mem := some (q, false) }
  | .ld8z _ _ _ q => { WordInfo.plainLane with mask := true, zero := true, long := true, mem := some (q, false) }
  | .ld16s _ _ _ q => { WordInfo.plainLane with mask := true, zero := true, long := true, mem := some (q, false) }
  | .ld16z _ _ _ q => { WordInfo.plainLane with mask := true, zero := true, long := true, mem := some (q, false) }
  | .ld32 _ _ _ q => { WordInfo.plainLane with mask := true, zero := true, long := true, mem := some (q, false) }
  | .ld64 _ _ _ q => { WordInfo.plainLane with mask := true, zero := true, long := true, mem := some (q, false) }
  | .ld128 _ _ _ q => { WordInfo.plainLane with mask := true, zero := true, long := true, mem := some (q, false) }
  | .st8 _ _ _ q => { WordInfo.plainLane with mask := true, mem := some (q, true) }
  | .st16 _ _ _ q => { WordInfo.plainLane with mask := true, mem := some (q, true) }
  | .st32 _ _ _ q => { WordInfo.plainLane with mask := true, mem := some (q, true) }
  | .st64 _ _ _ q => { WordInfo.plainLane with mask := true, mem := some (q, true) }
  | .st128 _ _ _ q => { WordInfo.plainLane with mask := true, mem := some (q, true) }
  | .atom _ _ p t q => { WordInfo.plainLane with mask := true, c := p == 7, cNeed := p == 7, cEven := t == 2 || t == 3, mem := some (q, true) }
  | .atomr _ _ p t q => { WordInfo.plainLane with mask := true, zero := true, c := p == 7, cNeed := p == 7, cEven := t == 2 || t == 3, long := true, mem := some (q, true) }
  | .prefetch _ _ _ => { WordInfo.plainLane with mask := true }
  | .await _ _ _ q => { WordInfo.plainLane with mask := true, zero := true, long := true, mem := some (q, false) }
  | .fence _ _ _ _ => WordInfo.plainLane
  | .xfence _ _ _ => WordInfo.plainLane
  | .prefixWord _ _ _ _ _ _ => WordInfo.plainLane
  | .uadd d a b f => { WordInfo.uniform with ureads := (if f == 1 then pairRegsOf a else [a.toNat]) ++ (if f == 1 then pairRegsOf b else [b.toNat]), uwrites := (if f == 1 then pairRegsOf d else [d.toNat]) }
  | .usub d a b f => { WordInfo.uniform with ureads := (if f == 1 then pairRegsOf a else [a.toNat]) ++ (if f == 1 then pairRegsOf b else [b.toNat]), uwrites := (if f == 1 then pairRegsOf d else [d.toNat]) }
  | .umul d a b f => { WordInfo.uniform with ureads := (if f == 1 then pairRegsOf a else [a.toNat]) ++ (if f == 1 then pairRegsOf b else [b.toNat]), uwrites := (if f == 1 then pairRegsOf d else [d.toNat]) }
  | .uminmax d a b f => { WordInfo.uniform with ureads := (if f ≥ 4 then pairRegsOf a else [a.toNat]) ++ (if f ≥ 4 then pairRegsOf b else [b.toNat]), uwrites := (if f ≥ 4 then pairRegsOf d else [d.toNat]) }
  | .ulogic d a b f => { WordInfo.uniform with ureads := [a.toNat] ++ (if f == 6 then [] else [b.toNat]), uwrites := [d.toNat] }
  | .ushift d a b f => { WordInfo.uniform with ureads := (if f ≥ 4 then pairRegsOf a else [a.toNat]) ++ [b.toNat], uwrites := (if f ≥ 4 then pairRegsOf d else [d.toNat]) }
  | .ubits d a _ => { WordInfo.uniform with ureads := [a.toNat], uwrites := [d.toNat] }
  | .ucmp d a b _ t => { WordInfo.uniform with ureads := (if t ≥ 2 then pairRegsOf a else [a.toNat]) ++ (if t ≥ 2 then pairRegsOf b else [b.toNat]), uwrites := [d.toNat] }
  | .umov d a f => { WordInfo.uniform with ureads := (if f == 1 then pairRegsOf a else [a.toNat]), uwrites := (if f == 1 then pairRegsOf d else [d.toNat]) }
  | .uli d _ => { WordInfo.uniform with uwrites := [d.toNat] }
  | .ulih d _ => { WordInfo.uniform with ureads := [d.toNat] }
  | .uaddi d a _ => { WordInfo.uniform with ureads := [a.toNat], uwrites := [d.toNat] }
  | .mlogic _ _ _ _ => WordInfo.uniform
  | .mpopc d _ => { WordInfo.uniform with uwrites := [d.toNat] }
  | .mtos d _ => { WordInfo.uniform with uwrites := pairRegsOf d }
  | .stom _ a => { WordInfo.uniform with ureads := pairRegsOf a }
  | .mfirst d _ => { WordInfo.uniform with uwrites := [d.toNat] }
  | .ulane d _ _ => { WordInfo.uniform with uwrites := [d.toNat] }
  | .uld32 d a _ q => { WordInfo.uniform with long := true, ureads := pairRegsOf a, uwrites := [d.toNat], mem := some (q, false) }
  | .uld64 d a _ q => { WordInfo.uniform with long := true, ureads := pairRegsOf a, uwrites := pairRegsOf d, mem := some (q, false) }
  | .ust32 d a _ q => { WordInfo.uniform with ureads := [d.toNat] ++ pairRegsOf a, mem := some (q, true) }
  | .ust64 d a _ q => { WordInfo.uniform with ureads := pairRegsOf d ++ pairRegsOf a, mem := some (q, true) }
  | .rgrow _ => WordInfo.uniform
  | .rgrowTry d _ => { WordInfo.uniform with uwrites := [d.toNat] }
  | .rshrink _ => { WordInfo.uniform with mem := some (0, true) }
  | .cpy d a => { WordInfo.uniform with handlerBan := true, ureads := pairRegsOf a, uwrites := pairRegsOf d, mem := some (0, false) }
  | .mmpost d a => { WordInfo.uniform with handlerBan := true, ureads := groupRegs a 8, uwrites := pairRegsOf d }
  | .mmfence => { WordInfo.uniform with handlerBan := true }
  | .twait _ => { WordInfo.uniform with handlerBan := true }
  | .coll d a => { WordInfo.uniform with handlerBan := true, ureads := pairRegsOf a, uwrites := pairRegsOf d, mem := some (0, false) }
  | .stamp _ => WordInfo.uniform
  | .smapRw d a b _ => { WordInfo.uniform with handlerBan := true, ureads := pairRegsOf a ++ [b.toNat], uwrites := pairRegsOf d }
  | .smapRo d a b _ => { WordInfo.uniform with handlerBan := true, ureads := pairRegsOf a ++ [b.toNat], uwrites := pairRegsOf d }
  | .smapScratch d b => { WordInfo.uniform with handlerBan := true, ureads := [b.toNat], uwrites := pairRegsOf d }
  | .sunmap a => { WordInfo.uniform with handlerBan := true, ureads := pairRegsOf a }
  | .sflush a b => { WordInfo.uniform with handlerBan := true, ureads := pairRegsOf a ++ [b.toNat] }
  | .sinv a b => { WordInfo.uniform with handlerBan := true, ureads := pairRegsOf a ++ [b.toNat] }
  | .sstat d a s => { WordInfo.uniform with handlerBan := true, ureads := (if s == 2 then [] else pairRegsOf a), uwrites := (if s != 0 then pairRegsOf d else [d.toNat]) }
  | .binit a _ _ => { WordInfo.uniform with handlerBan := true, ureads := [a.toNat] }
  | .barrive d _ _ => { WordInfo.uniform with handlerBan := true, uwrites := [d.toNat] }
  | .bwait a _ _ => { WordInfo.uniform with handlerBan := true, ureads := [a.toNat] }
  | .bsync _ _ => { WordInfo.uniform with handlerBan := true }
  | .bpay d a _ _ _ => { WordInfo.uniform with handlerBan := true, ureads := pairRegsOf a, uwrites := pairRegsOf d }
  | .hcfg a _ => { WordInfo.uniform with handlerBan := true, ureads := pairRegsOf a, mem := some (0, false) }
  | .href a _ => { WordInfo.uniform with handlerBan := true, ureads := groupRegs a 4 }
  | .hrd d a _ => { WordInfo.uniform with handlerBan := true, ureads := [a.toNat], uwrites := groupRegs d 4 }
  | .harm a _ => { WordInfo.uniform with handlerBan := true, ureads := [a.toNat] }
  | .hchk d _ => { WordInfo.uniform with handlerBan := true, uwrites := [d.toNat] }
  | .vstat d s => { WordInfo.uniform with uwrites := (if s == 1 then pairRegsOf d else [d.toNat]) }
  | .nlaunch a => { WordInfo.uniform with handlerBan := true, ureads := pairRegsOf a, mem := some (0, false) }
  | .sigw a => { WordInfo.uniform with ureads := pairRegsOf a }
  | .trap _ => WordInfo.uniform
  | .bkpt => WordInfo.uniform
  | .rett => { WordInfo.uniform with handlerOnly := true }
  | .srd d r => { WordInfo.uniform with uwrites := (if srWide r then pairRegsOf d else [d.toNat]) }
  | .swr a r => { WordInfo.uniform with ureads := (if srWide r then pairRegsOf a else [a.toNat]) }
  | .icinv a _ => { WordInfo.uniform with ureads := pairRegsOf a }
  | .icinvAll _ => WordInfo.uniform
  | .tlbinvAll => WordInfo.uniform
  | .tlbinvAsid b => { WordInfo.uniform with ureads := [b.toNat] }
  | .tlbinvVa a b => { WordInfo.uniform with ureads := pairRegsOf a ++ [b.toNat] }
  | .hlrd d a c => { WordInfo.uniform with handlerOnly := true, ureads := pairRegsOf a, uwrites := (if c != 3 then pairRegsOf d else [d.toNat]) }
  | .hlwr d a b _ => { WordInfo.uniform with handlerOnly := true, ureads := pairRegsOf a ++ pairRegsOf b, uwrites := [d.toNat] }
  | .fstatWrite _ _ _ => WordInfo.ofEvent
  | .bstatWrite _ _ => WordInfo.ofEvent
  | .tagmodeWrite _ _ => WordInfo.ofEvent
  | .leashWrite _ _ => WordInfo.ofEvent
  | .streamcfgWrite _ _ _ => WordInfo.ofEvent
  | .hentryWrite _ _ => WordInfo.ofEvent
  | .injectWrite _ _ => WordInfo.ofEvent
  | .completionFlagClear _ _ => WordInfo.ofEvent
  | .leashRotate _ => WordInfo.ofEvent
  | .leashTurnEnd _ => WordInfo.ofEvent
  | .rgrowGrant _ _ => WordInfo.ofEvent
  | .memoryAccessPerformed _ _ _ => WordInfo.ofEvent
  | .awaitReread _ _ => WordInfo.ofEvent
  | .stashFillArrives _ _ _ => WordInfo.ofEvent
  | .stashRecall _ _ _ _ => WordInfo.ofEvent
  | .stashWritebackAck _ _ _ => WordInfo.ofEvent
  | .stashWritebackTimeout _ _ _ => WordInfo.ofEvent
  | .uncorrectableError _ _ _ => WordInfo.ofEvent
  | .engineCommandQueued _ => WordInfo.ofEvent
  | .copyStart _ => WordInfo.ofEvent
  | .copyDone _ => WordInfo.ofEvent
  | .matrixTurn _ => WordInfo.ofEvent
  | .matrixDone _ => WordInfo.ofEvent
  | .collectiveDone _ _ _ => WordInfo.ofEvent
  | .teamPlaced _ _ => WordInfo.ofEvent
  | .teamPublish _ => WordInfo.ofEvent
  | .teamKill _ _ => WordInfo.ofEvent
  | .pageWalkComplete _ _ _ => WordInfo.ofEvent
  | .pageFaultRecordPost _ => WordInfo.ofEvent
  | .resumeReplay _ _ => WordInfo.ofEvent
  | .resumeDeliver _ _ => WordInfo.ofEvent
  | .tlbreqAll => WordInfo.ofEvent
  | .tlbreqAsid _ => WordInfo.ofEvent
  | .tlbreqVa _ _ => WordInfo.ofEvent
  | .handlerEventStart _ => WordInfo.ofEvent
  | .step _ => WordInfo.ofEvent
  | .whistleRaise _ _ => WordInfo.ofEvent
  | .whistleDeadline _ _ => WordInfo.ofEvent
  | .contextSaveDone _ _ => WordInfo.ofEvent
  | .kennelEvict _ _ => WordInfo.ofEvent
  | .kennelStage _ _ _ => WordInfo.ofEvent
  | .contextResume _ _ _ => WordInfo.ofEvent
  | .restoreDone _ _ _ => WordInfo.ofEvent
  | .doorbell _ => WordInfo.ofEvent
  | .kickService _ => WordInfo.ofEvent
  | .launch _ => WordInfo.ofEvent
  | .barrierAnd _ => WordInfo.ofEvent
  | .barrierOr _ => WordInfo.ofEvent
  | .signal _ => WordInfo.ofEvent
  | .nopPacket _ => WordInfo.ofEvent
  | .signalRescan => WordInfo.ofEvent
  | .createContext => WordInfo.ofEvent
  | .destroyContext => WordInfo.ofEvent
  | .createQueue => WordInfo.ofEvent
  | .startQueue => WordInfo.ofEvent
  | .suspendQueue => WordInfo.ofEvent
  | .destroyQueue => WordInfo.ofEvent
  | .grant => WordInfo.ofEvent
  | .usage => WordInfo.ofEvent
  | .loadUpdate => WordInfo.ofEvent
  | .roleExchange => WordInfo.ofEvent
  | .shepherdTakeover => WordInfo.ofEvent
  | .linkEnable _ => WordInfo.ofEvent
  | .linkReset _ => WordInfo.ofEvent
  | .linkRetrain _ => WordInfo.ofEvent
  | .linkTrained _ _ _ => WordInfo.ofEvent
  | .trainingTimeout _ => WordInfo.ofEvent
  | .laneFail _ _ => WordInfo.ofEvent
  | .flitRetry _ _ => WordInfo.ofEvent
  | .linkFence _ => WordInfo.ofEvent
  | .remoteTimeout _ => WordInfo.ofEvent
  | .remoteRequest _ _ _ _ _ _ _ _ => WordInfo.ofEvent
  | .ethDoorbell _ _ _ => WordInfo.ofEvent
  | .ethCompletion _ _ _ _ _ => WordInfo.ofEvent
  | .ethFrameReceive _ _ _ _ _ => WordInfo.ofEvent
  | .boot => WordInfo.ofEvent
  | .fusereq _ => WordInfo.ofEvent
  | .attest => WordInfo.ofEvent
  | .debugHalt => WordInfo.ofEvent
  | .debugResume => WordInfo.ofEvent
  | .sitterExpiry => WordInfo.ofEvent
  | .powerSample _ => WordInfo.ofEvent
  | .thermalLimit _ => WordInfo.ofEvent
  | .registerWrite _ _ => WordInfo.ofEvent
  | .illegalOpcode => WordInfo.ofEvent
  | .pcieHostAccess _ _ _ _ _ => WordInfo.ofEvent
  | .systemCoreAccess _ _ _ _ _ _ _ => WordInfo.ofEvent
  | .ethLinkChange _ _ => WordInfo.ofEvent

end Sys2Proof.Machine
end

