-- ==== Sys2Proof/Machine/Ops.lean ====
section
/-! DEFINITION. Taking a trap and returning from one (R348 to R355, R359), the checks that precede every word (R29 to R33,
R47 to R49, R78), and how the issued lanes of a lane word end (R94, R97, R81). -/
namespace Sys2Proof.Machine

/-! ### Causes (R348) -/

/-- ILLEGAL_OPCODE. -/
def causeIllegalOpcode : BitVec 8 := 0x00
/-- RESERVED_FN. -/
def causeReservedFn : BitVec 8 := 0x01
/-- MBZ_SET. -/
def causeMbzSet : BitVec 8 := 0x02
/-- BAD_PREFIX. -/
def causeBadPrefix : BitVec 8 := 0x03
/-- BAD_CLAUSE. -/
def causeBadClause : BitVec 8 := 0x04
/-- BAD_REGISTER. -/
def causeBadRegister : BitVec 8 := 0x05
/-- ABSENT_UNIT. -/
def causeAbsentUnit : BitVec 8 := 0x06
/-- PRIVILEGED. -/
def causePrivileged : BitVec 8 := 0x07
/-- MISALIGNED. -/
def causeMisaligned : BitVec 8 := 0x10
/-- OUT_OF_RANGE. -/
def causeOutOfRange : BitVec 8 := 0x11
/-- PROTECTION. -/
def causeProtection : BitVec 8 := 0x12
/-- PAGE_NOT_PRESENT. -/
def causePage : BitVec 8 := 0x13
/-- STASH_ACCESS. -/
def causeStashAccess : BitVec 8 := 0x14
/-- STASH_USE. -/
def causeStashUse : BitVec 8 := 0x15
/-- SIZE_OVERLAP. -/
def causeSizeOverlap : BitVec 8 := 0x16
/-- FORMAT_TAG. -/
def causeFormatTag : BitVec 8 := 0x20
/-- UNINIT_READ. -/
def causeUninitRead : BitVec 8 := 0x21
/-- PENDING_TOUCH. -/
def causePendingTouch : BitVec 8 := 0x22
/-- ENGINE_PARAM. -/
def causeEngineParam : BitVec 8 := 0x30
/-- ENGINE_WIDTH. -/
def causeEngineWidth : BitVec 8 := 0x31
/-- ENGINE_PEER. -/
def causeEnginePeer : BitVec 8 := 0x32
/-- ENGINE_PAGES. -/
def causeEnginePages : BitVec 8 := 0x33
/-- BREAKPOINT. -/
def causeBreakpoint : BitVec 8 := 0x40
/-- SOFT_BREAK. -/
def causeSoftBreak : BitVec 8 := 0x41
/-- WATCHPOINT. -/
def causeWatchpoint : BitVec 8 := 0x42
/-- STEP. -/
def causeStep : BitVec 8 := 0x43
/-- WATCH_REPORT. -/
def causeWatchReport : BitVec 8 := 0x44
/-- HANDLER_USE. -/
def causeHandlerUse : BitVec 8 := 0x45
/-- FRAME_FAULT. -/
def causeFrameFault : BitVec 8 := 0x50
/-- WINDOW_RANGE. -/
def causeWindowRange : BitVec 8 := 0x51
/-- FRAME_LIMIT. -/
def causeFrameLimit : BitVec 8 := 0x52
/-- SLICE_NO_MARK. -/
def causeSliceNoMark : BitVec 8 := 0x53
/-- SLICE_SPACE. -/
def causeSliceSpace : BitVec 8 := 0x54
/-- SLICE_DAMAGED. -/
def causeSliceDamaged : BitVec 8 := 0x55
/-- SLICE_CONTEXT. -/
def causeSliceContext : BitVec 8 := 0x56
/-- SLICE_OWNER. -/
def causeSliceOwner : BitVec 8 := 0x57
/-- SLICE_STALE. -/
def causeSliceStale : BitVec 8 := 0x58
/-- SLICE_BUSY. -/
def causeSliceBusy : BitVec 8 := 0x59
/-- UNCORRECTABLE. -/
def causeUncorrectable : BitVec 8 := 0x60
/-- MONITOR_DRIFT. -/
def causeMonitorDrift : BitVec 8 := 0x61
/-- MONITOR_USE. -/
def causeMonitorUse : BitVec 8 := 0x64
/-- SOFTWARE_0. -/
def causeSoftware0 : BitVec 8 := 0x70
/-- LEVEL_USE. -/
def causeLevelUse : BitVec 8 := 0x7C
/-- BARRIER_USE. -/
def causeBarrierUse : BitVec 8 := 0x7D
/-- LAUNCH_DEPTH. -/
def causeLaunchDepth : BitVec 8 := 0x7E

/-! ### Taking a trap (R349 to R353) -/

/-- A trap that tells its cause only. -/
def TrapInfo.of (c : BitVec 8) : TrapInfo := ⟨c, 0, 0, 0, 0, 0, 0, 0, 0, none, 0, 0⟩

/-- REG of R349: a register as the word names it. -/
def regField (uniform : Bool) (n : Nat) : BitVec 8 := BitVec.ofNat 8 (0x80 + (if uniform then 0x40 else 0) + n % 64)

/-- A trap that names a register. -/
def TrapInfo.atReg (c : BitVec 8) (uniform : Bool) (n : Nat) : TrapInfo := { TrapInfo.of c with reg := regField uniform n }

/-- The fault record (R349). -/
def TrapInfo.record (i : TrapInfo) (tpc : DWord) : FaultRec :=
  let w0 : Nat := i.size * 2 ^ 48 + i.bmask.toNat * 2 ^ 32 + i.aux * 2 ^ 27 + i.okind * 2 ^ 24 + i.stream * 2 ^ 16
    + i.reg.toNat * 2 ^ 8 + i.cause.toNat
  ⟨BitVec.ofNat 64 w0, i.addr, i.pc.getD tpc, i.other⟩

/-- A thread parks with reason TRAP and its fault record (R85, R349). -/
def Thread.trap (t : Thread) (i : TrapInfo) (tpc : DWord) : Thread :=
  { t with st := .parked .trap, frec := i.record tpc, stale := false, unpark := false, ticket := none }

/-- Attach a thread to the record of its page, which is made where there is none (R328, R332). -/
def State.attachPage (s : State) (b l : Nat) (i : TrapInfo) (tpc : DWord) : State :=
  let asid := (s.bundle b).asid
  match s.pageRecOf asid i.addr with
  | some r =>
    let s : State := { s with intc := { s.intc with records := s.intc.records.map (fun x =>
      if x.ticket == r.ticket then { x with access := x.access ||| i.access } else x) } }
    s.modThread b l (fun t => { t with ticket := some r.ticket })
  | none =>
    let k := s.intc.nextTicket
    let r : PageRec := ⟨k, s.intc.ringOf asid, asid, i.addr.toNat / 65536, i.reason, i.access, i.addr, tpc, false⟩
    let s : State := { s with intc := { s.intc with 
      records := s.intc.records ++ [r], nextTicket := k % (2 ^ 32 - 1) + 1, waiting := s.intc.waiting ++ [.page asid k] } }
    s.modThread b l (fun t => { t with ticket := some k })

/-- The handler bundle of a part on a core (R352). -/
def State.handlerBundle (s : State) (pid core : Nat) : Option Nat :=
  (indices s.bundles).find? (fun b =>
    let x := s.bundle b
    x.live && x.handler.isSome && x.pid == pid && x.core == core)

/-- Queue an event for a handler bundle (R353). A 65th waiting WATCH_REPORT counts as LOST in the newest. -/
def Handler.push (h : Handler) (e : TrapEvent) : Handler :=
  let isReport (x : TrapEvent) : Bool := x.cause == causeWatchReport
  if isReport e && (h.queue.filter isReport).length ≥ 64 then
    let last := ((List.range h.queue.length).filter (fun i => (h.queue[i]?.map isReport).getD false)).getLast?
    { h with queue := match last with
      | some i => h.queue.modify i (fun x => { x with lost := x.lost + 1 })
      | none => h.queue }
  else { h with queue := h.queue ++ [e] }

/-- Queue an event on a core (R353). Without a handler bundle nothing is queued. -/
def State.queueEvent (s : State) (pid core : Nat) (e : TrapEvent) : State :=
  match s.handlerBundle pid core with
  | some h => s.modBundle h (fun b => { b with handler := b.handler.map (fun x => x.push e) })
  | none => s

/-- An unhandled trap of a versioned team (R314): a containment event. The record of MONITOR_DRIFT names the monitor and the barrier
or `hchk` word, which stands before the trap PC (R300, R316). -/
def State.killByTrap (s : State) (t : Nat) (tpc : DWord) (i : TrapInfo) : State :=
  if !s.versioned t then s
  else if i.cause == causeMonitorDrift then s.killTeam t i.cause false (some i.aux) (tpc - 4)
  else s.killTeam t i.cause false none tpc

/-- A trap of the causes that go to the handler (R350, R351, R353): an event for the handler bundle; without one, a
containment event in a versioned team (R314). A trap of the handler bundle is a containment event where the open event's
team is versioned. -/
def State.deliverTrap (s : State) (b : Nat) (tpc : DWord) (ts : List (Nat × TrapInfo)) : State :=
  let x := s.bundle b
  let first := (ts.head?.map (·.2)).getD (TrapInfo.of 0)
  match x.handler with
  | some h =>
    match h.current.bind (fun e => e.team) with
    | some t => s.killByTrap t tpc first
    | none => s
  | none =>
    if (s.ctx x.asid).handler then
      s.queueEvent x.pid x.core ⟨first.cause, false, x.sub, x.slot, tpc, laneSet (ts.map (·.1)), x.team, [], 0, none⟩
    else
      match x.team with
      | some t => s.killByTrap t tpc first
      | none => s

/-- The lanes that the issue parks beside those that its word traps (R350): at a breakpoint before the word, or for a report of
R155 after it, where they are at an instruction boundary. -/
def State.others (s : State) : List (Nat × TrapInfo) :=
  s.cur.stops.map (fun x => (x.1, TrapInfo.of x.2)) ++ s.cur.reports.filter (fun r => (s.thread s.cur.bundle r.1).isReady)

/-- The lanes that one event names, ascending (R350): those that the word traps, and the others that the issue parks. -/
def State.eventLanes (s : State) (b : Nat) (ts : List (Nat × TrapInfo)) : List (Nat × TrapInfo) :=
  if b == s.cur.bundle && !s.cur.told && !s.others.isEmpty then
    let all := ts ++ s.others
    (List.range 64).filterMap (fun l => all.find? (fun x => x.1 == l))
  else ts

/-- No lane of the issue waits for an event any more (R350). -/
def State.noStops (s : State) : State := if s.others.isEmpty then s else { s with cur := { s.cur with told := true } }

/-- The lanes that a trap parks: those that it names, and in a handler bundle the issued set `set` (R353), with the first of them. -/
def State.trapSet (s : State) (b : Nat) (set : List Nat) (first : TrapInfo) (ts : List (Nat × TrapInfo)) : List (Nat × TrapInfo) :=
  if (s.bundle b).handler.isSome then
    (List.range 64).filterMap (fun l => match ts.find? (fun t => t.1 == l) with
      | some t => some t
      | none => if set.contains l then some (l, first) else none)
  else ts

/-- TAKING A TRAP: the lanes park with their fault records; a lane whose page is absent is attached to the page's record
(R328), and the others make one event (R350). A trap in a handler bundle parks its issued set (R353). `ts` is ascending
and `set` is the issued set. -/
def State.takeTraps (s : State) (b : Nat) (tpc : DWord) (set : List Nat) (ts : List (Nat × TrapInfo)) : State :=
  match ts with
  | [] => s
  | first :: _ =>
    let ts := s.trapSet b set first.2 ts
    let s := s.modBundle b (fun x => { x with threads := x.threads.mapIdx (fun l t => match ts.find? (fun t => t.1 == l) with
      | some i => t.trap i.2 tpc
      | none => t) })
    let s := (ts.filter (fun t => t.2.cause == causePage)).foldl (fun s t => s.attachPage b t.1 t.2 tpc) s
    let hs := ts.filter (fun t => t.2.cause != causePage)
    if hs.isEmpty then s else s.noStops.deliverTrap b tpc (s.eventLanes b hs)

/-- A report of R155 waits for the thread's next instruction boundary. -/
def Thread.holdReport (t : Thread) (i : TrapInfo) : Thread := { t with report := some (t.report.getD i) }

/-- The lanes that the accesses of the issue report park at the next word (R155), those that wait or are parked once they go on; then the
event of the lanes that the issue parks outside its word is made, unless it has been (R350, R364). -/
def State.deliverStops (s : State) : State :=
  if s.cur.stops.isEmpty && s.cur.reports.isEmpty then s
  else
    let b := s.cur.bundle
    let ready (l : Nat) : Bool := (s.thread b l).isReady
    let ts := s.eventLanes b []
    let s := (s.cur.reports.filter (fun r => !ready r.1)).foldl (fun s r => s.modThread b r.1 (fun t => t.holdReport r.2)) s
    let told := s.cur.told || s.others.isEmpty
    let s := (s.cur.reports.filter (fun r => ready r.1)).foldl (fun s r => s.modThread b r.1 (fun t => t.trap r.2 t.pc)) s
    if told then s
    else ({ s with cur := { s.cur with told := true } } : State).deliverTrap b
      ((ts.head?.map (fun x => (s.thread b x.1).pc)).getD s.cur.trapPc) ts

/-- The issued set of a word parks with one cause (R49, R165, R360). -/
def State.trapIssued (s : State) (i : TrapInfo) : State :=
  s.takeTraps s.cur.bundle s.cur.trapPc s.issued (s.issued.map (fun l => (l, i)))

/-! ### The return from a trap (R359) -/

/-- A parked thread whose unpark is staged becomes READY at its PC; it skips one break or watchpoint where that parked it. -/
def Thread.release (t : Thread) : Thread :=
  if t.unpark && t.isParked then
    let c := t.frec.w0.setWidth 8
    { t with st := .ready, unpark := false, fell := false
             skip := t.skip || (!t.stale && (c == causeBreakpoint || c == causeWatchpoint)) }
  else { t with unpark := false }

/-- RETURN FROM A TRAP: every thread of the core with UNPARK staged is released (R359, steps 2 and 3). -/
def State.releaseStaged (s : State) (pid core : Nat) : State :=
  { s with bundles := s.bundles.map (fun b =>
      if b.live && b.pid == pid && b.core == core && b.handler.isNone then
        { b with threads := b.threads.map Thread.release }
      else b) }

/-! ### The checks of R48, and the stall of R78 -/

/-- A word that only a privileged context may execute (R317, R333). -/
def privilegedWord : Instr → Bool
  | .srd _ r => r == 0x080
  | .swr _ r => r == 0x080
  | .tlbinvAll => true
  | .tlbinvAsid _ => true
  | .tlbinvVa _ _ => true
  | _ => false

/-- A word that needs a Span link (R4, R270). -/
def spanWord : Instr → Bool
  | .coll _ _ => true
  | _ => false

/-- The defects of a prefix, or of its absence (R33). -/
def badPrefix (w : WordInfo) (isPrefix : Bool) (p : Option Pfx) : Bool :=
  match p with
  | none => w.cNeed || w.maskNeed
  | some p =>
    !w.lane || w.alone || isPrefix || p.rnd ≥ 5 || (p.mask != 0 && !p.men)
    || (p.c != 0 && !w.c) || ((p.men || p.mask != 0) && !w.mask) || (p.zero && !w.zero) || (p.rnd != 0 && !w.rnd)
    || (p.sat && !w.sat) || (w.maskNeed && !p.men)

/-- The word is a prefix. -/
def isPrefixWord : Instr → Bool
  | .prefixWord _ _ _ _ _ _ => true
  | _ => false

/-- A `ulane` that names a lane at or beyond W (R111). -/
def laneBeyond (w : Nat) : Instr → Bool
  | .ulane _ _ n => w ≤ n.toNat
  | _ => false

/-- The encoding trap of the word at issue, the first in the order of R48; then HANDLER_USE (R352, R357 to R359). -/
def State.wordTrap (s : State) (i : Instr) : Option (BitVec 8) :=
  let w := wordInfo i
  let isHandler := s.curB.handler.isSome
  match encDefect i with
  | some .reservedFn => some causeReservedFn
  | some .mbzSet => some causeMbzSet
  | some .badRegister => some causeBadRegister
  | none =>
    if laneBeyond s.curB.w i then some causeReservedFn
    else if w.c && w.cEven && (s.pfxC % 2 == 1) then some causeBadRegister
    else if badPrefix w (isPrefixWord i) s.cur.pfx then some causeBadPrefix
    else if privilegedWord i && !s.curCtx.priv then some causePrivileged
    else if spanWord i && !s.hasSpan then some causeAbsentUnit
    else if (isHandler && w.handlerBan) || (!isHandler && w.handlerOnly) then some causeHandlerUse
    else none

/-- A uniform register that the word names is the token of a command in flight (R78). -/
def State.uniPending (s : State) (i : Instr) : Bool :=
  (wordInfo i).uni.any (fun n => (s.curB.s.getD n Reg.fresh).tag == .pend)

/-- The word at issue cannot issue now (R89): nothing changes but the latch. -/
def State.stall (s : State) : State := { s with cur := { s.cur with stalled := true } }

/-- What every word does: its encoding trap, or its stall, or its effect. -/
def State.word (s : State) (i : Instr) (effect : State → State) : Host.Outcome State Fault Refusal :=
  match s.wordTrap i with
  | some c => .next (s.trapIssued (TrapInfo.of c))
  | none => if s.uniPending i then .next s.stall else .next (effect s)

/-! ### How the lanes of a lane word end -/

/-- Which tags a source accepts (R77). `unchecked` is a register that is read without any check (R144); `f32Ends` a group of which the
first register and the last are read alone (R142). -/
inductive Accept where
  | any | int | f32 | f64 | bf16 | f16 | e4m3 | e5m2 | lg6 | unchecked | f32Ends
  deriving DecidableEq, Repr

/-- The tag is accepted; PEND and EMPTY count as RAW where CHECK does not stop them (R78, R79). -/
def Accept.ok (a : Accept) (t : Tag) : Bool :=
  t == .raw || t == .pend || t == .empty ||
  match a with
  | .any => true
  | .unchecked => true
  | .int => t == .int || t == .w64
  | .f32 => t == .f32
  | .f32Ends => t == .f32
  | .f64 => t == .f64
  | .bf16 => t == .bf16x2
  | .f16 => t == .f16x2
  | .e4m3 => t == .e4m3x4
  | .e5m2 => t == .e5m2x4
  | .lg6 => t == .lg6x5

/-- Sources: `n` registers from `reg`, with what they accept. -/
structure Use where
  reg : Nat
  n : Nat
  acc : Accept
  deriving DecidableEq, Repr

/-- The places in a source's group of the registers that the word reads. -/
def Use.places (u : Use) : List Nat := if u.acc == .f32Ends then [0, u.n - 1] else List.range u.n

/-- The registers of sources, each behind the register that the word names for it, with what it accepts. -/
def expandUses (us : List Use) : List (Nat × Nat × Accept) :=
  us.flatMap (fun u => u.places.map (fun i => (u.reg, u.reg + i, u.acc)))

/-- The operands of a lane word: its sources in the order of R81, and its destinations with the tag that zeroing gives. -/
structure LaneOp where
  src : List Use
  dst : List (Nat × Tag)
  deriving DecidableEq, Repr

/-- `n` destination registers from `d`. -/
def dstRegs (d n : Nat) (t : Tag) : List (Nat × Tag) := (List.range n).map (fun i => (d + i, t))

/-- The first register of the run of registers in a list that ends at `n`: the one that the word names for `n` (R349). -/
def runStart (rs : List Nat) : Nat → Nat
  | 0 => 0
  | n + 1 => if rs.contains n then runStart rs n else n + 1

/-- The destinations of a lane word, each behind the register that the word names for it. -/
def LaneOp.dests (o : LaneOp) : List (Nat × Nat) := o.dst.map (fun d => (runStart (o.dst.map (·.1)) d.1, d.1))

/-- The first operand beyond the window of a thread (R97); the record has the register that the word names (R349). -/
def Thread.windowTrap (t : Thread) (o : LaneOp) : Option TrapInfo :=
  ((expandUses o.src).map (fun u => (u.1, u.2.1)) ++ o.dests).findSome? (fun x =>
    if t.inWindow x.2 then none else some (TrapInfo.atReg causeWindowRange false x.1))

/-- The first PEND or EMPTY source under CHECK (R80, R81). -/
def touchTrap (check uniform : Bool) (us : List (Nat × Nat × Accept)) (tagOf : Nat → Tag) : Option TrapInfo :=
  if check then us.findSome? (fun u =>
    if u.2.2 == .unchecked then none
    else if tagOf u.2.1 == .pend then some (TrapInfo.atReg causePendingTouch uniform u.1)
    else if tagOf u.2.1 == .empty then some (TrapInfo.atReg causeUninitRead uniform u.1)
    else none) else none

/-- The first source whose tag is not accepted (R77). -/
def formatTrap (uniform : Bool) (us : List (Nat × Nat × Accept)) (tagOf : Nat → Tag) : Option TrapInfo :=
  us.findSome? (fun u => if u.2.2.ok (tagOf u.2.1) then none else some (TrapInfo.atReg causeFormatTag uniform u.1))

/-- The first tag trap of sources with the given tags (R81): with CHECK, a PEND or EMPTY register before any wrong format. -/
def tagTrap (check uniform : Bool) (us : List (Nat × Nat × Accept)) (tagOf : Nat → Tag) : Option TrapInfo :=
  (touchTrap check uniform us tagOf).or (formatTrap uniform us tagOf)

/-- A word that reads its source without any check raises no PENDING_TOUCH (R144). -/
def LaneOp.uncheckedOp (o : LaneOp) : Bool := o.src.any (fun u => u.acc == .unchecked)

/-- A destination that is PEND, under CHECK (R80, R81). -/
def Thread.pendingDst (t : Thread) (check : Bool) (o : LaneOp) : Option TrapInfo :=
  if check && !o.uncheckedOp then o.dests.findSome? (fun d =>
    if t.tagV d.2 == .pend then some (TrapInfo.atReg causePendingTouch false d.1) else none)
  else none

/-- The WINDOW_RANGE or tag trap of an active lane (R97, R101, R81): a register that is touched stops it before a format does. -/
def State.laneTrap (s : State) (l : Nat) (o : LaneOp) : Option TrapInfo :=
  let t := s.curB.thread l
  let tagOf (n : Nat) : Tag := (s.readV s.cur.bundle l n).tag
  let us := expandUses o.src
  (((t.windowTrap o).or (touchTrap s.tagCheck false us tagOf)).or (t.pendingDst s.tagCheck o)).or (formatTrap false us tagOf)

/-- How a lane of the bundle ends a lane word: untouched, done with its register writes and FSTAT flags, stopped at the word
without a trap, or trapped. -/
inductive Fate where
  | none
  | done (writes : List (Nat × Reg)) (fl : BitVec 6)
  | stay (st : TState)
  | trap (i : TrapInfo)
  deriving DecidableEq, Repr

/-- The fate of a lane by the rules that every lane word shares (R94, R113): `f` gives the fate of an active lane that no
check stops. -/
def State.laneFate (s : State) (o : LaneOp) (f : Nat → Fate) (l : Nat) : Fate :=
  if !s.cur.lanes.getLsbD l then .none
  else if !s.isActive l then .done (if s.zeroing then o.dst.map (fun d => (d.1, ⟨0, d.2⟩)) else []) 0
  else match s.laneTrap l o with
    | some i => .trap i
    | none => f l

/-- Register writes of a thread. -/
def Thread.writes (t : Thread) (ws : List (Nat × Reg)) : Thread := ws.foldl (fun t w => t.writeV w.1 w.2) t

/-- A thread after its fate at the word at `pc`. -/
def Thread.meet (t : Thread) (pc : DWord) (now : Bool) : Fate → Thread
  | .done ws fl => ({ (if now then t.writes ws else t) with fstat := t.fstat ||| fl }).advance pc
  | .stay st => { t with st := st }
  | _ => t

/-- The late writes of a thread's fate: registers in its window only (R94). -/
def lateOf (t : Thread) (l : Nat) : Fate → List LateWrite
  | .done ws _ => (ws.filter (fun w => t.inWindow w.1)).map (fun w => ⟨l, t.key w.1, w.2, false⟩)
  | _ => []

/-- Set a completion flag. -/
def setFlag (f : BitVec 12) (n : Option Nat) : BitVec 12 :=
  match n with
  | some k => f ||| (1#12 <<< k)
  | none => f

/-- Mark the outstanding long-latency writes of a lane's registers as contested by these writes (R37). -/
def Bundle.contest (b : Bundle) (fate : Nat → Fate) : Bundle :=
  if b.late.isEmpty then b else
  (List.range b.threads.length).foldl (fun b l => match fate l with
    | .done ws _ => ws.foldl (fun b w => b.clashV l ((b.thread l).key w.1)) b
    | _ => b) b

/-- Add an outstanding long-latency word to a bundle and set its flag (R35). -/
def Bundle.addLate (b : Bundle) (op : LateOp) : Bundle := { b with late := b.late ++ [op], flags := setFlag b.flags op.flag }

/-- Give every lane its fate. A long-latency word of native code delivers its writes later (R35, R37); `links` are the
requests to other nodes that they wait for, and `loads` those of its loads that may still take another value (R158). -/
def State.meetAll (s : State) (long : Bool) (links : List Sent) (loads : List LateLoad) (fate : Nat → Fate) : State :=
  let late := long && !s.cur.plain
  let traps := s.issued.filterMap (fun l => match fate l with
    | .trap i => some (l, i)
    | _ => none)
  let writes := s.issued.flatMap (fun l => lateOf (s.curB.thread l) l (fate l))
  let s := s.modBundle s.cur.bundle (fun b =>
    let b := if late then b else b.contest fate
    let b := { b with threads := b.threads.mapIdx (fun l t => t.meet s.cur.pc (!late) (fate l)) }
    if late && (writes != [] || links != []) then b.addLate ⟨s.cur.trapPc, s.cur.flag, writes, [], links, loads⟩ else b)
  s.takeTraps s.cur.bundle s.cur.trapPc s.issued traps

/-- A lane word whose effect on each active lane is on that lane's registers and FSTAT alone (R113). -/
def State.laneWord (s : State) (o : LaneOp) (long : Bool) (f : Nat → List (Nat × Reg) × BitVec 6) : State :=
  s.meetAll long [] [] (s.laneFate o (fun l => .done (f l).1 (f l).2))

/-! ### Uniform words -/

/-- The tag trap of a uniform word's sources (R81, R114). -/
def State.uniTrap (s : State) (us : List Use) : Option TrapInfo :=
  tagTrap s.tagCheck true (expandUses us) (fun n => (s.readS s.cur.bundle n).tag)

/-- A uniform word after its tag checks (R114): a failing check parks the issued set and writes nothing. -/
def State.uniWord (s : State) (us : List Use) (effect : State → State) : State :=
  match s.uniTrap us with
  | some i => s.trapIssued i
  | none => effect s

/-- A uniform word that writes uniform registers and advances its issued set. -/
def State.uniWrites (s : State) (us : List Use) (ws : List (Nat × Reg)) : State :=
  s.uniWord us (fun s => (s.writeS ws).advanceAll)

/-- Every thread of the issued set waits for its own operation at the word (R85), with the uniform operands that the word has read. -/
def State.waitWord (s : State) (i : Instr) (args : List DWord) : State :=
  s.mapLanes (fun l t => if s.cur.lanes.getLsbD l then
    { t with st := .waiting (.word s.cur.lanes i args (lookupKey l s.cur.homes)) } else t)

/-- A uniform pair as the word at issue has read it, which a word that goes on with its own operation does not read again (R85). -/
def State.argS (s : State) (k n : Nat) : DWord := (s.cur.args[k]?).getD (s.pairS n)

/-- The sources that a word reads: none where it goes on with its own operation, for which it has read them (R85). -/
def State.firstUses (s : State) (us : List Use) : List Use := if s.cur.args.isEmpty then us else []

/-- Every thread of the issued set waits at the word (R85). -/
def State.waitIssued (s : State) (w : Wait) : State :=
  s.mapLanes (fun l t => if s.cur.lanes.getLsbD l then { t with st := .waiting w } else t)

end Sys2Proof.Machine
end

