-- ==== Sys2Proof/Machine/Device.lean ====
section
/-! DEFINITION. Reading the device windows (R398, R399, R401, R402, R405, R407, R413, R417), and the routes to other nodes
(R402). Also the write-backs of a team's lines, which those routes carry. -/
namespace Sys2Proof.Machine

/-- The code of a link's state (R401). -/
def LinkState.code : LinkState → Nat
  | .down => 0 | .training => 1 | .up => 2 | .degraded => 3 | .fenced => 4

/-- A link of a number. -/
def State.link (s : State) (n : Nat) : Link := s.links.getD n Link.reset

/-- Change a link. -/
def State.modLink (s : State) (n : Nat) (f : Link → Link) : State := { s with links := s.links.modify n f }

/-- The link is present (R3, R400). -/
def State.linkPresent (s : State) (n : Nat) : Bool := s.host.caps.getLsbD (16 + n) && n < 12

/-- The link carries traffic (R402). -/
def State.linkUsable (s : State) (n : Nat) : Bool := (s.link n).st == .up || (s.link n).st == .degraded

/-- The ROUTE entry of a node (R402). -/
def State.routeEntry (s : State) (node : Nat) : BitVec 16 := (lookupKey node s.route).getD 0

/-- The usable links of a node's ROUTE entry (R402). -/
def State.routeLinks (s : State) (node : Nat) : List Nat :=
  (List.range 12).filter (fun i => (s.routeEntry node).getLsbD i && s.linkUsable i)

/-- The link that carries a request to an address of another node (R402): the hash of its 128-byte line chooses among the
usable links. -/
def State.routeOf (s : State) (pa : Nat) : Option Nat :=
  let ls := s.routeLinks (paNode pa)
  if ls.isEmpty then none else ls[Config.linkHash (BitVec.ofNat 64 (pa / 128)) % ls.length]?

/-- The physical address of a line's home on another node. -/
def remotePa (home : Nat) : Nat := home % 2 ^ 52

/-- The request for a line: none inside where its home is on this node; no answer where no usable link reaches it (R403). -/
def State.lineLink (s : State) (remote : Bool) (home : Nat) : Option (Option Sent) :=
  if remote then (s.routeOf (remotePa home)).map (fun k => some ⟨k, remotePa home, s.clk⟩) else some none

/-! ### Write-backs of a team (R240, R402, R403) -/

/-- Do something with every line of a team that a test selects, each as it then stands. -/
def State.forLines (s : State) (t : Nat) (sel : Line → Bool) (f : State → Window → Line → State) : State :=
  ((s.team t).windows.flatMap (fun w => (w.lines.filter sel).map (fun l => (w.num, l.num)))).foldl (fun s k =>
    match (s.team t).window k.1 with
    | some w => (match w.line k.2 with
      | some l => if sel l then f s w l else s
      | none => s)
    | none => s) s

/-- Begin the write-back of a DIRTY line; one that no link carries is a containment event of the team (R403). -/
def State.writeBack (s : State) (t : Nat) (w : Window) (l : Line) : State :=
  match s.lineLink l.remote l.pa with
  | some k => s.startWriting t w l k
  | none => s.killTeam t causeUncorrectable false none 0

/-- Begin the write-back of every DIRTY line of a team, for a fence (R240, trigger 3): what a line takes while it is WRITING is
written back after it. -/
def State.writeBackTeam (s : State) (t : Nat) : State :=
  let s := s.forLines t (fun l => l.st == .dirty) (fun s w l => s.writeBack t w l)
  s.forLines t (fun l => l.st == .writing && l.redirty != 0) (fun s w l => s.modLine t w.num l.num (fun x => { x with again := true }))

/-- Write back a line and leave it CLEAN; one that no link carries is a containment event of the team (R403). -/
def State.writeOut (s : State) (t : Nat) (w : Window) (l : Line) : State :=
  if (s.lineLink l.remote l.pa).isSome then s.cleanLine t w l else s.killTeam t causeUncorrectable false none 0

/-- The line has bytes that are on no home yet. -/
def Line.unsaved (l : Line) : Bool := l.st == .dirty || l.st == .writing

/-- Write back every line of a team and leave it CLEAN. -/
def State.cleanTeam (s : State) (t : Nat) : State := s.forLines t Line.unsaved (fun s w l => s.writeOut t w l)

/-! ### The registers -/

/-- BOOTSTAT (R413). -/
def Boot.stat (b : Boot) : DWord := BitVec.ofNat 64 (b.stage + b.failed * 256 + (if b.slot1 then 65536 else 0))

/-- PWRSTAT (R399, R417): 0 until the first sample; the clock is that of the package's slowest die. -/
def Power.stat (p : Power) : DWord :=
  if p.sampled then BitVec.ofNat 64 (p.watts.toNat + 65536 * p.mhz.foldl min 4095) else 0

/-- A register of the host window (R399). -/
def State.hostReg (s : State) (o : Nat) : DWord :=
  if o = 0x000 then s.host.idreg
  else if o = 0x008 then s.host.caps
  else if o = 0x010 then s.boot.stat
  else if o = 0x018 then s.host.journal
  else if o = 0x020 then s.host.mgmtring
  else if o = 0x028 then s.host.keytab
  else if o = 0x030 then s.host.sitter.setWidth 64
  else if o = 0x038 then (if s.host.halted then 1 else 0)
  else if o = 0x048 then s.power.stat
  else if o = 0x050 then s.host.attest
  else 0

/-- A byte of the steering table (R329). -/
def Intc.steerOf (i : Intc) (asid : Nat) : Byte := (lookupKey asid i.steer).getD 0

/-- The default of a ring block (R405). -/
def EthRing.absent (n : Nat) : EthRing := ⟨n, 0, 0, 0, 0, 0, 0⟩

/-- The ring block of a number. -/
def EthPort.ring (p : EthPort) (n : Nat) : EthRing := (p.rings.find? (fun r => r.num == n)).getD (EthRing.absent n)

/-- Ethernet port of a number. -/
def State.ethPort (s : State) (n : Nat) : EthPort := s.eth.getD n ⟨0, false, []⟩

/-- A register of a port engine (R405, R407). -/
def EthPort.reg (p : EthPort) (o : Nat) : DWord :=
  if o = 0 then BitVec.ofNat 64 (2 ^ 48 + p.mac.toNat)
  else if o = 8 then (if p.up then 0xB else 0xA)
  else if 0x100 ≤ o && o < 0x1100 then
    let r := p.ring ((o - 0x100) / 32)
    let k := (o - 0x100) % 32
    if k = 0 then r.base
    else if k = 8 then BitVec.ofNat 64 (r.size.toNat + r.kind.toNat * 2 ^ 32 + r.cq.toNat * 2 ^ 40)
    else if k = 16 then BitVec.ofNat 64 (r.prod.toNat + r.cons.toNat * 2 ^ 32)
    else 0
  else 0

/-- A register of a link block (R401). -/
def Link.reg (l : Link) (o : Nat) : DWord :=
  if o = 0 then BitVec.ofNat 64 (l.st.code + l.lanes * 16 + l.node.toNat * 256 + l.errcnt.toNat * 2 ^ 32)
  else if o = 8 then BitVec.ofNat 64 ((if l.enable then 1 else 0) + l.thresh.toNat * 256)
  else 0

/-- An aligned 8-byte load of the device windows (R398): `o` is the offset from 0x7C0_0000_0000. -/
def State.regRead (s : State) (o : Nat) : DWord :=
  if o < 0x10000 then s.hostReg o
  else if 0x20000 ≤ o && o < 0x30000 then
    let k := o - 0x20000
    if k < 192 then s.intc.ringdesc.getD (k / 8) 0
    else if k = 0x200 then (if s.intc.tlbdone then 0x8000000000000000 else 0)
    else if k = 0x208 then s.intc.tlbva
    else 0
  else if 0x30000 ≤ o && o < 0x40000 then dwordOf ((List.range 8).map (fun i => s.intc.steerOf (o - 0x30000 + i)))
  else if 0x40000 ≤ o && o < 0x60000 then (s.ethPort ((o - 0x40000) / 0x10000)).reg (o % 0x10000)
  else if 0x100000 ≤ o && o < 0x100400 then
    let n := (o - 0x100000) / 2
    BitVec.ofNat 64 ((List.range 4).foldl (fun v i => v + (s.routeEntry (n + i)).toNat * 2 ^ (16 * i)) 0)
  else if 0x110000 ≤ o && o < 0x11C000 then
    let n := (o - 0x110000) / 0x1000
    if s.linkPresent n then (s.link n).reg (o % 0x1000) else (Link.reset).reg (o % 0x1000)
  else 0

/-- The bytes that a load of the device windows returns: 8 aligned bytes, or zeros for another size (R398). -/
def State.windowBytes (s : State) (pa size : Nat) : List Byte :=
  if size = 8 then bytesOf 8 (s.regRead (paOffset pa - deviceBase)).toNat else List.replicate size 0

end Sys2Proof.Machine
end

