-- ==== Sys2Proof/Machine/Flags.lean ====
section
/-! DEFINITION. The flags of FSTAT (R59) and the rounding modes of the prefix (R56). -/
namespace Sys2Proof.Machine

/-- NV: invalid operation (R59). -/
def flagNV : BitVec 6 := 1
/-- DZ: division by zero (R59). -/
def flagDZ : BitVec 6 := 2
/-- OF: overflow (R59). -/
def flagOF : BitVec 6 := 4
/-- UF: underflow (R59). -/
def flagUF : BitVec 6 := 8
/-- NX: inexact (R59). -/
def flagNX : BitVec 6 := 16
/-- SAT: a value was clamped (R59). -/
def flagSAT : BitVec 6 := 32

/-- A flag that is raised when the condition holds. -/
def flagIf (c : Bool) (f : BitVec 6) : BitVec 6 := if c then f else 0

/-- The rounding modes (R56). -/
inductive Rounding where
  | rne | rtz | rdn | rup | rna
  deriving DecidableEq, Repr

/-- The mode of a prefix's rnd field (R31, R56); 101 to 111 are illegal and never reach a result. -/
def Rounding.ofBits (b : BitVec 3) : Rounding :=
  if b == 1 then .rtz else if b == 2 then .rdn else if b == 3 then .rup else if b == 4 then .rna else .rne

/-- A discarded part r of a divisor n > 0 rounds the quotient q away from zero (R56): q is the truncated magnitude. -/
def Rounding.up (mode : Rounding) (neg : Bool) (q r n : Nat) : Bool :=
  match mode with
  | .rne => 2 * r > n || (2 * r == n && q % 2 == 1)
  | .rna => 2 * r ≥ n
  | .rtz => false
  | .rdn => neg && r != 0
  | .rup => !neg && r != 0

/-- The magnitude m × 2^(−s) rounded to an integer, and whether that changed it. -/
def Rounding.shift (mode : Rounding) (neg : Bool) (m : Nat) (s : Int) : Nat × Bool :=
  if s ≤ 0 then (m * 2 ^ (-s).toNat, false)
  else
    let n := 2 ^ s.toNat
    let q := m / n
    let r := m % n
    (if mode.up neg q r n then q + 1 else q, r != 0)

/-- The mode gives an overflowing value the infinity of its sign rather than the largest finite value (R56). -/
def Rounding.overInf (mode : Rounding) (neg : Bool) : Bool :=
  match mode with
  | .rne => true
  | .rna => true
  | .rtz => false
  | .rdn => neg
  | .rup => !neg

end Sys2Proof.Machine
end

