-- ==== Sys2Proof/Machine/Float.lean ====
section
/-! DEFINITION. Floating-point numbers (R54 to R61), LG6 (R62 to R67), fixed point (R75): values are exact dyadic numbers
until the one rounding that R56 gives each result. -/
namespace Sys2Proof.Machine

/-- How a format encodes its specials (R55). -/
inductive FKind where
  | ieee | e4m3 | e5m2
  deriving DecidableEq, Repr

/-- A floating-point format (R55). -/
structure FFmt where
  expBits : Nat
  frac : Nat
  bias : Nat
  kind : FKind
  deriving DecidableEq, Repr

/-- binary64. -/
def fmtF64 : FFmt := ⟨11, 52, 1023, .ieee⟩
/-- binary32. -/
def fmtF32 : FFmt := ⟨8, 23, 127, .ieee⟩
/-- binary16. -/
def fmtF16 : FFmt := ⟨5, 10, 15, .ieee⟩
/-- The upper half of binary32. -/
def fmtBF16 : FFmt := ⟨8, 7, 127, .ieee⟩
/-- OCP E4M3. -/
def fmtE4M3 : FFmt := ⟨4, 3, 7, .e4m3⟩
/-- OCP E5M2. -/
def fmtE5M2 : FFmt := ⟨5, 2, 15, .e5m2⟩

/-- A floating-point datum: a NaN, an infinity, or the exact value (−1)^neg × m × 2^e, where m = 0 is a signed zero. -/
inductive FVal where
  | nan (signalling : Bool)
  | inf (neg : Bool)
  | num (neg : Bool) (m : Nat) (e : Int)
  deriving DecidableEq, Repr

/-- The bits of a format. -/
def FFmt.width (f : FFmt) : Nat := 1 + f.expBits + f.frac

/-- The sign bit of an encoding. -/
def FFmt.sign (f : FFmt) (b : Nat) : Bool := (b / 2 ^ (f.width - 1)) % 2 == 1

/-- The datum of an encoding (R55). -/
def FFmt.unpack (f : FFmt) (b : Nat) : FVal :=
  let s := f.sign b
  let ex := (b / 2 ^ f.frac) % 2 ^ f.expBits
  let fr := b % 2 ^ f.frac
  let finite : FVal := if ex = 0 then .num s fr (1 - f.bias - f.frac) else .num s (fr + 2 ^ f.frac) (ex - f.bias - f.frac)
  if ex = 2 ^ f.expBits - 1 then
    match f.kind with
    | .ieee => if fr = 0 then .inf s else .nan (fr < 2 ^ (f.frac - 1))
    | .e5m2 => if fr = 0 then .inf s else .nan false
    | .e4m3 => if fr = 2 ^ f.frac - 1 then .nan false else finite
  else finite

/-- The canonical NaN (R55). -/
def FFmt.canonical (f : FFmt) : Nat :=
  match f.kind with
  | .ieee => (2 ^ f.expBits - 1) * 2 ^ f.frac + 2 ^ (f.frac - 1)
  | _ => 0x7F

/-- The bits of a sign. -/
def FFmt.signBits (f : FFmt) (neg : Bool) : Nat := if neg then 2 ^ (f.width - 1) else 0

/-- The bits of an infinity; E4M3 has none. -/
def FFmt.infBits (f : FFmt) (neg : Bool) : Nat := f.signBits neg + (2 ^ f.expBits - 1) * 2 ^ f.frac

/-- The largest finite significand, in units of its last place. -/
def FFmt.maxM (f : FFmt) : Nat := if f.kind == .e4m3 then 2 ^ (f.frac + 1) - 2 else 2 ^ (f.frac + 1) - 1

/-- The exponent of the last place of the largest finite value. -/
def FFmt.maxE (f : FFmt) : Int := (if f.kind == .e4m3 then 2 ^ f.expBits - 1 else 2 ^ f.expBits - 2 : Nat) - f.bias - f.frac

/-- The exponent of the subnormal grid. -/
def FFmt.minE (f : FFmt) : Int := 1 - f.bias - f.frac

/-- The bits of the magnitude q × 2^e, for q below 2^(frac+1), with e the grid where q is below 2^frac. -/
def FFmt.magBits (f : FFmt) (q : Nat) (e : Int) : Nat :=
  if q < 2 ^ f.frac then q else (e + f.frac + f.bias).toNat * 2 ^ f.frac + (q - 2 ^ f.frac)

/-- The bits of the largest finite value. -/
def FFmt.maxBits (f : FFmt) (neg : Bool) : Nat := f.signBits neg + f.magBits f.maxM f.maxE

/-- An exact result before rounding: a NaN with or without NV, an infinity, or a value. -/
inductive Exact where
  | nan (nv : Bool)
  | inf (neg : Bool)
  | val (neg : Bool) (m : Nat) (e : Int)
  deriving DecidableEq, Repr

/-- A delivered result: its bits and the flags it raises. -/
structure FRes where
  bits : Nat
  fl : BitVec 6
  deriving DecidableEq, Repr

/-- The number of bits of a number. -/
def bitLen (n : Nat) : Nat := if n = 0 then 0 else n.log2 + 1

/-- The result of an overflow (R56, R61). -/
def FFmt.overflow (f : FFmt) (mode : Rounding) (sat neg : Bool) : FRes :=
  if sat then ⟨f.maxBits neg, flagSAT ||| flagNX⟩
  else match f.kind with
    | .e4m3 => ⟨f.signBits neg + 0x7F, flagOF ||| flagNX⟩
    | _ => ⟨if mode.overInf neg then f.infBits neg else f.maxBits neg, flagOF ||| flagNX⟩

/-- A non-zero value rounded (R56): first as if the exponent were unbounded, which decides overflow and tininess, and, when
that is tiny, the exact value once to the subnormal grid instead. -/
def FFmt.roundVal (f : FFmt) (mode : Rounding) (sat neg : Bool) (m : Nat) (e : Int) : FRes :=
  let s : Int := bitLen m - (f.frac + 1 : Nat)
  let r := mode.shift neg m s
  let carry := r.1 == 2 ^ (f.frac + 1)
  let q := if carry then 2 ^ f.frac else r.1
  let qe := if carry then e + s + 1 else e + s
  if qe > f.maxE || (qe == f.maxE && q > f.maxM) then f.overflow mode sat neg
  else if qe < f.minE then
    let t := mode.shift neg m (f.minE - e)
    ⟨f.signBits neg + f.magBits t.1 f.minE, flagIf t.2 (flagUF ||| flagNX)⟩
  else ⟨f.signBits neg + f.magBits q qe, flagIf r.2 flagNX⟩

/-- An exact result delivered in a format (R56, R57, R61). -/
def FFmt.round (f : FFmt) (mode : Rounding) (sat : Bool) (x : Exact) : FRes :=
  match x with
  | .nan nv => ⟨f.canonical, flagIf nv flagNV⟩
  | .inf neg =>
    if sat then ⟨f.maxBits neg, flagSAT ||| flagNX⟩
    else if f.kind == .e4m3 then ⟨f.signBits neg + 0x7F, flagOF ||| flagNX⟩
    else ⟨f.infBits neg, 0⟩
  | .val neg m e => if m = 0 then ⟨f.signBits neg, 0⟩ else f.roundVal mode sat neg m e

/-- The datum is a NaN. -/
def FVal.isNaN : FVal → Bool
  | .nan _ => true
  | _ => false

/-- The datum is a signalling NaN. -/
def FVal.isSNaN : FVal → Bool
  | .nan s => s
  | _ => false

/-- A datum as an exact result. -/
def FVal.exact : FVal → Exact
  | .nan s => .nan s
  | .inf n => .inf n
  | .num n m e => .val n m e

/-- The datum with its sign inverted. -/
def FVal.neg : FVal → FVal
  | .nan s => .nan s
  | .inf n => .inf (!n)
  | .num n m e => .num (!n) m e

/-- The signed integer of a sign and a magnitude. -/
def signedInt (neg : Bool) (m : Nat) : Int := if neg then -(m : Int) else m

/-- The exact sum of two values (R56): an exact zero of operands of opposite signs is +0, or −0 under RDN. -/
def exactAdd (mode : Rounding) (n1 : Bool) (m1 : Nat) (e1 : Int) (n2 : Bool) (m2 : Nat) (e2 : Int) : Exact :=
  let e := min e1 e2
  let sum := signedInt n1 (m1 * 2 ^ (e1 - e).toNat) + signedInt n2 (m2 * 2 ^ (e2 - e).toNat)
  if sum = 0 then .val (if n1 == n2 then n1 else mode == .rdn) 0 0 else .val (sum < 0) sum.natAbs e

/-- a + b (R129). -/
def fAdd (mode : Rounding) (a b : FVal) : Exact :=
  match a, b with
  | .nan s, y => .nan (s || y.isSNaN)
  | _, .nan s => .nan s
  | .inf x, .inf y => if x == y then .inf x else .nan true
  | .inf x, _ => .inf x
  | _, .inf y => .inf y
  | .num n1 m1 e1, .num n2 m2 e2 => exactAdd mode n1 m1 e1 n2 m2 e2

/-- a × b (R129). -/
def fMul (a b : FVal) : Exact :=
  match a, b with
  | .nan s, y => .nan (s || y.isSNaN)
  | _, .nan s => .nan s
  | .inf x, .inf y => .inf (x != y)
  | .inf x, .num n m _ => if m = 0 then .nan true else .inf (x != n)
  | .num n m _, .inf y => if m = 0 then .nan true else .inf (n != y)
  | .num n1 m1 e1, .num n2 m2 e2 => .val (n1 != n2) (m1 * m2) (e1 + e2)

/-- a × b + c with one rounding (R130); 0 × ∞ raises NV whatever c is. -/
def fFma (mode : Rounding) (a b c : FVal) : Exact :=
  match fMul a b with
  | .nan nv => .nan (nv || c.isSNaN)
  | .inf x => fAdd mode (.inf x) c
  | .val n m e => fAdd mode (.num n m e) c

/-- The order of two data that are no NaN, −0 equal to +0: negative, zero or positive as a is below, equal to or above b. -/
def fCompare (a b : FVal) : Int :=
  match a, b with
  | .inf x, .inf y => if x == y then 0 else if x then -1 else 1
  | .inf x, _ => if x then -1 else 1
  | _, .inf y => if y then 1 else -1
  | .num n1 m1 e1, .num n2 m2 e2 =>
    let e := min e1 e2
    signedInt n1 (m1 * 2 ^ (e1 - e).toNat) - signedInt n2 (m2 * 2 ^ (e2 - e).toNat)
  | _, _ => 0

/-- The sign of a datum. -/
def FVal.isNeg : FVal → Bool
  | .nan _ => false
  | .inf n => n
  | .num n _ _ => n

/-- The lesser or the greater of two encodings (R131). -/
def FFmt.minMax (f : FFmt) (isMax : Bool) (a b : Nat) : FRes :=
  let x := f.unpack a
  let y := f.unpack b
  let fl := flagIf (x.isSNaN || y.isSNaN) flagNV
  if x.isNaN && y.isNaN then ⟨f.canonical, fl⟩
  else if x.isNaN then ⟨b, fl⟩
  else if y.isNaN then ⟨a, fl⟩
  else
    let c := fCompare x y
    let aLess := c < 0 || (c == 0 && x.isNeg)
    ⟨if aLess == isMax then b else a, fl⟩

/-- Round to an integral value in the same format (R134). -/
def FFmt.roundIntegral (f : FFmt) (mode : Rounding) (a : Nat) : FRes :=
  match f.unpack a with
  | .nan s => ⟨f.canonical, flagIf s flagNV⟩
  | .inf _ => ⟨a, 0⟩
  | .num n m e =>
    if m = 0 then ⟨a, 0⟩ else
    let r := mode.shift n m (-e)
    ⟨(f.round .rne false (.val n r.1 0)).bits, flagIf r.2 flagNX⟩

/-- a × 2^n (R135). An n beyond the exponent range of both formats acts as its limit. -/
def FFmt.scale (f : FFmt) (mode : Rounding) (a : Nat) (n : Int) : FRes :=
  match f.unpack a with
  | .num s m e =>
    if m = 0 then ⟨a, 0⟩ else f.round mode false (.val s m (e + max (-5000) (min 5000 n)))
  | .inf _ => ⟨a, 0⟩
  | .nan s => ⟨f.canonical, flagIf s flagNV⟩

/-- The class of an encoding (R133). -/
def FFmt.classify (f : FFmt) (a : Nat) : Word :=
  match f.unpack a with
  | .nan s => if s then 0x100 else 0x200
  | .inf n => if n then 0x001 else 0x080
  | .num n m e =>
    if m = 0 then (if n then 0x008 else 0x010)
    else if m < 2 ^ f.frac && e == f.minE then (if n then 0x004 else 0x020)
    else (if n then 0x002 else 0x040)

/-- A quotient with a rest that is not zero stands for a value strictly between it and the next: one more bit says so. -/
def sticky (q : Nat) (inexact : Bool) (e : Int) : Nat × Int := if inexact then (2 * q + 1, e - 1) else (q, e)

/-- a ÷ b (R70): the quotient carries 130 bits beyond those of b, so that one rounding is correct. -/
def fDiv (a b : FVal) : Exact × BitVec 6 :=
  match a, b with
  | .nan s, y => (.nan (s || y.isSNaN), 0)
  | _, .nan s => (.nan s, 0)
  | .inf _, .inf _ => (.nan true, 0)
  | .inf x, y => (.inf (x != y.isNeg), 0)
  | .num n _ _, .inf y => (.val (n != y) 0 0, 0)
  | .num n1 m1 e1, .num n2 m2 e2 =>
    if m2 = 0 then (if m1 = 0 then (.nan true, 0) else (.inf (n1 != n2), flagDZ))
    else if m1 = 0 then (.val (n1 != n2) 0 0, 0)
    else
      let k := bitLen m2 + 130
      let p := sticky (m1 * 2 ^ k / m2) (m1 * 2 ^ k % m2 != 0) (e1 - e2 - k)
      (.val (n1 != n2) p.1 p.2, 0)

/-- The square root of `n`, rounded down, from bit `k` of the root down; `r` holds the bits above. -/
def isqrtFrom : Nat → Nat → Nat → Nat
  | 0, _, r => r
  | k + 1, n, r => let t := r + 2 ^ k; isqrtFrom k n (if t * t ≤ n then t else r)

/-- The square root of a number, rounded down. -/
def isqrt (n : Nat) : Nat := isqrtFrom (bitLen n / 2 + 1) n 0

/-- √a (R70). -/
def fSqrt (a : FVal) : Exact :=
  match a with
  | .nan s => .nan s
  | .inf n => if n then .nan true else .inf false
  | .num n m e =>
    if m = 0 then .val n 0 0 else if n then .nan true else
    let k : Nat := 130 + (if e % 2 = 0 then 0 else 1)
    let big := m * 2 ^ k
    let r := isqrt big
    let p := sticky r (r * r != big) ((e - k) / 2)
    .val false p.1 p.2

/-- 1/√a (R70). -/
def fRsqrt (a : FVal) : Exact × BitVec 6 :=
  match a with
  | .nan s => (.nan s, 0)
  | .inf n => if n then (.nan true, 0) else (.val false 0 0, 0)
  | .num n m e =>
    if m = 0 then (.inf n, flagDZ) else if n then (.nan true, 0) else
    -- a is m' × 2^(2h), so 1/√a is √(2^(2k) ÷ m') × 2^(−k−h)
    let m' := if e % 2 = 0 then m else 2 * m
    let h : Int := if e % 2 = 0 then e / 2 else (e - 1) / 2
    let k := bitLen m' + 130
    let r := isqrt (2 ^ (2 * k) / m')
    let p := sticky r (r * r * m' != 2 ^ (2 * k)) (-(k : Int) - h)
    (.val false p.1 p.2, 0)

/-! ### Conversions (R68, R69) -/

/-- A float rounded to an integer of a range (R69). -/
def floatToInt (mode : Rounding) (x : FVal) (lo hi : Int) : Int × BitVec 6 :=
  match x with
  | .nan _ => (0, flagNV)
  | .inf n => (if n then lo else hi, flagNV)
  | .num n m e =>
    let r := mode.shift n m (-(max (-5000) e))
    let v := signedInt n r.1
    if v < lo then (lo, flagNV) else if v > hi then (hi, flagNV) else (v, flagIf r.2 flagNX)

/-- An integer clamped to a range, or its low bits (R69). -/
def intToInt (sat : Bool) (v lo hi : Int) : Int × BitVec 6 :=
  if sat then (if v < lo then (lo, flagSAT) else if v > hi then (hi, flagSAT) else (v, 0)) else (v, 0)

/-- An integer as an exact value. -/
def intExact (v : Int) : Exact := .val (v < 0) v.natAbs 0

/-! ### LG6 (R62 to R67) -/

/-- A power of two. -/
def isPow2 (m : Nat) : Bool := m != 0 && m == 2 ^ m.log2

/-- ToLG6 (R67): floor(8 × log2 |x|) is the length of |x|^8 less 1, and no tie occurs. -/
def toLG6 (x : FVal) (neg : Bool) : Nat × BitVec 6 :=
  let s := if neg then 0x20 else 0
  match x with
  | .nan _ => (0x10, flagNV)
  | .inf _ => (s + 15, flagSAT ||| flagNX)
  | .num _ m e =>
    if m = 0 then (s + 0x10, 0) else
    let l : Int := ((m ^ 8).log2 + 8 * e + 1) / 2
    if l > 15 then (s + 15, flagSAT ||| flagNX)
    else if l ≤ -16 then (s + 0x10, flagUF ||| flagNX)
    else (s + (l % 32).toNat, flagIf (!isPow2 m) flagNX)

/-- The sign of an LG6 element. -/
def lgNeg (x : Nat) : Bool := x % 64 ≥ 32

/-- The element is a zero. -/
def lgZero (x : Nat) : Bool := x % 32 == 16

/-- The log of a non-zero element, in quarters. -/
def lgLog (x : Nat) : Int := if x % 32 < 16 then x % 32 else (x % 32 : Nat) - 32

/-- The table T of R63, as 24-bit significands of numbers from 1 to 2. -/
def lgTable (f : Nat) : Nat :=
  match f with
  | 0 => 0x800000
  | 1 => 0x9837F0
  | 2 => 0xB504F3
  | _ => 0xD744FD

/-- LgLin (R63) of a log in quarters, as an exact value. -/
def lgLin (neg : Bool) (l : Int) : FVal := .num neg (lgTable (l % 4).toNat) (l / 4 - 23)

/-- The value of an LG6 element. -/
def lgVal (x : Nat) : FVal := if lgZero x then .num (lgNeg x) 0 0 else lgLin (lgNeg x) (lgLog x)

/-- The exact product of two elements as a value (R66). -/
def lgProd (x y : Nat) : FVal :=
  let neg := lgNeg x != lgNeg y
  if lgZero x || lgZero y then .num neg 0 0 else lgLin neg (lgLog x + lgLog y)

/-- The product of two elements as an LG6 element (R66). -/
def lgMul (x y : Nat) : Nat × BitVec 6 :=
  let s := if lgNeg x != lgNeg y then 0x20 else 0
  if lgZero x || lgZero y then (s + 0x10, 0)
  else
    let l := lgLog x + lgLog y
    if l > 15 then (s + 15, flagSAT ||| flagNX)
    else if l ≤ -16 then (s + 0x10, flagUF ||| flagNX)
    else (s + (l % 32).toNat, 0)

/-- Element `i` of an LG6X5 word (R64). -/
def lgElem (w : Nat) (i : Nat) : Nat := (w / 2 ^ (6 * i)) % 64

/-! ### Fixed point (R75) -/

/-- ToFixed128 of a field of FMT 0 F64, 1 F32, 2 I64, 3 I32: the value, inexact, overflow. -/
def toFixed128 (fmt p : Nat) (bits : Nat) : Int × Bool × Bool :=
  if fmt = 2 then ((BitVec.ofNat 64 bits).toInt * 2 ^ p, false, false)
  else if fmt = 3 then ((BitVec.ofNat 32 bits).toInt * 2 ^ p, false, false)
  else match (if fmt = 0 then fmtF64 else fmtF32).unpack bits with
    | .num n m e =>
      let r := Rounding.rne.shift n m (-(e + p))
      let y := signedInt n r.1
      if y < -(2 ^ 127) || y ≥ 2 ^ 127 then (0, r.2, true) else (y, r.2, false)
    | _ => (0, false, true)

end Sys2Proof.Machine
end

