-- ==== Sys2Proof/Machine/Access.lean ====
section
/-! DEFINITION. A thread's access to memory: where it goes (R148, R165, R236, R238, R321), what watches it (R366), what a
write does as it leaves its agent (R297, R298, R317), races (R154, R155), outstanding stores and fences (R152, R157 to R162),
and loads and stores of each kind. -/
namespace Sys2Proof.Machine

/-! ### The stream of an access (R149, R150, R164) -/

/-- The stream's entry as a bundle sees it. -/
def State.streamCfg (s : State) (b q : Nat) : BitVec 6 := ((s.ctx (s.bundle b).asid).streamcfg).getD q 0

/-- The DIRECT bit of a stream as a bundle sees it. -/
def State.streamDirect (s : State) (b q : Nat) : Bool := (s.streamCfg b q).getLsbD 3

/-- The version that a bundle's direct or other accesses act in (R164, R352), while it takes writes (R311). -/
def State.verOf (s : State) (b : Nat) (direct : Bool) : Option Nat :=
  match (s.bundle b).team with
  | some t => if s.versioned t && !direct && (s.team t).verOpen then some t else none
  | none => none

/-- The version that a bundle's accesses on a stream act in (R164, R352). -/
def State.streamVer (s : State) (b q : Nat) : Option Nat := s.verOf b (s.streamDirect b q)

/-- The number of no stream: a strong one, with no check of sizes. -/
def noStream : Nat := 16

/-! ### Watchpoints (R366, R367) -/

/-- The selector of a watchpoint admits a bundle (R366). -/
def State.watchSelects (s : State) (b : Nat) (wpm : DWord) : Bool :=
  let x := s.bundle b
  let kind := wpm.extractLsb' 18 2
  let teamIs := (x.team.map (fun t => (s.team t).index)) == some (wpm.extractLsb' 32 32).toNat
  kind == 0 || (kind == 1 && teamIs) || (kind == 2 && teamIs && x.bidx == (wpm.extractLsb' 20 12).toNat)

/-- The bytes of an access that a watchpoint watches, as in its BMASK. -/
def watchedBytes (wpa wpm : DWord) (va : DWord) (size : Nat) : BitVec 16 :=
  if !wpa.getLsbD 63 then 0 else
  let base := (wpa.extractLsb' 4 52).toNat * 16
  (List.range 16).foldl (fun m i =>
    if wpm.getLsbD i && va.toNat ≤ base + i && base + i < va.toNat + size then m ||| (1#16 <<< i) else m) 0

/-- The access reads or writes as TYPE asks (R366). -/
def watchType (wpm : DWord) (reads writes : Bool) : Bool := (reads && wpm.getLsbD 16) || (writes && wpm.getLsbD 17)

/-- The lowest watchpoint that a core access of a bundle hits (R366, R367). -/
def State.watchHit (s : State) (b : Nat) (va : DWord) (size : Nat) (reads writes : Bool) : Option Nat :=
  let c := s.ctx (s.bundle b).asid
  (List.range 8).find? (fun i =>
    let a := c.wpa.getD i 0
    let m := c.wpm.getD i 0
    watchType m reads writes && watchedBytes a m va size != 0 && s.watchSelects b m)

/-! ### Where an access goes (R165) -/

/-- Where an access of a thread goes, or why it does not. -/
inductive Target where
  /-- Memory of this device, at a local offset, in a version perhaps, behind a device page or not (R324). -/
  | mem (off : Nat) (ver : Option Nat) (dev : Bool)
  /-- A line of a backed window that holds its data, at an offset in the line. -/
  | line (team win num off : Nat)
  /-- A SCRATCH window, at an offset. -/
  | scratch (team win off : Nat)
  /-- A line that is INVALID or FILLING, with its home. -/
  | fill (team win num pa : Nat)
  /-- The device windows. -/
  | device (pa : Nat)
  /-- Another node, over a Span link. -/
  | remote (pa link : Nat)
  /-- Another node that no usable link reaches (R403). -/
  | unreachable
  /-- The access faults. -/
  | trap (i : TrapInfo)
  deriving DecidableEq, Repr

/-- The fault record fields of an access (R349). -/
def accessTrap (c : BitVec 8) (va : DWord) (size q : Nat) : TrapInfo :=
  { TrapInfo.of c with addr := va, size := size, bmask := BitVec.ofNat 16 (2 ^ size - 1), stream := q }

/-- The window of a team that holds an address (R236). -/
def Team.windowAt (t : Team) (va : DWord) : Option Window :=
  t.windows.find? (fun w => w.base.toNat ≤ va.toNat && va.toNat < w.base.toNat + w.size)

/-- The leaf maps a device page (R323). -/
def leafDevice (leaf : DWord) : Bool := leaf.extractLsb' 58 2 == 1

/-- The stop of a watchpoint before an access (R165 step 5, R367); a lane with SKIP set passes (R359). -/
def State.watchStop (s : State) (b l : Nat) (va : DWord) (size q : Nat) (reads writes : Bool) (t : Target) : Target :=
  if (s.thread b l).skip then t else
  match s.watchHit b va size reads writes with
  | some i => .trap { accessTrap causeWatchpoint va size q with aux := i }
  | none => t

/-- MODEL'S OWN: a load of the device windows waits for the thread's own outstanding stores to them; the wait is written as the
fill of a window that no team has. -/
def Target.busy : Target := .fill 0 64 0 0

/-- A thread has a store to the device windows outstanding. -/
def Thread.deviceStore (t : Thread) : Bool :=
  t.out.any (fun p => match p with
    | .store x => x.link.isNone && x.pa ≥ lpddrEnd
    | .fence _ => false)

/-- Steps 1 to 5 of R165 for one access of a lane that is `direct` or not: alignment, range, translation, stash, watchpoints. -/
def State.locateAs (s : State) (b l : Nat) (va : DWord) (size q : Nat) (direct : Bool) (k : Access) : State × Target :=
  let bad (c : BitVec 8) : Target := .trap (accessTrap c va size q)
  let reads := !(k == .write || k == .engineWrite)
  let stop (s : State) (t : Target) : Target := s.watchStop b l va size q reads k.isStore t
  if va.toNat % size != 0 then (s, bad causeMisaligned)
  else if !vaValid va then (s, bad causeOutOfRange)
  else if vaPrivate va then
    match (s.bundle b).team with
    | none => (s, bad causeOutOfRange)
    | some t => match (s.team t).windowAt va with
      | none => (s, bad causeStashAccess)
      | some w => (s, stop s (.scratch t w.num (va.toNat - w.base.toNat)))
  else match s.xlate (s.bundle b).coreNo (s.bundle b).asid va k with
    | (s, .absent r) => (s, .trap { accessTrap causePage va size q with access := k.bits, reason := r })
    | (s, .prot) => (s, bad causeProtection)
    | (s, .ok pa leaf) =>
      if !s.paExists pa then (s, bad causeOutOfRange) else
      let ordinary : Target :=
        if !s.isLocal pa then (match s.routeOf pa with
          | some i => .remote pa i
          | none => .unreachable)
        else if s.paDevice pa then (if reads && (s.thread b l).deviceStore then Target.busy else .device pa)
        else .mem (paOffset pa) (s.verOf b direct) (leafDevice leaf)
      match (s.bundle b).team with
      | none => (s, stop s ordinary)
      | some t => match (s.team t).windowAt va with
        | none => (s, stop s ordinary)
        | some w =>
          if (k.isStore && w.mode == .ro) || (s.versioned t && direct != w.direct) then (s, bad causeStashAccess)
          else if leafDevice leaf then (s, bad causeStashAccess)
          else
            let n := (va.toNat - w.base.toNat) / 128
            let home := s.homeOf pa / 128 * 128
            match w.line n with
            | some x =>
              if x.st == .filling then (s, stop s (.fill t w.num n home)) else (s, stop s (.line t w.num n (va.toNat % 128)))
            | none => (s, stop s (if (s.lineLink (!s.isLocal pa) home).isSome then .fill t w.num n home else .unreachable))

/-- Steps 1 to 5 of R165 for one access of a lane on a stream. -/
def State.locate (s : State) (b l : Nat) (va : DWord) (size q : Nat) (k : Access) : State × Target :=
  s.locateAs b l va size q (s.streamDirect b q) k

/-- A home of a line is on another node. -/
def remoteHome (home : Nat) : Bool := 2 ^ 52 ≤ home

/-- A line that has been requested from home (R239). -/
def Line.requested (n pa : Nat) (link : Option Sent) : Line := ⟨n, .filling, false, pa, remoteHome pa, 0, 0, 0, 0, false, link⟩

/-- Request a line from home (R239): an INVALID line becomes FILLING, where a link reaches its home (R402, R403). -/
def State.startFill (s : State) (t w n pa : Nat) : State :=
  match ((s.team t).window w).bind (fun x => x.line n), s.lineLink (remoteHome pa) pa with
  | none, some link => s.modWindow t w (fun x => { x with lines := x.lines ++ [Line.requested n pa link] })
  | _, _ => s

/-- Begin the fill that a target waits for. -/
def State.beginFill (s : State) : Target → State
  | .fill t w n pa => s.startFill t w n pa
  | _ => s

/-- The access waits for a fill. -/
def Target.isFill : Target → Bool
  | .fill _ _ _ _ => true
  | _ => false

/-- No link reaches the address. -/
def Target.isUnreachable : Target → Bool
  | .unreachable => true
  | _ => false

/-- The trap of a target. -/
def Target.trapOf : Target → Option TrapInfo
  | .trap i => some i
  | _ => none

/-! ### What a write does as it leaves its agent (R297, R298, R317) -/

/-- The field size of a monitor (R296). -/
def Monitor.size (m : Monitor) : Nat := if m.fmt = 0 || m.fmt = 2 then 8 else 4

/-- An address is the first byte of a field (R296). -/
def Monitor.isField (m : Monitor) (a : Nat) : Bool :=
  let first := m.base.toNat + m.foff
  first ≤ a && (a - first) % m.stride == 0 && a + m.size ≤ m.base.toNat + m.limit

/-- A field value is added to the partial of a core (R298). -/
def Monitor.accumulate (m : Monitor) (core : Nat) (bits : Nat) : Monitor :=
  let r := toFixed128 m.fmt m.p bits
  let p := (lookupKey core m.partials).getD 0 + r.1
  { m with
    partials := setKey core p m.partials
    inexact := if r.2.1 then min (m.inexact + 1) 65535 else m.inexact
    ovf := m.ovf || r.2.2 || p < -(2 ^ 159) || p ≥ 2 ^ 159
    stores := min (m.stores + 1) 0xFFFFFFFF
    touched := true }

/-- An armed monitor sees a write (R297): whole fields add, a part of a field or an atomic sets PARTIAL. -/
def Monitor.see (m : Monitor) (core q : Nat) (va : DWord) (bs : List Byte) (atomic : Bool) : Monitor :=
  if m.st != .armed || m.stream != q || bs.isEmpty then m else
  let z := m.size
  let first := va.toNat / z
  let last := (va.toNat + bs.length - 1) / z
  (List.range (last - first + 1)).foldl (fun m i =>
    let a := (first + i) * z
    if !m.isField a then m
    else if atomic || a < va.toNat || a + z > va.toNat + bs.length then { m with part := true }
    else m.accumulate core (ofBytes ((bs.drop (a - va.toNat)).take z))) m

/-- The monitors of a team see a write (R297). -/
def State.watchWrite (s : State) (t core q : Nat) (va : DWord) (bs : List Byte) (atomic : Bool) : State :=
  s.modTeam t (fun x => { x with mons := x.mons.map (fun m => m.see core q va bs atomic) })

/-- A write leaves a bundle on a stream: injection first, then the monitors of its team see it. -/
def State.leaving (s : State) (b q : Nat) (va : DWord) (bs : List Byte) (atomic : Bool) : State × List Byte :=
  let x := s.bundle b
  let (s, bs) := s.inject x.asid va bs
  match x.team with
  | some t => (s.watchWrite t x.core q va bs atomic, bs)
  | none => (s, bs)

/-! ### The global side of a command (R254, R256, R269) -/

/-- The rows of one side of a copy. -/
def CopySpec.rowsAt (c : CopySpec) (base stride : Nat) : List (Nat × Nat) :=
  if c.rbytes = 0 then [] else (List.range c.rows).map (fun r => (base + r * stride, c.rbytes))

/-- The global rows of a copy. -/
def CopySpec.globalRows (c : CopySpec) : List (Nat × Nat) := if c.dir ≥ 2 then [] else c.rowsAt c.gbase.toNat c.gstride

/-- The element size of a collective's format (R269). -/
def collElement (f : Nat) : Option Nat :=
  match f with
  | 0x05 | 0x06 | 0x12 => some 4
  | 0x07 | 0x08 | 0x13 => some 8
  | 0x11 => some 2
  | _ => none

/-- The bytes of SEND and of RECV (R269). -/
def CollSpec.sizes (c : CollSpec) : Nat × Nat :=
  let n := c.count * (collElement c.fmt.toNat).getD 1
  if c.kind = 0 then (n, n) else if c.kind = 1 then (n, c.members.length * n) else (c.members.length * n, n)

/-- Global bytes that a command accesses: its rows, the size of an element, and whether it writes them. -/
structure GlobalSide where
  rows : List (Nat × Nat)
  esize : Nat
  store : Bool

/-- The rows of the issuing team's stash that a copy names. -/
def CopySpec.stashRows (c : CopySpec) : List (Nat × Nat) := c.rowsAt c.sbase.toNat c.sstride

/-- The rows of a PEER copy in the partner's team-private range (R256). -/
def CopySpec.peerRows (c : CopySpec) : List (Nat × Nat) := c.rowsAt (privateBase + bitsAt c.gbase.toNat 0 40) c.gstride

/-- The partner rank of a PEER copy (R256). -/
def CopySpec.peer (c : CopySpec) : Nat := bitsAt c.gbase.toNat 40 16

/-- The team of a rank in a team's pack. -/
def State.teamOfRank (s : State) (t rank : Nat) : Option Nat := (s.pack (s.team t).pack).members[rank]?

/-- Stash bytes that a copy accesses: of the partner or of its own team, its rows, the size of an element, and whether it writes them. -/
structure StashSide where
  far : Bool
  rows : List (Nat × Nat)
  esize : Nat
  store : Bool

/-- The stash bytes of a copy (R256); the operands of a matrix post are R265's. -/
def CmdSpec.stashSides : CmdSpec → List StashSide
  | .copy c => ⟨false, c.stashRows, c.esize, c.dir % 2 == 0⟩ :: (if c.dir ≥ 2 then [⟨true, c.peerRows, c.esize, c.dir == 3⟩] else [])
  | .matrix _ => []
  | .coll _ => []

/-- The team whose stash a side of a copy is in. -/
def State.sideTeam (s : State) (c : Cmd) (g : StashSide) : Option Nat :=
  if g.far then (match c.spec with
    | .copy x => s.teamOfRank c.team x.peer
    | _ => none)
  else some c.team

/-- The global bytes of a command (R256, R269). -/
def CmdSpec.globals : CmdSpec → List GlobalSide
  | .copy c => [⟨c.globalRows, c.esize, c.dir == 1⟩]
  | .matrix _ => []
  | .coll c =>
    let e := (collElement c.fmt.toNat).getD 1
    [⟨[(c.send.toNat, c.sizes.1)], e, false⟩, ⟨[(c.recv.toNat, c.sizes.2)], e, true⟩]

/-- The page size by which the pages of a command are counted and pinned. -/
def enginePage : Nat := 65536

/-- The physical address of a byte through the pinned translations of a command (R254). -/
def Cmd.pinOf (c : Cmd) (a : Nat) : Option Nat := (lookupKey (a / enginePage) c.pins).map (· + a % enginePage)

/-- The virtual addresses at which the pinned translations of a command have a home address. -/
def State.pinnedAt (s : State) (c : Cmd) (home : Nat) : List Nat :=
  c.pins.filterMap (fun p =>
    let h := s.homeOf p.2
    if h ≤ home && home < h + enginePage then some (p.1 * enginePage + (home - h)) else none)

/-- The version that a command's stream acts in (R150, R164), while it takes writes (R311); a command of a killed team acts in none. -/
def State.cmdVer (s : State) (c : Cmd) : Option Nat :=
  if s.versioned c.team && !c.cfg.getLsbD 3 && !c.orphan && (s.team c.team).verOpen then some c.team else none

/-- The command has accessed memory, and no observation orders what comes after it (R154, R258). -/
def State.cmdOpen (s : State) (c : Cmd) : Bool := c.progress != 0 && !c.observed && (s.bundle c.bundle).live

/-- The page of an address is a device page of a command (R324). -/
def Cmd.devAt (c : Cmd) (a : Nat) : Bool := c.devs.contains (a / enginePage)

/-! ### Races (R153 to R155) -/

/-- What races are judged by: the bundle and lanes whose access it is, its stream with the entry that configures it (R150), whether it is
on a device page (R324), its place, size and version, and the tick of the last acquire before it. The place is the address of its home, as
stash lines have it, or that of a byte of a SCRATCH window. An engine's access on stream q has the stream 32 + q, and `post` is the tick at
which its command was accepted (R258). -/
structure Spot where
  b : Nat
  lanes : BitVec 64
  q : Nat
  cfg : BitVec 6
  dev : Bool
  off : Nat
  size : Nat
  ver : Option Nat
  acq : Nat
  post : Option Nat
  deriving DecidableEq, Repr

/-- The access is strong: its stream is, or the page is a device page (R149, R324). -/
def Spot.strong (z : Spot) : Bool := z.dev || !z.cfg.getLsbD 2

/-- The access is served at the home slice (R151, R324). -/
def Spot.llc (z : Spot) : Bool := z.dev || z.cfg.extractLsb' 4 2 == 3

/-- The access is checked for mixed sizes (R155). -/
def Spot.sizechk (z : Spot) : Bool := z.strong && z.cfg.getLsbD 1

/-- The tick of the last acquire that orders a stream's accesses of all of these lanes. -/
def Bundle.acquired (b : Bundle) (lanes : BitVec 64) (q : Nat) : Nat :=
  match lanesIn lanes b.threads.length with
  | [] => 0
  | l :: ls => ls.foldl (fun n k => min n ((b.thread k).acq.getD q 0)) ((b.thread l).acq.getD q 0)

/-- An access of lanes on a stream as it is configured now. -/
def State.spot (s : State) (b : Nat) (lanes : BitVec 64) (q : Nat) (dev : Bool) (off size : Nat) (ver : Option Nat) : Spot :=
  ⟨b, lanes, q, s.streamCfg b q, dev, off, size, ver, (s.bundle b).acquired lanes q, none⟩

/-- The place by which accesses to a byte of a SCRATCH window of a team race. -/
def scratchPlace (t va : Nat) : Nat := va + 2 ^ 64 * (t + 1)

/-- An access of lanes on a stream at its target, where it races. -/
def State.spotAt (s : State) (b : Nat) (lanes : BitVec 64) (q size : Nat) : Target → Option Spot
  | .mem off ver dev => some (s.spot b lanes q dev off size ver)
  | .line t w n off => ((s.team t).window w).bind (fun x => (x.line n).map (fun y =>
      s.spot b lanes q false (y.pa + off) size (s.winVer t x)))
  | .scratch t w off => ((s.team t).window w).map (fun x => s.spot b lanes q false (scratchPlace t (x.base.toNat + off)) size none)
  | _ => none

/-- Two ranges of bytes have one in common. -/
def overlap (a n a' n' : Nat) : Bool := a < a' + n' && a' < a + n

/-- An access and an outstanding store overlap, both strong and of different size, in one place (R154). -/
def PStore.races (x : PStore) (z : Spot) : Bool :=
  x.strong && x.link.isNone && x.ver == z.ver && x.bytes.length != z.size && overlap x.pa x.bytes.length z.off z.size

/-- The access is one of the thread's own in the stream, which R157 orders. -/
def Spot.owns (z : Spot) (b l q : Nat) : Bool := b == z.b && z.lanes.getLsbD l && q == z.q

/-- The bytes of a store that lie in a range. -/
def PStore.within (x : PStore) (off size : Nat) : BitVec 16 :=
  (List.range x.bytes.length).foldl (fun m i => if off ≤ x.pa + i && x.pa + i < off + size then m ||| (1#16 <<< i) else m) 0

/-- The outstanding stores of other threads, and of other streams of this one, that an access races (R154), each with its thread. -/
def State.racing (s : State) (z : Spot) : List (Nat × Nat × PStore) :=
  (indices s.bundles).flatMap (fun b => (indices (s.bundle b).threads).flatMap (fun l =>
    ((s.thread b l).stores.filter (fun x => x.races z && !z.owns b l x.stream)).map (fun x => (b, l, x))))

/-- The bytes of the racing stores become undefined in memory (R154). -/
def State.markRaces (s : State) (z : Spot) : State :=
  { s with bundles := s.bundles.mapIdx (fun b x => { x with threads := x.threads.mapIdx (fun l t => { t with
      out := t.out.map (fun p => match p with
        | .store y => if y.races z && !z.owns b l y.stream then .store { y with mix := y.mix ||| y.within z.off z.size } else p
        | .fence f => .fence f) }) }) }

/-- A performed access is ordered before another one (R154, R159, R160): its agent has released it, and since then the other has acquired
it; or they are of one thread, in one stream or with a fence between; or it is a thread's own, ordered before a command that the thread posts
(R258). -/
def Touch.before (x : Touch) (b : Nat) (z : Spot) (store : Bool) : Bool :=
  (match x.rel with
    | some r => r ≤ z.acq || (b == z.b && x.lanes &&& z.lanes != 0 && z.post.any (fun p => r ≤ p))
    | none => false)
  || (b == z.b && x.lanes &&& z.lanes != 0 && (x.stream == z.q || (store && x.own.getLsbD z.q)))

/-- A performed access races one of another size (R154); `store` says whether the latter writes. -/
def Touch.races (x : Touch) (b : Nat) (z : Spot) (store : Bool) : Bool :=
  x.ver == z.ver && x.size != z.size && (store || x.store) && overlap x.pa x.size z.off z.size && !x.before b z store

/-- A command that is open accesses a byte of a place strongly, and races there an access of another size (R154). -/
def State.cmdMeets (s : State) (c : Cmd) (z : Spot) (store : Bool) (place : Nat) : Bool :=
  let inRows (rs : List (Nat × Nat)) (a : Nat) : Bool := rs.any (fun r => r.1 ≤ a && a < r.1 + r.2)
  let at_ := s.pinnedAt c place
  c.spec.globals.any (fun g => g.esize != z.size && (store || g.store)
      && at_.any (fun a => (!c.cfg.getLsbD 2 || c.devAt a) && inRows g.rows a))
  || !c.cfg.getLsbD 2 && c.spec.stashSides.any (fun g => g.esize != z.size && (store || g.store)
      && (if place ≥ 2 ^ 64 then
          (s.sideTeam c g).any (fun t => inRows (g.rows.map (fun r => (scratchPlace t r.1, r.2))) place)
        else !g.far && at_.any (inRows g.rows)))

/-- The bytes of commands that an access of another size races (R154). -/
def State.cmdTouched (s : State) (z : Spot) (store : Bool) : List (Nat × Nat) :=
  let open_ := s.cmds.filter (fun c => s.cmdOpen c && s.cmdVer c == z.ver)
  (List.range z.size).filterMap (fun i => if open_.any (fun c => s.cmdMeets c z store (z.off + i)) then some (z.off + i, 1) else none)

/-- The ranges of the performed accesses that an access races (R154). -/
def State.touched (s : State) (z : Spot) (store : Bool) : List (Nat × Nat) :=
  let place (x : Touch) : Nat × Nat := (x.pa, x.size)
  (indices s.bundles).flatMap (fun b => (s.bundle b).threads.flatMap (fun t =>
    (t.recent.filter (fun x => x.races b z store)).map place))
  ++ (s.outside.filter (fun x => x.races s.bundles.length z store)).map place ++ s.cmdTouched z store

/-- The bytes of an access that lie in ranges. -/
def rangeMask (rs : List (Nat × Nat)) (off size : Nat) : BitVec 16 :=
  (List.range size).foldl (fun m i => if rs.any (fun r => r.1 ≤ off + i && off + i < r.1 + r.2) then m ||| (1#16 <<< i) else m) 0

/-- The bytes of a strong access that races make undefined (R154). -/
def State.raceMask (s : State) (z : Spot) (store : Bool) : BitVec 16 :=
  rangeMask ((s.racing z).map (fun x => (x.2.2.pa, x.2.2.bytes.length)) ++ s.touched z store) z.off z.size

/-- A byte of a line is undefined: in the copy, and at home where the line holds no store of its own. -/
def State.spoilLine (s : State) (t w n off : Nat) (v : Byte) : State :=
  match ((s.team t).window w).bind (fun x => (x.line n).map (fun y => (x, y))) with
  | none => s
  | some (x, y) =>
    let s := if y.st == .clean && !y.remote then ((s.recall y.pa true (some (t, w))).1.homeWrite (s.winVer t x) (y.pa + off) [v]) else s
    s.modLine t w n (fun z => { z with data := linePut z.data off v })

/-- A byte of a target that races have made undefined. -/
def State.spoilAt (s : State) (tg : Target) (i : Nat) (v : Byte) : State :=
  match tg with
  | .mem off ver _ => s.outsideWrite ver (off + i) [v]
  | .line t w n off => s.spoilLine t w n (off + i) v
  | .scratch t w off => s.modWindow t w (fun x => { x with bytes := x.bytes.writeBytes (off + i) [v] })
  | _ => s

/-- The bytes of memory that a strong load races with performed stores become undefined (R154). -/
def State.spoil (s : State) (z : Spot) (tg : Target) : State :=
  let m := rangeMask (s.touched z false) z.off z.size
  ((List.range z.size).filter m.getLsbD).foldl (fun s i => s.spoilAt tg i (Config.freeByte s.ticks 74 i)) s

/-- A strong access races: the bytes of outstanding stores, and for a load those of its target, become undefined. -/
def State.raceEffects (s : State) (z : Spot) (tg : Target) (store : Bool) : State :=
  let s := if (s.racing z).isEmpty then s else s.markRaces z
  if store then s else s.spoil z tg

/-- The access is another one to the same bytes by the same agent. -/
def Touch.again (x y : Touch) : Bool :=
  x.lanes == y.lanes && x.stream == y.stream && x.pa == y.pa && x.size == y.size && x.ver == y.ver && x.store == y.store

/-- Keep an access in the list of those that may still race. -/
def keepTouch (x : Touch) (ts : List Touch) : List Touch := ts.filter (fun y => !x.again y) ++ [x]

/-- The access as it is kept once it is performed (R154). -/
def Spot.touch (z : Spot) (store : Bool) (rel : Option Nat) (own : BitVec 16) : Touch :=
  ⟨z.lanes, z.q, z.off, z.size, z.ver, store, rel, own⟩

/-- Keep a performed strong access of a thread, which its releases and the acquires of others order (R154). -/
def State.note (s : State) (z : Spot) (l : Nat) (store : Bool) : State :=
  s.modThread z.b l (fun t => { t with recent := keepTouch (z.touch store none 0) t.recent })

/-- A load has given bytes: those that it races are undefined where it is strong (R154). -/
def State.racedLoad (s : State) (z : Spot) (l : Nat) (tg : Target) (bs : List Byte) : State × List Byte :=
  if z.strong then ((s.raceEffects z tg false).note z l false, mixBytes s.ticks l (s.raceMask z false) bs) else (s, bs)

/-- A store is about to be made: what it races becomes undefined where it is strong (R154), and so do the bytes of the mask. -/
def State.racedStore (s : State) (z : Spot) (tg : Target) : State × BitVec 16 :=
  if z.strong then (s.raceEffects z tg true, s.raceMask z true) else (s, 0)

/-- Keep a store that has been made. -/
def State.noteStore (s : State) (z : Spot) (l : Nat) : State := if z.strong then s.note z l true else s

/-- OTHER of R349 for a thread: its team index, and its team-relative thread index (R216). -/
def State.threadName (s : State) (b l : Nat) : DWord :=
  let x := s.bundle b
  BitVec.ofNat 64 (((x.team.map (fun t => (s.team t).index)).getD 0) * 2 ^ 32 + x.bidx * x.w + l)

/-- The report of R155 on an access at `va` of the word at `pc`: it and an outstanding store that it races are on SIZECHK streams. The
report is certain where both have POLICY LLCONLY, and is made or not else. -/
def State.sizeReport (s : State) (z : Spot) (va pc : DWord) : Option TrapInfo :=
  if !z.sizechk then none else
  let rs := (s.racing z).filter (fun x => x.2.2.sizechk)
  let told (x : Nat × Nat × PStore) : TrapInfo :=
    { accessTrap causeSizeOverlap va z.size z.q with okind := 1, other := s.threadName x.1 x.2.1, pc := some pc }
  match rs.find? (fun x => z.llc && x.2.2.llc) with
  | some x => some (told x)
  | none =>
    if Config.freeBool s.ticks z.b 155 then (rs[(Config.freeWord s.ticks z.b 155).toNat % rs.length]?).map told else none

/-- The issue reports an access of lanes (R155). -/
def State.report (s : State) (lanes : BitVec 64) (r : Option TrapInfo) : State :=
  match r with
  | some i => { s with cur := { s.cur with reports := s.cur.reports ++ (lanesIn lanes 64).map (fun l => (l, i)) } }
  | none => s

/-! ### Outstanding stores (R152, R157, R158) -/

/-- The newest outstanding store of a thread in a stream that holds a byte (R157). -/
def Thread.ownByte (t : Thread) (q : Nat) (ver : Option Nat) (off : Nat) : Option Byte :=
  t.stores.foldl (fun acc x =>
    if x.stream == q && x.ver == ver && x.link.isNone && x.pa ≤ off && off < x.pa + x.bytes.length then x.bytes[off - x.pa]?
    else acc) none

/-- A thread of bundle `b` sees an outstanding store of bundle `b'` already (R158). -/
def State.shows (s : State) (b b' : Nat) (x : PStore) : Bool :=
  let y := s.bundle b
  let y' := s.bundle b'
  x.link.isNone && y.part == y'.part && (x.vis == 2 || (x.vis == 1 && y.core == y'.core))

/-- The byte at an address that an outstanding store shows to the threads of a bundle before it is performed (R158). -/
def State.shownByte (s : State) (b : Nat) (ver : Option Nat) (off : Nat) : Option Byte :=
  (indices s.bundles).findSome? (fun b' => (s.bundle b').threads.findSome? (fun t => t.stores.findSome? (fun x =>
    if s.shows b b' x && x.ver == ver && x.pa ≤ off && off < x.pa + x.bytes.length then x.bytes[off - x.pa]? else none)))

/-- Drop the fences that no longer wait (R152): no earlier store of their earlier streams is outstanding, and, where they wait
for write-backs, none of the team is. -/
def settleFences (writing : Bool) : BitVec 16 → List Pending → List Pending
  | _, [] => []
  | seen, .store x :: ps => .store x :: settleFences writing (seen ||| (1#16 <<< x.stream)) ps
  | seen, .fence f :: ps =>
    if f.early &&& seen == 0 && !(f.wide && writing) then settleFences writing seen ps
    else .fence f :: settleFences writing seen ps

/-- A write-back of the bundle's team is outstanding. -/
def State.bundleWriting (s : State) (b : Nat) : Bool := ((s.bundle b).team.map s.teamWriting).getD false

/-- Let the completed fences of a thread go. -/
def State.settleThread (s : State) (b l : Nat) : State :=
  let w := s.bundleWriting b
  s.modThread b l (fun t => { t with out := settleFences w 0 t.out })

/-- Two stores of a thread in one stream have a byte in common, so that they take effect in program order (R157). -/
def PStore.follows (x y : PStore) : Bool :=
  x.stream == y.stream && x.ver == y.ver && overlap x.pa (max 1 x.bytes.length) y.pa (max 1 y.bytes.length)

/-- The stores of a thread's list, newest first, that are performed where a test selects one: it, and every earlier one that a
chosen one follows (R157). They come oldest first, with what stays. -/
def chooseStores (test : PStore → Bool) : List Pending → List PStore × List Pending → List PStore × List Pending
  | [], acc => acc
  | .fence f :: ps, (xs, rest) => chooseStores test ps (xs, .fence f :: rest)
  | .store x :: ps, (xs, rest) =>
    if test x || xs.any (fun y => y.follows x) then chooseStores test ps (x :: xs, rest) else chooseStores test ps (xs, .store x :: rest)

/-- The fences that stand behind a store in a thread's list. -/
def laterFences (x : PStore) : List Pending → List FenceMark
  | [] => []
  | .store y :: ps => if y == x then ps.filterMap (fun p => match p with
      | .fence f => some f
      | .store _ => none) else laterFences x ps
  | .fence _ :: ps => laterFences x ps

/-- A thread's requests to another node that a link has carried are answered: what waits for one of them does no longer. -/
def Bundle.answered (b : Bundle) (l : Nat) (xs : List PStore) : Bundle :=
  let sent := xs.filterMap (fun x => if x.bytes.isEmpty then x.link else none)
  if sent.isEmpty || b.late.isEmpty then b else
  { b with late := b.late.map (fun o =>
      if o.lanes.any (fun w => w.lane == l) then { o with links := o.links.filter (fun x => !sent.contains x) } else o) }

/-- Keep a store that has been performed, with the fences behind it that order it (R154, R159). -/
def State.notePerformed (s : State) (b l : Nat) (x : PStore) (fs : List FenceMark) : State :=
  if !x.strong || x.link.isSome || x.pa ≥ lpddrEnd then s else
  let fs := fs.filter (fun f => f.early.getLsbD x.stream)
  let y : Touch := ⟨laneBit l, x.stream, x.pa, x.bytes.length, x.ver, true, if fs.isEmpty then none else some s.ticks,
    fs.foldl (fun m f => m ||| f.late) 0⟩
  s.modThread b l (fun t => { t with recent := keepTouch y t.recent })

/-- Perform the outstanding stores of a thread that a test selects, with those before them that R157 orders, in program order. -/
def State.performStores (s : State) (b l : Nat) (test : PStore → Bool) : State :=
  let out := (s.thread b l).out
  let r := chooseStores test out.reverse ([], [])
  if r.1.isEmpty then s else
  let s := s.modBundle b (fun x => (x.modThread l (fun t => { t with out := r.2 })).answered l r.1)
  (r.1.foldl (fun s x => (s.performOne l x).notePerformed b l x (laterFences x out)) s).settleThread b l

/-- The thread's loads that a test selects take their values: none may change any more (R157 to R159). -/
def State.bindLoads (s : State) (b l : Nat) (test : LateLoad → Bool) : State :=
  if (s.bundle b).late.isEmpty then s else
  s.modBundle b (fun x => { x with late := x.late.map (fun o => { o with loads := o.loads.filter (fun y => !(y.lane == l && test y)) }) })

/-- An access of a thread in a stream, or in every one, binds its earlier loads of it from a common byte (R157). -/
def State.bindOwn (s : State) (b l : Nat) (q : Option Nat) (off size : Nat) : State :=
  s.bindLoads b l (fun y => (q.isNone || q == some y.stream) && overlap y.pa y.size off size)

/-- Perform the stores that a thread of a bundle sees already and that a test selects: what the bundle does next comes after them
(R157, R159). -/
def State.performSeen (s : State) (b : Nat) (test : PStore → Bool) : State :=
  (indices s.bundles).foldl (fun s b' => (indices (s.bundle b').threads).foldl (fun s l =>
    if (s.thread b' l).out.isEmpty then s else s.performStores b' l (fun x => s.shows b b' x && test x)) s) s

/-- A release of a thread orders its performed accesses in the streams of `early` (R154, R159). -/
def State.releaseTouches (s : State) (b l : Nat) (early late : BitVec 16) : State :=
  if (s.thread b l).recent.isEmpty then s
  else s.modThread b l (fun t => { t with recent := t.recent.map (Touch.releasedAt s.ticks early late) })

/-- A thread acquires at a tick in the streams of a set (R159, R160). -/
def Thread.acquireAt (t : Thread) (tick : Nat) (set : BitVec 16) : Thread :=
  { t with acq := (List.range 16).map (fun q => if set.getLsbD q then tick else t.acq.getD q 0) }

/-- An acquire of one thread (R159): its earlier loads in the streams have their values, and its later accesses in the streams of `late`
come after what other agents have released. -/
def State.acquireIn (s : State) (b l : Nat) (early late : BitVec 16) : State :=
  (s.bindLoads b l (fun y => early.getLsbD y.stream)).modThread b l (fun t => t.acquireAt s.ticks late)

/-- An acquire of one thread in a set of streams. -/
def State.acquireThread (s : State) (b l : Nat) (set : BitVec 16) : State := s.acquireIn b l set set

/-- Perform every outstanding access of a thread, and let all its loads have their values: what orders all its accesses. -/
def State.drainThread (s : State) (b l : Nat) : State :=
  ((s.performStores b l (fun _ => true)).bindLoads b l (fun _ => true)).releaseTouches b l 0xFFFF 0xFFFF

/-- Perform every outstanding access of lanes of a bundle, and what they have seen of others (R159). -/
def State.drainLanes (s : State) (b : Nat) (ls : List Nat) : State :=
  ls.foldl (fun s l => s.drainThread b l) (s.performSeen b (fun _ => true))

/-- The accesses of lanes in a stream are performed before a command that they post (R258, R270), and what they have seen of others; their
accesses in other streams are not ordered with it. -/
def State.drainStream (s : State) (b : Nat) (ls : List Nat) (q : Nat) : State :=
  ls.foldl (fun s l =>
    ((s.performStores b l (fun x => x.stream == q)).bindLoads b l (fun y => y.stream == q)).releaseTouches b l (1#16 <<< q) (1#16 <<< q))
    (s.performSeen b (fun _ => true))

/-- Perform a thread's own stores to a range before an access that must see them. -/
def State.drainOwn (s : State) (b l : Nat) (stream : Option Nat) (off size : Nat) : State :=
  s.performStores b l (fun x => (stream.isNone || stream == some x.stream) && overlap x.pa x.bytes.length off size)

/-- Before an access writes a range, the stores to it that its bundle sees already are performed (R157). -/
def State.settleSeen (s : State) (b off size : Nat) : State := s.performSeen b (fun x => overlap x.pa x.bytes.length off size)

/-! ### Stash lines and SCRATCH windows -/

/-- The arithmetic clocks that the die of a team has run (R417). -/
def State.teamClocks (s : State) (t : Nat) : Nat := clocksRun s.aclk (dieOf (s.team t).part)

/-- Bytes of a line. -/
def Line.bytes (x : Line) (off size : Nat) : List Byte := (List.range size).map (fun i => lineGet x.data (off + i))

/-- Store bytes in a line (R239): CLEAN becomes DIRTY; bytes stored during WRITING are for the next write-back. -/
def Line.store (x : Line) (now off : Nat) (bs : List Byte) : Line :=
  let mask : BitVec 128 := BitVec.ofNat 128 ((2 ^ bs.length - 1) * 2 ^ off)
  let x := { x with data := (bs.zip (List.range bs.length)).foldl (fun (d : BitVec 1024) (b : Byte × Nat) => linePut d (off + b.2) b.1) x.data }
  if x.st == .writing then { x with redirty := x.redirty ||| mask } else { x with st := .dirty, dirty := x.dirty ||| mask, since := if x.st == .dirty then x.since else now }

/-- The bytes of a line of a team. -/
def State.lineRead (s : State) (t w n off size : Nat) : List Byte :=
  (((s.team t).window w).bind (fun x => x.line n)).elim (List.replicate size 0) (fun x => x.bytes off size)

/-- Store bytes in a line of a team. -/
def State.lineWrite (s : State) (t w n off : Nat) (bs : List Byte) : State := s.modLine t w n (fun x => x.store (s.teamClocks t) off bs)

/-- The bytes of a SCRATCH window. -/
def State.scratchRead (s : State) (t w off size : Nat) : List Byte :=
  (((s.team t).window w).map (fun x => x.bytes.readBytes off size)).getD (List.replicate size 0)

/-- Store bytes in a SCRATCH window. -/
def State.scratchWrite (s : State) (t w off : Nat) (bs : List Byte) : State :=
  s.modWindow t w (fun x => { x with bytes := x.bytes.writeBytes off bs })

/-! ### Filling a line (R238, R239) -/

/-- The 128 bytes of a line as a number. -/
def packLine (bs : List Byte) : BitVec 1024 := BitVec.ofNat 1024 (ofBytes bs)

/-- A line gets its bytes (R238, R239): those that a load on the window's stream would return; home recalls other holders first
(R241). -/
def State.fillLine (s : State) (team : Nat) (w : Window) (l : Line) : State :=
  let s := (s.recall l.pa false (some (team, w.num))).1
  let bs := if l.remote then freeBytes s.ticks l.num 128 else s.homeBytes (s.winVer team w) l.pa 128
  s.modLine team w.num l.num (fun x => { x.cleaned with excl := false, data := packLine bs })

/-- A line is requested and filled at once. -/
def State.fillNow (s : State) (t w n home : Nat) : State :=
  let s := s.startFill t w n home
  match (s.team t).window w with
  | some x => (match x.line n with
    | some l => if l.st == .filling then s.fillLine t x l else s
    | none => s)
  | none => s

/-! ### Loads and stores of a lane -/

/-- What a load gives: the bytes read and the request that they wait for. -/
structure Loaded where
  bytes : List Byte
  link : Option Sent
  deriving DecidableEq, Repr

/-- The bytes of committed memory or of a version as a thread sees them (R157, R158, R241): what it or another thread near it has
stored and not yet performed covers what home holds. -/
def State.seenBytes (s : State) (b l q off size : Nat) (ver : Option Nat) : State × List Byte :=
  let (s, bs) := s.outsideRead ver off size
  (s, bs.mapIdx (fun i x => (((s.thread b l).ownByte q ver (off + i)).orElse (fun _ => s.shownByte b ver (off + i))).getD x))

/-- A load of an access of lanes from memory, in the name of one of them (R153 to R158). -/
def State.memLoad (s : State) (z : Spot) (l : Nat) (tg : Target) (va : DWord) : State × List Byte :=
  let s := s.bindOwn z.b l (some z.q) z.off z.size
  let s := s.report z.lanes (s.sizeReport z va s.cur.pc)
  let (s, bs) := s.seenBytes z.b l z.q z.off z.size z.ver
  s.racedLoad z l tg bs

/-- A load of stash of an access of lanes (R238): it races there as in memory (R154). -/
def State.stashLoad (s : State) (z : Option Spot) (l : Nat) (tg : Target) (bs : List Byte) : State × List Byte :=
  match z with
  | some z => s.racedLoad z l tg bs
  | none => (s, bs)

/-- A request to another node without a store of bytes stays outstanding for each lane until its node answers (R402). -/
def State.pushRequest (s : State) (b q : Nat) (lanes : BitVec 64) (va : DWord) (x : Sent) : State :=
  (lanesIn lanes (s.bundle b).threads.length).foldl (fun s l => s.modThread b l (fun t => { t with out := t.out ++
    [.store ⟨q, va, x.pa, [], none, true, false, false, 0, 0, some x, s.cur.pc⟩] })) s

/-- A load of a lane, on a stream and for lanes whose access it is. -/
def State.loadFrom (s : State) (b l q : Nat) (lanes : BitVec 64) (va : DWord) (size : Nat) (tg : Target) : State × Loaded :=
  let z := s.spotAt b lanes q size tg
  match tg with
  | .mem off ver dev => let (s, bs) := s.memLoad (s.spot b lanes q dev off size ver) l tg va; (s, ⟨bs, none⟩)
  | .line t w n off => let (s, bs) := s.stashLoad z l tg (s.lineRead t w n off size); (s, ⟨bs, none⟩)
  | .scratch t w off => let (s, bs) := s.stashLoad z l tg (s.scratchRead t w off size); (s, ⟨bs, none⟩)
  | .device pa => (s, ⟨s.windowBytes pa size, none⟩)
  | .remote pa link =>
    let x : Sent := ⟨link, pa, s.clk⟩
    ((s.recallRemote pa false).pushRequest b q lanes va x, ⟨freeBytes s.ticks (64 * pa + l) size, some x⟩)
  | _ => (s, ⟨List.replicate size 0, none⟩)

/-- A store to memory that is about to be made, strong perhaps: what races it (R154, R155), and the bytes that it is left with. -/
def State.memStore (s : State) (z : Spot) (l : Nat) (tg : Target) (va : DWord) : State × BitVec 16 :=
  let s := (s.bindOwn z.b l (some z.q) z.off z.size).settleSeen z.b z.off z.size
  (s.report z.lanes (s.sizeReport z va s.cur.pc)).racedStore z tg

/-- Store bytes in stash (R238, R239). -/
def State.stashWrite (s : State) (tg : Target) (bs : List Byte) : State :=
  match tg with
  | .line t w n off => s.lineWrite t w n off bs
  | .scratch t w off => s.scratchWrite t w off bs
  | _ => s

/-- A store of an access of lanes in stash (R238, R240): it is made when it issues, and races there as in memory (R154). -/
def State.stashStore (s : State) (z : Option Spot) (l : Nat) (tg : Target) (bs : List Byte) : State :=
  match z with
  | some z =>
    let (s, mix) := s.racedStore z tg
    (s.stashWrite tg (mixBytes s.ticks l mix bs)).noteStore z l
  | none => s.stashWrite tg bs

/-- A store of lanes, in the name of one of them (R152, R158, R240): stores to memory wait in the thread's list; stores to the stash are
made. A store is kept whole, which is one of the ways that R153 allows on a weak stream (assumption 79). -/
def State.storeTo (s : State) (b l q : Nat) (lanes : BitVec 64) (va : DWord) (bs : List Byte) (tg : Target) : State :=
  let (s, bs) := s.leaving b q va bs false
  let z := s.spotAt b lanes q bs.length tg
  let push (s : State) (pa : Nat) (ver : Option Nat) (strong sizechk llc : Bool) (mix : BitVec 16) (link : Option Sent) : State :=
    s.modThread b l (fun t => { t with out := t.out ++ [.store ⟨q, va, pa, bs, ver, strong, sizechk, llc, 0, mix, link, s.cur.pc⟩] })
  match tg with
  | .mem off ver dev =>
    let z := s.spot b lanes q dev off bs.length ver
    let (s, mix) := s.memStore z l tg va
    push s off ver z.strong z.sizechk z.llc mix none
  | .device pa => push s pa none true false true 0 none
  | .remote pa link => push s pa none true false false 0 (some ⟨link, pa, s.clk⟩)
  | tg => s.stashStore z l tg bs

/-! ### Accesses that are performed at once: uniform words, the frame engine, records -/

/-- How an access that is performed at once ends. -/
inductive Now where
  | ok (bytes : List Byte)
  | wait (t : Target)
  | trap (i : TrapInfo)
  | lost
  deriving DecidableEq, Repr

/-- The own earlier stores to a range of the lanes whose access it is, in the streams asked, are performed first (R157). -/
def State.drainOwns (s : State) (b : Nat) (lanes : BitVec 64) (own : Option Nat) (off size : Nat) : State :=
  (lanesIn lanes (s.bundle b).threads.length).foldl (fun s l => (s.drainOwn b l own off size).bindOwn b l own off size) s

/-- Load bytes at once in the name of a lane, for the lanes whose access it is. -/
def State.loadNow (s : State) (b l q : Nat) (lanes : BitVec 64) (own : Option Nat) (va : DWord) (size : Nat) (k : Access) : State × Now :=
  match s.locate b l va size q k with
  | (s, .trap i) => (s, .trap i)
  | (s, .unreachable) => (s, .lost)
  | (s, .fill t w n pa) => (s, .wait (.fill t w n pa))
  | (s, tg) =>
    let s := match tg with
      | .mem off _ _ => s.drainOwns b lanes own off size
      | _ => s
    let (s, r) := s.loadFrom b l q lanes va size tg
    (s, .ok r.bytes)

/-- Make a store of located bytes at once. -/
def State.putNow (s : State) (b l q : Nat) (lanes : BitVec 64) (own : Option Nat) (va : DWord) (bs : List Byte) (tg : Target) : State :=
  match tg with
  | .mem off ver dev =>
    let z := s.spot b lanes q dev off bs.length ver
    let s := s.drainOwns b lanes own off bs.length
    let (s, mix) := s.memStore z l tg va
    let (s, bs) := s.leaving b q va bs false
    (s.outsideWrite ver off (mixBytes s.ticks l mix bs)).noteStore z l
  | .device pa =>
    let (s, bs) := (s.drainThread b l).leaving b q va bs false
    s.windowStore pa bs
  | _ => s.storeTo b l q lanes va bs tg

/-- Store bytes at once in the name of a lane, for the lanes whose access it is. -/
def State.storeNow (s : State) (b l q : Nat) (lanes : BitVec 64) (own : Option Nat) (va : DWord) (bs : List Byte) (k : Access) :
    State × Now :=
  match s.locate b l va bs.length q k with
  | (s, .trap i) => (s, .trap i)
  | (s, .unreachable) => (s, .lost)
  | (s, .fill t w n pa) => (s, .wait (.fill t w n pa))
  | (s, tg) => (s.putNow b l q lanes own va bs tg, .ok [])

/-- A request that no link carries is a containment event of the team, or in a handler bundle of the open event's team (R403). -/
def State.linkLost (s : State) (b : Nat) (pc : DWord) : State :=
  match (s.bundle b).team.or (((s.bundle b).handler.bind (·.current)).bind (·.team)) with
  | some t => s.killTeam t causeUncorrectable false none pc
  | none => s

/-! ### Lane memory words -/

/-- Locate the accesses of lanes in turn. -/
def State.locateAll (s : State) (b : Nat) (addr : Nat → DWord) (size q : Nat) (k : Access) : List Nat → State × List (Nat × Target)
  | [] => (s, [])
  | l :: ls =>
    let (s, t) := s.locate b l (addr l) size q k
    let (s, ts) := s.locateAll b addr size q k ls
    (s, (l, t) :: ts)

/-- What one lane's access does: the state, the lane's fate, the request its data waits for, and the load that may still take another
value (R158). -/
structure LaneAct where
  s : State
  fate : Fate
  link : Option Sent
  load : Option LateLoad

/-- The target of an access as it stands when its lane acts: an earlier lane's access may have published the team's version early (R311),
or have recalled the line (R241), which is then located and filled again. -/
def State.revisit (s : State) (b l : Nat) (va : DWord) (size q : Nat) (k : Access) : Target → State × Target
  | .mem off ver dev => (s, .mem off (s.verNow ver) dev)
  | .line t w n off =>
    if (((s.team t).window w).bind (fun x => x.line n)).isSome then (s, .line t w n off)
    else match s.locate b l va size q k with
      | (s, .fill t w n home) => (s.fillNow t w n home, .line t w n off)
      | r => r
  | tg => (s, tg)

/-- Let the lanes make their accesses in ascending order (an order that R167 and R169 leave open). -/
def actAll (again : State → Nat → Target → State × Target) (act : State → Nat → Target → LaneAct) :
    State → List (Nat × Target) → State × List (Nat × LaneAct)
  | s, [] => (s, [])
  | s, (l, t) :: ts =>
    match again s l t with
    | (s, .trap i) =>
      let (s', rs) := actAll again act s ts
      (s', (l, ⟨s, .trap i, none, none⟩) :: rs)
    | (s, t) =>
      let r := act s l t
      let (s', rs) := actAll again act r.s ts
      (s', (l, r) :: rs)

/-- A trap names the address register of its word (R372). -/
def Fate.named (r : BitVec 8) : Fate → Fate
  | .trap i => .trap { i with reg := r }
  | f => f

/-- A lane memory word (R165 to R170), whose first source is its address pair: every active lane that passes its checks is located; the word cannot issue while a
line is filled (R239); the lanes that do not fault make their accesses. -/
def State.laneMem (s : State) (o : LaneOp) (long : Bool) (addr : Nat → DWord) (size q : Nat) (k : Access)
    (act : State → Nat → Target → LaneAct) : State :=
  let b := s.cur.bundle
  let pre := s.laneFate o (fun _ => .stay .ready)
  let (s, ts) := s.locateAll b addr size q k (s.issued.filter (fun l => pre l == .stay .ready))
  if ts.any (fun t => t.2.isUnreachable) then s.linkLost b s.cur.trapPc
  else if ts.any (fun t => t.2.isFill) then (ts.foldl (fun s t => s.beginFill t.2) s).stall
  else
    let (s, rs) := actAll (fun s l t => s.revisit b l (addr l) size q k t) act s ts
    let fate (l : Nat) : Fate := match lookupKey l rs with
      | some r => r.fate.named (regField false ((o.src.head?.map (·.reg)).getD 0))
      | none => pre l
    s.meetAll long (rs.filterMap (fun r => r.2.link)) (rs.filterMap (fun r => r.2.load)) fate

/-- Every lane's access address of a word with a pair and a scaled offset (R148). -/
def State.laneAddr (s : State) (a : BitVec 6) (off : BitVec 8) (scale : Nat) (l : Nat) : DWord :=
  s.pairV l a.toNat + (off.signExtend 64) * BitVec.ofNat 64 scale

/-- The address of a uniform memory word (R168). -/
def State.uniAddr (s : State) (a : BitVec 6) (off : BitVec 8) (scale : Nat) : DWord :=
  s.pairS a.toNat + (off.signExtend 64) * BitVec.ofNat 64 scale

/-! ### Fences (R159, R162, R172) -/

/-- A fence of one thread: it waits for the thread's outstanding stores of the streams that it orders earlier, and, at
PARTITION scope or wider, for the write-back of the team's dirty lines (R240). The thread's loads in those streams have their values,
and the stores of others that it has seen are performed (R159). -/
def State.fenceThread (s : State) (b l : Nat) (f : FenceMark) : State :=
  let s := match (s.bundle b).team with
    | some t => if f.wide then s.writeBackTeam t else s
    | none => s
  let s := (s.performSeen b (fun _ => true)).bindLoads b l (fun y => f.early.getLsbD y.stream)
  let s := if f.loads then s.acquireIn b l f.early f.late else s
  let w := s.bundleWriting b
  (s.modThread b l (fun t => { t with out := settleFences w 0 (t.out ++ [.fence f]) })).releaseTouches b l f.early f.late

/-- A full fence that is over at once: the lanes' accesses are performed and the team's lines are written back. Words that
contain a fence use it (R173 for `xfence` does not). -/
def State.fenceNow (s : State) (b : Nat) (ls : List Nat) (wide : Bool) : State :=
  let s := ls.foldl (fun s l => s.acquireThread b l 0xFFFF) (s.drainLanes b ls)
  match (s.bundle b).team with
  | some t => if wide then s.cleanTeam t else s
  | none => s

/-- A word of a thread on a stream is held by a fence (R152): a store by any, a load by a full one. -/
def Thread.held (t : Thread) (q : BitVec 4) (store : Bool) : Bool :=
  t.out.any (fun p => match p with
    | .fence f => f.late.getLsbD q.toNat && (f.loads || store)
    | .store _ => false)

/-- The word is one that the frame engine may make store for every thread of the bundle (R100, R112). -/
def storesForAll : Instr → Bool
  | .rshrink _ => true
  | _ => false

/-- The word is a memory word that a fence of a thread for which it accesses memory holds back (R152, R172). -/
def State.fenceHolds (s : State) (i : Instr) : Bool :=
  match (wordInfo i).mem with
  | some (q, store) =>
    (if storesForAll i then indices s.curB.threads else s.issued).any (fun l => (s.curB.thread l).held q store)
  | none => false

end Sys2Proof.Machine
end

