-- ==== Sys2Proof/Machine/Operands.lean ====
section
/-! DEFINITION. The operand forms of lane and uniform words: a register, a pair, a group (R54, R113), as sources with the tags
they accept (R77) and as results with the tags they carry; and the shapes that the arithmetic words share. -/
namespace Sys2Proof.Machine

/-! ### Sources and results -/

/-- A source of one register, or a pair where the form is 64 bits wide. -/
def src (r : BitVec 6) (wide : Bool) (acc : Accept) : Use := ⟨r.toNat, if wide then 2 else 1, acc⟩

/-- A source of a group of registers. -/
def srcN (r : BitVec 6) (n : Nat) (acc : Accept) : Use := ⟨r.toNat, n, acc⟩

/-- A destination of one register, or a pair where the form is 64 bits wide. -/
def dst (r : BitVec 6) (wide : Bool) (t : Tag) : List (Nat × Tag) := dstRegs r.toNat (if wide then 2 else 1) t

/-- A 32-bit result. -/
def put (r : BitVec 6) (v : Word) (t : Tag) : List (Nat × Reg) := [(r.toNat, ⟨v, t⟩)]

/-- A 64-bit result in a pair, both halves with the tag. -/
def put2 (r : BitVec 6) (v : DWord) (t : Tag) : List (Nat × Reg) :=
  [(r.toNat, ⟨v.setWidth 32, t⟩), (r.toNat + 1, ⟨(v >>> 32).setWidth 32, t⟩)]

/-- Results in consecutive registers. -/
def putN (r : Nat) (vs : List Reg) : List (Nat × Reg) := vs.mapIdx (fun i v => (r + i, v))

/-- A lane's register at the word at issue. -/
def State.v (s : State) (l : Nat) (r : BitVec 6) : Reg := s.readV s.cur.bundle l r.toNat

/-- A lane's 32-bit operand. -/
def State.v32 (s : State) (l : Nat) (r : BitVec 6) : Word := (s.v l r).val

/-- A lane's 64-bit operand. -/
def State.v64 (s : State) (l : Nat) (r : BitVec 6) : DWord := s.pairV l r.toNat

/-- A register of a lane's group. -/
def State.vAt (s : State) (l : Nat) (r : BitVec 6) (i : Nat) : Reg := s.readV s.cur.bundle l (r.toNat + i)

/-- A uniform register at the word at issue. -/
def State.u (s : State) (r : BitVec 6) : Reg := s.readS s.cur.bundle r.toNat

/-- A uniform 32-bit operand. -/
def State.u32 (s : State) (r : BitVec 6) : Word := (s.u r).val

/-- A uniform 64-bit operand. -/
def State.u64 (s : State) (r : BitVec 6) : DWord := s.pairS r.toNat

/-- The prefix's fourth operand as a register field (R31). -/
def State.regC (s : State) : BitVec 6 := (s.cur.pfx.map Pfx.c).getD 0

/-! ### Shapes of lane words -/

/-- A value of a 32-bit or a 64-bit form, with flags. -/
structure Out where
  lo : Word
  hi : Word
  fl : BitVec 6
  deriving DecidableEq, Repr

/-- A 32-bit value. -/
def out32 (v : Word) (fl : BitVec 6 := 0) : Out := ⟨v, 0, fl⟩

/-- A 64-bit value. -/
def out64 (v : DWord) (fl : BitVec 6 := 0) : Out := ⟨v.setWidth 32, (v >>> 32).setWidth 32, fl⟩

/-- The register writes of a value. -/
def Out.writes (o : Out) (d : BitVec 6) (wide : Bool) (t : Tag) : List (Nat × Reg) :=
  if wide then [(d.toNat, ⟨o.lo, t⟩), (d.toNat + 1, ⟨o.hi, t⟩)] else [(d.toNat, ⟨o.lo, t⟩)]

/-- A lane word of two sources and one result of the same width (R113). -/
def State.lane2 (s : State) (d a b : BitVec 6) (wide : Bool) (acc : Accept) (t : Tag) (long : Bool)
    (f : Nat → Out) : State :=
  s.laneWord ⟨[src a wide acc, src b wide acc], dst d wide t⟩ long (fun l => ((f l).writes d wide t, (f l).fl))

/-- A lane word of one source and one result of the same width (R113). -/
def State.lane1 (s : State) (d a : BitVec 6) (wide : Bool) (acc : Accept) (t : Tag) (long : Bool) (f : Nat → Out) : State :=
  s.laneWord ⟨[src a wide acc], dst d wide t⟩ long (fun l => ((f l).writes d wide t, (f l).fl))

/-- A lane word of three sources, the third named by the prefix, and one result of the same width. -/
def State.lane3 (s : State) (d a b : BitVec 6) (wide : Bool) (acc : Accept) (t : Tag) (f : Nat → Out) : State :=
  s.laneWord ⟨[src a wide acc, src b wide acc, src s.regC wide acc], dst d wide t⟩ false
    (fun l => ((f l).writes d wide t, (f l).fl))

/-- A uniform word of two sources and one result of the same width (R114, R145). -/
def State.uni2 (s : State) (d a b : BitVec 6) (wide : Bool) (acc : Accept) (t : Tag) (o : Out) : State :=
  s.uniWrites [src a wide acc, src b wide acc] (o.writes d wide t)

/-- A uniform word of one source and one result of the same width. -/
def State.uni1 (s : State) (d a : BitVec 6) (wide : Bool) (acc : Accept) (t : Tag) (o : Out) : State :=
  s.uniWrites [src a wide acc] (o.writes d wide t)

end Sys2Proof.Machine
end

