-- ==== Sys2Proof/Machine/Integer.lean ====
section
/-! DEFINITION. The integer instructions on lanes: R115 to R128, and the tag words R143, R144. -/
namespace Sys2Proof.Machine

/-! ### Computations, shared with the uniform words (R145) -/

/-- An exact value delivered in 32 bits: modulo 2^32, or clamped to the signed range (R115). -/
def deliver32 (sat : Bool) (x : Int) : Out :=
  if sat then
    if x < -(2 ^ 31) then out32 0x80000000 flagSAT
    else if x > 2 ^ 31 - 1 then out32 0x7FFFFFFF flagSAT
    else out32 (BitVec.ofInt 32 x)
  else out32 (BitVec.ofInt 32 x)

/-- An exact value delivered in 64 bits (R115). -/
def deliver64 (sat : Bool) (x : Int) : Out :=
  if sat then
    if x < -(2 ^ 63) then out64 0x8000000000000000 flagSAT
    else if x > 2 ^ 63 - 1 then out64 0x7FFFFFFFFFFFFFFF flagSAT
    else out64 (BitVec.ofInt 64 x)
  else out64 (BitVec.ofInt 64 x)

/-- mulh (R117). -/
def mulHigh (unsigned : Bool) (a b : Word) : Word :=
  let p : Int := if unsigned then (a.toNat : Int) * b.toNat else a.toInt * b.toInt
  BitVec.ofInt 32 (p / 2 ^ 32)

/-- Division (R119): quotient, remainder, flags. -/
def divide (unsigned : Bool) (a b : Word) : Word × Word × BitVec 6 :=
  if b == 0 then (0xFFFFFFFF, a, flagDZ)
  else if unsigned then (a.udiv b, a.umod b, 0)
  else if a == 0x80000000 && b == 0xFFFFFFFF then (0x80000000, 0, 0)
  else
    let q := a.toInt.tdiv b.toInt
    (BitVec.ofInt 32 q, BitVec.ofInt 32 (a.toInt - q * b.toInt), 0)

/-- min and max of 32-bit values (R120): fn 0 min.i32, 1 max.i32, 2 min.n32, 3 max.n32. -/
def minMax32 (fn : Nat) (a b : Word) : Word :=
  match fn with
  | 0 => if a.slt b then a else b
  | 1 => if a.slt b then b else a
  | 2 => if a.ult b then a else b
  | _ => if a.ult b then b else a

/-- min and max of signed 64-bit values (R120). -/
def minMax64 (isMax : Bool) (a b : DWord) : DWord := if a.slt b == isMax then b else a

/-- logic (R121). -/
def logicOp (fn : Nat) (a b : Word) : Word :=
  match fn with
  | 0 => a &&& b
  | 1 => a ||| b
  | 2 => a ^^^ b
  | 3 => a &&& ~~~b
  | 4 => a ||| ~~~b
  | 5 => ~~~(a ^^^ b)
  | _ => ~~~a

/-- Shifts of a 32-bit value (R122): fn 0 shl, 1 shr, 2 sar, 3 rotl. -/
def shift32 (fn : Nat) (a : Word) (n : Nat) : Word :=
  match fn with
  | 0 => if n ≥ 32 then 0 else a <<< n
  | 1 => if n ≥ 32 then 0 else a >>> n
  | 2 => a.sshiftRight (min n 31)
  | _ => a.rotateLeft (n % 32)

/-- Shifts of a 64-bit value (R122): fn 4 shl.b64, 5 shr.b64, 6 sar.b64. -/
def shift64 (fn : Nat) (a : DWord) (n : Nat) : DWord :=
  match fn with
  | 4 => if n ≥ 64 then 0 else a <<< n
  | 5 => if n ≥ 64 then 0 else a >>> n
  | _ => a.sshiftRight (min n 63)

/-- The number of set bits among the bits below `n`. -/
def popCount {w : Nat} (a : BitVec w) : Nat → Nat
  | 0 => 0
  | n + 1 => (if a.getLsbD n then 1 else 0) + popCount a n

/-- The lowest set bit from `i` up among `n` bits; `i + n` when none is set. -/
def lowestSet {w : Nat} (a : BitVec w) : Nat → Nat → Nat
  | 0, i => i
  | n + 1, i => if a.getLsbD i then i else lowestSet a n (i + 1)

/-- The number of zero bits above the highest set bit among the bits below `n`. -/
def leadingZeros {w : Nat} (a : BitVec w) : Nat → Nat
  | 0 => 0
  | n + 1 => if a.getLsbD n then 0 else 1 + leadingZeros a n

/-- The bits of a word in reverse. -/
def reverseBits (a : Word) : Word :=
  (List.range 32).foldl (fun m i => if a.getLsbD i then m ||| (1#32 <<< (31 - i)) else m) 0

/-- bits (R123): fn 0 popc, 1 clz, 2 brev, 3 ctz. -/
def bitsOp (fn : Nat) (a : Word) : Word :=
  match fn with
  | 0 => BitVec.ofNat 32 (popCount a 32)
  | 1 => BitVec.ofNat 32 (leadingZeros a 32)
  | 2 => reverseBits a
  | _ => BitVec.ofNat 32 (lowestSet a 32 0)

/-- The position and the width of a bit field, cut at bit 31 (R124). -/
def fieldOf (ctl : Word) : Nat × Nat :=
  let pos := (ctl.extractLsb' 0 5).toNat
  (pos, min (ctl.extractLsb' 5 5).toNat (32 - pos))

/-- bfx (R124). -/
def extractField (unsigned : Bool) (a ctl : Word) : Word :=
  let p := fieldOf ctl
  let f := bitsAt a.toNat p.1 p.2
  if p.2 = 0 then 0
  else if unsigned || f < 2 ^ (p.2 - 1) then BitVec.ofNat 32 f
  else BitVec.ofInt 32 ((f : Int) - 2 ^ p.2)

/-- bfi (R124). -/
def insertField (a b ctl : Word) : Word :=
  let p := fieldOf ctl
  let mask : Word := BitVec.ofNat 32 ((2 ^ p.2 - 1) * 2 ^ p.1)
  (a &&& ~~~mask) ||| ((b <<< p.1) &&& mask)

/-- A condition of cmp on the order of two values (R125): eq, ne, lt, le, gt, ge. -/
def condition (c : Nat) (lt eq : Bool) : Bool :=
  match c with
  | 0 => eq
  | 1 => !eq
  | 2 => lt
  | 3 => lt || eq
  | 4 => !(lt || eq)
  | _ => !lt

/-- An integer comparison of type 0 .i32, 1 .n32, 2 .i64, 3 .n64 (R125). -/
def compareInt (c t : Nat) (a32 b32 : Word) (a64 b64 : DWord) : Bool :=
  match t with
  | 0 => condition c (a32.slt b32) (a32 == b32)
  | 1 => condition c (a32.ult b32) (a32 == b32)
  | 2 => condition c (a64.slt b64) (a64 == b64)
  | _ => condition c (a64.ult b64) (a64 == b64)

/-- A sign-extended immediate of 12 bits. -/
def imm12 (i : BitVec 12) : Word := i.signExtend 32

/-- lih and ulih (R128, R147). -/
def highImm (old : Word) (i : BitVec 18) : Word := (i.setWidth 32 <<< 14) ||| (old &&& 0x3FFF)

/-! ### The meanings -/

/-- ADD (R116). -/
def execAdd (d a b : BitVec 6) (f : BitVec 3) (h : BitVec 2) (s : State) : Host.Outcome State Fault Refusal :=
  s.word (.add d a b f h) (fun s =>
    if f == 1 then s.lane2 d a b true .int .w64 false (fun l => deliver64 s.saturating ((s.v64 l a).toInt + (s.v64 l b).toInt))
    else s.lane2 d a b false .int .int false (fun l => deliver32 s.saturating ((s.v32 l a).toInt + (s.v32 l b).toInt)))

/-- SUB (R116). -/
def execSub (d a b : BitVec 6) (f : BitVec 3) (h : BitVec 2) (s : State) : Host.Outcome State Fault Refusal :=
  s.word (.sub d a b f h) (fun s =>
    if f == 1 then s.lane2 d a b true .int .w64 false (fun l => deliver64 s.saturating ((s.v64 l a).toInt - (s.v64 l b).toInt))
    else s.lane2 d a b false .int .int false (fun l => deliver32 s.saturating ((s.v32 l a).toInt - (s.v32 l b).toInt)))

/-- ADDI (R116). -/
def execAddi (d a : BitVec 6) (i : BitVec 12) (s : State) : Host.Outcome State Fault Refusal :=
  s.word (.addi d a i) (fun s =>
    s.lane1 d a false .int .int false (fun l => deliver32 s.saturating ((s.v32 l a).toInt + (imm12 i).toInt)))

/-- MUL (R117): f 0 .b32, 1 .b64. -/
def execMul (d a b : BitVec 6) (f : BitVec 1) (h : BitVec 2) (s : State) : Host.Outcome State Fault Refusal :=
  s.word (.mul d a b f h) (fun s =>
    if f == 1 then s.lane2 d a b true .int .w64 false (fun l => out64 (s.v64 l a * s.v64 l b))
    else s.lane2 d a b false .int .int false (fun l => out32 (s.v32 l a * s.v32 l b)))

/-- MULH (R117): f 0 .i32, 1 .n32. -/
def execMulh (d a b : BitVec 6) (f : BitVec 1) (h : BitVec 2) (s : State) : Host.Outcome State Fault Refusal :=
  s.word (.mulh d a b f h) (fun s =>
    s.lane2 d a b false .int .int false (fun l => out32 (mulHigh (f == 1) (s.v32 l a) (s.v32 l b))))

/-- MAD (R118). -/
def execMad (d a b : BitVec 6) (f : BitVec 3) (h : BitVec 2) (s : State) : Host.Outcome State Fault Refusal :=
  s.word (.mad d a b f h) (fun s =>
    let c := s.regC
    if f == 1 then s.lane3 d a b true .int .w64
      (fun l => deliver64 s.saturating ((s.v64 l a).toInt * (s.v64 l b).toInt + (s.v64 l c).toInt))
    else s.lane3 d a b false .int .int
      (fun l => deliver32 s.saturating ((s.v32 l a).toInt * (s.v32 l b).toInt + (s.v32 l c).toInt)))

/-- DIV (R119): f 0 .i32, 1 .n32. -/
def execDiv (d a b : BitVec 6) (f : BitVec 1) (h : BitVec 2) (s : State) : Host.Outcome State Fault Refusal :=
  s.word (.div d a b f h) (fun s =>
    s.lane2 d a b false .int .int true (fun l =>
      let r := divide (f == 1) (s.v32 l a) (s.v32 l b)
      out32 r.1 r.2.2))

/-- REM (R119): f 0 .i32, 1 .n32. -/
def execRem (d a b : BitVec 6) (f : BitVec 1) (h : BitVec 2) (s : State) : Host.Outcome State Fault Refusal :=
  s.word (.rem d a b f h) (fun s =>
    s.lane2 d a b false .int .int true (fun l =>
      let r := divide (f == 1) (s.v32 l a) (s.v32 l b)
      out32 r.2.1 r.2.2))

/-- MINMAX (R120). -/
def execMinmax (d a b : BitVec 6) (f : BitVec 3) (h : BitVec 2) (s : State) : Host.Outcome State Fault Refusal :=
  s.word (.minmax d a b f h) (fun s =>
    if f ≥ 4 then s.lane2 d a b true .int .w64 false (fun l => out64 (minMax64 (f == 5) (s.v64 l a) (s.v64 l b)))
    else s.lane2 d a b false .int .int false (fun l => out32 (minMax32 f.toNat (s.v32 l a) (s.v32 l b))))

/-- ABSNEG (R120): f 0 abs.i32, 1 neg.i32, 2 abs.i64, 3 neg.i64. -/
def execAbsneg (d a : BitVec 6) (f : BitVec 3) (h : BitVec 1) (s : State) : Host.Outcome State Fault Refusal :=
  s.word (.absneg d a f h) (fun s =>
    if f ≥ 2 then s.lane1 d a true .int .w64 false (fun l =>
      let x := s.v64 l a
      out64 (if f == 3 || x.msb then -x else x))
    else s.lane1 d a false .int .int false (fun l =>
      let x := s.v32 l a
      out32 (if f == 1 || x.msb then -x else x)))

/-- LOGIC (R121); b is unused for `not`. -/
def execLogic (d a b : BitVec 6) (f : BitVec 3) (h : BitVec 2) (s : State) : Host.Outcome State Fault Refusal :=
  s.word (.logic d a b f h) (fun s =>
    if f == 6 then s.lane1 d a false .any .raw false (fun l => out32 (~~~(s.v32 l a)))
    else s.lane2 d a b false .any .raw false (fun l => out32 (logicOp f.toNat (s.v32 l a) (s.v32 l b))))

/-- SHIFT (R122): the count is one register in every form. -/
def execShift (d a b : BitVec 6) (f : BitVec 3) (h : BitVec 2) (s : State) : Host.Outcome State Fault Refusal :=
  s.word (.shift d a b f h) (fun s =>
    let wide := f ≥ 4
    s.laneWord ⟨[src a wide .any, src b false .any], dst d wide .raw⟩ false (fun l =>
      let n := (s.v32 l b).toNat
      let o := if wide then out64 (shift64 f.toNat (s.v64 l a) n) else out32 (shift32 f.toNat (s.v32 l a) n)
      (o.writes d wide .raw, 0)))

/-- BITS (R123). -/
def execBits (d a : BitVec 6) (f : BitVec 3) (h : BitVec 1) (s : State) : Host.Outcome State Fault Refusal :=
  s.word (.bits d a f h) (fun s => s.lane1 d a false .any .raw false (fun l => out32 (bitsOp f.toNat (s.v32 l a))))

/-- BFX (R124): f 0 signed, 1 unsigned. -/
def execBfx (d a b : BitVec 6) (f : BitVec 3) (h : BitVec 2) (s : State) : Host.Outcome State Fault Refusal :=
  s.word (.bfx d a b f h) (fun s =>
    s.lane2 d a b false .any .raw false (fun l => out32 (extractField (f == 1) (s.v32 l a) (s.v32 l b))))

/-- BFI (R124): the control register is the prefix's c. -/
def execBfi (d a b : BitVec 6) (h : BitVec 2) (s : State) : Host.Outcome State Fault Refusal :=
  s.word (.bfi d a b h) (fun s =>
    s.lane3 d a b false .any .raw (fun l => out32 (insertField (s.v32 l a) (s.v32 l b) (s.v32 l s.regC))))

/-- SEL (R126): the mask of the prefix selects; every issued lane is active. -/
def execSel (d a b : BitVec 6) (f : BitVec 3) (h : BitVec 2) (s : State) : Host.Outcome State Fault Refusal :=
  s.word (.sel d a b f h) (fun s =>
    let wide := f == 1
    let mask := s.activeMask
    let zero := s.zeroing
    -- the check and the effect see every issued lane as active
    let all : State := { s with cur := { s.cur with pfx := none } }
    let r := all.laneWord ⟨[src a wide .any, src b wide .any], dst d wide .raw⟩ false (fun l =>
      let pick (i : Nat) : Reg :=
        if mask.getLsbD l then (s.vAt l a i).moved
        else if zero then ⟨0, (s.vAt l b i).tag.moved⟩
        else (s.vAt l b i).moved
      (putN d.toNat ((List.range (if wide then 2 else 1)).map pick), 0))
    { r with cur := s.cur })

/-- MOV (R127). -/
def execMov (d a : BitVec 6) (f : BitVec 1) (h : BitVec 1) (s : State) : Host.Outcome State Fault Refusal :=
  s.word (.mov d a f h) (fun s =>
    let wide := f == 1
    s.laneWord ⟨[src a wide .any], dst d wide .raw⟩ false (fun l =>
      (putN d.toNat ((List.range (if wide then 2 else 1)).map (fun i => (s.vAt l a i).moved)), 0)))

/-- MOVS (R111): a uniform register to every active lane. -/
def execMovs (d a : BitVec 6) (h : BitVec 1) (s : State) : Host.Outcome State Fault Refusal :=
  s.word (.movs d a h) (fun s =>
    s.meetAll false [] [] (s.laneFate ⟨[], dst d false .raw⟩ (fun _ =>
      match s.uniTrap [src a false .any] with
      | some i => .trap i
      | none => .done (putN d.toNat [(s.u a).moved]) 0)))

/-- LI (R128). -/
def execLi (d : BitVec 6) (i : BitVec 18) (s : State) : Host.Outcome State Fault Refusal :=
  s.word (.li d i) (fun s => s.laneWord ⟨[], dst d false .int⟩ false (fun _ => (put d (i.signExtend 32) .int, 0)))

/-- LIH (R128): d is read. -/
def execLih (d : BitVec 6) (i : BitVec 18) (s : State) : Host.Outcome State Fault Refusal :=
  s.word (.lih d i) (fun s => s.lane1 d d false .any .int false (fun l => out32 (highImm (s.v32 l d) i)))

/-- TAGSET (R143). -/
def execTagset (d a : BitVec 6) (t : BitVec 4) (s : State) : Host.Outcome State Fault Refusal :=
  s.word (.tagset d a t) (fun s =>
    s.lane1 d a false .any (Tag.ofCode t.toNat) false (fun l => out32 (s.v32 l a)))

/-- TAGGET (R144). -/
def execTagget (d a : BitVec 6) (h : BitVec 1) (s : State) : Host.Outcome State Fault Refusal :=
  s.word (.tagget d a h) (fun s =>
    s.lane1 d a false .unchecked .int false (fun l => out32 ((s.v l a).tag.code.setWidth 32)))

end Sys2Proof.Machine
end

