-- ==== Sys2Proof/Machine/Transc.lean ====
section
/-! DEFINITION. The correctly rounded functions of R70 on binary32, and ExpDiff (R140). Each transcendental value is computed
in fixed point far beyond the place where its one rounding is decided; that the working precision suffices is
assumption 8. -/
namespace Sys2Proof.Machine

/-! ### 2^x -/

/-- 2^(0.b) for a fraction of `n` bits, in fixed point of 192 bits: r(k) = √(2^b(k) × r(k+1)), from the lowest bit up. -/
def pow2Frac : Nat → Nat → Nat → Nat
  | 0, _, r => r
  | n + 1, b, r => pow2Frac n (b / 2) (isqrt ((if b % 2 = 1 then 2 * r else r) * 2 ^ 192))

/-- 2^x for a value x = (−1)^n × m × 2^e that is no NaN (R70). Beyond ±2^11 every result overflows or underflows, as at the
bound. -/
def ex2Val (n : Bool) (m : Nat) (e : Int) : Exact :=
  if m = 0 then .val false 1 0
  else if (bitLen m : Int) + e > 11 then (if n then .val false 1 (-2100) else .val false 1 2100)
  else
    let k : Nat := (-e).toNat
    let fixed : Int := signedInt n (if e ≥ 0 then m * 2 ^ e.toNat else m)
    let whole := fixed / 2 ^ k
    let part := (fixed % 2 ^ k).toNat
    if part = 0 then .val false 1 whole
    else
      let p := sticky (pow2Frac k part (2 ^ 192)) true (whole - 192)
      .val false p.1 p.2

/-- Ex2CR (R70). -/
def fEx2 (a : FVal) : Exact :=
  match a with
  | .nan s => .nan s
  | .inf n => if n then .val false 0 0 else .inf false
  | .num n m e => ex2Val n m e

/-! ### log2 x -/

/-- The bits of log2 y below the point, for y from 1 to 2 in fixed point of 200 bits: the square of y is 2 or more where the
next bit is 1. -/
def log2Frac : Nat → Nat → Nat → Nat
  | 0, _, acc => acc
  | n + 1, y, acc =>
    let y2 := y * y / 2 ^ 200
    if y2 ≥ 2 ^ 201 then log2Frac n (y2 / 2) (2 * acc + 1) else log2Frac n y2 (2 * acc)

/-- Lg2CR (R70), with DZ for a zero. -/
def fLg2 (a : FVal) : Exact × BitVec 6 :=
  match a with
  | .nan s => (.nan s, 0)
  | .inf n => if n then (.nan true, 0) else (.inf false, 0)
  | .num n m e =>
    if m = 0 then (.inf true, flagDZ) else if n then (.nan true, 0) else
    let whole : Int := e + m.log2
    if isPow2 m then (intExact whole, 0)
    else
      -- the value lies strictly between fixed and fixed + 1, in units of 2^(−160)
      let fixed : Int := whole * 2 ^ 160 + log2Frac 160 (m * 2 ^ (200 - m.log2)) 0
      -- twice the interval's middle: its sign is the value's, and its magnitude rounds as the value does
      let mid := 2 * fixed + 1
      (.val (mid < 0) mid.natAbs (-161), 0)

/-! ### sin 2πx and cos 2πx -/

/-- π in fixed point of 320 bits, rounded down. -/
def piFixed : Nat := 0x3243F6A8885A308D313198A2E03707344A4093822299F31D0082EFA98EC4E6C89452821E638D01377

/-- The terms of the sine or cosine series at t, in fixed point of 320 bits: `term` is the last term, `k` its power. -/
def trigSeries : Nat → Int → Int → Int → Nat → Int
  | 0, _, _, acc, _ => acc
  | n + 1, t2, term, acc, k =>
    let next := -(term * t2 / 2 ^ 320) / ((k + 1) * (k + 2) : Nat)
    trigSeries n t2 next (acc + next) (k + 2)

/-- sin t for t from 0 to π/4, in fixed point of 320 bits. -/
def sinFixed (t : Nat) : Int := trigSeries 60 ((t * t / 2 ^ 320 : Nat) : Int) t t 1

/-- cos t for t from 0 to π/4, in fixed point of 320 bits. -/
def cosFixed (t : Nat) : Int := trigSeries 60 ((t * t / 2 ^ 320 : Nat) : Int) (2 ^ 320) (2 ^ 320) 0

/-- sin 2πr for r = part ÷ 2^k from 0 to 1 with `neg` inverting the sign: an exact value at the multiples of 1/4. The sign
of a zero is the caller's. -/
def sinTurn (neg : Bool) (part k : Nat) : Exact :=
  let n := 2 ^ k
  let low := 2 * part ≥ n
  let h := if low then part - n / 2 else part
  let neg' := neg != low
  -- h ÷ n lies from 0 to 1/2; the quarter folds at 1/4
  let g := if 4 * h > n then n / 2 - h else h
  if g = 0 then .val neg' 0 0
  else if 4 * g = n then .val neg' 1 0
  else
    let v := if 8 * g ≤ n then sinFixed (2 * piFixed * g / n) else cosFixed (2 * piFixed * (n - 4 * g) / (4 * n))
    let p := sticky v.toNat true (-320)
    .val neg' p.1 p.2

/-- A finite value's magnitude modulo 1 as part ÷ 2^k, with k at least 4. -/
def turnPart (m : Nat) (e : Int) : Nat × Nat :=
  if e ≥ 0 then (0, 4)
  else
    let k := (-e).toNat
    if k < 4 then ((m % 2 ^ k) * 2 ^ (4 - k), 4) else (m % 2 ^ k, k)

/-- Sin2pCR (R70): a zero takes the sign of x. -/
def fSin2p (a : FVal) : Exact :=
  match a with
  | .nan s => .nan s
  | .inf _ => .nan true
  | .num n m e =>
    let p := turnPart m e
    match sinTurn n p.1 p.2 with
    | .val s k x => .val (if k = 0 then n else s) k x
    | y => y

/-- Cos2pCR (R70): cos 2πx is sin 2π(|x| + 1/4), and a zero is +0. -/
def fCos2p (a : FVal) : Exact :=
  match a with
  | .nan s => .nan s
  | .inf _ => .nan true
  | .num _ m e =>
    let p := turnPart m e
    match sinTurn false ((p.1 + 2 ^ p.2 / 4) % 2 ^ p.2) p.2 with
    | .val s k x => .val (if k = 0 then false else s) k x
    | y => y

/-- 1/a (R70). -/
def fRcp (a : FVal) : Exact × BitVec 6 := fDiv (.num false 1 0) a

/-- ExpDiff (R140) on binary32 encodings, rounding by RNE. -/
def expDiff (x y : Nat) : FRes :=
  if fmtF32.unpack x == .inf true then ⟨0, 0⟩
  else
    let d := fmtF32.round .rne false (fAdd .rne (fmtF32.unpack x) (fmtF32.unpack y).neg)
    let r := fmtF32.round .rne false (fEx2 (fmtF32.unpack d.bits))
    ⟨r.bits, d.fl ||| r.fl⟩

end Sys2Proof.Machine
end

