-- ==== Sys2Proof/Machine/FloatLane.lean ====
section
/-! DEFINITION. The floating-point, conversion, LG6 and softmax instructions on lanes (R129 to R142), and `cmp` (R125). -/
namespace Sys2Proof.Machine

/-! ### Elements of a form: 0 .f32, 1 .f64, 2 .bf16x2, 3 .f16x2 (R129) -/

/-- The format of a form's elements. -/
def formFmt (f : BitVec 3) : FFmt := if f == 0 then fmtF32 else if f == 1 then fmtF64 else if f == 2 then fmtBF16 else fmtF16

/-- The tag that a form accepts (R77). -/
def formAcc (f : BitVec 3) : Accept := if f == 0 then .f32 else if f == 1 then .f64 else if f == 2 then .bf16 else .f16

/-- The tag of a form's result (R77). -/
def formTag (f : BitVec 3) : Tag := if f == 0 then .f32 else if f == 1 then .f64 else if f == 2 then .bf16x2 else .f16x2

/-- The elements of a lane's operand (R60). -/
def State.elems (s : State) (f : BitVec 3) (l : Nat) (r : BitVec 6) : List Nat :=
  if f == 0 then [(s.v32 l r).toNat]
  else if f == 1 then [(s.v64 l r).toNat]
  else [(s.v32 l r).toNat % 65536, (s.v32 l r).toNat / 65536]

/-- Elements packed into a result (R60). -/
def packElems (f : BitVec 3) (rs : List FRes) : Out :=
  let fl := rs.foldl (fun x r => x ||| r.fl) 0
  let v := rs.foldr (fun r acc => r.bits + 65536 * acc) 0
  if f == 1 then out64 (BitVec.ofNat 64 v) fl else out32 (BitVec.ofNat 32 v) fl

/-- The rounding mode of the word at issue (R31). -/
def State.mode (s : State) : Rounding := Rounding.ofBits s.rounding

/-- A float word of two sources, element by element (R129). -/
def State.float2 (s : State) (d a b : BitVec 6) (f : BitVec 3) (g : FVal → FVal → Exact) : State :=
  let fm := formFmt f
  s.lane2 d a b (f == 1) (formAcc f) (formTag f) false (fun l =>
    packElems f (((s.elems f l a).zip (s.elems f l b)).map (fun p => fm.round s.mode false (g (fm.unpack p.1) (fm.unpack p.2)))))

/-- FADD (R129). -/
def execFadd (d a b : BitVec 6) (f : BitVec 3) (h : BitVec 2) (s : State) : Host.Outcome State Fault Refusal :=
  s.word (.fadd d a b f h) (fun s => s.float2 d a b f (fun x y => fAdd s.mode x y))

/-- FSUB (R129). -/
def execFsub (d a b : BitVec 6) (f : BitVec 3) (h : BitVec 2) (s : State) : Host.Outcome State Fault Refusal :=
  s.word (.fsub d a b f h) (fun s => s.float2 d a b f (fun x y => fAdd s.mode x y.neg))

/-- FMUL (R129). -/
def execFmul (d a b : BitVec 6) (f : BitVec 3) (h : BitVec 2) (s : State) : Host.Outcome State Fault Refusal :=
  s.word (.fmul d a b f h) (fun s => s.float2 d a b f fMul)

/-- FMA (R130). -/
def execFma (d a b : BitVec 6) (f : BitVec 3) (h : BitVec 2) (s : State) : Host.Outcome State Fault Refusal :=
  s.word (.fma d a b f h) (fun s =>
    let fm := formFmt f
    s.lane3 d a b (f == 1) (formAcc f) (formTag f) (fun l =>
      packElems f (((s.elems f l a).zip ((s.elems f l b).zip (s.elems f l s.regC))).map (fun p =>
        fm.round s.mode false (fFma s.mode (fm.unpack p.1) (fm.unpack p.2.1) (fm.unpack p.2.2))))))

/-- FMINMAX (R131): f 0 fmin.f32, 1 fmax.f32, 2 fmin.f64, 3 fmax.f64, 4 fmin.bf16x2, 5 fmax.bf16x2. -/
def execFminmax (d a b : BitVec 6) (f : BitVec 3) (h : BitVec 2) (s : State) : Host.Outcome State Fault Refusal :=
  s.word (.fminmax d a b f h) (fun s =>
    let form : BitVec 3 := f >>> 1
    let fm := formFmt form
    s.lane2 d a b (form == 1) (formAcc form) (formTag form) false (fun l =>
      packElems form (((s.elems form l a).zip (s.elems form l b)).map (fun p => fm.minMax (f.getLsbD 0) p.1 p.2))))

/-- FABSNEG (R132): f 0 fabs.f32, 1 fneg.f32, 2 fabs.f64, 3 fneg.f64. -/
def execFabsneg (d a : BitVec 6) (f : BitVec 3) (h : BitVec 1) (s : State) : Host.Outcome State Fault Refusal :=
  s.word (.fabsneg d a f h) (fun s =>
    if f ≥ 2 then s.lane1 d a true .f64 .f64 false (fun l =>
      out64 (if f == 2 then s.v64 l a &&& 0x7FFFFFFFFFFFFFFF else s.v64 l a ^^^ 0x8000000000000000))
    else s.lane1 d a false .f32 .f32 false (fun l =>
      out32 (if f == 0 then s.v32 l a &&& 0x7FFFFFFF else s.v32 l a ^^^ 0x80000000)))

/-- FCLASS (R133): f 0 .f32, 1 .f64; d is one register. -/
def execFclass (d a : BitVec 6) (f : BitVec 3) (h : BitVec 1) (s : State) : Host.Outcome State Fault Refusal :=
  s.word (.fclass d a f h) (fun s =>
    s.laneWord ⟨[src a (f == 1) (formAcc f)], dst d false .int⟩ false (fun l =>
      (put d ((formFmt f).classify (if f == 1 then (s.v64 l a).toNat else (s.v32 l a).toNat)) .int, 0)))

/-- FRND (R134). -/
def execFrnd (d a : BitVec 6) (f : BitVec 3) (h : BitVec 1) (s : State) : Host.Outcome State Fault Refusal :=
  s.word (.frnd d a f h) (fun s =>
    s.lane1 d a (f == 1) (formAcc f) (formTag f) false (fun l =>
      packElems f ((s.elems f l a).map (fun x => (formFmt f).roundIntegral s.mode x))))

/-- FSCL (R135): b is one register. -/
def execFscl (d a b : BitVec 6) (f : BitVec 3) (h : BitVec 2) (s : State) : Host.Outcome State Fault Refusal :=
  s.word (.fscl d a b f h) (fun s =>
    let wide := f == 1
    s.laneWord ⟨[src a wide (formAcc f), src b false .int], dst d wide (formTag f)⟩ false (fun l =>
      let o := packElems f ((s.elems f l a).map (fun x => (formFmt f).scale s.mode x (s.v32 l b).toInt))
      (o.writes d wide (formTag f), o.fl)))

/-- An exact result with flags of its own, rounded. -/
def FFmt.deliver (f : FFmt) (mode : Rounding) (x : Exact × BitVec 6) : FRes :=
  let r := f.round mode false x.1
  ⟨r.bits, r.fl ||| x.2⟩

/-- FDIV (R136). -/
def execFdiv (d a b : BitVec 6) (f : BitVec 3) (h : BitVec 2) (s : State) : Host.Outcome State Fault Refusal :=
  s.word (.fdiv d a b f h) (fun s =>
    let fm := formFmt f
    s.lane2 d a b (f == 1) (formAcc f) (formTag f) true (fun l =>
      packElems f (((s.elems f l a).zip (s.elems f l b)).map (fun p => fm.deliver s.mode (fDiv (fm.unpack p.1) (fm.unpack p.2))))))

/-- The functions of sfu (R136): 0 rcp, 1 rsq, 2 sqrt, 3 ex2, 4 lg2, 5 sin2p, 6 cos2p. -/
def sfuOp (f : Nat) (x : FVal) : Exact × BitVec 6 :=
  match f with
  | 0 => fRcp x
  | 1 => fRsqrt x
  | 2 => (fSqrt x, 0)
  | 3 => (fEx2 x, 0)
  | 4 => fLg2 x
  | 5 => (fSin2p x, 0)
  | _ => (fCos2p x, 0)

/-- SFU (R136). -/
def execSfu (d a : BitVec 6) (f : BitVec 3) (h : BitVec 1) (s : State) : Host.Outcome State Fault Refusal :=
  s.word (.sfu d a f h) (fun s =>
    s.lane1 d a false .f32 .f32 true (fun l =>
      packElems 0 [fmtF32.deliver s.mode (sfuOp f.toNat (fmtF32.unpack (s.v32 l a).toNat))]))

/-- SFD (R136): 0 rcp, 1 sqrt, 2 rsq. -/
def execSfd (d a : BitVec 6) (f : BitVec 3) (h : BitVec 1) (s : State) : Host.Outcome State Fault Refusal :=
  s.word (.sfd d a f h) (fun s =>
    s.lane1 d a true .f64 .f64 true (fun l =>
      let x := fmtF64.unpack (s.v64 l a).toNat
      packElems 1 [fmtF64.deliver s.mode (if f == 0 then fRcp x else if f == 1 then (fSqrt x, 0) else fRsqrt x)]))

/-! ### cmp (R125) -/

/-- A float comparison: the condition and NV. -/
def compareFloat (c : Nat) (x y : FVal) : Bool × BitVec 6 :=
  let un := x.isNaN || y.isNaN
  let k := fCompare x y
  let fl := flagIf (x.isSNaN || y.isSNaN || (un && 2 ≤ c && c ≤ 5)) flagNV
  (match c with
    | 6 => un
    | 7 => !un
    | 1 => un || k != 0
    | _ => !un && condition c (k < 0) (k == 0), fl)

/-- The comparison of a lane: condition, type 0 .i32, 1 .n32, 2 .i64, 3 .n64, 4 .f32, 5 .f64. -/
def State.compareLane (s : State) (c t : Nat) (a b : BitVec 6) (l : Nat) : Bool × BitVec 6 :=
  match t with
  | 4 => compareFloat c (fmtF32.unpack (s.v32 l a).toNat) (fmtF32.unpack (s.v32 l b).toNat)
  | 5 => compareFloat c (fmtF64.unpack (s.v64 l a).toNat) (fmtF64.unpack (s.v64 l b).toNat)
  | _ => (compareInt c t (s.v32 l a) (s.v32 l b) (s.v64 l a) (s.v64 l b), 0)

/-- Write the bits of a mask register that belong to lanes of the issued set (R95): an active lane's result, and zero for an
inactive lane under zeroing; the bit of a lane that traps is left. -/
def State.laneMask (s : State) (m : Nat) (o : LaneOp) (f : Nat → Bool × BitVec 6) : State :=
  let fate := s.laneFate o (fun l => .done [] (f l).2)
  let v := s.issued.foldl (fun v l => match fate l with
    | .done _ _ => if s.isActive l then setBit v l (f l).1 else if s.zeroing then setBit v l false else v
    | _ => v) (s.readM m)
  (s.writeM m v).meetAll false [] [] fate

/-- CMP (R125). -/
def execCmp (m : BitVec 3) (c : BitVec 3) (a b : BitVec 6) (f : BitVec 3) (h : BitVec 2) (s : State) :
    Host.Outcome State Fault Refusal :=
  s.word (.cmp m c a b f h) (fun s =>
    let wide := f == 2 || f == 3 || f == 5
    let acc : Accept := if f == 4 then .f32 else if f == 5 then .f64 else .int
    s.laneMask m.toNat ⟨[src a wide acc, src b wide acc], []⟩ (s.compareLane c.toNat f.toNat a b))

/-! ### cvt (R137, R68, R69) -/

/-- The width of an integer format (R54). -/
def intWidth (c : BitVec 6) : Nat := if c ≤ 2 then 8 else if c ≤ 4 then 16 else if c ≤ 6 then 32 else 64

/-- The integer format is signed: the odd codes (R54). -/
def intSigned (c : BitVec 6) : Bool := c.getLsbD 0

/-- The value that the low bits of a number have in an integer format. -/
def intWrap (c : BitVec 6) (v : Int) : Int :=
  let n : Int := 2 ^ intWidth c
  let m := v % n
  if intSigned c && m ≥ n / 2 then m - n else m

/-- The least value of an integer format. -/
def intLo (c : BitVec 6) : Int := if intSigned c then -(2 ^ (intWidth c - 1)) else 0

/-- The greatest value of an integer format. -/
def intHi (c : BitVec 6) : Int := if intSigned c then 2 ^ (intWidth c - 1) - 1 else 2 ^ intWidth c - 1

/-- The floating-point format of a code (R43). -/
def codeFmt (c : BitVec 6) : FFmt :=
  if c == 0x10 then fmtF16 else if c == 0x11 then fmtBF16 else if c == 0x12 then fmtF32 else if c == 0x13 then fmtF64
  else if c == 0x14 then fmtE4M3 else fmtE5M2

/-- The tags that a from-format accepts (R77). -/
def codeAcc (c : BitVec 6) : Accept :=
  if fmtIsInt c then .int else if c == 0x10 then .f16 else if c == 0x11 then .bf16 else if c == 0x12 then .f32
  else if c == 0x13 then .f64 else if c == 0x14 then .e4m3 else if c == 0x15 then .e5m2 else .lg6

/-- The tag of a to-format (R68). -/
def codeTag (c : BitVec 6) : Tag :=
  if c == 7 || c == 8 then .w64 else if fmtIsInt c then .int else if c == 0x10 then .f16x2 else if c == 0x11 then .bf16x2
  else if c == 0x12 then .f32 else if c == 0x13 then .f64 else if c == 0x14 then .e4m3x4 else if c == 0x15 then .e5m2x4 else .lg6x5

/-- An integer as result registers of its format (R54). -/
def intRegs (c : BitVec 6) (v : Int) : List Reg :=
  if intWidth c = 64 then pairRegs (BitVec.ofInt 64 v) .w64 else [⟨BitVec.ofInt 32 v, .int⟩]

/-- Elements of `bits` bits each, packed from the low end. -/
def packBits (bits : Nat) (xs : List Nat) : Nat := xs.foldr (fun x acc => x + 2 ^ bits * acc) 0

/-- A conversion of the registers `rs` that it reads (R68): its result registers and flags. -/
def convert (f t : BitVec 6) (mode : Rounding) (sat : Bool) (rs : List Word) : List Reg × BitVec 6 :=
  let r0 := rs.getD 0 0
  let wide := joinPair r0 (rs.getD 1 0)
  let int : Int := intWrap f (if intWidth f = 64 then wide.toNat else r0.toNat)
  let flt : FVal := if f == 0x13 then fmtF64.unpack wide.toNat else fmtF32.unpack r0.toNat
  let reg (v : Nat) (tag : Tag) : Reg := ⟨BitVec.ofNat 32 v, tag⟩
  let float (x : Exact) : List Reg × BitVec 6 :=
    let o := (codeFmt t).round mode (sat && t != 0x13) x
    (if t == 0x13 then pairRegs (BitVec.ofNat 64 o.bits) .f64 else [reg o.bits .f32], o.fl)
  if fmtIsInt f && fmtIsInt t then
    let r := intToInt sat int (intLo t) (intHi t)
    (intRegs t (intWrap t r.1), r.2)
  else if fmtIsInt f then float (intExact int)
  else if fmtIsInt t then
    let r := floatToInt mode flt (intLo t) (intHi t)
    (intRegs t r.1, r.2)
  else if f == 0x13 || t == 0x13 then float flt.exact
  else if t == 0x18 then
    let es := rs.map (fun w => toLG6 (fmtF32.unpack w.toNat) (w.getLsbD 31))
    ([reg (packBits 6 (es.map (·.1))) .lg6x5], es.foldl (fun x e => x ||| e.2) 0)
  else if f == 0x18 then
    ((List.range 5).map (fun i => reg (fmtF32.round .rne false (lgVal (lgElem r0.toNat i)).exact).bits .f32), 0)
  else if f == 0x12 then
    let fm := codeFmt t
    let es := rs.map (fun w => fm.round mode sat (fmtF32.unpack w.toNat).exact)
    ([reg (packBits fm.width (es.map (·.bits))) (codeTag t)], es.foldl (fun x e => x ||| e.fl) 0)
  else
    let fm := codeFmt f
    let es := (List.range (32 / fm.width)).map (fun i =>
      fmtF32.round .rne sat (fm.unpack (bitsAt r0.toNat (fm.width * i) fm.width)).exact)
    (es.map (fun e => reg e.bits .f32), es.foldl (fun x e => x ||| e.fl) 0)

/-- CVT (R137): from-format f, to-format t. -/
def execCvt (d a : BitVec 6) (f t : BitVec 6) (s : State) : Host.Outcome State Fault Refusal :=
  s.word (.cvt d a f t) (fun s =>
    let n := cvtReads f t
    s.laneWord ⟨[srcN a n (codeAcc f)], dstRegs d.toNat (cvtWrites f t) (codeTag t)⟩ false (fun l =>
      let r := convert f t s.mode s.saturating ((List.range n).map (fun i => (s.vAt l a i).val))
      (putN d.toNat r.1, r.2)))

/-! ### LG6 (R138, R139) -/

/-- LGMUL (R138). -/
def execLgmul (d a b : BitVec 6) (h : BitVec 2) (s : State) : Host.Outcome State Fault Refusal :=
  s.word (.lgmul d a b h) (fun s =>
    s.lane2 d a b false .lg6 .lg6x5 false (fun l =>
      let es := (List.range 5).map (fun i => lgMul (lgElem (s.v32 l a).toNat i) (lgElem (s.v32 l b).toNat i))
      out32 (BitVec.ofNat 32 (packBits 6 (es.map (·.1)))) (es.foldl (fun x e => x ||| e.2) 0)))

/-- The sum of lgdot (R74). -/
def lgDot (mode : Rounding) (d a b : Nat) : FRes :=
  (List.range 5).foldl (fun acc i =>
    let r := fmtF32.round mode false (fAdd mode (fmtF32.unpack acc.bits) (lgProd (lgElem a i) (lgElem b i)))
    ⟨r.bits, acc.fl ||| r.fl⟩) ⟨d, 0⟩

/-- LGDOT (R139): d is the accumulator. -/
def execLgdot (d a b : BitVec 6) (h : BitVec 2) (s : State) : Host.Outcome State Fault Refusal :=
  s.word (.lgdot d a b h) (fun s =>
    s.laneWord ⟨[src a false .lg6, src b false .lg6, src d false .f32], dst d false .f32⟩ false (fun l =>
      let r := lgDot s.mode (s.v32 l d).toNat (s.v32 l a).toNat (s.v32 l b).toNat
      (put d (BitVec.ofNat 32 r.bits) .f32, r.fl)))

/-! ### Online softmax (R140 to R142) -/

/-- The maximum and the sum of smxa (R141): m', l', f and flags. -/
def softmaxA (m l : Nat) (xs : List Nat) : Nat × Nat × Nat × BitVec 6 :=
  let mx := xs.foldl (fun acc x => let r := fmtF32.minMax true acc.bits x; ⟨r.bits, acc.fl ||| r.fl⟩) (⟨m, 0⟩ : FRes)
  let f := expDiff m mx.bits
  let p := fmtF32.round .rne false (fMul (fmtF32.unpack l) (fmtF32.unpack f.bits))
  let sum := xs.foldl (fun acc x =>
    let e := expDiff x mx.bits
    let r := fmtF32.round .rne false (fAdd .rne (fmtF32.unpack acc.bits) (fmtF32.unpack e.bits))
    ⟨r.bits, acc.fl ||| e.fl ||| r.fl⟩) (⟨p.bits, mx.fl ||| f.fl ||| p.fl⟩ : FRes)
  (mx.bits, sum.bits, f.bits, sum.fl)

/-- An F32 result register. -/
def f32Reg (v : Nat) : Reg := ⟨BitVec.ofNat 32 v, .f32⟩

/-- The values of a lane's group. -/
def State.group (s : State) (l : Nat) (r : BitVec 6) (n : Nat) : List Nat := (List.range n).map (fun i => (s.vAt l r i).val.toNat)

/-- SMXA (R141): d is vm, a is vS. -/
def execSmxa (d a : BitVec 6) (h : BitVec 1) (s : State) : Host.Outcome State Fault Refusal :=
  s.word (.smxa d a h) (fun s =>
    s.laneWord ⟨[srcN a 32 .f32, srcN d 2 .f32], dstRegs d.toNat 3 .f32⟩ false (fun l =>
      let r := softmaxA (s.vAt l d 0).val.toNat (s.vAt l d 1).val.toNat (s.group l a 32)
      (putN d.toNat [f32Reg r.1, f32Reg r.2.1, f32Reg r.2.2.1], r.2.2.2)))

/-- The P block of smxb (R142): 0 f32, 1 bf16, 2 lg6. -/
def softmaxP (fm : Nat) (ps : List Nat) : List Reg × BitVec 6 :=
  match fm with
  | 0 => (ps.map f32Reg, 0)
  | 1 =>
    let es := ps.map (fun p => fmtBF16.round .rne false (fmtF32.unpack p).exact)
    ((List.range 16).map (fun i =>
      ⟨BitVec.ofNat 32 (packBits 16 (((es.drop (2 * i)).take 2).map (·.bits))), .bf16x2⟩), es.foldl (fun x e => x ||| e.fl) 0)
  | _ =>
    let es := ps.map (fun p => toLG6 (fmtF32.unpack p) (2 ^ 31 ≤ p))
    let cs := es.map (·.1) ++ [0x10, 0x10, 0x10]
    ((List.range 7).map (fun i => ⟨BitVec.ofNat 32 (packBits 6 ((cs.drop (5 * i)).take 5)), .lg6x5⟩),
      es.foldl (fun x e => x ||| e.2) 0)

/-- The number of registers of the P block. -/
def softmaxPRegs (fm : Nat) : Nat := match fm with
  | 0 => 32
  | 1 => 16
  | _ => 7

/-- The tag of the P block. -/
def softmaxPTag (fm : Nat) : Tag := match fm with
  | 0 => .f32
  | 1 => .bf16x2
  | _ => .lg6x5

/-- SMXB (R142): d is vO, a is vS, b is vm. The O values are written last, so they stand where the blocks overlap. -/
def execSmxb (d a b : BitVec 6) (f : BitVec 3) (h : BitVec 2) (s : State) : Host.Outcome State Fault Refusal :=
  s.word (.smxb d a b f h) (fun s =>
    let n := softmaxPRegs f.toNat
    s.laneWord ⟨[srcN a 32 .f32, srcN b 3 .f32Ends, srcN d 32 .f32],
        dstRegs a.toNat n (softmaxPTag f.toNat) ++ dstRegs d.toNat 32 .f32⟩ false (fun l =>
      let m := (s.vAt l b 0).val.toNat
      let k := (s.vAt l b 2).val.toNat
      let es := (s.group l a 32).map (fun x => expDiff x m)
      let p := softmaxP f.toNat (es.map (·.bits))
      let os := (s.group l d 32).map (fun x => fmtF32.round .rne false (fMul (fmtF32.unpack x) (fmtF32.unpack k)))
      let fl := es.foldl (fun x e => x ||| e.fl) (os.foldl (fun x e => x ||| e.fl) p.2)
      (putN a.toNat p.1 ++ putN d.toNat (os.map (fun o => f32Reg o.bits)), fl)))

end Sys2Proof.Machine
end

