-- ==== Sys2Proof/Machine/Cross.lean ====
section
/-! DEFINITION. The cross-lane words: `shfl` (R106), `ballot` and `elect` (R107), `red` (R108), `scan` (R109). -/
namespace Sys2Proof.Machine

/-- The lanes that are active and pass the checks of their own registers (R106, R107). -/
def State.sound (s : State) (o : LaneOp) (l : Nat) : Bool :=
  s.cur.lanes.getLsbD l && s.isActive l && (s.laneTrap l o).isNone

/-- The lane that `shfl` names (R106): 0 idx, 1 up, 2 down, 3 xor. -/
def shuffleSource (fn l n : Nat) : Int :=
  match fn with
  | 0 => n
  | 1 => (l : Int) - n
  | 2 => (l : Int) + n
  | _ => (l ^^^ n : Nat)

/-- SHFL (R106). -/
def execShfl (d a b : BitVec 6) (f : BitVec 3) (h : BitVec 2) (s : State) : Host.Outcome State Fault Refusal :=
  s.word (.shfl d a b f h) (fun s =>
    let o : LaneOp := ⟨[src a false .any, src b false .any], dst d false .raw⟩
    s.laneWord o false (fun l =>
      let k := shuffleSource f.toNat l (s.v32 l b).toNat
      let from_ := if k < 0 || k ≥ s.curB.w || !s.sound o k.toNat then l else k.toNat
      (putN d.toNat [(s.v from_ a).moved], 0)))

/-- BALLOT (R107): all 64 bits are written but those of lanes that trap. -/
def execBallot (m : BitVec 3) (a : BitVec 6) (h : BitVec 1) (s : State) : Host.Outcome State Fault Refusal :=
  s.word (.ballot m a h) (fun s =>
    let o : LaneOp := ⟨[src a false .any], []⟩
    let old := s.readM m.toNat
    let bit (l : Nat) : Bool :=
      if !(l < s.curB.w) || !s.cur.lanes.getLsbD l then false
      else if !s.isActive l then (if s.zeroing then false else old.getLsbD l)
      else if (s.laneTrap l o).isSome then old.getLsbD l
      else s.v32 l a != 0
    let v := (List.range 64).foldl (fun v l => setBit v l (bit l)) 0
    (s.writeM m.toNat v).meetAll false [] [] (s.laneFate o (fun _ => .done [] 0)))

/-- ELECT (R107). -/
def execElect (m : BitVec 3) (s : State) : Host.Outcome State Fault Refusal :=
  s.word (.elect m) (fun s =>
    let v := match (List.range s.curB.w).find? s.isActive with
      | some l => laneBit l
      | none => 0
    (s.writeM m.toNat v).meetAll false [] [] (s.laneFate ⟨[], []⟩ (fun _ => .done [] 0)))

/-! ### Reductions (R108) -/

/-- The operations of `red` and `lvred` by their fn (R108). -/
inductive RedOp where
  | addI | addF | minI | maxI | minF | maxF | andB | orB
  deriving DecidableEq, Repr

/-- The operation of an fn of `red`. -/
def RedOp.ofFn (f : Nat) : RedOp :=
  match f with
  | 0 => .addI | 1 => .addF | 2 => .minI | 3 => .maxI | 4 => .minF | 5 => .maxF | 6 => .andB | _ => .orB

/-- The operation of an fn of `scan` (R109). -/
def RedOp.ofScan (f : Nat) : RedOp := if f < 2 then .addI else if f < 4 then .addF else if f = 4 then .maxI else .minI

/-- The operation is on binary32. -/
def RedOp.isFloat : RedOp → Bool
  | .addF => true
  | .minF => true
  | .maxF => true
  | _ => false

/-- The identity (R108). -/
def RedOp.identity : RedOp → Word
  | .addI => 0
  | .addF => 0x80000000
  | .minI => 0x7FFFFFFF
  | .maxI => 0x80000000
  | .minF => 0x7F800000
  | .maxF => 0xFF800000
  | .andB => 0xFFFFFFFF
  | .orB => 0

/-- The combination of two values, with the flags it raises (R108). -/
def RedOp.combine (o : RedOp) (x y : Word) : Word × BitVec 6 :=
  let flt (r : FRes) : Word × BitVec 6 := (BitVec.ofNat 32 r.bits, r.fl)
  match o with
  | .addI => (x + y, 0)
  | .addF => flt (fmtF32.round .rne false (fAdd .rne (fmtF32.unpack x.toNat) (fmtF32.unpack y.toNat)))
  | .minI => (minMax32 0 x y, 0)
  | .maxI => (minMax32 1 x y, 0)
  | .minF => flt (fmtF32.minMax false x.toNat y.toNat)
  | .maxF => flt (fmtF32.minMax true x.toNat y.toNat)
  | .andB => (x &&& y, 0)
  | .orB => (x ||| y, 0)

/-- One level of the tree of `red`: neighbours are combined in pairs. -/
def RedOp.level (o : RedOp) : List Word → List Word × BitVec 6
  | x :: y :: xs =>
    let r := o.combine x y
    let rest := o.level xs
    (r.1 :: rest.1, r.2 ||| rest.2)
  | xs => (xs, 0)

/-- The tree of `red` (R108) over 2^n values. -/
def RedOp.tree (o : RedOp) : Nat → List Word → Word × BitVec 6
  | 0, xs => (xs.headD 0, 0)
  | n + 1, xs =>
    let l := o.level xs
    let r := o.tree n l.1
    (r.1, l.2 ||| r.2)

/-- Every active lane a NaN gives the canonical NaN for min.f32 and max.f32 (R108). -/
def allNaN (xs : List Word) : Bool := !xs.isEmpty && xs.all (fun x => (fmtF32.unpack x.toNat).isNaN)

/-- The operands of a reduction (R77). -/
def redOperands (d a : BitVec 6) (o : RedOp) : LaneOp :=
  ⟨[src a false (if o.isFloat then .f32 else .int)], dst d false (if o.isFloat then .f32 else .int)⟩

/-- Set BSTAT.EMPTY (R88). -/
def State.setEmpty (s : State) : State := s.modBundle s.cur.bundle (fun b => { b with bempty := true })

/-- The issued lanes of a reduction that count as active: those that pass their checks. -/
def State.counted (s : State) (o : LaneOp) : List Nat := (List.range s.curB.w).filter (s.sound o)

/-- RED (R108). -/
def execRed (d a : BitVec 6) (f : BitVec 3) (h : BitVec 1) (s : State) : Host.Outcome State Fault Refusal :=
  s.word (.red d a f h) (fun s =>
    let o := RedOp.ofFn f.toNat
    let p := redOperands d a o
    let xs := (List.range s.curB.w).map (fun l => if s.sound p l then s.v32 l a else o.identity)
    let r := o.tree s.curB.w.log2 xs
    let nan := (o == .minF || o == .maxF) && allNaN ((s.counted p).map (fun l => s.v32 l a))
    let v : Word := if nan then 0x7FC00000 else r.1
    let s' := if s.issued.any s.isActive then s else s.setEmpty
    s'.laneWord p true (fun _ => (put d v (if o.isFloat then .f32 else .int), r.2)))

/-- The steps of `scan` over the active lanes (R109): each lane's value and flags. -/
def RedOp.scan (o : RedOp) (exclusive : Bool) : Word → List (Nat × Word) → List (Nat × Word × BitVec 6)
  | _, [] => []
  | acc, (l, x) :: xs =>
    let r := o.combine acc x
    (l, (if exclusive then acc else r.1), r.2) :: o.scan exclusive r.1 xs

/-- SCAN (R109): fn 0 incl add.i32, 1 excl add.i32, 2 incl add.f32, 3 excl add.f32, 4 incl max.i32, 5 incl min.i32. -/
def execScan (d a : BitVec 6) (f : BitVec 3) (h : BitVec 1) (s : State) : Host.Outcome State Fault Refusal :=
  s.word (.scan d a f h) (fun s =>
    let o := RedOp.ofScan f.toNat
    let p := redOperands d a o
    let rs := o.scan (f == 1 || f == 3) o.identity ((s.counted p).map (fun l => (l, s.v32 l a)))
    let s' := if s.issued.any s.isActive then s else s.setEmpty
    s'.laneWord p true (fun l =>
      match lookupKey l rs with
      | some r => (put d r.1 (if o.isFloat then .f32 else .int), r.2)
      | none => ([], 0)))

end Sys2Proof.Machine
end

