-- ==== Sys2Proof/Machine/MemWords.lean ====
section
/-! DEFINITION. The words that reach memory directly: loads, stores, atomics, `await`, `prefetch`, fences (R166 to R173), and
the events that perform accesses (R152) and read again for `await` (R170). -/
namespace Sys2Proof.Machine

/-! ### Loads (R166) -/

/-- The result registers of a load's bytes: `sign` extends a narrow value (R166). -/
def loadRegs (sign : Bool) (bs : List Byte) : List Reg :=
  let v := ofBytes bs
  match bs.length with
  | 1 => [⟨if sign then (BitVec.ofNat 8 v).signExtend 32 else BitVec.ofNat 32 v, .raw⟩]
  | 2 => [⟨if sign then (BitVec.ofNat 16 v).signExtend 32 else BitVec.ofNat 32 v, .raw⟩]
  | n => (List.range (n / 4)).map (fun i => ⟨BitVec.ofNat 32 (v / 2 ^ (32 * i)), .raw⟩)

/-- A load from memory that the lane has made and whose value may still change (R158): another stream's or another address's accesses
do not order it. -/
def State.lateLoad (s : State) (l : Nat) (d : BitVec 6) (q : Nat) (va : DWord) (size : Nat) (sign : Bool) : Target → Option LateLoad
  | .mem off ver dev => some ⟨l, q, s.streamCfg s.cur.bundle q, va, off, size, ver, dev, sign,
      ((List.range (max 1 (size / 4))).map (fun i => d.toNat + i)).map (s.curB.thread l).key⟩
  | _ => none

/-- A lane load of `size` bytes (R166). -/
def State.laneLoad (s : State) (d a : BitVec 6) (off : BitVec 8) (q : BitVec 4) (size : Nat) (sign : Bool) : State :=
  let b := s.cur.bundle
  s.laneMem ⟨[src a true .any], dstRegs d.toNat (max 1 (size / 4)) .raw⟩ true (s.laneAddr a off size) size q.toNat .read
    (fun s' l t =>
      let r := s'.loadFrom b l q.toNat (laneBit l) (s.laneAddr a off size l) size t
      ⟨r.1, .done (putN d.toNat (loadRegs sign r.2.bytes)) 0, r.2.link,
        s.lateLoad l d q.toNat (s.laneAddr a off size l) size sign t⟩)

/-- LD8S (R166). -/
def execLd8s (d a : BitVec 6) (o : BitVec 8) (q : BitVec 4) (s : State) : Host.Outcome State Fault Refusal :=
  s.word (.ld8s d a o q) (fun s => s.laneLoad d a o q 1 true)

/-- LD8Z (R166). -/
def execLd8z (d a : BitVec 6) (o : BitVec 8) (q : BitVec 4) (s : State) : Host.Outcome State Fault Refusal :=
  s.word (.ld8z d a o q) (fun s => s.laneLoad d a o q 1 false)

/-- LD16S (R166). -/
def execLd16s (d a : BitVec 6) (o : BitVec 8) (q : BitVec 4) (s : State) : Host.Outcome State Fault Refusal :=
  s.word (.ld16s d a o q) (fun s => s.laneLoad d a o q 2 true)

/-- LD16Z (R166). -/
def execLd16z (d a : BitVec 6) (o : BitVec 8) (q : BitVec 4) (s : State) : Host.Outcome State Fault Refusal :=
  s.word (.ld16z d a o q) (fun s => s.laneLoad d a o q 2 false)

/-- LD32 (R166). -/
def execLd32 (d a : BitVec 6) (o : BitVec 8) (q : BitVec 4) (s : State) : Host.Outcome State Fault Refusal :=
  s.word (.ld32 d a o q) (fun s => s.laneLoad d a o q 4 false)

/-- LD64 (R166). -/
def execLd64 (d a : BitVec 6) (o : BitVec 8) (q : BitVec 4) (s : State) : Host.Outcome State Fault Refusal :=
  s.word (.ld64 d a o q) (fun s => s.laneLoad d a o q 8 false)

/-- LD128 (R166). -/
def execLd128 (d a : BitVec 6) (o : BitVec 8) (q : BitVec 4) (s : State) : Host.Outcome State Fault Refusal :=
  s.word (.ld128 d a o q) (fun s => s.laneLoad d a o q 16 false)

/-! ### Stores (R167) -/

/-- The bytes that a lane stores from a register group (R167). -/
def State.storeBytes (s : State) (l : Nat) (d : BitVec 6) (size : Nat) : List Byte :=
  if size < 4 then bytesOf size (s.v32 l d).toNat
  else (List.range (size / 4)).flatMap (fun i => bytesOf 4 (s.vAt l d i).val.toNat)

/-- A lane store of `size` bytes (R167). -/
def State.laneStore (s : State) (d a : BitVec 6) (off : BitVec 8) (q : BitVec 4) (size : Nat) : State :=
  let b := s.cur.bundle
  s.laneMem ⟨[src a true .any, srcN d (max 1 (size / 4)) .any], []⟩ false (s.laneAddr a off size) size q.toNat .write
    (fun s' l t =>
      ⟨s'.storeTo b l q.toNat (laneBit l) (s.laneAddr a off size l) (s.storeBytes l d size) t, .done [] 0, none, none⟩)

/-- ST8 (R167). -/
def execSt8 (d a : BitVec 6) (o : BitVec 8) (q : BitVec 4) (s : State) : Host.Outcome State Fault Refusal :=
  s.word (.st8 d a o q) (fun s => s.laneStore d a o q 1)

/-- ST16 (R167). -/
def execSt16 (d a : BitVec 6) (o : BitVec 8) (q : BitVec 4) (s : State) : Host.Outcome State Fault Refusal :=
  s.word (.st16 d a o q) (fun s => s.laneStore d a o q 2)

/-- ST32 (R167). -/
def execSt32 (d a : BitVec 6) (o : BitVec 8) (q : BitVec 4) (s : State) : Host.Outcome State Fault Refusal :=
  s.word (.st32 d a o q) (fun s => s.laneStore d a o q 4)

/-- ST64 (R167). -/
def execSt64 (d a : BitVec 6) (o : BitVec 8) (q : BitVec 4) (s : State) : Host.Outcome State Fault Refusal :=
  s.word (.st64 d a o q) (fun s => s.laneStore d a o q 8)

/-- ST128 (R167). -/
def execSt128 (d a : BitVec 6) (o : BitVec 8) (q : BitVec 4) (s : State) : Host.Outcome State Fault Refusal :=
  s.word (.st128 d a o q) (fun s => s.laneStore d a o q 16)

/-! ### Uniform loads and stores (R168) -/

/-- A fault of a uniform memory word, whose address pair is `a` (R372), parks its issued set; a line that is filled, or a lost link, ends it too (R165). -/
def State.uniNow (s : State) (a : BitVec 6) (r : Now) (ok : List Byte → State → State) : State :=
  match r with
  | .ok bs => ok bs s
  | .trap i => s.trapIssued { i with reg := regField true a.toNat }
  | .wait t => (s.beginFill t).stall
  | .lost => s.linkLost s.cur.bundle s.cur.trapPc

/-- The lane in whose name a uniform word accesses memory: the lowest issued. -/
def State.leader (s : State) : Nat := s.issued.headD 0

/-- A uniform load (R168): native code delivers it later (R37). It has its value when it issues, and counts as a load of each issued
thread (R157). -/
def State.uniLoad (s : State) (d a : BitVec 6) (off : BitVec 8) (q : BitVec 4) (size : Nat) : State :=
  s.uniWord [src a true .any] (fun s =>
    let va := s.uniAddr a off size
    let b := s.cur.bundle
    let links : List Sent := match (s.locate b s.leader va size q.toNat .read).2 with
      | .remote pa i => [⟨i, pa, s.clk⟩]
      | _ => []
    let (s, r) := s.loadNow b s.leader q.toNat s.cur.lanes (some q.toNat) va size .read
    s.uniNow a r (fun bs s =>
      let ws := putN d.toNat (loadRegs false bs)
      let s := if s.cur.plain then s.writeS ws
        else s.modBundle b (fun x => x.addLate ⟨s.cur.trapPc, s.cur.flag, [], ws.map (fun w => ⟨0, w.1, w.2, false⟩), links, []⟩)
      s.advanceAll))

/-- ULD32 (R168). -/
def execUld32 (d a : BitVec 6) (o : BitVec 8) (q : BitVec 4) (s : State) : Host.Outcome State Fault Refusal :=
  s.word (.uld32 d a o q) (fun s => s.uniLoad d a o q 4)

/-- ULD64 (R168). -/
def execUld64 (d a : BitVec 6) (o : BitVec 8) (q : BitVec 4) (s : State) : Host.Outcome State Fault Refusal :=
  s.word (.uld64 d a o q) (fun s => s.uniLoad d a o q 8)

/-- A uniform store (R168), performed at once. -/
def State.uniStore (s : State) (d a : BitVec 6) (off : BitVec 8) (q : BitVec 4) (size : Nat) : State :=
  s.uniWord [src a true .any, srcN d (size / 4) .any] (fun s =>
    let va := s.uniAddr a off size
    let b := s.cur.bundle
    let bs := (List.range (size / 4)).flatMap (fun i => bytesOf 4 (s.readS b (d.toNat + i)).val.toNat)
    let (s, r) := s.storeNow b s.leader q.toNat s.cur.lanes (some q.toNat) va bs .write
    s.uniNow a r (fun _ s => s.advanceAll))

/-- UST32 (R168). -/
def execUst32 (d a : BitVec 6) (o : BitVec 8) (q : BitVec 4) (s : State) : Host.Outcome State Fault Refusal :=
  s.word (.ust32 d a o q) (fun s => s.uniStore d a o q 4)

/-- UST64 (R168). -/
def execUst64 (d a : BitVec 6) (o : BitVec 8) (q : BitVec 4) (s : State) : Host.Outcome State Fault Refusal :=
  s.word (.ust64 d a o q) (fun s => s.uniStore d a o q 8)

/-! ### Atomics (R169) -/

/-- The new value of an atomic (R169, R44): operation, type, old, operand, compare value. -/
def atomNew (op ty : Nat) (old x c : Nat) : Nat :=
  let n : Nat := if ty = 2 || ty = 3 then 2 ^ 64 else 2 ^ 32
  let sv (v : Nat) : Int := if ty = 1 || ty = 3 then v else if v ≥ n / 2 then (v : Int) - n else v
  let w (f : DWord → DWord → DWord) : Nat := (f (BitVec.ofNat 64 old) (BitVec.ofNat 64 x)).toNat % n
  match op with
  | 0 => (old + x) % n
  | 1 => if sv x < sv old then x else old
  | 2 => if sv x > sv old then x else old
  | 3 => w (· &&& ·)
  | 4 => w (· ||| ·)
  | 5 => w (· ^^^ ·)
  | 6 => x
  | 7 => if old = c then x else old
  | 8 => (fmtF32.round .rne false (fAdd .rne (fmtF32.unpack old) (fmtF32.unpack x))).bits
  | 9 => (fmtF32.minMax false old x).bits
  | _ => (fmtF32.minMax true old x).bits

/-- The size of an atomic's type (R169). -/
def atomSize (t : BitVec 4) : Nat := if t == 2 || t == 3 then 8 else 4

/-- The tag that `atomr` gives, and the class that it accepts (R77). -/
def atomTag (t : BitVec 4) : Tag := if t == 4 then .f32 else if t == 2 || t == 3 then .w64 else .int

/-- The class that `atomr` accepts. -/
def atomAcc (t : BitVec 4) : Accept := if t == 4 then .f32 else .int

/-- Take a line exclusive (R241): every other holder is recalled first, and where one of them had dirty bytes the line is filled
again from home with the bytes that it holds dirty itself put over them. -/
def State.takeExclusive (s : State) (t w n : Nat) : State :=
  match (s.team t).window w with
  | some win =>
    match win.line n with
    | some x =>
      if x.excl then s
      else
        let r := s.recall x.pa true (some (t, w))
        let bs := if x.remote then freeBytes s.ticks n 128 else r.1.homeBytes (r.1.winVer t win) x.pa 128
        r.1.modLine t w n (fun y =>
          let own := y.dirty ||| y.redirty
          { y with excl := true
                   data := if r.2 then (bs.zip (List.range 128)).foldl (fun d c => if own.getLsbD c.2 then d else linePut d c.2 c.1) y.data
                     else y.data })
    | none => s
  | none => s

/-- An atomic of lanes in stash (R169, R241), which races there as in memory (R154): `write` gives the bytes that leave for an old value. -/
def State.stashAtom (s : State) (z : Option Spot) (l : Nat) (tg : Target) (bs : List Byte) (write : State → Nat → State × List Byte) :
    State × Nat :=
  match z with
  | some z =>
    let (s, mix) := s.racedStore z tg
    let old := ofBytes (mixBytes s.ticks l mix bs)
    let (s, new) := write s old
    ((s.stashWrite tg (mixBytes s.ticks (l + 64) mix new)).noteStore z l, old)
  | none =>
    let (s, new) := write s (ofBytes bs)
    (s.stashWrite tg new, ofBytes bs)

/-- One lane's atomic at its coherence point (R169): the state, the old value, the request that carries it. Bytes that race one of another
size are undefined before and after it (R154). -/
def State.atomAt (s : State) (b l q : Nat) (va : DWord) (size : Nat) (new : Nat → Nat) (tg : Target) : State × Nat × Option Sent :=
  let write (s : State) (old : Nat) : State × List Byte := s.leaving b q va (bytesOf size (new old)) true
  match tg with
  | .mem off ver dev =>
    let z := s.spot b (laneBit l) q dev off size ver
    let s := s.drainOwn b l (some q) off size
    let (s, mix) := s.memStore z l tg va
    let (s, bs) := s.outsideRead ver off size
    let old := ofBytes (mixBytes s.ticks l mix bs)
    let (s, bs) := write s old
    let s := s.outsideWrite ver off (mixBytes s.ticks (l + 64) mix bs)
    (s.noteStore z l, old, none)
  | .line t w n off =>
    let s := s.takeExclusive t w n
    let r := s.stashAtom (s.spotAt b (laneBit l) q size tg) l tg (s.lineRead t w n off size) write
    (r.1, r.2, none)
  | .scratch t w off =>
    let r := s.stashAtom (s.spotAt b (laneBit l) q size tg) l tg (s.scratchRead t w off size) write
    (r.1, r.2, none)
  | .remote pa link =>
    let s := s.recallRemote pa true
    let old := ofBytes (freeBytes s.ticks (64 * pa + l) size)
    ((write s old).1, old, some ⟨link, pa, s.clk⟩)
  | _ => (s, 0, none)

/-- A lane atomic (R169); `ret` is `atomr`. A request to another node stays outstanding until its node answers. -/
def State.laneAtomic (s : State) (d a : BitVec 6) (p t q : BitVec 4) (ret : Bool) : State :=
  let b := s.cur.bundle
  let size := atomSize t
  let wide := size == 8
  let acc : Accept := if ret then atomAcc t else .any
  let cas := p == 7
  let value (l : Nat) (r : BitVec 6) : Nat := if wide then (s.v64 l r).toNat else (s.v32 l r).toNat
  s.laneMem ⟨[src a true .any] ++ (if cas then [src s.regC wide acc] else []) ++ [src d wide acc],
      if ret then dst d wide (atomTag t) else []⟩ ret (s.laneAddr a 0 0) size q.toNat .atomic
    (fun s' l tg =>
      let va := s.laneAddr a 0 0 l
      let r := s'.atomAt b l q.toNat va size (fun old => atomNew p.toNat t.toNat old (value l d) (value l s.regC)) tg
      let s' := match r.2.2 with
        | some sent => r.1.pushRequest b q.toNat (laneBit l) va sent
        | none => r.1
      let o : Out := if wide then out64 (BitVec.ofNat 64 r.2.1) else out32 (BitVec.ofNat 32 r.2.1)
      ⟨s', .done (if ret then o.writes d wide (atomTag t) else []) 0, if ret then r.2.2 else none, none⟩)

/-- ATOM (R169): operation p, type t. -/
def execAtom (d a : BitVec 6) (p t q : BitVec 4) (s : State) : Host.Outcome State Fault Refusal :=
  s.word (.atom d a p t q) (fun s => s.laneAtomic d a p t q false)

/-- ATOMR (R169). -/
def execAtomr (d a : BitVec 6) (p t q : BitVec 4) (s : State) : Host.Outcome State Fault Refusal :=
  s.word (.atomr d a p t q) (fun s => s.laneAtomic d a p t q true)

/-! ### await (R170) -/

/-- The arithmetic clocks that the die of a bundle has run (R417). -/
def State.bundleClocks (s : State) (b : Nat) : Nat := clocksRun s.aclk (dieOf (s.bundle b).part)

/-- Note when lanes have read for an `await` (R170). -/
def State.markRead (s : State) (b : Nat) (ls : List Nat) : State :=
  ls.foldl (fun s l => s.modThread b l (fun t => { t with readAt := s.bundleClocks b })) s

/-- AWAIT (R170): a lane whose word does not differ parks with its PC on the word. -/
def execAwait (d a : BitVec 6) (o : BitVec 8) (q : BitVec 4) (s : State) : Host.Outcome State Fault Refusal :=
  s.word (.await d a o q) (fun s =>
    let b := s.cur.bundle
    (s.markRead b s.issued).laneMem ⟨[src a true .any, src d false .any], dst d false .raw⟩ true (s.laneAddr a o 4) 4 q.toNat .read
      (fun s' l t =>
        let r := s'.loadFrom b l q.toNat (laneBit l) (s.laneAddr a o 4 l) 4 t
        let v : Word := BitVec.ofNat 32 (ofBytes r.2.bytes)
        ⟨r.1, if v != s.v32 l d then .done (put d v .raw) 0 else .stay (.parked .await), r.2.link, none⟩))

/-! ### prefetch (R171) -/

/-- The line that a lane's `prefetch` fills: the address lies in a backed window of the team, its translation is cached in the core,
and no check of R165 would fault a load there (R171, R238, R324). -/
def State.prefetchLine (s : State) (q : Nat) (va : DWord) : Option (Nat × Nat × Nat × Nat) :=
  match s.curB.team, s.tlbIn s.curB.coreNo s.curB.asid va with
  | some t, some e =>
    match (s.team t).windowAt va with
    | some w =>
      let pa := e.frame + va.toNat % 2 ^ e.size
      if e.leaf.getLsbD 2 && !leafDevice e.leaf && w.mode != .scratch && vaValid va && s.paExists pa
          && (!s.versioned t || s.streamDirect s.cur.bundle q == w.direct) then
        some (t, w.num, (va.toNat - w.base.toNat) / 128, s.homeOf pa / 128 * 128)
      else none
    | none => none
  | _, _ => none

/-- PREFETCH (R171): it fills a stash line where the address lies in a window and the translation is cached; no value that
an access returns changes, and no access faults. The register checks of every lane word come first, so that an address pair beyond the
window, or an EMPTY one under CHECK, traps: R171 speaks of the address alone (assumption 80, DEDUCED). -/
def execPrefetch (a : BitVec 6) (o : BitVec 8) (q : BitVec 4) (s : State) : Host.Outcome State Fault Refusal :=
  s.word (.prefetch a o q) (fun s =>
    let fate := s.laneFate ⟨[src a true .any], []⟩ (fun _ => .done [] 0)
    let s' := (s.issued.filter (fun l => s.isActive l && fate l == .done [] 0)).foldl (fun s' l =>
      match s'.prefetchLine q.toNat (s.laneAddr a o 1 l) with
      | some (t, w, n, pa) => s'.startFill t w n pa
      | none => s') s
    s'.meetAll false [] [] fate)

/-! ### Fences (R172, R173) -/

/-- The set of one stream, or of all. -/
def streamSet (all : Bool) (q : BitVec 4) : BitVec 16 := if all then 0xFFFF else 1#16 <<< q.toNat

/-- Every issued thread fences, and the word is past. -/
def State.fenceIssued (s : State) (f : FenceMark) : State :=
  (s.issued.foldl (fun s l => s.fenceThread s.cur.bundle l f) s).advanceAll

/-- FENCE (R172): scope sc, kind k 0 full, 1 acquire, 2 release, all streams l. An acquire fence is complete at once: the earlier
loads have their values from then on. -/
def execFence (sc : BitVec 4) (k : BitVec 2) (l : BitVec 1) (q : BitVec 4) (s : State) : Host.Outcome State Fault Refusal :=
  s.word (.fence sc k l q) (fun s =>
    let set := streamSet (l == 1) q
    if k == 1 then (s.issued.foldl (fun s l => s.acquireThread s.cur.bundle l set) s).advanceAll
    else s.fenceIssued ⟨set, set, k == 0, sc ≥ 3⟩)

/-- XFENCE (R173): stream b before stream c. -/
def execXfence (sc b c : BitVec 4) (s : State) : Host.Outcome State Fault Refusal :=
  s.word (.xfence sc b c) (fun s => s.fenceIssued ⟨streamSet false b, streamSet false c, true, sc ≥ 3⟩)

/-! ### Events -/

/-- MEMORY_ACCESS_PERFORMED (R152): the store at position `item` of a thread's list is performed, or the earliest of those that it
follows (R157). -/
def execMemoryAccessPerformed (bundle lane item : Nat) (s : State) : Host.Outcome State Fault Refusal :=
  .next (match (s.thread bundle lane).out[item]? with
    | some (.store x) =>
      match (s.thread bundle lane).stores.find? (fun y => y == x || x.follows y) with
      | some y => s.performStores bundle lane (fun z => z == y)
      | none => s
    | _ => s.settleThread bundle lane)

/-- Read 8-byte fields for a word that reads a block of memory at issue on stream q0, as uniform loads (R197, R256, R304). -/
def State.readBlock (s : State) (k : Access) (va : DWord) : Nat → State × Now
  | 0 => (s, .ok [])
  | n + 1 =>
    match s.loadNow s.cur.bundle s.leader 0 s.cur.lanes (some 0) va 8 k with
    | (s, .ok bs) => (match s.readBlock k (va + 8) n with
      | (s, .ok rest) => (s, .ok (bs ++ rest))
      | r => r)
    | r => r

end Sys2Proof.Machine
end

