-- ==== Sys2Proof/Machine/Nest.lean ====
section
/-! DEFINITION. The nest of levels of a launch: roles and units (R181, R183, R184), local iterations and global indices (R183,
R188), instances and leaders (R187), and the places of carries and shares (R192, R236). -/
namespace Sys2Proof.Machine

/-! ### The kernel of a launch -/

/-- The code object of a launch. -/
def Launch.code (l : Launch) : CodeObj := l.obj.getD CodeObj.absent

/-- The bundle width W (R174). -/
def CodeObj.width (o : CodeObj) : Nat := 16 * 2 ^ (o.kflags.extractLsb' 5 2).toNat

/-- The nest word of a level (R175). -/
def CodeObj.nestWord (o : CodeObj) (k : Nat) : Word := if k < o.nlevels then o.nest.getD k 0 else 0

/-- Some `lvbar` names the level (R175). -/
def CodeObj.hasBar (o : CodeObj) (k : Nat) : Bool := (o.nestWord k).getLsbD 0

/-- Some `lvred` names the level (R175). -/
def CodeObj.hasRed (o : CodeObj) (k : Nat) : Bool := (o.nestWord k).getLsbD 1

/-- Carry bytes per local iteration (R175). -/
def CodeObj.carryBytes (o : CodeObj) (k : Nat) : Nat := ((o.nestWord k).extractLsb' 8 8).toNat * 4

/-! ### Roles and units -/

/-- The extent of a level; levels at or beyond n have extent 1 (R181). -/
def Launch.extent (l : Launch) (k : Nat) : Nat := if k < l.code.nlevels then l.lrec.ext.getD k 1 else 1

/-- The role of a level (R181). -/
def Launch.role (l : Launch) (k : Nat) : Role := if k < l.code.nlevels then l.roles.getD k .none else .none

/-- The mapper's assignment of roles (R181) to `n` levels of the given extents. -/
def mapRoles (n w : Nat) (ext : Nat → Nat) : List Role :=
  let live := (List.range n).filter (fun k => ext k != 1)
  match live with
  | [] => List.replicate n .none
  | first :: _ =>
    let lane := ((live.filter (fun k => ext k ≥ w / 4)).getLast?).getD first
    let outer := live.filter (fun k => k < lane)
    (List.range n).map (fun k =>
      if ext k == 1 then .none
      else if k == lane then .lane
      else if k > lane then .seq
      else if some k == outer.getLast? then .bundle
      else .team)

/-- The units of a level (R183). -/
def Launch.units (l : Launch) (k : Nat) : Nat :=
  match l.role k with
  | .lane => min (l.extent k) l.code.width
  | .bundle => min (l.extent k) (l.code.tlimit / l.code.width)
  | .team => l.extent k
  | _ => 1

/-- The local iterations of a unit of a level (R183). -/
def Launch.localCount (l : Launch) (k u : Nat) : Nat :=
  match l.role k with
  | .lane => (l.extent k + l.units k - 1 - u) / l.units k
  | .bundle => (l.extent k + l.units k - 1 - u) / l.units k
  | .seq => l.extent k
  | _ => 1

/-- The global index of local iteration `c` of a unit (R183). -/
def Launch.globalIndex (l : Launch) (k u c : Nat) : Nat :=
  match l.role k with
  | .lane => u + c * l.units k
  | .bundle => u + c * l.units k
  | .team => u
  | .seq => c
  | .none => 0

/-- The levels of a role. -/
def Launch.levelsOf (l : Launch) (r : Role) : List Nat := (List.range 4).filter (fun k => l.role k == r)

/-- The product of the extents of the TEAM levels that a test selects. -/
def Launch.teamProduct (l : Launch) (test : Nat → Bool) : Nat :=
  ((l.levelsOf .team).filter test).foldl (fun n k => n * l.extent k) 1

/-- The unit number of a thread at a level (R184): its team's digit, its bundle or its lane. -/
def Launch.unitOf (l : Launch) (team bidx lane k : Nat) : Nat :=
  match l.role k with
  | .lane => lane
  | .bundle => bidx
  | .team => team / l.teamProduct (fun j => k < j) % l.extent k
  | _ => 0

/-- LVMAP of a level (R186). -/
def Launch.lvmapOf (l : Launch) (k : Nat) : DWord :=
  let role : Nat := match l.role k with
    | .none => 0 | .lane => 1 | .bundle => 2 | .team => 3 | .seq => 4
  let units := if l.role k == .team then min (l.units k) 4095 else l.units k % 4096
  let folded := (l.role k == .lane || l.role k == .bundle) && l.extent k > l.units k
  BitVec.ofNat 64 (min (l.localCount k 0) 65535 * 2 ^ 48 + units * 2 ^ 36 + (if folded then 2 ^ 35 else 0) + role * 2 ^ 32
    + l.extent k)

/-! ### Threads of a team -/

/-- The launch of a bundle's team; a launch that does not exist, with no level, for a handler bundle (R352). -/
def State.bundleLaunch (s : State) (b : Nat) : Launch :=
  match (s.bundle b).team with
  | some t => s.teamLaunch t
  | none => { Launch.absent with obj := some { CodeObj.absent with nlevels := 0 } }

/-- The unit number of a lane at a level. -/
def State.unit (s : State) (b l k : Nat) : Nat :=
  let x := s.bundle b
  (s.bundleLaunch b).unitOf ((x.team.map (fun t => (s.team t).index)).getD 0) x.bidx l k

/-- The local counter of a thread (R188). -/
def Thread.counter (t : Thread) (k : Nat) : Nat := t.ctr.getD k 0

/-- Set the local counter of a thread. -/
def Thread.setCounter (t : Thread) (k c : Nat) : Thread := { t with ctr := t.ctr.set k c }

/-- The global index of a lane's current level-k iteration (R188). -/
def State.levelIndex (s : State) (b l k : Nat) : Nat :=
  (s.bundleLaunch b).globalIndex k (s.unit b l k) ((s.thread b l).counter k)

/-- The role runs in several units. -/
def Role.parallel : Role → Bool
  | .lane => true
  | .bundle => true
  | .team => true
  | _ => false

/-- A thread is a level-k leader (R187). -/
def State.leads (s : State) (b l k : Nat) : Bool :=
  (List.range 4).all (fun j => !(k < j) || !((s.bundleLaunch b).role j).parallel || s.unit b l j == 0)

/-- The instance number of level k that a team lies in (R187): its digits at the TEAM levels outside k. -/
def Launch.instanceOf (l : Launch) (team k : Nat) : Nat := team / l.teamProduct (fun j => k ≤ j)

/-- The created threads of a team (R184). -/
def Launch.teamThreads (l : Launch) : Nat :=
  let lanes := ((l.levelsOf .lane).head?.map l.units).getD 1
  let bundles := ((l.levelsOf .bundle).head?.map l.units).getD 1
  lanes * bundles

/-- The bundles of a team. -/
def Launch.teamBundles (l : Launch) : Nat := ((l.levelsOf .bundle).head?.map l.units).getD 1

/-- The created lanes of each bundle. -/
def Launch.bundleLanes (l : Launch) : Nat := ((l.levelsOf .lane).head?.map l.units).getD 1

/-- The teams of a launch (R184). -/
def Launch.teamCount (l : Launch) : Nat := l.teamProduct (fun _ => true)

/-! ### Carries and shares (R192, R236) -/

/-- The bytes of the carry slots of a thread of the team at a level, by its number in the team: one slot for each of its local
iterations (R192). -/
def Launch.carryThread (l : Launch) (k thread : Nat) : Nat :=
  let unit := match l.role k with
    | .lane => thread % l.bundleLanes
    | .bundle => thread / l.bundleLanes
    | _ => 0
  l.code.carryBytes k * l.localCount k unit

/-- The bytes of the carry slots of the threads of the team before one, at a level. -/
def Launch.carryBefore (l : Launch) (k thread : Nat) : Nat := (List.range thread).foldl (fun n i => n + l.carryThread k i) 0

/-- The offset in window 0 of the carry slots of a level; level 4 gives where the shares begin (R236). -/
def Launch.carryOffset (l : Launch) (k : Nat) : Nat :=
  (List.range k).foldl (fun o j => o + alignUp (l.carryBefore j l.teamThreads) 128) 0

/-- The stride of a share's copies (R192). -/
def ShareEntry.stride (e : ShareEntry) : Nat := alignUp e.bytes e.align

/-- The share's copies are in the team's stash (R192). -/
def Launch.stashShare (l : Launch) (e : ShareEntry) : Bool := (List.range 4).all (fun j => !(e.level < j) || l.role j != .team)

/-- The digits of a copy index of a share (R192): the number of values of each level 0 to k. -/
def Launch.shareDims (l : Launch) (e : ShareEntry) : List (Nat × Nat) :=
  (List.range (e.level + 1)).map (fun j =>
    (j, if l.stashShare e && l.role j == .team then 1
      else if j == e.level then l.extent j
      else if (l.role j).parallel then l.units j
      else 1))

/-- The number of copies of a share that one place holds: the team's stash, or the global share area. -/
def Launch.shareCopies (l : Launch) (e : ShareEntry) : Nat := (l.shareDims e).foldl (fun n d => n * d.2) 1

/-- The bytes of the copies of a share (R192). -/
def Launch.shareSize (l : Launch) (e : ShareEntry) : Nat := e.stride * l.shareCopies e

/-- The bytes of the stash shares of a list, each rounded up to 128 (R236), or of its global shares (R192). -/
def Launch.shareSum (l : Launch) (stash : Bool) (es : List ShareEntry) : Nat :=
  (es.filter (fun e => l.stashShare e == stash)).foldl (fun n e => n + (if stash then alignUp (l.shareSize e) 128 else l.shareSize e)) 0

/-- The offset of share `n` within its area: in window 0 after the carries and the stash shares before it (R236), or OFFn in the
global share area (R192). -/
def Launch.sharePlace (l : Launch) (n : Nat) : Nat :=
  let e := l.code.shares.getD n ⟨0, 1, 4⟩
  let before := l.code.shares.take n
  if l.stashShare e then l.carryOffset 4 + l.shareSum true before else alignUp (l.shareSum false before) e.align

/-- The size of window 0 (R236). -/
def Launch.window0 (l : Launch) : Nat := l.carryOffset 4 + l.shareSum true l.code.shares

/-- The bytes that global shares need (R192): up to the furthest end of one. -/
def Launch.globalShareBytes (l : Launch) : Nat :=
  (indices l.code.shares).foldl (fun m n =>
    let e := l.code.shares.getD n ⟨0, 1, 4⟩
    if l.stashShare e then m else max m (l.sharePlace n + l.shareSize e)) 0

/-- The copy index of a share for a thread's current iteration (R192). -/
def State.copyIndex (s : State) (b l : Nat) (e : ShareEntry) : Nat :=
  ((s.bundleLaunch b).shareDims e).foldl (fun i d =>
    i * d.2 + (if d.2 == 1 then 0 else if d.1 == e.level then s.levelIndex b l d.1 else s.unit b l d.1)) 0

/-- The address of share `n`'s copy for a lane's current iteration (R193). -/
def State.shareAddr (s : State) (b l n : Nat) : DWord :=
  let la := s.bundleLaunch b
  let e := la.code.shares.getD n ⟨0, 1, 4⟩
  let base := if la.stashShare e then privateBase else la.lrec.shares.toNat
  BitVec.ofNat 64 (base + la.sharePlace n + s.copyIndex b l e * e.stride)

/-- The address of a lane's carry slot for its current level-k iteration (R193). -/
def State.carryAddr (s : State) (b l k : Nat) : DWord :=
  let la := s.bundleLaunch b
  let thread := (s.bundle b).bidx * la.bundleLanes + l
  BitVec.ofNat 64 (privateBase + la.carryOffset k + la.carryBefore k thread
    + (s.thread b l).counter k * la.code.carryBytes k)

end Sys2Proof.Machine
end

