-- ==== Sys2Proof/Machine/Monitor.lean ====
section
/-! DEFINITION. Conservation monitors: their checks (R299 to R301) and the words hcfg, href, hrd, harm, hchk (R303 to R309). -/
namespace Sys2Proof.Machine

/-! ### Monitors -/

/-- A monitor at its creation (R295). -/
def Monitor.fresh : Monitor := ⟨.unconfigured, 0, 0, 0, 1, 0, 0, 0, 0, 1, false, 0, [], 0, false, false, false, 0, 0, 0, 0, false⟩

/-- The total T (R298). -/
def Monitor.total (m : Monitor) : Int := m.partials.foldl (fun t p => t + p.2) 0

/-- STATUS (R306). -/
def Monitor.status (m : Monitor) : Word :=
  let st : Nat := match m.st with
    | .unconfigured => 0 | .disarmed => 1 | .armed => 2
  BitVec.ofNat 32 (st * 2 ^ 30 + (if m.ovf then 2 ^ 29 else 0) + (if m.part then 2 ^ 28 else 0)
    + (if m.lasttrip then 2 ^ 27 else 0) + m.trips * 2 ^ 16 + m.inexact)

/-- The monitor of a team with a number. -/
def Team.mon (t : Team) (i : Nat) : Monitor := t.mons.getD i Monitor.fresh

/-- Change a monitor of a team. -/
def State.modMon (s : State) (t i : Nat) (f : Monitor → Monitor) : State :=
  s.modTeam t (fun x => { x with mons := x.mons.modify i f })

/-! ### Checks (R300, R301) -/

/-- A monitor after a check that passed with an empty interval, passed, or tripped. -/
def Monitor.checked (m : Monitor) (empty trip copy : Bool) : Monitor :=
  { m with
    ref := if !empty && !trip && copy then m.total else m.ref
    partials := if !empty && !trip then [] else m.partials
    trips := if trip then min (m.trips + 1) 255 else m.trips
    lasttrip := trip
    checks := m.checks + 1
    stores := 0
    touched := false }

/-- A total lies outside the 128-bit range (R298). -/
def outside128 (t : Int) : Bool := t < -(2 ^ 127) || t ≥ 2 ^ 127

/-- Check monitor `i` over teams in rank order: the state, and the action and team of a trip. A team's armed monitor of that number with
another LEVEL takes no part, as one that is not armed (R301): DESIGN CHOICE (assumption 112). -/
def State.checkMonitor (s : State) (ts : List Nat) (level i : Nat) : State × Option (Nat × Nat) :=
  let armed := ts.filter (fun t => ((s.team t).mon i).st == .armed && ((s.team t).mon i).level == level)
  match armed with
  | [] => (s, none)
  | t0 :: _ =>
    let ms := armed.map (fun t => (s.team t).mon i)
    let c := (s.team t0).mon i
    let total := ms.foldl (fun n m => n + m.total) 0
    let ref := ms.foldl (fun n m => n + m.ref) 0
    let wide := outside128 total
    let bad := wide || ms.any (fun m => m.ovf || m.part)
    let empty := !bad && !ms.any (·.touched)
    let trip := !empty && (bad || (total - ref).natAbs > c.bound)
    let s := armed.foldl (fun s t => s.modMon t i (fun m => { m.checked empty trip c.copy with ovf := m.ovf || wide })) s
    (s, if trip then some (c.action, t0) else none)

/-- Check monitors over teams at one checkpoint: the strongest action with the lowest monitor that asks it, and its team. -/
def State.checkAll (s : State) (ts : List Nat) (level : Nat) : List Nat → State × Option (Nat × Nat × Nat)
  | [] => (s, none)
  | i :: is =>
    let (s, r) := s.checkMonitor ts level i
    let (s, rest) := s.checkAll ts level is
    (s, match r, rest with
      | some (a, t), some (a', i', t') => if a ≥ a' then some (a, i, t) else some (a', i', t')
      | some (a, t), none => some (a, i, t)
      | none, r => r)

/-- The monitors of a team. -/
def monitorNumbers : List Nat := List.range 8

/-! ### The words -/

/-- The team of the word at issue. -/
def State.curTeam (s : State) : Nat := s.curB.team.getD 0

/-- A refusal of a monitor word (R303). -/
def State.refuseMonitor (s : State) : State := s.trapIssued (TrapInfo.of causeMonitorUse)

/-- The monitor of a configuration block, or none where a field is outside the limits of R296. -/
def Monitor.ofBlock (bs : List Byte) : Option Monitor :=
  let at_ (o n : Nat) : Nat := ofBytes ((bs.drop o).take n)
  let base := at_ 0 8
  let limit := at_ 8 8
  let stride := at_ 32 4
  let foff := at_ 36 4
  let stream := at_ 40 1
  let fmt := at_ 41 1
  let p := at_ 42 1
  let ctl := at_ 43 1
  let z := if fmt = 0 || fmt = 2 then 8 else 4
  let level := bitsAt ctl 3 2
  let action := bitsAt ctl 0 2
  if fmt > 3 || base % z != 0 || limit = 0 || limit > 2 ^ 48 || base + limit > 2 ^ 56
    || stride % z != 0 || stride < z || stride > 2 ^ 20 || foff % z != 0 || foff + z > stride
    || stream ≥ 16 || p > 64 || ctl ≥ 32 || level = 0 || level = 3 || action = 3 || (bs.drop 44).any (· != 0) then none
  else some { Monitor.fresh with
    st := .disarmed, base := BitVec.ofNat 64 base, limit := limit, bound := at_ 16 16, stride := stride, foff := foff
    stream := stream, fmt := fmt, p := p, level := level, copy := ctl / 4 % 2 == 1, action := action }

/-- HCFG (R304). -/
def execHcfg (a : BitVec 6) (m : BitVec 3) (s : State) : Host.Outcome State Fault Refusal :=
  s.word (.hcfg a m) (fun s => s.uniWord [src a true .int] (fun s =>
    let va := s.u64 a
    if va.toNat % 64 != 0 then s.uniNow a (.trap (accessTrap causeMisaligned va 8 0)) (fun _ s => s) else
    let (s, r) := s.readBlock .read va 8
    s.uniNow a r (fun bs s =>
      match Monitor.ofBlock bs with
      | none => s.refuseMonitor
      | some x =>
        if ((s.team s.curTeam).mon m.toNat).st == .armed then s.refuseMonitor
        else (s.modMon s.curTeam m.toNat (fun _ => x)).advanceAll)))

/-- HREF (R305). -/
def execHref (a : BitVec 6) (m : BitVec 3) (s : State) : Host.Outcome State Fault Refusal :=
  s.word (.href a m) (fun s => s.uniWord [srcN a 4 .int] (fun s =>
    if ((s.team s.curTeam).mon m.toNat).st == .unconfigured then s.refuseMonitor else
    let v : BitVec 128 := pairOf (s.readS s.cur.bundle) (a.toNat + 2) ++ pairOf (s.readS s.cur.bundle) a.toNat
    (s.modMon s.curTeam m.toNat (fun x => { x with ref := v.toInt, ovf := false, part := false, inexact := 0 })).advanceAll))

/-- HRD (R306). -/
def execHrd (d a : BitVec 6) (m : BitVec 3) (s : State) : Host.Outcome State Fault Refusal :=
  s.word (.hrd d a m) (fun s => s.uniWord [src a false .int] (fun s =>
    let x := (s.team s.curTeam).mon m.toNat
    let k := (s.u32 a).toNat
    if k ≥ 4 then s.refuseMonitor else
    let wide (v : Int) : List Reg := (List.range 4).map (fun i => ⟨(BitVec.ofInt 128 v).extractLsb' (32 * i) 32, .w64⟩)
    let regs : List Reg :=
      if k = 0 then wide x.total else if k = 1 then wide x.ref else if k = 2 then wide x.bound
      else [⟨x.status, .int⟩, ⟨x.checks, .int⟩, ⟨BitVec.ofNat 32 x.stores, .int⟩, ⟨0, .int⟩]
    (s.writeS (putN d.toNat regs)).advanceAll))

/-- HARM (R307, R302). -/
def execHarm (a : BitVec 6) (m : BitVec 3) (s : State) : Host.Outcome State Fault Refusal :=
  s.word (.harm a m) (fun s => s.uniWord [src a false .int] (fun s =>
    let x := (s.team s.curTeam).mon m.toNat
    let v := (s.u32 a).toNat
    if v > 1 || x.st == .unconfigured then s.refuseMonitor
    else if v = 0 then (s.modMon s.curTeam m.toNat (fun x => { x with st := .disarmed })).advanceAll
    else if x.st == .armed then s.advanceAll
    else (s.modMon s.curTeam m.toNat (fun x =>
      { x with st := .armed, partials := [], stores := 0, touched := false })).advanceAll))

/-- HCHK (R308, R300): with ACTION TRAP the issued set parks at the word after, sd written. -/
def execHchk (d : BitVec 6) (m : BitVec 3) (s : State) : Host.Outcome State Fault Refusal :=
  s.word (.hchk d m) (fun s =>
    let t := s.curTeam
    let x := (s.team t).mon m.toNat
    if x.st != .armed || x.level != 1 then s.refuseMonitor else
    let (s, r) := s.checkMonitor [t] 1 m.toNat
    let s := (s.writeS (put d ((s.team t).mon m.toNat).status .int)).advanceAll
    match r with
    | none => s
    | some (action, _) =>
      if action = 0 then
        s.takeTraps s.cur.bundle (s.cur.pc + 4) s.issued
          (s.issued.map (fun l => (l, { TrapInfo.of causeMonitorDrift with aux := m.toNat })))
      else s.killTeam t causeMonitorDrift (action == 2) (some m.toNat) s.cur.pc)

end Sys2Proof.Machine
end

