-- ==== Sys2Proof/Machine/Barrier.lean ====
section
/-! DEFINITION. Barriers: the object and its release (R218 to R221, R224, R225), the program words (R222 to R227), the level
barriers with the reductions that travel with them (R190, R195, R228), and the checkpoints of monitors (R299). -/
namespace Sys2Proof.Machine

/-! ### Which barrier -/

/-- A barrier of a team, of a pack (with its instance, R228), or of a bundle (a LANE level's). -/
inductive BarRef where
  | team (t n : Nat)
  | pack (p n inst : Nat)
  | lane (b k : Nat)
  deriving DecidableEq, Repr

/-- The instance number of a team that waits alone at a TEAM level without BAR or RED (R189). -/
def soloInstance (t : Nat) : Nat := 2 ^ 40 + t

/-- The bit of ARRIVED and EXCUSED, and the number in pending-wait records, that a barrier has. -/
def BarRef.bit : BarRef → Nat
  | .team _ n => n
  | .pack _ n _ => 16 + n
  | .lane _ k => 12 + k

/-- The barrier is a pack barrier. -/
def BarRef.isPack : BarRef → Bool
  | .pack _ _ _ => true
  | _ => false

/-- The number of a barrier. -/
def BarRef.num : BarRef → Nat
  | .team _ n => n
  | .pack _ n _ => n
  | .lane _ k => 12 + k

/-- The level whose waits a barrier carries (R228). -/
def BarRef.levelOf : BarRef → Option Nat
  | .team _ n => if n ≥ 12 then some (n - 12) else none
  | .pack _ n _ => if n ≥ 4 then some (n - 4) else none
  | .lane _ k => some k

/-- The teams whose threads a barrier counts (R218, R228), by rank. -/
def State.barTeams (s : State) : BarRef → List Nat
  | .team t _ => [t]
  | .lane b _ => ((s.bundle b).team).toList
  | .pack p n inst =>
    if n < 4 then (s.pack p).members
    else if inst ≥ 2 ^ 40 then [inst - 2 ^ 40]
    else if (s.launch (s.pack p).launch).role (n - 4) != .team then (s.pack p).members
    else (s.pack p).members.filter (fun t => (s.teamLaunch t).instanceOf (s.team t).index (n - 4) == inst)

/-- The bundles whose threads a barrier counts, those that have retired among them. -/
def State.barBundles (s : State) : BarRef → List Nat
  | .lane b _ => [b]
  | r => (indices s.bundles).filter (fun b => match (s.bundle b).team with
    | some t => (s.barTeams r).contains t
    | none => false)

/-- The barrier. -/
def State.bar (s : State) (r : BarRef) : Barrier :=
  match r with
  | .team t n => (s.team t).bars.getD n (Barrier.fresh 1)
  | .lane b k => (s.bundle b).lbars.getD k (Barrier.fresh (s.bundle b).threads.length)
  | .pack p n i =>
    ((s.pack p).bars.find? (fun x => x.num == n && x.inst == i)).elim (Barrier.fresh (s.barTeams r).length) (·.bar)

/-- Change a barrier. -/
def State.modBar (s : State) (r : BarRef) (f : Barrier → Barrier) : State :=
  match r with
  | .team t n => s.modTeam t (fun x => { x with bars := x.bars.modify n f })
  | .lane b k => s.modBundle b (fun x => { x with lbars := x.lbars.modify k f })
  | .pack p n i =>
    let v := f (s.bar r)
    s.modPack p (fun x => { x with bars := x.bars.filter (fun y => !(y.num == n && y.inst == i)) ++ [⟨n, i, v⟩] })

/-- The program barrier that a word names (R222): LEVEL and number. -/
def State.progBar (s : State) (l : BitVec 2) (n : BitVec 4) : BarRef :=
  if l == 2 then .pack (s.team s.curTeam).pack n.toNat 0 else .team s.curTeam n.toNat

/-- The barrier at which a lane that falls through level k waits (R189, R228). -/
def State.levelBar (s : State) (b k : Nat) : BarRef :=
  let la := s.bundleLaunch b
  match (s.bundle b).team, la.role k with
  | some t, .bundle => .team t (12 + k)
  | some t, .team =>
    let tm := s.team t
    if la.code.hasBar k || la.code.hasRed k then .pack tm.pack (4 + k) (la.instanceOf tm.index k)
    else .pack tm.pack (4 + k) (soloInstance t)
  | _, _ => .lane b k

/-! ### Counting (R220, R225) -/

/-- A thread is counted as arrived (R220). -/
def Thread.counted (t : Thread) (bit : Nat) : Bool := t.isExited || t.arrived.getLsbD bit || t.excused.getLsbD bit

/-- The threads of a team's bundles, those of retired bundles among them (R220). -/
def State.teamThreads (s : State) (t : Nat) : List Thread :=
  (s.bundles.filter (fun b => b.team == some t)).flatMap (fun b => b.threads)

/-- Every thread of a team is EXITED (R220). -/
def State.teamExited (s : State) (t : Nat) : Bool := (s.teamThreads t).all (·.isExited)

/-- The team stage of a pack barrier completes (R225): a thread arrived, and every thread is counted. -/
def State.teamStage (s : State) (t bit : Nat) : Bool :=
  (s.teamThreads t).any (fun x => x.arrived.getLsbD bit) && (s.teamThreads t).all (·.counted bit)

/-- The threads that a team or LANE barrier counts. -/
def State.barThreads (s : State) (r : BarRef) : List Thread :=
  match r with
  | .lane b _ => (s.bundle b).threads
  | r => (s.barTeams r).flatMap s.teamThreads

/-- The members of a barrier that are counted (R220), and how many it has. -/
def State.barCounted (s : State) (r : BarRef) : Nat × Nat :=
  if r.isPack then
    let ts := s.barTeams r
    ((ts.filter (fun t => (s.bar r).teams.contains t || s.teamExited t)).length, ts.length)
  else
    let ts := s.barThreads r
    ((ts.filter (·.counted r.bit)).length, ts.length)

/-- The open generation completes (R221). -/
def State.barComplete (s : State) (r : BarRef) : Bool :=
  let b := s.bar r
  b.counting && (if b.all then (s.barCounted r).1 == (s.barCounted r).2 else b.arrcnt == b.expected)

/-- Count the teams whose team stage has completed (R225): each arrives once in a generation. -/
def State.stageTeams (s : State) (r : BarRef) : State :=
  if r.isPack then (s.barTeams r).foldl (fun s t =>
    if !(s.bar r).teams.contains t && s.teamStage t r.bit then
      s.modBar r (fun b => { b with teams := b.teams ++ [t], counting := true, arrcnt := b.arrcnt + 1 })
    else s) s
  else s

/-! ### The reductions of a level (R195) -/

/-- One contribution to a slot of a reduction: where it was made, and the slot. -/
structure Contribution where
  rank : Nat
  bidx : Nat
  index : Nat
  slot : LvSlot
  deriving DecidableEq, Repr

/-- MODEL'S OWN: the iteration number from which on a slot holds the combined value of a released generation, for a thread whose wait
was abandoned (R226); what it is above that are the flags. -/
def combinedMark : Nat := 2 ^ 33

/-- A slot holds a combined value. -/
def LvSlot.combined (z : LvSlot) : Bool := combinedMark ≤ z.iter

/-- The contributions of one thread to level k. -/
def State.laneContributions (s : State) (b l k : Nat) : List Contribution :=
  ((s.thread b l).slots.filter (fun z => z.k == k && !z.combined)).map (fun z =>
    ⟨((s.bundle b).team.map (fun t => (s.team t).rank)).getD 0, (s.bundle b).bidx,
      (s.bundleLaunch b).globalIndex k (s.unit b l k) z.iter, z⟩)

/-- The contributions of the threads of bundles to level k. -/
def State.contributions (s : State) (bs : List Nat) (k : Nat) : List Contribution :=
  bs.flatMap (fun b => (indices (s.bundle b).threads).flatMap (fun l => s.laneContributions b l k))

/-- Combine values in order, from the identity. -/
def RedOp.fold (o : RedOp) : Word → List Word → Word × BitVec 6
  | acc, [] => (acc, 0)
  | acc, x :: xs =>
    let r := o.combine acc x
    let rest := o.fold r.1 xs
    (rest.1, r.2 ||| rest.2)

/-- The tree of R108 over 2^n places of which those given hold a value and the others the identity. -/
def RedOp.sparse (o : RedOp) : Nat → List (Nat × Word) → Word × BitVec 6
  | _, [] => (o.identity, 0)
  | 0, x :: _ => (x.2, 0)
  | n + 1, xs =>
    let lo := o.sparse n (xs.filter (fun x => x.1 < 2 ^ n))
    let hi := o.sparse n ((xs.filter (fun x => 2 ^ n ≤ x.1)).map (fun x => (x.1 - 2 ^ n, x.2)))
    let r := o.combine lo.1 hi.1
    (r.1, lo.2 ||| hi.2 ||| r.2)

/-- Insert by key, after equal keys. -/
def insertBy (x : Nat × Word) : List (Nat × Word) → List (Nat × Word)
  | [] => [x]
  | y :: ys => if x.1 < y.1 then x :: y :: ys else y :: insertBy x ys

/-- Sort by key, keeping the order of equal keys. -/
def sortBy (xs : List (Nat × Word)) : List (Nat × Word) := xs.foldl (fun ys x => insertBy x ys) []

/-- Combine the groups of contributions that a key makes, each in ascending iteration, and then the groups in the order of
their keys; `back` takes the groups in descending order. -/
def RedOp.grouped (o : RedOp) (back : Bool) (key : Contribution → Nat) (cs : List Contribution) : Word × BitVec 6 :=
  let keys := (sortBy ((cs.map key).eraseDups.map (fun k => (k, 0)))).map (·.1)
  let part (k : Nat) : Word × BitVec 6 :=
    o.fold o.identity ((sortBy ((cs.filter (fun c => key c == k)).map (fun c => (c.slot.iter, c.slot.val)))).map (·.2))
  let parts := (if back then keys.reverse else keys).map part
  let r := o.fold o.identity (parts.map (·.1))
  (r.1, parts.foldl (fun f p => f ||| p.2) r.2)

/-- The combined value of one slot over its contributions, in the order of the role (R195). `free` is the value when they do
not agree, and `back` an order of the teams. -/
def combineSlot (role : Role) (ext : Nat) (free : Word) (back : Bool) (cs : List Contribution) : Word × BitVec 6 :=
  match cs with
  | [] => (free, 0)
  | c :: _ =>
    let o := RedOp.ofFn c.slot.op
    if cs.any (fun x => x.slot.op != c.slot.op || x.slot.vd != c.slot.vd) then (free, 0)
    else match role with
      | .lane =>
        let r := o.sparse (Nat.log2 (2 * ext - 1)) (cs.map (fun x => (x.index, x.slot.val)))
        (if (o == .minF || o == .maxF) && allNaN (cs.map (fun x => x.slot.val)) then 0x7FC00000 else r.1, r.2)
      | .bundle => o.grouped false (·.bidx) cs
      | .team => o.grouped back (·.rank) cs
      | _ => o.fold o.identity ((sortBy (cs.map (fun x => (x.slot.iter, x.slot.val)))).map (·.2))

/-- The combined values of contributions to level k, by slot. -/
def State.combineLevel (s : State) (cs : List Contribution) (k : Nat) (role : Role) (ext : Nat) : List (Nat × Word × BitVec 6) :=
  (List.range 4).filterMap (fun i =>
    let xs := cs.filter (fun c => c.slot.slot == i)
    if xs.isEmpty then none
    else some (i, combineSlot role ext (Config.freeWord s.ticks k i) (Config.freeBool s.ticks k i) xs))

/-- The tag of a reduction's result (R195). -/
def redTag (op : Nat) : Tag := if (RedOp.ofFn op).isFloat then .f32 else .int

/-- Deliver to a thread the combined values of level k (R195): each slot's destination of its own, and the flags where the thread
receives the value; the slots are cleared. -/
def Thread.deliver (t : Thread) (k : Nat) (vs : List (Nat × Word × BitVec 6)) : Thread :=
  let mine := t.slots.filter (fun z => z.k == k)
  let t := mine.foldl (fun t z =>
    let v := if z.combined then some (z.val, BitVec.ofNat 6 (z.iter - combinedMark)) else lookupKey z.slot vs
    match v with
    | some v => if t.inWindow z.vd then { t.writeV z.vd ⟨v.1, redTag z.op⟩ with fstat := t.fstat ||| v.2 } else t
    | none => t) t
  { t with slots := t.slots.filter (fun z => z.k != k) }

/-- Deliver to a lane of a bundle: a destination that a long-latency word is still to write is contested (R37). -/
def Bundle.deliverLane (b : Bundle) (l k : Nat) (vs : List (Nat × Word × BitVec 6)) : Bundle :=
  let t := b.thread l
  (((t.slots.filter (fun z => z.k == k && t.inWindow z.vd)).foldl (fun b z => b.clashV l (t.key z.vd)) b)).modThread l
    (fun t => t.deliver k vs)

/-- Keep the combined values in the slots of a thread whose wait was abandoned (R226). -/
def Thread.keepCombined (t : Thread) (k : Nat) (vs : List (Nat × Word × BitVec 6)) : Thread :=
  { t with
    slots := t.slots.map (fun z => if z.k == k && !z.combined then
      let v := (lookupKey z.slot vs).getD (0, 0)
      { z with iter := combinedMark + v.2.toNat, val := v.1 } else z) }

/-! ### Release (R224, R227, R299, R300) -/

/-- The monitor level whose checkpoint a release is (R299). -/
def State.checkpointLevel (s : State) (r : BarRef) : Option Nat :=
  if !(s.bar r).all then none else
  match r with
  | .team t n => if n < 12 || (s.teamLaunch t).role (n - 12) == .bundle then some 1 else none
  | .pack _ _ _ => some 2
  | .lane _ _ => none

/-- The teams over which a checkpoint is made (R301), by rank: the pack's for a pack barrier, but those that have ended. -/
def State.checkTeams (s : State) (r : BarRef) : List Nat :=
  (match r with
    | .pack p n inst => if 4 ≤ n && 2 ^ 40 ≤ inst then s.barTeams r else (s.pack p).members
    | _ => s.barTeams r).filter (fun t => !(s.team t).ended)

/-- The check that precedes a release: the state, and whether the generation may release; `pc` is the barrier word. -/
def State.checkpoint (s : State) (r : BarRef) (pc : DWord) : State × Bool :=
  match s.checkpointLevel r with
  | none => (s, true)
  | some lvl =>
    match s.checkAll (s.checkTeams r) lvl monitorNumbers with
    | (s, none) => (s, true)
    | (s, some (action, i, t)) =>
      if action = 0 then
        (s.modBar r (fun b => { b with drift := setKey b.gen.toNat i b.drift }), true)
      else (s.killTeam t causeMonitorDrift (action == 2) (some i) pc, false)

/-- Deliver the payload of a barrier to every bundle that waits for it (R227). -/
def State.deliverPayload (s : State) (r : BarRef) : State :=
  let x := s.bar r
  if x.payop.isNone then s else
  let v := if x.mixed then Config.freeDWord s.ticks r.bit 0 else x.payload
  (s.barBundles r).foldl (fun s b =>
    match (s.bundle b).deliver.find? (fun d => d.pack == r.isPack && d.num == r.num) with
    | some d => s.modBundle b (fun y => { (y.writeS [(d.reg, ⟨v.setWidth 32, .w64⟩), (d.reg + 1, ⟨(v >>> 32).setWidth 32, .w64⟩)]) with
        deliver := y.deliver.filter (fun e => !(e.pack == r.isPack && e.num == r.num)) })
    | none => s) s

/-- A generation is the open one or a later one (R224). -/
def genPending (g cur : Word) : Bool := !(g - cur).getLsbD 31

/-- The thread waits on a generation that has been released. -/
def Thread.waitsReleased (t : Thread) (r : BarRef) (cur : Word) (level : Option Nat) : Bool :=
  match t.st with
  | .waiting (.barrier pk n g) => pk == r.isPack && n == r.num && !genPending g cur
  | .waiting (.level k _) => level == some k
  | _ => false

/-- The generation on which a thread waits at a barrier. -/
def Thread.waitGen (t : Thread) (old : Word) : Word :=
  match t.st with
  | .waiting (.barrier _ _ g) => g
  | _ => old

/-- The thread's pending-wait record names the barrier (R224). -/
def Thread.pendingAt (t : Thread) (r : BarRef) : Bool :=
  match t.pwait with
  | some w => w.pack == r.isPack && w.num == r.num
  | none => false

/-- A thread leaves its wait at a barrier: it advances past its word, and its pending-wait record clears (R224). -/
def Thread.passBarrier (t : Thread) (r : BarRef) : Thread :=
  let t := { t with pwait := if t.pendingAt r then none else t.pwait }
  (t.advance t.pc).wake

/-- Whether a level wait is at an `lvbar`. -/
def Thread.atLvbar (t : Thread) : Bool :=
  match t.st with
  | .waiting (.level _ true) => true
  | _ => false

/-- A fence on all streams after a wait at an `lvbar` (R189). -/
def fullFence (wide : Bool) : FenceMark := ⟨0xFFFF, 0xFFFF, true, wide⟩

/-- Lanes that have completed a wait on a generation whose check tripped with ACTION TRAP park, each with its monitor (R300): each stands at
the word after its wait, and those at one word share an event (R350). -/
def State.parkDrift (s : State) (b : Nat) (ls : List (Nat × Nat)) : State :=
  ((ls.map (fun d => (s.thread b d.1).pc)).eraseDups).foldl (fun s pc =>
    s.takeTraps b pc [] ((ls.filter (fun d => (s.thread b d.1).isReady && (s.thread b d.1).pc == pc)).map (fun d =>
      (d.1, { TrapInfo.of causeMonitorDrift with aux := d.2 })))) s

/-- The monitor whose check tripped with ACTION TRAP at the release of a generation (R300). -/
def Barrier.tripped (x : Barrier) (g : Word) : Option Nat := lookupKey g.toNat x.drift

/-- Release the waiters of a barrier in one bundle. `vs` are the combined values of a level barrier. -/
def State.wakeBundle (s : State) (r : BarRef) (old new : Word) (vs : List (Nat × Word × BitVec 6)) (b : Nat) : State :=
  let level := r.levelOf
  let x := s.bundle b
  let woken := (indices x.threads).filter (fun l => (s.thread b l).waitsReleased r new level)
  let fenced := woken.filter (fun l => (s.thread b l).atLvbar)
  let drift := woken.filterMap (fun l => ((s.bar r).tripped ((s.thread b l).waitGen old)).map (fun m => (l, m)))
  let s := match level with
    | some k => s.modBundle b (fun y => woken.foldl (fun y l => y.deliverLane l k vs) y)
    | none => s
  let s := s.modBundle b (fun y => { y with threads := y.threads.mapIdx (fun l x =>
    let t := { x with arrived := x.arrived &&& ~~~(1#24 <<< r.bit) }
    match level with
    | some k =>
      if woken.contains l then (t.setCounter k 0).passBarrier r
      else if t.isExited then { t with slots := t.slots.filter (fun z => z.k != k) }
      else if t.pendingAt r then t.keepCombined k vs
      else t
    | none => if woken.contains l then t.passBarrier r else t) })
  let s := woken.foldl (fun s l => s.acquireThread b l 0xFFFF) s
  let s := fenced.foldl (fun s l => s.fenceThread b l (fullFence r.isPack)) s
  s.parkDrift b drift

/-- The barrier word of a containment record (R316): that of the first thread that waits at the barrier, or else that of the last arrival. -/
def State.barrierPc (s : State) (r : BarRef) : DWord :=
  let cur := (s.bar r).gen + 1
  ((s.barBundles r).findSome? (fun b => (s.bundle b).threads.findSome? (fun t =>
    if t.waitsReleased r cur (r.levelOf) then some t.pc else none))).getD (s.bar r).word

/-- The release steps (R224) of a generation that completes; `pc` is the barrier word of the last arrival. -/
def State.releaseBar (s : State) (r : BarRef) (pc : DWord) : State :=
  match s.checkpoint r pc with
  | (s, false) => s
  | (s, true) =>
    let bs := s.barBundles r
    let old := (s.bar r).gen
    let la := s.bundleLaunch (bs.headD 0)
    let vs := match r.levelOf with
      | some k => s.combineLevel (s.contributions bs k) k (la.role k) (la.extent k)
      | none => []
    let s := s.deliverPayload r
    let s := s.modBar r (fun b => { b with
      gen := b.gen + 1, counting := false, arrcnt := 0, payop := none, payload := 0, mixed := false, teams := [] })
    bs.foldl (fun s b => s.wakeBundle r old (old + 1) vs b) s

/-- Release a barrier if its open generation completes (R221), at the barrier word `pc`. -/
def State.settleBar (s : State) (r : BarRef) (pc : DWord) : State :=
  let s := s.stageTeams r
  if s.barComplete r then s.releaseBar r pc else s

/-- The barriers that count the threads of a bundle: its own, its team's, the pack's, and those of its TEAM levels (R219, R228). -/
def State.barsOf (s : State) (b : Nat) : List BarRef :=
  (List.range 4).map (fun k => BarRef.lane b k) ++
  match (s.bundle b).team with
  | none => []
  | some t => (List.range 16).map (fun n => BarRef.team t n)
      ++ (List.range 4).map (fun n => BarRef.pack (s.team t).pack n 0)
      ++ ((List.range 4).filter (fun k => (s.bundleLaunch b).role k == .team)).map (fun k => s.levelBar b k)

/-- Threads of a bundle are counted without an arrival, by an exit or an excuse, which may complete generations (R220, R221). The
containment record of a trip names the word of a thread that waits (assumption 22). -/
def State.settleBars (s : State) (b : Nat) : State := (s.barsOf b).foldl (fun s r => s.settleBar r (s.barrierPc r)) s

/-- Lanes of a bundle exit (R85, R105): each exit is a release at the scope of every barrier that counts it, pack barriers among them
(R229), and may complete generations. -/
def State.exitLanes (s : State) (b : Nat) (ls : List Nat) : State :=
  if ls.isEmpty then s else
  let s := s.fenceNow b ls true
  let s := ls.foldl (fun s l => s.modThread b l (fun t => { t with st := .exited, pwait := none, marktop := 0 })) s
  s.settleBars b

/-! ### Arrivals (R224, R225, R229) -/

/-- A thread has arrived already in the open generation (R224, R225). -/
def State.hasArrived (s : State) (r : BarRef) (b l : Nat) : Bool :=
  match r with
  | .pack _ _ _ => (s.thread b l).arrived.getLsbD r.bit || (match (s.bundle b).team with
      | some t => (s.bar r).teams.contains t
      | none => false)
  | r => (s.bar r).all && (s.thread b l).arrived.getLsbD r.bit

/-- Lanes of a bundle arrive at a barrier: each first performs a release fence at the barrier's scope (R229). -/
def State.arriveLanes (s : State) (r : BarRef) (b : Nat) (ls : List Nat) : State :=
  if ls.isEmpty then s else
  let s := (s.fenceNow b ls r.isPack).modBar r (fun x => { x with word := s.cur.pc })
  if r.isPack || (s.bar r).all then
    let s := ls.foldl (fun s l => s.modThread b l (fun t => { t with arrived := t.arrived ||| (1#24 <<< r.bit) })) s
    if r.isPack then s else s.modBar r (fun x => { x with counting := true })
  else s.modBar r (fun x => { x with counting := true, arrcnt := x.arrcnt + 1 })

/-- A lane waits at a program barrier on a generation, or passes it at once and acquires (R224, R229). -/
def State.waitLane (s : State) (r : BarRef) (b l : Nat) (g : Word) : State :=
  if genPending g (s.bar r).gen then
    s.modThread b l (fun t => { t with st := .waiting (.barrier r.isPack r.num g) })
  else (s.modThread b l (fun t => t.passBarrier r)).acquireThread b l 0xFFFF

/-- Lanes wait, each on a generation; those that pass one whose check tripped with ACTION TRAP park (R300). -/
def State.waitLanes (s : State) (r : BarRef) (b : Nat) (ls : List (Nat × Word)) : State :=
  (ls.foldl (fun s x => s.waitLane r b x.1 x.2) s).parkDrift b (ls.filterMap (fun x =>
    if genPending x.2 (s.bar r).gen then none else ((s.bar r).tripped x.2).map (fun m => (x.1, m))))

/-! ### The program words (R222 to R227) -/

/-- The word names a mapper's barrier (R222). -/
def mapperBarrier (l : BitVec 2) (n : BitVec 4) : Bool := l == 1 && n ≥ 12

/-- A barrier word after the check of R222 and the tag checks. -/
def State.barWord (s : State) (l : BitVec 2) (n : BitVec 4) (us : List Use) (effect : State → BarRef → State) : State :=
  if mapperBarrier l n then s.trapIssued (TrapInfo.of causeBarrierUse)
  else s.uniWord us (fun s => effect s (s.progBar l n))

/-- BINIT (R223). -/
def execBinit (a : BitVec 6) (l : BitVec 2) (n : BitVec 4) (s : State) : Host.Outcome State Fault Refusal :=
  s.word (.binit a l n) (fun s => s.barWord l n [src a false .int] (fun s r =>
    let v := (s.u32 a).toNat
    let members := match r with
      | .pack _ _ _ => (s.barTeams r).length
      | _ => (s.teamLaunch s.curTeam).teamThreads
    if (s.bar r).counting || v > 65536 then s.trapIssued (TrapInfo.of causeBarrierUse)
    else
      (s.modBar r (fun b => if v = 0 then { b with all := true, expected := members } else { b with all := false, expected := v }))
        |>.advanceAll))

/-- BARRIVE (R224). -/
def execBarrive (d : BitVec 6) (l : BitVec 2) (n : BitVec 4) (s : State) : Host.Outcome State Fault Refusal :=
  s.word (.barrive d l n) (fun s => s.barWord l n [] (fun s r =>
    let b := s.cur.bundle
    if s.issued.any (s.hasArrived r b) then s.trapIssued (TrapInfo.of causeBarrierUse)
    else
      let g := (s.bar r).gen
      (((s.arriveLanes r b s.issued).writeS (put d g .int)).advanceAll).settleBar r s.cur.pc))

/-- BWAIT (R224). -/
def execBwait (a : BitVec 6) (l : BitVec 2) (n : BitVec 4) (s : State) : Host.Outcome State Fault Refusal :=
  s.word (.bwait a l n) (fun s => s.barWord l n [src a false .int] (fun s r =>
    let g := s.u32 a
    s.waitLanes r s.cur.bundle (s.issued.map (fun i => (i, g)))))

/-- BSYNC (R224, R226): a thread whose pending-wait record names the barrier does not arrive again. -/
def execBsync (l : BitVec 2) (n : BitVec 4) (s : State) : Host.Outcome State Fault Refusal :=
  s.word (.bsync l n) (fun s => s.barWord l n [] (fun s r =>
    let b := s.cur.bundle
    let others := s.issued.filter (fun i => !(s.thread b i).pendingAt r)
    if others.any (s.hasArrived r b) then s.trapIssued (TrapInfo.of causeBarrierUse)
    else
      let g := (s.bar r).gen
      let s := others.foldl (fun s i => s.modThread b i (fun t => { t with pwait := some ⟨r.isPack, r.num, g⟩ }))
        (s.arriveLanes r b others)
      (s.waitLanes r b (s.issued.map (fun i => (i, ((s.thread b i).pwait.map (·.gen)).getD g)))).settleBar r s.cur.pc))

/-- The combination of payloads (R227). -/
def combinePay (op : Nat) (x y : DWord) : DWord :=
  match op with
  | 0 => x + y
  | 1 => if x.toInt ≤ y.toInt then x else y
  | 2 => if x.toInt ≥ y.toInt then x else y
  | 3 => x &&& y
  | 4 => x ||| y
  | _ => x ^^^ y

/-- BPAY (R227). -/
def execBpay (d a : BitVec 6) (p : BitVec 3) (l : BitVec 2) (n : BitVec 4) (s : State) : Host.Outcome State Fault Refusal :=
  s.word (.bpay d a p l n) (fun s => s.barWord l n [src a true .int] (fun s r =>
    let v := s.u64 a
    let op := p.toNat
    let s := s.modBar r (fun x => match x.payop with
      | none => { x with payop := some op, payload := v }
      | some o => { x with payload := combinePay o x.payload v, mixed := x.mixed || o != op })
    let tagPair (b : Bundle) (reg : Nat) (t : Tag) : Bundle :=
      { b with s := (b.s.modify reg (fun x => { x with tag := t })).modify (reg + 1) (fun x => { x with tag := t }) }
    let s := s.modBundle s.cur.bundle (fun b =>
      let mine (e : Delivery) : Bool := e.pack == r.isPack && e.num == r.num
      let b := (b.deliver.filter mine).foldl (fun b e => tagPair b e.reg .raw) b
      { tagPair b d.toNat .pend with deliver := b.deliver.filter (fun e => !mine e) ++ [⟨r.isPack, r.num, d.toNat⟩] })
    s.advanceAll))

end Sys2Proof.Machine
end

