-- ==== Sys2Proof/WellFormed.lean ====
section
/-! DEFINITION. Which terms of Instr are instructions that the opcode map defines: an encoded row whose fields pass every
check that the word alone decides (R29, R30, R42 to R45). The events of the device are no words, so none is well formed
as an instruction word. -/
namespace Sys2Proof

/-- The instruction is one that a word can hold, and its fields pass the encoding checks. -/
def Instr.wellFormed (i : Instr) : Bool := i.encoded && (encDefect i).isNone

end Sys2Proof
end

