-- ==== Sys2Proof/Decode.lean ====
section
/-! DEFINITION. From instruction words to instructions and back, by the opcode map of R42 and R45. Decoding is total: a word
is an instruction, or it is refused by the name of its encoding fault (R46 to R48). -/
namespace Sys2Proof

/-- Why a word is no instruction: a clause header (R34), an opcode value that R46 lists, a variant that the map does not
list, or a bit that must be zero (R47). -/
inductive DecodeError where
  /-- A clause header stands where an instruction is expected (R34, R39). -/
  | header
  /-- The opcode is one of R46. -/
  | illegalOpcode
  /-- The opcode has no such variant. -/
  | reservedFn
  /-- A bit that must be zero is set (R30). -/
  | mbzSet
  deriving DecidableEq, Repr

/-- What a word decodes to. -/
inductive Decoded where
  /-- The instruction that the word holds. -/
  | ok (i : Instr)
  /-- The word holds none. -/
  | bad (e : DecodeError)
  deriving DecidableEq, Repr

/-- The field of `len` bits of a word whose lowest bit is bit `lo`. -/
abbrev fld (w : Word) (lo len : Nat) : BitVec len := w.extractLsb' lo len

/-- Bits 31 to 24 of a word: the pipe bit and op7 (R28). -/
def opcodeOf (w : Word) : Nat := (w >>> 24).toNat


/-- The instruction of a word whose opcode byte is `op`, when the word matches one of the rows of that opcode: the opcodes 0x0 to 0xF. -/
def decodeAt0 (op : Nat) (w : Word) : Option Instr :=
  if op = 0x0 then
    if w &&& 0x1 = 0x0 then some (.add (fld w 18 6) (fld w 12 6) (fld w 6 6) (fld w 3 3) (fld w 1 2)) else none
  else if op = 0x1 then
    if w &&& 0x1 = 0x0 then some (.sub (fld w 18 6) (fld w 12 6) (fld w 6 6) (fld w 3 3) (fld w 1 2)) else none
  else if op = 0x2 then
    if w &&& 0x31 = 0x0 then some (.mul (fld w 18 6) (fld w 12 6) (fld w 6 6) (fld w 3 1) (fld w 1 2)) else
    if w &&& 0x31 = 0x10 then some (.mulh (fld w 18 6) (fld w 12 6) (fld w 6 6) (fld w 3 1) (fld w 1 2)) else none
  else if op = 0x3 then
    if w &&& 0x1 = 0x0 then some (.mad (fld w 18 6) (fld w 12 6) (fld w 6 6) (fld w 3 3) (fld w 1 2)) else none
  else if op = 0x4 then
    if w &&& 0x31 = 0x0 then some (.div (fld w 18 6) (fld w 12 6) (fld w 6 6) (fld w 3 1) (fld w 1 2)) else
    if w &&& 0x31 = 0x10 then some (.rem (fld w 18 6) (fld w 12 6) (fld w 6 6) (fld w 3 1) (fld w 1 2)) else none
  else if op = 0x5 then
    if w &&& 0x1 = 0x0 then some (.minmax (fld w 18 6) (fld w 12 6) (fld w 6 6) (fld w 3 3) (fld w 1 2)) else none
  else if op = 0x6 then
    if w &&& 0xFC5 = 0x0 then some (.absneg (fld w 18 6) (fld w 12 6) (fld w 3 3) (fld w 1 1)) else none
  else if op = 0x7 then
    if w &&& 0x1 = 0x0 then some (.logic (fld w 18 6) (fld w 12 6) (fld w 6 6) (fld w 3 3) (fld w 1 2)) else none
  else if op = 0x8 then
    if w &&& 0x1 = 0x0 then some (.shift (fld w 18 6) (fld w 12 6) (fld w 6 6) (fld w 3 3) (fld w 1 2)) else none
  else if op = 0x9 then
    if w &&& 0xFC5 = 0x0 then some (.bits (fld w 18 6) (fld w 12 6) (fld w 3 3) (fld w 1 1)) else none
  else if op = 0xA then
    if w &&& 0x1 = 0x0 then some (.bfx (fld w 18 6) (fld w 12 6) (fld w 6 6) (fld w 3 3) (fld w 1 2)) else none
  else if op = 0xB then
    if w &&& 0x39 = 0x0 then some (.bfi (fld w 18 6) (fld w 12 6) (fld w 6 6) (fld w 1 2)) else none
  else if op = 0xC then
    if w &&& 0x1 = 0x0 then some (.cmp (fld w 21 3) (fld w 18 3) (fld w 12 6) (fld w 6 6) (fld w 3 3) (fld w 1 2)) else none
  else if op = 0xD then
    if w &&& 0x1 = 0x0 then some (.sel (fld w 18 6) (fld w 12 6) (fld w 6 6) (fld w 3 3) (fld w 1 2)) else none
  else if op = 0xE then
    if w &&& 0xFF5 = 0x0 then some (.mov (fld w 18 6) (fld w 12 6) (fld w 3 1) (fld w 1 1)) else
    if w &&& 0xFFD = 0x10 then some (.movs (fld w 18 6) (fld w 12 6) (fld w 1 1)) else none
  else if op = 0xF then
    some (.li (fld w 18 6) (fld w 0 18))
  else none

/-- The instruction of a word whose opcode byte is `op`, when the word matches one of the rows of that opcode: the opcodes 0x10 to 0x1F. -/
def decodeAt1 (op : Nat) (w : Word) : Option Instr :=
  if op = 0x10 then
    some (.lih (fld w 18 6) (fld w 0 18))
  else if op = 0x11 then
    some (.addi (fld w 18 6) (fld w 12 6) (fld w 0 12))
  else if op = 0x18 then
    if w &&& 0x1 = 0x0 then some (.fadd (fld w 18 6) (fld w 12 6) (fld w 6 6) (fld w 3 3) (fld w 1 2)) else none
  else if op = 0x19 then
    if w &&& 0x1 = 0x0 then some (.fsub (fld w 18 6) (fld w 12 6) (fld w 6 6) (fld w 3 3) (fld w 1 2)) else none
  else if op = 0x1A then
    if w &&& 0x1 = 0x0 then some (.fmul (fld w 18 6) (fld w 12 6) (fld w 6 6) (fld w 3 3) (fld w 1 2)) else none
  else if op = 0x1B then
    if w &&& 0x1 = 0x0 then some (.fma (fld w 18 6) (fld w 12 6) (fld w 6 6) (fld w 3 3) (fld w 1 2)) else none
  else if op = 0x1C then
    if w &&& 0x1 = 0x0 then some (.fminmax (fld w 18 6) (fld w 12 6) (fld w 6 6) (fld w 3 3) (fld w 1 2)) else none
  else if op = 0x1D then
    if w &&& 0xFC5 = 0x0 then some (.fabsneg (fld w 18 6) (fld w 12 6) (fld w 3 3) (fld w 1 1)) else none
  else if op = 0x1E then
    if w &&& 0xFC5 = 0x0 then some (.fclass (fld w 18 6) (fld w 12 6) (fld w 3 3) (fld w 1 1)) else none
  else if op = 0x1F then
    if w &&& 0xFC5 = 0x0 then some (.frnd (fld w 18 6) (fld w 12 6) (fld w 3 3) (fld w 1 1)) else none
  else none

/-- The instruction of a word whose opcode byte is `op`, when the word matches one of the rows of that opcode: the opcodes 0x20 to 0x2F. -/
def decodeAt2 (op : Nat) (w : Word) : Option Instr :=
  if op = 0x20 then
    some (.cvt (fld w 18 6) (fld w 12 6) (fld w 6 6) (fld w 0 6))
  else if op = 0x21 then
    if w &&& 0x1 = 0x0 then some (.fdiv (fld w 18 6) (fld w 12 6) (fld w 6 6) (fld w 3 3) (fld w 1 2)) else none
  else if op = 0x22 then
    if w &&& 0xFC5 = 0x0 then some (.sfu (fld w 18 6) (fld w 12 6) (fld w 3 3) (fld w 1 1)) else none
  else if op = 0x23 then
    if w &&& 0xFC5 = 0x0 then some (.sfd (fld w 18 6) (fld w 12 6) (fld w 3 3) (fld w 1 1)) else none
  else if op = 0x24 then
    if w &&& 0x39 = 0x0 then some (.lgmul (fld w 18 6) (fld w 12 6) (fld w 6 6) (fld w 1 2)) else none
  else if op = 0x25 then
    if w &&& 0x39 = 0x0 then some (.lgdot (fld w 18 6) (fld w 12 6) (fld w 6 6) (fld w 1 2)) else none
  else if op = 0x26 then
    if w &&& 0x1 = 0x0 then some (.fscl (fld w 18 6) (fld w 12 6) (fld w 6 6) (fld w 3 3) (fld w 1 2)) else none
  else if op = 0x27 then
    if w &&& 0xFFD = 0x0 then some (.smxa (fld w 18 6) (fld w 12 6) (fld w 1 1)) else none
  else if op = 0x28 then
    if w &&& 0x1 = 0x0 then some (.smxb (fld w 18 6) (fld w 12 6) (fld w 6 6) (fld w 3 3) (fld w 1 2)) else none
  else if op = 0x29 then
    if w &&& 0xFF0 = 0x0 then some (.tagset (fld w 18 6) (fld w 12 6) (fld w 0 4)) else none
  else if op = 0x2A then
    if w &&& 0xFFD = 0x0 then some (.tagget (fld w 18 6) (fld w 12 6) (fld w 1 1)) else none
  else none

/-- The instruction of a word whose opcode byte is `op`, when the word matches one of the rows of that opcode: the opcodes 0x30 to 0x3F. -/
def decodeAt3 (op : Nat) (w : Word) : Option Instr :=
  if op = 0x30 then
    if w &&& 0x1 = 0x0 then some (.shfl (fld w 18 6) (fld w 12 6) (fld w 6 6) (fld w 3 3) (fld w 1 2)) else none
  else if op = 0x31 then
    if w &&& 0x1C0FFD = 0x0 then some (.ballot (fld w 21 3) (fld w 12 6) (fld w 1 1)) else none
  else if op = 0x32 then
    if w &&& 0xFC5 = 0x0 then some (.red (fld w 18 6) (fld w 12 6) (fld w 3 3) (fld w 1 1)) else none
  else if op = 0x33 then
    if w &&& 0xFC5 = 0x0 then some (.scan (fld w 18 6) (fld w 12 6) (fld w 3 3) (fld w 1 1)) else none
  else if op = 0x35 then
    if w &&& 0x1FFFFF = 0x0 then some (.elect (fld w 21 3)) else none
  else if op = 0x38 then
    if w &&& 0x3FFFC = 0x0 then some (.lvidx (fld w 18 6) (fld w 0 2)) else none
  else if op = 0x39 then
    if w &&& 0x3FFFC = 0x0 then some (.lvext (fld w 18 6) (fld w 0 2)) else none
  else if op = 0x3A then
    if w &&& 0xF05 = 0x0 then some (.lvred (fld w 18 6) (fld w 12 6) (fld w 6 2) (fld w 3 3) (fld w 1 1)) else none
  else if op = 0x3B then
    if w &&& 0x300000 = 0x0 then some (.lvbar (fld w 22 2) (fld w 0 20)) else none
  else if op = 0x3C then
    if w &&& 0x300000 = 0x0 then some (.lvend (fld w 22 2) (fld w 0 20)) else none
  else if op = 0x3D then
    if w &&& 0x3FF00 = 0x0 then some (.lvshare (fld w 18 6) (fld w 0 8)) else none
  else if op = 0x3E then
    if w &&& 0x3FFFC = 0x0 then some (.lvcarry (fld w 18 6) (fld w 0 2)) else none
  else if op = 0x3F then
    if w &&& 0x1FFFFC = 0x0 then some (.lvlead (fld w 21 3) (fld w 0 2)) else none
  else none

/-- The instruction of a word whose opcode byte is `op`, when the word matches one of the rows of that opcode: the opcodes 0x40 to 0x4F. -/
def decodeAt4 (op : Nat) (w : Word) : Option Instr :=
  if op = 0x40 then
    some (.br (fld w 21 3) (fld w 20 1) (fld w 0 20))
  else if op = 0x41 then
    some (.call (fld w 21 3) (fld w 20 1) (fld w 0 20))
  else if op = 0x42 then
    if w &&& 0xFC0FFF = 0x0 then some (.jmp (fld w 12 6)) else none
  else if op = 0x43 then
    if w &&& 0xFC0FFF = 0x0 then some (.callr (fld w 12 6)) else none
  else if op = 0x44 then
    if w &&& 0xFFFFFF = 0x0 then some (.ret) else none
  else if op = 0x45 then
    if w &&& 0xFFF000 = 0x0 then some (.enter (fld w 6 6) (fld w 0 6)) else none
  else if op = 0x47 then
    if w &&& 0xFFFFFF = 0x0 then some (.exit) else none
  else if op = 0x48 then
    some (.brw (fld w 21 3) (fld w 20 1) (fld w 0 20))
  else if op = 0x49 then
    if w &&& 0xFFFFC0 = 0x0 then some (.yield (fld w 0 6)) else none
  else if op = 0x4B then
    if w &&& 0xFFFFFF = 0x0 then some (.nop) else none
  else none

/-- The instruction of a word whose opcode byte is `op`, when the word matches one of the rows of that opcode: the opcodes 0x50 to 0x5F. -/
def decodeAt5 (op : Nat) (w : Word) : Option Instr :=
  if op = 0x50 then
    if w &&& 0xFFF000 = 0x0 then some (.mark (fld w 0 12)) else none
  else if op = 0x51 then
    some (.cut (fld w 18 6) (fld w 12 6) (fld w 0 12))
  else if op = 0x52 then
    if w &&& 0xFC0039 = 0x0 then some (.graft (fld w 12 6) (fld w 6 6) (fld w 1 2)) else none
  else if op = 0x53 then
    if w &&& 0xFFF000 = 0x0 then some (.unmark (fld w 0 12)) else none
  else if op = 0x54 then
    if w &&& 0xFC0FFF = 0x0 then some (.slshare (fld w 12 6)) else none
  else if op = 0x55 then
    if w &&& 0xFC0FFF = 0x0 then some (.slfree (fld w 12 6)) else none
  else if op = 0x56 then
    if w &&& 0xFFF = 0x0 then some (.slinfo (fld w 18 6) (fld w 12 6)) else none
  else none

/-- The instruction of a word whose opcode byte is `op`, when the word matches one of the rows of that opcode: the opcodes 0x60 to 0x6F. -/
def decodeAt6 (op : Nat) (w : Word) : Option Instr :=
  if op = 0x60 then
    some (.ld8s (fld w 18 6) (fld w 12 6) (fld w 4 8) (fld w 0 4))
  else if op = 0x61 then
    some (.ld8z (fld w 18 6) (fld w 12 6) (fld w 4 8) (fld w 0 4))
  else if op = 0x62 then
    some (.ld16s (fld w 18 6) (fld w 12 6) (fld w 4 8) (fld w 0 4))
  else if op = 0x63 then
    some (.ld16z (fld w 18 6) (fld w 12 6) (fld w 4 8) (fld w 0 4))
  else if op = 0x64 then
    some (.ld32 (fld w 18 6) (fld w 12 6) (fld w 4 8) (fld w 0 4))
  else if op = 0x65 then
    some (.ld64 (fld w 18 6) (fld w 12 6) (fld w 4 8) (fld w 0 4))
  else if op = 0x66 then
    some (.ld128 (fld w 18 6) (fld w 12 6) (fld w 4 8) (fld w 0 4))
  else if op = 0x67 then
    some (.st8 (fld w 18 6) (fld w 12 6) (fld w 4 8) (fld w 0 4))
  else if op = 0x68 then
    some (.st16 (fld w 18 6) (fld w 12 6) (fld w 4 8) (fld w 0 4))
  else if op = 0x69 then
    some (.st32 (fld w 18 6) (fld w 12 6) (fld w 4 8) (fld w 0 4))
  else if op = 0x6A then
    some (.st64 (fld w 18 6) (fld w 12 6) (fld w 4 8) (fld w 0 4))
  else if op = 0x6B then
    some (.st128 (fld w 18 6) (fld w 12 6) (fld w 4 8) (fld w 0 4))
  else if op = 0x6C then
    some (.atom (fld w 18 6) (fld w 12 6) (fld w 8 4) (fld w 4 4) (fld w 0 4))
  else if op = 0x6D then
    some (.atomr (fld w 18 6) (fld w 12 6) (fld w 8 4) (fld w 4 4) (fld w 0 4))
  else if op = 0x6E then
    if w &&& 0xFC0000 = 0x0 then some (.prefetch (fld w 12 6) (fld w 4 8) (fld w 0 4)) else none
  else if op = 0x6F then
    some (.await (fld w 18 6) (fld w 12 6) (fld w 4 8) (fld w 0 4))
  else none

/-- The instruction of a word whose opcode byte is `op`, when the word matches one of the rows of that opcode: the opcodes 0x70 to 0x7F. -/
def decodeAt7 (op : Nat) (w : Word) : Option Instr :=
  if op = 0x70 then
    if w &&& 0xFFF010 = 0x0 then some (.fence (fld w 8 4) (fld w 6 2) (fld w 5 1) (fld w 0 4)) else none
  else if op = 0x71 then
    if w &&& 0xFFF000 = 0x0 then some (.xfence (fld w 8 4) (fld w 4 4) (fld w 0 4)) else none
  else if op = 0x7E then
    if w &&& 0x1FF = 0x0 then some (.prefixWord (fld w 18 6) (fld w 15 3) (fld w 14 1) (fld w 13 1) (fld w 10 3) (fld w 9 1)) else none
  else none

/-- The instruction of a word whose opcode byte is `op`, when the word matches one of the rows of that opcode: the opcodes 0x80 to 0x8F. -/
def decodeAt8 (op : Nat) (w : Word) : Option Instr :=
  if op = 0x80 then
    some (.uadd (fld w 18 6) (fld w 12 6) (fld w 6 6) (fld w 0 6))
  else if op = 0x81 then
    some (.usub (fld w 18 6) (fld w 12 6) (fld w 6 6) (fld w 0 6))
  else if op = 0x82 then
    some (.umul (fld w 18 6) (fld w 12 6) (fld w 6 6) (fld w 0 6))
  else if op = 0x83 then
    some (.uminmax (fld w 18 6) (fld w 12 6) (fld w 6 6) (fld w 0 6))
  else if op = 0x84 then
    some (.ulogic (fld w 18 6) (fld w 12 6) (fld w 6 6) (fld w 0 6))
  else if op = 0x85 then
    some (.ushift (fld w 18 6) (fld w 12 6) (fld w 6 6) (fld w 0 6))
  else if op = 0x86 then
    if w &&& 0xFC0 = 0x0 then some (.ubits (fld w 18 6) (fld w 12 6) (fld w 0 6)) else none
  else if op = 0x87 then
    some (.ucmp (fld w 18 6) (fld w 12 6) (fld w 6 6) (fld w 3 3) (fld w 0 3))
  else if op = 0x88 then
    if w &&& 0xFC0 = 0x0 then some (.umov (fld w 18 6) (fld w 12 6) (fld w 0 6)) else none
  else if op = 0x89 then
    some (.uli (fld w 18 6) (fld w 0 18))
  else if op = 0x8A then
    some (.ulih (fld w 18 6) (fld w 0 18))
  else if op = 0x8B then
    some (.uaddi (fld w 18 6) (fld w 12 6) (fld w 0 12))
  else none

/-- The instruction of a word whose opcode byte is `op`, when the word matches one of the rows of that opcode: the opcodes 0x90 to 0x9F. -/
def decodeAt9 (op : Nat) (w : Word) : Option Instr :=
  if op = 0x90 then
    if w &&& 0xE38E00 = 0x0 then some (.mlogic (fld w 18 3) (fld w 12 3) (fld w 6 3) (fld w 0 6)) else none
  else if op = 0x91 then
    if w &&& 0x38FFF = 0x0 then some (.mpopc (fld w 18 6) (fld w 12 3)) else none
  else if op = 0x92 then
    if w &&& 0x38FFF = 0x0 then some (.mtos (fld w 18 6) (fld w 12 3)) else none
  else if op = 0x93 then
    if w &&& 0xE00FFF = 0x0 then some (.stom (fld w 18 3) (fld w 12 6)) else none
  else if op = 0x94 then
    if w &&& 0x38FFF = 0x0 then some (.mfirst (fld w 18 6) (fld w 12 3)) else none
  else if op = 0x98 then
    if w &&& 0xFC0 = 0x0 then some (.ulane (fld w 18 6) (fld w 12 6) (fld w 0 6)) else none
  else none

/-- The instruction of a word whose opcode byte is `op`, when the word matches one of the rows of that opcode: the opcodes 0xA0 to 0xAF. -/
def decodeAtA (op : Nat) (w : Word) : Option Instr :=
  if op = 0xA0 then
    some (.uld32 (fld w 18 6) (fld w 12 6) (fld w 4 8) (fld w 0 4))
  else if op = 0xA1 then
    some (.uld64 (fld w 18 6) (fld w 12 6) (fld w 4 8) (fld w 0 4))
  else if op = 0xA2 then
    some (.ust32 (fld w 18 6) (fld w 12 6) (fld w 4 8) (fld w 0 4))
  else if op = 0xA3 then
    some (.ust64 (fld w 18 6) (fld w 12 6) (fld w 4 8) (fld w 0 4))
  else if op = 0xA8 then
    if w &&& 0xFFFFC0 = 0x0 then some (.rgrow (fld w 0 6)) else
    if w &&& 0x3FFC0 = 0x800 then some (.rgrowTry (fld w 18 6) (fld w 0 6)) else none
  else if op = 0xA9 then
    if w &&& 0xFFFFC0 = 0x0 then some (.rshrink (fld w 0 6)) else none
  else none

/-- The instruction of a word whose opcode byte is `op`, when the word matches one of the rows of that opcode: the opcodes 0xB0 to 0xBF. -/
def decodeAtB (op : Nat) (w : Word) : Option Instr :=
  if op = 0xB0 then
    if w &&& 0xFFF = 0x0 then some (.cpy (fld w 18 6) (fld w 12 6)) else none
  else if op = 0xB1 then
    if w &&& 0xFFF = 0x0 then some (.mmpost (fld w 18 6) (fld w 12 6)) else none
  else if op = 0xB2 then
    if w &&& 0xFFFFFF = 0x0 then some (.mmfence) else none
  else if op = 0xB3 then
    if w &&& 0xFC0FFF = 0x0 then some (.twait (fld w 12 6)) else none
  else if op = 0xB4 then
    if w &&& 0xFFF = 0x0 then some (.coll (fld w 18 6) (fld w 12 6)) else none
  else if op = 0xB5 then
    if w &&& 0xFFF000 = 0x0 then some (.stamp (fld w 0 12)) else none
  else if op = 0xB8 then
    if w &&& 0x3 = 0x0 then some (.smapRw (fld w 18 6) (fld w 12 6) (fld w 6 6) (fld w 2 4)) else
    if w &&& 0x3 = 0x1 then some (.smapRo (fld w 18 6) (fld w 12 6) (fld w 6 6) (fld w 2 4)) else
    if w &&& 0x3F03F = 0x2 then some (.smapScratch (fld w 18 6) (fld w 6 6)) else none
  else if op = 0xB9 then
    if w &&& 0xFC0FFF = 0x0 then some (.sunmap (fld w 12 6)) else none
  else if op = 0xBA then
    if w &&& 0xFC003F = 0x0 then some (.sflush (fld w 12 6) (fld w 6 6)) else none
  else if op = 0xBB then
    if w &&& 0xFC003F = 0x0 then some (.sinv (fld w 12 6) (fld w 6 6)) else none
  else if op = 0xBC then
    if w &&& 0xFC0 = 0x0 then some (.sstat (fld w 18 6) (fld w 12 6) (fld w 0 6)) else none
  else none

/-- The instruction of a word whose opcode byte is `op`, when the word matches one of the rows of that opcode: the opcodes 0xC0 to 0xCF. -/
def decodeAtC (op : Nat) (w : Word) : Option Instr :=
  if op = 0xC0 then
    if w &&& 0xFC0FC0 = 0x0 then some (.binit (fld w 12 6) (fld w 4 2) (fld w 0 4)) else none
  else if op = 0xC1 then
    if w &&& 0x3FFC0 = 0x0 then some (.barrive (fld w 18 6) (fld w 4 2) (fld w 0 4)) else none
  else if op = 0xC2 then
    if w &&& 0xFC0FC0 = 0x0 then some (.bwait (fld w 12 6) (fld w 4 2) (fld w 0 4)) else none
  else if op = 0xC3 then
    if w &&& 0xFFFFC0 = 0x0 then some (.bsync (fld w 4 2) (fld w 0 4)) else none
  else if op = 0xC4 then
    if w &&& 0xE00 = 0x0 then some (.bpay (fld w 18 6) (fld w 12 6) (fld w 6 3) (fld w 4 2) (fld w 0 4)) else none
  else if op = 0xC8 then
    if w &&& 0xFC0FF8 = 0x0 then some (.hcfg (fld w 12 6) (fld w 0 3)) else none
  else if op = 0xC9 then
    if w &&& 0xFC0FF8 = 0x0 then some (.href (fld w 12 6) (fld w 0 3)) else none
  else if op = 0xCA then
    if w &&& 0xFF8 = 0x0 then some (.hrd (fld w 18 6) (fld w 12 6) (fld w 0 3)) else none
  else if op = 0xCB then
    if w &&& 0xFC0FF8 = 0x0 then some (.harm (fld w 12 6) (fld w 0 3)) else none
  else if op = 0xCC then
    if w &&& 0x3FFF8 = 0x0 then some (.hchk (fld w 18 6) (fld w 0 3)) else none
  else none

/-- The instruction of a word whose opcode byte is `op`, when the word matches one of the rows of that opcode: the opcodes 0xD0 to 0xDF. -/
def decodeAtD (op : Nat) (w : Word) : Option Instr :=
  if op = 0xD0 then
    if w &&& 0x3F000 = 0x0 then some (.vstat (fld w 18 6) (fld w 0 12)) else none
  else if op = 0xD8 then
    if w &&& 0xFC0FFF = 0x0 then some (.nlaunch (fld w 12 6)) else none
  else if op = 0xD9 then
    if w &&& 0xFC0FFF = 0x0 then some (.sigw (fld w 12 6)) else none
  else none

/-- The instruction of a word whose opcode byte is `op`, when the word matches one of the rows of that opcode: the opcodes 0xE0 to 0xEF. -/
def decodeAtE (op : Nat) (w : Word) : Option Instr :=
  if op = 0xE0 then
    if w &&& 0xFFFFF0 = 0x0 then some (.trap (fld w 0 4)) else none
  else if op = 0xE1 then
    if w &&& 0xFFFFFF = 0x0 then some (.bkpt) else none
  else if op = 0xE2 then
    if w &&& 0xFFFFFF = 0x0 then some (.rett) else none
  else if op = 0xE3 then
    if w &&& 0x3F000 = 0x0 then some (.srd (fld w 18 6) (fld w 0 12)) else none
  else if op = 0xE4 then
    if w &&& 0xFC0000 = 0x0 then some (.swr (fld w 12 6) (fld w 0 12)) else none
  else if op = 0xE5 then
    if w &&& 0xFC0FF8 = 0x0 then some (.icinv (fld w 12 6) (fld w 0 3)) else
    if w &&& 0xFFFFF8 = 0x8 then some (.icinvAll (fld w 0 3)) else none
  else if op = 0xE6 then
    if w &&& 0xFFFFFF = 0x0 then some (.tlbinvAll) else
    if w &&& 0xFFF03F = 0x1 then some (.tlbinvAsid (fld w 6 6)) else
    if w &&& 0xFC003F = 0x2 then some (.tlbinvVa (fld w 12 6) (fld w 6 6)) else none
  else if op = 0xE8 then
    if w &&& 0xFC0 = 0x0 then some (.hlrd (fld w 18 6) (fld w 12 6) (fld w 0 6)) else none
  else if op = 0xE9 then
    some (.hlwr (fld w 18 6) (fld w 12 6) (fld w 6 6) (fld w 0 6))
  else none

/-- The instruction of a word whose opcode byte is `op`, when the word matches one of the rows of that opcode. -/
def decodeAt (op : Nat) (w : Word) : Option Instr :=
  if op / 16 = 0x0 then decodeAt0 op w
  else if op / 16 = 0x1 then decodeAt1 op w
  else if op / 16 = 0x2 then decodeAt2 op w
  else if op / 16 = 0x3 then decodeAt3 op w
  else if op / 16 = 0x4 then decodeAt4 op w
  else if op / 16 = 0x5 then decodeAt5 op w
  else if op / 16 = 0x6 then decodeAt6 op w
  else if op / 16 = 0x7 then decodeAt7 op w
  else if op / 16 = 0x8 then decodeAt8 op w
  else if op / 16 = 0x9 then decodeAt9 op w
  else if op / 16 = 0xA then decodeAtA op w
  else if op / 16 = 0xB then decodeAtB op w
  else if op / 16 = 0xC then decodeAtC op w
  else if op / 16 = 0xD then decodeAtD op w
  else if op / 16 = 0xE then decodeAtE op w
  else none

/-- For a word of a listed opcode that matches no row: the bits that must be zero in the variant that the word selects, or none when the opcode has no such variant: the opcodes 0x0 to 0xF. -/
def mbzOf0 (op : Nat) (w : Word) : Option Word :=
  if op = 0x0 then some 0x1
  else if op = 0x1 then some 0x1
  else if op = 0x2 then
    if w &&& 0x30 = 0x0 then some 0x1 else
    if w &&& 0x30 = 0x10 then some 0x1 else none
  else if op = 0x3 then some 0x1
  else if op = 0x4 then
    if w &&& 0x30 = 0x0 then some 0x1 else
    if w &&& 0x30 = 0x10 then some 0x1 else none
  else if op = 0x5 then some 0x1
  else if op = 0x6 then some 0xFC5
  else if op = 0x7 then some 0x1
  else if op = 0x8 then some 0x1
  else if op = 0x9 then some 0xFC5
  else if op = 0xA then some 0x1
  else if op = 0xB then some 0x39
  else if op = 0xC then some 0x1
  else if op = 0xD then some 0x1
  else if op = 0xE then
    if w &&& 0x30 = 0x0 then some 0xFC5 else
    if w &&& 0x38 = 0x10 then some 0xFC5 else none
  else if op = 0xF then some 0x0
  else none

/-- For a word of a listed opcode that matches no row: the bits that must be zero in the variant that the word selects, or none when the opcode has no such variant: the opcodes 0x10 to 0x1F. -/
def mbzOf1 (op : Nat) (_w : Word) : Option Word :=
  if op = 0x10 then some 0x0
  else if op = 0x11 then some 0x0
  else if op = 0x18 then some 0x1
  else if op = 0x19 then some 0x1
  else if op = 0x1A then some 0x1
  else if op = 0x1B then some 0x1
  else if op = 0x1C then some 0x1
  else if op = 0x1D then some 0xFC5
  else if op = 0x1E then some 0xFC5
  else if op = 0x1F then some 0xFC5
  else none

/-- For a word of a listed opcode that matches no row: the bits that must be zero in the variant that the word selects, or none when the opcode has no such variant: the opcodes 0x20 to 0x2F. -/
def mbzOf2 (op : Nat) (_w : Word) : Option Word :=
  if op = 0x20 then some 0x0
  else if op = 0x21 then some 0x1
  else if op = 0x22 then some 0xFC5
  else if op = 0x23 then some 0xFC5
  else if op = 0x24 then some 0x39
  else if op = 0x25 then some 0x39
  else if op = 0x26 then some 0x1
  else if op = 0x27 then some 0xFFD
  else if op = 0x28 then some 0x1
  else if op = 0x29 then some 0xFF0
  else if op = 0x2A then some 0xFFD
  else none

/-- For a word of a listed opcode that matches no row: the bits that must be zero in the variant that the word selects, or none when the opcode has no such variant: the opcodes 0x30 to 0x3F. -/
def mbzOf3 (op : Nat) (_w : Word) : Option Word :=
  if op = 0x30 then some 0x1
  else if op = 0x31 then some 0x1C0FFD
  else if op = 0x32 then some 0xFC5
  else if op = 0x33 then some 0xFC5
  else if op = 0x35 then some 0x1FFFFF
  else if op = 0x38 then some 0x3FFFC
  else if op = 0x39 then some 0x3FFFC
  else if op = 0x3A then some 0xF05
  else if op = 0x3B then some 0x300000
  else if op = 0x3C then some 0x300000
  else if op = 0x3D then some 0x3FF00
  else if op = 0x3E then some 0x3FFFC
  else if op = 0x3F then some 0x1FFFFC
  else none

/-- For a word of a listed opcode that matches no row: the bits that must be zero in the variant that the word selects, or none when the opcode has no such variant: the opcodes 0x40 to 0x4F. -/
def mbzOf4 (op : Nat) (_w : Word) : Option Word :=
  if op = 0x40 then some 0x0
  else if op = 0x41 then some 0x0
  else if op = 0x42 then some 0xFC0FFF
  else if op = 0x43 then some 0xFC0FFF
  else if op = 0x44 then some 0xFFFFFF
  else if op = 0x45 then some 0xFFF000
  else if op = 0x47 then some 0xFFFFFF
  else if op = 0x48 then some 0x0
  else if op = 0x49 then some 0xFFFFC0
  else if op = 0x4B then some 0xFFFFFF
  else none

/-- For a word of a listed opcode that matches no row: the bits that must be zero in the variant that the word selects, or none when the opcode has no such variant: the opcodes 0x50 to 0x5F. -/
def mbzOf5 (op : Nat) (_w : Word) : Option Word :=
  if op = 0x50 then some 0xFFF000
  else if op = 0x51 then some 0x0
  else if op = 0x52 then some 0xFC0039
  else if op = 0x53 then some 0xFFF000
  else if op = 0x54 then some 0xFC0FFF
  else if op = 0x55 then some 0xFC0FFF
  else if op = 0x56 then some 0xFFF
  else none

/-- For a word of a listed opcode that matches no row: the bits that must be zero in the variant that the word selects, or none when the opcode has no such variant: the opcodes 0x60 to 0x6F. -/
def mbzOf6 (op : Nat) (_w : Word) : Option Word :=
  if op = 0x60 then some 0x0
  else if op = 0x61 then some 0x0
  else if op = 0x62 then some 0x0
  else if op = 0x63 then some 0x0
  else if op = 0x64 then some 0x0
  else if op = 0x65 then some 0x0
  else if op = 0x66 then some 0x0
  else if op = 0x67 then some 0x0
  else if op = 0x68 then some 0x0
  else if op = 0x69 then some 0x0
  else if op = 0x6A then some 0x0
  else if op = 0x6B then some 0x0
  else if op = 0x6C then some 0x0
  else if op = 0x6D then some 0x0
  else if op = 0x6E then some 0xFC0000
  else if op = 0x6F then some 0x0
  else none

/-- For a word of a listed opcode that matches no row: the bits that must be zero in the variant that the word selects, or none when the opcode has no such variant: the opcodes 0x70 to 0x7F. -/
def mbzOf7 (op : Nat) (_w : Word) : Option Word :=
  if op = 0x70 then some 0xFFF010
  else if op = 0x71 then some 0xFFF000
  else if op = 0x7E then some 0x1FF
  else none

/-- For a word of a listed opcode that matches no row: the bits that must be zero in the variant that the word selects, or none when the opcode has no such variant: the opcodes 0x80 to 0x8F. -/
def mbzOf8 (op : Nat) (_w : Word) : Option Word :=
  if op = 0x80 then some 0x0
  else if op = 0x81 then some 0x0
  else if op = 0x82 then some 0x0
  else if op = 0x83 then some 0x0
  else if op = 0x84 then some 0x0
  else if op = 0x85 then some 0x0
  else if op = 0x86 then some 0xFC0
  else if op = 0x87 then some 0x0
  else if op = 0x88 then some 0xFC0
  else if op = 0x89 then some 0x0
  else if op = 0x8A then some 0x0
  else if op = 0x8B then some 0x0
  else none

/-- For a word of a listed opcode that matches no row: the bits that must be zero in the variant that the word selects, or none when the opcode has no such variant: the opcodes 0x90 to 0x9F. -/
def mbzOf9 (op : Nat) (_w : Word) : Option Word :=
  if op = 0x90 then some 0xE38E00
  else if op = 0x91 then some 0x38FFF
  else if op = 0x92 then some 0x38FFF
  else if op = 0x93 then some 0xE00FFF
  else if op = 0x94 then some 0x38FFF
  else if op = 0x98 then some 0xFC0
  else none

/-- For a word of a listed opcode that matches no row: the bits that must be zero in the variant that the word selects, or none when the opcode has no such variant: the opcodes 0xA0 to 0xAF. -/
def mbzOfA (op : Nat) (w : Word) : Option Word :=
  if op = 0xA0 then some 0x0
  else if op = 0xA1 then some 0x0
  else if op = 0xA2 then some 0x0
  else if op = 0xA3 then some 0x0
  else if op = 0xA8 then
    if w &&& 0x800 = 0x0 then some 0xFFF7C0 else
    if w &&& 0x800 = 0x800 then some 0x3F7C0 else none
  else if op = 0xA9 then some 0xFFFFC0
  else none

/-- For a word of a listed opcode that matches no row: the bits that must be zero in the variant that the word selects, or none when the opcode has no such variant: the opcodes 0xB0 to 0xBF. -/
def mbzOfB (op : Nat) (w : Word) : Option Word :=
  if op = 0xB0 then some 0xFFF
  else if op = 0xB1 then some 0xFFF
  else if op = 0xB2 then some 0xFFFFFF
  else if op = 0xB3 then some 0xFC0FFF
  else if op = 0xB4 then some 0xFFF
  else if op = 0xB5 then some 0xFFF000
  else if op = 0xB8 then
    if w &&& 0x3 = 0x0 then some 0x0 else
    if w &&& 0x3 = 0x1 then some 0x0 else
    if w &&& 0x3 = 0x2 then some 0x3F03C else none
  else if op = 0xB9 then some 0xFC0FFF
  else if op = 0xBA then some 0xFC003F
  else if op = 0xBB then some 0xFC003F
  else if op = 0xBC then some 0xFC0
  else none

/-- For a word of a listed opcode that matches no row: the bits that must be zero in the variant that the word selects, or none when the opcode has no such variant: the opcodes 0xC0 to 0xCF. -/
def mbzOfC (op : Nat) (_w : Word) : Option Word :=
  if op = 0xC0 then some 0xFC0FC0
  else if op = 0xC1 then some 0x3FFC0
  else if op = 0xC2 then some 0xFC0FC0
  else if op = 0xC3 then some 0xFFFFC0
  else if op = 0xC4 then some 0xE00
  else if op = 0xC8 then some 0xFC0FF8
  else if op = 0xC9 then some 0xFC0FF8
  else if op = 0xCA then some 0xFF8
  else if op = 0xCB then some 0xFC0FF8
  else if op = 0xCC then some 0x3FFF8
  else none

/-- For a word of a listed opcode that matches no row: the bits that must be zero in the variant that the word selects, or none when the opcode has no such variant: the opcodes 0xD0 to 0xDF. -/
def mbzOfD (op : Nat) (_w : Word) : Option Word :=
  if op = 0xD0 then some 0x3F000
  else if op = 0xD8 then some 0xFC0FFF
  else if op = 0xD9 then some 0xFC0FFF
  else none

/-- For a word of a listed opcode that matches no row: the bits that must be zero in the variant that the word selects, or none when the opcode has no such variant: the opcodes 0xE0 to 0xEF. -/
def mbzOfE (op : Nat) (w : Word) : Option Word :=
  if op = 0xE0 then some 0xFFFFF0
  else if op = 0xE1 then some 0xFFFFFF
  else if op = 0xE2 then some 0xFFFFFF
  else if op = 0xE3 then some 0x3F000
  else if op = 0xE4 then some 0xFC0000
  else if op = 0xE5 then
    if w &&& 0x8 = 0x0 then some 0xFC0FF0 else
    if w &&& 0x8 = 0x8 then some 0xFFFFF0 else none
  else if op = 0xE6 then
    if w &&& 0x3 = 0x0 then some 0xFFFFFC else
    if w &&& 0x3 = 0x1 then some 0xFFF03C else
    if w &&& 0x3 = 0x2 then some 0xFC003C else none
  else if op = 0xE8 then some 0xFC0
  else if op = 0xE9 then some 0x0
  else none

/-- For a word of a listed opcode that matches no row: the bits that must be zero in the variant that the word selects, or none when the
opcode has no such variant. Of an opcode whose one entry is `fn 0` (`bfi`, `lgmul`, `lgdot`, `smxa`, `tagget`, `ballot`, `elect`) `fn` is
taken as the unused field of an instruction without variants, MBZ_SET (R30), where R42 can be read as RESERVED_FN: DESIGN CHOICE
(assumption 90). -/
def mbzOf (op : Nat) (w : Word) : Option Word :=
  if op / 16 = 0x0 then mbzOf0 op w
  else if op / 16 = 0x1 then mbzOf1 op w
  else if op / 16 = 0x2 then mbzOf2 op w
  else if op / 16 = 0x3 then mbzOf3 op w
  else if op / 16 = 0x4 then mbzOf4 op w
  else if op / 16 = 0x5 then mbzOf5 op w
  else if op / 16 = 0x6 then mbzOf6 op w
  else if op / 16 = 0x7 then mbzOf7 op w
  else if op / 16 = 0x8 then mbzOf8 op w
  else if op / 16 = 0x9 then mbzOf9 op w
  else if op / 16 = 0xA then mbzOfA op w
  else if op / 16 = 0xB then mbzOfB op w
  else if op / 16 = 0xC then mbzOfC op w
  else if op / 16 = 0xD then mbzOfD op w
  else if op / 16 = 0xE then mbzOfE op w
  else none


/-- The opcode byte is one that R42 or R45 lists. -/
def opcodeListed (op : Nat) : Bool :=
  [0x0, 0x1, 0x2, 0x3, 0x4, 0x5, 0x6, 0x7, 0x8, 0x9, 0xA, 0xB, 0xC, 0xD, 0xE, 0xF, 0x10, 0x11, 0x18, 0x19, 0x1A, 0x1B, 0x1C, 0x1D, 0x1E, 0x1F, 0x20, 0x21, 0x22, 0x23, 0x24, 0x25, 0x26, 0x27, 0x28, 0x29, 0x2A, 0x30, 0x31, 0x32, 0x33, 0x35, 0x38, 0x39, 0x3A, 0x3B, 0x3C, 0x3D, 0x3E, 0x3F, 0x40, 0x41, 0x42, 0x43, 0x44, 0x45, 0x47, 0x48, 0x49, 0x4B, 0x50, 0x51, 0x52, 0x53, 0x54, 0x55, 0x56, 0x60, 0x61, 0x62, 0x63, 0x64, 0x65, 0x66, 0x67, 0x68, 0x69, 0x6A, 0x6B, 0x6C, 0x6D, 0x6E, 0x6F, 0x70, 0x71, 0x7E, 0x80, 0x81, 0x82, 0x83, 0x84, 0x85, 0x86, 0x87, 0x88, 0x89, 0x8A, 0x8B, 0x90, 0x91, 0x92, 0x93, 0x94, 0x98, 0xA0, 0xA1, 0xA2, 0xA3, 0xA8, 0xA9, 0xB0, 0xB1, 0xB2, 0xB3, 0xB4, 0xB5, 0xB8, 0xB9, 0xBA, 0xBB, 0xBC, 0xC0, 0xC1, 0xC2, 0xC3, 0xC4, 0xC8, 0xC9, 0xCA, 0xCB, 0xCC, 0xD0, 0xD8, 0xD9, 0xE0, 0xE1, 0xE2, 0xE3, 0xE4, 0xE5, 0xE6, 0xE8, 0xE9].contains op

/-- The fault of a word that decodes to no row, the first that applies in the order of R48. -/
def rejectOf (op : Nat) (w : Word) : DecodeError :=
  if op ≥ 0xF0 then .header
  else if !(opcodeListed op) then .illegalOpcode
  else match mbzOf op w with
    | none => .reservedFn
    | some m =>
      match decodeAt op (w &&& ~~~m) with
      | none => .mbzSet
      | some i => if encDefect i = some .reservedFn then .reservedFn else .mbzSet

/-- The instruction of a word, or the reason that it holds none. -/
def decode (w : Word) : Decoded :=
  match decodeAt (opcodeOf w) w with
  | some i => .ok i
  | none => .bad (rejectOf (opcodeOf w) w)

/-- The word of an instruction, field by field in the formats of R28; an event has none. -/
def encode : Instr → Option Word
  | .add d a b f h => some (0x0#8 ++ d ++ a ++ b ++ f ++ h ++ 0x0#1)
  | .sub d a b f h => some (0x1#8 ++ d ++ a ++ b ++ f ++ h ++ 0x0#1)
  | .mul d a b f h => some (0x2#8 ++ d ++ a ++ b ++ 0x0#2 ++ f ++ h ++ 0x0#1)
  | .mulh d a b f h => some (0x2#8 ++ d ++ a ++ b ++ 0x1#2 ++ f ++ h ++ 0x0#1)
  | .mad d a b f h => some (0x3#8 ++ d ++ a ++ b ++ f ++ h ++ 0x0#1)
  | .div d a b f h => some (0x4#8 ++ d ++ a ++ b ++ 0x0#2 ++ f ++ h ++ 0x0#1)
  | .rem d a b f h => some (0x4#8 ++ d ++ a ++ b ++ 0x1#2 ++ f ++ h ++ 0x0#1)
  | .minmax d a b f h => some (0x5#8 ++ d ++ a ++ b ++ f ++ h ++ 0x0#1)
  | .absneg d a f h => some (0x6#8 ++ d ++ a ++ 0x0#6 ++ f ++ 0x0#1 ++ h ++ 0x0#1)
  | .logic d a b f h => some (0x7#8 ++ d ++ a ++ b ++ f ++ h ++ 0x0#1)
  | .shift d a b f h => some (0x8#8 ++ d ++ a ++ b ++ f ++ h ++ 0x0#1)
  | .bits d a f h => some (0x9#8 ++ d ++ a ++ 0x0#6 ++ f ++ 0x0#1 ++ h ++ 0x0#1)
  | .bfx d a b f h => some (0xA#8 ++ d ++ a ++ b ++ f ++ h ++ 0x0#1)
  | .bfi d a b h => some (0xB#8 ++ d ++ a ++ b ++ 0x0#3 ++ h ++ 0x0#1)
  | .cmp m c a b f h => some (0xC#8 ++ m ++ c ++ a ++ b ++ f ++ h ++ 0x0#1)
  | .sel d a b f h => some (0xD#8 ++ d ++ a ++ b ++ f ++ h ++ 0x0#1)
  | .mov d a f h => some (0xE#8 ++ d ++ a ++ 0x0#8 ++ f ++ 0x0#1 ++ h ++ 0x0#1)
  | .movs d a h => some (0xE#8 ++ d ++ a ++ 0x4#10 ++ h ++ 0x0#1)
  | .li d i => some (0xF#8 ++ d ++ i)
  | .lih d i => some (0x10#8 ++ d ++ i)
  | .addi d a i => some (0x11#8 ++ d ++ a ++ i)
  | .fadd d a b f h => some (0x18#8 ++ d ++ a ++ b ++ f ++ h ++ 0x0#1)
  | .fsub d a b f h => some (0x19#8 ++ d ++ a ++ b ++ f ++ h ++ 0x0#1)
  | .fmul d a b f h => some (0x1A#8 ++ d ++ a ++ b ++ f ++ h ++ 0x0#1)
  | .fma d a b f h => some (0x1B#8 ++ d ++ a ++ b ++ f ++ h ++ 0x0#1)
  | .fminmax d a b f h => some (0x1C#8 ++ d ++ a ++ b ++ f ++ h ++ 0x0#1)
  | .fabsneg d a f h => some (0x1D#8 ++ d ++ a ++ 0x0#6 ++ f ++ 0x0#1 ++ h ++ 0x0#1)
  | .fclass d a f h => some (0x1E#8 ++ d ++ a ++ 0x0#6 ++ f ++ 0x0#1 ++ h ++ 0x0#1)
  | .frnd d a f h => some (0x1F#8 ++ d ++ a ++ 0x0#6 ++ f ++ 0x0#1 ++ h ++ 0x0#1)
  | .cvt d a f t => some (0x20#8 ++ d ++ a ++ f ++ t)
  | .fdiv d a b f h => some (0x21#8 ++ d ++ a ++ b ++ f ++ h ++ 0x0#1)
  | .sfu d a f h => some (0x22#8 ++ d ++ a ++ 0x0#6 ++ f ++ 0x0#1 ++ h ++ 0x0#1)
  | .sfd d a f h => some (0x23#8 ++ d ++ a ++ 0x0#6 ++ f ++ 0x0#1 ++ h ++ 0x0#1)
  | .lgmul d a b h => some (0x24#8 ++ d ++ a ++ b ++ 0x0#3 ++ h ++ 0x0#1)
  | .lgdot d a b h => some (0x25#8 ++ d ++ a ++ b ++ 0x0#3 ++ h ++ 0x0#1)
  | .fscl d a b f h => some (0x26#8 ++ d ++ a ++ b ++ f ++ h ++ 0x0#1)
  | .smxa d a h => some (0x27#8 ++ d ++ a ++ 0x0#10 ++ h ++ 0x0#1)
  | .smxb d a b f h => some (0x28#8 ++ d ++ a ++ b ++ f ++ h ++ 0x0#1)
  | .tagset d a t => some (0x29#8 ++ d ++ a ++ 0x0#8 ++ t)
  | .tagget d a h => some (0x2A#8 ++ d ++ a ++ 0x0#10 ++ h ++ 0x0#1)
  | .shfl d a b f h => some (0x30#8 ++ d ++ a ++ b ++ f ++ h ++ 0x0#1)
  | .ballot m a h => some (0x31#8 ++ m ++ 0x0#3 ++ a ++ 0x0#10 ++ h ++ 0x0#1)
  | .red d a f h => some (0x32#8 ++ d ++ a ++ 0x0#6 ++ f ++ 0x0#1 ++ h ++ 0x0#1)
  | .scan d a f h => some (0x33#8 ++ d ++ a ++ 0x0#6 ++ f ++ 0x0#1 ++ h ++ 0x0#1)
  | .elect m => some (0x35#8 ++ m ++ 0x0#21)
  | .lvidx d k => some (0x38#8 ++ d ++ 0x0#16 ++ k)
  | .lvext d k => some (0x39#8 ++ d ++ 0x0#16 ++ k)
  | .lvred d a k f h => some (0x3A#8 ++ d ++ a ++ 0x0#4 ++ k ++ f ++ 0x0#1 ++ h ++ 0x0#1)
  | .lvbar k o => some (0x3B#8 ++ k ++ 0x0#2 ++ o)
  | .lvend k o => some (0x3C#8 ++ k ++ 0x0#2 ++ o)
  | .lvshare d n => some (0x3D#8 ++ d ++ 0x0#10 ++ n)
  | .lvcarry d k => some (0x3E#8 ++ d ++ 0x0#16 ++ k)
  | .lvlead m k => some (0x3F#8 ++ m ++ 0x0#19 ++ k)
  | .br m s o => some (0x40#8 ++ m ++ s ++ o)
  | .call m s o => some (0x41#8 ++ m ++ s ++ o)
  | .jmp a => some (0x1080#14 ++ a ++ 0x0#12)
  | .callr a => some (0x10C0#14 ++ a ++ 0x0#12)
  | .ret => some (0x44000000#32)
  | .enter o n => some (0x45000#20 ++ o ++ n)
  | .exit => some (0x47000000#32)
  | .brw m s o => some (0x48#8 ++ m ++ s ++ o)
  | .yield h => some (0x1240000#26 ++ h)
  | .nop => some (0x4B000000#32)
  | .mark t => some (0x50000#20 ++ t)
  | .cut d a t => some (0x51#8 ++ d ++ a ++ t)
  | .graft a b h => some (0x1480#14 ++ a ++ b ++ 0x0#3 ++ h ++ 0x0#1)
  | .unmark t => some (0x53000#20 ++ t)
  | .slshare a => some (0x1500#14 ++ a ++ 0x0#12)
  | .slfree a => some (0x1540#14 ++ a ++ 0x0#12)
  | .slinfo d a => some (0x56#8 ++ d ++ a ++ 0x0#12)
  | .ld8s d a o q => some (0x60#8 ++ d ++ a ++ o ++ q)
  | .ld8z d a o q => some (0x61#8 ++ d ++ a ++ o ++ q)
  | .ld16s d a o q => some (0x62#8 ++ d ++ a ++ o ++ q)
  | .ld16z d a o q => some (0x63#8 ++ d ++ a ++ o ++ q)
  | .ld32 d a o q => some (0x64#8 ++ d ++ a ++ o ++ q)
  | .ld64 d a o q => some (0x65#8 ++ d ++ a ++ o ++ q)
  | .ld128 d a o q => some (0x66#8 ++ d ++ a ++ o ++ q)
  | .st8 d a o q => some (0x67#8 ++ d ++ a ++ o ++ q)
  | .st16 d a o q => some (0x68#8 ++ d ++ a ++ o ++ q)
  | .st32 d a o q => some (0x69#8 ++ d ++ a ++ o ++ q)
  | .st64 d a o q => some (0x6A#8 ++ d ++ a ++ o ++ q)
  | .st128 d a o q => some (0x6B#8 ++ d ++ a ++ o ++ q)
  | .atom d a p t q => some (0x6C#8 ++ d ++ a ++ p ++ t ++ q)
  | .atomr d a p t q => some (0x6D#8 ++ d ++ a ++ p ++ t ++ q)
  | .prefetch a o q => some (0x1B80#14 ++ a ++ o ++ q)
  | .await d a o q => some (0x6F#8 ++ d ++ a ++ o ++ q)
  | .fence s k l q => some (0x70000#20 ++ s ++ k ++ l ++ 0x0#1 ++ q)
  | .xfence s b c => some (0x71000#20 ++ s ++ b ++ c)
  | .prefixWord c m e z r s => some (0x7E#8 ++ c ++ m ++ e ++ z ++ r ++ s ++ 0x0#9)
  | .uadd d a b f => some (0x80#8 ++ d ++ a ++ b ++ f)
  | .usub d a b f => some (0x81#8 ++ d ++ a ++ b ++ f)
  | .umul d a b f => some (0x82#8 ++ d ++ a ++ b ++ f)
  | .uminmax d a b f => some (0x83#8 ++ d ++ a ++ b ++ f)
  | .ulogic d a b f => some (0x84#8 ++ d ++ a ++ b ++ f)
  | .ushift d a b f => some (0x85#8 ++ d ++ a ++ b ++ f)
  | .ubits d a f => some (0x86#8 ++ d ++ a ++ 0x0#6 ++ f)
  | .ucmp d a b c t => some (0x87#8 ++ d ++ a ++ b ++ c ++ t)
  | .umov d a f => some (0x88#8 ++ d ++ a ++ 0x0#6 ++ f)
  | .uli d i => some (0x89#8 ++ d ++ i)
  | .ulih d i => some (0x8A#8 ++ d ++ i)
  | .uaddi d a i => some (0x8B#8 ++ d ++ a ++ i)
  | .mlogic d a b f => some (0x480#11 ++ d ++ 0x0#3 ++ a ++ 0x0#3 ++ b ++ f)
  | .mpopc d a => some (0x91#8 ++ d ++ 0x0#3 ++ a ++ 0x0#12)
  | .mtos d a => some (0x92#8 ++ d ++ 0x0#3 ++ a ++ 0x0#12)
  | .stom d a => some (0x498#11 ++ d ++ a ++ 0x0#12)
  | .mfirst d a => some (0x94#8 ++ d ++ 0x0#3 ++ a ++ 0x0#12)
  | .ulane d a n => some (0x98#8 ++ d ++ a ++ 0x0#6 ++ n)
  | .uld32 d a o q => some (0xA0#8 ++ d ++ a ++ o ++ q)
  | .uld64 d a o q => some (0xA1#8 ++ d ++ a ++ o ++ q)
  | .ust32 d a o q => some (0xA2#8 ++ d ++ a ++ o ++ q)
  | .ust64 d a o q => some (0xA3#8 ++ d ++ a ++ o ++ q)
  | .rgrow n => some (0x2A00000#26 ++ n)
  | .rgrowTry d n => some (0xA8#8 ++ d ++ 0x20#12 ++ n)
  | .rshrink n => some (0x2A40000#26 ++ n)
  | .cpy d a => some (0xB0#8 ++ d ++ a ++ 0x0#12)
  | .mmpost d a => some (0xB1#8 ++ d ++ a ++ 0x0#12)
  | .mmfence => some (0xB2000000#32)
  | .twait a => some (0x2CC0#14 ++ a ++ 0x0#12)
  | .coll d a => some (0xB4#8 ++ d ++ a ++ 0x0#12)
  | .stamp c => some (0xB5000#20 ++ c)
  | .smapRw d a b q => some (0xB8#8 ++ d ++ a ++ b ++ q ++ 0x0#2)
  | .smapRo d a b q => some (0xB8#8 ++ d ++ a ++ b ++ q ++ 0x1#2)
  | .smapScratch d b => some (0xB8#8 ++ d ++ 0x0#6 ++ b ++ 0x2#6)
  | .sunmap a => some (0x2E40#14 ++ a ++ 0x0#12)
  | .sflush a b => some (0x2E80#14 ++ a ++ b ++ 0x0#6)
  | .sinv a b => some (0x2EC0#14 ++ a ++ b ++ 0x0#6)
  | .sstat d a s => some (0xBC#8 ++ d ++ a ++ 0x0#6 ++ s)
  | .binit a l n => some (0x3000#14 ++ a ++ 0x0#6 ++ l ++ n)
  | .barrive d l n => some (0xC1#8 ++ d ++ 0x0#12 ++ l ++ n)
  | .bwait a l n => some (0x3080#14 ++ a ++ 0x0#6 ++ l ++ n)
  | .bsync l n => some (0x30C0000#26 ++ l ++ n)
  | .bpay d a p l n => some (0xC4#8 ++ d ++ a ++ 0x0#3 ++ p ++ l ++ n)
  | .hcfg a m => some (0x3200#14 ++ a ++ 0x0#9 ++ m)
  | .href a m => some (0x3240#14 ++ a ++ 0x0#9 ++ m)
  | .hrd d a m => some (0xCA#8 ++ d ++ a ++ 0x0#9 ++ m)
  | .harm a m => some (0x32C0#14 ++ a ++ 0x0#9 ++ m)
  | .hchk d m => some (0xCC#8 ++ d ++ 0x0#15 ++ m)
  | .vstat d s => some (0xD0#8 ++ d ++ 0x0#6 ++ s)
  | .nlaunch a => some (0x3600#14 ++ a ++ 0x0#12)
  | .sigw a => some (0x3640#14 ++ a ++ 0x0#12)
  | .trap n => some (0xE000000#28 ++ n)
  | .bkpt => some (0xE1000000#32)
  | .rett => some (0xE2000000#32)
  | .srd d r => some (0xE3#8 ++ d ++ 0x0#6 ++ r)
  | .swr a r => some (0x3900#14 ++ a ++ r)
  | .icinv a s => some (0x3940#14 ++ a ++ 0x0#9 ++ s)
  | .icinvAll s => some (0x1CA00001#29 ++ s)
  | .tlbinvAll => some (0xE6000000#32)
  | .tlbinvAsid b => some (0xE6000#20 ++ b ++ 0x1#6)
  | .tlbinvVa a b => some (0x3980#14 ++ a ++ b ++ 0x2#6)
  | .hlrd d a c => some (0xE8#8 ++ d ++ a ++ 0x0#6 ++ c)
  | .hlwr d a b c => some (0xE9#8 ++ d ++ a ++ b ++ c)
  | .fstatWrite _ _ _ => none
  | .bstatWrite _ _ => none
  | .tagmodeWrite _ _ => none
  | .leashWrite _ _ => none
  | .streamcfgWrite _ _ _ => none
  | .hentryWrite _ _ => none
  | .injectWrite _ _ => none
  | .completionFlagClear _ _ => none
  | .leashRotate _ => none
  | .leashTurnEnd _ => none
  | .rgrowGrant _ _ => none
  | .memoryAccessPerformed _ _ _ => none
  | .awaitReread _ _ => none
  | .stashFillArrives _ _ _ => none
  | .stashRecall _ _ _ _ => none
  | .stashWritebackAck _ _ _ => none
  | .stashWritebackTimeout _ _ _ => none
  | .uncorrectableError _ _ _ => none
  | .engineCommandQueued _ => none
  | .copyStart _ => none
  | .copyDone _ => none
  | .matrixTurn _ => none
  | .matrixDone _ => none
  | .collectiveDone _ _ _ => none
  | .teamPlaced _ _ => none
  | .teamPublish _ => none
  | .teamKill _ _ => none
  | .pageWalkComplete _ _ _ => none
  | .pageFaultRecordPost _ => none
  | .resumeReplay _ _ => none
  | .resumeDeliver _ _ => none
  | .tlbreqAll => none
  | .tlbreqAsid _ => none
  | .tlbreqVa _ _ => none
  | .handlerEventStart _ => none
  | .step _ => none
  | .whistleRaise _ _ => none
  | .whistleDeadline _ _ => none
  | .contextSaveDone _ _ => none
  | .kennelEvict _ _ => none
  | .kennelStage _ _ _ => none
  | .contextResume _ _ _ => none
  | .restoreDone _ _ _ => none
  | .doorbell _ => none
  | .kickService _ => none
  | .launch _ => none
  | .barrierAnd _ => none
  | .barrierOr _ => none
  | .signal _ => none
  | .nopPacket _ => none
  | .signalRescan => none
  | .createContext => none
  | .destroyContext => none
  | .createQueue => none
  | .startQueue => none
  | .suspendQueue => none
  | .destroyQueue => none
  | .grant => none
  | .usage => none
  | .loadUpdate => none
  | .roleExchange => none
  | .shepherdTakeover => none
  | .linkEnable _ => none
  | .linkReset _ => none
  | .linkRetrain _ => none
  | .linkTrained _ _ _ => none
  | .trainingTimeout _ => none
  | .laneFail _ _ => none
  | .flitRetry _ _ => none
  | .linkFence _ => none
  | .remoteTimeout _ => none
  | .remoteRequest _ _ _ _ _ _ _ _ => none
  | .ethDoorbell _ _ _ => none
  | .ethCompletion _ _ _ _ _ => none
  | .ethFrameReceive _ _ _ _ _ => none
  | .boot => none
  | .fusereq _ => none
  | .attest => none
  | .debugHalt => none
  | .debugResume => none
  | .sitterExpiry => none
  | .powerSample _ => none
  | .thermalLimit _ => none
  | .registerWrite _ _ => none
  | .illegalOpcode => none
  | .pcieHostAccess _ _ _ _ _ => none
  | .systemCoreAccess _ _ _ _ _ _ _ => none
  | .ethLinkChange _ _ => none

/-- The instruction that the decoder reads from a word given as a number: one 32-bit word, stored little-endian (R6). -/
def decodeTableWord (nbits w : Nat) : Option Instr :=
  match decode (BitVec.ofNat 32 (w % 2 ^ nbits)) with
  | .ok i => some i
  | .bad _ => none

end Sys2Proof
end

