-- ==== Sys2Proof/Machine/Frame.lean ====
section
/-! DEFINITION. The frame engine (R97 to R101): frames and their places, spill and fill, headers, and the growth and shrinking
of the register ring (R112). -/
namespace Sys2Proof.Machine

/-! ### Frames -/

/-- S of R98 for a frame with `k` save slots. -/
def saveSize (k : Nat) : Nat := alignUp (4 * k + (k + 1) / 2) 16

/-- The base of a frame's save area: A of R98. -/
def Frame.area (f : Frame) : DWord := f.fp - BitVec.ofNat 64 (64 + saveSize (f.n - f.o))

/-- Frames with their ring bases, from the current frame out. -/
def frameBases : List Frame → Nat → List (Frame × Nat)
  | [], _ => []
  | f :: fs, b => (f, b) :: frameBases fs (b + f.o - f.nc)

/-- The frames of a thread with their ring bases (R97); the caller of an unentered frame stands first. -/
def Thread.placed (t : Thread) : List (Frame × Nat) :=
  frameBases t.frames (if t.entered then t.base else t.base - t.nc)

/-- The frame that owns a ring register: overlapped registers belong to the caller (R100). -/
def Thread.ownerOf (t : Thread) (i : Nat) : Option (Frame × Nat) :=
  t.placed.find? (fun p => p.2 + p.1.o ≤ i && i < p.2 + p.1.n)

/-- The header of a frame as the frame engine writes it (R99). -/
def Frame.header (f : Frame) : List Byte :=
  bytesOf 8 f.cfp.toNat ++ bytesOf 8 f.csp.toNat ++ bytesOf 8 f.rpc.toNat ++ bytesOf 8 (f.n + f.o * 64 + f.nc * 4096)
    ++ List.replicate 32 0

/-! ### Accesses of the frame engine (R100) -/

/-- How the frame engine ends. -/
inductive EngineEnd where
  | ok
  | wait (t : Option Target)
  | trap (i : TrapInfo)
  | lost
  deriving DecidableEq, Repr

/-- A fault of the frame engine: FRAME_FAULT, but an absent page attaches (R331) and a watchpoint parks (R367). -/
def frameTrap (i : TrapInfo) : TrapInfo :=
  if i.cause == causePage || i.cause == causeWatchpoint then i else { i with cause := causeFrameFault }

/-- The end of an access as the frame engine sees it. -/
def Now.engine : Now → EngineEnd
  | .ok _ => .ok
  | .wait t => .wait (some t)
  | .trap i => .trap (frameTrap i)
  | .lost => .lost

/-- The bytes that an access gave. -/
def Now.bytes : Now → List Byte
  | .ok bs => bs
  | _ => []

/-- Store bytes for a thread as the frame engine. -/
def State.engineStore (s : State) (b l : Nat) (va : DWord) (bs : List Byte) : State × EngineEnd :=
  let (s, r) := s.storeNow b l 0 (laneBit l) none va bs .engineWrite
  (s, r.engine)

/-- Load bytes for a thread as the frame engine. -/
def State.engineLoad (s : State) (b l : Nat) (va : DWord) (n : Nat) : State × EngineEnd × List Byte :=
  let (s, r) := s.loadNow b l 0 (laneBit l) none va n .engineRead
  (s, r.engine, r.bytes)

/-- Store bytes in pieces of 8 (R284 and headers). -/
def State.engineStoreAll (s : State) (b l : Nat) (va : DWord) : List (List Byte) → State × EngineEnd
  | [] => (s, .ok)
  | p :: ps =>
    match s.engineStore b l va p with
    | (s, .ok) => s.engineStoreAll b l (va + BitVec.ofNat 64 p.length) ps
    | r => r

/-- Cut bytes into pieces of 8. -/
def pieces8 (bs : List Byte) : List (List Byte) :=
  (List.range ((bs.length + 7) / 8)).map (fun i => (bs.drop (8 * i)).take 8)

/-- Write one save slot of a frame: the register, and its tag in its nibble (R98). -/
def State.storeSlot (s : State) (b l : Nat) (f : Frame) (j : Nat) (r : Reg) : State × EngineEnd :=
  let tagAt := f.area + BitVec.ofNat 64 (4 * (f.n - f.o) + j / 2)
  match s.engineStore b l (f.area + BitVec.ofNat 64 (4 * j)) (bytesOf 4 r.val.toNat) with
  | (s, .ok) =>
    let (s, r0) := s.loadNow b l 0 (laneBit l) none tagAt 1 .engineWrite
    (match r0 with
    | .ok bs =>
      let old := bs.headD 0
      let byte : Byte := if j % 2 = 0 then (old &&& 0xF0) ||| r.tag.code.setWidth 8 else (old &&& 0x0F) ||| (r.tag.code.setWidth 8 <<< 4)
      s.engineStore b l tagAt [byte]
    | e => (s, e.engine))
  | e => e

/-- The tag of a nibble that a fill reads back: 0xA to 0xD give RAW (R100). -/
def Tag.ofNibble (n : Nat) : Tag :=
  if n = 0xE then .pend else if n = 0xF then .empty else if n ≥ 0xA then .raw else Tag.ofCode n

/-- A register as a fill restores it: an EMPTY one holds zeros (R79, R100). -/
def Reg.ofSlot (v : Nat) (t : Tag) : Reg := if t == .empty then Reg.fresh else ⟨BitVec.ofNat 32 v, t⟩

/-- Read one save slot of a frame. -/
def State.loadSlot (s : State) (b l : Nat) (f : Frame) (j : Nat) : State × EngineEnd × Reg :=
  match s.engineLoad b l (f.area + BitVec.ofNat 64 (4 * j)) 4 with
  | (s, .ok, bs) =>
    (match s.engineLoad b l (f.area + BitVec.ofNat 64 (4 * (f.n - f.o) + j / 2)) 1 with
    | (s, .ok, ts) =>
      let t := (ts.headD 0).toNat
      (s, .ok, Reg.ofSlot (ofBytes bs) (Tag.ofNibble (if j % 2 = 0 then t % 16 else t / 16)))
    | (s, e, _) => (s, e, Reg.fresh))
  | (s, e, _) => (s, e, Reg.fresh)

/-- A ring register that cannot be spilled yet: a matrix post that is not DONE holds it (R100), or a long-latency write of it
is outstanding. -/
def State.ringBusy (s : State) (b l i : Nat) : Bool :=
  ((s.thread b l).bound.any (fun x => x.idx == i && !x.done)) || ((s.bundle b).lateFor l (8 + i)).isSome

/-- A ring register loses the entries of matrix posts that a test selects. When the last entry for an accumulator goes, the
register holds the write made meanwhile or the engine's result (R78). -/
def Thread.unbind (t : Thread) (tick l : Nat) (gone : Bound → Bool) : Thread :=
  let keep := t.bound.filter (fun y => !gone y)
  let lost := t.bound.filter (fun y => gone y && y.acc && !keep.any (fun z => z.acc && z.idx == y.idx))
  lost.foldl (fun t y => match y.alt with
    | some r => if Config.freeBool tick l y.idx then t.ringSet y.idx r else t
    | none => t) { t with bound := keep }

/-- A spill ends the binding of a ring register by posts that are DONE and not observed. -/
def State.resolveBound (s : State) (b l i : Nat) : State :=
  s.modThread b l (fun t => t.unbind s.ticks l (fun y => y.idx == i))

/-- The ring register is resident (R100). -/
def Thread.resident (t : Thread) (i : Nat) : Bool := t.lo ≤ i && !t.holes.contains i

/-- Store a resident ring register of a thread in its frame's save slot (R100). -/
def State.saveRing (s : State) (b l i : Nat) : State × EngineEnd :=
  if s.ringBusy b l i then (s, .wait none) else
  let s := s.resolveBound b l i
  let t := s.thread b l
  match t.ownerOf i with
  | none => (s, .ok)
  | some (f, fb) => s.storeSlot b l f (i - fb - f.o) (t.ringGet i)

/-- The ring without its lowest register, whose place is EMPTY (assumption 75). -/
def Thread.dropLowest (t : Thread) : Thread :=
  { (if t.holes.contains t.lo then t else t.ringSet t.lo Reg.fresh) with lo := t.lo + 1, holes := t.holes.filter (fun i => t.lo < i) }

/-- Spill the lowest resident register of a thread (R100). -/
def State.spillOne (s : State) (b l : Nat) : State × EngineEnd :=
  let t := s.thread b l
  match (if t.resident t.lo then s.saveRing b l t.lo else (s, .ok)) with
  | (s, .ok) => (s.modThread b l Thread.dropLowest, .ok)
  | r => r

/-- Store resident registers in their save slots; they stay resident (R286). -/
def State.saveRings (s : State) (b l : Nat) : List Nat → State × EngineEnd
  | [] => (s, .ok)
  | i :: is =>
    if (s.thread b l).resident i then
      match s.saveRing b l i with
      | (s, .ok) => s.saveRings b l is
      | r => r
    else s.saveRings b l is

/-- Spill until the registers from `lo` on are resident alone: at most `n` moves. -/
def State.spillTo (s : State) (b l lo : Nat) : Nat → State × EngineEnd
  | 0 => (s, .ok)
  | n + 1 =>
    if lo ≤ (s.thread b l).lo then (s, .ok)
    else match s.spillOne b l with
      | (s, .ok) => s.spillTo b l lo n
      | r => r

/-- Read back ring registers of a thread, without placing them. -/
def State.fillValues (s : State) (b l : Nat) : List Nat → State × EngineEnd × List (Nat × Reg)
  | [] => (s, .ok, [])
  | i :: is =>
    match (s.thread b l).ownerOf i with
    | none => (match s.fillValues b l is with
      | (s, e, rs) => (s, e, (i, Reg.fresh) :: rs))
    | some (f, fb) =>
      match s.loadSlot b l f (i - fb - f.o) with
      | (s, .ok, r) => (match s.fillValues b l is with
        | (s, e, rs) => (s, e, (i, r) :: rs))
      | (s, e, _) => (s, e, [])

/-- Place filled registers of a window that begins at ring register `lo`, which becomes the current one. -/
def Thread.placeFill (t : Thread) (rs : List (Nat × Reg)) (lo : Nat) : Thread :=
  { rs.foldl (fun t r => t.ringSet r.1 r.2) t with lo := min t.lo lo, holes := t.holes.filter (fun i => i < lo) }

/-! ### `ret`'s view of the header (R99) -/

/-- A byte of a thread's memory on q0 as it stands, where the address can be read without a fault. -/
def State.peekByte (s : State) (b l : Nat) (va : DWord) : Option Byte :=
  let x := s.bundle b
  let ver := s.streamVer b 0
  let window := x.team.bind (fun t => ((s.team t).windowAt va).map (fun w => (t, w)))
  match window with
  | some (t, w) =>
    if vaPrivate va then (s.scratchRead t w.num (va.toNat - w.base.toNat) 1).head?
    else (w.line ((va.toNat - w.base.toNat) / 128)).map (fun y => lineGet y.data (va.toNat % 128))
  | none =>
    if !vaValid va || vaPrivate va then none else
    match s.peekXlate x.coreNo x.asid va with
    | some pa =>
      if s.isLocal pa && paOffset pa < lpddrEnd then
        let off := paOffset pa
        let own := (List.range 16).findSome? (fun q => (s.thread b l).ownByte q (s.streamVer b q) off)
        some (own.getD (s.homeByte ver off))
      else none
    | none => none

/-- An 8-byte field of a header as memory holds it, if it can be read. -/
def State.peekField (s : State) (b l : Nat) (va : DWord) : Option DWord :=
  let bs := (List.range 8).map (fun i => s.peekByte b l (va + BitVec.ofNat 64 i))
  if bs.all (·.isSome) then some (BitVec.ofNat 64 (ofBytes (bs.map (·.getD 0)))) else none

/-- One field of the header that a `ret` uses (R99): the frame engine's, or the stored one where the program has stored to
it; either is chosen. -/
def State.headerField (s : State) (b l : Nat) (f : Frame) (k : Nat) (own : DWord) : DWord :=
  match s.peekField b l (f.fp - 64 + BitVec.ofNat 64 (8 * k)) with
  | some v => if v != own && Config.freeBool s.ticks l (1000 + k) then v else own
  | none => own

/-- The header that a `ret` uses. In the initial frame, whose header is in the frame engine alone, it is the engine's (R84). -/
def State.retHeader (s : State) (b l : Nat) (f : Frame) (initial : Bool) : Frame :=
  if initial then f else
  let win := s.headerField b l f 3 (BitVec.ofNat 64 (f.n + f.o * 64 + f.nc * 4096))
  { f with
    cfp := s.headerField b l f 0 f.cfp
    csp := s.headerField b l f 1 f.csp
    rpc := s.headerField b l f 2 f.rpc
    n := (win.extractLsb' 0 6).toNat
    o := (win.extractLsb' 6 6).toNat
    nc := (win.extractLsb' 12 6).toNat }

/-! ### Delimiters (R277, R278) -/

/-- A delimiter: its address and its fields PREV, MFP and TAGW (R277). -/
structure Delim where
  at_ : DWord
  prev : DWord
  mfp : DWord
  tagw : DWord
  deriving DecidableEq, Repr

/-- PREV leaves frame memory (R278). -/
def Thread.badPrev (t : Thread) (p : DWord) : Bool :=
  p != 0 && (p.toNat % 16 != 0 || p.toNat < t.fbase.toNat || t.flimit.toNat ≤ p.toNat)

/-- Read PREV and MFP of a delimiter (R278): a damaged PREV traps. -/
def State.readLink (s : State) (b l : Nat) (a : DWord) : State × EngineEnd × Delim :=
  match s.engineLoad b l a 8 with
  | (s, .ok, p) =>
    (match s.engineLoad b l (a + 8) 8 with
    | (s, .ok, f) =>
      let d : Delim := ⟨a, BitVec.ofNat 64 (ofBytes p), BitVec.ofNat 64 (ofBytes f), 0⟩
      (s, if (s.thread b l).badPrev d.prev then .trap (TrapInfo.of causeSliceDamaged) else .ok, d)
    | (s, e, _) => (s, e, ⟨a, 0, 0, 0⟩))
  | (s, e, _) => (s, e, ⟨a, 0, 0, 0⟩)

/-- Read a delimiter whole, where a tag is looked for (R278). -/
def State.readDelim (s : State) (b l : Nat) (a : DWord) : State × EngineEnd × Delim :=
  match s.readLink b l a with
  | (s, .ok, d) =>
    (match s.engineLoad b l (a + 16) 8 with
    | (s, e, g) => (s, e, { d with tagw := BitVec.ofNat 64 (ofBytes g) }))
  | r => r

/-- More delimiters than a thread's frame memory has room for: a chain as long as that never ends. -/
def Thread.delimFuel (t : Thread) : Nat := (t.flimit.toNat - t.fbase.toNat) / 16 + 1

/-- Drop the delimiters at the top of the chain with MFP at or above `f` (R278): the new MARKTOP. -/
def State.dropMarks (s : State) (b l : Nat) (f : DWord) : Nat → DWord → State × EngineEnd × DWord
  | 0, a => (s, .trap (TrapInfo.of causeSliceDamaged), a)
  | n + 1, a =>
    if a == 0 then (s, .ok, 0) else
    match s.readLink b l a with
    | (s, .ok, d) => if f.toNat ≤ d.mfp.toNat then s.dropMarks b l f n d.prev else (s, .ok, a)
    | (s, e, _) => (s, e, a)

/-- The chain of delimiters from an address down to the first with the tag, that one last; or the whole chain. -/
def State.chainTo (s : State) (b l : Nat) (tag : DWord) : Nat → DWord → State × EngineEnd × List Delim
  | 0, _ => (s, .trap (TrapInfo.of causeSliceDamaged), [])
  | n + 1, a =>
    if a == 0 then (s, .ok, []) else
    match s.readDelim b l a with
    | (s, .ok, d) =>
      if d.tagw == tag then (s, .ok, [d])
      else (match s.chainTo b l tag n d.prev with
        | (s, e, ds) => (s, e, d :: ds))
    | (s, e, _) => (s, e, [])

/-! ### The ring's length (R112) -/

/-- A thread's ring with another length: the registers that are resident keep their contents, and the others are EMPTY; those
of an EXITED thread read 0 tagged RAW once a shrink has released them (R112). -/
def Thread.resize (t : Thread) (len : Nat) : Thread :=
  let keep := (List.range (min t.ring.length len)).map (fun i => (t.lo + i, t.ringGet (t.lo + i)))
  let empty : Thread := { t with ring := List.replicate len (if t.isExited then ⟨0, .raw⟩ else Reg.fresh) }
  keep.foldl (fun (u : Thread) (r : Nat × Reg) => u.ringSet r.1 r.2) empty

/-- The bundle's allocation and every thread's ring take a new length. -/
def Bundle.resize (b : Bundle) (p : Nat) : Bundle := { b with p := p, threads := b.threads.map (fun t => t.resize (p - 8)) }

end Sys2Proof.Machine
end

