-- ==== Sys2Proof/Machine/Fetch.lean ====
section
/-! DEFINITION. Fetching an instruction word (R40, R331, R369), withdrawing translations (R41), and the event that reads again for
`await` (R170). -/
namespace Sys2Proof.Machine

/-- What a fetch gives: a word with the PLAIN bit of its page (R40), a fault, or a lost link. -/
inductive Fetched where
  | word (w : Word) (plain : Bool)
  | trap (i : TrapInfo)
  | lost
  deriving DecidableEq, Repr

/-- A word that a core's instruction cache holds (R369). -/
def State.icacheFind (s : State) (place : Nat) (asid : BitVec 16) (va : DWord) : Option ILine :=
  s.icache.find? (fun x => x.place == place && x.asid == asid && x.va == va)

/-- The 128-byte line of an instruction cache in which a word lies: its core, context and number. -/
def ILine.line (x : ILine) : Nat × BitVec 16 × Nat := (x.place, x.asid, x.va.toNat / 128)

/-- The 128-byte lines that an instruction cache of 64 KiB holds (R1). -/
def icacheLines : Nat := 512

/-- The instruction caches with a word added. A core's cache that is full drops the line whose word it has held longest, for another one:
DESIGN CHOICE (assumption 23). -/
def State.keepCode (s : State) (e : ILine) : List ILine :=
  let lines := ((s.icache.filter (fun x => x.place == e.place)).map ILine.line).eraseDups
  (if lines.length < icacheLines || lines.contains e.line then s.icache
    else s.icache.filter (fun x => lines.head? != some x.line)) ++ [e]

/-- The four bytes of a word at a physical address, from committed memory (R369); another node's are not in this state. -/
def State.fetchBytes (s : State) (pa : Nat) : State × Nat :=
  if !s.isLocal pa then (s, (Config.freeWord s.ticks 65 0).toNat)
  else if paOffset pa < lpddrEnd then s.physRead (paOffset pa) 4
  else (s, ofBytes (s.windowBytes pa 4))

/-- The fault of a fetch. -/
def fetchTrap (c : BitVec 8) (va : DWord) : TrapInfo := { TrapInfo.of c with addr := va, size := 4, bmask := 0xF }

/-- Fetch the word at an address for a bundle. A word that the core's instruction cache holds is used until it is
invalidated (R369) or its line makes room for another one (R1). -/
def State.fetch (s : State) (b : Nat) (va : DWord) : State × Fetched :=
  let x := s.bundle b
  match s.icacheFind x.coreNo x.asid va with
  | some e => (s, .word e.word e.plain)
  | none =>
    if !vaValid va || vaPrivate va then (s, .trap (fetchTrap causeOutOfRange va)) else
    match s.xlate x.coreNo x.asid va .fetch with
    | (s, .absent r) => (s, .trap { fetchTrap causePage va with access := Access.fetch.bits, reason := r })
    | (s, .prot) => (s, .trap (fetchTrap causeProtection va))
    | (s, .ok pa leaf) =>
      if !s.paExists pa then (s, .trap (fetchTrap causeOutOfRange va))
      else if !s.isLocal pa && (s.routeOf pa).isNone then (s, .lost)
      else
        let (s, v) := s.fetchBytes pa
        let e : ILine := ⟨x.coreNo, x.asid, va, BitVec.ofNat 32 v, leaf.getLsbD 5⟩
        ({ s with icache := s.keepCode e }, .word e.word e.plain)

/-! ### Translations (R41, R412) -/

/-- Withdraw translations (R41): a bundle that runs from one goes on in its source, with the same architectural state. -/
def State.withdraw (s : State) (gone : Translation → Bool) : State :=
  if s.translations.isEmpty then s else
  let ts := s.translations.filter (fun t => !gone t)
  { s with
    translations := ts
    bundles := s.bundles.map (fun b => match b.transl with
      | some c => if ts.any (fun t => t.asid == b.asid && t.code == c) then b else { b with transl := none }
      | none => b) }

/-! ### Reading again for `await` (R170) -/

/-- The instruction at which a parked lane stands, behind its prefix if it has one, and its address. -/
def State.standing (s : State) (b l : Nat) : Option (DWord × Instr) :=
  let pc := (s.thread b l).pc
  let instrAt (va : DWord) : Option Instr := match (s.fetch b va).2 with
    | .word w _ => (match decode w with
      | .ok i => some i
      | .bad _ => none)
    | _ => none
  match instrAt pc with
  | some i => if isPrefixWord i then (instrAt (pc + 4)).map (fun j => (pc + 4, j)) else some (pc, i)
  | none => none

/-- A lane of a resident bundle, PARKED by `await`, reads its word again (R170), on its stream as it is configured then
(assumption 81, DEDUCED); a different value completes the `await`. -/
def State.awaitReread (s : State) (bundle lane : Nat) : State :=
  let t := s.thread bundle lane
  if t.st != .parked .await || !(s.bundle bundle).resident then s else
  match s.standing bundle lane with
  | some (pc, .await d a o q) =>
    let va := pairOf (s.readV bundle lane) a.toNat + (o.signExtend 64) * 4
    (match s.locate bundle lane va 4 q.toNat .read with
    | (s, .trap i) => s.takeTraps bundle t.pc [lane] [(lane, { i with reg := regField false a.toNat })]
    | (s, .unreachable) => s.linkLost bundle t.pc
    | (s, .fill w n m pa) => s.beginFill (.fill w n m pa)
    | (s, tg) =>
      let cur := s.cur
      let s : State := { s with cur := { Issue.reset with bundle := bundle, pc := pc, trapPc := pc, lanes := laneBit lane } }
      let (s, r) := (s.markRead bundle [lane]).loadFrom bundle lane q.toNat (laneBit lane) va 4 tg
      let v : Word := BitVec.ofNat 32 (ofBytes r.bytes)
      let s := if v == (s.readV bundle lane d.toNat).val then s
        else s.modBundle bundle (fun b => (b.writeLane lane [(d.toNat, ⟨v, .raw⟩)]).modThread lane (fun t =>
          ({ t with st := .ready }).goto (pc + 4)))
      { s.deliverStops with cur := cur })
  | _ => s

/-- AWAIT_REREAD (R170). -/
def execAwaitReread (bundle lane : Nat) (s : State) : Host.Outcome State Fault Refusal := .next (s.awaitReread bundle lane)

end Sys2Proof.Machine
end

