-- ==== Sys2Proof/Machine/Control.lean ====
section
/-! DEFINITION. Control flow (R102 to R105), the prefix word (R31), the allocation of registers (R112), and the leash (R90). -/
namespace Sys2Proof.Machine

/-! ### Branches and calls (R102, R103) -/

/-- The target of a branch offset (R102). -/
def State.branchTarget (s : State) (o : BitVec 20) : DWord := s.cur.pc + (o.signExtend 64) * 4

/-- WHIST.RAISED as the bundle at issue sees it (R102, R338). -/
def State.whistled (s : State) : Bool :=
  (s.partOf s.curB.pid).raised

/-- The lane is selected by a mask and a sense (R102). -/
def State.selects (s : State) (m : BitVec 3) (sense : BitVec 1) (l : Nat) : Bool :=
  (s.readM m.toNat).getLsbD l == (sense == 1)

/-- The issued lanes that a test selects branch, and the others advance. -/
def State.branchLanes (s : State) (take : Nat → Bool) (target : DWord) : State :=
  s.mapLanes (fun l t =>
    if !s.cur.lanes.getLsbD l then t
    else if take l then t.goto target else t.advance s.cur.pc)

/-- BR (R102). -/
def execBr (m : BitVec 3) (xs : BitVec 1) (o : BitVec 20) (s : State) : Host.Outcome State Fault Refusal :=
  s.word (.br m xs o) (fun s => s.branchLanes (s.selects m xs) (s.branchTarget o))

/-- BRW (R102): it branches when the whistle is raised. -/
def execBrw (m : BitVec 3) (xs : BitVec 1) (o : BitVec 20) (s : State) : Host.Outcome State Fault Refusal :=
  s.word (.brw m xs o) (fun s => s.branchLanes (fun l => s.whistled && s.selects m xs l) (s.branchTarget o))

/-- The call step (R102): the frame becomes unentered. -/
def Thread.callStep (t : Thread) (ret : DWord) : Thread :=
  { t with linkPc := ret, nc := t.n, base := t.base + t.n, n := 0, o := 0, entered := false }

/-- A WINDOW_RANGE trap that names no register (R102, R104, R112). -/
def windowRange : TrapInfo := TrapInfo.of causeWindowRange

/-- CALL (R102): a lane whose frame is unentered traps. -/
def execCall (m : BitVec 3) (xs : BitVec 1) (o : BitVec 20) (s : State) : Host.Outcome State Fault Refusal :=
  s.word (.call m xs o) (fun s =>
    let bad := s.issued.filter (fun l => s.selects m xs l && !(s.curB.thread l).entered)
    let s' := s.mapLanes (fun l t =>
      if !s.cur.lanes.getLsbD l || bad.contains l then t
      else if s.selects m xs l then (t.callStep (s.cur.pc + 4)).goto (s.branchTarget o)
      else t.advance s.cur.pc)
    s'.takeTraps s.cur.bundle s.cur.trapPc s.issued (bad.map (fun l => (l, windowRange))))

/-- The lanes of `jmp` and `callr` (R103): each active lane goes to its own address, by `step`. -/
def State.jumpLanes (s : State) (a : BitVec 6) (call : Bool) : State :=
  let o : LaneOp := ⟨[src a true .int], []⟩
  let fate := s.laneFate o (fun l =>
    let t := s.v64 l a
    if t.toNat % 4 != 0 then .trap { TrapInfo.of causeMisaligned with addr := t, reg := regField false a.toNat }
    else if !vaValid t then .trap { TrapInfo.of causeOutOfRange with addr := t, reg := regField false a.toNat }
    else if call && !(s.curB.thread l).entered then .trap windowRange
    else .done [] 0)
  let s' := s.meetAll false [] [] fate
  s'.mapLanes (fun l t =>
    if s.isActive l && fate l == .done [] 0 && t.isReady then
      (if call then t.callStep (s.cur.pc + 4) else t).goto (s.v64 l a)
    else t)

/-- JMP (R103). -/
def execJmp (a : BitVec 6) (s : State) : Host.Outcome State Fault Refusal :=
  s.word (.jmp a) (fun s => s.jumpLanes a false)

/-- CALLR (R103). -/
def execCallr (a : BitVec 6) (s : State) : Host.Outcome State Fault Refusal :=
  s.word (.callr a) (fun s => s.jumpLanes a true)

/-- NOP (R105). -/
def execNop (s : State) : Host.Outcome State Fault Refusal := s.word .nop (fun s => s.advanceAll)

/-- EXIT (R105). -/
def execExit (s : State) : Host.Outcome State Fault Refusal :=
  s.word .exit (fun s => s.exitLanes s.cur.bundle s.issued)

/-! ### Frames (R104, R105) -/

/-- Let the frame engine act for lanes in turn. -/
def State.engineAll (f : State → Nat → State × EngineEnd) : State → List Nat → State × List (Nat × EngineEnd)
  | s, [] => (s, [])
  | s, l :: ls =>
    let (s, e) := f s l
    let (s, rs) := State.engineAll f s ls
    (s, (l, e) :: rs)

/-- End a word of the frame engine: the word waits while any of its lanes does, as `wait` says, and otherwise the lanes that trap park
and the others complete by `done`. -/
def State.engineEnd (s : State) (wait : State → State) (traps : List (Nat × TrapInfo)) (rs : List (Nat × EngineEnd)) (done : State → Nat → State) :
    State :=
  if rs.any (fun r => r.2 == .lost) then s.linkLost s.cur.bundle s.cur.trapPc
  else if rs.any (fun r => match r.2 with | .wait _ => true | _ => false) then
    wait (rs.foldl (fun s r => match r.2 with
      | .wait (some t) => s.beginFill t
      | _ => s) s)
  else
    let ok := (rs.filter (fun r => r.2 == .ok)).map (·.1)
    let faults := rs.filterMap (fun r => match r.2 with
      | .trap i => some (r.1, i)
      | _ => none)
    let all := s.issued.filterMap (fun l => ((traps ++ faults).find? (fun t => t.1 == l)))
    (ok.foldl done s).takeTraps s.cur.bundle s.cur.trapPc s.issued all

/-- The trap that `enter N, o` takes before the frame engine acts, or the base A of its save area (R104). -/
def State.enterCheck (s : State) (l n o : Nat) : TrapInfo ⊕ DWord :=
  let t := s.curB.thread l
  let a := align16 (s.pairV l 4)
  if t.entered || o > t.nc || n > s.curB.p - 8 then .inl windowRange
  else if a.toNat + saveSize (n - o) + 64 > t.flimit.toNat then .inl (TrapInfo.of causeFrameLimit)
  else .inr a

/-- The frame that `enter N, o` makes (R98, R99). -/
def State.enterFrame (s : State) (l n o : Nat) (a : DWord) : Frame :=
  let t := s.curB.thread l
  ⟨a + BitVec.ofNat 64 (saveSize (n - o) + 64), s.pairV l 6, s.pairV l 4, t.linkPc, n, o, t.nc⟩

/-- The lanes that `enter N, o` makes a frame for, with their frames. -/
def State.enterGood (s : State) (n o : Nat) : List (Nat × Frame) :=
  s.issued.filterMap (fun l => match s.enterCheck l n o with
    | .inl _ => none
    | .inr a => some (l, s.enterFrame l n o a))

/-- The ring registers of `n` from `from_` that are not resident (R100). -/
def Thread.missing (t : Thread) (from_ n : Nat) : List Nat :=
  ((List.range n).map (fun i => from_ + i)).filter (fun i => !t.resident i)

/-- What the frame engine does for a lane at `enter N, o`: it spills as needed, reads back the overlapped registers that are
spilled, and writes the header of the lane's new frame. A load of a header word to which the program has stored gives the stored bytes,
one of the two values that R99 allows: DESIGN CHOICE (assumption 88). -/
def State.enterAct (b n o : Nat) (s : State) (d : Nat × Frame) : State × (Nat × EngineEnd × List (Nat × Reg)) :=
  let t := s.thread b d.1
  let need := t.base - o + n - t.ring.length
  match s.spillTo b d.1 need (need - t.lo) with
  | (s, .ok) =>
    (match s.fillValues b d.1 ((s.thread b d.1).missing (t.base - o) o) with
    | (s, .ok, rs) =>
      let (s, e) := s.engineStoreAll b d.1 (d.2.fp - 64) (pieces8 d.2.header)
      (s, (d.1, e, rs))
    | (s, e, _) => (s, (d.1, e, [])))
  | (s, e) => (s, (d.1, e, []))

/-- What the frame engine does for lanes at `enter N, o`, in turn. -/
def State.enterAll (b n o : Nat) (s : State) (good : List (Nat × Frame)) : State × List (Nat × EngineEnd × List (Nat × Reg)) :=
  good.foldl (fun acc d => let r := State.enterAct b n o acc.1 d; (r.1, acc.2 ++ [r.2])) (s, [])

/-- A thread in its new frame, past the word at `pc` (R104), with the overlapped registers that were read back. -/
def Thread.enterOpen (t : Thread) (n o : Nat) (f : Frame) (filled : List (Nat × Reg)) (pc : DWord) : Thread :=
  let t := t.placeFill filled (t.base - o)
  ((({ t with base := t.base - o, n := n, o := o, entered := true, frames := f :: t.frames }).setFp f.fp).setSp f.fp).advance pc

/-- A lane changes by a step that writes the registers of keys: long-latency writes of them that are outstanding are contested (R37). -/
def State.contest (s : State) (b l : Nat) (keys : List Nat) (f : Thread → Thread) : State :=
  s.modBundle b (fun x => keys.foldl (fun x k => x.clashV l k) (x.modThread l f))

/-- A lane's frame changes: its SP and FP are written (R37, R98). -/
def State.reframe (s : State) (b l : Nat) (f : Thread → Thread) : State := s.contest b l [4, 5, 6, 7] f

/-- ENTER (R104): it spills as needed, writes the header and opens the window. -/
def execEnter (o n : BitVec 6) (s : State) : Host.Outcome State Fault Refusal :=
  s.word (.enter o n) (fun s0 =>
    let b := s0.cur.bundle
    let traps := s0.issued.filterMap (fun l => match s0.enterCheck l n.toNat o.toNat with
      | .inl i => some (l, i)
      | .inr _ => none)
    let good := s0.enterGood n.toNat o.toNat
    let (s, rs) := State.enterAll b n.toNat o.toNat s0 good
    s.engineEnd State.stall traps (rs.map (fun r => (r.1, r.2.1))) (fun s l => match lookupKey l good, lookupKey l rs with
      | some f, some r => s.reframe b l (fun t => t.enterOpen n.toNat o.toNat f r.2 s0.cur.pc)
      | _, _ => s))

/-- A return before `enter` (R105), with the caller's registers filled (R100). -/
def Thread.retUnentered (t : Thread) (filled : List (Nat × Reg)) : Thread :=
  let f := t.frames.headD ⟨0, 0, 0, 0, 0, 0, 0⟩
  let t := t.placeFill filled (t.base - t.nc)
  ({ t with base := t.base - t.nc, n := t.nc, o := f.o, nc := f.nc, entered := true }).goto t.linkPc

/-- A return by the header `h` of the current frame, with the caller's registers filled (R105). Where an `rshrink` has left fewer
places than the caller's window has registers, two registers share a place: DEDUCED (assumption 77). -/
def Thread.retEntered (t : Thread) (h : Frame) (filled : List (Nat × Reg)) : Thread :=
  let cb := t.base + h.o - h.nc
  let rest := t.frames.drop 1
  let f := rest.headD ⟨0, 0, 0, 0, 0, 0, 0⟩
  let t := t.placeFill filled cb
  (((({ t with base := cb, n := h.nc, o := f.o, nc := f.nc, frames := rest }).setFp h.cfp).setSp h.csp)).goto h.rpc

/-- The header by which an entered lane returns (R99, R105). -/
def State.retHead (s : State) (b l : Nat) : Option Frame :=
  let t := s.thread b l
  if t.entered then some (s.retHeader b l (t.frames.headD ⟨0, 0, 0, 0, 0, 0, 0⟩) (t.frames.length ≤ 1)) else none

/-- The ring registers that a return by header `h` fills: the caller's that are not resident (R100). -/
def Thread.retRange (t : Thread) (h : Frame) : List Nat := t.missing (t.base + h.o - h.nc) h.nc

/-- What the frame engine does for a lane that returns before `enter`: it reads back the caller's registers (R100). -/
def State.backAct (b : Nat) (s : State) (l : Nat) : State × (Nat × EngineEnd × List (Nat × Reg)) :=
  let t := s.thread b l
  let (s, e, rs) := s.fillValues b l (t.missing (t.base - t.nc) t.nc)
  (s, (l, e, rs))

/-- What the frame engine does for lanes that return before `enter`, in turn. -/
def State.backAll (b : Nat) (s : State) (ls : List Nat) : State × List (Nat × EngineEnd × List (Nat × Reg)) :=
  ls.foldl (fun acc l => let r := State.backAct b acc.1 l; (r.1, acc.2 ++ [r.2])) (s, [])

/-- What the frame engine does for a lane that returns by a header: it drops delimiters (R278) and reads back the caller's
registers; it answers how it ended, the registers, and the new MARKTOP. -/
def State.retAct (b : Nat) (s : State) (d : Nat × Frame) : State × (Nat × EngineEnd × List (Nat × Reg) × DWord) :=
  let t := s.thread b d.1
  match s.dropMarks b d.1 d.2.fp t.delimFuel t.marktop with
  | (s, .ok, top) =>
    let (s, e, rs) := s.fillValues b d.1 ((s.thread b d.1).retRange d.2)
    (s, (d.1, e, rs, top))
  | (s, e, _) => (s, (d.1, e, [], 0))

/-- What the frame engine does for lanes that return, in turn. -/
def State.retAll (b : Nat) (s : State) (deep : List (Nat × Frame)) : State × List (Nat × EngineEnd × List (Nat × Reg) × DWord) :=
  deep.foldl (fun acc d => let r := State.retAct b acc.1 d; (r.1, acc.2 ++ [r.2])) (s, [])

/-- RET (R105): before `enter` it undoes the call; in the outermost frame it acts as `exit`; else it drops delimiters (R278),
fills and resumes. -/
def execRet (s : State) : Host.Outcome State Fault Refusal :=
  s.word .ret (fun s0 =>
    let b := s0.cur.bundle
    let heads := s0.issued.filterMap (fun l => (s0.retHead b l).map (fun h => (l, h)))
    let exits := (heads.filter (fun h => h.2.rpc == 0)).map (·.1)
    let plain := s0.issued.filter (fun l => !(s0.thread b l).entered)
    let deep := heads.filter (fun h => h.2.rpc != 0)
    let (s, ps) := State.backAll b s0 plain
    let (s, vs) := State.retAll b s deep
    let ends := vs.map (fun v => (v.1, v.2.1)) ++ ps.map (fun p => (p.1, p.2.1)) ++ exits.map (fun l => (l, EngineEnd.ok))
    let done (s : State) (l : Nat) : State :=
      if exits.contains l then s
      else match lookupKey l ps with
        | some p => s.modThread b l (fun t => t.retUnentered p.2)
        | none => (match lookupKey l deep, lookupKey l vs with
          | some h, some v => s.reframe b l (fun t => { t.retEntered h v.2.1 with marktop := v.2.2 })
          | _, _ => s)
    let s' := s.engineEnd State.stall [] ends done
    if s'.cur.stalled then s' else s'.exitLanes b (exits.filter (fun l => (s'.thread b l).isReady)))

/-! ### The prefix (R31) -/

/-- PREFIX (R31): the next word issues with its fields; a trap of that word stands at the prefix (R48). -/
def execPrefixWord (c : BitVec 6) (m : BitVec 3) (e z : BitVec 1) (r : BitVec 3) (xs : BitVec 1) (s : State) :
    Host.Outcome State Fault Refusal :=
  s.word (.prefixWord c m e z r xs) (fun s =>
    { s with cur := { s.cur with
      pfx := some ⟨c, m, e == 1, z == 1, r, xs == 1⟩, trapPc := s.cur.pc, pc := s.cur.pc + 4 } })

/-! ### The allocation of registers (R112) -/

/-- The free registers of a sub-core (R86). -/
def State.freeRegs (s : State) (place sub : Nat) : Nat :=
  65536 - s.bundles.foldl (fun n b => if b.live && b.resident && b.coreNo == place && b.sub == sub then n + b.w * b.p else n) 0

/-- Grow a bundle at once (R112). -/
def State.growBundle (s : State) (b n : Nat) : State := s.modBundle b (fun x => x.resize (x.p + n))

/-- RGROW (R112), the blocking form. -/
def execRgrow (n : BitVec 6) (s : State) : Host.Outcome State Fault Refusal :=
  s.word (.rgrow n) (fun s =>
    let b := s.curB
    let k := n.toNat * 8
    if b.p + k > 256 then s.trapIssued windowRange
    else if !s.grow.any (fun g => g.place == b.coreNo && g.sub == b.sub) && b.w * k ≤ s.freeRegs b.coreNo b.sub then
      (s.growBundle s.cur.bundle k).advanceAll
    else
      { s.waitIssued .grow with grow := s.grow ++ [⟨b.coreNo, b.sub, s.cur.bundle, s.cur.lanes, k⟩] })

/-- RGROW_TRY (R112). -/
def execRgrowTry (d n : BitVec 6) (s : State) : Host.Outcome State Fault Refusal :=
  s.word (.rgrowTry d n) (fun s =>
    let b := s.curB
    let k := n.toNat * 8
    let ok := b.p + k ≤ 256 && !s.grow.any (fun g => g.place == b.coreNo && g.sub == b.sub)
      && b.w * k ≤ s.freeRegs b.coreNo b.sub
    let s := if ok then s.growBundle s.cur.bundle k else s
    (s.writeS (put d (if ok then 1 else 0) .int)).advanceAll)

/-- An EXITED thread's windowed registers after a shrink: 0, tagged RAW (R112). -/
def Thread.dropWindow (t : Thread) : Thread :=
  if t.isExited then { t with ring := t.ring.map (fun _ => ⟨0, .raw⟩), bound := [] } else t

/-- The windowed registers of the EXITED threads of a bundle are released, and what was still to be written to them is not (R112). -/
def Bundle.dropWindows (b : Bundle) : Bundle :=
  { b with
    threads := b.threads.map Thread.dropWindow
    late := b.late.map (fun o => { o with lanes := o.lanes.filter (fun w => w.key < 8 || !(b.thread w.lane).isExited) }) }

/-- RSHRINK (R112). -/
def execRshrink (n : BitVec 6) (s : State) : Host.Outcome State Fault Refusal :=
  s.word (.rshrink n) (fun s0 =>
    let b := s0.cur.bundle
    let x := s0.curB
    let k := n.toNat * 8
    let live := (indices x.threads).filter (fun l => !(x.thread l).isExited)
    if x.p < k + 16 || live.any (fun l => (x.thread l).n > x.p - k - 8) then s0.trapIssued windowRange
    else
      let act (s : State) (l : Nat) : State × EngineEnd :=
        let t := s.thread b l
        let need := t.base + t.n - (x.p - k - 8)
        s.spillTo b l need (need - t.lo)
      let (s, rs) := State.engineAll act s0 live
      match rs.findSome? (fun r => match r.2 with
        | .trap i => some { i with okind := 1, other := s.threadName b r.1 }
        | _ => none) with
      | some i =>
        if rs.any (fun r => match r.2 with | .wait _ => true | _ => false) then s.engineEnd State.stall [] rs (fun s _ => s)
        else s.trapIssued i
      | none =>
        let s := s.engineEnd State.stall [] rs (fun s _ => s)
        if s.cur.stalled || !(s.bundle b).live then s
        else (s.modBundle b (fun y => (y.resize (y.p - k)).dropWindows)).advanceAll)

/-- RGROW_GRANT (R112): the request at the head of a sub-core's queue takes its turn. -/
def execRgrowGrant (place sub : Nat) (s : State) : Host.Outcome State Fault Refusal :=
  .next (match s.grow.find? (fun g => g.place == place && g.sub == sub) with
    | none => s
    | some g =>
      let b := s.bundle g.bundle
      let lanes := (lanesIn g.lanes b.threads.length).filter (fun l => (b.thread l).st == .waiting .grow)
      let left : State := { s with grow := s.grow.erase g }
      if b.p + g.n > 256 then
        let pc := (lanes.head?.map (fun l => (b.thread l).pc)).getD 0
        left.takeTraps g.bundle pc lanes (lanes.map (fun l => (l, windowRange)))
      else if b.w * g.n ≤ s.freeRegs place sub then
        lanes.foldl (fun s l => s.modThread g.bundle l (fun t => (t.advance t.pc).wake)) (left.growBundle g.bundle g.n)
      else s)

/-! ### The leash (R89, R90) -/

/-- The READY lanes of a bundle. -/
def Bundle.readyLanes (b : Bundle) : List Nat := (indices b.threads).filter (fun l => (b.thread l).isReady)

/-- The lowest PC of lanes. -/
def Bundle.lowestPc (b : Bundle) (ls : List Nat) : Option DWord :=
  ls.foldl (fun m l => match m with
    | none => some (b.thread l).pc
    | some p => some (if (b.thread l).pc < p then (b.thread l).pc else p)) none

/-- The lanes of a list at a PC. -/
def Bundle.lanesAt (b : Bundle) (ls : List Nat) (pc : DWord) : List Nat := ls.filter (fun l => (b.thread l).pc == pc)

/-- Begin a turn for the group of lanes, among those given, at the lowest PC above `after`, or else at the lowest PC. -/
def Bundle.beginTurn (b : Bundle) (among : List Nat) (after : DWord) : Bundle :=
  let above := b.lowestPc (among.filter (fun l => after < (b.thread l).pc))
  match (match above with | some p => some p | none => b.lowestPc among) with
  | some p => { b with leash := { b.leash with group := laneSet (b.lanesAt among p), turn := 0, start := p } }
  | none => b

/-- The leash length L of the bundle's context (R91). -/
def State.leashOf (s : State) (b : Nat) : Nat := (s.ctx (s.bundle b).asid).leash

/-- The first turn of a bundle that enters rotation: of the READY threads outside the set that issued last, those at the lowest
PC above its PC, and else at the lowest PC (R90; that the set itself does not count is DEDUCED, assumption 61). -/
def Bundle.firstTurn (b : Bundle) : Bundle :=
  let others := b.readyLanes.filter (fun l => !b.leash.group.getLsbD l)
  ({ b with leash := { b.leash with rot := true, count := 0 } }).beginTurn (if others.isEmpty then b.readyLanes else others)
    b.leash.start

/-- At C = L a bundle enters rotation, and a turn begins (R90). -/
def State.rotate (s : State) (b : Nat) : State :=
  if !(s.bundle b).leash.rot && (s.bundle b).live && (s.bundle b).leash.count ≥ s.leashOf b then s.modBundle b Bundle.firstTurn
  else s

/-- LEASH_ROTATE (R90). -/
def execLeashRotate (bundle : Nat) (s : State) : Host.Outcome State Fault Refusal := .next (s.rotate bundle)

/-- The turn of a bundle in rotation is over (R90). -/
def State.turnOver (s : State) (b : Nat) : Bool :=
  let x := s.bundle b
  x.leash.rot && (x.leash.turn ≥ s.leashOf b / 8 || !x.readyLanes.any x.leash.group.getLsbD)

/-- The next turn goes to READY threads outside the ended turn's group, or to that group again (R90). -/
def Bundle.nextTurn (b : Bundle) : Bundle :=
  let ready := b.readyLanes
  let others := ready.filter (fun l => !b.leash.group.getLsbD l)
  if others.isEmpty then
    if ready.isEmpty then b
    else { b with leash := { b.leash with turn := 0, start := (b.lowestPc ready).getD 0 } }
  else b.beginTurn others b.leash.start

/-- The turn of a bundle ends where it is over (R90). -/
def State.endTurn (s : State) (b : Nat) : State := if s.turnOver b then s.modBundle b Bundle.nextTurn else s

/-- LEASH_TURN_END (R90). -/
def execLeashTurnEnd (bundle : Nat) (s : State) : Host.Outcome State Fault Refusal := .next (s.endTurn bundle)

end Sys2Proof.Machine
end

