-- ==== Sys2Proof/Machine/Stash.lean ====
section
/-! DEFINITION. The stash words (R244 to R248) and the events of stash lines (R239, R240, R243). -/
namespace Sys2Proof.Machine

/-! ### The stash of a core (R236, R237) -/

/-- The lines of a window of `n` lines that the core at place `j` of a block of `c` cores holds (R237). -/
def linesOnCore (n c j : Nat) : Nat := (n + c - 1 - j) / c

/-- The stash bytes in use on a core of a partition. -/
def State.stashUsed (s : State) (part core : Nat) : Nat :=
  s.teams.foldl (fun n t =>
    let onPart := t.part == part && ((s.partOf t.pid).st == .resident || (s.partOf t.pid).st == .whistled)
    match if onPart then t.blockCores.findIdx? (· == core) else none with
    | some j => n + t.windows.foldl (fun m w => m + 128 * linesOnCore (w.size / 128) t.cores j) 0
    | none => n) 0

/-- The stash of a core: 512 KiB. -/
def stashBytes : Nat := 524288

/-- Two ranges of addresses meet. -/
def rangesMeet (a n b m : Nat) : Bool := a < b + m && b < a + n

/-- The end of the team-private range. -/
def privateEnd : Nat := privateBase + 2 ^ 40

/-- Perform the outstanding stores of every thread of a team, of its retired bundles too. -/
def State.drainTeam (s : State) (t : Nat) : State :=
  ((indices s.bundles).filter (fun b => (s.bundle b).team == some t)).foldl (fun s b => s.drainLanes b (indices (s.bundle b).threads)) s

/-- A memory-class trap that names an address. -/
def atAddr (c : BitVec 8) (va : DWord) : TrapInfo := { TrapInfo.of c with addr := va }

/-- The base of a new SCRATCH window of `n` bytes (R236, R245): the lowest address of the team-private range from which no window of
the team is met (assumption 25). -/
def Team.scratchBase (t : Team) (n : Nat) : Option Nat :=
  let ws := t.windows.filter (fun w => vaPrivate w.base)
  let free (a : Nat) : Bool := a + n ≤ privateEnd && !ws.any (fun w => rangesMeet a n w.base.toNat w.size)
  ((privateBase :: ws.map (fun w => alignUp (w.base.toNat + w.size) 128)).filter free).min?

/-- The window that `smap` makes (R245), or its trap, or none where the stash has no room. -/
def State.smapWindow (s : State) (mode : WinMode) (va : DWord) (n q : Nat) : TrapInfo ⊕ Option Window :=
  let tm := s.team s.curTeam
  let base := va.toNat
  let backed := mode != .scratch
  if n = 0 || n % 128 != 0 || n > 8388608 then .inl (TrapInfo.of causeStashUse)
  else if backed && base % 128 != 0 then .inl (atAddr causeMisaligned va)
  else if backed && (base + n > 2 ^ 56 || rangesMeet base n privateBase (2 ^ 40)) then .inl (atAddr causeOutOfRange va)
  else if backed && tm.windows.any (fun w => rangesMeet base n w.base.toNat w.size) then .inl (atAddr causeStashUse va)
  else match (List.range 16).find? (fun w => w ≥ 1 && (tm.window w).isNone) with
    | none => .inl (TrapInfo.of causeStashUse)
    | some w =>
      let need := (n + 128 * tm.cores - 1) / (128 * tm.cores) * 128
      if tm.blockCores.any (fun c => stashBytes < s.stashUsed tm.part c + need) then .inr none
      else
        .inr ((if backed then some base else tm.scratchBase n).map (fun b =>
          ⟨w, BitVec.ofNat 64 b, n, mode, q, s.streamDirect s.cur.bundle q, [], []⟩))

/-- `smap` in each of its modes (R245): the team's outstanding stores are performed before the window serves. -/
def State.smap (s : State) (d : BitVec 6) (us : List Use) (mode : WinMode) (va : DWord) (n q : Nat) : State :=
  s.uniWord us (fun s =>
    match s.smapWindow mode va n q with
    | .inl i => s.trapIssued i
    | .inr none => (s.writeS (put2 d 0 .w64)).advanceAll
    | .inr (some w) =>
      let s := s.drainTeam s.curTeam
      let s := s.modTeam s.curTeam (fun t => { t with windows := t.windows ++ [w] })
      (s.writeS (put2 d w.base .w64)).advanceAll)

/-- SMAP_RW (R245). -/
def execSmapRw (d a b : BitVec 6) (q : BitVec 4) (s : State) : Host.Outcome State Fault Refusal :=
  s.word (.smapRw d a b q) (fun s => s.smap d [src a true .any, src b false .any] .rw (s.u64 a) (s.u32 b).toNat q.toNat)

/-- SMAP_RO (R245). -/
def execSmapRo (d a b : BitVec 6) (q : BitVec 4) (s : State) : Host.Outcome State Fault Refusal :=
  s.word (.smapRo d a b q) (fun s => s.smap d [src a true .any, src b false .any] .ro (s.u64 a) (s.u32 b).toNat q.toNat)

/-- SMAP_SCRATCH (R245). -/
def execSmapScratch (d b : BitVec 6) (s : State) : Host.Outcome State Fault Refusal :=
  s.word (.smapScratch d b) (fun s => s.smap d [src b false .any] .scratch 0 (s.u32 b).toNat 0)

/-- The columns N of a matrix post (R260): 16 for F64, else 32. -/
def MatSpec.cols (m : MatSpec) : Nat := if m.afmt == 0x13 then 16 else 32

/-- The blocks of 40 elements of K (R260). -/
def MatSpec.blocks (m : MatSpec) : Nat := (m.k + 39) / 40

/-- The bytes of a row of K in stash (R260). -/
def MatSpec.rowBytes (m : MatSpec) : Nat :=
  if m.afmt == 0x13 then 8 * m.k else if m.afmt == 0x18 then 32 * m.blocks
  else if m.afmt == 0x10 || m.afmt == 0x11 then 2 * m.k else m.k

/-- The stash operands of a matrix post of a bundle of width `w`, as addresses with their lengths, in the order A rows, A
scales, B rows, B scales (R260, R261). -/
def MatSpec.ranges (m : MatSpec) (w : Nat) : List (Nat × Nat) :=
  let lg := m.afmt == 0x18
  (if m.asrc then (List.range w).map (fun i => (m.astash.toNat + i * m.astride, m.rowBytes)) else [])
  ++ (if m.asrc && lg then [(m.astash.toNat + 32 * m.ascoff, w * m.blocks)] else [])
  ++ (List.range m.cols).map (fun j => (m.bstash.toNat + j * m.bstride, m.rowBytes))
  ++ (if lg then [(m.bstash.toNat + 32 * m.bscoff, m.cols * m.blocks)] else [])

/-- The stash that a command names: a team, and its ranges. -/
def State.cmdStash (s : State) (c : Cmd) : List (Nat × List (Nat × Nat)) :=
  match c.spec with
  | .copy x => (c.team, x.stashRows) :: (if x.dir < 2 then [] else
      match s.teamOfRank c.team x.peer with
      | some p => [(p, x.peerRows)]
      | none => [])
  | .matrix m => [(c.team, m.ranges (s.bundle c.bundle).w)]
  | .coll _ => []

/-- The command is posted and not over. -/
def Cmd.active (c : Cmd) : Bool := c.st == .queued || c.st == .running || c.st == .suspended

/-- A command in flight names the window (R246, R254). -/
def State.windowHeld (s : State) (t : Nat) (w : Window) : Bool :=
  s.cmds.any (fun c => c.active && (s.cmdStash c).any (fun p =>
    p.1 == t && p.2.any (fun r => rangesMeet r.1 r.2 w.base.toNat w.size)))

/-- Write back the DIRTY and WRITING lines of a window that meet a range, and leave them CLEAN (R240, R246, R247). -/
def State.cleanRange (s : State) (t : Nat) (w : Window) (base n : Nat) : State :=
  s.forLines t Line.unsaved (fun s x l =>
    if x.num == w.num && rangesMeet (w.base.toNat + 128 * l.num) 128 base n then s.writeOut t x l else s)

/-- SUNMAP (R246). -/
def execSunmap (a : BitVec 6) (s : State) : Host.Outcome State Fault Refusal :=
  s.word (.sunmap a) (fun s => s.uniWord (s.firstUses [src a true .any]) (fun s =>
    let t := s.curTeam
    let va := s.argS 0 a.toNat
    match (s.team t).windows.find? (fun w => w.base == va && w.num != 0) with
    | none => s.trapIssued (atAddr causeStashUse va)
    | some w =>
      if s.windowHeld t w then s.waitWord (.sunmap a) [va]
      else
        let s := s.cleanRange t w w.base.toNat w.size
        (s.modTeam t (fun x => { x with windows := x.windows.filter (fun y => y.num != w.num) })).advanceAll))

/-- SFLUSH (R247). -/
def execSflush (a b : BitVec 6) (s : State) : Host.Outcome State Fault Refusal :=
  s.word (.sflush a b) (fun s => s.uniWord [src a true .any, src b false .any] (fun s =>
    let t := s.curTeam
    let va := (s.u64 a).toNat
    let n := (s.u32 b).toNat
    ((s.team t).windows.foldl (fun s w => if w.mode == .scratch then s else s.cleanRange t w va n) s).advanceAll))

/-- A window after `sinv` of a range (R247): its backed lines in the range are INVALID, its SCRATCH lines in it are zero. A FILLING line
stays as it is, for R239 has `sinv` act on CLEAN, DIRTY and WRITING lines: DESIGN CHOICE (assumption 102). -/
def Window.discard (w : Window) (base n : Nat) : Window :=
  let hit (num : Nat) : Bool := rangesMeet (w.base.toNat + 128 * num) 128 base n
  { w with
    lines := w.lines.filter (fun l => l.st == .filling || !hit l.num)
    bytes := w.bytes.filter (fun c => !hit (c.1 / 128)) }

/-- SINV (R247). -/
def execSinv (a b : BitVec 6) (s : State) : Host.Outcome State Fault Refusal :=
  s.word (.sinv a b) (fun s => s.uniWord [src a true .any, src b false .any] (fun s =>
    let va := s.u64 a
    let n := (s.u32 b).toNat
    if va.toNat % 128 != 0 || n % 128 != 0 then s.trapIssued (atAddr causeMisaligned va)
    else (s.modTeam s.curTeam (fun t => { t with windows := t.windows.map (fun w => w.discard va.toNat n) })).advanceAll))

/-- The code of a line's state in `sstat.line` (R248). -/
def LineState.code : LineState → Nat
  | .filling => 1 | .clean => 2 | .dirty => 3 | .writing => 4

/-- The result of `sstat.line` (R248). -/
def lineStatus (w : Option Window) (va : DWord) : Nat :=
  match w with
  | none => 7
  | some w =>
    if w.mode == .scratch then w.num * 256 + 5
    else match w.line ((va.toNat - w.base.toNat) / 128) with
      | some l => w.num * 256 + (if l.excl then 8 else 0) + l.st.code
      | none => w.num * 256

/-- The result of `sstat.window` (R248). -/
def windowStatus (w : Option Window) : Nat :=
  match w with
  | none => 0
  | some w =>
    let mode : Nat := match w.mode with
      | .rw => 0 | .ro => 1 | .scratch => 2
    w.num * 2 ^ 40 + w.stream * 2 ^ 34 + mode * 2 ^ 32 + w.size

/-- The result of `sstat.space` (R248). -/
def State.spaceStatus (s : State) (t : Nat) : Nat :=
  let tm := s.team t
  let free := tm.blockCores.foldl (fun n c => n + (stashBytes - s.stashUsed tm.part c)) 0
  free * 2 ^ 32 + tm.windows.foldl (fun n w => n + w.size) 0

/-- SSTAT (R248): selector 0 line, 1 window, 2 space. -/
def execSstat (d a xs : BitVec 6) (s : State) : Host.Outcome State Fault Refusal :=
  s.word (.sstat d a xs) (fun s => s.uniWord (if xs == 2 then [] else [src a true .any]) (fun s =>
    let t := s.curTeam
    let w := (s.team t).windowAt (s.u64 a)
    let ws := if xs == 0 then put d (BitVec.ofNat 32 (lineStatus w (s.u64 a))) .int
      else if xs == 1 then put2 d (BitVec.ofNat 64 (windowStatus w)) .w64
      else put2 d (BitVec.ofNat 64 (s.spaceStatus t)) .w64
    (s.writeS ws).advanceAll))

/-! ### Events of lines (R239, R240, R243) -/

/-- The line of a team's window. -/
def State.lineOf (s : State) (t w n : Nat) : Option Line := ((s.team t).window w).bind (fun x => x.line n)

/-- STASH_FILL_ARRIVES (R239). -/
def execStashFillArrives (team window line : Nat) (s : State) : Host.Outcome State Fault Refusal :=
  .next (match (s.team team).window window, s.lineOf team window line with
    | some w, some l => if l.st == .filling then s.fillLine team w l else s
    | _, _ => s)

/-- STASH_RECALL (R239, R241): an outside access reaches home. -/
def execStashRecall (team window line : Nat) (store : Bool) (s : State) : Host.Outcome State Fault Refusal :=
  .next (match s.lineOf team window line with
    | some l => if l.st == .filling then s else (s.recall l.pa store none).1
    | none => s)

/-- A line whose write-back home has acknowledged (R239): CLEAN, or DIRTY where bytes were written during WRITING. It was CLEAN last before
the write-back, from where R240 counts. -/
def Line.acknowledged (x : Line) : Line :=
  if x.redirty == 0 then x.cleaned
  else { x with st := .dirty, dirty := x.redirty, redirty := 0, again := false, link := none }

/-- STASH_WRITEBACK_ACK (R239). Where a fence waits for the bytes written during WRITING, they are written back at once (R240). -/
def execStashWritebackAck (team window line : Nat) (s : State) : Host.Outcome State Fault Refusal :=
  .next (match s.lineOf team window line with
    | some l =>
      if l.st != .writing then s
      else
        let s := s.modLine team window line Line.acknowledged
        if l.again && l.redirty != 0 then
          (match (s.team team).window window, s.lineOf team window line with
            | some w, some x => s.writeBack team w x
            | _, _ => s)
        else s
    | none => s)

/-- STASH_WRITEBACK_TIMEOUT (R240, trigger 5): a DIRTY line is written back, no later than 2^20 arithmetic clocks after it became
so, at which the step makes it happen. -/
def execStashWritebackTimeout (team window line : Nat) (s : State) : Host.Outcome State Fault Refusal :=
  .next (match (s.team team).window window, s.lineOf team window line with
    | some w, some l => if l.st == .dirty then s.writeBack team w l else s
    | _, _ => s)

/-- UNCORRECTABLE_ERROR (R243): a CLEAN line is dropped; an error in a DIRTY or WRITING line or a SCRATCH window is a
containment event. A window number of 16 or 17 names no window: at 16 the error lies in the 8-byte word of main memory of number
`line`, where a page walk and firmware meet it (R328, R387), and at 17 in a register of the team (R208; the numbers are the model's,
assumption 82). -/
def execUncorrectableError (team window line : Nat) (s : State) : Host.Outcome State Fault Refusal :=
  .next (if window == 16 then { s with badmem := if s.badmem.contains line then s.badmem else line :: s.badmem }
    else if window == 17 then s.killTeam team causeUncorrectable false none 0
    else
    match (s.team team).window window with
    | none => s
    | some w =>
      if w.mode == .scratch then s.killTeam team causeUncorrectable false none 0
      else match w.line line with
        | some l =>
          if l.st == .clean then s.dropLine team window line
          else if l.st == .filling then s
          else s.killTeam team causeUncorrectable false none 0
        | none => s)

end Sys2Proof.Machine
end

