-- ==== Sys2Proof/Machine/Engine.lean ====
section
/-! DEFINITION. Engine commands (R249 to R273): posting words and their checks, tokens and observation, copies, matrix posts,
collectives, stamps. -/
namespace Sys2Proof.Machine

/-! ### Names, tokens and observation (R249 to R251) -/

/-- KIND of a command's engine (R249). -/
def CmdSpec.kind : CmdSpec → Nat
  | .copy _ => 0 | .matrix _ => 1 | .coll _ => 2

/-- The engine identifier (R249). -/
def Cmd.engine (c : Cmd) : Nat := c.spec.kind * 16384 + c.core

/-- The name of a command: engine identifier and sequence number (R249). -/
def Cmd.name (c : Cmd) : DWord := BitVec.ofNat 64 (c.engine * 2 ^ 48 + c.seq.toNat)

/-- The token that a completion writes (R250). -/
def Cmd.tokenValue (c : Cmd) : DWord :=
  BitVec.ofNat 64 (2 ^ 63 + c.result.toNat * 2 ^ 60 + (if c.sizeovl then 2 ^ 59 else 0) + c.flags.toNat * 2 ^ 48 + c.seq.toNat)

/-- A bundle observes the commands whose token pair holds one of these registers and that are DONE (R251): the registers that
their posts held are free (R263), and the observing threads `ls` acquire (R258). -/
def State.observe (s : State) (b : Nat) (regs ls : List Nat) : State :=
  let hit (c : Cmd) : Bool := c.bundle == b && c.st == .done && !c.observed && (regs.contains c.token || regs.contains (c.token + 1))
  let ids := (indices s.cmds).filter (fun i => (s.cmds[i]?.map hit).getD false)
  if ids.isEmpty then s else
  let s := ls.foldl (fun s l => s.acquireThread b l 0xFFFF) s
  let s := ids.foldl (fun s i => s.modCmd i (fun c => { c with observed := true })) s
  s.modBundle b (fun x => { x with threads := x.threads.mapIdx (fun l t => t.unbind s.ticks l (fun y => ids.contains y.cmd)) })

/-- The tag of a pair of uniform registers. -/
def Bundle.pairPending (b : Bundle) (r : Nat) : Bool :=
  (b.s.getD r Reg.fresh).tag == .pend || (b.s.getD (r + 1) Reg.fresh).tag == .pend

/-- The threads that wait by `twait` for a pair that is no longer PEND complete (R267). -/
def State.wakeToken (s : State) (b : Nat) : State :=
  let x := s.bundle b
  let regOf (l : Nat) : Option Nat := match (x.thread l).st with
    | .waiting (.token r) => if x.pairPending r then none else some r
    | _ => none
  let ls := (indices x.threads).filter (fun l => (regOf l).isSome)
  if ls.isEmpty then s else
  let s := ls.foldl (fun s l => s.modThread b l (fun t => (t.advance t.pc).wake)) s
  s.observe b (ls.filterMap regOf) ls

/-! ### Stamps (R271 to R273) -/

/-- The core that serves a command: the one that its bundle is on, or was on last. -/
def State.cmdCore (s : State) (c : Cmd) : Nat := (s.bundle c.bundle).coreNo

/-- The stamp slot of a context on a core. -/
def StampSlot.names (x : StampSlot) (asid : BitVec 16) (core num : Nat) : Bool := x.asid == asid && x.core == core && x.num == num

/-- Take a stamp of a command at a value of CLK, where the command asks for stamps (R271). -/
def State.stampAt (s : State) (c : Cmd) (field : Nat) (now : DWord) : State :=
  if !c.stamp then s else
  let core := s.cmdCore c
  let x := (s.stamps.find? (·.names c.asid core c.slot)).getD ⟨c.asid, core, c.slot, now, List.replicate 7 none⟩
  { s with stamps := s.stamps.filter (fun y => !y.names c.asid core c.slot) ++ [{ x with times := x.times.set field (some now) }] }

/-- Take a stamp of a command now. -/
def State.stampCmd (s : State) (c : Cmd) (field : Nat) : State := s.stampAt c field s.clk

/-- The 64 bytes of a stamp record (R271). -/
def stampRecord (pc name base : DWord) (times : List (Option DWord)) (code team kind slot bidx : Nat) : List Byte :=
  bytesOf 8 pc.toNat ++ bytesOf 8 name.toNat ++ bytesOf 8 base.toNat
    ++ (List.range 7).flatMap (fun i => bytesOf 4 (match times.getD i none with
      | some t => min (t - base).toNat 0xFFFFFFFF
      | none => 0))
    ++ bytesOf 2 ((List.range 7).foldl (fun v i => if (times.getD i none).isSome then v + 2 ^ i else v) 0)
    ++ bytesOf 2 code ++ bytesOf 4 team ++ bytesOf 1 kind ++ bytesOf 1 slot ++ bytesOf 2 bidx

/-- Write bytes in pieces of 8 at a virtual address of a context; the boolean says whether none faulted. -/
def State.virtStore (s : State) (asid : BitVec 16) (va : DWord) : List (List Byte) → State × Bool
  | [] => (s, true)
  | p :: ps =>
    match s.virtWrite asid va p.length (ofBytes p) with
    | (s, true) => s.virtStore asid (va + BitVec.ofNat 64 p.length) ps
    | (s, false) => (s, false)

/-- Read fields of a context's memory, each an address and a length; none where one cannot be read. -/
def State.virtFields (s : State) (asid : BitVec 16) : List (DWord × Nat) → State × Option (List Nat)
  | [] => (s, some [])
  | (a, n) :: fs =>
    match s.virtRead asid a n with
    | (s, some v) => (match s.virtFields asid fs with
      | (s, some vs) => (s, some (v :: vs))
      | r => r)
    | (s, none) => (s, none)

/-- A record of the stamp ring is dropped, and counted (R272). -/
def State.stampDrop (s : State) (asid : BitVec 16) (d : DWord) : State :=
  match s.virtRead asid (d + 32) 8 with
  | (s, some n) => (s.virtWrite asid (d + 32) 8 ((n + 1) % 2 ^ 64)).1
  | (s, none) => s

/-- Write a record to the stamp ring of a context (R272). -/
def State.stampRing (s : State) (asid : BitVec 16) (bs : List Byte) : State :=
  let d := (s.ctx asid).stampdesc
  if d == 0 then s else
  match s.virtFields asid [(d, 8), (d + 8, 4), (d + 16, 8), (d + 24, 8)] with
  | (s, some [base, size, wr, rd]) =>
    if size = 0 then s
    else if (wr + 2 ^ 64 - rd) % 2 ^ 64 = size then s.stampDrop asid d
    else (match s.virtStore asid (BitVec.ofNat 64 (base + 64 * (wr % size))) (pieces8 bs) with
      | (s, true) => (s.virtWrite asid (d + 16) 8 ((wr + 1) % 2 ^ 64)).1
      | (s, false) => s.stampDrop asid d)
  | (s, _) => s

/-- The record of a command that retires its slot (R271): the slot is cleared. -/
def State.retireStamp (s : State) (c : Cmd) : State :=
  if !c.retire then s else
  let core := s.cmdCore c
  let x := (s.stamps.find? (·.names c.asid core c.slot)).getD ⟨c.asid, core, c.slot, s.clk, []⟩
  let bs := stampRecord c.pc c.name x.base x.times 0 (s.team c.team).index 0 c.slot (s.bundle c.bundle).bidx
  ({ s with stamps := s.stamps.filter (fun y => !y.names c.asid core c.slot) }).stampRing c.asid bs

/-- STAMP (R273): a USER record. -/
def execStamp (i : BitVec 12) (s : State) : Host.Outcome State Fault Refusal :=
  s.word (.stamp i) (fun s =>
    let b := s.curB
    let team := (b.team.map (fun t => (s.team t).index)).getD 0
    (s.stampRing b.asid (stampRecord s.cur.pc 0 s.clk [] i.toNat team 1 0 b.bidx)).advanceAll)

/-! ### Completion (R250, R252) -/

/-- The bundle with the token pair of a command written, tagged INT (R250). -/
def Bundle.token (b : Bundle) (c : Cmd) : Bundle :=
  { b with s := (b.s.set c.token ⟨c.tokenValue.setWidth 32, .int⟩).set (c.token + 1) ⟨(c.tokenValue >>> 32).setWidth 32, .int⟩ }

/-- A command is DONE: its token is written, its stamps and record are made, and its waiters go on. The token of a killed team's
command is never written (R209, R252). -/
def State.finishCmd (s : State) (i : Nat) : State :=
  match s.cmd? i with
  | none => s
  | some c0 =>
    let c := { c0 with st := .done }
    let s := s.modCmd i (fun x => { x with st := .done })
    if c.orphan then s.retireStamp c
    else ((s.modBundle c.bundle (fun b => b.token c)).retireStamp c).wakeToken c.bundle

/-! ### The stash and the memory of a command -/

/-- The lines of ranges, by address. -/
def lineAddrs (rs : List (Nat × Nat)) : List Nat :=
  rs.flatMap (fun r => if r.2 = 0 then [] else
    (List.range ((r.1 + r.2 - 1) / 128 - r.1 / 128 + 1)).map (fun i => (r.1 / 128 + i) * 128))

/-- Every line of ranges lies in a window of the team that the command may use (R238, R253 step 9). -/
def State.inWindows (s : State) (t : Nat) (direct : Bool) (write : Bool) (rs : List (Nat × Nat)) : Option Nat :=
  (lineAddrs rs).find? (fun a => match (s.team t).windowAt (BitVec.ofNat 64 a) with
    | none => true
    | some w => (write && w.mode == .ro) || (w.mode != .scratch && s.versioned t && direct != w.direct))

/-- The access of a command to the lines of its own stash operands. A line that a copy will write is translated for a write also where it
is resident, so that W is checked and D set before the line can go home: DEDUCED (assumption 104, R324, R325). -/
def CmdSpec.ownAccess : CmdSpec → Access
  | .copy c => if c.dir % 2 == 0 then .engineWrite else .engineRead
  | .matrix _ => .engineRead
  | .coll _ => .engineRead

/-- Request an operand line that is INVALID (R253 step 12) for an engine at a place: it faults as an access of the line would
(R165, R238), and no link may reach it (R403). -/
def State.requestLine (s : State) (k : Access) (place t a : Nat) : State × Now :=
  let va : DWord := BitVec.ofNat 64 a
  match (s.team t).windowAt va with
  | none => (s, .ok [])
  | some w =>
    if w.mode == .scratch then (s, .ok []) else
    let n := (a - w.base.toNat) / 128
    let held := (w.line n).isSome
    if held && k == .engineRead then (s, .ok []) else
    match s.xlate place (s.team t).asid va k with
    | (s, .absent r) => (s, .trap { atAddr causePage va with access := k.bits, reason := r })
    | (s, .prot) => (s, .trap (atAddr causeProtection va))
    | (s, .ok pa leaf) =>
      let home := s.homeOf pa / 128 * 128
      if !s.paExists pa then (s, .trap (atAddr causeOutOfRange va))
      else if leafDevice leaf then (s, .trap (atAddr causeStashAccess va))
      else if held then (s, .ok [])
      else if (s.lineLink (remoteHome home) home).isNone then (s, .lost)
      else (s.startFill t w.num n home, .ok [])

/-- Request lines in turn, until one traps. -/
def State.requestLines (s : State) (k : Access) (place t : Nat) : List Nat → State × Now
  | [] => (s, .ok [])
  | a :: as =>
    match s.requestLine k place t a with
    | (s, .ok _) => s.requestLines k place t as
    | r => r

/-- A line of a team holds its data. -/
def State.lineReady (s : State) (t a : Nat) : Bool :=
  let va : DWord := BitVec.ofNat 64 a
  match (s.team t).windowAt va with
  | none => true
  | some w => w.mode == .scratch || match w.line ((a - w.base.toNat) / 128) with
    | some l => l.st != .filling
    | none => false

/-- A pinned line that was invalidated is fetched again through the pinned translation (R254), at once; where no link reaches its home
the team takes a containment event (R403). -/
def State.refetch (s : State) (c : Cmd) (t : Nat) (w : Window) (a : Nat) : State :=
  let n := (a - w.base.toNat) / 128
  match ((w.line n).map (·.pa)).or ((c.pinOf (a / 128 * 128)).map s.homeOf) with
  | none => s
  | some home =>
    let s := s.fillNow t w.num n home
    if (s.lineOf t w.num n).isNone then s.killTeam t causeUncorrectable false none 0 else s

/-- The place of a byte of a team's stash for a command, its line fetched. -/
def State.stashPlace (s : State) (c : Cmd) (t a : Nat) : State × Option Target :=
  match (s.team t).windowAt (BitVec.ofNat 64 a) with
  | none => (s, none)
  | some w =>
    let o := a - w.base.toNat
    if w.mode == .scratch then (s, some (.scratch t w.num o)) else (s.refetch c t w a, some (.line t w.num (o / 128) (a % 128)))

/-- The bytes of a place in stash. -/
def State.stashRead (s : State) (tg : Target) (n : Nat) : List Byte :=
  match tg with
  | .line t w m off => s.lineRead t w m off n
  | .scratch t w off => s.scratchRead t w off n
  | _ => List.replicate n 0

/-- Read bytes of one line of a team's stash for a matrix post (R265). -/
def State.stashGet (s : State) (c : Cmd) (t a n : Nat) : State × List Byte :=
  match s.stashPlace c t a with
  | (s, some tg) => (s, s.stashRead tg n)
  | (s, none) => (s, freeBytes s.ticks a n)

/-- An access of a command where it races (R154, R258): by the acquires of the lanes that posted it, and what they had released then. -/
def Cmd.spot (c : Cmd) (dev : Bool) (off size : Nat) (ver : Option Nat) : Spot :=
  ⟨c.bundle, c.lanes, 32 + c.stream, c.cfg, dev, off, size, ver, c.acq, some c.born⟩

/-- A command's access races (R154, R155): what it races, the bytes that are undefined by it, and whether it is reported. -/
def State.engineRace (s : State) (z : Spot) (tg : Target) (store : Bool) : State × BitVec 16 × Bool :=
  if !z.strong then (s, 0, false) else
  let rep := z.sizechk && (s.racing z).any (fun x => x.2.2.sizechk && ((z.llc && x.2.2.llc) || Config.freeBool s.ticks z.b 155))
  (s.raceEffects z tg store, s.raceMask z store, rep)

/-- The race of a command's access to stash (R154): the bytes that are undefined by it. -/
def State.stashRace (s : State) (c : Cmd) (tg : Target) (size : Nat) (store : Bool) : State × BitVec 16 :=
  match s.spotAt c.bundle 0 c.stream size tg with
  | some z =>
    let r := s.engineRace (c.spot false z.off size z.ver) tg store
    (r.1, r.2.1)
  | none => (s, 0)

/-- Read an element of a team's stash for a copy. -/
def State.sideGet (s : State) (c : Cmd) (t a n : Nat) : State × List Byte :=
  match s.stashPlace c t a with
  | (s, some tg) =>
    let (s, mask) := s.stashRace c tg n false
    (s, mixBytes s.ticks a mask (s.stashRead tg n))
  | (s, none) => (s, freeBytes s.ticks a n)

/-- Store an element in a team's stash for a copy (R239, R257). -/
def State.sidePut (s : State) (c : Cmd) (t a : Nat) (bs : List Byte) : State :=
  match s.stashPlace c t a with
  | (s, some tg) =>
    let (s, mask) := s.stashRace c tg bs.length true
    s.stashWrite tg (mixBytes s.ticks a mask bs)
  | (s, none) => s

/-- A command's access to memory (R154, R155). A store makes those that its bundle sees already be performed. -/
def State.engineAccess (s : State) (c : Cmd) (a off size : Nat) (store : Bool) : State × BitVec 16 × Bool :=
  let s := if store then s.settleSeen c.bundle off size else s
  let z := c.spot (c.devAt a) off size (s.cmdVer c)
  s.engineRace z (.mem off z.ver z.dev) store

/-- Read an element of global memory for a command, through the pinned translation: bytes, and whether R155 reports it. -/
def State.globalGet (s : State) (c : Cmd) (a n : Nat) : State × List Byte × Bool :=
  match c.pinOf a with
  | none => (s, freeBytes s.ticks a n, false)
  | some pa =>
    if !s.isLocal pa then (s.recallRemote pa false, freeBytes s.ticks a n, false)
    else if s.paDevice pa then (s, s.windowBytes pa n, false)
    else
      let (s, mask, rep) := s.engineAccess c a (paOffset pa) n false
      let (s, bs) := s.outsideRead (s.cmdVer c) (paOffset pa) n
      (s, mixBytes s.ticks a mask bs, rep)

/-- Write an element of global memory for a command. -/
def State.globalPut (s : State) (c : Cmd) (a : Nat) (bs : List Byte) : State × Bool :=
  match c.pinOf a with
  | none => (s, false)
  | some pa =>
    if !s.isLocal pa then (s.recallRemote pa true, false)
    else if s.paDevice pa then (s.windowStore pa bs, false)
    else
      let (s, mask, rep) := s.engineAccess c a (paOffset pa) bs.length true
      (s.outsideWrite (s.cmdVer c) (paOffset pa) (mixBytes s.ticks a mask bs), rep)

/-! ### Posting (R252, R253) -/

/-- The pages of ranges. -/
def pagesOf (rs : List (Nat × Nat)) : List Nat :=
  (rs.flatMap (fun r => if r.2 = 0 then [] else
    (List.range ((r.1 + r.2 - 1) / enginePage - r.1 / enginePage + 1)).map (fun i => r.1 / enginePage + i))).eraseDups

/-- A page that a command pins (R254): its number, its physical address, and whether it is a device page (R324). -/
structure Pin where
  page : Nat
  pa : Nat
  dev : Bool
  deriving DecidableEq, Repr

/-- Translate pages for a command (R253 step 11): a trap, or the pinned pages (R254). -/
def State.pinPages (s : State) (place : Nat) (asid : BitVec 16) (k : Access) (q : Nat) : List Nat → State × (TrapInfo ⊕ List Pin)
  | [] => (s, .inr [])
  | p :: ps =>
    let va : DWord := BitVec.ofNat 64 (p * enginePage)
    let bad (c : BitVec 8) : TrapInfo := { atAddr c va with stream := q }
    match s.xlate place asid va k with
    | (s, .absent r) => (s, .inl { bad causePage with access := k.bits, reason := r })
    | (s, .prot) => (s, .inl (bad causeProtection))
    | (s, .ok pa leaf) =>
      if !s.paExists pa then (s, .inl (bad causeOutOfRange)) else
      match s.pinPages place asid k q ps with
      | (s, .inr rest) => (s, .inr (⟨p, pa, leafDevice leaf⟩ :: rest))
      | r => r

/-- The pages of a command's global side with the access that it makes to them (R253 step 11). -/
def CmdSpec.pages : CmdSpec → List (Access × List Nat)
  | .copy c => [(if c.dir % 2 == 0 then .engineRead else .engineWrite, pagesOf c.globalRows)]
  | .matrix _ => []
  | .coll c => [(.engineRead, pagesOf [(c.send.toNat, c.sizes.1)]), (.engineWrite, pagesOf [(c.recv.toNat, c.sizes.2)])]

/-- Translate the pages of a command's global side. -/
def State.pinGlobals (s : State) (place : Nat) (asid : BitVec 16) (q : Nat) : List (Access × List Nat) → State × (TrapInfo ⊕ List Pin)
  | [] => (s, .inr [])
  | g :: gs =>
    match s.pinPages place asid g.1 q g.2 with
    | (s, .inr ps) => (match s.pinGlobals place asid q gs with
      | (s, .inr rest) => (s, .inr (ps ++ rest))
      | r => r)
    | r => r

/-- A command of the word at issue, before its number is given. -/
def State.newCmd (s : State) (token : BitVec 6) (spec : CmdSpec) (stream : Nat) (slot : Nat) (stamp retire : Bool) : Cmd :=
  let b := s.curB
  { asid := b.asid, bundle := s.cur.bundle, team := s.curTeam, core := if spec.kind = 2 then 0 else b.coreNo, seq := 0
    pc := s.cur.pc, token := token.toNat, st := .queued, spec := spec, stream := stream
    cfg := s.streamCfg s.cur.bundle stream, progress := 0, snap := [], paused := false, sizeovl := false, result := 0
    flags := 0, slot := slot, stamp := stamp, retire := retire, observed := false, lanes := 0, born := 0, acq := 0
    pins := [], devs := [], sent := [], orphan := false, due := none }

/-- The lines of a command's own stash operands. -/
def State.cmdLines (s : State) (c : Cmd) : List (Nat × Nat) :=
  (s.cmdStash c).flatMap (fun p => (lineAddrs p.2).map (fun a => (p.1, a)))

/-- The lines of the issuing team's stash that a command names. -/
def State.ownLines (s : State) (c : Cmd) : List Nat := ((s.cmdLines c).filter (fun x => x.1 == c.team)).map (·.2)

/-- The posting word of a bundle has its lines, or has them no longer; OWEND is when it first has (R271). -/
def State.readyPosting (s : State) (b : Nat) : State :=
  match (s.bundle b).posting with
  | none => s
  | some p =>
    let mark (r : Option DWord) (s : State) : State := s.modBundle b (fun x => { x with posting := some { p with ready := r } })
    match (s.ownLines p.cmd).all (s.lineReady p.cmd.team), p.ready with
    | true, none => mark (some s.clk) (if p.cmd.spec.kind == 1 then s.stampCmd p.cmd 3 else s)
    | false, some _ => mark none s
    | _, _ => s

/-- The word's checks of steps 1 to 10 have passed, and those of step 11 (R253): its issued set waits in CHECKING for fills and queue
space. -/
def State.post (s : State) (c : Cmd) : State :=
  match s.pinGlobals (s.cmdCore c) c.asid c.stream c.spec.pages with
  | (s, .inl i) => s.trapIssued i
  | (s, .inr _) =>
    match s.requestLines c.spec.ownAccess (s.cmdCore c) c.team (s.ownLines c) with
    | (s, .trap i) => s.trapIssued i
    | (s, .lost) => s.linkLost s.cur.bundle s.cur.trapPc
    | (s, _) =>
      let s := if c.spec.kind == 1 then s.stampCmd c 2 else s
      ((s.modBundle s.cur.bundle (fun b => { b with posting := some ⟨s.cur.lanes, c, none⟩ })).waitIssued .posting).readyPosting s.cur.bundle

/-- A posting word while another word of the bundle is in CHECKING stalls. -/
def State.posting (s : State) (us : List Use) (effect : State → State) : State :=
  s.uniWord us (fun s => if s.curB.posting.isSome then s.stall else effect s)

/-- Queue space of the engines (R253 step 13, R262). -/
def State.queueSpace (s : State) (c : Cmd) : Bool :=
  let mine := s.cmds.filter (fun x => (x.st == .queued || x.st == .running) && x.spec.kind == c.spec.kind
    && (c.spec.kind == 2 || s.cmdCore x == s.cmdCore c))
  match c.spec with
  | .copy _ => mine.length < 64
  | .matrix m => mine.foldl (fun n x => match x.spec with
      | .matrix y => n + y.time
      | _ => n) m.time ≤ 576
  | .coll _ => mine.length < 256

/-- The next sequence number of an engine in a context (R249). -/
def Context.nextSeq (c : Context) (engine : Nat) : BitVec 48 :=
  let n := (lookupKey engine c.seqs).getD 0 + 1
  if n == 0 then 1 else n

/-- The pages behind the resident stash lines of a command, pinned (R254). -/
def State.linePins (s : State) (c : Cmd) : List (Nat × Nat) :=
  ((s.ownLines c).filterMap (fun a =>
    ((s.team c.team).windowAt (BitVec.ofNat 64 a)).bind (fun w => (w.line ((a - w.base.toNat) / 128)).map (fun l =>
      (a / enginePage, (if l.remote then remotePa l.pa else l.pa + s.nodeid.toNat * 2 ^ 43) - a % enginePage))))).eraseDups

/-- The stash operands of a matrix post as bytes. -/
def State.operandBytes (s : State) (c : Cmd) (rs : List (Nat × Nat)) : State × List Byte :=
  rs.foldl (fun acc r => (List.range r.2).foldl (fun acc i =>
    let g := acc.1.stashGet c c.team (r.1 + i) 1
    (g.1, acc.2 ++ g.2)) acc) (s, [])

/-- Registers of a matrix post: the A registers that it reads from a lane (R261). -/
def MatSpec.aRegs (m : MatSpec) : Nat :=
  if m.asrc then 0 else if m.afmt == 0x13 then 2 * m.k
  else if m.afmt == 0x18 then (m.k + 4) / 5 else if m.afmt == 0x10 || m.afmt == 0x11 then (m.k + 1) / 2 else (m.k + 3) / 4

/-- Bind the registers of a matrix post in a lane (R262): an accumulator's write made meanwhile is lost. The window is the lane's when the
post is accepted, which another lane may have moved by a call or a return while the word was CHECKING; R261 says as bound at issue: DESIGN
CHOICE (assumption 105). -/
def Thread.bindPost (t : Thread) (i : Nat) (m : MatSpec) : Thread :=
  let at_ (r : Nat) : Nat := t.base + (r - 8)
  let cs := (List.range 32).map (fun j => at_ (m.cbase + j))
  let as := (List.range m.aRegs).map (fun j => at_ (m.abase + j))
  { t with bound := t.bound.map (fun y => if y.acc && cs.contains y.idx then { y with alt := none } else y)
      ++ as.map (fun x => ⟨x, i, false, false, none⟩) ++ cs.map (fun x => ⟨x, i, true, false, none⟩) }

/-- The requests to other nodes that a command has sent when it starts (R402, R403): to a page or a member, over each link that its route
may use. -/
def State.sentTo (s : State) (pas : List Nat) : List Sent :=
  pas.flatMap (fun pa => (s.routeLinks (paNode pa)).map (fun n => ⟨n, pa, s.clk⟩))

/-- The pages of a copy's global side on other nodes. -/
def State.farPages (s : State) (c : Cmd) (x : CopySpec) : List Nat :=
  (pagesOf x.globalRows).filterMap (fun p => match c.pinOf (p * enginePage) with
    | some pa => if s.isLocal pa then none else some pa
    | none => none)

/-- The other members of a collective, each as an address of its node. -/
def State.farMembers (s : State) (x : CollSpec) : List Nat :=
  (x.members.filter (fun m => m != s.nodeid)).map (fun m => m.toNat * 2 ^ 43)

/-- The places on other nodes that a command sends requests to. -/
def State.cmdFar (s : State) (c : Cmd) : List Nat :=
  match c.spec with
  | .copy x => s.farPages c x
  | .coll x => s.farMembers x
  | .matrix _ => []

/-- A command runs, and has sent its requests to other nodes. -/
def State.startCmd (s : State) (i : Nat) : State :=
  s.modCmd i (fun x => { x with st := .running, sent := s.sentTo (s.cmdFar x) })

/-- Accept a command (R252): number, token, bound registers, pinned pages, stamps; its lanes go on at the next word. -/
def State.acceptCmd (s : State) (p : Posting) (pins : List Pin) : State :=
  let c : Cmd := { p.cmd with
    pins := pins.map (fun x => (x.page, x.pa)) ++ s.linePins p.cmd
    devs := (pins.filter (·.dev)).map (·.page) }
  let b := c.bundle
  let lanes := (lanesIn p.lanes (s.bundle b).threads.length).filter (fun l => (s.thread b l).st == .waiting .posting)
  let s := match c.spec with
    | .matrix _ => s
    | _ => s.drainStream b lanes c.stream
  let seq := (s.ctx c.asid).nextSeq c.engine
  let group (x : CollSpec) : Nat := (lookupKey x.group.toNat ((s.ctx c.asid).colls.map (fun g => (g.1.toNat, g.2)))).getD 0
  let (s, snap) := match c.spec with
    | .matrix m => s.operandBytes c (m.ranges (s.bundle b).w)
    | _ => (s, [])
  let spec := match c.spec with
    | .coll x => .coll { x with number := group x }
    | x => x
  let set := laneSet lanes
  let c : Cmd := { c with
    seq := seq, spec := spec, snap := snap, lanes := set, born := s.ticks, acq := (s.bundle b).acquired set c.stream }
  let i := s.cmds.length
  let s : State := { s with cmds := s.cmds ++ [c] }
  let s := s.modCtx c.asid (fun x => { x with
    seqs := setKey c.engine seq x.seqs
    colls := match c.spec with
      | .coll y => (y.group, y.number + 1) :: x.colls.filter (fun g => g.1 != y.group)
      | _ => x.colls })
  let s := s.modBundle b (fun x =>
    let x := { x with posting := none, s := (x.s.modify c.token (fun r => { r with tag := .pend })).modify (c.token + 1) (fun r => { r with tag := .pend }) }
    match c.spec with
    | .matrix m => { x with threads := x.threads.map (fun t => t.bindPost i m) }
    | _ => x)
  let s := lanes.foldl (fun s l => s.modThread b l (fun t => (t.advance t.pc).wake)) s
  match c.spec with
  | .copy x =>
    let s := if x.dir % 2 == 0 then s.stampCmd c 0 else s
    if x.rows = 0 || x.rbytes = 0 then (if x.dir % 2 == 0 then s.stampCmd c 1 else s.stampCmd c 6).finishCmd i else s
  | .matrix _ => s
  | .coll _ => s.startCmd i

/-- A check of a word in CHECKING fails (R252): its issued set parks with the cause. -/
def State.postingTrap (s : State) (b : Nat) (p : Posting) (i : TrapInfo) : State :=
  let set := (lanesIn p.lanes (s.bundle b).threads.length).filter (fun l => (s.thread b l).st == .waiting .posting)
  (s.modBundle b (fun x => { x with posting := none })).takeTraps b p.cmd.pc set (set.map (fun l => (l, i)))

/-- A fence of a posting lane holds back the accesses of the command (R152, R258). -/
def State.fenceKeeps (s : State) (p : Posting) : Bool :=
  p.cmd.spec.kind != 1 && (lanesIn p.lanes (s.bundle p.cmd.bundle).threads.length).any (fun l =>
    let t := s.thread p.cmd.bundle l
    t.st == .waiting .posting && t.held (BitVec.ofNat 4 p.cmd.stream) true)

/-- ENGINE_COMMAND_QUEUED (R252): a word in CHECKING whose fills are done and whose engine has space is accepted, once no fence of its lanes
waits for what must come before the command (R258). A line that was dropped meanwhile is requested again, and the pages are translated as
they are pinned (R254). -/
def execEngineCommandQueued (bundle : Nat) (s : State) : Host.Outcome State Fault Refusal :=
  .next (match (s.bundle bundle).posting with
    | none => s
    | some p =>
      match s.requestLines p.cmd.spec.ownAccess (s.cmdCore p.cmd) p.cmd.team (s.ownLines p.cmd) with
      | (s, .trap i) => s.postingTrap bundle p i
      | (s, .lost) => s.linkLost bundle p.cmd.pc
      | (s, _) =>
        let s := s.readyPosting bundle
        if !((s.ownLines p.cmd).all (s.lineReady p.cmd.team) && s.queueSpace p.cmd) || s.fenceKeeps p then s else
        match s.pinGlobals (s.cmdCore p.cmd) p.cmd.asid p.cmd.stream p.cmd.spec.pages with
        | (s, .inl i) => s.postingTrap bundle p i
        | (s, .inr pins) => s.acceptCmd p pins)

/-! ### Copies (R256 to R258, R368) -/

/-- The element size of a copy's format (R43, R256). -/
def copyElement (f : Nat) : Option Nat :=
  match f with
  | 0x00 | 0x01 | 0x02 | 0x14 | 0x15 => some 1
  | 0x03 | 0x04 | 0x10 | 0x11 => some 2
  | 0x05 | 0x06 | 0x12 | 0x18 => some 4
  | 0x07 | 0x08 | 0x13 => some 8
  | _ => none

/-- The copy of a shape record, or none where step 5 of R253 fails (R256). -/
def copyOfRecord (bs : List Byte) : Option CopySpec :=
  let at_ (o n : Nat) : Nat := ofBytes ((bs.drop o).take n)
  let flags := at_ 28 2
  let dir := flags % 4
  match copyElement (at_ 26 1) with
  | none => none
  | some e =>
    let c : CopySpec := ⟨BitVec.ofNat 64 (at_ 0 8), BitVec.ofNat 64 (at_ 8 8), at_ 16 2, at_ 18 2, at_ 20 4, at_ 24 2, e, dir⟩
    let dstStride := if dir % 2 == 0 then c.sstride else c.gstride
    if flags / 1024 != 0 || bitsAt flags 2 2 != 0 || at_ 27 1 ≥ 16 || at_ 30 2 != 0 || c.rbytes % e != 0
      || (c.rows > 1 && dstStride < c.rbytes) || (dir ≥ 2 && c.gbase.toNat ≥ 2 ^ 56) then none
    else some c

/-- The partner of a PEER copy is wrong (R256). -/
def State.badPeer (s : State) (c : CopySpec) : Bool :=
  c.dir ≥ 2 &&
  match s.teamOfRank s.curTeam c.peer with
  | none => true
  | some p => p == s.curTeam || (lineAddrs c.peerRows).any (fun a => match (s.team p).windowAt (BitVec.ofNat 64 a) with
      | some w => w.mode != .scratch
      | none => true)

/-- The first trap of steps 6 to 10 of R253 for a copy on a stream. -/
def State.copyTrap (s : State) (c : CopySpec) (q : Nat) : Option TrapInfo :=
  let t := s.curTeam
  let e := c.esize
  let bad (k : BitVec 8) (a : Nat) : Option TrapInfo := some (accessTrap k (BitVec.ofNat 64 a) e q)
  let g := c.gbase.toNat
  let st := c.sbase.toNat
  let direct := s.streamDirect s.cur.bundle q
  let global := c.globalRows
  if s.badPeer c then some (TrapInfo.of causeEnginePeer)
  else if g % e != 0 || c.gstride % e != 0 then bad causeMisaligned g
  else if st % e != 0 || c.sstride % e != 0 then bad causeMisaligned st
  else if global.any (fun r => r.1 + r.2 > 2 ^ 56) then bad causeOutOfRange g
  else if c.stashRows.any (fun r => r.1 + r.2 > 2 ^ 56) then bad causeOutOfRange st
  else match s.inWindows t direct (c.dir % 2 == 0) c.stashRows with
    | some a => bad causeStashAccess a
    | none =>
      match (lineAddrs global).find? (fun a => vaPrivate (BitVec.ofNat 64 a) || ((s.team t).windowAt (BitVec.ofNat 64 a)).isSome) with
      | some a => bad causeStashAccess a
      | none => if (pagesOf global).length > 256 then some (TrapInfo.of causeEnginePages) else none

/-- CPY (R257). -/
def execCpy (d a : BitVec 6) (s : State) : Host.Outcome State Fault Refusal :=
  s.word (.cpy d a) (fun s => s.posting [src a true .any] (fun s =>
    let va := s.u64 a
    if va.toNat % 32 != 0 then s.uniNow a (.trap (accessTrap causeMisaligned va 8 0)) (fun _ s => s) else
    let (s, r) := s.readBlock .engineRead va 4
    s.uniNow a r (fun bs s =>
      match copyOfRecord bs with
      | none => s.trapIssued (TrapInfo.of causeEngineParam)
      | some c =>
        let q := ofBytes ((bs.drop 27).take 1)
        let flags := ofBytes ((bs.drop 28).take 2)
        match s.copyTrap c q with
        | some i => s.trapIssued i
        | none => s.post (s.newCmd d (.copy c) q (bitsAt flags 4 4) (bitsAt flags 8 1 == 1) (bitsAt flags 9 1 == 1)))))

/-- The beats of a copy: for each row, the pieces that lie in one 128-byte block of the destination, as row, offset and
length. -/
def CopySpec.beats (c : CopySpec) : List (Nat × Nat × Nat) :=
  let base := if c.dir == 1 then c.gbase.toNat else if c.dir == 3 then privateBase + bitsAt c.gbase.toNat 0 40 else c.sbase.toNat
  let stride := if c.dir % 2 == 0 then c.sstride else c.gstride
  if c.rbytes = 0 then [] else
  (List.range c.rows).flatMap (fun r =>
    let a := base + r * stride
    (List.range ((a + c.rbytes - 1) / 128 - a / 128 + 1)).map (fun i =>
      let lo := max a ((a / 128 + i) * 128)
      let hi := min (a + c.rbytes) ((a / 128 + i + 1) * 128)
      (r, lo - a, hi - lo)))

/-- The virtual address of a byte of a copy's side: the partner's or global side, or the stash side. -/
def CopySpec.sideAddr (c : CopySpec) (far : Bool) (row off : Nat) : Nat :=
  if far then (if c.dir ≥ 2 then privateBase + bitsAt c.gbase.toNat 0 40 else c.gbase.toNat) + row * c.gstride + off
  else c.sbase.toNat + row * c.sstride + off

/-- Read an element of one side of a copy. -/
def State.copyGet (s : State) (c : Cmd) (x : CopySpec) (far : Bool) (row off : Nat) : State × List Byte × Bool :=
  let a := x.sideAddr far row off
  if !far then let r := s.sideGet c c.team a x.esize; (r.1, r.2, false)
  else if x.dir ≥ 2 then
    match s.teamOfRank c.team x.peer with
    | some p => let r := s.sideGet c p a x.esize; (r.1, r.2, false)
    | none => (s, freeBytes s.ticks a x.esize, false)
  else s.globalGet c a x.esize

/-- Write an element of one side of a copy. -/
def State.copyPut (s : State) (c : Cmd) (x : CopySpec) (far : Bool) (row off : Nat) (bs : List Byte) : State × Bool :=
  let a := x.sideAddr far row off
  if !far then (s.sidePut c c.team a bs, false)
  else if x.dir ≥ 2 then
    match s.teamOfRank c.team x.peer with
    | some p => (s.sidePut c p a bs, false)
    | none => (s, false)
  else s.globalPut c a bs

/-- Read the elements of a beat. -/
def State.beatGet (s : State) (c : Cmd) (x : CopySpec) (row off : Nat) : Nat → State × List Byte × Bool
  | 0 => (s, [], false)
  | n + 1 =>
    let (s, bs, rep) := s.copyGet c x (x.dir % 2 == 0) row off
    let (s, rest, rep') := s.beatGet c x row (off + x.esize) n
    (s, bs ++ rest, rep || rep')

/-- Write the elements of a beat. -/
def State.beatPut (s : State) (c : Cmd) (x : CopySpec) (row off : Nat) (bs : List Byte) : Nat → State × Bool
  | 0 => (s, false)
  | n + 1 =>
    let (s, rep) := s.copyPut c x (x.dir % 2 == 1) row off (bs.take x.esize)
    let (s, rep') := s.beatPut c x row (off + x.esize) (bs.drop x.esize) n
    (s, rep || rep')

/-- The copy reads the byte at a home (R257), by its pinned translations. -/
def State.copyReads (s : State) (c : Cmd) (x : CopySpec) (home : Nat) : Bool :=
  (s.pinnedAt c home).any (fun a => (if x.dir == 0 then x.globalRows else x.stashRows).any (fun r => r.1 ≤ a && a < r.1 + r.2))

/-- The bytes of a beat as they are written: one that the copy both reads and writes is unspecified (R257). -/
def State.copyBytes (s : State) (c : Cmd) (x : CopySpec) (a : Nat) (bs : List Byte) : List Byte :=
  if x.dir ≥ 2 then bs else
  bs.mapIdx (fun i b => match c.pinOf (a + i) with
    | some pa => if s.copyReads c x (s.homeOf pa) then Config.freeByte s.ticks 257 i else b
    | none => b)

/-- Make one beat of a copy that runs: the write leaves the engine (R317, R297), and is made. -/
def State.copyBeat (s : State) (i : Nat) (c : Cmd) (x : CopySpec) (beat : Nat × Nat × Nat) : State :=
  if (s.cmd? i).map (·.st) != some .running then s else
  let n := beat.2.2 / x.esize
  let (s, bs, rep) := s.beatGet c x beat.1 beat.2.1 n
  let a := x.sideAddr (x.dir % 2 == 1) beat.1 beat.2.1
  let (s, bs) := s.inject c.asid (BitVec.ofNat 64 a) (s.copyBytes c x a bs)
  let s := if x.dir == 3 then s else s.watchWrite c.team (s.bundle c.bundle).core c.stream (BitVec.ofNat 64 a) bs false
  let (s, rep') := s.beatPut c x beat.1 beat.2.1 bs n
  s.modCmd i (fun y => { y with progress := y.progress + 1, sizeovl := y.sizeovl || rep || rep' })

/-- The watchpoint that a beat hits (R366, R368), with its watched bytes. -/
def State.beatHit (s : State) (c : Cmd) (va : DWord) (n : Nat) : Option (Nat × BitVec 16) :=
  let x := s.ctx c.asid
  (List.range 8).findSome? (fun k =>
    let m := watchedBytes (x.wpa.getD k 0) (x.wpm.getD k 0) va n
    if watchType (x.wpm.getD k 0) false true && m != 0 then some (k, m) else none)

/-- Make beats of a copy until one hits a watchpoint: the state, the hit with its address, and the beats left. -/
def State.copyBeats (s : State) (i : Nat) (c : Cmd) (x : CopySpec) :
    List (Nat × Nat × Nat) → State × Option (Nat × BitVec 16 × DWord) × List (Nat × Nat × Nat)
  | [] => (s, none, [])
  | b :: bs =>
    let va : DWord := BitVec.ofNat 64 (x.sideAddr (x.dir % 2 == 1) b.1 b.2.1)
    let s := s.copyBeat i c x b
    match s.beatHit c va b.2.2 with
    | some (k, m) => (s, some (k, m, va), bs)
    | none => s.copyBeats i c x bs

/-- The words of a copy's report (R368). -/
def copyReport (c : Cmd) (va : DWord) (k : Nat) (m : BitVec 16) (after : Nat) : List DWord :=
  [c.name, va, BitVec.ofNat 64 (k * 2 ^ 32 + 2 ^ 24 + after * 2 ^ 16 + m.toNat)]

/-- Report a beat that has hit a watchpoint to the handler bundle of the copy's core (R368); `after` further beats have been made. -/
def State.reportBeat (s : State) (i : Nat) (c : Cmd) (hit : Nat × BitVec 16 × DWord) (after : Nat) : State :=
  let b := s.bundle c.bundle
  s.queueEvent b.pid b.core
    ⟨causeWatchReport, false, b.sub, b.slot, c.pc, 0, some c.team, copyReport c hit.2.2 hit.1 hit.2.1 after, 0, some i⟩

/-- A beat has hit a watchpoint (R368): at most 3 further beats are made, the copy pauses, and every beat that hits is reported. -/
def State.pauseCopy (s : State) (i : Nat) (c : Cmd) (x : CopySpec) (hit : Nat × BitVec 16 × DWord)
    (rest : List (Nat × Nat × Nat)) : State :=
  let more := rest.take ((Config.freeWord s.ticks i 0).toNat % 4)
  let s := more.foldl (fun s b => s.copyBeat i c x b) s
  let s := (s.modCmd i (fun y => { y with paused := true })).reportBeat i c hit more.length
  (more.zip (List.range more.length)).foldl (fun s b =>
    let va : DWord := BitVec.ofNat 64 (x.sideAddr (x.dir % 2 == 1) b.1.1 b.1.2.1)
    match s.beatHit c va b.1.2.2 with
    | some (k, m) => s.reportBeat i c (k, m, va) (more.length - 1 - b.2)
    | none => s) s

/-- COPY_START (R252): the engine takes a queued copy. -/
def execCopyStart (cmd : Nat) (s : State) : Host.Outcome State Fault Refusal :=
  .next (match s.cmd? cmd with
    | some c => (match c.spec with
      | .copy _ => if c.st == .queued then s.startCmd cmd else s
      | _ => s)
    | none => s)

/-- The copy's global side is on a node that no link reaches (R403). -/
def State.copyLost (s : State) (c : Cmd) (x : CopySpec) : Bool :=
  (s.farPages c x).any (fun pa => (s.routeOf pa).isNone)

/-- A copy that has made all its beats completes; one that was cancelled meanwhile does not. -/
def State.copyEnd (s : State) (i : Nat) (c : Cmd) (x : CopySpec) : State :=
  if (s.cmd? i).map (·.st) != some .running then s else (s.stampCmd c (if x.dir % 2 == 0 then 1 else 6)).finishCmd i

/-- COPY_DONE (R257, R258): a running copy makes the beats that are left, and completes unless a watchpoint pauses it. -/
def execCopyDone (cmd : Nat) (s : State) : Host.Outcome State Fault Refusal :=
  .next (match s.cmd? cmd with
    | some c => (match c.spec with
      | .copy x =>
        if c.st != .running || c.paused then s
        else if s.copyLost c x then s.killTeam c.team causeUncorrectable false none 0
        else
          let handled := (s.handlerBundle (s.bundle c.bundle).pid (s.bundle c.bundle).core).isSome
          let beats := x.beats.drop c.progress
          if handled then
            match s.copyBeats cmd c x beats with
            | (s, some hit, rest) => s.pauseCopy cmd c x hit rest
            | (s, none, _) => s.copyEnd cmd c x
          else (beats.foldl (fun s b => s.copyBeat cmd c x b) s).copyEnd cmd c x
      | _ => s)
    | none => s)

/-! ### Matrix posts (R259 to R268) -/

/-- The elements of a register (R260). -/
def matEpr (f : BitVec 6) : Nat := if f == 0x13 then 1 else if f == 0x18 then 5 else if f == 0x10 || f == 0x11 then 2 else 4

/-- The rate R of a pair (R260). -/
def matRate (f : BitVec 6) : Nat :=
  if f == 0x13 then 512 else if f == 0x10 || f == 0x11 then 8192 else if f == 0x18 then 32768 else 16384

/-- The formats of a matrix pair (R260). -/
def matPair (a b : BitVec 6) : Bool :=
  let narrow (f : BitVec 6) : Bool := f == 0x14 || f == 0x15
  (a == b && (a == 0x13 || a == 0x11 || a == 0x10 || a == 0x18)) || (narrow a && narrow b)

/-- The tag of an A register (R260). -/
def matTag (f : BitVec 6) : Tag :=
  if f == 0x13 then .f64 else if f == 0x10 then .f16x2 else if f == 0x11 then .bf16x2 else if f == 0x14 then .e4m3x4
  else if f == 0x15 then .e5m2x4 else .lg6x5

/-- The matrix post of a parameter block for a bundle of width `w`, or none where step 5 of R253 fails (R259 to R262). -/
def matOfBlock (w : Nat) (p : Nat → Word) : Option MatSpec :=
  let f (r lo len : Nat) : Nat := bitsAt (p r).toNat lo len
  let afmt : BitVec 6 := BitVec.ofNat 6 (f 0 0 6)
  let bfmt : BitVec 6 := BitVec.ofNat 6 (f 0 8 6)
  let m : MatSpec := {
    afmt := afmt, bfmt := bfmt, k := f 1 16 16, abase := f 1 8 6, cbase := f 1 0 6, accz := f 0 19 1 == 1
    reuse := f 0 18 1 == 1, asrc := f 0 17 1 == 1, astash := joinPair (p 2) (p 3), bstash := joinPair (p 4) (p 5)
    astride := f 6 16 16, bstride := f 6 0 16, ascoff := f 7 0 16, bscoff := f 7 16 16, time := 0 }
  let lg := afmt == 0x18
  let z := if afmt == 0x13 then 8 else 4
  let t := 16 + (w * m.cols * m.k + matRate afmt - 1) / matRate afmt
  let stride (x : Nat) : Bool := x % z == 0 && x ≥ m.rowBytes
  if f 0 26 6 != 0 || f 0 14 3 != 0 || f 0 6 2 != 0 || f 1 14 2 != 0 || f 1 6 2 != 0 || !matPair afmt bfmt || m.k == 0
    || (m.asrc && m.abase != 0) || (!m.asrc && (m.astash != 0 || m.astride != 0))
    || (!lg && (m.bscoff != 0 || m.ascoff != 0)) || (!m.asrc && m.ascoff != 0)
    || !(8 ≤ m.cbase && m.cbase ≤ 32)
    || (!m.asrc && (m.abase < 8 || m.abase + m.aRegs > 64 || rangesMeet m.abase m.aRegs m.cbase 32))
    || !stride m.bstride || (m.asrc && !stride m.astride) || t > 512 then none
  else some { m with time := t }

/-- The trap of step 7 of R253 in a created lane (R262). -/
def State.matLaneTrap (s : State) (m : MatSpec) (l : Nat) : Option TrapInfo :=
  let t := s.curB.thread l
  let as := (List.range m.aRegs).map (fun i => m.abase + i)
  let cs := (List.range 32).map (fun i => m.cbase + i)
  let read := as.map (fun r => (r, matTag m.afmt)) ++ (if m.accz then [] else cs.map (fun r => (r, if m.afmt == 0x13 then Tag.f64 else .f32)))
  let tagOf (r : Nat) : Option Tag := if (t.boundAt (t.key r)).isSome then none else some (t.keyGet (t.key r)).tag
  let first (c : BitVec 8) (r : Nat) : TrapInfo := { TrapInfo.atReg c false r with okind := 1, other := s.threadName s.cur.bundle l }
  match (as ++ cs).find? (fun r => !t.inWindow r) with
  | some r => some (first causeWindowRange r)
  | none =>
    match (if s.tagCheck then read.findSome? (fun r =>
        if tagOf r.1 == some .empty then some (first causeUninitRead r.1)
        else if tagOf r.1 == some .pend then some (first causePendingTouch r.1) else none) else none) with
    | some i => some i
    | none => read.findSome? (fun r => match tagOf r.1 with
      | none => none
      | some g => if g == .raw || g == r.2 || g == .empty || g == .pend then none else some (first causeFormatTag r.1))

/-- The trap of steps 8 and 9 of R253 for a matrix post. -/
def State.matStashTrap (s : State) (m : MatSpec) : Option TrapInfo :=
  let z := if m.afmt == 0x13 then 8 else 4
  let bad (k : BitVec 8) (a : Nat) : Option TrapInfo := some (atAddr k (BitVec.ofNat 64 a))
  let rs := m.ranges s.curB.w
  if m.asrc && m.astash.toNat % z != 0 then bad causeMisaligned m.astash.toNat
  else if m.bstash.toNat % z != 0 then bad causeMisaligned m.bstash.toNat
  else match rs.find? (fun r => r.1 + r.2 > 2 ^ 56) with
    | some r => bad causeOutOfRange r.1
    | none =>
      match (lineAddrs rs).find? (fun a => ((s.team s.curTeam).windowAt (BitVec.ofNat 64 a)).isNone) with
      | some a => bad causeStashAccess a
      | none => none

/-- MMPOST (R262). R77 and R259 say not which tags p0 to p7 may have: they are taken as the words of addresses and counts are, so that
RAW, INT and W64 are accepted (assumption 87, DESIGN CHOICE). -/
def execMmpost (d a : BitVec 6) (s : State) : Host.Outcome State Fault Refusal :=
  s.word (.mmpost d a) (fun s => s.posting [srcN a 8 .int] (fun s =>
    let p (i : Nat) : Word := (s.readS s.cur.bundle (a.toNat + i)).val
    if s.curB.w == 16 then s.trapIssued (TrapInfo.of causeEngineWidth)
    else match matOfBlock s.curB.w p with
      | none => s.trapIssued (TrapInfo.of causeEngineParam)
      | some m =>
        match (indices s.curB.threads).findSome? (s.matLaneTrap m) with
        | some i => s.trapIssued i
        | none =>
          match s.matStashTrap m with
          | some i => s.trapIssued i
          | none =>
            let c := s.newCmd d (.matrix m) 0 (bitsAt (p 0).toNat 20 4) (bitsAt (p 0).toNat 24 1 == 1) (bitsAt (p 0).toNat 25 1 == 1)
            s.post c))

/-- MATRIX_TURN (R262): the first post of a core's FIFO that is not DONE starts. Where it meets no contention, which is the
implementation's, it ends after its time (R271). -/
def execMatrixTurn (cmd : Nat) (s : State) : Host.Outcome State Fault Refusal :=
  .next (match s.cmd? cmd with
    | some c => (match c.spec with
      | .matrix m =>
        let earlier := (List.range cmd).any (fun i => match s.cmd? i with
          | some x => x.spec.kind == 1 && s.cmdCore x == s.cmdCore c && (x.st == .queued || x.st == .running)
          | none => false)
        if c.st != .queued || earlier then s else
        let due := if Config.freeBool s.ticks cmd 271 then none else some (s.clk + BitVec.ofNat 64 m.time)
        (s.modCmd cmd (fun x => { x with st := .running, due := due })).stampCmd c 4
      | _ => s)
    | none => s)

/-- Element `k` of a row of words (R260). -/
def matElem (f : BitVec 6) (row k : Nat) : Nat :=
  if f == 0x13 then bitsAt row (64 * k) 64
  else
    let e := matEpr f
    let bits := if f == 0x18 then 6 else 32 / e
    bitsAt row (32 * (k / e) + bits * (k % e)) bits

/-- The floating-point format of an operand code. -/
def matFmt (f : BitVec 6) : FFmt :=
  if f == 0x13 then fmtF64 else if f == 0x10 then fmtF16 else if f == 0x11 then fmtBF16 else if f == 0x14 then fmtE4M3 else fmtE5M2

/-- GroupSum (R72) of exact products, with its flags. In a group that holds a quiet NaN and also infinities of both signs R72's sentences
conflict on NV: the first of its cases is taken, a NaN without NV (assumption 83, DESIGN CHOICE). -/
def groupSum (ps : List Exact) : FVal × BitVec 6 :=
  let nv := ps.any (fun p => p == .nan true)
  let infs := ps.filterMap (fun p => match p with
    | .inf n => some n
    | _ => none)
  let vals := ps.filterMap (fun p => match p with
    | .val n m e => if m = 0 then none else some (n, m, e)
    | _ => none)
  if ps.any (fun p => match p with | .nan _ => true | _ => false) then (.nan false, flagIf nv flagNV)
  else if infs.contains true && infs.contains false then (.nan false, flagNV)
  else match infs with
    | n :: _ => (.inf n, 0)
    | [] => match vals with
      | [] => (.num false 0 0, 0)
      | v :: vs =>
        let top (v : Bool × Nat × Int) : Int := v.2.1.log2 + v.2.2
        let e := vs.foldl (fun m v => max m (top v)) (top v)
        let floor (v : Bool × Nat × Int) : Int :=
          let sh := v.2.2 - (e - 41)
          if sh ≥ 0 then signedInt v.1 (v.2.1 * 2 ^ sh.toNat) else signedInt v.1 v.2.1 / (2 ^ (-sh).toNat : Nat)
        let sum := (v :: vs).foldl (fun a v => a + floor v) 0
        let r := fmtF32.round .rne false (.val (sum < 0) sum.natAbs (e - 41))
        (fmtF32.unpack r.bits, r.fl)

/-- BlockSum (R73). -/
def blockSum (xs : List (Nat × Nat)) (ea eb : Int) : FVal × BitVec 6 :=
  if ea = -128 || eb = -128 then (.num false 0 0, 0) else
  let sum : Int := xs.foldl (fun a p => match lgProd p.1 p.2 with
    | .num n m e => a + signedInt n (m * 2 ^ (e + 31).toNat)
    | _ => a) 0
  let r := fmtF32.round .rne false (.val (sum < 0) sum.natAbs (ea + eb - 31))
  (fmtF32.unpack r.bits, r.fl)

/-- One step of an F32 accumulation: C := RoundF32(C + x, RNE). -/
def accStep (c : FRes) (x : FVal × BitVec 6) : FRes :=
  let r := fmtF32.round .rne false (fAdd .rne (fmtF32.unpack c.bits) x.1)
  ⟨r.bits, c.fl ||| x.2 ||| r.fl⟩

/-- The sum of c and A(i, k) × B(k, j) under the rule of R260: rows as numbers, and the scales of their blocks. -/
def matSum (m : MatSpec) (arow brow : Nat) (as bs : List Int) (c : Nat) : FRes :=
  let a (k : Nat) : Nat := matElem m.afmt arow k
  let b (k : Nat) : Nat := matElem m.bfmt brow k
  if m.afmt == 0x13 then
    (List.range m.k).foldl (fun c k =>
      let r := fmtF64.round .rne false (fFma .rne (fmtF64.unpack (a k)) (fmtF64.unpack (b k)) (fmtF64.unpack c.bits))
      ⟨r.bits, c.fl ||| r.fl⟩) ⟨c, 0⟩
  else if m.afmt == 0x18 then
    (List.range m.blocks).foldl (fun c i =>
      let ks := (List.range (min 40 (m.k - 40 * i))).map (fun j => 40 * i + j)
      accStep c (blockSum (ks.map (fun k => (a k, b k))) (as.getD i 0) (bs.getD i 0))) ⟨c, 0⟩
  else
    (List.range ((m.k + 31) / 32)).foldl (fun c g =>
      let ks := (List.range (min 32 (m.k - 32 * g))).map (fun j => 32 * g + j)
      accStep c (groupSum (ks.map (fun k => fMul ((matFmt m.afmt).unpack (a k)) ((matFmt m.bfmt).unpack (b k)))))) ⟨c, 0⟩

/-- An A or C register of a post in a lane, as a 32-bit number: an operand written meanwhile has its old or its new value
(R78). -/
def State.matReg (s : State) (l cmd idx : Nat) (t : Thread) : Nat :=
  let now := (t.ringGet idx).val
  match t.bound.find? (fun y => y.cmd == cmd && y.idx == idx && !y.acc) with
  | some y => (match y.alt with
    | some r => if r.val == now then now.toNat else if Config.freeBool s.ticks l idx then r.val.toNat else now.toNat
    | none => now.toNat)
  | none => now.toNat

/-- Consecutive registers of a post in a lane as one number. -/
def State.matRegs (s : State) (l cmd base n : Nat) (t : Thread) : Nat :=
  (List.range n).foldl (fun v i => v + s.matReg l cmd (base + i) t * 2 ^ (32 * i)) 0

/-- The least of numbers, or 0. -/
def leastOf (xs : List Nat) : Nat := xs.foldl min (xs.headD 0)

/-- Stash operands with each byte old or new where it changed since the acceptance (R265). -/
def chooseBytes (tick place : Nat) (old new : List Byte) : List Byte :=
  new.mapIdx (fun i b => let o := old.getD i b; if o == b then b else if Config.freeBool tick place i then o else b)

/-- The signed scales of a row. -/
def scalesOf (bs : List Byte) : List Int := bs.map (fun b => b.toInt)

/-- The C row of a lane (R262): the bits of each result, and flags. -/
def State.matRow (s : State) (i : Nat) (m : MatSpec) (ops : List Byte) (w l : Nat) (t : Thread) : List Nat × BitVec 6 :=
  let rb := m.rowBytes
  let nb := m.blocks
  let lg := m.afmt == 0x18
  let aArea := if m.asrc then w * rb else 0
  let aScale := if m.asrc && lg then w * nb else 0
  let piece (o n : Nat) : List Byte := (ops.drop o).take n
  let mine := t.bound.filter (fun y => y.cmd == i)
  let abase := leastOf ((mine.filter (fun y => !y.acc)).map (·.idx))
  let cbase := leastOf ((mine.filter (·.acc)).map (·.idx))
  let arow := if m.asrc then ofBytes (piece (l * rb) rb) else s.matRegs l i abase m.aRegs t
  let as := if m.asrc && lg then scalesOf (piece (aArea + l * nb) nb) else List.replicate nb 0
  let f64 := m.afmt == 0x13
  let rs := (List.range m.cols).map (fun j =>
    let brow := ofBytes (piece (aArea + aScale + j * rb) rb)
    let bs := if lg then scalesOf (piece (aArea + aScale + m.cols * rb + j * nb) nb) else []
    let c := if m.accz then 0 else if f64 then s.matRegs l i (cbase + 2 * j) 2 t else s.matRegs l i (cbase + j) 1 t
    matSum m arow brow as bs c)
  (rs.map (·.bits), rs.foldl (fun f r => f ||| r.fl) 0)

/-- A lane after a matrix post: its C registers are written with their tag (R262). -/
def Thread.matWrite (t : Thread) (i : Nat) (m : MatSpec) (vs : List Nat) : Thread :=
  let cbase := leastOf ((t.bound.filter (fun y => y.cmd == i && y.acc)).map (·.idx))
  let tag : Tag := if m.afmt == 0x13 then .f64 else .f32
  let halves := if m.afmt == 0x13 then vs.flatMap (fun v => [v % 2 ^ 32, v / 2 ^ 32]) else vs
  let t := (halves.zip (List.range halves.length)).foldl (fun (t : Thread) h => t.ringSet (cbase + h.2) ⟨BitVec.ofNat 32 h.1, tag⟩) t
  { t with bound := t.bound.map (fun y => if y.cmd == i then { y with done := true } else y) }

/-- The time of a post is not over yet (R271). -/
def Cmd.early (c : Cmd) (now : DWord) : Bool :=
  match c.due with
  | some d => now < d
  | none => false

/-- MATRIX_DONE (R262): the sums are formed, C is written and the token is delivered; a post of a killed team only ends. -/
def execMatrixDone (cmd : Nat) (s : State) : Host.Outcome State Fault Refusal :=
  .next (match s.cmd? cmd with
    | some c => (match c.spec with
      | .matrix m =>
        if c.st != .running || c.early s.clk then s
        else if c.orphan then (s.stampAt c 5 (c.due.getD s.clk)).finishCmd cmd
        else
        let w := (s.bundle c.bundle).w
        let (s, new) := s.operandBytes c (m.ranges w)
        let ops := chooseBytes s.ticks cmd c.snap new
        let rows := (s.bundle c.bundle).threads.mapIdx (fun l t => s.matRow cmd m ops w l t)
        let fl := rows.foldl (fun f r => f ||| r.2) 0
        let s := s.modBundle c.bundle (fun b => { b with
          threads := b.threads.mapIdx (fun l t => t.matWrite cmd m ((rows.getD l ([], 0)).1)) })
        let s := s.modCmd cmd (fun x => { x with flags := (fl &&& ~~~flagDZ).setWidth 5, snap := [] })
        (s.stampAt c 5 (c.due.getD s.clk)).finishCmd cmd
      | _ => s)
    | none => s)

/-- MMFENCE (R266): it waits until the bundle's earlier words have written their registers and its flags are clear; stores to
the stash are made when they issue. -/
def execMmfence (s : State) : Host.Outcome State Fault Refusal :=
  s.word .mmfence (fun s =>
    if s.curB.late.isEmpty && s.curB.flags == 0 then s.advanceAll else s.waitWord .mmfence [])

/-- TWAIT (R267). -/
def execTwait (a : BitVec 6) (s : State) : Host.Outcome State Fault Refusal :=
  s.word (.twait a) (fun s =>
    if s.curB.pairPending a.toNat then s.waitIssued (.token a.toNat)
    else (s.observe s.cur.bundle [a.toNat] s.issued).advanceAll)

/-! ### Collectives (R269, R270) -/

/-- The fields of a collective block, or none where they fail step 5 of R253, the member table apart (R269). `members` holds
NMEMB zeros for the table to come. -/
def collOfBlock (bs : List Byte) : Option (CollSpec × DWord) :=
  let at_ (o n : Nat) : Nat := ofBytes ((bs.drop o).take n)
  let nmemb := at_ 36 2
  let rank := at_ 38 2
  let kind := at_ 40 1
  let rop := at_ 41 1
  if (collElement (at_ 42 1)).isNone || at_ 16 8 = 0 || at_ 16 8 > 2 ^ 32 || nmemb < 2 || nmemb > 384 || rank ≥ nmemb || kind > 2
    || (kind != 1 && rop > 2) || at_ 43 1 ≥ 16 || (bs.drop 44).any (· != 0) then none
  else some (⟨BitVec.ofNat 64 (at_ 0 8), BitVec.ofNat 64 (at_ 8 8), at_ 16 8, List.replicate nmemb 0, BitVec.ofNat 32 (at_ 32 4), rank,
    kind, rop, BitVec.ofNat 6 (at_ 42 1), 0⟩, BitVec.ofNat 64 (at_ 24 8))

/-- Read the entries of a member table. -/
def State.readTable (s : State) (va : DWord) : Nat → State × Now
  | 0 => (s, .ok [])
  | n + 1 =>
    match s.loadNow s.cur.bundle s.leader 0 s.cur.lanes (some 0) va 2 .engineRead with
    | (s, .ok bs) => (match s.readTable (va + 2) n with
      | (s, .ok rest) => (s, .ok (bs ++ rest))
      | r => r)
    | r => r

/-- The member table fails step 5 (R269). -/
def State.badMembers (s : State) (c : CollSpec) (raw : List Nat) : Bool :=
  raw.any (fun e => e ≥ 512) || raw.eraseDups.length != raw.length || raw.getD c.rank 0 != s.nodeid.toNat

/-- COLL (R270). -/
def execColl (d a : BitVec 6) (s : State) : Host.Outcome State Fault Refusal :=
  s.word (.coll d a) (fun s => s.posting [src a true .any] (fun s =>
    let va := s.u64 a
    let param (s : State) : State := s.trapIssued (TrapInfo.of causeEngineParam)
    if va.toNat % 64 != 0 then s.uniNow a (.trap (accessTrap causeMisaligned va 8 0)) (fun _ s => s) else
    let (s, r) := s.readBlock .engineRead va 8
    s.uniNow a r (fun bs s =>
      match collOfBlock bs with
      | none => param s
      | some (c, table) =>
        let q := ofBytes ((bs.drop 43).take 1)
        let (s, r) := s.readTable table c.members.length
        s.uniNow a r (fun ts s =>
          let raw := (List.range c.members.length).map (fun i => ofBytes ((ts.drop (2 * i)).take 2))
          if s.badMembers c raw || (s.versioned s.curTeam && !s.streamDirect s.cur.bundle q) then param s else
          let c : CollSpec := { c with members := raw.map (BitVec.ofNat 9) }
          let e := (collElement c.fmt.toNat).getD 1
          let send := (c.send.toNat, c.sizes.1)
          let recv := (c.recv.toNat, c.sizes.2)
          let bad (k : BitVec 8) (a : Nat) : State := s.trapIssued (accessTrap k (BitVec.ofNat 64 a) e q)
          if send.1 % e != 0 then bad causeMisaligned send.1
          else if recv.1 % e != 0 then bad causeMisaligned recv.1
          else if send.1 + send.2 > 2 ^ 56 || rangesMeet send.1 send.2 privateBase (2 ^ 40) then bad causeOutOfRange send.1
          else if recv.1 + recv.2 > 2 ^ 56 || rangesMeet recv.1 recv.2 privateBase (2 ^ 40) then bad causeOutOfRange recv.1
          else if (pagesOf [send, recv, (table.toNat, 2 * raw.length)]).length > 1024 then s.trapIssued (TrapInfo.of causeEnginePages)
          else s.post (s.newCmd d (.coll c) q 0 false false)))))

/-- Read the elements of SEND (R269): their bytes, and whether R155 reports one of them. -/
def State.collSend (s : State) (c : Cmd) (x : CollSpec) : State × List Byte × Bool :=
  let e := (collElement x.fmt.toNat).getD 1
  (List.range (x.sizes.1 / e)).foldl (fun acc i =>
    let (s, bs, rep) := acc.1.globalGet c (x.send.toNat + e * i) e
    (s, acc.2.1 ++ bs, acc.2.2 || rep)) (s, [], false)

/-- The floating-point format of a collective (R269). -/
def collFloat (f : BitVec 6) : Option FFmt :=
  if f == 0x11 then some fmtBF16 else if f == 0x12 then some fmtF32 else if f == 0x13 then some fmtF64 else none

/-- An element of a reduction (R270), from this member's own contribution and what the others' come to, `other`, which any value may be. A
sum of integers may be anything. A sum of floats with a NaN is the canonical NaN, and one with an infinity is it or, as `nan` says, a NaN.
`min` and `max` of floats are those of the vector words: DEDUCED (assumption 106). -/
def collCombine (fmt : BitVec 6) (size rop own other : Nat) (nan : Bool) : Nat :=
  match collFloat fmt with
  | some f =>
    if rop ≠ 0 then (f.minMax (rop == 2) own other).bits
    else match f.unpack own with
      | .nan _ => f.canonical
      | .inf _ => if nan then f.canonical else own
      | .num _ _ _ => if (f.unpack other).isNaN then f.canonical else other
  | none =>
    let n := 2 ^ (8 * size)
    let key (v : Nat) : Nat := if fmt == 0x05 || fmt == 0x07 then (v + n / 2) % n else v
    if rop = 0 then other
    else if rop = 1 then (if key other < key own then other else own)
    else if key own < key other then other else own

/-- Element `i` of RECV (R269, R270): this member's own block of an all-gather is its SEND, a reduction combines its SEND with what is not in
this state, and every other byte is unspecified. -/
def CollSpec.recvBytes (x : CollSpec) (tick size : Nat) (send : List Byte) (i : Nat) : List Byte :=
  let other := freeBytes tick i size
  let n := x.sizes.1 / size
  let own (k : Nat) : List Byte := (send.drop (size * k)).take size
  if x.kind == 1 then (if x.rank * n ≤ i && i < (x.rank + 1) * n then own (i - x.rank * n) else other)
  else
    let k := if x.kind == 2 then x.rank * (x.sizes.2 / size) + i else i
    bytesOf size (collCombine x.fmt size x.rop (ofBytes (own k)) (ofBytes other) (Config.freeBool tick 270 i))

/-- Write the elements of RECV (R269, R270), and say whether R155 reports one of them: every byte is unspecified after a failure. -/
def State.collRecv (s : State) (c : Cmd) (x : CollSpec) (ok : Bool) (send : List Byte) : State × Bool :=
  let e := (collElement x.fmt.toNat).getD 1
  (List.range (x.sizes.2 / e)).foldl (fun acc i =>
    let bs := if ok then x.recvBytes s.ticks e send i else freeBytes s.ticks i e
    let (s, rep) := acc.1.globalPut c (x.recv.toNat + e * i) bs
    (s, acc.2 || rep)) (s, false)

/-- A member of a collective is on a node that no link reaches (R270, R403). -/
def State.collLost (s : State) (x : CollSpec) : Bool := x.members.any (fun m => m != s.nodeid && (s.routeLinks m.toNat).isEmpty)

/-- A running collective ends (R270). Integer forms and all-gathers raise no flag, and DZ is never set. -/
def State.endColl (s : State) (i : Nat) (result : BitVec 3) (flags : BitVec 5) : State :=
  match s.cmd? i with
  | some c => (match c.spec with
    | .coll x =>
      if c.st != .running || result > 2 then s else
      let float := x.kind != 1 && (x.fmt == 0x11 || x.fmt == 0x12 || x.fmt == 0x13) && result == 0
      let (s, send, rep) := if result == 0 then s.collSend c x else (s, [], false)
      let (s, rep') := s.collRecv c x (result == 0) send
      (s.modCmd i (fun y => { y with
        progress := 1, result := result, flags := if float then flags &&& 0x1D else 0, sizeovl := rep || rep' })).finishCmd i
    | _ => s)
  | none => s

/-- COLLECTIVE_DONE (R270): RESULT 0 OK, 1 LINK, 2 MISMATCH; 1 where a member cannot be reached. -/
def execCollectiveDone (cmd : Nat) (result : BitVec 3) (flags : BitVec 5) (s : State) : Host.Outcome State Fault Refusal :=
  .next (match s.cmd? cmd with
    | some c => (match c.spec with
      | .coll x => s.endColl cmd (if s.collLost x then 1 else result) flags
      | _ => s)
    | none => s)

end Sys2Proof.Machine
end

