-- ==== Sys2Proof/Machine/Link.lean ====
section
/-! DEFINITION. The end of long-latency words (R35, R37), the Span links (R400 to R403), requests from other nodes (R368, R402),
and the accesses of agents outside the partitions (R148, R241). -/
namespace Sys2Proof.Machine

/-! ### The end of a long-latency word (R35, R37) -/

/-- A late write reaches its register; one that another word contests keeps either value (R37). -/
def Bundle.landLane (b : Bundle) (tick : Nat) (w : LateWrite) : Bundle :=
  if w.clash && !Config.freeBool tick w.lane w.key then b else b.modThread w.lane (fun t => t.writeKey w.key w.reg)

/-- A late write reaches its uniform register. -/
def Bundle.landUni (b : Bundle) (tick : Nat) (w : LateWrite) : Bundle :=
  if w.clash && !Config.freeBool tick 64 w.key then b else { b with s := b.s.set w.key w.reg }

/-- Clear a completion flag. -/
def clearFlag (f : BitVec 12) (n : Option Nat) : BitVec 12 :=
  match n with
  | some k => f &&& ~~~(1#12 <<< k)
  | none => f

/-- The long-latency word at a place of the bundle's list ends: its results are written and its flag clears; `vs` are the registers,
by lane and key, that its loads give now. -/
def Bundle.land (b : Bundle) (tick i : Nat) (vs : List (Nat × Nat × Reg)) : Bundle :=
  match b.late[i]? with
  | none => b
  | some o =>
    let now (w : LateWrite) : LateWrite := match vs.find? (fun v => v.1 == w.lane && v.2.1 == w.key) with
      | some v => { w with reg := ⟨v.2.2.val, w.reg.tag⟩ }
      | none => w
    let b : Bundle := { b with late := b.late.eraseIdx i, flags := clearFlag b.flags o.flag }
    let b := o.lanes.foldl (fun (b : Bundle) w => b.landLane tick (now w)) b
    o.unis.foldl (fun (b : Bundle) w => b.landUni tick w) b

/-- An access reports the lanes whose it is at their next instruction boundary (R155), outside the issue of a word. -/
def State.reportLanes (s : State) (b : Nat) (lanes : BitVec 64) (r : Option TrapInfo) : State :=
  match r with
  | some i => (lanesIn lanes (s.bundle b).threads.length).foldl (fun s l => s.modThread b l (fun t => t.holdReport i)) s
  | none => s

/-- A late load is read again as the access that it was when it issued (R150, R154, R155); `pc` is its word. -/
def State.readLate (s : State) (b : Nat) (pc : DWord) (y : LateLoad) : State × List Byte :=
  let z : Spot := { s.spot b (laneBit y.lane) y.stream y.dev y.pa y.size y.ver with cfg := y.cfg }
  let s := s.reportLanes b z.lanes (s.sizeReport z y.va pc)
  let (s, bs) := s.seenBytes b y.lane y.stream y.pa y.size y.ver
  s.racedLoad z y.lane (.mem y.pa y.ver y.dev) bs

/-- The loads of a word that ends take the value that their bytes have by now, or keep the one of their issue, by a free choice: no
order holds between them and what has happened since (R158). -/
def State.reload (s : State) (b : Nat) (pc : DWord) : List LateLoad → State × List (Nat × Nat × Reg)
  | [] => (s, [])
  | y :: ys =>
    if Config.freeBool s.ticks (64 * b + y.lane) y.pa then
      let (s, bs) := s.readLate b pc y
      let (s, vs) := s.reload b pc ys
      (s, (y.keys.zip (loadRegs y.signed bs)).map (fun k => (y.lane, k.1, k.2)) ++ vs)
    else s.reload b pc ys

/-- The requests of a word that its loads and atomics made are answered (R402): they are outstanding no more, and fences that waited for
them go. -/
def State.answer (s : State) (b : Nat) (o : LateOp) : State :=
  if o.links.isEmpty then s else
  let mine : Pending → Bool
    | .store x => x.bytes.isEmpty && x.pc == o.pc && x.link.any o.links.contains
    | .fence _ => false
  let s := s.modBundle b (fun x => { x with threads := x.threads.map (fun t => { t with out := t.out.filter (fun p => !mine p) }) })
  (indices (s.bundle b).threads).foldl (fun s l => s.settleThread b l) s

/-- COMPLETION_FLAG_CLEAR (R35, R37). -/
def execCompletionFlagClear (bundle op : Nat) (s : State) : Host.Outcome State Fault Refusal :=
  .next (
    let x := s.bundle bundle
    match x.live, x.late[op]? with
    | true, some o =>
      let (s, vs) := s.reload bundle o.pc o.loads
      (s.answer bundle o).modBundle bundle (fun b => b.land s.ticks op vs)
    | _, _ => s)

/-! ### Accesses of system cores, outside requesters and other nodes -/

/-- An access of such an agent: kind 0 a load, 1 a store, 2 an atomic with the operation and type of R169. -/
structure Foreign where
  kind : BitVec 2
  op : BitVec 4
  ty : BitVec 4
  size : Nat
  value : BitVec 128
  compare : BitVec 128
  deriving DecidableEq, Repr

/-- The access is one that R148 and R169 have. -/
def Foreign.ok (x : Foreign) (pa : Nat) : Bool :=
  [1, 2, 4, 8, 16].contains x.size && pa % x.size == 0 && x.kind != 3
    && (x.kind != 2 || (x.op ≤ 10 && x.ty ≤ 4 && x.size == atomSize x.ty))

/-- Where such an access races (R154): it comes after all that has been released. -/
def State.foreignSpot (s : State) (off size : Nat) : Spot := ⟨s.bundles.length, 0, noStream, 0, false, off, size, none, s.ticks, none⟩

/-- Such an access is kept among those that may still race: what has not acquired since is not ordered after it (R154). -/
def State.noteForeign (s : State) (z : Spot) (store : Bool) : State :=
  { s with outside := keepTouch (z.touch store (some s.ticks) 0) s.outside }

/-- Make such an access at home, in committed memory (R154, R241). What a load or an atomic answers leaves this state. -/
def State.foreign (s : State) (x : Foreign) (off : Nat) : State :=
  let z := s.foreignSpot off x.size
  let store := x.kind != 0
  let mask := s.raceMask z store
  let s := (s.raceEffects z (.mem off none false) store).noteForeign z store
  if x.kind == 0 then (s.outsideRead none off x.size).1
  else if x.kind == 1 then s.outsideWrite none off (mixBytes s.ticks z.b mask (bytesOf x.size x.value.toNat))
  else
    let (s, bs) := s.outsideRead none off x.size
    let old := ofBytes (mixBytes s.ticks z.b mask bs)
    s.outsideWrite none off (mixBytes s.ticks (z.b + 1) mask (bytesOf x.size (atomNew x.op.toNat x.ty.toNat old
      (x.value.toNat % 2 ^ (8 * x.size)) (x.compare.toNat % 2 ^ (8 * x.size)))))

/-- The system cores have been started and the links train (R409, stage 5). -/
def Boot.started (b : Boot) : Bool := 5 ≤ b.stage

/-- SYSTEM_CORE_ACCESS (R148, R241, R398, R403): at a physical address. The device windows take aligned stores of 8 bytes; an
address of another node, or of nothing, changes nothing here: the fault is the system core's. A halted core makes none (R370), nor does one
that boot has not started (R409). -/
def execSystemCoreAccess (kind : BitVec 2) (op ty : BitVec 4) (size : Nat) (pa : BitVec 64) (value compare : BitVec 128) (s : State) :
    Host.Outcome State Fault Refusal :=
  .next (
    let x : Foreign := ⟨kind, op, ty, size, value, compare⟩
    let a := pa.toNat
    if s.host.halted || !s.boot.started || !x.ok a || !s.isLocal a || a ≥ 2 ^ 52 then s
    else if paOffset a < lpddrEnd then s.foreign x (paOffset a)
    else if s.paDevice a && kind == 1 then s.windowStore a (bytesOf size value.toNat)
    else s)

/-! ### Requests from other nodes (R368, R402) -/

/-- The handler bundle of a context on the lowest-numbered core where it is resident (R368). -/
def State.lowestHandler (s : State) (asid : BitVec 16) : Option Nat :=
  let hs := (indices s.bundles).filter (fun b =>
    let x := s.bundle b
    x.live && x.resident && x.handler.isSome && x.asid == asid)
  hs.find? (fun b => hs.all (fun c => (s.bundle b).coreNo ≤ (s.bundle c).coreNo))

/-- The watched bytes that an access at a local offset hits of a watchpoint, by the translation that it has taken (R366). -/
def State.watchedAt (s : State) (c : Context) (k off size : Nat) : BitVec 16 :=
  let wpm := c.wpm.getD k 0
  if !(c.wpa.getD k 0).getLsbD 63 || !watchType wpm true true then 0 else
  match c.wpt.getD k none with
  | some pa =>
    if !s.isLocal pa then 0 else
    (List.range 16).foldl (fun m i =>
      let o := paOffset pa + i
      if wpm.getLsbD i && off ≤ o && o < off + size then m ||| (1#16 <<< i) else m) 0
  | none => 0

/-- The reports of a remote atomic: for each context, the lowest watchpoint that it hits (R368). -/
def State.reportAtomic (s : State) (node : BitVec 9) (pa off size : Nat) : State :=
  (s.ctxs.filter (fun c => !c.destroyed && c.handler)).foldl (fun s c =>
    match (List.range 8).find? (fun k => s.watchedAt c k off size != 0), s.lowestHandler c.asid with
    | some k, some h =>
      let words : List DWord := [node.setWidth 64, BitVec.ofNat 64 pa,
        BitVec.ofNat 64 (2 ^ 40 + k * 2 ^ 32 + (s.watchedAt c k off size).toNat)]
      s.modBundle h (fun b => { b with handler := b.handler.map (fun x =>
        x.push ⟨causeWatchReport, true, 0, 0, 0, 0, none, words, 0, none⟩) })
    | _, _ => s) s

/-- REMOTE_REQUEST (R402): a request that arrives over a usable link is performed at home, at DOMAIN scope; an atomic is
reported where it hits a watchpoint. A halted device lets it wait (R370). -/
def execRemoteRequest (node : BitVec 9) (kind : BitVec 2) (op ty : BitVec 4) (size : Nat) (pa : BitVec 64) (value compare : BitVec 128)
    (s : State) : Host.Outcome State Fault Refusal :=
  .next (
    let x : Foreign := ⟨kind, op, ty, size, value, compare⟩
    let a := pa.toNat
    if s.host.halted || !x.ok a || !s.isLocal a || a ≥ 2 ^ 52 || node == s.nodeid || !(List.range 12).any s.linkUsable then s
    else if paOffset a < lpddrEnd then
      let s := s.foreign x (paOffset a)
      if kind == 2 then s.reportAtomic node a (paOffset a) size else s
    else if s.paDevice a && kind == 1 then s.windowStore a (bytesOf size value.toNat)
    else s)

/-! ### Requests that fail (R403) -/

/-- The address of a word of the bundle with a request that fails. -/
def Bundle.failing (b : Bundle) (fails : Sent → Bool) : Option DWord :=
  match b.late.find? (fun o => o.links.any fails) with
  | some o => some o.pc
  | none => b.threads.findSome? (fun t => t.out.findSome? (fun p => match p with
    | .store x => if x.link.any fails then some x.pc else none
    | .fence _ => none))

/-- A fill or a write-back of the team fails. -/
def State.stashFails (s : State) (t : Nat) (fails : Sent → Bool) : Bool :=
  (s.team t).windows.any (fun w => w.lines.any (fun l => l.link.any fails))

/-- The PC that the record of a team names when its requests fail, those of its retired bundles among them: the issuing word, or 0 for an
engine. -/
def State.teamFails (s : State) (t : Nat) (fails : Sent → Bool) : Option DWord :=
  match (s.bundles.filter (fun b => b.team == some t)).findSome? (fun b => b.failing fails) with
  | some pc => some pc
  | none => if s.stashFails t fails then some 0 else none

/-- A handler bundle's requests fail: nothing is returned, and the team of its open event takes the event. -/
def State.failHandler (s : State) (b : Nat) (fails : Sent → Bool) : State :=
  match (s.bundle b).failing fails with
  | none => s
  | some pc =>
    let s := s.modBundle b (fun x => { x with
      flags := (x.late.filter (fun o => o.links.any fails)).foldl (fun f o => clearFlag f o.flag) x.flags
      late := x.late.filter (fun o => !o.links.any fails)
      threads := x.threads.map (fun t => { t with out := t.out.filter (fun p => match p with
        | .store y => !y.link.any fails
        | .fence _ => true) }) })
    match ((s.bundle b).handler.bind (·.current)).bind (·.team) with
    | some t => s.killTeam t causeUncorrectable false none pc
    | none => s

/-- The requests to other nodes that a running command may have outstanding (R402, R403): those over the links of its start, and over links
that its routes have been given since. -/
def State.cmdSent (s : State) (c : Cmd) : List Sent :=
  let from_ := (c.sent.head?.map (·.clk)).getD s.clk
  c.sent ++ (s.sentTo (s.cmdFar c)).map (fun x => { x with clk := from_ })

/-- The running copies that lose a request are containment events of their teams (R403): which of those that may have one do is open. -/
def State.failCopies (s : State) (fails : Sent → Bool) : State :=
  (indices s.cmds).foldl (fun s i => match s.cmd? i with
    | some c =>
      if c.spec.kind == 0 && c.st == .running && (s.cmdSent c).any fails && Config.freeBool s.ticks 403 i then
        s.killTeam c.team causeUncorrectable false none 0
      else s
    | none => s) s

/-- Requests that are not acknowledged fail (R403). -/
def State.failRequests (s : State) (fails : Sent → Bool) : State :=
  let s := (indices s.teams).foldl (fun s t => match s.teamFails t fails with
    | some pc => s.killTeam t causeUncorrectable false none pc
    | none => s) s
  (indices s.bundles).foldl (fun s b =>
    if (s.bundle b).live && (s.bundle b).handler.isSome then s.failHandler b fails else s) s

/-- The running collectives that lose a request end with RESULT LINK (R403): which of those that may have one do is open, while another link
reaches their members. -/
def State.failColls (s : State) (fails : Sent → Bool) : State :=
  (indices s.cmds).foldl (fun s i => match s.cmd? i with
    | some c => (match c.spec with
      | .coll x => if (s.cmdSent c).any fails && (s.collLost x || Config.freeBool s.ticks 72 i) then s.endColl i 1 0 else s
      | _ => s)
    | none => s) s

/-- A link fences (R400, R403). -/
def State.fenceLink (s : State) (n : Nat) : State :=
  if s.linkPresent n && s.linkUsable n then
    let fails (x : Sent) : Bool := x.link == n
    (((s.failRequests fails).failCopies fails).modLink n (fun l => { l with st := .fenced, lanes := 0 })).failColls fails
  else s

/-- LINK_FENCE (R403). -/
def execLinkFence (link : Nat) (s : State) : Host.Outcome State Fault Refusal := .next (s.fenceLink link)

/-- The CLK periods of a millisecond (R362). -/
def clkPerMs : Nat := 2250000

/-- A request on a link has not been acknowledged within 1 ms (R403). -/
def Sent.late (x : Sent) (n : Nat) (now : DWord) : Bool := x.link == n && clkPerMs ≤ (now - x.clk).toNat

/-- REMOTE_TIMEOUT (R403): the requests on a link that are not acknowledged within 1 ms fail. -/
def execRemoteTimeout (link : Nat) (s : State) : Host.Outcome State Fault Refusal :=
  .next (if s.linkPresent link then
    let fails (x : Sent) : Bool := x.late link s.clk
    ((s.failRequests fails).failCopies fails).failColls fails
  else s)

/-! ### The states of a link (R400 to R402) -/

/-- ENABLE is set: a DOWN link begins to train (R400), from stage 5 of boot on (R409). -/
def State.enableLink (s : State) (n : Nat) : State :=
  if s.linkPresent n then
    s.modLink n (fun l => if l.st == .down && s.boot.started then { l with enable := true, st := .training } else { l with enable := true })
  else s

/-- LINK_ENABLE (R400). -/
def execLinkEnable (link : Nat) (s : State) : Host.Outcome State Fault Refusal := .next (s.enableLink link)

/-- RESET: a FENCED link goes DOWN with its counters cleared (R400). -/
def State.resetLink (s : State) (n : Nat) : State :=
  if s.linkPresent n then
    s.modLink n (fun l => if l.st == .fenced then { l with st := .down, lanes := 0, node := 0, errcnt := 0, retries := 0 } else l)
  else s

/-- LINK_RESET (R400). -/
def execLinkReset (link : Nat) (s : State) : Host.Outcome State Fault Refusal := .next (s.resetLink link)

/-- A request on link `n` goes over another usable link of its route, where there is one (R400). -/
def State.reroute (s : State) (n : Nat) (x : Sent) : Sent :=
  let ls := (s.routeLinks (paNode x.pa)).filter (fun m => m != n)
  if x.link != n || ls.isEmpty then x
  else { x with link := ls.getD (Config.linkHash (BitVec.ofNat 64 (x.pa / 128)) % ls.length) n }

/-- The requests of a thread change. -/
def Thread.mapSent (t : Thread) (f : Sent → Sent) : Thread :=
  { t with out := t.out.map (fun p => match p with
    | .store x => .store { x with link := x.link.map f }
    | .fence g => .fence g) }

/-- The traffic of a link moves to the other links of its routes (R400). -/
def State.moveTraffic (s : State) (n : Nat) : State :=
  let f := s.reroute n
  { s with
    cmds := s.cmds.map (fun c => { c with sent := c.sent.map f })
    bundles := s.bundles.map (fun b => { b with
      late := b.late.map (fun o => { o with links := o.links.map f })
      threads := b.threads.map (fun t => t.mapSent f) })
    teams := s.teams.map (fun t => { t with windows := t.windows.map (fun w =>
      { w with lines := w.lines.map (fun l => { l with link := l.link.map f }) }) }) }

/-- RETRAIN: a DEGRADED link trains again (R400). -/
def State.retrainLink (s : State) (n : Nat) : State :=
  if s.linkPresent n && (s.link n).st == .degraded then
    (s.moveTraffic n).modLink n (fun l => { l with st := .training, lanes := 0 })
  else s

/-- LINK_RETRAIN (R400). -/
def execLinkRetrain (link : Nat) (s : State) : Host.Outcome State Fault Refusal := .next (s.retrainLink link)

/-- Training sets each ROUTE entry to every link that is UP or DEGRADED (R402). -/
def State.setRoutes (s : State) : State :=
  let mask : BitVec 16 := (List.range 12).foldl (fun m i => if s.linkUsable i then m ||| (1#16 <<< i) else m) 0
  { s with route := (List.range 512).map (fun n => (n, mask)) }

/-- LINK_TRAINED (R400, R402): 8 lanes give UP, 4 or 2 DEGRADED; the identifier must agree with the one that the first link to
reach UP has reported, which is NODEID (R216). -/
def execLinkTrained (link : Nat) (lanes : BitVec 4) (node : BitVec 9) (s : State) : Host.Outcome State Fault Refusal :=
  .next (
    if !(s.linkPresent link) || (s.link link).st != .training || !(lanes == 8 || lanes == 4 || lanes == 2) then s
    else if s.nodeset && node != s.nodeid then s.modLink link (fun l => { l with st := .down, lanes := 0, node := node })
    else
      let s := s.modLink link (fun l => { l with
        st := if lanes == 8 then .up else .degraded, lanes := lanes.toNat, node := node })
      (if lanes == 8 then ({ s with nodeid := node, nodeset := true } : State) else s).setRoutes)

/-- TRAINING_TIMEOUT (R400): fewer than 2 lanes after 100 ms. -/
def execTrainingTimeout (link : Nat) (s : State) : Host.Outcome State Fault Refusal :=
  .next (if s.linkPresent link then
    s.modLink link (fun l => if l.st == .training then { l with st := .down, lanes := 0 } else l)
  else s)

/-- LANE_FAIL (R400): the link is retrained to the lanes that remain, with no flit lost, or fences with fewer than 2. -/
def execLaneFail (link : Nat) (lanes : BitVec 4) (s : State) : Host.Outcome State Fault Refusal :=
  .next (
    if !(s.linkPresent link && s.linkUsable link) || lanes.toNat ≥ (s.link link).lanes then s
    else if lanes < 2 then s.fenceLink link
    else s.modLink link (fun l => { l with st := .degraded, lanes := if lanes ≥ 4 then 4 else 2 }))

/-- FLIT_RETRY (R400, R401): `count` retries more; above THRESH within a millisecond the link fences. -/
def execFlitRetry (link : Nat) (count : BitVec 32) (s : State) : Host.Outcome State Fault Refusal :=
  .next (
    if !(s.linkPresent link && s.linkUsable link) then s
    else
      let s := s.modLink link (fun l => { l with
        errcnt := BitVec.ofNat 32 (min (l.errcnt.toNat + count.toNat) 0xFFFFFFFF), retries := l.retries + count.toNat })
      if (s.link link).retries > (s.link link).thresh.toNat then s.fenceLink link else s)

end Sys2Proof.Machine
end

