-- ==== Sys2Proof/Machine/Slice.lean ====
section
/-! DEFINITION. Delimiters and slices (R277 to R292): mark, unmark, cut, graft, slshare, slfree, slinfo. Each word plans for every
lane first (checks, reads, spills) and then makes its stores and its final step. -/
namespace Sys2Proof.Machine

/-! ### The shape of a slice word -/

/-- Plan for lanes in turn. -/
def State.planAll {α : Type} (f : State → Nat → State × EngineEnd × Option α) :
    State → List Nat → State × List (Nat × EngineEnd × Option α)
  | s, [] => (s, [])
  | s, l :: ls =>
    let r := f s l
    let rest := State.planAll f r.1 ls
    (rest.1, (l, r.2) :: rest.2)

/-- A slice word (R284): the checks of window and tags, a plan for each lane, and its final step. `wait` says how the word waits. -/
def State.sliceWord {α : Type} (s : State) (wait : State → State) (o : LaneOp) (plan : State → Nat → State × EngineEnd × Option α)
    (done : State → Nat → α → State) : State :=
  let pre (l : Nat) : Option TrapInfo := if !(s.curB.thread l).entered then some windowRange else s.laneTrap l o
  let traps := s.issued.filterMap (fun l => (pre l).map (fun i => (l, i)))
  let r := State.planAll plan s (s.issued.filter (fun l => (pre l).isNone))
  r.1.engineEnd wait traps (r.2.map (fun x => (x.1, x.2.1))) (fun s l => match lookupKey l r.2 with
    | some (_, some x) => done s l x
    | _ => s)

/-- The end of a plan by a trap. -/
def stopPlan {α : Type} (s : State) (i : TrapInfo) : State × EngineEnd × Option α := (s, .trap i, none)

/-- The end of an access that is no access of the frame engine: its own cause. -/
def Now.own : Now → EngineEnd
  | .ok _ => .ok
  | .wait t => .wait (some t)
  | .trap i => .trap i
  | .lost => .lost

/-- How an access ends: with its own cause, or as one of the frame engine (R278, R286, R287). -/
def Now.ends (engine : Bool) (r : Now) : EngineEnd := if engine then r.engine else r.own

/-- Load bytes of a thread on q0 in pieces of one size (R284). -/
def State.pieceLoad (s : State) (engine : Bool) (b l size : Nat) (va : DWord) : Nat → State × EngineEnd × List Byte
  | 0 => (s, .ok, [])
  | n + 1 =>
    match s.loadNow b l 0 (laneBit l) none va size (if engine then .engineRead else .read) with
    | (s, .ok bs) => (match s.pieceLoad engine b l size (va + BitVec.ofNat 64 size) n with
      | (s, e, rest) => (s, e, bs ++ rest))
    | (s, r) => (s, r.ends engine, [])

/-- Load bytes of a thread on q0 in pieces of 8 (R284). -/
def State.sliceLoad (s : State) (engine : Bool) (b l : Nat) (va : DWord) (n : Nat) : State × EngineEnd × List Byte :=
  s.pieceLoad engine b l 8 va n

/-- Load a frame's header of 32 bytes: byte by byte where a damaged FP is not a multiple of 8, which the walk of R287 allows. -/
def State.headLoad (s : State) (engine : Bool) (b l : Nat) (va : DWord) : State × EngineEnd × List Byte :=
  if va.toNat % 8 = 0 then s.sliceLoad engine b l va 4 else s.pieceLoad engine b l 1 va 32

/-- The places that stores of pieces of 8 would take can be stored to. -/
def State.sliceReach (s : State) (engine : Bool) (b l : Nat) (va : DWord) : Nat → State × EngineEnd
  | 0 => (s, .ok)
  | n + 1 =>
    match s.locate b l va 8 0 (if engine then .engineWrite else .write) with
    | (s, .trap i) => (s, .trap (if engine then frameTrap i else i))
    | (s, .unreachable) => (s, .lost)
    | (s, .fill t w m pa) => (s, .wait (some (.fill t w m pa)))
    | (s, _) => s.sliceReach engine b l (va + 8) n

/-- Store pieces at places that were found reachable. -/
def State.slicePut (s : State) (engine : Bool) (b l : Nat) (va : DWord) : List (List Byte) → State
  | [] => s
  | p :: ps =>
    ((s.storeNow b l 0 (laneBit l) none va p (if engine then .engineWrite else .write)).1).slicePut engine b l
      (va + BitVec.ofNat 64 p.length) ps

/-- Pieces of 8 bytes that a copy which ends early may have written: they hold unspecified bytes, where they can be stored to (R286,
R287, R289), and the injection register sees them (R317). DESIGN CHOICE (assumption 110): a monitor counts none of them, for a copy that is
abandoned may have stored nothing (R297). -/
def State.scatter (s : State) (b l : Nat) (va : DWord) : Nat → State
  | 0 => s
  | n + 1 =>
    let (s, tg) := s.locate b l va 8 0 .engineWrite
    let asid := (s.bundle b).asid
    let bs := freeBytes s.ticks (64 * va.toNat + l) 8
    let s := match tg with
      | .mem off ver _ =>
        let (s, bs) := (s.drainOwns b (laneBit l) none off 8).inject asid va bs
        s.outsideWrite ver off bs
      | .remote pa _ => ((s.recallRemote pa true).inject asid va bs).1
      | .line _ _ _ _ | .scratch _ _ _ =>
        let (s, bs) := s.inject asid va bs
        s.stashWrite tg bs
      | _ => s
    s.scatter b l (va + 8) n

/-- The pair of a register field in a lane. -/
def State.lanePair (s : State) (l : Nat) (r : BitVec 6) : DWord := s.pairV l r.toNat

/-! ### mark and unmark (R285) -/

/-- A lane's plan for `mark`: the place of the delimiter. -/
def State.markPlan (s : State) (l : Nat) : State × EngineEnd × Option DWord :=
  let a := align16 (s.pairV l 4)
  if a.toNat + 32 > (s.curB.thread l).flimit.toNat then stopPlan s (TrapInfo.of causeFrameLimit)
  else match s.sliceReach false s.cur.bundle l a 4 with
    | (s, .ok) => (s, .ok, some a)
    | (s, e) => (s, e, none)

/-- MARK (R285). -/
def execMark (t : BitVec 12) (s : State) : Host.Outcome State Fault Refusal :=
  s.word (.mark t) (fun s0 => s0.sliceWord State.stall ⟨[], []⟩ (fun s l => s.markPlan l) (fun s l a =>
    let b := s.cur.bundle
    let th := s.thread b l
    let bs := bytesOf 8 th.marktop.toNat ++ bytesOf 8 (s0.pairV l 6).toNat ++ bytesOf 8 t.toNat ++ bytesOf 8 0
    (s.slicePut false b l a (pieces8 bs)).contest b l [4, 5] (fun x =>
      (({ x with marktop := a }).setSp (a + 32)).advance s.cur.pc)))

/-- A lane's plan for `unmark`: the delimiter, and the one just above it. -/
def State.unmarkPlan (s : State) (tag : DWord) (l : Nat) : State × EngineEnd × Option (Delim × Option Delim) :=
  let b := s.cur.bundle
  let t := s.thread b l
  match s.chainTo b l tag t.delimFuel t.marktop with
  | (s, .ok, ds) =>
    (match ds.reverse with
    | d :: up =>
      if d.tagw != tag then stopPlan s (TrapInfo.of causeSliceNoMark)
      else (match up.head? with
        | none => (s, .ok, some (d, none))
        | some u => (match s.sliceReach false b l u.at_ 1 with
          | (s, .ok) => (s, .ok, some (d, some u))
          | (s, e) => (s, e, none)))
    | [] => stopPlan s (TrapInfo.of causeSliceNoMark))
  | (s, e, _) => (s, e, none)

/-- UNMARK (R285). -/
def execUnmark (t : BitVec 12) (s : State) : Host.Outcome State Fault Refusal :=
  s.word (.unmark t) (fun s0 => s0.sliceWord State.stall ⟨[], []⟩ (fun s l => s.unmarkPlan (t.setWidth 64) l) (fun s l p =>
    let b := s.cur.bundle
    let s := match p.2 with
      | some u => s.slicePut false b l u.at_ [bytesOf 8 p.1.prev.toNat]
      | none => s.modThread b l (fun x => { x with marktop := p.1.prev })
    s.modThread b l (fun x => x.advance s.cur.pc)))

/-! ### The header of a slice (R279) -/

/-- MAGIC (R279). -/
def sliceMagic : Nat := 0x534C4943

/-- A header as read. -/
structure SliceHeader where
  cap : Nat
  magic : Nat
  len : Nat
  nfr : Nat
  ctx : Nat
  sync : Nat
  owner : DWord
  lo : Nat
  rpc : DWord
  topoff : Nat
  markoff : Nat
  dreg : Nat
  nmark : Nat
  deriving DecidableEq, Repr

/-- The header of 64 bytes. -/
def SliceHeader.ofBytes (bs : List Byte) : SliceHeader :=
  let f (o n : Nat) : Nat := Machine.ofBytes ((bs.drop o).take n)
  ⟨f 0 4, f 4 4, f 8 4, f 12 2, f 14 2, f 16 8, BitVec.ofNat 64 (f 24 8), f 32 8, BitVec.ofNat 64 (f 40 8), f 48 4, f 52 4, f 56 1, f 57 1⟩

/-- STATE of SYNC (R279). -/
def SliceHeader.state (h : SliceHeader) : Nat := bitsAt h.sync 32 2

/-- SERIAL of SYNC (R279). -/
def SliceHeader.serial (h : SliceHeader) : Nat := bitsAt h.sync 40 8

/-- The trap of a buffer that is not aligned (R284, step 4). -/
def bufferTrap (va : DWord) : TrapInfo := { TrapInfo.of causeMisaligned with addr := va, size := 8 }

/-- Read the header at B (R284, step 4). -/
def State.readHeader (s : State) (b l : Nat) (at_ : DWord) : State × EngineEnd × SliceHeader :=
  if at_.toNat % 64 != 0 then (s, .trap (bufferTrap at_), SliceHeader.ofBytes [])
  else match s.sliceLoad false b l at_ 8 with
    | (s, e, bs) => (s, e, SliceHeader.ofBytes bs)

/-- Read what a `cut` reads of the header at B (R286): CAP and MAGIC, and SYNC. -/
def State.readCap (s : State) (b l : Nat) (at_ : DWord) : State × EngineEnd × SliceHeader :=
  if at_.toNat % 64 != 0 then (s, .trap (bufferTrap at_), SliceHeader.ofBytes [])
  else match s.sliceLoad false b l at_ 1 with
    | (s, .ok, cap) => (match s.sliceLoad false b l (at_ + 16) 1 with
      | (s, e, sync) => (s, e, SliceHeader.ofBytes (cap ++ List.replicate 8 0 ++ sync)))
    | (s, e, _) => (s, e, SliceHeader.ofBytes [])

/-- A frame of a slice as the walk of R287 finds it: its FP and the header fields. -/
structure SliceFrame where
  fp : Nat
  cfp : Nat
  csp : Nat
  rpc : DWord
  n : Nat
  o : Nat
  nc : Nat
  deriving DecidableEq, Repr

/-- The start of a frame's save area (R98). -/
def SliceFrame.area (f : SliceFrame) : Nat := f.fp - 64 - saveSize (f.n - f.o)

/-- The frame of a header's 32 bytes. -/
def SliceFrame.ofBytes (fp : Nat) (bs : List Byte) : SliceFrame :=
  let f (o : Nat) : Nat := Machine.ofBytes ((bs.drop o).take 8)
  ⟨fp, f 0, f 8, BitVec.ofNat 64 (f 16), bitsAt (f 24) 0 6, bitsAt (f 24) 6 6, bitsAt (f 24) 12 6⟩

/-- The walk of R287 through `n` frames from an FP: the frames, top first, or none where it fails. `engine` says that its faults are
those of the frame engine. -/
def State.sliceWalk (s : State) (engine : Bool) (b l : Nat) (buf : DWord) (h : SliceHeader) :
    Nat → Nat → State × EngineEnd × Option (List SliceFrame)
  | 0, fp => (s, .ok, if fp < h.lo then some [] else none)
  | n + 1, fp =>
    if fp < h.lo + 64 || fp ≥ h.lo + h.len then (s, .ok, none) else
    match s.headLoad engine b l (buf + BitVec.ofNat 64 (fp - h.lo)) with
    | (s, .ok, bs) =>
      let f := SliceFrame.ofBytes fp bs
      if f.n < 8 || f.n > 56 || f.o > f.n || fp < h.lo + 64 + saveSize (f.n - f.o) then (s, .ok, none)
      else (match s.sliceWalk engine b l buf h n f.cfp with
        | (s, e, r) => (s, e, r.map (fun fs => f :: fs)))
    | (s, e, _) => (s, e, none)

/-- The frames of a slice, or none where it is damaged (R287). -/
def State.sliceFrames (s : State) (engine : Bool) (b l : Nat) (buf : DWord) (h : SliceHeader) : State × EngineEnd × Option (List SliceFrame) :=
  if h.magic != sliceMagic || h.len % 16 != 0 || 64 + h.len > h.cap || h.topoff ≥ h.len || h.topoff % 16 != 0 || h.state == 3
    || h.lo % 16 != 0 || h.nfr == 0 then (s, .ok, none)
  else match s.sliceWalk engine b l buf h h.nfr (h.lo + h.topoff) with
    | (s, e, some (f :: fs)) => (s, e, if h.dreg % 2 == 0 && h.dreg < 8 + f.n then some (f :: fs) else none)
    | (s, e, _) => (s, e, none)

/-- The buffer and the serial of a handle (R281). -/
def handleParts (h : DWord) : DWord × Nat := (h &&& 0x00FFFFFFFFFFFFFF, bitsAt h.toNat 56 8)

/-- The header and frames of a handle's slice, after the checks SLICE_DAMAGED and SLICE_CONTEXT (R287, R290). DESIGN CHOICE (assumption 76):
a read of the walk that faults has the cause FRAME_FAULT, as a read of the copy has. -/
def State.openSlice (s : State) (l : Nat) (buf : DWord) : State × EngineEnd × SliceHeader × List SliceFrame :=
  let b := s.cur.bundle
  match s.readHeader b l buf with
  | (s, .ok, h) =>
    (match s.sliceFrames true b l buf h with
    | (s, .ok, some fs) =>
      if h.ctx != s.curB.asid.toNat then (s, .trap (TrapInfo.of causeSliceContext), h, []) else (s, .ok, h, fs)
    | (s, .ok, none) => (s, .trap (TrapInfo.of causeSliceDamaged), h, [])
    | (s, e, _) => (s, e, h, []))
  | (s, e, h) => (s, e, h, [])

/-- Where an atomic on SYNC goes that takes back an increment which an earlier step has made (R287, R289): to the stash that holds SYNC, or
to the home that the increment has reached; an increment in a line that has been discarded is gone with it. -/
def State.syncTarget (s : State) (h : SyncHome) (tg : Target) : Target :=
  match tg, h.off with
  | .line _ _ _ _, _ | .scratch _ _ _, _ => tg
  | _, some off => if remoteHome off then .remote (off - 2 ^ 52) 0 else .mem off (s.verNow h.ver) false
  | _, none => .unreachable

/-- Change SYNC of a slice by an atomic (R287, R290, R292), with its full fences where it has them. `home` is where an increment stands
that the atomic takes back. -/
def State.syncAtomic (s : State) (b l : Nat) (buf : DWord) (fence : Bool) (home : Option SyncHome) (f : Nat → Nat) : State :=
  let s := if fence then s.fenceNow b [l] true else s
  let (s, tg) := s.locate b l (buf + 16) 8 0 .atomic
  (s.atomAt b l 0 (buf + 16) 8 f ((home.map (fun h => s.syncTarget h tg)).getD tg)).1

/-- The place of SYNC allows an atomic. -/
def State.syncReach (s : State) (b l : Nat) (buf : DWord) : State × EngineEnd :=
  match s.locate b l (buf + 16) 8 0 .atomic with
  | (s, .trap i) => (s, .trap i)
  | (s, .unreachable) => (s, .lost)
  | (s, .fill t w m pa) => (s, .wait (some (.fill t w m pa)))
  | (s, _) => (s, .ok)

/-! ### cut (R286) -/

/-- What a `cut` will do in a lane. -/
structure CutPlan where
  buf : DWord
  serial : Nat
  image : List Byte
  header : List Byte
  relink : List (DWord × DWord)
  lifted : Nat
  bottom : Frame
  base : Nat
  fill : List (Nat × Reg)
  marktop : DWord
  deriving DecidableEq, Repr

/-- Bytes with those from an offset on replaced, where they lie inside. -/
def patch (bs : List Byte) (o : Nat) (v : List Byte) : List Byte :=
  if o + v.length ≤ bs.length then bs.take o ++ v ++ bs.drop (o + v.length) else bs

/-- The stores that take delimiters out of a chain: each one that stays and whose PREV changes, with its new PREV. -/
def relinks (last : DWord) : List Delim → List (DWord × DWord)
  | [] => []
  | d :: ds =>
    let next := match ds with
      | e :: _ => e.at_
      | [] => last
    if d.prev == next then relinks last ds else (d.at_, next) :: relinks last ds

/-- The delimiters at the top of a list that an unwinding drops (R278). -/
def stay (f : DWord) : List Delim → List Delim
  | [] => []
  | d :: ds => if f.toNat ≤ d.mfp.toNat then stay f ds else d :: ds

/-- Reach the places of stores of one piece each. -/
def State.reachEach (s : State) (b l : Nat) : List (DWord × DWord) → State × EngineEnd
  | [] => (s, .ok)
  | p :: ps =>
    match s.sliceReach true b l p.1 1 with
    | (s, .ok) => s.reachEach b l ps
    | r => r

/-- MARKTOP after a `cut` of frames from `f` on: what stays of the chain above D, or the first of the rest that is not
dropped. -/
def State.cutMarktop (s : State) (b l : Nat) (f : DWord) (above : List Delim) (prev : DWord) : State × EngineEnd × DWord :=
  match stay f above with
  | d :: _ => (s, .ok, d.at_)
  | [] => s.dropMarks b l f (s.thread b l).delimFuel prev

/-- The ring base of the frame below the frames that a `cut` lifts (R286): F1 is the last of them. -/
def Thread.cutBase (t : Thread) (fs : List Frame) (f1 : Frame) : Nat × Nat :=
  let base1 := ((t.placed.drop (fs.length - 1)).head?.map (·.2)).getD t.base
  (base1, base1 + f1.o - f1.nc)

/-- The pair d of the frame below a `cut`, where a matrix post holds one of it, traps under CHECK (R81). The place of this check, behind
that of the window, is DEDUCED (assumption 100): the frame is known only once the delimiter is found. -/
def Thread.cutPending (t : Thread) (check : Bool) (d cb : Nat) : Option TrapInfo :=
  let pend (n : Nat) : Bool := 8 ≤ n && (t.boundAt (8 + (cb + (n - 8)))).isSome
  if check then ([d, d + 1].find? pend).map (fun n => TrapInfo.atReg causePendingTouch false n) else none

/-- The copy and the fills of a `cut` whose checks have passed. Where its copy waits or faults, bytes of the buffer may be new already
(R286, R289). DESIGN CHOICE (assumption 101): a number of frames or of carried delimiters that NFR or NMARK has no room for is written modulo
its width. -/
def State.cutMoves (s : State) (l : Nat) (buf : DWord) (h : SliceHeader) (d : BitVec 6) (tag : DWord) (ds : List Delim) (dl : Delim)
    (fs : List Frame) (f1 : Frame) (lo hi : DWord) : State × EngineEnd × Option CutPlan :=
  let b := s.cur.bundle
  let t := s.thread b l
  let len := hi.toNat - lo.toNat
  let above := ds.filter (fun x => x.at_ != dl.at_)
  let inside (x : Delim) : Bool := lo.toNat ≤ x.at_.toNat && x.at_.toNat < hi.toNat
  let carried := above.filter inside
  let rest := above.filter (fun x => !inside x)
  let links := relinks dl.prev rest
  let (base1, cb) := t.cutBase fs f1
  let early (s : State) (e : EngineEnd) : State × EngineEnd × Option CutPlan :=
    (match e with
      | .trap _ => s.scatter b l buf (8 + len / 8)
      | _ => s.scatter b l (buf + 64) (len / 8), e, none)
  match s.cutMarktop b l f1.fp rest dl.prev with
  | (s, .ok, top) =>
    (match s.saveRings b l ((List.range (t.base + t.n - (base1 + f1.o))).map (fun i => base1 + f1.o + i)) with
    | (s, .ok) =>
      (match s.sliceLoad true b l lo (len / 8) with
      | (s, .ok, bs) =>
        (match s.sliceReach true b l buf (8 + len / 8) with
        | (s, .ok) =>
          (match s.reachEach b l links with
          | (s, .ok) =>
            (match s.fillValues b l (((List.range f1.nc).map (fun i => cb + i)).filter (fun i => !t.resident i)) with
            | (s, .ok, regs) =>
              let image := fs.foldl (fun im f => patch im (f.fp.toNat - 64 - lo.toNat) (f.header.take 32)) bs
              let serial := (h.serial + 1) % 256
              let moff := match carried with
                | c :: _ => c.at_.toNat - lo.toNat
                | [] => 0xFFFFFFFF
              let head := bytesOf 4 sliceMagic ++ bytesOf 4 len ++ bytesOf 2 fs.length ++ bytesOf 2 s.curB.asid.toNat
                ++ bytesOf 8 (tag.toNat * 2 ^ 48 + serial * 2 ^ 40) ++ bytesOf 8 (s.threadName b l).toNat ++ bytesOf 8 lo.toNat
                ++ bytesOf 8 (s.cur.pc + 4).toNat ++ bytesOf 4 ((s.pairV l 6) - lo).toNat ++ bytesOf 4 moff ++ bytesOf 1 d.toNat
                ++ bytesOf 1 carried.length ++ List.replicate 6 0
              (s, .ok, some ⟨buf, serial, image, head, links, fs.length, f1, cb, regs, top⟩)
            | (s, e, _) => early s e)
          | (s, e) => early s e)
        | (s, e) => early s e)
      | (s, e, _) => early s e)
    | (s, e) => (s, e, none))
  | (s, e, _) => early s e

/-- A lane's plan for `cut` (R286), in the order of its checks. R282 refuses every slice word of another context with SLICE_CONTEXT,
and R286, whose checks R284 takes in their order, has no such check: the plan follows R286, so that a context may cut into a buffer
that holds another's FREED slice (assumption 84, DESIGN CHOICE). -/
def State.cutPlan (s : State) (d a : BitVec 6) (tag : DWord) (l : Nat) : State × EngineEnd × Option CutPlan :=
  let b := s.cur.bundle
  let buf := s.lanePair l a
  match s.readCap b l buf with
  | (s, .ok, h) =>
    let t := s.thread b l
    (match s.chainTo b l tag t.delimFuel t.marktop with
    | (s, .ok, ds) =>
      (match ds.getLast? with
      | none => stopPlan s (TrapInfo.of causeSliceNoMark)
      | some dl =>
        let fs := (t.frames.dropLast).takeWhile (fun f => dl.at_.toNat + 32 ≤ f.area.toNat)
        if dl.tagw != tag || dl.mfp == s.pairV l 6 then stopPlan s (TrapInfo.of causeSliceNoMark)
        else (match fs.getLast? with
          | none => stopPlan s (TrapInfo.of causeSliceNoMark)
          | some f1 =>
            let lo := align16 f1.csp
            let hi := align16 (s.pairV l 4)
            let len := hi.toNat - lo.toNat
            if hi.toNat ≤ lo.toNat then stopPlan s (TrapInfo.of causeSliceDamaged)
            else if d.toNat ≥ 8 + t.n || d.toNat + 1 ≥ 8 + f1.nc then stopPlan s (TrapInfo.atReg causeWindowRange false d.toNat)
            else if let some i := t.cutPending s.tagCheck d.toNat (t.cutBase fs f1).2 then stopPlan s i
            else if h.magic == sliceMagic && h.state < 2 then stopPlan s (TrapInfo.of causeSliceBusy)
            else if 64 + len > h.cap || rangesMeet' buf.toNat (64 + len) lo.toNat len then stopPlan s (TrapInfo.of causeSliceSpace)
            else s.cutMoves l buf h d tag ds dl fs f1 lo hi))
    | (s, e, _) => (s, e, none))
  | (s, e, _) => (s, e, none)
where
  /-- Two ranges of addresses meet. -/
  rangesMeet' (x n y m : Nat) : Bool := x < y + m && y < x + n

/-- A thread unwound to the frame below a cut, as a return of the bottom frame unwinds it (R105, R286). -/
def Thread.unwind (t : Thread) (p : CutPlan) : Thread :=
  let rest := t.frames.drop p.lifted
  let f := rest.headD ⟨0, 0, 0, 0, 0, 0, 0⟩
  let t : Thread := { t with base := p.base, n := p.bottom.nc, o := f.o, nc := f.nc, frames := rest, marktop := p.marktop }
  (((t.placeFill p.fill p.base).setFp p.bottom.cfp).setSp p.bottom.csp).goto p.bottom.rpc

/-- CUT (R286). -/
def execCut (d a : BitVec 6) (t : BitVec 12) (s : State) : Host.Outcome State Fault Refusal :=
  s.word (.cut d a t) (fun s0 => s0.sliceWord (·.waitWord (.cut d a t) []) ⟨[src a true .int], []⟩ (fun s l => s.cutPlan d a (t.setWidth 64) l) (fun s l p =>
    let b := s.cur.bundle
    let s := s.slicePut true b l (p.buf + 64) (pieces8 p.image)
    let s := s.slicePut true b l (p.buf + 4) (p.header.take 4 :: pieces8 (p.header.drop 4))
    let s := p.relink.foldl (fun s x => s.slicePut true b l x.1 [bytesOf 8 x.2.toNat]) s
    let handle : DWord := p.buf ||| BitVec.ofNat 64 (p.serial * 2 ^ 56)
    (s.reframe b l (fun t => t.unwind p)).modBundle b (fun x => x.writeLane l (put2 d handle .w64))))

/-! ### graft (R287) -/

/-- What a `graft` will do in a lane. -/
structure GraftPlan where
  buf : DWord
  newlo : DWord
  image : List Byte
  frames : List Frame
  base : Nat
  top : SliceFrame
  fill : List (Nat × Reg)
  header : SliceHeader
  deriving DecidableEq, Repr

/-- A field of 8 bytes of an image. -/
def imageField (im : List Byte) (o : Nat) : Nat := ofBytes ((im.drop o).take 8)

/-- A field of an image moved by delta. -/
def shiftField (delta : DWord) (im : List Byte) (o : Nat) : List Byte :=
  patch im o (bytesOf 8 (BitVec.ofNat 64 (imageField im o) + delta).toNat)

/-- The masked words of a frame's memory part, which ends at offset `stop` of the image (R287, R288). -/
def relocate (delta : DWord) (fp stop mask : Nat) (im : List Byte) : List Byte :=
  (List.range 64).foldl (fun im i =>
    if mask / 2 ^ i % 2 == 1 && fp + 8 * i + 8 ≤ stop then shiftField delta im (fp + 8 * i) else im) im

/-- Relocate the frames of an image, top first; `stop` is where the memory part of the first ends (R287). -/
def relocateFrames (delta : DWord) (lo : Nat) : List SliceFrame → Nat → List Byte → List Byte
  | [], _, im => im
  | f :: fs, stop, im =>
    let h := f.fp - 64 - lo
    let im := if fs.isEmpty then im else shiftField delta (shiftField delta im h) (h + 8)
    let im := relocate delta (f.fp - lo) stop (imageField im (h + 32)) im
    relocateFrames delta lo fs (f.area - lo) im

/-- Move the carried delimiters of an image (R287): the lowest's PREV is the grafter's MARKTOP. A chain that leaves the image, above it
or below LO, is followed no further (assumption 37). -/
def moveDelims (delta : DWord) (lo : Nat) (marktop : DWord) : Nat → Nat → List Byte → List Byte
  | 0, _, im => im
  | n + 1, o, im =>
    if o % 16 != 0 || o + 32 > im.length then im else
    let prev := imageField im o
    let im := shiftField delta im (o + 8)
    let im := if n = 0 then patch im o (bytesOf 8 marktop.toNat) else shiftField delta im o
    if prev < lo then im else moveDelims delta lo marktop n (prev - lo) im

/-- The frames of a slice with their ring bases, as if each had been called in turn from a window at `base` of `n` registers
(R287): bottom first in, top first out. -/
def graftBases : List SliceFrame → Nat → Nat → List (SliceFrame × Nat) → List (SliceFrame × Nat)
  | [], _, _, acc => acc
  | f :: fs, base, n, acc => graftBases fs (base + n - f.o) f.n ((f, base + n - f.o) :: acc)

/-- A register of a frame as its save slot in an image holds it (R79, R100). -/
def imageSlot (im : List Byte) (lo : Nat) (f : SliceFrame) (j : Nat) : Reg :=
  let a := f.area - lo
  let t := (im.getD (a + 4 * (f.n - f.o) + j / 2) 0).toNat
  Reg.ofSlot (ofBytes ((im.drop (a + 4 * j)).take 4)) (Tag.ofNibble (if j % 2 = 0 then t % 16 else t / 16))

/-- The copy and the fills of a `graft` whose checks have passed. -/
def State.graftMoves (s : State) (l : Nat) (buf newlo : DWord) (h : SliceHeader) (fs : List SliceFrame) :
    State × EngineEnd × Option GraftPlan :=
  let b := s.cur.bundle
  let t := s.thread b l
  let delta := newlo - BitVec.ofNat 64 h.lo
  let placed := graftBases fs.reverse t.base t.n []
  let tb := (placed.head?.map (·.2)).getD t.base
  let top := fs.headD ⟨0, 0, 0, 0, 0, 0, 0⟩
  let need := tb + top.n - t.ring.length
  match s.spillTo b l need (need - t.lo) with
  | (s, .ok) =>
    (match s.sliceLoad true b l (buf + 64) (h.len / 8) with
    | (s, .ok, bs) =>
      (match s.sliceReach true b l newlo (h.len / 8) with
      | (s, .ok) =>
        let im := relocateFrames delta h.lo fs h.len bs
        let im := match fs.getLast? with
          | some f =>
            let o := f.fp - 64 - h.lo
            let win := imageField im (o + 24)
            patch (patch (patch (patch im o (bytesOf 8 (s.pairV l 6).toNat)) (o + 8) (bytesOf 8 (s.pairV l 4).toNat)) (o + 16)
              (bytesOf 8 (s.cur.pc + 4).toNat)) (o + 24) (bytesOf 8 (win - bitsAt win 12 6 * 4096 + t.n * 4096))
          | none => im
        let im := moveDelims delta h.lo t.marktop h.nmark h.markoff im
        let fromSlice (i : Nat) : Option Reg :=
          (placed.find? (fun p => p.2 + p.1.o ≤ i && i < p.2 + p.1.n)).map (fun p => imageSlot im h.lo p.1 (i - p.2 - p.1.o))
        let ids := (List.range top.n).map (fun i => tb + i)
        (match s.fillValues b l (ids.filter (fun i => (fromSlice i).isNone && !(s.thread b l).resident i)) with
        | (s, .ok, old) =>
          let new := ids.filterMap (fun i => (fromSlice i).map (fun r => (i, r)))
          let frame (p : SliceFrame × Nat) : Frame :=
            let o := p.1.fp - 64 - h.lo
            ⟨BitVec.ofNat 64 p.1.fp + delta, BitVec.ofNat 64 (imageField im o), BitVec.ofNat 64 (imageField im (o + 8)),
              BitVec.ofNat 64 (imageField im (o + 16)), p.1.n, p.1.o, bitsAt (imageField im (o + 24)) 12 6⟩
          (s, .ok, some ⟨buf, newlo, im, placed.map frame, tb, top, old ++ new, h⟩)
        | (s, e, _) => (s, e, none))
      | (s, e) => (s, e, none))
    | (s, e, _) => (s, e, none))
  | (s, e) => (s, e, none)

/-- SLICE_STALE of a handle's serial (R281). -/
def SliceHeader.stale (h : SliceHeader) (serial : Nat) : Bool := h.serial != serial || h.state == 2

/-- Where the increment that a `graft` of a lane has made of INPROG stands (R287), if it has made one. -/
def State.begun (s : State) (l : Nat) : Option SyncHome := lookupKey l s.cur.homes

/-- Where an atomic on SYNC at a target stands (R287): at a home, or in stash alone. -/
def State.homeAt (s : State) (va : DWord) : Target → SyncHome
  | .mem off ver _ => ⟨va, some off, ver⟩
  | .remote pa _ => ⟨va, some (s.homeOf pa), none⟩
  | _ => ⟨va, none, none⟩

/-- The `graft` of a lane counts in INPROG from now on (R287), if it has not before; the latch keeps where. -/
def State.graftBegin (s : State) (b l : Nat) (buf : DWord) : State :=
  if (s.begun l).isSome then s else
  let home := s.homeAt (buf + 16) (s.locate b l (buf + 16) 8 0 .atomic).2
  let s := s.syncAtomic b l buf true none (syncProg 1)
  { s with cur := { s.cur with homes := s.cur.homes ++ [(l, home)] } }

/-- The `graft` of a lane that ends early counts in INPROG no more (R287). -/
def State.graftEnd (s : State) (b l : Nat) (buf : DWord) : State :=
  match s.begun l with
  | none => s
  | some h =>
    let s := s.syncAtomic b l buf true (some h) (syncProg 65535)
    { s with cur := { s.cur with homes := s.cur.homes.filter (fun h => h.1 != l) } }

/-- The waiting word of a thread is abandoned (R289): the increment of a `graft` is undone. -/
def State.abandonWord (s : State) (b l : Nat) : State :=
  match (s.thread b l).graftHome with
  | some h => s.syncAtomic b l (h.va - 16) true (some h) (syncProg 65535)
  | none => s

/-- A lane's plan for `graft` (R287), in the order of its checks. Once it counts in INPROG, its handle is neither stale nor another's. -/
def State.graftChecks (s : State) (a : BitVec 6) (l : Nat) : State × EngineEnd × Option GraftPlan :=
  let b := s.cur.bundle
  let hp := handleParts (s.lanePair l a)
  match s.openSlice l hp.1 with
  | (s, .ok, h, fs) =>
    let t := s.thread b l
    let newlo := align16 (s.pairV l 4)
    let o1 := ((fs.getLast?).map (·.o)).getD 0
    let nt := ((fs.head?).map (·.n)).getD 0
    if o1 > t.n || nt > s.curB.p - 8 then stopPlan s windowRange
    else if newlo.toNat + h.len > t.flimit.toNat then stopPlan s (TrapInfo.of causeFrameLimit)
    else (match s.syncReach b l hp.1 with
      | (s, .ok) =>
        let begun := (s.begun l).isSome
        if !begun && h.stale hp.2 then stopPlan s (TrapInfo.of causeSliceStale)
        else if !begun && h.state == 0 && h.owner != s.threadName b l then stopPlan s (TrapInfo.of causeSliceOwner)
        else (match s.graftMoves l hp.1 newlo h fs with
          | (s, .ok, p) => (s, .ok, p)
          | (s, .wait t, _) => ((s.graftBegin b l hp.1).scatter b l newlo (h.len / 8), .wait t, none)
          | (s, e, _) => (s.scatter b l newlo (h.len / 8), e, none))
      | (s, e) => (s, e, none))
  | (s, e, _, _) => (s, e, none)

/-- A lane's plan for `graft`: one that traps counts in INPROG no more. -/
def State.graftPlan (s : State) (a : BitVec 6) (l : Nat) : State × EngineEnd × Option GraftPlan :=
  match s.graftChecks a l with
  | (s, .trap i, p) => (s.graftEnd s.cur.bundle l (handleParts (s.lanePair l a)).1, .trap i, p)
  | r => r

/-- A thread after the final step of a `graft` (R287): the top frame is current, the frames below it are held spilled. -/
def Thread.grafted (t : Thread) (p : GraftPlan) (v : Reg) : Thread :=
  let t : Thread := { t with
    base := p.base, n := p.top.n, o := p.top.o, nc := ((p.frames.head?).map (·.nc)).getD 0, entered := true
    frames := p.frames ++ t.frames, lo := min t.lo p.base
    holes := t.holes.filter (fun i => i < p.base) ++ ((List.range (p.base - max t.lo (t.base + t.n))).map (fun i => max t.lo (t.base + t.n) + i))
    marktop := if p.header.nmark > 0 then p.newlo + BitVec.ofNat 64 p.header.markoff else t.marktop }
  let t := p.fill.foldl (fun t r => t.ringSet r.1 r.2) t
  let t := t.writeV p.header.dreg v.moved
  ((t.setFp (p.newlo + BitVec.ofNat 64 p.header.topoff)).setSp (p.newlo + BitVec.ofNat 64 p.header.len)).goto p.header.rpc

/-- The key of register DREG in the window of the top frame, where it lies in it (R287). -/
def GraftPlan.dregKey (p : GraftPlan) : List Nat :=
  let n := p.header.dreg
  if n < 8 then [n] else if n < 8 + p.top.n then [8 + (p.base + (n - 8))] else []

/-- A graft completed: DONE + 1, saturating, and INPROG as before its increment (R287), which `begun` says was made in an earlier step. -/
def syncDone (begun : Bool) (v : Nat) : Nat :=
  let v := if begun then syncProg 65535 v else v
  let n := bitsAt v 16 16
  v - n * 65536 + min (n + 1) 65535 * 65536

/-- GRAFT (R287). -/
def execGraft (a b : BitVec 6) (h : BitVec 2) (s : State) : Host.Outcome State Fault Refusal :=
  s.word (.graft a b h) (fun s0 =>
    s0.sliceWord (·.waitWord (.graft a b h) []) ⟨[src a true .int, src b false .any], []⟩ (fun s l => s.graftPlan a l) (fun s l p =>
      let x := s.cur.bundle
      let v := s0.v l b
      let s := s.slicePut true x l p.newlo (pieces8 p.image)
      let s := s.syncAtomic x l p.buf true (s.begun l) (syncDone (s.begun l).isSome)
      s.contest x l ([4, 5, 6, 7] ++ p.dregKey) (fun t => t.grafted p v)))

/-! ### slshare, slfree, slinfo (R290, R291) -/

/-- A lane's plan for `slshare` and `slfree` (R290): the buffer. -/
def State.ownPlan (s : State) (free : Bool) (a : BitVec 6) (l : Nat) : State × EngineEnd × Option DWord :=
  let b := s.cur.bundle
  let hp := handleParts (s.lanePair l a)
  match s.openSlice l hp.1 with
  | (s, .ok, h, _) =>
    (match s.syncReach b l hp.1 with
    | (s, .ok) =>
      if h.stale hp.2 then stopPlan s (TrapInfo.of causeSliceStale)
      else if h.owner != s.threadName b l then stopPlan s (TrapInfo.of causeSliceOwner)
      else if free && bitsAt h.sync 0 16 != 0 then stopPlan s (TrapInfo.of causeSliceBusy)
      else (s, .ok, some hp.1)
    | (s, e) => (s, e, none))
  | (s, e, _, _) => (s, e, none)

/-- SYNC with another STATE. -/
def syncState (st v : Nat) : Nat := v - bitsAt v 32 2 * 2 ^ 32 + st * 2 ^ 32

/-- SLSHARE (R290). -/
def execSlshare (a : BitVec 6) (s : State) : Host.Outcome State Fault Refusal :=
  s.word (.slshare a) (fun s0 => s0.sliceWord (·.waitWord (.slshare a) []) ⟨[src a true .int], []⟩ (fun s l => s.ownPlan false a l) (fun s l buf =>
    (s.syncAtomic s.cur.bundle l buf false none (syncState 1)).modThread s.cur.bundle l (fun t => t.advance s.cur.pc)))

/-- SLFREE (R290). -/
def execSlfree (a : BitVec 6) (s : State) : Host.Outcome State Fault Refusal :=
  s.word (.slfree a) (fun s0 => s0.sliceWord (·.waitWord (.slfree a) []) ⟨[src a true .int], []⟩ (fun s l => s.ownPlan true a l) (fun s l buf =>
    (s.syncAtomic s.cur.bundle l buf true none (syncState 2)).modThread s.cur.bundle l (fun t => t.advance s.cur.pc)))

/-- The report of `slinfo` (R291) on a header, whose walk may have failed. -/
def sliceInfo (h : SliceHeader) (whole : Bool) (serial asid : Nat) (me : DWord) : DWord :=
  let status := if !whole then 5 else if h.ctx != asid then 4 else if h.serial != serial then 3 else h.state
  let mine := h.owner == me && h.ctx == asid
  BitVec.ofNat 64 (bitsAt h.sync 16 16 * 2 ^ 48 + bitsAt h.sync 0 16 * 2 ^ 32 + h.nfr * 2 ^ 16 + h.serial * 256
    + (if mine then 8 else 0) + status)

/-- A lane's plan for `slinfo`: its result. -/
def State.infoPlan (s : State) (a : BitVec 6) (l : Nat) : State × EngineEnd × Option DWord :=
  let b := s.cur.bundle
  let hp := handleParts (s.lanePair l a)
  match s.readHeader b l hp.1 with
  | (s, .ok, h) =>
    (match s.sliceFrames false b l hp.1 h with
    | (s, .ok, r) => (s, .ok, some (sliceInfo h r.isSome hp.2 s.curB.asid.toNat (s.threadName b l)))
    | (s, e, _) => (s, e, none))
  | (s, e, _) => (s, e, none)

/-- SLINFO (R291). -/
def execSlinfo (d a : BitVec 6) (s : State) : Host.Outcome State Fault Refusal :=
  s.word (.slinfo d a) (fun s0 => s0.sliceWord (·.waitWord (.slinfo d a) []) ⟨[src a true .int], dst d true .w64⟩ (fun s l => s.infoPlan a l) (fun s l v =>
    s.modBundle s.cur.bundle (fun x => (x.writeLane l (put2 d v .w64)).modThread l (fun t => t.advance s.cur.pc))))

end Sys2Proof.Machine
end

