-- ==== Sys2Proof/Machine/Special.lean ====
section
/-! DEFINITION. Special registers: their contents (R3, R59, R80, R88, R91, R149, R216, R317, R338, R362 to R366), `srd` and `swr`
(R361), the writes that take effect (R59, R80, R88, R91, R150, R317, R371), and `vstat` (R217). -/
namespace Sys2Proof.Machine

/-! ### Reading (R362) -/

/-- PART (R216). -/
def State.partReg (s : State) (b : Bundle) : Nat :=
  match b.team with
  | none => b.part
  | some t =>
    let p := s.pack (s.team t).pack
    let r := (s.team t).rank % (p.cols * p.rows)
    if !p.formed then b.part
    else (p.rows - 1) * 2 ^ 18 + (p.cols - 1) * 2 ^ 16 + r / p.cols * 1024 + r % p.cols * 256 + b.part

/-- BSTAT (R88). -/
def Bundle.bstat (b : Bundle) : Nat :=
  b.p / 8 * 256 + (if b.w = 16 then 0 else if b.w = 32 then 16 else 32) + (if b.leash.rot then 2 else 0) + (if b.bempty then 1 else 0)

/-- WHIST of a bundle's part (R338). -/
def State.whist (s : State) (b : Bundle) : Nat :=
  let p := s.partOf b.pid
  if p.raised then min p.left (2 ^ 20 - 1) * 2 + 1 else 0

/-- The open event of a handler bundle. -/
def Bundle.event (b : Bundle) : Option TrapEvent := b.handler.bind (·.current)

/-- TRAPC (R363). -/
def TrapEvent.trapc (e : TrapEvent) : Nat :=
  (if e.nobundle then 65536 else 0) + e.sub * 16384 + e.slot * 256 + e.cause.toNat % 128

/-- The bits of SEL that a comparator of a KIND has (R364); the others are reserved (R6). -/
def selMask (kind : Nat) : DWord := if kind = 1 then 0xFFFFFFFF else if kind = 2 then 0xFFFFFFFFFFF else 0xFFFFFFFFFFFFFFFF

/-- SEL of a breakpoint as it reads (R364): the reserved bits of its KIND are 0. -/
def Context.bkptSel (c : Context) (n : Nat) : DWord := c.bkpts.getD n 0 &&& selMask (bitsAt (c.bkpta.getD n 0).toNat 0 2)

/-- The special register of a number as a bundle and its issued lanes read it (R362). -/
def State.special (s : State) (bi : Nat) (lanes : List Nat) (r : Nat) : DWord :=
  let b := s.bundle bi
  let c := s.ctx b.asid
  let nat (n : Nat) : DWord := BitVec.ofNat 64 n
  if r = 0x000 then nat (b.bidx * b.w)
  else if r = 0x001 then nat b.bidx
  else if r = 0x002 then nat ((b.team.map (fun t => (s.team t).index)).getD 0)
  else if r = 0x003 then nat (b.sub * 16 + b.core)
  else if r = 0x004 then nat (s.partReg b)
  else if r = 0x005 then s.nodeid.setWidth 64
  else if 0x008 ≤ r && r ≤ 0x00B then
    (match b.team with
    | some t => (s.teamLaunch t).lvmap.getD (r - 8) lvmapNone
    | none => lvmapNone)
  else if r = 0x010 then s.clk
  else if r = 0x011 then nat (s.whist b)
  else if r = 0x012 then nat b.bstat
  else if r = 0x013 then (lanes.foldl (fun f l => f ||| (b.thread l).fstat) 0).setWidth 64
  else if r = 0x014 then s.host.caps
  else if r = 0x015 then nat (if c.tagcheck then 1 else 0)
  else if r = 0x016 then nat c.leash
  else if 0x020 ≤ r && r ≤ 0x02F then (c.streamcfg.getD (r - 0x20) 0).setWidth 64
  else if r = 0x030 then nat ((b.event.map TrapEvent.trapc).getD 0)
  else if r = 0x031 then (b.event.map (·.pc)).getD 0
  else if r = 0x032 then (b.event.map (·.lanes)).getD 0
  else if r = 0x033 then c.hentry
  else if 0x040 ≤ r && r ≤ 0x04F then c.bkpta.getD (r - 0x40) 0
  else if 0x050 ≤ r && r ≤ 0x05F then c.bkptSel (r - 0x50)
  else if 0x060 ≤ r && r ≤ 0x067 then c.wpa.getD (r - 0x60) 0
  else if 0x068 ≤ r && r ≤ 0x06F then c.wpm.getD (r - 0x68) 0
  else if r = 0x080 then c.inject
  else 0

/-- SRD (R361). -/
def execSrd (d : BitVec 6) (r : BitVec 12) (s : State) : Host.Outcome State Fault Refusal :=
  s.word (.srd d r) (fun s =>
    let v := s.special s.cur.bundle s.issued r.toNat
    (s.writeS (if srWide r then put2 d v .w64 else put d (v.setWidth 32) .int)).advanceAll)

/-! ### Writing -/

/-- A write of FSTAT for lanes of a bundle (R59). -/
def State.setFstat (s : State) (b : Nat) (lanes : BitVec 64) (v : Word) : State :=
  s.modBundle b (fun x => { x with threads := x.threads.mapIdx (fun l t =>
    if lanes.getLsbD l then { t with fstat := v.setWidth 6 } else t) })

/-- A write of BSTAT (R88). -/
def State.setBstat (s : State) (b : Nat) (v : Word) : State := s.modBundle b (fun x => { x with bempty := v.getLsbD 0 })

/-- A write of TAGMODE (R80). -/
def State.setTagmode (s : State) (asid : BitVec 16) (v : Word) : State := s.modCtx asid (fun c => { c with tagcheck := v.getLsbD 0 })

/-- The leash length of a written value (R91). -/
def leashValue (v : Word) : Nat := min (max (v.extractLsb' 0 17).toNat 64) 65536 / 8 * 8

/-- A write of LEASH (R91). -/
def State.setLeash (s : State) (asid : BitVec 16) (v : Word) : State := s.modCtx asid (fun c => { c with leash := leashValue v })

/-- A write of a stream's entry (R149, R150). -/
def State.setStream (s : State) (asid : BitVec 16) (n : Nat) (v : Word) : State :=
  s.modCtx asid (fun c => { c with streamcfg := c.streamcfg.set n (v.setWidth 6 &&& 0x3E) })

/-- A write of HENTRY (R363). -/
def State.setHentry (s : State) (asid : BitVec 16) (v : DWord) : State :=
  s.modCtx asid (fun c => { c with hentry := v &&& 0x00FFFFFFFFFFFFFC })

/-- The contents of INJECT after a write (R317). -/
def injectValue (v : DWord) : DWord :=
  let v := v &&& ~~~(1#64 <<< 62)
  if v.extractLsb' 0 3 ≥ 2 then v &&& 0x7FFFFFFFFFFFFFF8 else v

/-- A write of INJECT (R317). -/
def State.setInject (s : State) (asid : BitVec 16) (v : DWord) : State := s.modCtx asid (fun c => { c with inject := injectValue v })

/-- The EN bit of a comparator or watchpoint without a handler (R351). -/
def Context.enMask (c : Context) (v : DWord) : DWord := if c.handler then v else v &&& 0x7FFFFFFFFFFFFFFF

/-- A write of a breakpoint or watchpoint register (R351, R364, R366): a write of SEL leaves the reserved bits of its KIND 0 (R6). -/
def Context.setDebug (c : Context) (r : Nat) (v : DWord) : Context :=
  if r ≤ 0x04F then { c with bkpta := c.bkpta.set (r - 0x40) (c.enMask (v &&& 0x80FFFFFFFFFFFFFF)) }
  else if r ≤ 0x05F then { c with bkpts := c.bkpts.set (r - 0x50) (v &&& selMask (bitsAt (c.bkpta.getD (r - 0x50) 0).toNat 0 2)) }
  else if r ≤ 0x067 then { c with wpa := c.wpa.set (r - 0x60) (c.enMask (v &&& 0x80FFFFFFFFFFFFF0)) }
  else { c with wpm := c.wpm.set (r - 0x68) v }

/-- The physical address behind the range of a watchpoint, as an agent at a place finds it now (R366). -/
def State.watchPlace (s : State) (place : Nat) (asid : BitVec 16) (n : Nat) : Option Nat :=
  s.peekXlate place asid (((s.ctx asid).wpa.getD n 0) &&& 0x00FFFFFFFFFFFFF0)

/-- A write of a breakpoint or watchpoint register of a context by an agent at a place; a watchpoint's range is translated for the
home slices as the write takes effect (R366). -/
def State.setDebug (s : State) (place : Nat) (asid : BitVec 16) (r : Nat) (v : DWord) : State :=
  let s := s.modCtx asid (fun c => c.setDebug r v)
  if 0x060 ≤ r && r ≤ 0x067 then
    let pa := s.watchPlace place asid (r - 0x60)
    s.modCtx asid (fun c => { c with wpt := c.wpt.set (r - 0x60) pa })
  else s

/-- A write of the special register of a number by the word at issue (R361): a register marked R ignores it. -/
def State.setSpecial (s : State) (r : Nat) (v : DWord) : State :=
  let asid := s.curB.asid
  let w := v.setWidth 32
  if r = 0x012 then s.setBstat s.cur.bundle w
  else if r = 0x013 then s.setFstat s.cur.bundle s.cur.lanes w
  else if r = 0x015 then s.setTagmode asid w
  else if r = 0x016 then s.setLeash asid w
  else if 0x020 ≤ r && r ≤ 0x02F then s.setStream asid (r - 0x20) w
  else if r = 0x033 then s.setHentry asid v
  else if 0x040 ≤ r && r ≤ 0x06F then s.setDebug s.curB.coreNo asid r v
  else if r = 0x080 then s.setInject asid v
  else s

/-- SWR (R361). -/
def execSwr (a : BitVec 6) (r : BitVec 12) (s : State) : Host.Outcome State Fault Refusal :=
  s.word (.swr a r) (fun s => s.uniWord [src a (srWide r) .int] (fun s =>
    (s.setSpecial r.toNat (if srWide r then s.u64 a else (s.u32 a).setWidth 64)).advanceAll))

/-- FSTAT_WRITE (R59). -/
def execFstatWrite (bundle : Nat) (lanes : BitVec 64) (value : Word) (s : State) : Host.Outcome State Fault Refusal :=
  .next (s.setFstat bundle lanes value)

/-- BSTAT_WRITE (R88). -/
def execBstatWrite (bundle : Nat) (value : Word) (s : State) : Host.Outcome State Fault Refusal := .next (s.setBstat bundle value)

/-- TAGMODE_WRITE (R80). -/
def execTagmodeWrite (asid : BitVec 16) (value : Word) (s : State) : Host.Outcome State Fault Refusal := .next (s.setTagmode asid value)

/-- LEASH_WRITE (R91). -/
def execLeashWrite (asid : BitVec 16) (value : Word) (s : State) : Host.Outcome State Fault Refusal := .next (s.setLeash asid value)

/-- STREAMCFG_WRITE (R150). -/
def execStreamcfgWrite (asid : BitVec 16) (n : BitVec 4) (value : Word) (s : State) : Host.Outcome State Fault Refusal :=
  .next (s.setStream asid n.toNat value)

/-- HENTRY_WRITE (R363, R371). -/
def execHentryWrite (asid : BitVec 16) (value : DWord) (s : State) : Host.Outcome State Fault Refusal := .next (s.setHentry asid value)

/-- INJECT_WRITE (R317). -/
def execInjectWrite (asid : BitVec 16) (value : DWord) (s : State) : Host.Outcome State Fault Refusal := .next (s.setInject asid value)

/-! ### vstat (R217) -/

/-- The STATE word of a team (R217). -/
def State.teamStatus (s : State) (t : Nat) : Nat :=
  let tm := s.team t
  let ver : Nat := if !s.versioned t then 0 else if tm.ver.st == .early then 2 else 1
  let pack := (s.pack tm.pack).formed && (s.pack tm.pack).members.length > 1
  let again := s.relaunchable t && tm.count < s.relaunchLimit t
  tm.count * 128 + s.relaunchLimit t * 16 + (if pack then 8 else 0) + (if again then 4 else 0) + ver

/-- The rank word of a team (R217). -/
def State.rankStatus (s : State) (t : Nat) : Nat :=
  let p := s.pack (s.team t).pack
  if p.formed then (p.members.length - 1) * 65536 + (s.team t).rank else 0

/-- VSTAT (R217): selector 0 state, 1 vbytes in whole lines of 128 bytes (R311), 2 packrank; 0 in a handler bundle (R352). -/
def execVstat (d : BitVec 6) (xs : BitVec 12) (s : State) : Host.Outcome State Fault Refusal :=
  s.word (.vstat d xs) (fun s =>
    let of (f : Nat → Nat) : Nat := (s.curB.team.map f).getD 0
    let ws := if xs == 1 then put2 d (BitVec.ofNat 64 (of (fun t => 128 * cellLines (s.team t).ver.cells 0))) .w64
      else if xs == 2 then put d (BitVec.ofNat 32 (of s.rankStatus)) .int
      else put d (BitVec.ofNat 32 (of s.teamStatus)) .int
    (s.writeS ws).advanceAll)

end Sys2Proof.Machine
end

