-- ==== Sys2Proof/Machine/Handler.lean ====
section
/-! DEFINITION. Program traps (R360, R46), the handler bundle's words (R354 to R359, R373), its events (R352, R353, R355, R365),
and `icinv` (R369). -/
namespace Sys2Proof.Machine

/-! ### Program traps (R360) -/

/-- TRAP (R360): the issued set parks with SOFTWARE_n. -/
def execTrap (n : BitVec 4) (s : State) : Host.Outcome State Fault Refusal :=
  s.word (.trap n) (fun s => s.trapIssued (TrapInfo.of (causeSoftware0 + n.setWidth 8)))

/-- BKPT (R360): the issued set parks with SOFT_BREAK. -/
def execBkpt (s : State) : Host.Outcome State Fault Refusal :=
  s.word .bkpt (fun s => s.trapIssued (TrapInfo.of causeSoftBreak))

/-- ILLEGAL_OPCODE (R46, R47): the issued set parks. -/
def execIllegalOpcode (s : State) : Host.Outcome State Fault Refusal :=
  .next (s.trapIssued (TrapInfo.of causeIllegalOpcode))

/-! ### Targets and items (R354, R356) -/

/-- The bundle and lane that a target word names for the handler bundle `h` (R354). -/
def State.target (s : State) (h : Nat) (w : Word) : Option (Nat × Nat) :=
  let x := s.bundle h
  let lane := (w.extractLsb' 0 6).toNat
  ((indices s.bundles).find? (fun b =>
    let y := s.bundle b
    y.live && y.handler.isNone && y.pid == x.pid && y.core == x.core
      && y.sub == (w.extractLsb' 14 2).toNat && y.slot == (w.extractLsb' 8 6).toNat)).bind (fun b =>
    if lane < (s.bundle b).threads.length then some (b, lane) else none)

/-- A bundle is HELD (R365). -/
def Bundle.held (b : Bundle) : Bool := b.hold && b.steps == 0

/-- The STATE word of a thread (R356). -/
def Thread.stateWord (t : Thread) : Word :=
  let st : Nat := match t.st with
    | .ready => 0
    | .waiting _ => 1
    | .parked .await => 2
    | .parked .trap => 6
    | .parked .handler => 10
    | .exited => 3
  BitVec.ofNat 32 (st + (if t.unpark then 16 else 0) + (if t.ticket.isSome then 32 else 0) + (if t.skip then 64 else 0))

/-- The barrier that a level (1 team, 2 pack) and a number name for a bundle (R228, R231). -/
def State.handlerBar (s : State) (b lv n : Nat) : Option BarRef :=
  match (s.bundle b).team with
  | none => none
  | some t =>
    let la := s.teamLaunch t
    if lv = 1 && n < 16 then some (if n ≥ 12 && la.role (n - 12) == .lane then .lane b (n - 12) else .team t n)
    else if lv = 2 && n < 8 then
      some (if n ≥ 4 && la.role (n - 4) == .team then s.levelBar b (n - 4) else .pack (s.team t).pack n 0)
    else none

/-- BST0, BST1 and BST2 of a barrier (R231). RELEASED is never seen, for a release is one step. -/
def State.barWordOf (s : State) (r : BarRef) (k : Nat) : DWord :=
  let x := s.bar r
  BitVec.ofNat 64 (
    if k = 0 then x.gen.toNat * 2 ^ 32 + (if x.counting then 2 ^ 30 else 0) + (if x.all then 2 ^ 29 else 0)
      + x.payop.getD 7 * 2 ^ 26 + x.expected
    else if k = 1 then (if x.all then (s.barCounted r).1 else x.arrcnt)
    else if x.payop.isNone then 0 else x.payload.toNat)

/-- The `barthr` pair of a thread at a barrier (R356). -/
def Thread.barThr (t : Thread) (r : BarRef) : DWord :=
  let p : Nat := match t.pwait with
    | some w => if t.pendingAt r then 2 ^ 34 + w.gen.toNat else 0
    | none => 0
  BitVec.ofNat 64 (p + (if t.excused.getLsbD r.bit then 2 ^ 33 else 0) + (if t.arrived.getLsbD r.bit then 2 ^ 32 else 0))

/-- A `misc` item of a thread (R356). -/
def Thread.misc (t : Thread) (k : Nat) : DWord :=
  if k = 0 then t.marktop
  else if k = 1 then t.fbase
  else if k = 2 then t.flimit
  else if k = 3 then BitVec.ofNat 64 (t.base * 2 ^ 32 + (if t.entered then 2 ^ 18 else 0) + t.nc * 2 ^ 12 + t.o * 2 ^ 6 + t.n)
  else if k = 4 then t.fstat.setWidth 64
  else if k = 5 then BitVec.ofNat 64 (t.counter 0 + t.counter 1 * 2 ^ 32)
  else BitVec.ofNat 64 (t.counter 2 + t.counter 3 * 2 ^ 32)

/-- The DBG word (R365). -/
def Bundle.dbg (b : Bundle) : DWord :=
  BitVec.ofNat 64 (b.steps * 256 + (if b.held then 2 else 0) + (if b.hold then 1 else 0))

/-- A word of a fault record (R349). -/
def FaultRec.word (r : FaultRec) (k : Nat) : DWord := if k = 0 then r.w0 else if k = 1 then r.addr else if k = 2 then r.pc else r.other

/-- A word of the report of an event (R368), with LOST in word 3 (R353). -/
def TrapEvent.word (e : TrapEvent) (k : Nat) : DWord :=
  if e.cause != causeWatchReport then 0 else if k = 3 then BitVec.ofNat 64 (e.lost % 2 ^ 32) else e.report.getD k 0

/-- A register as `hlrd` gives it: the value with its tag, and the tag code (R356). -/
def hlReg (r : Reg) (t : Tag) : List Reg := [⟨r.val, t.moved⟩, ⟨t.code.setWidth 32, .int⟩]

/-- The registers that `hlrd` writes for an item of a target, or none where the target is absent or the index is out of
range (R357). -/
def State.hlItem (s : State) (h : Nat) (w : Word) (cls idx : Nat) : Option (List Reg) :=
  match s.target h w with
  | none => none
  | some (b, l) =>
    let x := s.bundle b
    let t := x.thread l
    let two (v : DWord) : Option (List Reg) := some (pairRegs v .w64)
    if cls = 0 then (if idx < 64 && t.inWindow idx then some (hlReg (s.readV b l idx) (t.tagV idx)) else none)
    else if cls = 1 then (if idx < 64 then some (hlReg (s.readS b idx) (s.readS b idx).tag) else none)
    else if cls = 2 then two t.pc
    else if cls = 3 then some [⟨t.stateWord, .int⟩]
    else if cls = 4 then
      (if idx < 4 then two (if t.stale then Config.freeDWord s.ticks (64 * b + l) (349 + idx) else t.frec.word idx) else none)
    else if cls = 5 then (if idx < 8 then two (x.m.getD idx 0) else none)
    else if cls = 6 then
      (if idx < 256 && idx % 4 < 3 then (s.handlerBar b (idx / 64) (idx / 4 % 16)).bind (fun r => two (s.barWordOf r (idx % 4)))
      else none)
    else if cls = 7 then (if idx < 64 then (s.handlerBar b (idx / 16) (idx % 16)).bind (fun r => two (t.barThr r)) else none)
    else if cls = 8 then (if idx < 7 then two (t.misc idx) else none)
    else if cls = 9 then two x.dbg
    else if idx < 4 then two (((s.bundle h).event.map (fun e => e.word idx)).getD 0)
    else none

/-- HLRD (R357): sa is the target word and sa+1 the item index. -/
def execHlrd (d a c : BitVec 6) (s : State) : Host.Outcome State Fault Refusal :=
  s.word (.hlrd d a c) (fun s => s.uniWord [srcN a 2 .any] (fun s =>
    let idx := (s.readS s.cur.bundle (a.toNat + 1)).val.toNat
    let absent : List Reg := if c == 3 then [⟨0, .raw⟩] else pairRegs 0 .raw
    (s.writeS (putN d.toNat ((s.hlItem s.cur.bundle (s.u32 a) c.toNat idx).getD absent))).advanceAll))

/-! ### Edits (R358, R373) -/

/-- DONE. -/
def hlDone : Word := 0
/-- NO_TARGET. -/
def hlNoTarget : Word := 1
/-- NOT_PARKED. -/
def hlNotParked : Word := 2
/-- NOT_HELD. -/
def hlNotHeld : Word := 3
/-- READONLY. -/
def hlReadonly : Word := 4
/-- BAD_VALUE. -/
def hlBadValue : Word := 5
/-- PAGEWAIT. -/
def hlPageWait : Word := 6

/-- A park or a save abandons the waiting word (R85, R289); every other that waits for its own operation completes first. -/
def abandoned : Instr → Bool
  | .cut _ _ _ => true
  | .graft _ _ _ => true
  | _ => false

/-- A handler park of a thread that is not EXITED (R85, R373): a word that waits is abandoned, its PC on the word, or
completes first. -/
def Thread.handlerPark (t : Thread) : Thread :=
  match t.st with
  | .waiting (.word _ i _ _) => if abandoned i then { t with st := .parked .handler } else { t with parkAsked := true }
  | .exited => t
  | _ => { t with st := .parked .handler }

/-- A handler park of a lane of a bundle. A posting word in CHECKING is abandoned whole, and its other lanes issue it again
(R252); a request for registers loses the lane (R112). -/
def State.handlerPark (s : State) (b l : Nat) : State :=
  let was := (s.thread b l).st
  let s := (s.abandonWord b l).modThread b l Thread.handlerPark
  match was with
  | .waiting .posting =>
    s.modBundle b (fun x => { x with
      posting := none
      threads := x.threads.map (fun t => if t.st == .waiting .posting then { t with st := .ready, fell := false } else t) })
  | .waiting .grow =>
    let cut := s.grow.map (fun g => if g.bundle == b then { g with lanes := setBit g.lanes l false } else g)
    { s with grow := cut.filter (fun g => g.lanes != 0) }
  | _ => s

/-- An edit of a thread's state: bit 0 parks it, or stages its unpark (R358). -/
def State.hlState (s : State) (b l : Nat) (park : Bool) : State × Word :=
  let t := s.thread b l
  if t.isExited then (s, hlNotParked)
  else if park then (s.handlerPark b l, hlDone)
  else if t.isParked then (s.modThread b l (fun t => { t with unpark := true }), hlDone)
  else (s, hlNotParked)

/-- An edit of a thread at a barrier (R232, R373): every bit of the value but EXCUSED and the pending wait's is ignored, and the thread's one
pending-wait record is cleared, whichever barrier it names (R219). DESIGN CHOICE (assumption 103): a team whose stage of a pack barrier the
excuse completed stays counted there when EXCUSED is cleared, for a team arrives once in a generation (R225). -/
def State.hlBarThr (s : State) (b l : Nat) (r : BarRef) (lv n : Nat) (v : DWord) : State × Word :=
  let t := s.thread b l
  let ex := v.getLsbD 33
  if v.getLsbD 34 then (s, hlBadValue)
  else if n ≥ (if lv = 1 then 12 else 4) then (s, hlReadonly)
  else if !(s.bar r).all && ex != t.excused.getLsbD r.bit then (s, hlReadonly)
  else
    let mask : BitVec 24 := 1#24 <<< r.bit
    let s := s.modThread b l (fun t => { t with
      excused := if ex then t.excused ||| mask else t.excused &&& ~~~mask
      pwait := none })
    (s.settleBar r s.cur.pc, hlDone)

/-- An edit of DBG (R365): each issue of this model is whole, so the bundle is HELD at once. -/
def Bundle.setDbg (b : Bundle) (v : DWord) : Bundle :=
  let n := (v.extractLsb' 8 8).toNat
  { b with hold := v.getLsbD 0, steps := n, stepping := v.getLsbD 0 && n > 0 }

/-- An edit of a register of a PARKED lane (R356). -/
def State.hlVreg (s : State) (b l idx : Nat) (v : DWord) : State × Word :=
  let t := s.thread b l
  let tag := (v >>> 32).toNat
  if !(idx < 64 && t.inWindow idx) then (s, hlNoTarget)
  else if !t.isParked then (s, hlNotParked)
  else if tag > 9 then (s, hlBadValue)
  else (s.modBundle b (fun x => x.writeLane l [(idx, ⟨v.setWidth 32, Tag.ofCode tag⟩)]), hlDone)

/-- An edit of a uniform register or a mask register of a HELD bundle (R356). -/
def State.hlHeld (s : State) (b idx : Nat) (uniform : Bool) (v : DWord) : State × Word :=
  let tag := (v >>> 32).toNat
  if idx ≥ (if uniform then 64 else 8) then (s, hlNoTarget)
  else if !(s.bundle b).held then (s, hlNotHeld)
  else if (if uniform then tag > 9 else idx == 7) then (s, hlBadValue)
  else if uniform then (s.modBundle b (fun x => x.writeS [(idx, ⟨v.setWidth 32, Tag.ofCode tag⟩)]), hlDone)
  else (s.modBundle b (fun x => x.writeM idx v), hlDone)

/-- An edit of a lane's PC (R358). -/
def State.hlPc (s : State) (b l : Nat) (v : DWord) : State × Word :=
  if !(s.thread b l).isParked then (s, hlNotParked)
  else if v.toNat % 4 != 0 || !vaValid v then (s, hlBadValue)
  else (s.modThread b l (fun t => t.goto v), hlDone)

/-- An edit of a `misc` item: FSTAT of a PARKED lane (R356). -/
def State.hlMisc (s : State) (b l idx : Nat) (v : DWord) : State × Word :=
  if idx > 6 then (s, hlNoTarget)
  else if idx != 4 then (s, hlReadonly)
  else if !(s.thread b l).isParked then (s, hlNotParked)
  else (s.modThread b l (fun t => { t with fstat := v.setWidth 6 }), hlDone)

/-- The classes that edit a thread: refused for a lane attached to a page-fault record (R358). -/
def editsThread (cls : Nat) : Bool := cls == 0 || cls == 2 || cls == 3 || cls == 7 || (cls == 8)

/-- One edit of a target: the state and the status (R358). -/
def State.hlEdit (s : State) (h : Nat) (w : Word) (cls idx : Nat) (v : DWord) : State × Word :=
  match s.target h w with
  | none => (s, hlNoTarget)
  | some (b, l) =>
    if editsThread cls && (s.thread b l).ticket.isSome then (s, hlPageWait)
    else if cls = 0 then s.hlVreg b l idx v
    else if cls = 1 then s.hlHeld b idx true v
    else if cls = 2 then s.hlPc b l v
    else if cls = 3 then s.hlState b l (v.getLsbD 0)
    else if cls = 5 then s.hlHeld b idx false v
    else if cls = 7 then
      (if idx < 64 then (match s.handlerBar b (idx / 16) (idx % 16) with
        | some r => s.hlBarThr b l r (idx / 16) (idx % 16) v
        | none => (s, hlNoTarget))
      else (s, hlNoTarget))
    else if cls = 8 then s.hlMisc b l idx v
    else if cls = 9 then (s.modBundle b (fun x => x.setDbg v), hlDone)
    else if (s.hlItem h w cls idx).isNone then (s, hlNoTarget)
    else (s, hlReadonly)

/-- HLWR (R358): the edit, and its status in sd. -/
def execHlwr (d a b c : BitVec 6) (s : State) : Host.Outcome State Fault Refusal :=
  s.word (.hlwr d a b c) (fun s => s.uniWord [srcN a 2 .any, srcN b 2 .any] (fun s =>
    let idx := (s.readS s.cur.bundle (a.toNat + 1)).val.toNat
    let (s, st) := s.hlEdit s.cur.bundle (s.u32 a) c.toNat idx (s.u64 b)
    (s.writeS (put d st .int)).advanceAll))

/-! ### Events (R352, R353, R355, R359) -/

/-- A handler thread is idle between events (R352). -/
def Thread.idle (t : Thread) : Thread := if t.isExited then t else { t with st := .parked .handler }

/-- The threads of a core that `rett` releases (R359), each with its bundle. -/
def State.stagedThreads (s : State) (pid core : Nat) : List (Nat × Nat) :=
  ((indices s.bundles).filter (fun b => let x := s.bundle b; x.live && x.pid == pid && x.core == core && x.handler.isNone)).flatMap (fun b =>
    ((indices (s.bundle b).threads).filter (fun l => (s.thread b l).unpark && (s.thread b l).isParked)).map (fun l => (b, l)))

/-- The threads that `rett` releases acquire before their next issue (R355). -/
def State.acquireStaged (s : State) (pid core : Nat) : State :=
  (s.stagedThreads pid core).foldl (fun s x => s.acquireThread x.1 x.2 0xFFFF) s

/-- RETT (R359): the return from a trap. A copy that another event still pauses does not resume (R368). -/
def execRett (s : State) : Host.Outcome State Fault Refusal :=
  s.word .rett (fun s =>
    let h := s.cur.bundle
    let x := s.bundle h
    let s := s.drainLanes h s.issued
    let s := (s.acquireStaged x.pid x.core).releaseStaged x.pid x.core
    let waits (c : Nat) : Bool := (x.handler.map (fun q => q.queue.any (fun e => e.cmd == some c))).getD false
    let s := match x.event.bind (·.cmd) with
      | some c => if waits c then s else s.modCmd c (fun y => { y with paused := false })
      | none => s
    s.modBundle h (fun y => { y with
      threads := y.threads.map Thread.idle, handler := y.handler.map (fun q => { q with current := none }) }))

/-- A handler thread starts an event at an address (R352). -/
def Thread.begin (t : Thread) (pc : DWord) : Thread := if t.isExited then t else { t.goto pc with st := .ready }

/-- HANDLER_EVENT_START (R353): the next event opens; the lanes that it names have their accesses performed, and its threads acquire
(R355); the threads are READY at HENTRY, which traps where it is 0 (R363). -/
def execHandlerEventStart (bundle : Nat) (s : State) : Host.Outcome State Fault Refusal :=
  .next (
    let x := s.bundle bundle
    match x.live, x.handler with
    | true, some q =>
      (match q.current, q.queue with
      | none, e :: rest =>
        let entry := (s.ctx x.asid).hentry
        let s := match (indices s.bundles).find? (fun b =>
            let y := s.bundle b
            y.live && y.handler.isNone && y.pid == x.pid && y.core == x.core && y.sub == e.sub && y.slot == e.slot) with
          | some b => s.drainLanes b (lanesIn e.lanes (s.bundle b).threads.length)
          | none => s
        let s := s.modBundle bundle (fun y => { y with
          handler := some ⟨some e, rest⟩, threads := y.threads.map (fun t => (t.begin entry).acquireAt s.ticks 0xFFFF) })
        let ls := (indices x.threads).filter (fun l => !(x.thread l).isExited)
        if entry == 0 then s.takeTraps bundle 0 ls (ls.map (fun l => (l, TrapInfo.of causeOutOfRange))) else s
      | _, _ => s)
    | _, _ => s)

/-- STEP (R365): the issues asked for are made, and the bundle stands HELD. -/
def execStep (bundle : Nat) (s : State) : Host.Outcome State Fault Refusal :=
  .next (
    let x := s.bundle bundle
    if x.live && x.stepping && x.held then
      let s := s.modBundle bundle (fun y => { y with stepping := false })
      s.queueEvent x.pid x.core
        ⟨causeStep, false, x.sub, x.slot, (x.lowestPc x.readyLanes).getD 0, 0, x.team, [], 0, none⟩
    else s)

/-! ### icinv (R369) -/

/-- The core numbers of a scope reckoned from a bundle (R156, R369). -/
def State.scopeCores (s : State) (b sc place : Nat) : Bool :=
  let x := s.bundle b
  if sc ≤ 1 then place == x.coreNo
  else if sc = 2 then (match x.team with
    | some t =>
      let tm := s.team t
      place / 16 == tm.part && tm.blockCores.contains (place % 16)
    | none => place == x.coreNo)
  else if sc = 3 then place / 16 == x.part
  else if sc = 4 then dieOf (place / 16) == dieOf x.part
  else true

/-- Drop the words that the caches of a scope hold for the context, those of one 128-byte line or all, and the translations built from
them. -/
def State.dropCode (s : State) (sc : Nat) (line : Option DWord) : State :=
  let b := s.cur.bundle
  let asid := s.curB.asid
  let s := { s with icache := s.icache.filter (fun x =>
      !(x.asid == asid && s.scopeCores b sc x.place && (match line with
        | some a => x.va.toNat / 128 == a.toNat / 128
        | none => true))) }
  s.withdraw (fun t => t.asid == asid && (match line with
    | some a => rangesMeet t.code.toNat t.size (a.toNat / 128 * 128) 128
    | none => true))

/-- The fault of an address that names no bytes to load or store (R369), by R165; it reads nothing that a watchpoint could hit (R366). -/
def State.addrTrap (s : State) (va : DWord) : State × Option TrapInfo :=
  match s.locate s.cur.bundle s.leader va 1 0 .read with
  | (s, .trap i) => (s, if i.cause == causeWatchpoint then none else some { i with size := 0, bmask := 0 })
  | (s, _) => (s, none)

/-- ICINV (R369): a full fence at the scope, then the line leaves the caches of the scope. -/
def execIcinv (a : BitVec 6) (xs : BitVec 3) (s : State) : Host.Outcome State Fault Refusal :=
  s.word (.icinv a xs) (fun s => s.uniWord [src a true .any] (fun s =>
    let va := s.u64 a
    match s.addrTrap va with
    | (s, some i) => s.trapIssued { i with reg := regField true a.toNat }
    | (s, none) => ((s.fenceNow s.cur.bundle s.issued (xs.toNat ≥ 3)).dropCode xs.toNat (some va)).advanceAll))

/-- ICINV with ALL (R369). -/
def execIcinvAll (xs : BitVec 3) (s : State) : Host.Outcome State Fault Refusal :=
  s.word (.icinvAll xs) (fun s => ((s.fenceNow s.cur.bundle s.issued (xs.toNat ≥ 3)).dropCode xs.toNat none).advanceAll)

end Sys2Proof.Machine
end

