-- ==== Sys2Proof/Machine/Page.lean ====
section
/-! DEFINITION. `tlbinv` and TLBREQ (R333, R398), walks (R325 to R328), page-fault records and their resumption (R328 to R332),
and the delivery of entries to the operating system's rings (R316, R329). -/
namespace Sys2Proof.Machine

/-! ### Removing translations (R333) -/

/-- What a request removes: kind 0 everything, 1 an ASID's entries, 2 those that cover an address. -/
structure TlbReq where
  kind : Nat
  asid : BitVec 16
  va : DWord
  deriving DecidableEq, Repr

/-- A cached translation matches the request. -/
def TlbReq.entry (r : TlbReq) (e : TlbEntry) : Bool :=
  r.kind == 0 || (r.asid == e.asid && (r.kind == 1 || r.va.toNat / 2 ^ e.size == e.page))

/-- An address of a context lies in what the request removes; `removed` are the translations that match. -/
def TlbReq.covers (r : TlbReq) (removed : List TlbEntry) (asid : BitVec 16) (va : Nat) : Bool :=
  r.kind == 0 || (r.asid == asid && (r.kind == 1 || r.va.toNat / enginePage == va / enginePage
    || removed.any (fun e => va / 2 ^ e.size == e.page)))

/-- An entry of a walk cache matches the request: it is on the path that it names. -/
def TlbReq.walk (r : TlbReq) (e : WalkEntry) : Bool :=
  r.kind == 0 || (r.asid == e.asid && (r.kind == 1 || r.va.toNat / 2 ^ e.lo == e.page))

/-- The bytes at a local offset are behind what the request removes for a context. -/
def TlbReq.behind (r : TlbReq) (removed : List TlbEntry) (asid : BitVec 16) (off : Nat) : Bool :=
  r.kind == 0 || (r.asid == asid && (r.kind == 1 || removed.any (fun e => paOffset e.frame ≤ off && off < paOffset e.frame + 2 ^ e.size)))

/-- A command that is not DONE pins a page that matches (R254, R333, step 4). -/
def State.tlbPinned (s : State) (r : TlbReq) : Bool :=
  let removed := s.tlb.filter r.entry
  s.cmds.any (fun c => c.active && c.pins.any (fun p => r.covers removed c.asid (p.1 * enginePage)))

/-- Perform the outstanding stores of a bundle that used a removed translation, and let its loads that did have their values (R333,
step 3). -/
def State.tlbDrain (s : State) (r : TlbReq) (removed : List TlbEntry) (b : Nat) : State :=
  let x := s.bundle b
  (indices x.threads).foldl (fun s l =>
    (s.performStores b l (fun y => r.covers removed x.asid y.va.toNat)).bindLoads b l (fun y => r.behind removed x.asid y.pa)) s

/-- The stash lines of a team that used a removed translation (R333, step 3): dirty bytes are written back, and no line keeps the frame that
the translation gave. -/
def State.tlbLines (s : State) (r : TlbReq) (removed : List TlbEntry) (t : Nat) : State :=
  let hit (w : Window) (l : Line) : Bool := r.covers removed (s.team t).asid (w.base.toNat + 128 * l.num)
  let s := s.forLines t Line.unsaved (fun s w l => if hit w l then s.writeOut t w l else s)
  s.modTeam t (fun x => { x with windows := x.windows.map (fun w => { w with lines := w.lines.filter (fun l => !hit w l) }) })

/-- Steps 2 and 3 of R333: the translations, the entries of walk caches and the instruction words that match are removed, and the
accesses that used them are performed. -/
def State.tlbRemove (s : State) (r : TlbReq) : State :=
  let removed := s.tlb.filter r.entry
  let s : State := { s with
    tlb := s.tlb.filter (fun e => !r.entry e)
    walks := s.walks.filter (fun e => !r.walk e)
    icache := s.icache.filter (fun x => !r.covers removed x.asid x.va.toNat) }
  let s := (indices s.bundles).foldl (fun s b => s.tlbDrain r removed b) s
  (indices s.teams).foldl (fun s t => s.tlbLines r removed t) s

/-- What a `tlbinv` word does once its operands are checked (R333): a full fence; it waits while a command pins a matching page. `args`
are the operands that it has read. -/
def State.tlbinv (s : State) (i : Instr) (args : List DWord) (r : TlbReq) : State :=
  let s := s.fenceNow s.cur.bundle s.issued true
  if s.tlbPinned r then s.waitWord i args else (s.tlbRemove r).advanceAll

/-- The ASID operand of a `tlbinv` word as it has read it (R333). -/
def State.argAsid (s : State) (k : Nat) (b : BitVec 6) : BitVec 16 := ((s.cur.args[k]?).getD ((s.u32 b).setWidth 64)).setWidth 16

/-- TLBINV_ALL (R333). -/
def execTlbinvAll (s : State) : Host.Outcome State Fault Refusal :=
  s.word .tlbinvAll (fun s => s.tlbinv .tlbinvAll [] ⟨0, 0, 0⟩)

/-- TLBINV_ASID (R333). -/
def execTlbinvAsid (b : BitVec 6) (s : State) : Host.Outcome State Fault Refusal :=
  s.word (.tlbinvAsid b) (fun s => s.uniWord (s.firstUses [src b false .any]) (fun s =>
    let asid := s.argAsid 0 b
    s.tlbinv (.tlbinvAsid b) [asid.setWidth 64] ⟨1, asid, 0⟩))

/-- TLBINV_VA (R333): an address that is not valid traps. -/
def execTlbinvVa (a b : BitVec 6) (s : State) : Host.Outcome State Fault Refusal :=
  s.word (.tlbinvVa a b) (fun s => s.uniWord (s.firstUses [src a true .any, src b false .any]) (fun s =>
    let va := s.argS 0 a.toNat
    let asid := s.argAsid 1 b
    if vaValid va then s.tlbinv (.tlbinvVa a b) [va, asid.setWidth 64] ⟨2, asid, va⟩
    else s.trapIssued { accessTrap causeOutOfRange va 0 0 with reg := regField true a.toNat }))

/-- A request of the operating system through TLBREQ (R398): done at once, or kept until no command pins a matching page. -/
def State.tlbRequest (s : State) (r : TlbReq) : State :=
  if s.tlbPinned r then { s with intc := { s.intc with tlbdone := false, tlbreq := some (r.kind, r.asid, r.va) } }
  else
    let s := s.tlbRemove r
    { s with intc := { s.intc with tlbdone := true, tlbreq := none } }

/-- TLBREQ_ALL (R398). -/
def execTlbreqAll (s : State) : Host.Outcome State Fault Refusal := .next (s.tlbRequest ⟨0, 0, 0⟩)

/-- TLBREQ_ASID (R398). -/
def execTlbreqAsid (asid : BitVec 16) (s : State) : Host.Outcome State Fault Refusal := .next (s.tlbRequest ⟨1, asid, 0⟩)

/-- TLBREQ_VA (R398). -/
def execTlbreqVa (asid : BitVec 16) (va : DWord) (s : State) : Host.Outcome State Fault Refusal :=
  .next (s.tlbRequest ⟨2, asid, va⟩)

/-! ### Walks (R325 to R328) -/

/-- PAGE_WALK_COMPLETE (R328): a walk that ends in a well-formed leaf sets A, and D for a store, and is cached, in the caches of some
core; one that does not makes no record, for no access of this model waits on it. -/
def execPageWalkComplete (asid : BitVec 16) (va : DWord) (store : Bool) (s : State) : Host.Outcome State Fault Refusal :=
  .next (
    if (s.ctx asid).destroyed || !vaValid va || vaPrivate va || (s.pageRecOf asid va).isSome then s
    else (s.walkFill ((Config.freeWord s.ticks 326 0).toNat % packagePlace) asid va store).1)

/-! ### Delivery to the rings (R316, R328, R329) -/

/-- The threads attached to a record. -/
def State.attached (s : State) (ticket : Nat) : Nat :=
  s.bundles.foldl (fun n b => n + (b.threads.filter (fun t => t.ticket == some ticket)).length) 0

/-- The 64 bytes of a page-fault record (R328). -/
def State.pageBytes (s : State) (r : PageRec) : List Byte :=
  bytesOf 1 1 ++ bytesOf 1 r.reason ++ bytesOf 2 r.asid.toNat ++ bytesOf 2 r.access.toNat
    ++ bytesOf 2 (min (s.attached r.ticket) 65535) ++ bytesOf 8 r.va.toNat ++ bytesOf 8 r.pc.toNat ++ bytesOf 4 r.ticket
    ++ List.replicate 36 0

/-- The 64 bytes of a containment entry (R316, R328). -/
def containmentEntry (asid : BitVec 16) (bs : List Byte) : List Byte :=
  bytesOf 1 2 ++ bytesOf 1 0 ++ bytesOf 2 asid.toNat ++ List.replicate 28 0 ++ bs

/-- The context of an entry. -/
def RingEntry.asid : RingEntry → BitVec 16
  | .page a _ => a
  | .containment a _ _ => a

/-- The record of a ticket is one of the 4,096 that the controller holds (R328). -/
def Intc.holds (i : Intc) (ticket : Nat) : Bool := (i.records.take 4096).any (fun r => r.ticket == ticket)

/-- An entry has been made: a record that the controller has no room for is made when another is resumed (R328). -/
def Intc.made (i : Intc) : RingEntry → Bool
  | .page _ t => i.holds t
  | .containment _ _ _ => true

/-- Put an entry's bytes in a ring, with the interrupt to its system core; the boolean says whether there was room. -/
def State.ringPut (s : State) (ring : Nat) (bs : List Byte) : State × Bool :=
  let desc := s.intc.ringdesc.getD ring 0
  if desc == 0 then (s, false) else
  match s.ringAppend (paOffset desc.toNat) 64 bs false with
  | (s, true) => ({ s with intc := { s.intc with irqs := s.intc.irqs ++ [ring] } }, true)
  | (s, false) => (s, false)

/-- Write one entry. -/
def State.deliverEntry (s : State) (e : RingEntry) : State :=
  let gone (s : State) : State := { s with intc := { s.intc with waiting := s.intc.waiting.erase e } }
  match e with
  | .page _ t =>
    (match s.intc.records.find? (fun r => r.ticket == t) with
    | none => gone s
    | some r => (match s.ringPut r.ring (s.pageBytes r) with
      | (s, true) => gone { s with intc := { s.intc with records := s.intc.records.map (fun x =>
          if x.ticket == t then { x with posted := true } else x) } }
      | (s, false) => s))
  | .containment a ring bs =>
    (match s.ringPut ring (containmentEntry a bs) with
    | (s, true) => gone s
    | (s, false) => s)

/-- The entry is the first of its context that has been made and not written (R329). -/
def Intc.isNext (i : Intc) (e : RingEntry) : Bool :=
  i.made e && (i.waiting.find? (fun x => x.asid == e.asid && i.made x)) == some e

/-- PAGE_FAULT_RECORD_POST (R328, R332): the record goes to its ring when the ring has room. Ticket 0, which no record has,
stands for the containment entries whose turn it is (R316). -/
def execPageFaultRecordPost (ticket : BitVec 32) (s : State) : Host.Outcome State Fault Refusal :=
  .next (
    if ticket == 0 then
      (s.intc.waiting.filter (fun e => match e with
        | .containment _ _ _ => true
        | .page _ _ => false)).foldl (fun s e => if s.intc.isNext e then s.deliverEntry e else s) s
    else
      match s.intc.waiting.find? (fun e => match e with
        | .page _ t => t == ticket.toNat
        | .containment _ _ _ => false) with
      | some e => if s.intc.isNext e then s.deliverEntry e else s
      | none => s)

/-! ### Resumption (R330, R332) -/

/-- A record that waited parked is made now (R328): it takes its ring, and its place in the order of its context's entries, as they are
now (R329). -/
def Intc.makeRecord (i : Intc) (r : PageRec) : Intc :=
  { i with
    records := i.records.map (fun x => if x.ticket == r.ticket then { x with ring := i.ringOf x.asid } else x)
    waiting := i.waiting.erase (.page r.asid r.ticket) ++ [.page r.asid r.ticket] }

/-- Take the posted record of a ticket that a ring resumes (R332); the first fault that waits for room is recorded. -/
def State.takeRecord (s : State) (ring ticket : Nat) : Option State :=
  match s.intc.records.find? (fun r => r.ticket == ticket && r.ring == ring && r.posted) with
  | some r =>
    let i := { s.intc with records := s.intc.records.erase r }
    some { s with intc := match i.records[4095]? with
      | some x => i.makeRecord x
      | none => i }
  | none => none

/-- DELIVER = 0: every attached lane becomes READY at its faulting word (R330). -/
def State.resumeReplay (s : State) (ring ticket : Nat) : State :=
  match s.takeRecord ring ticket with
  | none => s
  | some s => { s with bundles := s.bundles.map (fun b => { b with threads := b.threads.map (fun t =>
      if t.ticket == some ticket then { t.goto t.pc with st := .ready, ticket := none } else t) }) }

/-- RESUME_REPLAY (R330). -/
def execResumeReplay (ring : Nat) (ticket : BitVec 32) (s : State) : Host.Outcome State Fault Refusal :=
  .next (s.resumeReplay ring ticket.toNat)

/-- The attached lanes of a bundle, by the trap PC of their records. -/
def Bundle.attachedAt (b : Bundle) (ticket : Nat) : List (DWord × List Nat) :=
  let ls := (indices b.threads).filter (fun l => (b.thread l).ticket == some ticket)
  ((ls.map (fun l => (b.thread l).frec.pc)).eraseDups).map (fun pc => (pc, ls.filter (fun l => (b.thread l).frec.pc == pc)))

/-- DELIVER = 1: every attached lane stays parked and is presented to the handler, one event for each trap PC of a bundle
(R330). -/
def State.resumeDeliver (s : State) (ring ticket : Nat) : State :=
  match s.takeRecord ring ticket with
  | none => s
  | some s =>
    (indices s.bundles).foldl (fun s b =>
      ((s.bundle b).attachedAt ticket).foldl (fun s g =>
        if !(s.bundle b).live then s else
        let s := g.2.foldl (fun s l => s.modThread b l (fun t => { t with ticket := none })) s
        s.deliverTrap b g.1 (g.2.map (fun l => (l, TrapInfo.of causePage)))) s) s

/-- RESUME_DELIVER (R330). -/
def execResumeDeliver (ring : Nat) (ticket : BitVec 32) (s : State) : Host.Outcome State Fault Refusal :=
  .next (s.resumeDeliver ring ticket.toNat)

end Sys2Proof.Machine
end

