-- ==== Sys2Proof/Machine/Launch.lean ====
section
/-! DEFINITION. Launches: `nlaunch` (R197, R198), validation (R174 to R180, R411, R414), mapping and its failures (R181 to R186,
R192, R206, R212, R378), placement of teams, packs and handler bundles (R205 to R208, R212, R213, R336, R352), their creation
(R84, R87, R178, R218), commit and kill (R208, R209, R299, R300). -/
namespace Sys2Proof.Machine

/-! ### Reading records -/

/-- A field of a record of bytes held as one number: `n` bytes from offset `o` (R6). -/
def fieldAt (v o n : Nat) : Nat := bitsAt v (8 * o) (8 * n)

/-- A launch record (R177). -/
def LaunchRec.parse (addr : DWord) (v : Nat) : LaunchRec where
  addr := addr
  code := BitVec.ofNat 64 (fieldAt v 0 8)
  ext := (List.range 4).map (fun k => fieldAt v (8 + 4 * k) 4)
  args := BitVec.ofNat 64 (fieldAt v 24 8)
  shares := BitVec.ofNat 64 (fieldAt v 32 8)
  signal := BitVec.ofNat 64 (fieldAt v 40 8)
  crec := BitVec.ofNat 64 (fieldAt v 48 8)
  sharesz := fieldAt v 56 4
  pdiv8 := fieldAt v 60 1
  prio := fieldAt v 61 1 % 32
  arg16 := BitVec.ofNat 16 (fieldAt v 62 2)

/-- The limits of a launch record (R177). -/
def LaunchRec.ok (r : LaunchRec) : Bool :=
  r.code.toNat % 64 == 0 && 2 ≤ r.pdiv8 && r.pdiv8 ≤ 32 && r.shares.toNat % 4096 == 0

/-- A share entry (R176). -/
def ShareEntry.parse (v : Nat) : ShareEntry := ⟨bitsAt v 0 2, bitsAt v 16 21, 2 ^ (bitsAt v 8 4 + 2)⟩

/-- The limits of a share entry (R176). DESIGN CHOICE (assumption 108): an entry whose LEVEL is at or beyond NLEVELS, which the spec does not
speak of, is not valid. -/
def ShareEntry.ok (e : ShareEntry) (n : Nat) : Bool := 1 ≤ e.bytes && e.bytes ≤ 2 ^ 20 && e.align ≤ 2 ^ 12 && e.level < n

/-- The fields of a code-object header (R174), without its shares. -/
def CodeObj.parse (v : Nat) : CodeObj where
  kflags := BitVec.ofNat 16 (fieldAt v 6 2)
  tlimit := fieldAt v 8 4
  nlevels := fieldAt v 12 1
  pack := BitVec.ofNat 8 (fieldAt v 13 1)
  nest := (List.range 4).map (fun k => BitVec.ofNat 32 (fieldAt v (16 + 4 * k) 4))
  entry := BitVec.ofNat 64 (fieldAt v 32 8)
  codesize := fieldAt v 48 4
  sharetab := fieldAt v 40 8
  shares := []
  secver := fieldAt v 52 2
  sigoff := fieldAt v 56 8

/-- The declared pack shape: columns and rows (R174). -/
def CodeObj.packShape (o : CodeObj) : Nat × Nat := (o.pack.toNat % 16, o.pack.toNat / 16)

/-- The limits of a code-object header; `v` is the header (R174, R175). R175 makes the nest words of the levels beyond NLEVELS zero, and
SHARETAB means nothing without shares; what a launch does where they are not zero is not stated, and the model takes them as they are,
unread (assumption 86, DESIGN CHOICE). An ENTRY that is no multiple of 4, a SHARETAB of 0 with shares and a TLIMIT of 0, which the spec does
not speak of, make the object invalid: DESIGN CHOICE (assumption 108). -/
def CodeObj.headerOk (o : CodeObj) (v : Nat) : Bool :=
  let w := o.width
  let nshares := fieldAt v 14 2
  let c := o.packShape
  fieldAt v 0 4 == 0x4E54454B && fieldAt v 4 2 == 1 && !(o.kflags.getLsbD 0 && o.kflags.getLsbD 1) && w ≤ 64
    && o.tlimit % w == 0 && 1 ≤ o.tlimit && o.tlimit ≤ 65536 && 1 ≤ o.nlevels && o.nlevels ≤ 4 && nshares ≤ 256
    && (nshares == 0 || o.sharetab != 0) && (o.pack == 0 || (1 ≤ c.1 && c.1 ≤ 4 && 1 ≤ c.2 && c.2 ≤ 2))
    && o.entry.toNat % 4 == 0 && (o.nest.take o.nlevels).all (fun n => n.extractLsb' 8 8 ≤ 64)

/-- Read share entries (R176). -/
def State.readShares (s : State) (asid : BitVec 16) (va : DWord) : Nat → State × Option (List ShareEntry)
  | 0 => (s, some [])
  | n + 1 =>
    match s.virtRead asid va 8 with
    | (s, some v) => (match s.readShares asid (va + 8) n with
      | (s, some es) => (s, some (ShareEntry.parse v :: es))
      | r => r)
    | (s, none) => (s, none)

/-- Where the liveness table of a code object begins, from its header (R345). -/
def CodeObj.liveness (o : CodeObj) : Nat :=
  alignUp (if o.shares.isEmpty then 64 + o.codesize else o.sharetab + 8 * o.shares.length) 16

/-- The end of code, share table and liveness table (R411). -/
def CodeObj.extentEnd (o : CodeObj) : Nat := max (64 + o.codesize) (o.liveness + 1024)

/-! ### Signatures (R411, R414) -/

/-- Read bytes at a virtual address, or none where one cannot be read. -/
def State.virtBytes (s : State) (asid : BitVec 16) (va : DWord) : Nat → State × Option (List Byte)
  | 0 => (s, some [])
  | n + 1 =>
    match s.virtRead asid va 1 with
    | (s, some b) => (match s.virtBytes asid (va + 1) n with
      | (s, some bs) => (s, some (BitVec.ofNat 8 b :: bs))
      | r => r)
    | (s, none) => (s, none)

/-- The keys of the key table, up to its end (R414). -/
def State.keyTable (s : State) (pa : Nat) : Nat → State × List (List Byte)
  | 0 => (s, [])
  | n + 1 =>
    let (s, v) := s.physRead pa 64
    if v = 0 then (s, [])
    else
      let (s, ks) := s.keyTable (pa + 64) n
      (s, bytesOf 64 v :: ks)

/-- The signature of a code object holds (R411). -/
def State.signatureOk (s : State) (asid : BitVec 16) (code : DWord) (o : CodeObj) : State × Bool :=
  if o.sigoff = 0 then (s, (s.ctx asid).unsig)
  else if o.sigoff < o.extentEnd then (s, false)
  else
    match s.virtBytes asid (code + BitVec.ofNat 64 o.sigoff) 96 with
    | (s, none) => (s, false)
    | (s, some sig) =>
      match s.virtBytes asid code o.sigoff with
      | (s, none) => (s, false)
      | (s, some body) =>
        let (s, keys) := if s.host.keytab == 0 then (s, []) else s.keyTable (paOffset s.host.keytab.toNat) 16
        match keys.find? (fun k => bytesOf 32 (Config.sm3 k).toNat == sig.take 32) with
        | none => (s, false)
        | some k => (s, Config.sm2Verifies (BitVec.ofNat 512 (ofBytes k)) (Config.sm3 body) (BitVec.ofNat 512 (ofBytes (sig.drop 32)))
            && o.secver ≥ s.boot.codesvn)

/-! ### Validation (R180) -/

/-- The PLAIN bit of the page that holds an address (R174); none where no leaf maps it. -/
def State.pagePlain (s : State) (asid : BitVec 16) (va : DWord) : State × Option Bool :=
  if !vaValid va || vaPrivate va then (s, none) else
  match s.xlate packagePlace asid va .fetch with
  | (s, .ok _ leaf) => (s, some (leaf.getLsbD 5))
  | (s, _) => (s, none)

/-- Read and validate the code object of a record (R174 to R177, R411); none gives BAD_LAUNCH. -/
def State.readObject (s : State) (asid : BitVec 16) (r : LaunchRec) : State × Option CodeObj :=
  if !r.ok then (s, none) else
  match s.virtRead asid r.code 64 with
  | (s, none) => (s, none)
  | (s, some v) =>
    let o := CodeObj.parse v
    if !o.headerOk v then (s, none) else
    match s.readShares asid (r.code + BitVec.ofNat 64 o.sharetab) (fieldAt v 14 2) with
    | (s, none) => (s, none)
    | (s, some es) =>
      let o := { o with shares := es }
      if !es.all (fun e => e.ok o.nlevels) then (s, none) else
      match s.pagePlain asid (r.code + o.entry) with
      | (s, none) => (s, none)
      | (s, some plain) =>
        if plain != o.kflags.getLsbD 7 then (s, none) else
        match s.signatureOk asid r.code o with
        | (s, true) => (s, some o)
        | (s, false) => (s, none)

/-! ### Packs and blocks of a launch (R185, R206, R212) -/

/-- The bundles that one core holds (R206). -/
def bundleCapacity (w p : Nat) : Nat := 4 * min (1024 / w) (65536 / (w * p))

/-- The registers per thread P of a launch (R177). -/
def Launch.regs (l : Launch) : Nat := 8 * l.lrec.pdiv8

/-- The number of cores of a team's block (R206). -/
def Launch.blockSize (l : Launch) : Option Nat :=
  [1, 2, 4, 8, 16].find? (fun c =>
    l.teamBundles ≤ c * bundleCapacity l.code.width l.regs && l.window0 ≤ c * stashBytes)

/-- The outermost TEAM level with BAR or RED (R185). -/
def Launch.packLevel (l : Launch) : Option Nat := (l.levelsOf .team).find? (fun k => l.code.hasBar k || l.code.hasRed k)

/-- The teams of the launch form packs (R185, R212). -/
def Launch.packed (l : Launch) : Bool := l.packLevel.isSome || l.code.pack != 0

/-- The teams of one pack; a team outside any pack counts as one. -/
def Launch.packTeams (l : Launch) : Nat :=
  match l.packLevel with
  | some k => l.teamProduct (fun j => k ≤ j)
  | none => if l.code.pack != 0 then ((l.levelsOf .team).getLast?.map l.extent).getD 1 else 1

/-- The pack shapes that are tried in turn (R212). -/
def Launch.shapes (l : Launch) : List (Nat × Nat) :=
  if l.code.pack != 0 then [l.code.packShape] else [(1, 1), (1, 2), (2, 1), (3, 1), (2, 2), (4, 1), (3, 2), (4, 2)]

/-- A partition is enabled (R3). -/
def State.partEnabled (s : State) (p : Nat) : Bool := p < 8 && s.host.caps.getLsbD p

/-- A launch may use a partition (R378). -/
def State.mayUse (s : State) (l : Launch) (p : Nat) : Bool :=
  s.partEnabled p && (l.affinity == 0 || l.affinity.getLsbD p)

/-- The partitions of a rectangle of `c` columns and `r` rows at an origin, in row-major order; none where it leaves the grid. -/
def rectangle (origin c r : Nat) : Option (List Nat) :=
  if origin ≥ 8 || origin % 4 + c > 4 || origin / 4 + r > 2 then none
  else some ((List.range r).flatMap (fun i => (List.range c).map (fun j => origin + 4 * i + j)))

/-! ### Occupancy (R86, R206) -/

/-- What is taken of a sub-core: its slot units and its registers. -/
structure SubUse where
  units : List Nat
  regs : Nat
  deriving DecidableEq, Repr

/-- What is taken of a core: its sub-cores, its stash bytes, and whether it has the context's handler bundle. -/
structure CoreUse where
  subs : List SubUse
  stash : Nat
  handler : Bool
  deriving DecidableEq, Repr

/-- An empty partition. -/
def emptyUse : List CoreUse := List.replicate 16 ⟨List.replicate 4 ⟨[], 0⟩, 0, false⟩

/-- A part holds its partition: it is neither saved nor gone (R337). -/
def PartState.onPlace : PartState → Bool
  | .resident => true
  | .whistled => true
  | .yielded => true
  | .forced => true
  | .resuming => true
  | _ => false

/-- What is taken of a partition; a handler bundle counts for the context asked. -/
def State.partUse (s : State) (part : Nat) (asid : BitVec 16) : List CoreUse :=
  let bs := s.bundles.filter (fun b => b.live && b.resident && b.part == part)
  (List.range 16).map (fun c =>
    let mine := bs.filter (fun b => b.core == c)
    ⟨(List.range 4).map (fun u =>
        let here := mine.filter (fun b => b.sub == u)
        ⟨here.flatMap (fun b => (List.range (b.w / 16)).map (fun i => b.slot + i)), here.foldl (fun n b => n + b.w * b.p) 0⟩),
      s.stashUsed part c, mine.any (fun b => b.handler.isSome && b.asid == asid)⟩)

/-- The slot of a bundle of width `w`: the first aligned run of free units, with its registers free (R86). -/
def SubUse.place (u : SubUse) (w p : Nat) : Option (SubUse × Nat) :=
  let k := w / 16
  if u.regs + w * p > 65536 then none else
  (((List.range (64 / k)).map (fun i => i * k)).find? (fun f => (List.range k).all (fun i => !u.units.contains (f + i)))).map
    (fun f => (⟨u.units ++ (List.range k).map (fun i => f + i), u.regs + w * p⟩, f))

/-- The place of the handler bundle: the highest free unit, with 16 × 64 registers (R352). -/
def SubUse.placeHandler (u : SubUse) : Option (SubUse × Nat) :=
  if u.regs + 1024 > 65536 then none else
  ((List.range 64).reverse.find? (fun f => !u.units.contains f)).map (fun f => (⟨u.units ++ [f], u.regs + 1024⟩, f))

/-- A place of a bundle: core, sub-core, slot. -/
structure Place where
  core : Nat
  sub : Nat
  slot : Nat
  deriving DecidableEq, Repr

/-- Change a sub-core of a partition's occupancy. -/
def useSub (u : List CoreUse) (core sub : Nat) (f : SubUse → Option (SubUse × Nat)) : Option (List CoreUse × Place) :=
  match (u[core]?).bind (fun c => c.subs[sub]?) with
  | none => none
  | some x => (f x).map (fun r =>
      (u.modify core (fun c => { c with subs := c.subs.set sub r.1 }), ⟨core, sub, r.2⟩))

/-- Where a team goes in a partition: the first core of its block, its handler bundles and its bundles (R206, R352). -/
structure TeamPlan where
  team : Nat
  part : Nat
  block : Nat
  handlers : List Place
  bundles : List Place
  deriving DecidableEq, Repr

/-- The sub-core on which a team of `n` bundles on `c` cores has the fewest on core `j` of its block, the highest such. -/
def leastSub (n c j : Nat) : Nat :=
  let count (u : Nat) : Nat := ((List.range n).filter (fun b => b % c == j && b / c % 4 == u)).length
  [2, 1, 0].foldl (fun best u => if count u < count best then u else best) 3

/-- Put the handler bundles that a block lacks. -/
def placeHandlers (n c first : Nat) : List Nat → List CoreUse → Option (List CoreUse × List Place)
  | [], u => some (u, [])
  | j :: js, u =>
    let core := blockCore first c j
    if ((u[core]?).map (·.handler)).getD true then placeHandlers n c first js u
    else match useSub u core (leastSub n c j) SubUse.placeHandler with
      | none => none
      | some (u, p) => (placeHandlers n c first js (u.modify core (fun x => { x with handler := true }))).map
          (fun r => (r.1, p :: r.2))

/-- Put the bundles of a team: bundle b on core b mod c, sub-core (b div c) mod 4 (R206). -/
def placeBundles (w p c first : Nat) : List Nat → List CoreUse → Option (List CoreUse × List Place)
  | [], u => some (u, [])
  | b :: bs, u =>
    match useSub u (blockCore first c (b % c)) (b / c % 4) (fun x => x.place w p) with
    | none => none
    | some (u, q) => (placeBundles w p c first bs u).map (fun r => (r.1, q :: r.2))

/-- Take the stash of window 0 on the cores of a block (R237). -/
def placeStash (size c first : Nat) (u : List CoreUse) : Option (List CoreUse) :=
  (List.range c).foldl (fun acc j => acc.bind (fun u =>
    let core := blockCore first c j
    let n := 128 * linesOnCore (size / 128) c j
    if ((u[core]?).map (·.stash)).getD 0 + n > stashBytes then none
    else some (u.modify core (fun x => { x with stash := x.stash + n })))) (some u)

/-- Put a team of a launch at a block of a partition, all of it or none. -/
def Launch.placeAt (l : Launch) (handler : Bool) (team part c first : Nat) (u : List CoreUse) : Option (List CoreUse × TeamPlan) :=
  match if handler then placeHandlers l.teamBundles c first (List.range c) u else some (u, []) with
  | none => none
  | some (u, hs) =>
    match placeBundles l.code.width l.regs c first (List.range l.teamBundles) u with
    | none => none
    | some (u, bs) => (placeStash l.window0 c first u).map (fun u => (u, ⟨team, part, first, hs, bs⟩))

/-- The first cores of the aligned blocks of `c` cores (R206). -/
def blockPositions (c : Nat) : List Nat :=
  let cols := blockColumns c
  let rows := c / cols
  (List.range (4 / rows)).flatMap (fun i => (List.range (4 / cols)).map (fun j => 4 * rows * i + cols * j))

/-- Put a team in a partition, at the first block where it fits. -/
def Launch.placeIn (l : Launch) (handler : Bool) (team part : Nat) (u : List CoreUse) : Option (List CoreUse × TeamPlan) :=
  match l.blockSize with
  | none => none
  | some c => (blockPositions c).findSome? (fun f => l.placeAt handler team part c f u)

/-- An empty partition holds `n` teams of the launch (R212). -/
def Launch.holds (l : Launch) (handler : Bool) : Nat → List CoreUse → Bool
  | 0, _ => true
  | n + 1, u =>
    match l.placeIn handler 0 0 u with
    | some (u, _) => l.holds handler n u
    | none => false

/-- PackShape (R212): the first shape that the package has a rectangle for, and that holds the pack. -/
def State.packShape (s : State) (l : Launch) : Option (Nat × Nat) :=
  l.shapes.find? (fun c =>
    (List.range 8).any (fun o => ((rectangle o c.1 c.2).map (fun ps => ps.all (s.mayUse l))).getD false)
      && l.holds (s.ctx l.asid).handler ((l.packTeams + c.1 * c.2 - 1) / (c.1 * c.2)) emptyUse)

/-! ### READY and RESERVING (R180, R181) -/

/-- The launch with the mapper's results (R181, R186). -/
def Launch.mapped (l : Launch) (o : CodeObj) : Launch :=
  let l := { l with obj := some o }
  let l := { l with roles := mapRoles o.nlevels o.width l.extent }
  { l with lvmap := (List.range 4).map l.lvmapOf }

/-- Why a mapped launch cannot be placed: its STATUS (R179, R180). DESIGN CHOICE (assumption 109): where several failures hold at once, which
no rule orders, TOO_LARGE comes first (R184), then PARTITION_ABSENT (R378), TEAM_RESOURCES and BARRIER_UNPLACEABLE. -/
def State.mapFailure (s : State) (l : Launch) : Option (BitVec 8) :=
  if l.teamCount ≥ 2 ^ 32 then some 5
  else if (List.range 8).any (fun p => l.affinity.getLsbD p && !s.partEnabled p) then some 4
  else if l.globalShareBytes > 0 && (l.lrec.shares == 0 || l.lrec.sharesz < l.globalShareBytes) then some 3
  else if l.blockSize.isNone then some 3
  else if l.packed && (s.packShape l).isNone then some 2
  else none

/-- A READY launch is validated, and mapped where no extent is 0 (R180). -/
def State.validateMap (s : State) (n : Nat) : State :=
  let l := s.launch n
  match s.readObject l.asid l.lrec with
  | (s, none) => s.completeLaunch n 1
  | (s, some o) =>
    if (List.range o.nlevels).any (fun k => l.lrec.ext.getD k 1 == 0) then s.completeLaunch n 0
    else
      let l := l.mapped o
      match s.mapFailure l with
      | some st => (s.modLaunch n (fun _ => { l with st := .reserving })).completeLaunch n st
      | none =>
        let per := l.packTeams
        s.modLaunch n (fun _ => { l with st := .reserving, packs := l.teamCount / per, made := 0 })

/-- The teams of a new pack of a launch. -/
def newTeams (launch : Nat) (l : Launch) (pack first : Nat) : List Team :=
  (List.range l.packTeams).map (fun r =>
    { Team.absent with launch := launch, asid := l.asid, index := first + r, st := .reserved, pack := pack, rank := r })

/-- Make the next pack of a launch: its teams are RESERVED (R208, R212). -/
def State.makePack (s : State) (n : Nat) : State :=
  let l := s.launch n
  let p := s.packs.length
  let t := s.teams.length
  let shape := if l.packed then (s.packShape l).getD (1, 1) else (1, 1)
  let pack : Pack := ⟨n, l.packed, shape.1, shape.2, (List.range l.packTeams).map (fun r => t + r), none, false, []⟩
  let s : State := { s with teams := s.teams ++ newTeams n l p (l.made * l.packTeams), packs := s.packs ++ [pack] }
  s.modLaunch n (fun x => { x with made := x.made + 1 })

/-- The team waits for a place. -/
def Team.unplaced (t : Team) : Bool := t.st == .reserved || t.st == .relaunching

/-- The packs of a launch that wait for a place. -/
def State.waitingPacks (s : State) (n : Nat) : List Nat :=
  (indices s.packs).filter (fun p =>
    (s.pack p).launch == n && (s.pack p).origin.isNone && (s.pack p).members.any (fun t => (s.team t).unplaced))

/-- Shepherd works: it is neither dead, nor taking over, nor halted (R370, R396). -/
def State.shepherding (s : State) : Bool := !s.shep.dead && !s.shep.taking && !s.host.halted

/-- Packs go on being placed and parts resumed: with Shepherd dead too, for the kernels that run run on to completion (R396). -/
def State.carrying (s : State) : Bool := !s.shep.taking && !s.host.halted

/-- A launch goes on: with Shepherd dead, a RUNNING one, and the children of those that ran (R396). -/
def State.carries (s : State) (l : Launch) : Bool := s.carrying && (!s.shep.dead || l.st == .running || l.parent.isSome)

/-- Let a launch go on as far as it can without a place: validation, mapping, its next pack (R180). -/
def State.advanceLaunch (s : State) (n : Nat) : State :=
  let s := if (s.launch n).st == .ready then s.validateMap n else s
  let l := s.launch n
  if (l.st == .reserving || l.st == .running) && !l.stopped && l.made < l.packs && (s.waitingPacks n).isEmpty then s.makePack n
  else s

/-- Let every launch go on. -/
def State.advanceLaunches (s : State) : State :=
  (indices s.launches).foldl (fun s n =>
    if (s.launch n).st == .done || !s.carries (s.launch n) then s else s.advanceLaunch n) s

/-! ### Where a pack fits (R206, R213, R336, R378, R389) -/

/-- The context's part that holds a partition. -/
def State.partAt (s : State) (asid : BitVec 16) (p : Nat) : Option Nat :=
  (indices s.parts).find? (fun i => (s.partOf i).asid == asid && (s.partOf i).part == p && (s.partOf i).st.onPlace)

/-- A launch's teams may go on a partition now: it may use it, the context is granted it, no other context holds it, and the
context's own part there is RESIDENT. -/
def State.openFor (s : State) (l : Launch) (p : Nat) : Bool :=
  s.mayUse l p && (s.ctx l.asid).grant.getLsbD p
    && !s.parts.any (fun x => x.part == p && x.st.onPlace && x.asid != l.asid)
    && (match s.partAt l.asid p with
      | some i => (s.partOf i).st == .resident
      | none => true)

/-- The team slots of a context that no team holds (R336). -/
def State.freeSlots (s : State) (asid : BitVec 16) : List Nat :=
  (List.range (s.ctx asid).nslot).filter (fun n => !s.teams.any (fun t => t.asid == asid && t.slot == some n))

/-- Place teams in turn; the occupancies of the partitions used so far go along. -/
def State.planTeams (s : State) (l : Launch) (cols rows origin : Nat) :
    List Nat → List (Nat × List CoreUse) → Option (List TeamPlan)
  | [], _ => some []
  | t :: ts, us =>
    let j := (s.team t).rank % (cols * rows)
    let p := origin + j % cols + 4 * (j / cols)
    let u := (lookupKey p us).getD (s.partUse p l.asid)
    match l.placeIn (s.ctx l.asid).handler t p u with
    | none => none
    | some (u, plan) => (s.planTeams l cols rows origin ts (setKey p u us)).map (fun r => plan :: r)

/-- The plan of a waiting pack at an origin, where every team fits at once. -/
def State.planPack (s : State) (pack origin : Nat) : Option (List TeamPlan) :=
  let p := s.pack pack
  let l := s.launch p.launch
  let ts := p.members.filter (fun t => (s.team t).unplaced)
  let fresh := (ts.filter (fun t => (s.team t).slot.isNone)).length
  let dropped := l.stopped && ts.any (fun t => (s.team t).st == .reserved)
  if !s.carries l || !(l.st == .reserving || l.st == .running) || dropped || p.origin.isSome || ts.isEmpty then none
  else match rectangle origin p.cols p.rows with
    | none => none
    | some ps =>
      if ps.all (s.openFor l) && fresh ≤ (s.freeSlots l.asid).length then s.planTeams l p.cols p.rows origin ts []
      else none

/-- The launches in the order of placement: descending priority, then acceptance (R389). -/
def State.placeOrder (s : State) : List Nat :=
  (List.range 32).reverse.flatMap (fun pr => (indices s.launches).filter (fun n =>
    let l := s.launch n
    l.prio == pr && (l.st == .reserving || l.st == .running)))

/-- A place for a pack of a launch: the pack and an origin. -/
def State.placeFor (s : State) (n : Nat) : Option (Nat × Nat) :=
  (s.waitingPacks n).findSome? (fun p => ((List.range 8).find? (fun o => (s.planPack p o).isSome)).map (fun o => (p, o)))

/-- The placement that Shepherd makes next (R389). -/
def State.nextPlacement (s : State) : Option (Nat × Nat) := s.placeOrder.findSome? s.placeFor

/-! ### Creation (R84, R87, R178, R207, R218, R336, R352) -/

/-- A thread of a launch at creation (R84, R178); `x` is its team-relative index. -/
def newThread (l : Launch) (c : Context) (slot x : Nat) : Thread :=
  let n := min 56 (l.regs - 8)
  let fbase : DWord := c.framebase + BitVec.ofNat 64 ((slot * 65536 + x) * c.framesize)
  let fp := fbase + BitVec.ofNat 64 (saveSize n + 64)
  { Thread.absent with
    pc := l.lrec.code + l.code.entry
    st := .ready
    fixed := pairRegs l.lrec.args .w64 ++ [⟨l.lrec.arg16.setWidth 32, .int⟩, ⟨BitVec.ofNat 32 l.depth, .int⟩]
      ++ pairRegs fp .w64 ++ pairRegs fp .w64
    ring := List.replicate (l.regs - 8) Reg.fresh
    n := n
    entered := true
    frames := [⟨fp, 0, 0, 0, n, 0, 0⟩]
    fbase := fbase
    flimit := fbase + BitVec.ofNat 64 c.framesize }

/-- A thread of a handler bundle at creation, idle (R352). -/
def handlerThread : Thread :=
  { Thread.absent with
    st := .parked .handler
    fixed := List.replicate 8 Reg.fresh
    ring := List.replicate 56 Reg.fresh
    n := 56
    entered := true
    frames := [⟨0, 0, 0, 0, 56, 0, 0⟩] }

/-- The mask registers at creation (R87). -/
def newMasks : List (BitVec 64) := List.replicate 7 0 ++ [0xFFFFFFFFFFFFFFFF]

/-- A bundle at creation (R87). -/
def newBundle (asid : BitVec 16) (pid part : Nat) (q : Place) (w p bidx : Nat) (team : Option Nat) (ts : List Thread)
    (h : Option Handler) : Bundle :=
  { Bundle.absent with
    live := true
    resident := true
    asid := asid
    team := team
    pid := pid
    part := part
    core := q.core
    sub := q.sub
    slot := q.slot
    w := w
    p := p
    bidx := bidx
    threads := ts
    s := List.replicate 64 Reg.fresh
    m := newMasks
    lbars := List.replicate 4 (Barrier.fresh ts.length)
    handler := h }

/-- The bundles of a team of a launch at its places (R205), created at a tick: their threads come after all that has been released. -/
def newBundles (tick : Nat) (l : Launch) (c : Context) (team slot pid : Nat) (plan : TeamPlan) : List Bundle :=
  plan.bundles.mapIdx (fun b q =>
    newBundle l.asid pid plan.part q l.code.width l.regs b (some team)
      ((List.range l.bundleLanes).map (fun i => (newThread l c slot (b * l.code.width + i)).acquireAt tick 0xFFFF)) none)

/-- Make sure that a context has a part on a partition: RESIDENT at its first team (R337). -/
def State.needPart (s : State) (asid : BitVec 16) (p : Nat) : State × Nat :=
  match s.partAt asid p with
  | some i => (s, i)
  | none => ({ s with parts := s.parts ++ [⟨asid, p, .resident, false, 0, none, none, 0, 0, none, [], []⟩] }, s.parts.length)

/-- Start a team at its plan: LOADING, and RUNNING once its bundles exist (R208). -/
def State.startTeam (s : State) (plan : TeamPlan) : State :=
  let tm := s.team plan.team
  let l := s.launch tm.launch
  let (s, pid) := s.needPart l.asid plan.part
  let slot := tm.slot.getD ((s.freeSlots l.asid).headD 0)
  let c := s.ctx l.asid
  let hs := plan.handlers.map (fun q =>
    newBundle l.asid pid plan.part q 16 64 0 none (List.replicate 16 handlerThread) (some ⟨none, []⟩))
  let w0 : Window := ⟨0, BitVec.ofNat 64 privateBase, l.window0, .scratch, 0, false, [], []⟩
  let bars := List.replicate 16 (Barrier.fresh l.teamThreads)
  let s : State := { s with bundles := s.bundles ++ hs ++ newBundles s.ticks l c plan.team slot pid plan }
  s.modTeam plan.team (fun x => { x with
    st := .running
    pid := pid
    part := plan.part
    block := plan.block
    cores := l.blockSize.getD 1
    slot := some slot
    windows := [w0]
    ver := ⟨if l.code.kflags.getLsbD 0 then .open else .none, [], false⟩
    bars := bars
    mons := List.replicate 8 Monitor.fresh })

/-- Zero the global share area, SHARESZ bytes, with direct stores (R177, R180, R192). What becomes of a page that cannot be written is
not stated: it stays as it is (assumption 85, DESIGN CHOICE). -/
def State.zeroShares (s : State) (l : Launch) : State :=
  if l.lrec.shares == 0 then s else
  let zero (s : State) (o n : Nat) : State := (s.virtWrite l.asid (l.lrec.shares + BitVec.ofNat 64 o) n 0).1
  let words := l.lrec.sharesz / 4
  let s := (List.range words).foldl (fun s i => zero s (4 * i) 4) s
  (List.range (l.lrec.sharesz % 4)).foldl (fun s i => zero s (4 * words + i) 1) s

/-- Commit a pack at an origin (R213): the launch runs, and every team starts. -/
def State.commitPack (s : State) (pack origin : Nat) (plans : List TeamPlan) : State :=
  let n := (s.pack pack).launch
  let s := if (s.launch n).st == .reserving then (s.zeroShares (s.launch n)).modLaunch n (fun x => { x with st := .running }) else s
  let s := s.modPack pack (fun p => { p with origin := some origin, bars := [] })
  plans.foldl (fun s p => s.startTeam p) s

/-- TEAM_PLACED (R208, R213): the pack is placed where it fits, unless a launch before it in the order of R389 can place one. -/
def execTeamPlaced (pack origin : Nat) (s : State) : Host.Outcome State Fault Refusal :=
  .next (match s.planPack pack origin with
    | none => s
    | some plans =>
      let before := s.placeOrder.takeWhile (fun n => n != (s.pack pack).launch)
      if before.any (fun n => (s.placeFor n).isSome) then s else s.commitPack pack origin plans)

/-! ### The end of a team (R208, R299, R300, R312) -/

/-- A team enters COMMITTING (R208): the LEVEL 1 checkpoint comes first, where TRAP acts as FAIL (R299, R300). -/
def State.enterCommit (s : State) (t : Nat) : State :=
  match s.checkAll [t] 1 monitorNumbers with
  | (s, none) => s.modTeam t (fun x => { x with st := .committing })
  | (s, some (action, i, _)) => s.killTeam t causeMonitorDrift (action != 1) (some i) 0

/-- TEAM_PUBLISH (R208): a COMMITTING team's stores are performed, its dirty lines are written back, its version is published, all in one
release at SYSTEM scope (R164), and it is RETIRED. -/
def execTeamPublish (team : Nat) (s : State) : Host.Outcome State Fault Refusal :=
  .next (
    if (s.team team).st != .committing then s else
    let s := (s.drainTeam team).cleanTeam team
    if (s.team team).st != .committing then s else
    let s := s.publishCells team
    let s := s.modTeam team (fun x => { x with
      st := .retired, slot := none, windows := [], bars := [], mons := []
      ver := ⟨if x.ver.st == .none then .none else .published, [], false⟩ })
    s.launchCheck (s.team team).launch)

/-- TEAM_KILL (R208, R209): a containment event of a team, such as an uncorrectable error in its registers. -/
def execTeamKill (team : Nat) (cause : BitVec 8) (s : State) : Host.Outcome State Fault Refusal :=
  .next (s.killTeam team cause false none 0)

/-! ### nlaunch (R197, R198) -/

/-- Accept a launch (R180, R384); its ACCEPTED entry is journaled first (R394). -/
def State.acceptLaunch (s : State) (l : Launch) (qid type : Nat) (index : Nat) : State :=
  let s := s.journal 1 0 qid l.asid type index
  { s with launches := s.launches ++ [l] }

/-- A launch of a record. -/
def newLaunch (asid : BitVec 16) (r : LaunchRec) (st : LaunchState) (depth : Nat) (parent : Option Nat) (packet : Option (Nat × Nat))
    (affinity : BitVec 8) (prio : Nat) : Launch :=
  { Launch.absent with
    asid := asid, st := st, lrec := r, depth := depth, parent := parent, packet := packet, affinity := affinity, prio := prio
    stopped := false }

/-- NLAUNCH (R197): a release at PACKAGE scope, the checks, the record, and a child that waits for nothing. -/
def execNlaunch (a : BitVec 6) (s : State) : Host.Outcome State Fault Refusal :=
  s.word (.nlaunch a) (fun s => s.uniWord [src a true .any] (fun s =>
    let va := s.u64 a
    let l := s.teamLaunch s.curTeam
    if va.toNat % 64 != 0 then s.uniNow a (.trap (accessTrap causeMisaligned va 8 0)) (fun _ s => s) else
    let s := s.fenceNow s.cur.bundle s.issued true
    let (s, r) := s.readBlock .read va 8
    s.uniNow a r (fun bs s =>
      if l.depth ≥ 10 then s.trapIssued (TrapInfo.of causeLaunchDepth) else
      let rec_ := LaunchRec.parse va (ofBytes bs)
      (s.acceptLaunch (newLaunch s.curB.asid rec_ .ready (l.depth + 1) (some s.curTeam) none l.affinity rec_.prio) 0xFFFF 1
        va.toNat).advanceAll)))

end Sys2Proof.Machine
end

