-- ==== Sys2Proof/Machine/Context.lean ====
section
/-! DEFINITION. Contexts and their parts: creation (R335), `yield` and hints (R344, R345), the whistle (R338 to R340), saving
(R341 to R343), kennels and save areas (R337, R342), resumption (R346), and destruction (R337). -/
namespace Sys2Proof.Machine

/-! ### Creation and destruction (R335, R337) -/

/-- A context of a context record: its bytes as one number (R335). -/
def Context.parse (v : Nat) : Context :=
  let flags := fieldAt v 10 2
  { Context.absent with
    asid := BitVec.ofNat 16 (fieldAt v 8 2)
    destroyed := false
    root := BitVec.ofNat 64 (fieldAt v 0 8)
    priv := flags % 2 == 1
    handler := flags / 2 % 2 == 1
    unsig := flags / 4 % 2 == 1
    deadline := fieldAt v 12 4
    stampdesc := BitVec.ofNat 64 (fieldAt v 16 8)
    framebase := BitVec.ofNat 64 (fieldAt v 24 8)
    framesize := fieldAt v 32 4
    nslot := fieldAt v 36 2
    savebase := BitVec.ofNat 64 (fieldAt v 40 8)
    saveimg := fieldAt v 48 4
    vpool := fieldAt v 52 4
    streamcfg := List.replicate 15 0 ++ [8]
    leash := 4096 }

/-- The limits of a context record, its reserved fields among them (R335). -/
def contextOk (v : Nat) : Bool :=
  let c := Context.parse v
  c.root.toNat % 2048 == 0 && c.root.toNat < 2 ^ 52 && (c.asid != 0 || c.priv) && fieldAt v 10 2 < 8
    && 1000 ≤ c.deadline && c.deadline ≤ 1000000 && c.framebase.toNat % 65536 == 0 && c.framesize % 4096 == 0
    && 4096 ≤ c.framesize && c.framesize ≤ 2 ^ 24 && 1 ≤ c.nslot && c.nslot ≤ 4096 && fieldAt v 38 2 == 0
    && c.savebase.toNat % 65536 == 0 && c.vpool ≤ 4096 && fieldAt v 56 8 == 0

/-- Create a context from a record at a physical address (R335, R391): the state and RESULT. -/
def State.createContext (s : State) (pa : DWord) : State × Nat :=
  let (s, v) := s.physRead (paOffset pa.toNat) 64
  let c := Context.parse v
  let granted := s.ctxs.foldl (fun n x => if x.destroyed then n else n + x.vpool) 0
  if pa.toNat % 64 != 0 || !contextOk v || granted + c.vpool > 4096 then (s, 1)
  else if !(s.ctx c.asid).destroyed then (s, 2)
  else ({ s with
      ctxs := s.ctxs.filter (fun x => x.asid != c.asid) ++ [c]
      stamps := s.stamps.filter (fun x => x.asid != c.asid) }, 0)

/-- Handler bundles of a part go with it. -/
def State.dropHandlers (s : State) (pid : Nat) : State :=
  { s with bundles := s.bundles.map (fun b => if b.live && b.pid == pid && b.handler.isSome then b.kill s.ticks else b) }

/-- Destroy a context (R337): its launches end ABORTED, its queues are DESTROYED, its parts and their images go, and
its translations are withdrawn (R41). The entries of the journal name the management entry of DESTROY_CONTEXT (R393), whose ring index
comes with it. -/
def State.destroyContext (s : State) (asid : BitVec 16) (index : Nat) : State :=
  let s := (indices s.launches).foldl (fun s n =>
    if (s.launch n).asid == asid then State.abortLaunch launchDepth s n else s) s
  let s := (s.queues.filter (fun q => q.asid == asid && q.st != .destroyed)).foldl (fun s q =>
    let q' := { q with st := .destroyed, kick := false, reason := 0 }
    { (s.journal 3 4 q.qid q.asid 2 index).statusQueue q' 0 with
      queues := s.queues.map (fun x => if x.qid == q.qid && x.st != .destroyed then q' else x) }) s
  let s := (indices s.parts).foldl (fun s i => if (s.partOf i).asid == asid then s.dropHandlers i else s) s
  let s : State := { s with
    stamps := s.stamps.filter (fun x => x.asid != asid)
    parts := s.parts.map (fun p => if p.asid == asid then
      { p with st := .destroyed, kennel := none, image := none, raised := false, idle := none, seqs := [], stamps := [] } else p) }
  let s := s.withdraw (fun t => t.asid == asid)
  (s.modCtx asid (fun c => { c with destroyed := true, grant := 0 })).journal 4 1 0 asid 2 index

/-! ### Yield (R344) -/

/-- YIELD (R344): the lanes go on, or wait where the whistle is raised. -/
def execYield (h : BitVec 6) (s : State) : Host.Outcome State Fault Refusal :=
  s.word (.yield h) (fun s => if s.whistled then s.waitIssued (.yield h.toNat) else s.advanceAll)

/-! ### Parts that change state together (R337, R340, R347) -/

/-- The team holds a place. -/
def Team.holds (t : Team) : Bool :=
  match t.st with
  | .loading => true
  | .running => true
  | .parked => true
  | .childwait => true
  | .committing => true
  | _ => false

/-- One step of the closure of parts under packs. -/
def State.linkStep (s : State) (ps : List Nat) : List Nat :=
  let packs := s.packs.filter (fun p => p.members.any (fun t => (s.team t).holds && ps.contains (s.team t).pid))
  (ps ++ packs.flatMap (fun p => (p.members.filter (fun t => (s.team t).holds)).map (fun t => (s.team t).pid))).eraseDups

/-- The parts that hold the teams of the packs of a part (R337): at most one on each of 8 partitions. -/
def State.linked (s : State) (pid : Nat) : List Nat := (List.range 8).foldl (fun ps _ => s.linkStep ps) [pid]

/-- The bundles of a part. -/
def State.partBundles (s : State) (pid : Nat) : List Nat :=
  (indices s.bundles).filter (fun b => (s.bundle b).live && (s.bundle b).pid == pid)

/-- A part is quiet (R340): no thread on it is READY. -/
def State.quiet (s : State) (pid : Nat) : Bool := (s.partBundles pid).all (fun b => !(s.bundle b).threads.any (·.isReady))

/-- A part is idle (R347): every thread on it is EXITED or PARKED. -/
def State.idle (s : State) (pid : Nat) : Bool :=
  (s.partBundles pid).all (fun b => (s.bundle b).threads.all (fun t => t.isExited || t.isParked))

/-- The teams that a part holds. -/
def State.partTeams (s : State) (pid : Nat) : List Nat :=
  (indices s.teams).filter (fun t => (s.team t).pid == pid && (s.team t).holds)

/-- Set the state of parts. -/
def State.setParts (s : State) (ps : List Nat) (st : PartState) : State :=
  ps.foldl (fun s i => s.modPart i (fun p => { p with st := st })) s

/-- A WHISTLED part that is quiet, with every part that changes with it, is YIELDED (R337, R340). -/
def State.settlePart (s : State) (pid : Nat) : State :=
  if (s.partOf pid).st == .whistled && (s.linked pid).all s.quiet then s.setParts (s.linked pid) .yielded
  else if (s.partOf pid).st == .resident && (s.partTeams pid).isEmpty then
    (s.dropHandlers pid).modPart pid (fun p => { p with st := .destroyed })
  else s

/-! ### Kennels and save areas (R337, R342) -/

/-- The kennel of a partition exists and is empty (R3, R337). -/
def State.kennelFree (s : State) (p : Nat) : Bool :=
  s.host.caps.getLsbD 11 && s.partEnabled p && !s.parts.any (fun x => x.kennel == some p)

/-- The save-area images of a context that hold nothing. -/
def State.freeImages (s : State) (asid : BitVec 16) : List Nat :=
  (List.range (s.ctx asid).saveimg).filter (fun k => !s.parts.any (fun x => x.asid == asid && x.image == some k))

/-- The image count of a part in bytes (R342). -/
def State.imageBytes (s : State) (pid : Nat) : Nat :=
  let regs := (s.partBundles pid).foldl (fun n b => n + (s.bundle b).w * (s.bundle b).p) 0
  let scratch := (s.partTeams pid).foldl (fun n t =>
    (s.team t).windows.foldl (fun n w => if w.mode == .scratch then n + w.size else n) n) 0
  regs * 9 / 2 + scratch + 65536

/-- The image fits a kennel (R342). -/
def State.fitsKennel (s : State) (pid : Nat) : Bool := s.imageBytes pid ≤ 24 * 2 ^ 20

/-- Write `n` bytes of an image in the device's private format (R341), or the cause of the access that faults (R343). -/
def State.saveBytes (s : State) (asid : BitVec 16) (va : DWord) : Nat → State × Option (BitVec 8)
  | 0 => (s, none)
  | n + 1 =>
    if !vaValid va || vaPrivate va then (s, some causeOutOfRange) else
    match s.xlate packagePlace asid va .write with
    | (s, .absent _) => (s, some causePage)
    | (s, .prot) => (s, some causeProtection)
    | (s, .ok pa _) =>
      if !s.paExists pa then (s, some causeOutOfRange) else
      let s := if s.isLocal pa && paOffset pa < lpddrEnd then
        s.physWrite (paOffset pa) 1 (Config.freeByte s.ticks 90 n).toNat else s
      s.saveBytes asid (va + 1) n

/-- A part whose save-area access faulted (R343): its teams are killed, each with a containment record of the access's own cause. -/
def State.faultPart (s : State) (pid : Nat) (cause : BitVec 8) : State :=
  let ts := s.partTeams pid
  let s := (s.modPart pid (fun p => { p with st := .faulted, kennel := none, image := none })).dropHandlers pid
  ts.foldl (fun s t => s.killPack t false (fun s killed outcome _ =>
    (killed.filter ts.contains).foldl (fun s x => s.containmentRecord x cause outcome none 0) s)) s

/-- Write the image of a part to a save-area image: the part is STORED, or FAULTED. -/
def State.storeImage (s : State) (pid image : Nat) : State :=
  let p := s.partOf pid
  match s.saveBytes p.asid ((s.ctx p.asid).savebase + BitVec.ofNat 64 (image * 2 ^ 25)) (s.imageBytes pid) with
  | (s, some cause) => s.faultPart pid cause
  | (s, none) => s.modPart pid (fun p => { p with st := .stored, kennel := none, image := some image })

/-- Write the images of parts to save-area images that hold nothing. -/
def State.storeImages (s : State) (ps : List Nat) : State :=
  ps.foldl (fun s i => match (s.freeImages (s.partOf i).asid).head? with
    | some k => s.storeImage i k
    | none => s) s

/-! ### The space of a save (R337, R342) -/

/-- A save of the part is on its way. -/
def PartState.saving : PartState → Bool
  | .whistled => true
  | .yielded => true
  | .forced => true
  | _ => false

/-- The kennels of the partitions of parts are empty. -/
def State.kennelsFree (s : State) (ps : List Nat) : Bool := ps.all (fun i => s.kennelFree (s.partOf i).part)

/-- The images of parts that change together go to their kennels: each is empty and takes its image; else they go to save-area images,
for they have one state (R337). -/
def State.kennelsTake (s : State) (ps : List Nat) : Bool := s.kennelsFree ps && ps.all s.fitsKennel

/-- The save-area images of a context that no save on its way may need, but those of `ps`: one for each part, also where a kennel is empty,
for its image may prove larger than the kennel (R337). -/
def State.imagesLeft (s : State) (asid : BitVec 16) (ps : List Nat) : Nat :=
  (s.freeImages asid).length - ((indices s.parts).filter (fun i =>
    (s.partOf i).asid == asid && (s.partOf i).st.saving && !ps.contains i)).length

/-- A save of the parts has space (R337): empty kennels, or free save-area images. -/
def State.saveSpace (s : State) (asid : BitVec 16) (ps : List Nat) : Bool :=
  s.kennelsFree ps || ps.length ≤ s.imagesLeft asid ps

/-! ### The whistle (R338, R339) -/

/-- Raise the whistle of a part, and of every part that changes state with it, where their save has space (R337, R339). -/
def State.raiseWhistle (s : State) (part : Nat) : State :=
  let ps := s.linked part
  let asid := (s.partOf part).asid
  if ps.all (fun i => (s.partOf i).st == .resident) && s.saveSpace asid ps then
    let s := ps.foldl (fun s i => s.modPart i (fun p => { p with st := .whistled, raised := true, left := (s.ctx asid).deadline })) s
    s.settlePart part
  else s

/-- WHISTLE_RAISE (R337, R339): in every part of a pack at once. -/
def execWhistleRaise (asid : BitVec 16) (part : Nat) (s : State) : Host.Outcome State Fault Refusal :=
  .next (if (s.partOf part).asid == asid then s.raiseWhistle part else s)

/-- WHISTLE_DEADLINE (R337): LEFT is 0. -/
def execWhistleDeadline (asid : BitVec 16) (part : Nat) (s : State) : Host.Outcome State Fault Refusal :=
  .next (
    let p := s.partOf part
    if p.asid == asid && p.st == .whistled && p.left == 0 then s.setParts (s.linked part) .forced else s)

/-! ### Saving (R341) -/

/-- A thread whose waiting word a save abandons (R85, R341): its PC stays on the word. -/
def Thread.abandon (t : Thread) : Thread :=
  match t.st with
  | .waiting (.yield _) => t
  | .waiting _ => { t.goto t.pc with st := .ready }
  | _ => t

/-- The threads of a bundle that wait for their word's own operation, which completes before a save (R85). -/
def Bundle.completing (b : Bundle) : Bool :=
  b.threads.any (fun t => match t.st with
    | .waiting (.word _ i _ _) => !abandoned i
    | _ => false)

/-- Steps 1 and 2 of a save for a bundle: waiting words are abandoned (R85, R252, R289), and issued accesses performed. -/
def State.stopBundle (s : State) (b : Nat) : State :=
  let ls := indices (s.bundle b).threads
  let s := ls.foldl (fun s l => s.abandonWord b l) s
  let s := s.drainLanes b ls
  let s : State := { s with grow := s.grow.filter (fun g => g.bundle != b) }
  s.modBundle b (fun x => { x with posting := none, threads := x.threads.map Thread.abandon })

/-- The hint entry of a thread that yields: VMASK and SMASK, none where the read fails or both are zero (R345). What an entry on
another node holds is free (assumption 1). -/
def State.hintEntry (s : State) (b h : Nat) : State × Option (DWord × DWord) :=
  let x := s.bundle b
  match x.team with
  | none => (s, none)
  | some t =>
    let l := s.teamLaunch t
    let va := l.lrec.code + BitVec.ofNat 64 (l.code.liveness + 16 * h)
    let (s, lo) := s.virtLook x.asid va 8
    let (s, hi) := s.virtLook x.asid (va + 8) 8
    match lo.orFree (Config.freeDWord s.ticks 345 va.toNat).toNat, hi.orFree (Config.freeDWord s.ticks 346 va.toNat).toNat with
    | some v, some m => (s, if v == 0 && m == 0 then none else some (BitVec.ofNat 64 v, BitVec.ofNat 64 m))
    | _, _ => (s, none)

/-- The lanes of a bundle that yield, with their hints. -/
def Bundle.yields (b : Bundle) : List (Nat × Nat) :=
  (indices b.threads).filterMap (fun l => match (b.thread l).st with
    | .waiting (.yield h) => some (l, h)
    | _ => none)

/-- Spill the older windows of the lanes of a bundle that are saved by a hint (R345, step 1); the boolean says that none waits for a
stash line, which must be filled first. -/
def State.spillYields (s : State) (b : Nat) : State × Bool :=
  ((s.bundle b).yields).foldl (fun acc y =>
    match acc.1.hintEntry b y.2 with
    | (s, none) => (s, acc.2)
    | (s, some _) =>
      let t := s.thread b y.1
      match s.spillTo b y.1 t.base (t.base - t.lo) with
      | (s, .wait tg) => (s.beginFill (tg.getD .unreachable), false)
      | (s, _) => (s, acc.2)) (s, true)

/-- The registers of a thread that its VMASK leaves out are EMPTY (R345): v4 to v7 are always saved. -/
def Thread.keepLive (t : Thread) (tick l : Nat) (vmask : DWord) : Thread :=
  let t := t.unbind tick l (fun _ => true)
  (List.range (8 + t.n)).foldl (fun t n =>
    if vmask.getLsbD n || (4 ≤ n && n < 8) then t else t.keySet (t.key n) Reg.fresh) t

/-- Save a thread in a `yield` wait (R344, R345): the state, and its SMASK where it is saved by its hint. -/
def State.saveYielded (s : State) (b l h : Nat) : State × Option DWord :=
  let s := s.modThread b l (fun t => { t.goto (t.pc + 4) with st := .ready })
  match s.hintEntry b h with
  | (s, none) => (s, none)
  | (s, some (vmask, smask)) =>
    let t := s.thread b l
    match s.spillTo b l t.base (t.base - t.lo) with
    | (s', .ok) => (s'.modThread b l (fun t => t.keepLive s'.ticks l vmask), some smask)
    | _ => (s, none)

/-- The uniform registers that are token pairs of a bundle's commands (R341). -/
def State.tokenRegs (s : State) (b : Nat) : List Nat :=
  (s.cmds.filter (fun c => c.bundle == b && !c.observed && c.st != .cancelled)).flatMap (fun c => [c.token, c.token + 1])

/-- Save the threads of a bundle that yield, and its uniform registers by their hints (R341, R345). -/
def State.saveHints (s : State) (b : Nat) : State :=
  let x := s.bundle b
  let yields := x.yields
  let (s, masks) := yields.foldl (fun acc y =>
    let r := acc.1.saveYielded b y.1 y.2
    (r.1, acc.2 ++ [r.2])) (s, ([] : List (Option DWord)))
  let live := (x.threads.filter (fun t => !t.isExited)).length
  if yields.length == live && live > 0 && masks.all (·.isSome) then
    let smask := masks.foldl (fun m o => m ||| o.getD 0) (0 : DWord)
    let keep := s.tokenRegs b
    s.modBundle b (fun y => { y with s := y.s.mapIdx (fun n r => if smask.getLsbD n || keep.contains n then r else Reg.fresh) })
  else s

/-- Step 4 of a save (R242, R341): backed lines are written back and become INVALID. -/
def State.emptyStash (s : State) (t : Nat) : State :=
  (s.cleanTeam t).modTeam t (fun x => { x with windows := x.windows.map (fun w => { w with lines := [] }) })

/-- What a save waits for (R85, R341): words that complete first, long-latency words, and matrix posts of a part. -/
def State.saveReady (s : State) (pid : Nat) : Bool :=
  (s.partBundles pid).all (fun b => (s.bundle b).late.isEmpty && !(s.bundle b).completing
    && !s.cmds.any (fun c => c.bundle == b && c.active && c.spec.kind == 1))

/-- The counters that a saved part takes along: those of the context's engines on a partition (R249). -/
def Context.partSeqs (c : Context) (p : Nat) : List (Nat × BitVec 48) := c.seqs.filter (fun e => e.1 < 32768 && e.1 % 16384 / 16 == p)

/-- A stamp slot is of a context on a partition (R271). -/
def StampSlot.onPart (x : StampSlot) (asid : BitVec 16) (p : Nat) : Bool := x.asid == asid && x.core / 16 == p

/-- A part keeps the counters of its engines and takes its stamp slots along (R249, R271). A part that the context is given on the partition
meanwhile counts on from the same numbers: DEDUCED (assumption 107). -/
def State.packEngines (s : State) (pid : Nat) : State :=
  let p := s.partOf pid
  { s.modPart pid (fun x => { x with
      seqs := (s.ctx p.asid).partSeqs p.part
      stamps := s.stamps.filter (fun y => y.onPart p.asid p.part) }) with
    stamps := s.stamps.filter (fun y => !y.onPart p.asid p.part) }

/-- Save a part whose bundles have stopped (R341, steps 3 and 4): copies are suspended, threads saved, its stash emptied; its bundles
leave the cores. -/
def State.savePart (s : State) (pid : Nat) : State :=
  let bs := s.partBundles pid
  let s : State := { s with cmds := s.cmds.map (fun c =>
    if bs.contains c.bundle && c.spec.kind == 0 && (c.st == .queued || c.st == .running) then { c with st := .suspended } else c) }
  let s := bs.foldl (fun s b => s.saveHints b) s
  let s := ((s.partTeams pid).foldl (fun s t => s.emptyStash t) s).packEngines pid
  bs.foldl (fun s b => s.modBundle b (fun x => { x with resident := false })) s

/-- The images of saved parts go to their place (R341, step 5). -/
def State.placeImages (s : State) (ps : List Nat) : State :=
  if s.kennelsTake ps then
    ps.foldl (fun s i => s.modPart i (fun p => { p with st := .kennelled, kennel := some p.part, idle := none })) s
  else (ps.foldl (fun s i => s.modPart i (fun p => { p with idle := none })) s).storeImages ps

/-- CONTEXT_SAVE_DONE (R341): the saves of the parts that change together are done, when they have space (R337). Where a spill of
R345 waits for a line of stash, the save goes on once the line is filled. -/
def execContextSaveDone (asid : BitVec 16) (part : Nat) (s : State) : Host.Outcome State Fault Refusal :=
  .next (
    let ps := s.linked part
    let p := s.partOf part
    if p.asid == asid && (p.st == .yielded || p.st == .forced) && ps.all s.saveReady then
      let bs := ps.flatMap s.partBundles
      let s := bs.foldl (fun s b => s.stopBundle b) s
      let (s, ok) := bs.foldl (fun acc b => let r := acc.1.spillYields b; (r.1, acc.2 && r.2)) (s, true)
      if ok && (s.kennelsTake ps || ps.length ≤ s.imagesLeft asid ps) then (ps.foldl (fun s i => s.savePart i) s).placeImages ps
      else s
    else s)

/-- KENNEL_EVICT (R337): the KENNELLED images of the parts that change together go to free save-area images, but those on which saves
on their way rely. -/
def execKennelEvict (asid : BitVec 16) (part : Nat) (s : State) : Host.Outcome State Fault Refusal :=
  .next (
    let ps := s.linked part
    if (s.partOf part).asid == asid && ps.all (fun i => (s.partOf i).st == .kennelled) && ps.length ≤ s.imagesLeft asid ps then
      s.storeImages ps
    else s)

/-- Every launch with a team in a part may use a partition (R378). -/
def State.partMayUse (s : State) (pid p : Nat) : Bool := (s.partTeams pid).all (fun t => s.mayUse (s.teamLaunch t) p)

/-! ### Resuming (R346) -/

/-- The partition that lies from `p` as `target` lies from `from_`; none where that leaves the grid. -/
def shiftPlace (from_ target p : Nat) : Option Nat :=
  let col := p % 4 + target % 4
  let row := p / 4 + target / 4
  if target ≥ 8 || col < from_ % 4 || row < from_ / 4 || col - from_ % 4 ≥ 4 || row - from_ / 4 ≥ 2 then none
  else some (col - from_ % 4 + 4 * (row - from_ / 4))

/-- The partitions of the rectangle of a pack, shifted; a team outside any pack has its own partition alone. -/
def Pack.shifted (p : Pack) (from_ target : Nat) : Option (List Nat) :=
  if !p.formed then some [] else
  (p.origin.bind (shiftPlace from_ target)).bind (fun o => rectangle o p.cols p.rows)

/-- The parts that change together with part `lead` have a place of their shape, with `lead` on `target` (R215, R346): every part has a
partition that passes its test, and every partition of the rectangles of their packs passes the other one. -/
def State.fitsAt (s : State) (lead target : Nat) (one : Nat → Nat → Bool) (rect : Pack → Nat → Bool) : Bool :=
  let ps := s.linked lead
  let from_ := (s.partOf lead).part
  ps.all (fun i => ((shiftPlace from_ target (s.partOf i).part).map (one i)).getD false)
    && (s.packs.filter (fun k => k.members.any (fun t => (s.team t).holds && ps.contains (s.team t).pid))).all (fun k =>
      ((k.shifted from_ target).map (fun qs => qs.all (rect k))).getD false)

/-- The launch of a pack may use a partition (R378). -/
def State.packMayUse (s : State) (k : Pack) (q : Nat) : Bool := s.mayUse (s.launch k.launch) q

/-- KENNEL_STAGE (R337): the STORED images of the parts that change together go to the empty kennels of partitions on which they may
resume; a kennel on which a save on its way relies is left empty. -/
def execKennelStage (asid : BitVec 16) (part target : Nat) (s : State) : Host.Outcome State Fault Refusal :=
  .next (
    let takes (i q : Nat) : Bool := (s.partOf i).st == .stored && s.kennelFree q && s.partMayUse i q && s.fitsKennel i
      && !s.parts.any (fun x => x.part == q && x.st.saving)
    if (s.partOf part).asid == asid && s.fitsAt part target takes s.packMayUse then
      let from_ := (s.partOf part).part
      (s.linked part).foldl (fun s i => s.modPart i (fun p =>
        { p with st := .kennelled, kennel := shiftPlace from_ target p.part, image := none })) s
    else s)

/-- A partition of a resumption is free and granted (R346). -/
def State.placeFree (s : State) (asid : BitVec 16) (q : Nat) : Bool :=
  s.partEnabled q && (s.ctx asid).grant.getLsbD q && !s.parts.any (fun y => y.part == q && y.st.onPlace)

/-- A saved part may resume on a partition (R337, R346, R378): a KENNELLED one on its kennel's. -/
def State.mayResume (s : State) (pid q : Nat) : Bool :=
  let x := s.partOf pid
  (x.st == .kennelled || x.st == .stored) && (x.kennel.isNone || x.kennel == some q) && s.partMayUse pid q && s.placeFree x.asid q

/-- A saved part may resume on a partition with the parts that change together (R346). -/
def State.canResume (s : State) (part target : Nat) : Bool :=
  s.carrying && s.fitsAt part target s.mayResume (fun k q => s.packMayUse k q && s.placeFree (s.partOf part).asid q)

/-- CONTEXT_RESUME (R337, R346): the parts that change together resume on a place of their shape. -/
def execContextResume (asid : BitVec 16) (part target : Nat) (s : State) : Host.Outcome State Fault Refusal :=
  .next (
    if (s.partOf part).asid == asid && s.canResume part target then
      let from_ := (s.partOf part).part
      (s.linked part).foldl (fun s i => s.modPart i (fun p =>
        { p with st := .resuming, part := (shiftPlace from_ target p.part).getD p.part })) s
    else s)

/-- The engines of a partition take over the counters and the stamp slots of the part that is restored there (R215, R249, R271). -/
def State.unpackEngines (s : State) (pid : Nat) : State :=
  let p := s.partOf pid
  let core (k : Nat) : Nat := 16 * p.part + k % 16
  let s := s.modCtx p.asid (fun c => { c with
    seqs := c.seqs.filter (fun e => !(c.partSeqs p.part).contains e)
      ++ p.seqs.map (fun e => (e.1 / 16384 * 16384 + core e.1, e.2)) })
  { s.modPart pid (fun x => { x with seqs := [], stamps := [] }) with
    stamps := s.stamps.filter (fun y => !y.onPart p.asid p.part) ++ p.stamps.map (fun y => { y with core := core y.core }) }

/-- The watchpoints of a context are translated again for the home slices (R366). -/
def State.refreshWatch (s : State) (asid : BitVec 16) (place : Nat) : State :=
  let wpt := (List.range 8).map (fun n => s.watchPlace place asid n)
  s.modCtx asid (fun c => { c with wpt := wpt })

/-- Restore one part on its partition (R346). -/
def State.restorePart (s : State) (pid : Nat) : State :=
  let p := s.partOf pid
  let bs := s.partBundles pid
  let ts := s.partTeams pid
  let s : State := { s with
    bundles := s.bundles.map (fun b => if b.live && b.pid == pid then { b with resident := true, part := p.part } else b)
    cmds := s.cmds.map (fun c => if bs.contains c.bundle && c.st == .suspended then { c with st := .queued } else c) }
  let s := ts.foldl (fun s t => s.modTeam t (fun x => { x with part := p.part })) s
  let s := ts.foldl (fun s t => s.modPack (s.team t).pack (fun k =>
    let j := (s.team t).rank % (k.cols * k.rows)
    { k with origin := some (p.part - (j % k.cols + 4 * (j / k.cols))) })) s
  ((s.unpackEngines pid).modPart pid (fun p => { p with st := .resident, raised := false, left := 0, kennel := none, image := none })).refreshWatch p.asid
    (16 * p.part)

/-- RESTORE_DONE (R337, R344): the parts are RESIDENT; the teams whose state an error touches take a containment event. -/
def execRestoreDone (asid : BitVec 16) (part : Nat) (badTeams : List Nat) (s : State) : Host.Outcome State Fault Refusal :=
  .next (
    let ps := s.linked part
    if (s.partOf part).asid == asid && ps.all (fun i => (s.partOf i).st == .resuming) then
      let s := ps.foldl (fun s i => s.restorePart i) s
      (badTeams.filter (fun t => ps.contains (s.team t).pid)).foldl (fun s t =>
        if (s.team t).st.killable then s.killTeam t causeUncorrectable false none 0 else s) s
    else s)

end Sys2Proof.Machine
end

