-- ==== Sys2Proof/Machine/Queue.lean ====
section
/-! DEFINITION. Queues and Shepherd: `sigw` (R386), doorbells and the acceptance of packets (R379 to R385, R387), the management
ring (R377, R390 to R392), the takeover (R396) and the update (R397). -/
namespace Sys2Proof.Machine

/-! ### sigw (R386) -/

/-- Let accepted packets go on, where Shepherd works (R385). -/
def State.service (s : State) : State := if s.shepherding then s.serviceQueues else s

/-- Where the atomic of `sigw` races (R154): a direct, strong access of the issued set that every stream's fence orders. -/
def Spot.signal (z : Spot) (acq : Nat) : Spot := { z with q := noStream, cfg := 8, ver := none, acq := acq }

/-- The atomic of `sigw` at its coherence point (R169, R386): a direct write, which the injection register may alter (R317). -/
def State.sigAtom (s : State) (va : DWord) (tg : Target) : State :=
  let b := s.cur.bundle
  let lanes := s.cur.lanes
  let down (s : State) (old : Nat) : State × List Byte := s.inject s.curB.asid va (bytesOf 8 ((old + 2 ^ 64 - 1) % 2 ^ 64))
  let acq := s.curB.acquired lanes 0
  let stash (s : State) : Option Spot := (s.spotAt b lanes 0 8 tg).map (·.signal acq)
  match tg with
  | .mem off _ _ =>
    let z := (s.spot b lanes 0 false off 8 none).signal acq
    let (s, mix) := s.memStore z s.leader tg va
    let (s, bs) := s.outsideRead none off 8
    let (s, bs) := down s (ofBytes (mixBytes s.ticks s.leader mix bs))
    (s.outsideWrite none off (mixBytes s.ticks (s.leader + 64) mix bs)).noteStore z s.leader
  | .line t w n off =>
    let s := s.takeExclusive t w n
    (s.stashAtom (stash s) s.leader tg (s.lineRead t w n off 8) down).1
  | .scratch t w off => (s.stashAtom (stash s) s.leader tg (s.scratchRead t w off 8) down).1
  | .remote pa _ => (down (s.recallRemote pa true) (ofBytes (freeBytes s.ticks (64 * pa + s.leader) 8))).1
  | _ => s

/-- SIGW (R386): a release at SYSTEM scope, then the signal goes down by 1 at its home, and Shepherd looks at it. The issued set waits
while a line of stash is filled. -/
def execSigw (a : BitVec 6) (s : State) : Host.Outcome State Fault Refusal :=
  s.word (.sigw a) (fun s => s.uniWord (s.firstUses [src a true .any]) (fun s =>
    let va := s.argS 0 a.toNat
    match s.locateAs s.cur.bundle s.leader va 8 0 true .atomic with
    | (s, .trap i) => s.trapIssued { i with reg := regField true a.toNat }
    | (s, .unreachable) => s.linkLost s.cur.bundle s.cur.trapPc
    | (s, .fill t w n pa) => (s.startFill t w n pa).waitWord (.sigw a) [va]
    | (s, tg) => (((s.fenceNow s.cur.bundle s.issued true).sigAtom va tg).service).advanceAll))

/-! ### Accepting packets (R379, R380, R382, R383, R387) -/

/-- A bad packet fences its queue (R387): STATUS, FAULTIDX and READ are written, and system core 0 has an interrupt. -/
def State.fenceQueue (s : State) (q : Queue) (reason : Nat) : State :=
  let q' := { q with st := .fenced, reason := BitVec.ofNat 8 reason, kick := false }
  let s := (s.journal 3 5 q.qid q.asid 0 0).publishQueue q' q.r
  let s := s.modQueue q.qid (fun _ => q')
  { s with intc := { s.intc with irqs := s.intc.irqs ++ [0] } }

/-- A read of committed memory by Shepherd fails (R387): an uncorrectable error lies there, or nothing does. -/
def State.unreadable (s : State) (off n : Nat) : Bool :=
  off + n > lpddrEnd || s.badmem.any (fun k => off / 8 ≤ k && k ≤ (off + n - 1) / 8)

/-- Read 64 bytes of a queue's context (R379, R380): what another node holds is free (assumption 1). -/
def State.queueRead (s : State) (asid : BitVec 16) (va : DWord) : State × Option Nat :=
  let (s, v) := s.virtLook asid va 64
  (s, v.orFree (ofBytes (freeBytes s.ticks va.toNat 64)))

/-- Accept a packet (R382, R384): it is journaled, the read index advances, and READ is published where it must be. -/
def State.acceptPacket (s : State) (q : Queue) (type : Nat) (kind : PacketKind) (hdr : Nat) : State :=
  let p : Packet := ⟨q.r, kind, bitsAt hdr 9 1 == 1, (match kind with
    | .barrier _ _ => 0
    | _ => 0), false, false⟩
  let s := match kind with
    | .launch _ => s
    | _ => s.journal 1 0 q.qid q.asid type q.r
  let s := s.modQueue q.qid (fun x => { x with r := x.r + 1, packets := x.packets ++ [p] })
  if (q.r + 1) % q.pubn == 0 || bitsAt hdr 8 1 == 1 then s.physWrite (paOffset q.qcb.toNat + 8) 8 (q.r + 1) else s

/-- Set the completion signal of the packet accepted last. -/
def State.lastDone (s : State) (qid index : Nat) (done : DWord) : State := s.modPacket qid index (fun p => { p with done := done })

/-- The signals that a barrier packet depends on (R380). -/
def depsOf (v : Nat) : List DWord :=
  ((List.range 5).map (fun i => (BitVec.ofNat 64 (fieldAt v (16 + 8 * i) 8) : DWord))).filter (fun d => d != 0)

/-- Accept a LAUNCH (R380): its record is read once, and the queue's affinity now (R378). -/
def State.takeLaunch (s : State) (q : Queue) (v : Nat) : State :=
  let addr : DWord := BitVec.ofNat 64 (fieldAt v 8 8)
  if v / 2 ^ 128 != 0 then s.fenceQueue q 1
  else if addr.toNat % 64 != 0 then s.fenceQueue q 2
  else match s.queueRead q.asid addr with
    | (s, none) => s.fenceQueue q 3
    | (s, some r) =>
      if s.unreadable (paOffset q.qcb.toNat + 48) 1 then s.fenceQueue q 3 else
      let (s, aff) := s.physRead (paOffset q.qcb.toNat + 48) 1
      let id := s.launches.length
      let l := newLaunch q.asid (LaunchRec.parse addr r) .waiting 1 none (some (q.qid, q.r)) (BitVec.ofNat 8 aff) q.prio
      (s.acceptLaunch l q.qid 1 q.r).acceptPacket q 1 (.launch id) (fieldAt v 0 8)

/-- Accept a BARRIER_AND or BARRIER_OR (R380). -/
def State.takeBarrier (s : State) (q : Queue) (type v : Nat) : State :=
  let deps := depsOf v
  let done : DWord := BitVec.ofNat 64 (fieldAt v 8 8)
  if fieldAt v 56 8 != 0 then s.fenceQueue q 1
  else if done.toNat % 8 != 0 || deps.any (fun d => d.toNat % 8 != 0) then s.fenceQueue q 2
  else (s.acceptPacket q type (.barrier (type == 3) deps) (fieldAt v 0 8)).lastDone q.qid q.r done

/-- Accept a SIGNAL (R380). -/
def State.takeSignal (s : State) (q : Queue) (v : Nat) : State :=
  let addr : DWord := BitVec.ofNat 64 (fieldAt v 8 8)
  if fieldAt v 24 1 ≥ 2 || v / 2 ^ 200 != 0 then s.fenceQueue q 1
  else if addr.toNat % 8 != 0 then s.fenceQueue q 2
  else s.acceptPacket q 4 (.signal addr (BitVec.ofNat 64 (fieldAt v 16 8)) (fieldAt v 24 1 == 1)) (fieldAt v 0 8)

/-- Accept a NOP (R380). -/
def State.takeNop (s : State) (q : Queue) (v : Nat) : State :=
  if v / 2 ^ 64 != 0 then s.fenceQueue q 1 else s.acceptPacket q 5 .nop (fieldAt v 0 8)

/-- The next slot of an ACTIVE queue (R379): the state, and its bytes where it is written; a ring that cannot be read fences
the queue. -/
def State.nextSlot (s : State) (q : Queue) : State × Option Nat :=
  if q.st != .active || !s.shepherding then (s, none) else
  match s.queueRead q.asid (q.base + BitVec.ofNat 64 (64 * (q.r % q.size))) with
  | (s, none) => (s.fenceQueue q 3, none)
  | (s, some v) => if fieldAt v 4 4 == q.r % 2 ^ 32 then (s, some v) else (s, none)

/-- Accept one written slot (R379, R384, R387); the boolean says whether the queue goes on. -/
def State.takeSlot (s : State) (q : Queue) (v : Nat) : State :=
  let type := fieldAt v 0 1
  if type = 0 || type > 5 || bitsAt v 10 22 != 0 then s.fenceQueue q 1
  else if type = 1 then s.takeLaunch q v
  else if type = 4 then s.takeSignal q v
  else if type = 5 then s.takeNop q v
  else s.takeBarrier q type v

/-- Accept written slots in index order, at most `n`, and let the accepted packets go on (R383, R384). -/
def State.acceptSlots (s : State) (qid : Nat) : Nat → State
  | 0 => s
  | n + 1 =>
    match s.queue? qid with
    | none => s
    | some q =>
      match s.nextSlot q with
      | (s, none) => s
      | (s, some v) => ((s.takeSlot q v).service).acceptSlots qid n

/-- A store to a doorbell (R383, R385): the kick bit of the queue is set, and dependences are looked at again. -/
def State.ringDoorbell (s : State) (qid : Nat) : State :=
  (s.modQueue qid (fun q => if q.st == .draining then q else { q with kick := true })).service

/-- DOORBELL (R383, R385). -/
def execDoorbell (qid : Nat) (s : State) : Host.Outcome State Fault Refusal := .next (s.ringDoorbell qid)

/-- A queue whose kick bit is set comes before another (R383). -/
def Queue.before (a b : Queue) : Bool := a.kick && a.st != .destroyed && (a.prio > b.prio || (a.prio == b.prio && a.qid < b.qid))

/-- KICK_SERVICE (R383): the set bit that comes first is cleared, and ready slots are accepted. -/
def execKickService (qid : Nat) (s : State) : Host.Outcome State Fault Refusal :=
  .next (match s.queue? qid with
    | some q =>
      if q.kick && s.shepherding && !s.queues.any (fun x => x.before q) then
        (s.modQueue qid (fun x => { x with kick := false })).acceptSlots qid (q.size + 1)
      else s
    | none => s)

/-- The acceptance of the next slot of a queue where it is a packet of a type (R377, R384). -/
def State.acceptOf (s : State) (qid type : Nat) : State :=
  match s.queue? qid with
  | none => s
  | some q =>
    match s.nextSlot q with
    | (s', some v) => if fieldAt v 0 1 == type then (s'.takeSlot q v).service else s'
    | (s', none) => s'

/-- LAUNCH (R380, R384). -/
def execLaunch (qid : Nat) (s : State) : Host.Outcome State Fault Refusal := .next (s.acceptOf qid 1)

/-- BARRIER_AND (R384). -/
def execBarrierAnd (qid : Nat) (s : State) : Host.Outcome State Fault Refusal := .next (s.acceptOf qid 2)

/-- BARRIER_OR (R384). -/
def execBarrierOr (qid : Nat) (s : State) : Host.Outcome State Fault Refusal := .next (s.acceptOf qid 3)

/-- SIGNAL (R384). -/
def execSignal (qid : Nat) (s : State) : Host.Outcome State Fault Refusal := .next (s.acceptOf qid 4)

/-- NOP_PACKET (R384). -/
def execNopPacket (qid : Nat) (s : State) : Host.Outcome State Fault Refusal := .next (s.acceptOf qid 5)

/-- SIGNAL_RESCAN (R385). -/
def execSignalRescan (s : State) : Host.Outcome State Fault Refusal := .next s.service

/-! ### The management ring (R391) -/

/-- The entry at the head of the management ring: its index, its address, and its bytes as one number. -/
structure MgmtEntry where
  index : Nat
  addr : Nat
  v : Nat
  deriving DecidableEq, Repr

/-- The head of the management ring, once Shepherd accepts commands (R391, R409). -/
def State.mgmtHead (s : State) : State × Option MgmtEntry :=
  if s.host.mgmtring == 0 || s.boot.stage < 6 || !s.shepherding then (s, none) else
  let d := paOffset s.host.mgmtring.toNat
  let (s, base) := s.physRead d 8
  let (s, size) := s.physRead (d + 8) 4
  let (s, wr) := s.physRead (d + 16) 8
  let (s, rd) := s.physRead (d + 24) 8
  if size = 0 || wr == rd then (s, none) else
  let a := paOffset (base + 64 * (rd % size))
  let (s, v) := s.physRead a 64
  (s, some ⟨rd, a, v⟩)

/-- Write RESULT and decrement DONE (R391). -/
def State.mgmtDone (s : State) (addr : Nat) (done : DWord) (result : Nat) : State :=
  ((s.physWrite (addr + 2) 1 result).signalDown 0 done).service

/-- Process the head of the management ring where it is a command `op` (R391): `f` gives the state and RESULT, none where the
command is not done yet. A command that R391 does not list ends with RESULT 1, as does a set MBZ flag. -/
def State.mgmt (s : State) (op : Nat) (f : State → MgmtEntry → State × Option Nat) : State :=
  match s.mgmtHead with
  | (s, none) => s
  | (s, some e) =>
    let code := fieldAt e.v 0 1
    let known := 1 ≤ code && code ≤ 9
    if known && code != op then s else
    let s := s.journal 7 0 0 0 code e.index
    let s := s.physWrite (paOffset s.host.mgmtring.toNat + 24) 8 ((e.index + 1) % 2 ^ 64)
    let flags := fieldAt e.v 1 1
    let (s, r) := if !known || flags > (if op = 6 then 1 else 0) then (s, some 1) else f s e
    match r with
    | some r => s.mgmtDone e.addr (BitVec.ofNat 64 (fieldAt e.v 24 8)) r
    | none => s

/-- ARG of an entry. -/
def MgmtEntry.arg (e : MgmtEntry) : Nat := fieldAt e.v 8 8

/-- ARG2 of an entry. -/
def MgmtEntry.arg2 (e : MgmtEntry) : Nat := fieldAt e.v 16 8

/-- CREATE_CONTEXT (R335, R391). -/
def execCreateContext (s : State) : Host.Outcome State Fault Refusal :=
  .next (s.mgmt 1 (fun s e =>
    match s.createContext (BitVec.ofNat 64 e.arg) with
    | (s', 0) => ((s'.journal 4 0 0 ((s'.ctxs.getLast?.map (·.asid)).getD 0) 1 e.index), some 0)
    | (s', r) => (s', some r)))

/-- DESTROY_CONTEXT (R337, R391). -/
def execDestroyContext (s : State) : Host.Outcome State Fault Refusal :=
  .next (s.mgmt 2 (fun s e =>
    let asid : BitVec 16 := BitVec.ofNat 16 e.arg
    if (s.ctx asid).destroyed then (s, some 3) else (s.destroyContext asid e.index, some 0)))


/-- A valid queue control block (R376), its bytes as one number. -/
def State.qcbOk (s : State) (pa v : Nat) : Bool :=
  let size := fieldAt v 24 4
  let pubn := fieldAt v 28 2
  pa % 64 == 0 && fieldAt v 16 8 % 64 == 0 && isPow2 size && 16 ≤ size && size ≤ 2 ^ 20 && isPow2 pubn && pubn ≤ 256
    && pubn ≤ size && fieldAt v 30 1 < 32 && fieldAt v 31 1 < 2 && v / 2 ^ 392 == 0
    && !(s.ctx (BitVec.ofNat 16 (fieldAt v 32 2))).destroyed

/-- CREATE_QUEUE (R376, R377): the lowest free QID. -/
def execCreateQueue (s : State) : Host.Outcome State Fault Refusal :=
  .next (s.mgmt 3 (fun s e =>
    let (s, v) := s.physRead (paOffset e.arg) 64
    if !s.qcbOk e.arg v then (s, some 1) else
    match (List.range 4096).find? (fun n => n ≥ 1 && (s.queue? n).isNone) with
    | none => (s, some 2)
    | some qid =>
      let q : Queue := ⟨qid, BitVec.ofNat 16 (fieldAt v 32 2), BitVec.ofNat 64 e.arg, BitVec.ofNat 64 (fieldAt v 16 8),
        fieldAt v 24 4, fieldAt v 28 2, fieldAt v 30 1, fieldAt v 31 1 == 1, .created, 0, 0, false, false, []⟩
      let s := (s.journal 3 0 qid q.asid 3 e.index).physWrite (paOffset e.arg + 34) 2 qid
      let s := s.publishQueue q 0
      ({ s with queues := s.queues ++ [q] }, some 0)))

/-- Move the queue that an entry names to another state, where it stands in one of those given: STATUS is written, and READ where the
transition publishes it (R377, R393). -/
def State.moveQueue (s : State) (e : MgmtEntry) (ok : List QueueState) (op : Nat) (st : QueueState) (publish : Bool) (f : Queue → Queue) :
    State × Option Nat :=
  let qid := e.arg
  match s.queue? qid with
  | none => (s, some 3)
  | some q =>
    if !ok.contains q.st then (s, some 3) else
    let q' := f { q with st := st, reason := 0 }
    let s := s.journal 3 st.code qid q.asid op e.index
    let s := if publish then s.publishQueue q' 0 else s.statusQueue q' 0
    (s.modQueue qid (fun _ => q'), some 0)

/-- START_QUEUE (R377). -/
def execStartQueue (s : State) : Host.Outcome State Fault Refusal :=
  .next (s.mgmt 4 (fun s e => s.moveQueue e [.created, .suspended] 4 .active false (fun q => { q with kick := true })))

/-- SUSPEND_QUEUE (R377). -/
def execSuspendQueue (s : State) : Host.Outcome State Fault Refusal :=
  .next (s.mgmt 5 (fun s e => s.moveQueue e [.active] 5 .suspended true id))

/-- The packs of a launch that have never been placed are given up (R213, R392). -/
def State.dropPacks (s : State) (n : Nat) : State :=
  let ps := (s.waitingPacks n).filter (fun p => (s.pack p).members.any (fun t => (s.team t).st == .reserved))
  let s := ps.foldl (fun s p => (s.pack p).members.foldl (fun s t => s.modTeam t (fun x => { x with st := .failed, slot := none })) s) s
  s.modLaunch n (fun l => { l with stopped := true, made := l.made - ps.length })

/-- The fate of a launch whose queue is destroyed (R180, R392). -/
def State.destroyLaunch (s : State) (n : Nat) (abort : Bool) : State :=
  let l := s.launch n
  if abort then State.abortLaunch launchDepth s n
  else if l.st == .running then
    (if l.made < l.packs || (s.waitingPacks n).any (fun p => (s.pack p).members.any (fun t => (s.team t).st == .reserved))
      then (s.dropPacks n).launchCheck n else s)
  else if l.st == .done || l.st == .completing then s
  else (s.dropPacks n).completeLaunch n 7

/-- The fate of a packet that has not ended (R392). -/
def State.destroyPacket (s : State) (q : Queue) (p : Packet) (abort : Bool) : State :=
  if p.ended then s else
  match p.kind with
  | .launch id => s.destroyLaunch id abort
  | .barrier any _ => (s.endPacket q p (if any then 3 else 2)).signalDown q.asid p.done
  | .signal _ _ _ => s.endPacket q p 4
  | .nop => s.endPacket q p 5

/-- DESTROY_QUEUE (R377, R392). -/
def execDestroyQueue (s : State) : Host.Outcome State Fault Refusal :=
  .next (s.mgmt 6 (fun s e =>
    let abort := fieldAt e.v 1 1 == 1
    match s.moveQueue e [.created, .active, .suspended, .fenced] 6 .draining false (fun q => { q with kick := false, abort := abort }) with
    | (s, some 0) =>
      let s := (match s.queue? e.arg with
        | some q => q.packets.foldl (fun (s : State) (p : Packet) => match (s.queue? e.arg).bind (fun (q : Queue) => q.packets.find? (fun (x : Packet) => x.index == p.index)) with
          | some x => s.destroyPacket q x abort
          | none => s) s
        | none => s)
      (s.queueDrained e.arg, some 0)
    | r => r))

/-- GRANT (R391). -/
def execGrant (s : State) : Host.Outcome State Fault Refusal :=
  .next (s.mgmt 7 (fun s e =>
    let asid : BitVec 16 := BitVec.ofNat 16 e.arg
    if (s.ctx asid).destroyed then (s, some 3)
    else (s.modCtx asid (fun c => { c with
      grant := BitVec.ofNat 8 (bitsAt e.arg2 0 8), slice := BitVec.ofNat 40 (bitsAt e.arg2 8 40) }), some 0)))

/-- USAGE (R390, R391): the resident and the idle time of the context's parts, partition by partition. -/
def execUsage (s : State) : Host.Outcome State Fault Refusal :=
  .next (s.mgmt 8 (fun s e =>
    let asid : BitVec 16 := BitVec.ofNat 16 e.arg
    if (s.ctx asid).destroyed then (s, some 3) else
    let sum (f : Part → Nat) (p : Nat) : Nat := s.parts.foldl (fun n x => if x.asid == asid && x.part == p then n + f x else n) 0
    let s' := (List.range 8).foldl (fun t p =>
      (t.physWrite (paOffset e.arg2 + 16 * p) 8 (sum (·.resTime) p)).physWrite (paOffset e.arg2 + 16 * p + 8) 8 (sum (·.idleTime) p)) s
    (s', some 0)))

/-! ### Two complexes (R395 to R397) -/

/-- An image is accepted against a fuse counter (R410): its key is the root key, its signature holds, and it is not below the
counter. -/
def Boot.takesImage (b : Boot) (svn : Nat) (x : Image) : Bool :=
  Config.sm3 (bytesOf 64 x.key.toNat) == b.root && Config.sm2Verifies x.key x.digest x.sig && svn ≤ x.ver

/-- LOAD_UPDATE (R397): the image at ARG is verified (R410) and booted on the standby, which imports the latest state table (R395). -/
def execLoadUpdate (s : State) : Host.Outcome State Fault Refusal :=
  .next (s.mgmt 9 (fun s e =>
    let x := Config.loadedImage s.ticks e.arg
    if !s.shep.standby || s.shep.update.isSome || !s.boot.takesImage s.boot.shepsvn x then (s, some 4)
    else ({ s with shep := { s.shep with
      update := some (BitVec.ofNat 64 e.addr, BitVec.ofNat 64 (fieldAt e.v 24 8)), loaded := some x.digest
      imported := s.shep.version } }, none)))

/-- ROLE_EXCHANGE (R397): the complexes exchange roles at a quiescent boundary, unless the new image refuses the table. -/
def execRoleExchange (s : State) : Host.Outcome State Fault Refusal :=
  .next (match s.shep.update with
    | none => s
    | some (addr, done) =>
      if !s.shepherding then s else
      let x := s.shep.loaded
      let s : State := { s with shep := { s.shep with update := none, loaded := none } }
      if Config.freeBool s.ticks 71 0 then
        let s : State := { s with shep := { s.shep with active := 1 - s.shep.active, image := x } }
        (s.journal 6 s.shep.active 0 0 0 0).mgmtDone addr.toNat done 0
      else s.mgmtDone addr.toNat done 4)

/-- SHEPHERD_TAKEOVER (R396): at the error the standby fences the failed complex and holds completions back; when it comes
again, it has imported the latest state table and replayed the journal, in which every entry's effect is found (assumption 89), every
ACTIVE queue is kicked, the TAKEOVER entry is written, and the held completions are made in order. Without a
healthy standby Shepherd is dead. -/
def execShepherdTakeover (s : State) : Host.Outcome State Fault Refusal :=
  .next (
    if s.shep.dead then s
    else if s.shep.taking then
      let held := s.shep.held
      let s : State := { s with
        shep := { s.shep with taking := false, held := [], imported := s.shep.version }
        queues := s.queues.map (fun q => if q.st == .active then { q with kick := true } else q) }
      (held.foldl (fun s n => s.writeCompletion n) (s.journal 5 s.shep.active 0 0 0 0)).service
    else
      let s := match s.shep.update with
        | some (addr, done) => ({ s with shep := { s.shep with update := none, loaded := none } } : State).mgmtDone addr.toNat done 4
        | none => s
      if s.shep.standby then { s with shep := { s.shep with active := 1 - s.shep.active, standby := false, taking := true } }
      else { s with shep := { s.shep with dead := true } })

end Sys2Proof.Machine
end

