-- ==== Sys2Proof/Machine/Boot.lean ====
section
/-! DEFINITION. Boot, fuses and attestation (R409 to R416), the debug halt and the Sitter (R370), power (R417). -/
namespace Sys2Proof.Machine

/-! ### Boot (R409, R410) -/

/-- The firmware bundle of a slot is accepted: both of its images are (R410). -/
def Boot.accepts (b : Boot) (f : FlashSlot) : Bool := b.takesImage b.shepsvn f.shep && b.takesImage b.syssvn f.sys

/-- The slot that stages 2 and 3 end with: its number, and the stage at which it fails, 0 for none. -/
def Boot.slot (b : Boot) : List (Nat × FlashSlot) → Nat × Nat
  | [] => (0, 2)
  | (n, f) :: fs =>
    if f.readable && b.accepts f then (n, 0)
    else if fs.isEmpty then (n, if f.readable then 3 else 2)
    else b.slot fs

/-- The stages 1 to 5 (R409): the new boot state, and the complex that is active. -/
def Boot.run (b : Boot) : Boot × Nat :=
  if !b.lpddr then ({ b with stage := 1, failed := 1 }, 0)
  else
    let r := b.slot ((List.range b.flash.length).zip b.flash)
    if r.2 != 0 then ({ b with stage := r.2, failed := r.2 }, 0)
    else
      let b : Boot := { b with slot1 := r.1 == 1 }
      if b.complex0 then ({ b with stage := 5 }, 0)
      else if b.complex1 then ({ b with stage := 5 }, 1)
      else ({ b with stage := 4, failed := 4 }, 0)

/-- Run the stages (R409). Stage 5 trains the links that are enabled. -/
def State.runBoot (s : State) : State :=
  let r := s.boot.run
  let s : State := { s with boot := r.1, shep := { s.shep with active := r.2, standby := s.boot.complex0 && s.boot.complex1 } }
  if r.1.stage = 5 then (List.range 12).foldl (fun s n => if (s.link n).enable then s.enableLink n else s) s else s

/-- BOOT (R409): the stages run once, from reset. -/
def execBoot (s : State) : Host.Outcome State Fault Refusal := .next (if s.boot.stage != 0 then s else s.runBoot)

/-- The device stays in recovery (R409): both slots failed, or no complex started. -/
def Boot.recovery (b : Boot) : Bool := b.failed ≥ 2

/-- A store of the host to BAR0 in recovery (R409): it may be the last of a bundle, which stands in the place of slot 0 and boots as the
flash does; how a bundle is handed over is not stated (assumption 65). -/
def State.recoverBundle (s : State) : State :=
  if s.boot.recovery && Config.freeBool s.ticks 409 0 then
    let x : FlashSlot := ⟨true, Config.loadedImage s.ticks 0, Config.loadedImage s.ticks 1⟩
    ({ s with boot := { s.boot with failed := 0, slot1 := false, flash := [x] } } : State).runBoot
  else s

/-- Stage 6 (R409): the operating system has written MGMTRING and JOURNAL. -/
def State.stage6 (s : State) : State :=
  if s.boot.stage = 5 && s.host.journal != 0 && s.host.mgmtring != 0 then { s with boot := { s.boot with stage := 6 } } else s

/-! ### Fuses and attestation (R415, R416) -/

/-- Raise a fuse counter (R415). -/
def Boot.fuse (b : Boot) (v : DWord) : Boot :=
  let n := (v.extractLsb' 2 7).toNat
  if n > 64 then b
  else match (v.extractLsb' 0 2).toNat with
    | 0 => { b with shepsvn := max b.shepsvn n }
    | 1 => { b with syssvn := max b.syssvn n }
    | 2 => { b with codesvn := max b.codesvn n }
    | _ => b

/-- FUSEREQ (R415). -/
def execFusereq (value : BitVec 64) (s : State) : Host.Outcome State Fault Refusal := .next { s with boot := s.boot.fuse value }

/-- The bundle that the device has booted from. -/
def Boot.slotOf (b : Boot) : FlashSlot :=
  b.flash.getD (if b.slot1 then 1 else 0) ⟨false, Config.flashImage b.slot1 false, Config.flashImage b.slot1 true⟩

/-- The SM3 digest of the running Shepherd image (R397, R416). -/
def State.shepDigest (s : State) : BitVec 256 := s.shep.image.getD s.boot.slotOf.shep.digest

/-- Bytes 0 to 127 of a report (R416). -/
def State.reportBody (s : State) (nonce : Nat) : List Byte :=
  bytesOf 32 nonce ++ bytesOf 32 s.shepDigest.toNat ++ bytesOf 32 s.boot.slotOf.sys.digest.toNat
    ++ bytesOf 8 s.host.caps.toNat ++ bytesOf 8 (s.boot.shepsvn + 256 * s.boot.syssvn + 65536 * s.boot.codesvn)
    ++ bytesOf 8 s.host.idreg.toNat ++ bytesOf 8 s.boot.stat.toNat

/-- ATTEST (R416): Shepherd writes the report and clears ATTEST, once boot has started it (R409). -/
def execAttest (s : State) : Host.Outcome State Fault Refusal :=
  .next (
    if s.host.attest == 0 || !s.shepherding || !s.boot.started then s
    else
      let a := paOffset s.host.attest.toNat
      let (s, nonce) := s.physRead a 32
      let (s, buf) := s.physRead (a + 32) 8
      let body := s.reportBody nonce
      let s := s.physWrite (paOffset buf) 128 (ofBytes body)
      let s := s.physWrite (paOffset buf + 128) 64 (Config.deviceSignature (Config.sm3 body)).toNat
      { s with host := { s.host with attest := 0 } })

/-! ### The debug halt (R370) -/

/-- HALT is written 1: the partitions, Shepherd and the system cores stop, and the Sitter answers while it is enabled. -/
def State.halt (s : State) : State :=
  if s.host.halted then s else { s with host := { s.host with halted := true, answering := s.host.sitter.getLsbD 7 } }

/-- HALT is written 0: the device goes on from where it stopped. -/
def State.unhalt (s : State) : State := { s with host := { s.host with halted := false, answering := false } }

/-- DEBUG_HALT (R370). -/
def execDebugHalt (s : State) : Host.Outcome State Fault Refusal := .next s.halt

/-- DEBUG_RESUME (R370). -/
def execDebugResume (s : State) : Host.Outcome State Fault Refusal := .next s.unhalt

/-- SITTER_EXPIRY (R370): the Sitter stops answering. -/
def execSitterExpiry (s : State) : Host.Outcome State Fault Refusal :=
  .next { s with host := { s.host with answering := false } }

/-! ### Power (R417) -/

/-- A clock one step lower, to no lower than 1.2 GHz. -/
def slower (mhz : Nat) : Nat := max 1200 (mhz - 75)

/-- A clock one step higher, up to 2.25 GHz. -/
def faster (mhz : Nat) : Nat := min 2250 (mhz + 75)

/-- POWER_SAMPLE (R417): the average power of the last millisecond. -/
def execPowerSample (watts : BitVec 16) (s : State) : Host.Outcome State Fault Refusal :=
  .next { s with power := ⟨watts,
    if watts > 2400 then s.power.mhz.map slower else if watts < 2300 then s.power.mhz.map faster else s.power.mhz, true⟩ }

/-- THERMAL_LIMIT (R417). -/
def execThermalLimit (die : Nat) (s : State) : Host.Outcome State Fault Refusal :=
  .next { s with power := { s.power with mhz := s.power.mhz.modify die slower } }

end Sys2Proof.Machine
end

