-- ==== Sys2Proof/Machine/Level.lean ====
section
/-! DEFINITION. The level words: lvidx, lvext (R191), lvred (R195), lvbar, lvend (R189, R190), lvshare, lvcarry (R193), lvlead
(R196). -/
namespace Sys2Proof.Machine

/-- A level word that gives each issued lane a value, or the trap LEVEL_USE. -/
def State.levelValue (s : State) (dst : List (Nat × Tag)) (f : Nat → Option (List (Nat × Reg))) : State :=
  s.meetAll false [] [] (s.laneFate ⟨[], dst⟩ (fun l => match f l with
    | some ws => .done ws 0
    | none => .trap (TrapInfo.of causeLevelUse)))

/-- LVIDX (R191). -/
def execLvidx (d : BitVec 6) (k : BitVec 2) (s : State) : Host.Outcome State Fault Refusal :=
  s.word (.lvidx d k) (fun s => s.levelValue (dst d false .int) (fun l =>
    some (put d (BitVec.ofNat 32 (s.levelIndex s.cur.bundle l k.toNat)) .int)))

/-- LVEXT (R191). -/
def execLvext (d : BitVec 6) (k : BitVec 2) (s : State) : Host.Outcome State Fault Refusal :=
  s.word (.lvext d k) (fun s => s.levelValue (dst d false .int) (fun _ =>
    some (put d (BitVec.ofNat 32 ((s.bundleLaunch s.cur.bundle).extent k.toNat)) .int)))

/-- The slots of level k that a thread has used in its current iteration (R195). -/
def Thread.slotsUsed (t : Thread) (k : Nat) : Nat := (t.slots.filter (fun z => z.k == k && z.iter == t.counter k)).length

/-- LVRED (R195): d, a, level k, fn f. -/
def execLvred (d a : BitVec 6) (k : BitVec 2) (f : BitVec 3) (h : BitVec 1) (s : State) : Host.Outcome State Fault Refusal :=
  s.word (.lvred d a k f h) (fun s =>
    let b := s.cur.bundle
    let o := RedOp.ofFn f.toNat
    let fate := s.laneFate ⟨[src a false (if o.isFloat then .f32 else .int), srcN d 1 .unchecked], []⟩ (fun l =>
      if (s.thread b l).slotsUsed k.toNat ≥ 4 then .trap (TrapInfo.of causeLevelUse) else .done [] 0)
    let slotOf (l : Nat) : LvSlot :=
      let t := s.thread b l
      ⟨k.toNat, t.slotsUsed k.toNat, f.toNat, d.toNat, t.counter k.toNat,
        if s.leads b l k.toNat then s.v32 l a else o.identity⟩
    let s' := s.mapLanes (fun l t =>
      if s.isActive l && fate l == .done [] 0 then { t with slots := t.slots ++ [slotOf l] } else t)
    s'.meetAll false [] [] fate)

/-- A fall-through that does not wait (R189): the lane's own reductions are delivered in the order of R195, its counter is
reset, and an `lvbar` fences. -/
def State.fallThrough (s : State) (b l k : Nat) (isBar : Bool) : State :=
  let la := s.bundleLaunch b
  let role := la.role k
  let vs := s.combineLevel (s.laneContributions b l k) k role (la.extent k)
  let s := (s.modBundle b (fun x => x.deliverLane l k vs)).modThread b l (fun t => (t.setCounter k 0).advance t.pc)
  if isBar then s.fenceThread b l (fullFence (role == .team)) else s

/-- One lane of `lvbar` or `lvend` (R189, R190, R226): it loops back, falls through, or waits. -/
def State.levelLane (s : State) (isBar : Bool) (k : Nat) (target : DWord) (l : Nat) : State :=
  let b := s.cur.bundle
  let t := s.thread b l
  let la := s.bundleLaunch b
  let r := s.levelBar b k
  if t.counter k + 1 < la.localCount k (s.unit b l k) then
    s.modThread b l (fun t => (t.setCounter k (t.counter k + 1)).goto target)
  else if !((la.role k).parallel && (isBar || la.code.hasRed k)) then s.fallThrough b l k isBar
  else
    let s := if t.pendingAt r then s else
      let g := (s.bar r).gen
      (s.arriveLanes r b [l]).modThread b l (fun t => { t with pwait := some ⟨r.isPack, r.num, g⟩ })
    let g := ((s.thread b l).pwait.map (·.gen)).getD 0
    if genPending g (s.bar r).gen then s.modThread b l (fun t => { t with st := .waiting (.level k isBar) })
    else
      let s := (s.modBundle b (fun x => x.deliverLane l k [])).modThread b l (fun t => (t.setCounter k 0).passBarrier r)
      let s := s.acquireThread b l 0xFFFF
      if isBar then s.fenceThread b l (fullFence r.isPack) else s

/-- The monitor whose trip (R300) parks a lane that comes to its level wait again once the generation has been released (R226). -/
def State.levelDrift (s : State) (isBar : Bool) (k : Nat) (r : BarRef) (b l : Nat) : Option Nat :=
  let t := s.thread b l
  let la := s.bundleLaunch b
  if t.counter k + 1 < la.localCount k (s.unit b l k) || !((la.role k).parallel && (isBar || la.code.hasRed k)) || !t.pendingAt r then none else
  (s.thread b l).pwait.bind (fun w => if genPending w.gen (s.bar r).gen then none else (s.bar r).tripped w.gen)

/-- `lvbar` and `lvend`: an offset that is not negative is LEVEL_USE. -/
def State.levelEnd (s : State) (isBar : Bool) (k : BitVec 2) (o : BitVec 20) : State :=
  if !o.getLsbD 19 then s.trapIssued (TrapInfo.of causeLevelUse) else
  let target := s.cur.pc + (o.signExtend 64) * 4
  let b := s.cur.bundle
  let r := s.levelBar b k.toNat
  let drift := s.issued.filterMap (fun l => (s.levelDrift isBar k.toNat r b l).map (fun m => (l, m)))
  ((s.issued.foldl (fun s l => s.levelLane isBar k.toNat target l) s).parkDrift b drift).settleBar r s.cur.pc

/-- LVBAR (R189). -/
def execLvbar (k : BitVec 2) (o : BitVec 20) (s : State) : Host.Outcome State Fault Refusal :=
  s.word (.lvbar k o) (fun s => s.levelEnd true k o)

/-- LVEND (R189). -/
def execLvend (k : BitVec 2) (o : BitVec 20) (s : State) : Host.Outcome State Fault Refusal :=
  s.word (.lvend k o) (fun s => s.levelEnd false k o)

/-- LVSHARE (R193). -/
def execLvshare (d : BitVec 6) (n : BitVec 8) (s : State) : Host.Outcome State Fault Refusal :=
  s.word (.lvshare d n) (fun s => s.levelValue (dst d true .w64) (fun l =>
    if n.toNat < (s.bundleLaunch s.cur.bundle).code.shares.length then
      some (put2 d (s.shareAddr s.cur.bundle l n.toNat) .w64)
    else none))

/-- LVCARRY (R193). -/
def execLvcarry (d : BitVec 6) (k : BitVec 2) (s : State) : Host.Outcome State Fault Refusal :=
  s.word (.lvcarry d k) (fun s => s.levelValue (dst d true .w64) (fun l =>
    if (s.bundleLaunch s.cur.bundle).code.carryBytes k.toNat = 0 then none
    else some (put2 d (s.carryAddr s.cur.bundle l k.toNat) .w64)))

/-- LVLEAD (R196). -/
def execLvlead (m : BitVec 3) (k : BitVec 2) (s : State) : Host.Outcome State Fault Refusal :=
  s.word (.lvlead m k) (fun s =>
    let v := s.issued.foldl (fun v l => setBit v l (s.leads s.cur.bundle l k.toNat)) (s.readM m.toNat)
    (s.writeM m.toNat v).advanceAll)

end Sys2Proof.Machine
end

