-- ==== Sys2Proof/Machine/Port.lean ====
section
/-! DEFINITION. The Ethernet port engines (R405 to R407), writes of the device windows (R398, R399, R401, R402), and the PCIe port
(R408). -/
namespace Sys2Proof.Machine

/-! ### Ethernet (R405 to R407) -/

/-- Replace a ring block. -/
def EthPort.setRing (p : EthPort) (r : EthRing) : EthPort := { p with rings := r :: p.rings.filter (fun x => x.num != r.num) }

/-- Change a ring block of a port. -/
def State.modRing (s : State) (port ring : Nat) (f : EthRing → EthRing) : State :=
  { s with eth := s.eth.modify port (fun p => p.setRing (f (p.ring ring))) }

/-- A store to a doorbell sets PROD (R405). -/
def State.ethDoorbell (s : State) (port ring : Nat) (v : Word) : State :=
  if ring < 128 then s.modRing port ring (fun r => { r with prod := v }) else s

/-- ETH_DOORBELL (R405). -/
def execEthDoorbell (port ring : Nat) (value : BitVec 32) (s : State) : Host.Outcome State Fault Refusal :=
  .next (s.ethDoorbell port ring value)

/-- A ring of a valid size (R405). -/
def EthRing.sized (r : EthRing) : Bool := isPow2 r.size.toNat && 64 ≤ r.size && r.size ≤ 65536

/-- The address of the next entry of a work ring, whose entries have 32 bytes. -/
def EthRing.head (r : EthRing) : Nat := paOffset (r.base.toNat + 32 * (r.cons.toNat % r.size.toNat))

/-- The work ring holds an entry, and its completion ring has room. -/
def EthPort.canWork (p : EthPort) (work : Nat) (kind : Byte) : Bool :=
  let r := p.ring work
  let c := p.ring r.cq.toNat
  work < 64 && r.kind == kind && r.sized && r.prod != r.cons
    && 64 ≤ r.cq && r.cq < 128 && c.kind == 2 && c.sized && (c.prod - c.cons) < c.size

/-- Write a completion entry (R406), then advance PROD of its ring. -/
def State.ethComplete (s : State) (port cq : Nat) (index : Word) (qpn : Nat) (status : BitVec 7) (count imm : Word) : State :=
  let c := (s.ethPort port).ring cq
  let a := paOffset (c.base.toNat + 16 * (c.prod.toNat % c.size.toNat))
  let phase := 1 - c.prod.toNat / c.size.toNat % 2
  let v := index.toNat + qpn * 2 ^ 32 + status.toNat * 2 ^ 56 + phase * 2 ^ 63 + count.toNat * 2 ^ 64 + imm.toNat * 2 ^ 96
  (s.physWrite a 16 v).modRing port cq (fun r => { r with prod := r.prod + 1 })

/-- A port engine reads bytes of memory as an outside requester (R241, R406). -/
def State.ethRead (s : State) (addr n : Nat) : State := (List.range n).foldl (fun s i => (s.outsideRead none (addr + i) 1).1) s

/-- ETH_COMPLETION (R406): the engine finishes the entry at CONS of a send ring. It reads the buffer that it sends, or the operands of an
atomic; a READ or an atomic that succeeds writes the remote peer's data at ADDR, which is not in this state. -/
def execEthCompletion (port work : Nat) (status : BitVec 7) (count imm : BitVec 32) (s : State) : Host.Outcome State Fault Refusal :=
  .next (
    let p := s.ethPort port
    if s.host.halted || port ≥ s.eth.length || !p.canWork work 0 then s
    else
      let r := p.ring work
      let (s, v) := s.physRead r.head 32
      let addr := paOffset (fieldAt v 0 8)
      let op := fieldAt v 15 1
      let s := s.ethRead addr (if op ≤ 3 then fieldAt v 8 4 else if op = 5 || op = 6 then 16 else 0)
      let n := if status != 0 then 0 else if op = 4 then fieldAt v 8 4 else if op = 5 || op = 6 then 8 else 0
      let s := (List.range n).foldl (fun s i => s.outsideWrite none (addr + i) [Config.freeByte s.ticks 73 i]) s
      let s := s.modRing port work (fun x => { x with cons := x.cons + 1 })
      if bitsAt (fieldAt v 28 4) 0 1 = 1 then s.ethComplete port r.cq.toNat r.cons (fieldAt v 12 3) status count imm else s)

/-- ETH_FRAME_RECEIVE (R406): a frame or message of a queue pair goes to the entry at CONS of a receive ring, where that is one of the
queue pair; one longer than LEN ends with an error code that is not stated. -/
def execEthFrameReceive (port work : Nat) (qpn : BitVec 24) (frame : List (BitVec 8)) (imm : BitVec 32) (s : State) :
    Host.Outcome State Fault Refusal :=
  .next (
    let p := s.ethPort port
    if s.host.halted || !p.up || !p.canWork work 1 then s
    else
      let r := p.ring work
      let (s, v) := s.physRead r.head 32
      let addr := paOffset (fieldAt v 0 8)
      if fieldAt v 12 3 != qpn.toNat then s else
      let bs := frame.take (fieldAt v 8 4)
      let s := (bs.zip (List.range bs.length)).foldl (fun s b => s.outsideWrite none (addr + b.2) [b.1]) s
      let status : BitVec 7 := if bs.length = frame.length then 0
        else BitVec.ofNat 7 (1 + (Config.freeWord s.ticks 74 0).toNat % 127)
      let s := s.modRing port work (fun x => { x with cons := x.cons + 1 })
      s.ethComplete port r.cq.toNat r.cons qpn.toNat status (BitVec.ofNat 32 bs.length) imm)

/-- ETH_LINK_CHANGE (R407). -/
def execEthLinkChange (port : Nat) (up : Bool) (s : State) : Host.Outcome State Fault Refusal :=
  .next { s with eth := s.eth.modify port (fun p => { p with up := up }) }

/-! ### Writes of the device windows -/

/-- A write of a port engine's block (R405): the ring blocks, and the doorbells above them. Software writes PROD of a work ring
and CONS of a completion ring. -/
def State.writePort (s : State) (port o : Nat) (v : DWord) : State :=
  if 0x100 ≤ o && o < 0x1100 then
    let n := (o - 0x100) / 32
    let k := (o - 0x100) % 32
    s.modRing port n (fun r =>
      if k = 0 then { r with base := v }
      else if k = 8 then { r with size := v.setWidth 32, kind := v.extractLsb' 32 8, cq := v.extractLsb' 40 8 }
      else if k = 16 then (if n < 64 then { r with prod := v.setWidth 32 } else { r with cons := v.extractLsb' 32 32 })
      else r)
  else if 0x2000 ≤ o && o < 0x2400 then s.ethDoorbell port ((o - 0x2000) / 8) (v.setWidth 32)
  else s

/-- SITTER after a write (R399): 0 seconds takes 1, and more than 120 takes 120. -/
def sitterValue (v : DWord) : BitVec 8 :=
  let n := (v.extractLsb' 0 7).toNat
  BitVec.ofNat 8 ((if n = 0 then 1 else min n 120) + (if v.getLsbD 7 then 128 else 0))

/-- A write of the host register window (R399). A store to ATTEST starts the request, which Shepherd answers. -/
def State.writeHost (s : State) (o : Nat) (v : DWord) : State :=
  if o = 0x018 then ({ s with host := { s.host with journal := v } } : State).stage6
  else if o = 0x020 then ({ s with host := { s.host with mgmtring := v } } : State).stage6
  else if o = 0x028 then { s with host := { s.host with keytab := v } }
  else if o = 0x030 then { s with host := { s.host with sitter := sitterValue v } }
  else if o = 0x038 then (if v.getLsbD 0 then s.halt else s.unhalt)
  else if o = 0x040 then { s with boot := s.boot.fuse v }
  else if o = 0x050 then { s with host := { s.host with attest := v } }
  else s

/-- A write of the interrupt controller's block (R330, R398). -/
def State.writeIntc (s : State) (o : Nat) (v : DWord) : State :=
  if o < 192 then { s with intc := { s.intc with ringdesc := s.intc.ringdesc.set (o / 8) v } }
  else if 0x100 ≤ o && o < 0x1C0 then
    let ring := (o - 0x100) / 8
    if v.getLsbD 32 then s.resumeDeliver ring (v.setWidth 32).toNat else s.resumeReplay ring (v.setWidth 32).toNat
  else if o = 0x200 then
    let kind := (v.extractLsb' 0 2).toNat
    if kind = 3 then s else s.tlbRequest ⟨kind, v.extractLsb' 16 16, s.intc.tlbva⟩
  else if o = 0x208 then { s with intc := { s.intc with tlbva := v } }
  else s

/-- A write of LNKCTL (R401): THRESH, RESET, RETRAIN, ENABLE. An absent link ignores it (R400). -/
def State.writeLink (s : State) (n : Nat) (v : DWord) : State :=
  if !s.linkPresent n then s
  else
    let t : BitVec 16 := v.extractLsb' 8 16
    let s := s.modLink n (fun l => { l with thresh := if t == 0 then 1 else t, enable := v.getLsbD 0 })
    let s := if v.getLsbD 1 then s.resetLink n else s
    let s := if v.getLsbD 2 then s.retrainLink n else s
    if v.getLsbD 0 && s.boot.stage ≥ 5 then s.enableLink n else s

/-- An aligned store of 8 bytes to the device windows (R398), at an offset from 0x7C0_0000_0000. -/
def State.writeRegister (s : State) (o : Nat) (v : DWord) : State :=
  if o % 8 != 0 then s
  else if o < 0x10000 then s.writeHost o v
  else if o < 0x18000 then s.ringDoorbell ((o - 0x10000) / 8)
  else if 0x20000 ≤ o && o < 0x30000 then s.writeIntc (o - 0x20000) v
  else if 0x30000 ≤ o && o < 0x40000 then
    { s with intc := { s.intc with steer := (List.range 8).foldl (fun t i =>
        setKey (o - 0x30000 + i) (v.extractLsb' (8 * i) 8) t) s.intc.steer } }
  else if 0x40000 ≤ o && o < 0x60000 then s.writePort ((o - 0x40000) / 0x10000) (o % 0x10000) v
  else if 0x100000 ≤ o && o < 0x100400 then
    { s with route := (List.range 4).foldl (fun t i =>
        setKey ((o - 0x100000) / 2 + i) ((v.extractLsb' (16 * i) 16) &&& 0xFFF) t) s.route }
  else if 0x110000 ≤ o && o < 0x11C000 && o % 0x1000 = 8 then s.writeLink ((o - 0x110000) / 0x1000) v
  else s

/-- REGISTER_WRITE (R398). -/
def execRegisterWrite (offset : BitVec 39) (value : BitVec 64) (s : State) : Host.Outcome State Fault Refusal :=
  .next (s.writeRegister offset.toNat value)

/-- The stores to the device windows that this step made reach their registers, in order (R398). -/
def State.flushRegisters (s : State) : State :=
  s.regwrites.foldl (fun s w => s.writeRegister w.1.toNat w.2) { s with regwrites := [] }

/-! ### PCIe (R408) -/

/-- PCIEROOT: the port is a root port (R3, R408). -/
def State.pcieRoot (s : State) : Bool := s.host.caps.getLsbD 14

/-- A host's or a controller's access to memory at a local offset, performed as an outside requester. -/
def State.pcieMemory (s : State) (store : Bool) (o size : Nat) (v : BitVec 128) : State :=
  let x : Foreign := ⟨if store then 1 else 0, 0, 0, size, v, 0⟩
  if s.boot.stage ≥ 5 && x.ok o && o < lpddrEnd then s.foreign x o else s

/-- A host's store to BAR0, the host register window (R399, R408), or a part of a bundle in recovery (R409). -/
def State.bar0 (s : State) (o size : Nat) (v : DWord) : State :=
  (if size = 8 && o % 8 = 0 && o < 0x10000 then s.writeHost o v else s).recoverBundle

/-- PCIE_HOST_ACCESS (R408): of an endpoint, BAR0 is the host register window, BAR2 the doorbells of HOST queues, BAR4 memory up to
512 GiB; of a root port, a controller reaches memory. -/
def execPcieHostAccess (store : Bool) (bar : BitVec 3) (offset : BitVec 64) (size : Nat) (value : BitVec 128) (s : State) :
    Host.Outcome State Fault Refusal :=
  .next (
    let o := offset.toNat
    if s.pcieRoot then s.pcieMemory store o size value
    else if bar == 0 then (if store then s.bar0 o size (value.setWidth 64) else s)
    else if bar == 2 then
      (if store && size = 8 && o % 8 = 0 && o < 0x8000 && ((s.queue? (o / 8)).map (·.host)).getD false then s.ringDoorbell (o / 8) else s)
    else if bar == 4 && o < 2 ^ 39 then s.pcieMemory store o size value
    else s)

end Sys2Proof.Machine
end

