-- ==== Sys2Proof/Machine/Uniform.lean ====
section
/-! DEFINITION. The uniform integer words (R145 to R147), the mask words (R110) and `ulane` (R111). -/
namespace Sys2Proof.Machine

/-- UADD (R145). -/
def execUadd (d a b : BitVec 6) (f : BitVec 6) (s : State) : Host.Outcome State Fault Refusal :=
  s.word (.uadd d a b f) (fun s =>
    if f == 1 then s.uni2 d a b true .int .w64 (out64 (s.u64 a + s.u64 b)) else s.uni2 d a b false .int .int (out32 (s.u32 a + s.u32 b)))

/-- USUB (R145). -/
def execUsub (d a b : BitVec 6) (f : BitVec 6) (s : State) : Host.Outcome State Fault Refusal :=
  s.word (.usub d a b f) (fun s =>
    if f == 1 then s.uni2 d a b true .int .w64 (out64 (s.u64 a - s.u64 b)) else s.uni2 d a b false .int .int (out32 (s.u32 a - s.u32 b)))

/-- UMUL (R145): f 0 .b32, 1 .b64, 2 mulh.i32, 3 mulh.n32. -/
def execUmul (d a b : BitVec 6) (f : BitVec 6) (s : State) : Host.Outcome State Fault Refusal :=
  s.word (.umul d a b f) (fun s =>
    if f == 1 then s.uni2 d a b true .int .w64 (out64 (s.u64 a * s.u64 b))
    else s.uni2 d a b false .int .int (out32 (if f == 0 then s.u32 a * s.u32 b else mulHigh (f == 3) (s.u32 a) (s.u32 b))))

/-- UMINMAX (R145). -/
def execUminmax (d a b : BitVec 6) (f : BitVec 6) (s : State) : Host.Outcome State Fault Refusal :=
  s.word (.uminmax d a b f) (fun s =>
    if f ≥ 4 then s.uni2 d a b true .int .w64 (out64 (minMax64 (f == 5) (s.u64 a) (s.u64 b)))
    else s.uni2 d a b false .int .int (out32 (minMax32 f.toNat (s.u32 a) (s.u32 b))))

/-- ULOGIC (R145); b is unused for `not`. -/
def execUlogic (d a b : BitVec 6) (f : BitVec 6) (s : State) : Host.Outcome State Fault Refusal :=
  s.word (.ulogic d a b f) (fun s =>
    if f == 6 then s.uni1 d a false .any .raw (out32 (~~~(s.u32 a)))
    else s.uni2 d a b false .any .raw (out32 (logicOp f.toNat (s.u32 a) (s.u32 b))))

/-- USHIFT (R145): b is one register. -/
def execUshift (d a b : BitVec 6) (f : BitVec 6) (s : State) : Host.Outcome State Fault Refusal :=
  s.word (.ushift d a b f) (fun s =>
    let wide := f ≥ 4
    let n := (s.u32 b).toNat
    let o := if wide then out64 (shift64 f.toNat (s.u64 a) n) else out32 (shift32 f.toNat (s.u32 a) n)
    s.uniWrites [src a wide .any, src b false .any] (o.writes d wide .raw))

/-- UBITS (R145). -/
def execUbits (d a : BitVec 6) (f : BitVec 6) (s : State) : Host.Outcome State Fault Refusal :=
  s.word (.ubits d a f) (fun s => s.uni1 d a false .any .raw (out32 (bitsOp f.toNat (s.u32 a))))

/-- UCMP (R146): condition c, type t; d is one register. -/
def execUcmp (d a b : BitVec 6) (c t : BitVec 3) (s : State) : Host.Outcome State Fault Refusal :=
  s.word (.ucmp d a b c t) (fun s =>
    let wide := t ≥ 2
    let r := compareInt c.toNat t.toNat (s.u32 a) (s.u32 b) (s.u64 a) (s.u64 b)
    s.uniWrites [src a wide .int, src b wide .int] (put d (if r then 1 else 0) .int))

/-- UMOV (R145). -/
def execUmov (d a : BitVec 6) (f : BitVec 6) (s : State) : Host.Outcome State Fault Refusal :=
  s.word (.umov d a f) (fun s =>
    let n := if f == 1 then 2 else 1
    s.uniWrites [srcN a n .any]
      (putN d.toNat ((List.range n).map (fun i => (s.readS s.cur.bundle (a.toNat + i)).moved))))

/-- ULI (R147). -/
def execUli (d : BitVec 6) (i : BitVec 18) (s : State) : Host.Outcome State Fault Refusal :=
  s.word (.uli d i) (fun s => s.uniWrites [] (put d (i.signExtend 32) .int))

/-- ULIH (R147): d is read. -/
def execUlih (d : BitVec 6) (i : BitVec 18) (s : State) : Host.Outcome State Fault Refusal :=
  s.word (.ulih d i) (fun s => s.uniWrites [src d false .any] (put d (highImm (s.u32 d) i) .int))

/-- UADDI (R147). -/
def execUaddi (d a : BitVec 6) (i : BitVec 12) (s : State) : Host.Outcome State Fault Refusal :=
  s.word (.uaddi d a i) (fun s => s.uni1 d a false .int .int (out32 (s.u32 a + imm12 i)))

/-! ### Masks (R110) -/

/-- The logical operation of two masks (R110, R121). -/
def maskOp (fn : Nat) (a b : BitVec 64) : BitVec 64 :=
  match fn with
  | 0 => a &&& b
  | 1 => a ||| b
  | 2 => a ^^^ b
  | 3 => a &&& ~~~b
  | 4 => a ||| ~~~b
  | 5 => ~~~(a ^^^ b)
  | _ => ~~~a

/-- MLOGIC (R110). -/
def execMlogic (d a b : BitVec 3) (f : BitVec 6) (s : State) : Host.Outcome State Fault Refusal :=
  s.word (.mlogic d a b f) (fun s => (s.writeM d.toNat (maskOp f.toNat (s.readM a.toNat) (s.readM b.toNat))).advanceAll)

/-- MPOPC (R110). -/
def execMpopc (d : BitVec 6) (a : BitVec 3) (s : State) : Host.Outcome State Fault Refusal :=
  s.word (.mpopc d a) (fun s => s.uniWrites [] (put d (BitVec.ofNat 32 (popCount (s.readM a.toNat) s.curB.w)) .int))

/-- MTOS (R110). -/
def execMtos (d : BitVec 6) (a : BitVec 3) (s : State) : Host.Outcome State Fault Refusal :=
  s.word (.mtos d a) (fun s => s.uniWrites [] (put2 d (s.readM a.toNat) .w64))

/-- STOM (R110). -/
def execStom (d : BitVec 3) (a : BitVec 6) (s : State) : Host.Outcome State Fault Refusal :=
  s.word (.stom d a) (fun s => s.uniWord [src a true .any] (fun s => (s.writeM d.toNat (s.u64 a)).advanceAll))

/-- The lowest lane below `w` of a mask, or 64 (R110). -/
def firstLane (m : BitVec 64) (w : Nat) : Nat := ((List.range w).find? m.getLsbD).getD 64

/-- MFIRST (R110). -/
def execMfirst (d : BitVec 6) (a : BitVec 3) (s : State) : Host.Outcome State Fault Refusal :=
  s.word (.mfirst d a) (fun s => s.uniWrites [] (put d (BitVec.ofNat 32 (firstLane (s.readM a.toNat) s.curB.w)) .int))

/-- The register that `ulane` reads (R111): a lane never created, or a register beyond its window, gives 0 tagged RAW. -/
def State.laneRegister (s : State) (l : Nat) (a : BitVec 6) : Reg :=
  match s.curB.threads[l]? with
  | some t => if t.inWindow a.toNat then s.readV s.cur.bundle l a.toNat else ⟨0, .raw⟩
  | none => ⟨0, .raw⟩

/-- ULANE (R111): a lane's register into a uniform register. -/
def execUlane (d a n : BitVec 6) (s : State) : Host.Outcome State Fault Refusal :=
  s.word (.ulane d a n) (fun s =>
    let r := s.laneRegister n.toNat a
    if s.tagCheck && r.tag == .empty then s.trapIssued (TrapInfo.atReg causeUninitRead false a.toNat)
    else if s.tagCheck && r.tag == .pend then s.trapIssued (TrapInfo.atReg causePendingTouch false a.toNat)
    else (s.writeS (putN d.toNat [r.moved])).advanceAll)

end Sys2Proof.Machine
end

