-- ==== Sys2Proof/Machine/Dispatch.lean ====
section
/-! DEFINITION. The meaning of every instruction and event: one arm for each row of the opcode table. -/
namespace Sys2Proof.Machine

/-- Execute one instruction or event. -/
def exec (i : Instr) (s : State) : Host.Outcome State Fault Refusal :=
  match i with
  | .add d a b f h => Sys2Proof.Machine.execAdd d a b f h s
  | .sub d a b f h => Sys2Proof.Machine.execSub d a b f h s
  | .mul d a b f h => Sys2Proof.Machine.execMul d a b f h s
  | .mulh d a b f h => Sys2Proof.Machine.execMulh d a b f h s
  | .mad d a b f h => Sys2Proof.Machine.execMad d a b f h s
  | .div d a b f h => Sys2Proof.Machine.execDiv d a b f h s
  | .rem d a b f h => Sys2Proof.Machine.execRem d a b f h s
  | .minmax d a b f h => Sys2Proof.Machine.execMinmax d a b f h s
  | .absneg d a f h => Sys2Proof.Machine.execAbsneg d a f h s
  | .logic d a b f h => Sys2Proof.Machine.execLogic d a b f h s
  | .shift d a b f h => Sys2Proof.Machine.execShift d a b f h s
  | .bits d a f h => Sys2Proof.Machine.execBits d a f h s
  | .bfx d a b f h => Sys2Proof.Machine.execBfx d a b f h s
  | .bfi d a b h => Sys2Proof.Machine.execBfi d a b h s
  | .cmp m c a b f h => Sys2Proof.Machine.execCmp m c a b f h s
  | .sel d a b f h => Sys2Proof.Machine.execSel d a b f h s
  | .mov d a f h => Sys2Proof.Machine.execMov d a f h s
  | .movs d a h => Sys2Proof.Machine.execMovs d a h s
  | .li d imm => Sys2Proof.Machine.execLi d imm s
  | .lih d imm => Sys2Proof.Machine.execLih d imm s
  | .addi d a imm => Sys2Proof.Machine.execAddi d a imm s
  | .fadd d a b f h => Sys2Proof.Machine.execFadd d a b f h s
  | .fsub d a b f h => Sys2Proof.Machine.execFsub d a b f h s
  | .fmul d a b f h => Sys2Proof.Machine.execFmul d a b f h s
  | .fma d a b f h => Sys2Proof.Machine.execFma d a b f h s
  | .fminmax d a b f h => Sys2Proof.Machine.execFminmax d a b f h s
  | .fabsneg d a f h => Sys2Proof.Machine.execFabsneg d a f h s
  | .fclass d a f h => Sys2Proof.Machine.execFclass d a f h s
  | .frnd d a f h => Sys2Proof.Machine.execFrnd d a f h s
  | .cvt d a f t => Sys2Proof.Machine.execCvt d a f t s
  | .fdiv d a b f h => Sys2Proof.Machine.execFdiv d a b f h s
  | .sfu d a f h => Sys2Proof.Machine.execSfu d a f h s
  | .sfd d a f h => Sys2Proof.Machine.execSfd d a f h s
  | .lgmul d a b h => Sys2Proof.Machine.execLgmul d a b h s
  | .lgdot d a b h => Sys2Proof.Machine.execLgdot d a b h s
  | .fscl d a b f h => Sys2Proof.Machine.execFscl d a b f h s
  | .smxa d a h => Sys2Proof.Machine.execSmxa d a h s
  | .smxb d a b f h => Sys2Proof.Machine.execSmxb d a b f h s
  | .tagset d a t => Sys2Proof.Machine.execTagset d a t s
  | .tagget d a h => Sys2Proof.Machine.execTagget d a h s
  | .shfl d a b f h => Sys2Proof.Machine.execShfl d a b f h s
  | .ballot m a h => Sys2Proof.Machine.execBallot m a h s
  | .red d a f h => Sys2Proof.Machine.execRed d a f h s
  | .scan d a f h => Sys2Proof.Machine.execScan d a f h s
  | .elect m => Sys2Proof.Machine.execElect m s
  | .lvidx d k => Sys2Proof.Machine.execLvidx d k s
  | .lvext d k => Sys2Proof.Machine.execLvext d k s
  | .lvred d a k f h => Sys2Proof.Machine.execLvred d a k f h s
  | .lvbar k o => Sys2Proof.Machine.execLvbar k o s
  | .lvend k o => Sys2Proof.Machine.execLvend k o s
  | .lvshare d n => Sys2Proof.Machine.execLvshare d n s
  | .lvcarry d k => Sys2Proof.Machine.execLvcarry d k s
  | .lvlead m k => Sys2Proof.Machine.execLvlead m k s
  | .br m xs o => Sys2Proof.Machine.execBr m xs o s
  | .call m xs o => Sys2Proof.Machine.execCall m xs o s
  | .jmp a => Sys2Proof.Machine.execJmp a s
  | .callr a => Sys2Proof.Machine.execCallr a s
  | .ret => Sys2Proof.Machine.execRet s
  | .enter o n => Sys2Proof.Machine.execEnter o n s
  | .exit => Sys2Proof.Machine.execExit s
  | .brw m xs o => Sys2Proof.Machine.execBrw m xs o s
  | .yield h => Sys2Proof.Machine.execYield h s
  | .nop => Sys2Proof.Machine.execNop s
  | .mark t => Sys2Proof.Machine.execMark t s
  | .cut d a t => Sys2Proof.Machine.execCut d a t s
  | .graft a b h => Sys2Proof.Machine.execGraft a b h s
  | .unmark t => Sys2Proof.Machine.execUnmark t s
  | .slshare a => Sys2Proof.Machine.execSlshare a s
  | .slfree a => Sys2Proof.Machine.execSlfree a s
  | .slinfo d a => Sys2Proof.Machine.execSlinfo d a s
  | .ld8s d a o q => Sys2Proof.Machine.execLd8s d a o q s
  | .ld8z d a o q => Sys2Proof.Machine.execLd8z d a o q s
  | .ld16s d a o q => Sys2Proof.Machine.execLd16s d a o q s
  | .ld16z d a o q => Sys2Proof.Machine.execLd16z d a o q s
  | .ld32 d a o q => Sys2Proof.Machine.execLd32 d a o q s
  | .ld64 d a o q => Sys2Proof.Machine.execLd64 d a o q s
  | .ld128 d a o q => Sys2Proof.Machine.execLd128 d a o q s
  | .st8 d a o q => Sys2Proof.Machine.execSt8 d a o q s
  | .st16 d a o q => Sys2Proof.Machine.execSt16 d a o q s
  | .st32 d a o q => Sys2Proof.Machine.execSt32 d a o q s
  | .st64 d a o q => Sys2Proof.Machine.execSt64 d a o q s
  | .st128 d a o q => Sys2Proof.Machine.execSt128 d a o q s
  | .atom d a p t q => Sys2Proof.Machine.execAtom d a p t q s
  | .atomr d a p t q => Sys2Proof.Machine.execAtomr d a p t q s
  | .prefetch a o q => Sys2Proof.Machine.execPrefetch a o q s
  | .await d a o q => Sys2Proof.Machine.execAwait d a o q s
  | .fence xs k l q => Sys2Proof.Machine.execFence xs k l q s
  | .xfence xs b c => Sys2Proof.Machine.execXfence xs b c s
  | .prefixWord c m e z r xs => Sys2Proof.Machine.execPrefixWord c m e z r xs s
  | .uadd d a b f => Sys2Proof.Machine.execUadd d a b f s
  | .usub d a b f => Sys2Proof.Machine.execUsub d a b f s
  | .umul d a b f => Sys2Proof.Machine.execUmul d a b f s
  | .uminmax d a b f => Sys2Proof.Machine.execUminmax d a b f s
  | .ulogic d a b f => Sys2Proof.Machine.execUlogic d a b f s
  | .ushift d a b f => Sys2Proof.Machine.execUshift d a b f s
  | .ubits d a f => Sys2Proof.Machine.execUbits d a f s
  | .ucmp d a b c t => Sys2Proof.Machine.execUcmp d a b c t s
  | .umov d a f => Sys2Proof.Machine.execUmov d a f s
  | .uli d imm => Sys2Proof.Machine.execUli d imm s
  | .ulih d imm => Sys2Proof.Machine.execUlih d imm s
  | .uaddi d a imm => Sys2Proof.Machine.execUaddi d a imm s
  | .mlogic d a b f => Sys2Proof.Machine.execMlogic d a b f s
  | .mpopc d a => Sys2Proof.Machine.execMpopc d a s
  | .mtos d a => Sys2Proof.Machine.execMtos d a s
  | .stom d a => Sys2Proof.Machine.execStom d a s
  | .mfirst d a => Sys2Proof.Machine.execMfirst d a s
  | .ulane d a n => Sys2Proof.Machine.execUlane d a n s
  | .uld32 d a o q => Sys2Proof.Machine.execUld32 d a o q s
  | .uld64 d a o q => Sys2Proof.Machine.execUld64 d a o q s
  | .ust32 d a o q => Sys2Proof.Machine.execUst32 d a o q s
  | .ust64 d a o q => Sys2Proof.Machine.execUst64 d a o q s
  | .rgrow n => Sys2Proof.Machine.execRgrow n s
  | .rgrowTry d n => Sys2Proof.Machine.execRgrowTry d n s
  | .rshrink n => Sys2Proof.Machine.execRshrink n s
  | .cpy d a => Sys2Proof.Machine.execCpy d a s
  | .mmpost d a => Sys2Proof.Machine.execMmpost d a s
  | .mmfence => Sys2Proof.Machine.execMmfence s
  | .twait a => Sys2Proof.Machine.execTwait a s
  | .coll d a => Sys2Proof.Machine.execColl d a s
  | .stamp c => Sys2Proof.Machine.execStamp c s
  | .smapRw d a b q => Sys2Proof.Machine.execSmapRw d a b q s
  | .smapRo d a b q => Sys2Proof.Machine.execSmapRo d a b q s
  | .smapScratch d b => Sys2Proof.Machine.execSmapScratch d b s
  | .sunmap a => Sys2Proof.Machine.execSunmap a s
  | .sflush a b => Sys2Proof.Machine.execSflush a b s
  | .sinv a b => Sys2Proof.Machine.execSinv a b s
  | .sstat d a xs => Sys2Proof.Machine.execSstat d a xs s
  | .binit a l n => Sys2Proof.Machine.execBinit a l n s
  | .barrive d l n => Sys2Proof.Machine.execBarrive d l n s
  | .bwait a l n => Sys2Proof.Machine.execBwait a l n s
  | .bsync l n => Sys2Proof.Machine.execBsync l n s
  | .bpay d a p l n => Sys2Proof.Machine.execBpay d a p l n s
  | .hcfg a m => Sys2Proof.Machine.execHcfg a m s
  | .href a m => Sys2Proof.Machine.execHref a m s
  | .hrd d a m => Sys2Proof.Machine.execHrd d a m s
  | .harm a m => Sys2Proof.Machine.execHarm a m s
  | .hchk d m => Sys2Proof.Machine.execHchk d m s
  | .vstat d xs => Sys2Proof.Machine.execVstat d xs s
  | .nlaunch a => Sys2Proof.Machine.execNlaunch a s
  | .sigw a => Sys2Proof.Machine.execSigw a s
  | .trap n => Sys2Proof.Machine.execTrap n s
  | .bkpt => Sys2Proof.Machine.execBkpt s
  | .rett => Sys2Proof.Machine.execRett s
  | .srd d r => Sys2Proof.Machine.execSrd d r s
  | .swr a r => Sys2Proof.Machine.execSwr a r s
  | .icinv a xs => Sys2Proof.Machine.execIcinv a xs s
  | .icinvAll xs => Sys2Proof.Machine.execIcinvAll xs s
  | .tlbinvAll => Sys2Proof.Machine.execTlbinvAll s
  | .tlbinvAsid b => Sys2Proof.Machine.execTlbinvAsid b s
  | .tlbinvVa a b => Sys2Proof.Machine.execTlbinvVa a b s
  | .hlrd d a c => Sys2Proof.Machine.execHlrd d a c s
  | .hlwr d a b c => Sys2Proof.Machine.execHlwr d a b c s
  | .fstatWrite bundle lanes value => Sys2Proof.Machine.execFstatWrite bundle lanes value s
  | .bstatWrite bundle value => Sys2Proof.Machine.execBstatWrite bundle value s
  | .tagmodeWrite asid value => Sys2Proof.Machine.execTagmodeWrite asid value s
  | .leashWrite asid value => Sys2Proof.Machine.execLeashWrite asid value s
  | .streamcfgWrite asid n value => Sys2Proof.Machine.execStreamcfgWrite asid n value s
  | .hentryWrite asid value => Sys2Proof.Machine.execHentryWrite asid value s
  | .injectWrite asid value => Sys2Proof.Machine.execInjectWrite asid value s
  | .completionFlagClear bundle op => Sys2Proof.Machine.execCompletionFlagClear bundle op s
  | .leashRotate bundle => Sys2Proof.Machine.execLeashRotate bundle s
  | .leashTurnEnd bundle => Sys2Proof.Machine.execLeashTurnEnd bundle s
  | .rgrowGrant place sub => Sys2Proof.Machine.execRgrowGrant place sub s
  | .memoryAccessPerformed bundle lane item => Sys2Proof.Machine.execMemoryAccessPerformed bundle lane item s
  | .awaitReread bundle lane => Sys2Proof.Machine.execAwaitReread bundle lane s
  | .stashFillArrives team window line => Sys2Proof.Machine.execStashFillArrives team window line s
  | .stashRecall team window line store => Sys2Proof.Machine.execStashRecall team window line store s
  | .stashWritebackAck team window line => Sys2Proof.Machine.execStashWritebackAck team window line s
  | .stashWritebackTimeout team window line => Sys2Proof.Machine.execStashWritebackTimeout team window line s
  | .uncorrectableError team window line => Sys2Proof.Machine.execUncorrectableError team window line s
  | .engineCommandQueued bundle => Sys2Proof.Machine.execEngineCommandQueued bundle s
  | .copyStart cmd => Sys2Proof.Machine.execCopyStart cmd s
  | .copyDone cmd => Sys2Proof.Machine.execCopyDone cmd s
  | .matrixTurn cmd => Sys2Proof.Machine.execMatrixTurn cmd s
  | .matrixDone cmd => Sys2Proof.Machine.execMatrixDone cmd s
  | .collectiveDone cmd result flags => Sys2Proof.Machine.execCollectiveDone cmd result flags s
  | .teamPlaced pack origin => Sys2Proof.Machine.execTeamPlaced pack origin s
  | .teamPublish team => Sys2Proof.Machine.execTeamPublish team s
  | .teamKill team cause => Sys2Proof.Machine.execTeamKill team cause s
  | .pageWalkComplete asid va store => Sys2Proof.Machine.execPageWalkComplete asid va store s
  | .pageFaultRecordPost ticket => Sys2Proof.Machine.execPageFaultRecordPost ticket s
  | .resumeReplay ring ticket => Sys2Proof.Machine.execResumeReplay ring ticket s
  | .resumeDeliver ring ticket => Sys2Proof.Machine.execResumeDeliver ring ticket s
  | .tlbreqAll => Sys2Proof.Machine.execTlbreqAll s
  | .tlbreqAsid asid => Sys2Proof.Machine.execTlbreqAsid asid s
  | .tlbreqVa asid va => Sys2Proof.Machine.execTlbreqVa asid va s
  | .handlerEventStart bundle => Sys2Proof.Machine.execHandlerEventStart bundle s
  | .step bundle => Sys2Proof.Machine.execStep bundle s
  | .whistleRaise asid part => Sys2Proof.Machine.execWhistleRaise asid part s
  | .whistleDeadline asid part => Sys2Proof.Machine.execWhistleDeadline asid part s
  | .contextSaveDone asid part => Sys2Proof.Machine.execContextSaveDone asid part s
  | .kennelEvict asid part => Sys2Proof.Machine.execKennelEvict asid part s
  | .kennelStage asid part target => Sys2Proof.Machine.execKennelStage asid part target s
  | .contextResume asid part target => Sys2Proof.Machine.execContextResume asid part target s
  | .restoreDone asid part badTeams => Sys2Proof.Machine.execRestoreDone asid part badTeams s
  | .doorbell qid => Sys2Proof.Machine.execDoorbell qid s
  | .kickService qid => Sys2Proof.Machine.execKickService qid s
  | .launch qid => Sys2Proof.Machine.execLaunch qid s
  | .barrierAnd qid => Sys2Proof.Machine.execBarrierAnd qid s
  | .barrierOr qid => Sys2Proof.Machine.execBarrierOr qid s
  | .signal qid => Sys2Proof.Machine.execSignal qid s
  | .nopPacket qid => Sys2Proof.Machine.execNopPacket qid s
  | .signalRescan => Sys2Proof.Machine.execSignalRescan s
  | .createContext => Sys2Proof.Machine.execCreateContext s
  | .destroyContext => Sys2Proof.Machine.execDestroyContext s
  | .createQueue => Sys2Proof.Machine.execCreateQueue s
  | .startQueue => Sys2Proof.Machine.execStartQueue s
  | .suspendQueue => Sys2Proof.Machine.execSuspendQueue s
  | .destroyQueue => Sys2Proof.Machine.execDestroyQueue s
  | .grant => Sys2Proof.Machine.execGrant s
  | .usage => Sys2Proof.Machine.execUsage s
  | .loadUpdate => Sys2Proof.Machine.execLoadUpdate s
  | .roleExchange => Sys2Proof.Machine.execRoleExchange s
  | .shepherdTakeover => Sys2Proof.Machine.execShepherdTakeover s
  | .linkEnable link => Sys2Proof.Machine.execLinkEnable link s
  | .linkReset link => Sys2Proof.Machine.execLinkReset link s
  | .linkRetrain link => Sys2Proof.Machine.execLinkRetrain link s
  | .linkTrained link lanes node => Sys2Proof.Machine.execLinkTrained link lanes node s
  | .trainingTimeout link => Sys2Proof.Machine.execTrainingTimeout link s
  | .laneFail link lanes => Sys2Proof.Machine.execLaneFail link lanes s
  | .flitRetry link count => Sys2Proof.Machine.execFlitRetry link count s
  | .linkFence link => Sys2Proof.Machine.execLinkFence link s
  | .remoteTimeout link => Sys2Proof.Machine.execRemoteTimeout link s
  | .remoteRequest node kind op ty size pa value compare => Sys2Proof.Machine.execRemoteRequest node kind op ty size pa value compare s
  | .ethDoorbell port ring value => Sys2Proof.Machine.execEthDoorbell port ring value s
  | .ethCompletion port work status count imm => Sys2Proof.Machine.execEthCompletion port work status count imm s
  | .ethFrameReceive port work qpn frame imm => Sys2Proof.Machine.execEthFrameReceive port work qpn frame imm s
  | .boot => Sys2Proof.Machine.execBoot s
  | .fusereq value => Sys2Proof.Machine.execFusereq value s
  | .attest => Sys2Proof.Machine.execAttest s
  | .debugHalt => Sys2Proof.Machine.execDebugHalt s
  | .debugResume => Sys2Proof.Machine.execDebugResume s
  | .sitterExpiry => Sys2Proof.Machine.execSitterExpiry s
  | .powerSample watts => Sys2Proof.Machine.execPowerSample watts s
  | .thermalLimit die => Sys2Proof.Machine.execThermalLimit die s
  | .registerWrite offset value => Sys2Proof.Machine.execRegisterWrite offset value s
  | .illegalOpcode => Sys2Proof.Machine.execIllegalOpcode s
  | .pcieHostAccess store bar offset size value => Sys2Proof.Machine.execPcieHostAccess store bar offset size value s
  | .systemCoreAccess kind op ty size pa value compare => Sys2Proof.Machine.execSystemCoreAccess kind op ty size pa value compare s
  | .ethLinkChange port up => Sys2Proof.Machine.execEthLinkChange port up s

end Sys2Proof.Machine
end

