-- ==== Sys2Proof/Machine/Front.lean ====
section
/-! DEFINITION. The front end: the selection of an issued set (R89, R90), clauses and their headers (R34 to R40), breakpoints
(R364), and what follows an issue (R78, R90, R359, R365). A step fetches through it and executes what it answers. -/
namespace Sys2Proof.Machine

/-! ### Clause headers (R34, R39) -/

/-- A header word (R34); `count` is the number of words that follow. -/
structure Header where
  setb : Nat
  seta : Nat
  wait : BitVec 12
  mbz : Nat
  count : Nat
  deriving DecidableEq, Repr

/-- A word as a header. -/
def headerOf (w : Word) : Option Header :=
  if w.extractLsb' 28 4 == 0xF then
    some ⟨(w.extractLsb' 24 4).toNat, (w.extractLsb' 20 4).toNat, w.extractLsb' 8 12, (w.extractLsb' 4 4).toNat,
      (w.extractLsb' 0 4).toNat + 1⟩
  else none

/-- A defect of the header's own fields (R39). -/
def Header.bad (h : Header) : Bool :=
  let odd (n : Nat) : Bool := 12 ≤ n && n ≤ 14
  h.mbz != 0 || odd h.seta || odd h.setb || (h.setb != 15 && h.seta = 15)

/-- The opcodes of the long-latency words (R36): `div`, `fdiv`, `sfu`, `sfd`, `red`, `scan`, the loads, `atomr`, `await`,
`uld32` and `uld64`. -/
def longOpcode (op : Nat) : Bool :=
  op == 0x04 || (0x21 ≤ op && op ≤ 0x23) || op == 0x32 || op == 0x33 || (0x60 ≤ op && op ≤ 0x66) || op == 0x6D || op == 0x6F
    || op == 0xA0 || op == 0xA1

/-- The opcodes of the control-flow words (R39): `lvbar`, `lvend`, `br`, `call`, `jmp`, `callr`, `ret`, `exit`, `brw`, `yield`,
`cut` and `graft`. -/
def flowOpcode (op : Nat) : Bool :=
  op == 0x3B || op == 0x3C || (0x40 ≤ op && op ≤ 0x44) || (0x47 ≤ op && op ≤ 0x49) || op == 0x51 || op == 0x52

/-- A word is long-latency (R36), whatever else may be wrong with it. -/
def wordLong (w : Word) : Bool := longOpcode (opcodeOf w)

/-- A word is a control-flow word (R39), whatever else may be wrong with it: BAD_CLAUSE comes first (R48). -/
def wordFlow (w : Word) : Bool := flowOpcode (opcodeOf w)

/-- The word at an address with the PLAIN bit of its page, as the front end looks ahead: without any effect. -/
def State.peekWord (s : State) (b : Nat) (va : DWord) : Option (Word × Bool) :=
  match (s.fetch b va).2 with
  | .word w p => some (w, p)
  | _ => none

/-- The word at an address is a header of a native-form page. -/
def State.headerAt (s : State) (b : Nat) (va : DWord) : Option Header :=
  match s.peekWord b va with
  | some (w, false) => headerOf w
  | _ => none

/-- The place of a word in its clause: its position from 1, and the header. -/
structure Clause where
  pos : Nat
  h : Header
  deriving DecidableEq, Repr

/-- The clause of the word at an address (R34): the nearest header among the 16 words before it, where its words reach that
far. The numbers are the words left to look at and the distance. -/
def State.clauseOf (s : State) (b : Nat) (pc : DWord) : Nat → Nat → Option Clause
  | 0, _ => none
  | n + 1, k =>
    match s.peekWord b (pc - BitVec.ofNat 64 (4 * k)) with
    | some (w, false) => (match headerOf w with
      | some h => if k ≤ h.count then some ⟨k, h⟩ else none
      | none => s.clauseOf b pc n (k + 1))
    | _ => none

/-- The clause of an address. -/
def State.clauseAt (s : State) (b : Nat) (pc : DWord) : Option Clause := s.clauseOf b pc 16 1

/-- The long-latency words of a clause before the word at an address. -/
def State.longBefore (s : State) (b : Nat) (pc : DWord) (c : Clause) : Nat :=
  ((List.range (c.pos - 1)).filter (fun j => match s.peekWord b (pc - BitVec.ofNat 64 (4 * (j + 1))) with
    | some (w, _) => wordLong w
    | none => false)).length

/-- The flag that a long-latency word of a clause sets, by its position among them (R35). -/
def Clause.flagOf (c : Clause) (before : Nat) : Nat := if before = 0 then c.h.seta else c.h.setb

/-- The word after the last word of a clause is not a header (R39). -/
def State.noHeaderAfter (s : State) (b : Nat) (pc : DWord) : Bool :=
  match s.peekWord b (pc + 4) with
  | some (w, plain) => plain || (headerOf w).isNone
  | none => false

/-- BAD_CLAUSE at a word of a clause (R39), the header's own defects aside. -/
def State.clauseDefect (s : State) (b : Nat) (pc : DWord) (c : Clause) (w : Word) : Bool :=
  let n := s.longBefore b pc c
  (wordLong w && (n ≥ 2 || c.flagOf n = 15))
    || (wordFlow w && c.pos != c.h.count)
    || (c.pos = c.h.count && !wordFlow w && s.noHeaderAfter b pc)

/-! ### The issued set (R89, R90) -/

/-- A bundle may issue: it is on a core, its part runs, its team runs, and it is not HELD (R337, R365, R370). -/
def State.mayIssue (s : State) (b : Nat) : Bool :=
  let x := s.bundle b
  let p := (s.partOf x.pid).st
  x.live && x.resident && !s.host.halted && (p == .resident || p == .whistled) && !(x.hold && x.steps == 0)
    && (match x.team with
      | some t => (s.team t).st == .running || (s.team t).st == .parked
      | none => true)
    && x.threads.any (·.isReady)

/-- The lanes that issue next: the READY threads with the lowest PC, in rotation those of the turn's group. -/
def Bundle.issueLanes (b : Bundle) : List Nat :=
  let ready := if b.leash.rot then b.readyLanes.filter b.leash.group.getLsbD else b.readyLanes
  match b.lowestPc ready with
  | some pc => b.lanesAt ready pc
  | none => []

/-- Select an issued set: the issue latch holds it. -/
def State.selectSet (s : State) (b : Nat) : State :=
  let s := s.endTurn b
  let ls := (s.bundle b).issueLanes
  let pc := ((s.bundle b).thread (ls.headD 0)).pc
  { s with cur := { Issue.reset with
    bundle := b, pc := pc, trapPc := pc, lanes := laneSet ls, start := pc, fell := laneSet (ls.filter (fun l => (s.thread b l).fell)) } }

/-! ### Breakpoints (R364) -/

/-- A comparator selects a lane of a bundle at an address. -/
def State.bkptHit (s : State) (b l : Nat) (va : DWord) (k : Nat) : Bool :=
  let x := s.bundle b
  let c := s.ctx x.asid
  let a := c.bkpta.getD k 0
  let sel := c.bkpts.getD k 0
  let kind := a.extractLsb' 0 2
  let teamIs := (x.team.map (fun t => (s.team t).index)) == some (sel.extractLsb' 0 32).toNat
  a.getLsbD 63 && a.extractLsb' 2 54 == va.extractLsb' 2 54
    && (kind == 0 || (kind == 1 && teamIs) || (kind == 2 && teamIs && x.bidx == (sel.extractLsb' 32 12).toNat)
      || (kind == 3 && sel.getLsbD l))

/-- The lanes that a breakpoint stops at the issue's address, each with its lowest comparator. -/
def State.bkptLanes (s : State) : List (Nat × Nat) :=
  let b := s.cur.bundle
  s.issued.filterMap (fun l =>
    if (s.thread b l).skip then none
    else ((List.range 16).find? (fun k => s.bkptHit b l s.cur.pc k)).map (fun k => (l, k)))

/-- Park the lanes that a breakpoint stops: those hit, or the whole set of a uniform word or of a handler bundle (R353). The
event waits, since the lanes share it with those that the word itself may park (R350). -/
def State.takeBreakpoints (s : State) (uniform : Bool) : State :=
  match s.bkptLanes with
  | [] => s
  | h :: hs =>
    let low := hs.foldl (fun m x => min m x.2) h.2
    let ts := if uniform || s.curB.handler.isSome then s.issued.map (fun l => (l, (lookupKey l (h :: hs)).getD low)) else h :: hs
    let s := s.mapLanes (fun l t => match lookupKey l ts with
      | some k => t.trap { TrapInfo.of causeBreakpoint with aux := k } s.cur.pc
      | none => t)
    { s with cur := { s.cur with
      lanes := s.cur.lanes &&& ~~~laneSet (ts.map (·.1)), stops := ts.map (fun x => (x.1, causeBreakpoint)) } }

/-! ### Fetching an issue -/

/-- What the front end answers: no issue in this step, an issue that its word's encoding traps, or a word to execute. -/
inductive Front where
  | done (s : State)
  | fails (s : State)
  | run (i : Instr) (s : State)

/-- The issued set cannot issue: it stands where it stood (R89). -/
def State.unissue (s : State) : State :=
  let s := s.mapLanes (fun l t =>
    if s.cur.lanes.getLsbD l && t.isReady then { t with pc := s.cur.start, fell := s.cur.fell.getLsbD l } else t)
  { s with cur := { s.cur with stalled := true } }

/-- A BAD_CLAUSE trap at an address. -/
def State.badClause (s : State) (at_ : DWord) : State :=
  ({ s with cur := { s.cur with trapPc := at_ } } : State).trapIssued (TrapInfo.of causeBadClause)

/-- A fetch that answers no word. -/
def State.fetchFails (s : State) : Fetched → State
  | .trap i => s.trapIssued i
  | .lost => s.linkLost s.cur.bundle s.cur.trapPc
  | .word _ _ => s

/-- Flags of the wait mask are set (R35). -/
def Header.waits (h : Header) (flags : BitVec 12) : Bool := h.wait &&& flags != 0

/-- The lanes fall through into the word at an address from a native word whose clause reaches that far. -/
def State.fallsInClause (s : State) (pc : DWord) : Bool :=
  s.issued.any (fun l => (s.curB.thread l).fell && !(s.curB.thread l).plain) && (s.clauseAt s.cur.bundle pc).isSome

/-- A `ulane` word whose lane is beyond W: RESERVED_FN comes before MBZ_SET (R48, R111). -/
def State.ulaneBeyond (s : State) (w : Word) : Bool := opcodeOf w == 0x98 && s.curB.w ≤ (w.extractLsb' 0 6).toNat

/-- The last checks before the word at issue executes: the opcode (R46), the flag (R35), the holds of fences (R152). -/
def State.ready (s : State) (c : Option Clause) (w : Word) : Front :=
  let b := s.cur.bundle
  match decode w with
  | .bad .illegalOpcode => .run .illegalOpcode s
  | .bad .header => .fails (s.badClause s.cur.trapPc)
  | .bad .reservedFn => .fails (s.trapIssued (TrapInfo.of causeReservedFn))
  | .bad .mbzSet => .fails (s.trapIssued (TrapInfo.of (if s.ulaneBeyond w then causeReservedFn else causeMbzSet)))
  | .ok i =>
    let flag := match c with
      | some c => if (wordInfo i).long then some (c.flagOf (s.longBefore b s.cur.pc c)) else none
      | none => none
    if (flag.map s.curB.flags.getLsbD).getD false || s.fenceHolds i then .done s.unissue.deliverStops
    else .run i { s with cur := { s.cur with flag := flag } }

/-- The word at the issue's address, with its clause in native form: breakpoints before every check of R48 (R364), then the
defects of the clause, and the word. `bad` says that the word has no place where it stands (R39). An issue of which every lane parks
at a breakpoint is one that its word's encoding does not reach (R359, R365). -/
def State.consider (s : State) (bad : Bool) (c : Option Clause) (w : Word) : Front :=
  let set := s.cur.lanes
  let s := s.takeBreakpoints (w.getLsbD 31)
  if s.cur.lanes == 0 then .fails { s with cur := { s.cur with lanes := set } }
  else if bad then .fails (s.badClause s.cur.pc)
  else match c with
    | none => s.ready none w
    | some c =>
      if c.h.bad then .fails (s.badClause (s.cur.pc - BitVec.ofNat 64 (4 * c.pos)))
      else if !(match decode w with
          | .ok i => isPrefixWord i
          | .bad _ => false) && s.clauseDefect s.cur.bundle s.cur.pc c w then .fails (s.badClause s.cur.pc)
      else s.ready (some c) w

/-- A plain-form word (R40). -/
def State.frontPlain (s : State) (w : Word) : Front :=
  let s : State := { s with cur := { s.cur with plain := true } }
  if (headerOf w).isSome then .fails (s.badClause s.cur.pc)
  else if s.fallsInClause s.cur.pc then s.consider true none w
  else if s.curB.flags != 0 && s.issued.any (fun l => !(s.curB.thread l).plain) then .done s.unissue
  else s.consider false none w

/-- A header in native form: the clause starts at its first word (R35). -/
def State.frontHeader (s : State) (h : Header) : Front :=
  if s.fallsInClause s.cur.pc then .fails (s.badClause s.cur.pc)
  else if h.waits s.curB.flags then .done s.unissue
  else
    let pc := s.cur.pc + 4
    let t := s.mapLanes (fun l t => if s.cur.lanes.getLsbD l then t.advance s.cur.pc else t)
    let t : State := { t with cur := { t.cur with pc := pc, trapPc := pc } }
    match t.fetch t.cur.bundle pc with
    | (t, .word w plain) => t.consider plain (some ⟨1, h⟩) w
    | (t, f) => .done (t.fetchFails f)

/-- A word of a clause that the set stands at (R34, R38). A word that no header's count reaches traps with BAD_CLAUSE: DEDUCED
(assumption 59). -/
def State.frontNative (s : State) (w : Word) : Front :=
  match s.clauseAt s.cur.bundle s.cur.pc with
  | none => s.consider true none w
  | some c =>
    if s.issued.any (fun l => !(s.curB.thread l).fell) && c.h.waits s.curB.flags then .done s.unissue
    else s.consider false (some c) w

/-- The front end's answer for a bundle that may issue. -/
def State.front (s : State) (b : Nat) : Front :=
  let s := s.selectSet b
  if s.cur.lanes == 0 then .done s
  else match s.fetch b s.cur.pc with
    | (s, .word w true) => s.frontPlain w
    | (s, .word w false) => (match headerOf w with
      | some h => s.frontHeader h
      | none => s.frontNative w)
    | (s, f) => .done (s.fetchFails f)

/-- The word behind a prefix (R31, R33): the latch stands at it, with the trap PC at the prefix. A plain-form prefix before a
word of a native-form page traps with BAD_CLAUSE: DEDUCED (assumption 59). -/
def State.frontSecond (s : State) : Front :=
  let b := s.cur.bundle
  let c := if s.cur.plain then none else s.clauseAt b s.cur.trapPc
  let last := (c.map (fun c => decide (c.pos = c.h.count))).getD false
  if last then
    .fails (s.trapIssued (TrapInfo.of (if s.noHeaderAfter b s.cur.trapPc then causeBadClause else causeBadPrefix)))
  else match s.fetch b s.cur.pc with
    | (s, .word w plain) =>
      if plain != s.cur.plain || (headerOf w).isSome then .fails (s.badClause s.cur.trapPc)
      else match c with
        | none => s.ready none w
        | some c =>
          let c : Clause := ⟨c.pos + 1, c.h⟩
          if s.clauseDefect b s.cur.pc c w then .fails (s.badClause s.cur.trapPc) else s.ready (some c) w
    | (s, f) => .done (s.fetchFails f).deliverStops

/-! ### What follows an issue -/

/-- Some READY thread outside the issued set has another PC (R90). -/
def State.othersReady (s : State) : Bool :=
  s.curB.readyLanes.any (fun l => !s.cur.lanes.getLsbD l && (s.curB.thread l).pc != s.cur.start)

/-- A handler park that waited for a thread's word is made (R85). -/
def Thread.parkNow (t : Thread) : Thread :=
  if t.parkAsked && t.isReady then { t with st := .parked .handler, parkAsked := false } else t

/-- A thread after a word issued for it: SKIP is clear (R359), its fault record is of the past unless the word trapped (R349),
and a handler park that waited for the word is made (R85). -/
def Thread.afterIssue (t : Thread) (plain : Bool) : Thread :=
  ({ t with skip := false, plain := plain, stale := t.stale || t.st != .parked .trap } : Thread).parkNow

/-- The threads of a bundle that are neither PARKED nor EXITED share one PC (R90). -/
def Bundle.converged (b : Bundle) : Bool :=
  match b.threads.filter (fun t => !(t.isParked || t.isExited)) with
  | [] => true
  | t :: ts => ts.all (fun u => u.pc == t.pc)

/-- The leash after an issue (R90): the issued lanes, and `others` as it stood before the word. -/
def Bundle.leashIssue (b : Bundle) (lanes : BitVec 64) (start : DWord) (others : Bool) : Bundle :=
  if b.leash.rot then { b with leash := { b.leash with turn := b.leash.turn + 1 } }
  else { b with leash := { b.leash with count := if others then b.leash.count + 1 else 0, group := lanes, start := start } }

/-- A bundle in one piece runs in MINPC mode with C = 0 (R90). -/
def Bundle.leashSettle (b : Bundle) : Bundle :=
  if b.converged then { b with leash := { b.leash with rot := false, count := 0 } } else b

/-- One issue of a bundle that steps (R365). -/
def Bundle.countStep (b : Bundle) : Bundle := if b.hold then { b with steps := b.steps - 1 } else b

/-- The words after which a bundle stands at a safe point (R41). -/
def safePoint : Instr → Bool
  | .lvbar _ _ => true
  | .lvend _ _ => true
  | .call _ _ _ => true
  | .callr _ => true
  | .ret => true
  | .yield _ => true
  | _ => false

/-- The map of a translation covers an address: it is one of the code's words (R41, R174). -/
def Translation.covers (t : Translation) (pc : DWord) : Bool :=
  t.code.toNat + 64 ≤ pc.toNat && pc.toNat < t.code.toNat + 64 + t.size

/-- The translation that a bundle may run from (R41). -/
def State.translationFor (s : State) (b : Nat) : Option Translation :=
  let x := s.bundle b
  x.team.bind (fun t => s.translations.find? (fun y => y.asid == x.asid && y.code == (s.teamLaunch t).lrec.code))

/-- A bundle stands at a safe point (R41, R412): where the map of a translation covers its threads, the translation is refused, and
discarded, if its signature fails or its SECVER is below CODESVN, and else the bundle may run from it. -/
def State.swapIn (s : State) (b : Nat) : State :=
  let x := s.bundle b
  match s.translationFor b with
  | none => s
  | some t =>
    if !x.live || x.transl.isSome || !x.threads.all (fun y => y.isExited || t.covers y.pc) || !Config.freeBool s.ticks 41 b then s
    else if t.signed && s.boot.codesvn ≤ t.secver then s.modBundle b (fun y => { y with transl := some t.code })
    else s.withdraw (fun y => y == t)

/-- After an issue of the word `i`, none where its encoding traps; `others` is as it stood before (R90). -/
def State.afterIssue (s : State) (i : Option Instr) (others : Bool) : State :=
  if s.cur.stalled then s.unissue.deliverStops
  else if !s.curB.live then s
  else
    let b := s.cur.bundle
    let ls := s.cur.lanes
    let s := s.deliverStops
    let trapped := s.issued.any (fun l => (s.curB.thread l).st == .parked .trap)
    let s := s.mapLanes (fun l t => if ls.getLsbD l then t.afterIssue s.cur.plain else t)
    let s := if trapped then s else s.observe b (i.elim [] (fun j => (wordInfo j).ureads)) s.issued
    let s := s.modBundle b (fun x => x.countStep.leashIssue ls s.cur.start others)
    let s := (s.rotate b).modBundle b Bundle.leashSettle
    if i.any safePoint then s.swapIn b else s

/-! ### A waiting word that goes on (R85) -/

/-- A waiting lane's word may go on with its own operation: its bundle is on a core, whether its part runs or is being saved. -/
def State.mayContinue (s : State) (b : Nat) : Bool :=
  let x := s.bundle b
  let p := (s.partOf x.pid).st
  x.live && x.resident && !s.host.halted && (p == .resident || p == .whistled || p == .yielded || p == .forced)

/-- The lanes that wait with the word of a lane. -/
def Bundle.lanesOf (x : Bundle) (i : Instr) (pc : DWord) (set : BitVec 64) : List Nat :=
  (indices x.threads).filter (fun l => set.getLsbD l && (x.thread l).pc == pc && match (x.thread l).st with
    | .waiting (.word _ j _ _) => j == i
    | _ => false)

/-- The lanes of a list whose `graft` counts in INPROG already, each with where its SYNC is kept (R287). -/
def Bundle.homesOf (x : Bundle) (ls : List Nat) : List (Nat × SyncHome) :=
  ls.filterMap (fun l => match (x.thread l).st with
    | .waiting (.word _ _ _ home) => home.map (fun h => (l, h))
    | _ => none)

/-- The latch stands again at the word for which a lane waits, with the uniform operands that it has read: its set is READY to go on
with it. -/
def State.relatch (s : State) (b l : Nat) (i : Instr) (set : BitVec 64) (args : List DWord) : State :=
  let x := s.bundle b
  let pc := (x.thread l).pc
  let ls := x.lanesOf i pc set
  let s : State := { s with cur := { Issue.reset with
    bundle := b, pc := pc, trapPc := pc, lanes := laneSet ls, plain := (x.thread l).plain, start := pc
    args := args, homes := x.homesOf ls } }
  s.mapLanes (fun k t => if ls.contains k then { t with st := .ready } else t)

/-- The word has gone on: its reports go to the handler (R155), and a handler park that waited for its completion is made. -/
def State.afterAgain (s : State) : State :=
  let ls := s.cur.lanes
  s.deliverStops.mapLanes (fun l t => if ls.getLsbD l then t.parkNow else t)

end Sys2Proof.Machine
end

