-- ==== Sys2Proof/Machine/Schedule.lean ====
section
/-! DEFINITION. What a step does around an instruction or event: the passage of time (R338, R362, R390, R400), the changes of state
that follow at once (R41, R85, R152, R158, R208, R240, R267, R311, R337, R347, R403), and the choice of what happens next where the agenda names nothing (assumption 2). -/
namespace Sys2Proof.Machine

/-! ### Time -/

/-- A part makes its context resident on its partition (R337). -/
def PartState.isResident (p : PartState) : Bool := p == .resident || p == .whistled

/-- A part after `a` arithmetic clocks and `c` periods of CLK (R338, R347, R390); `others` says that something waits for a partition. -/
def Part.pass (p : Part) (idle others : Bool) (a c : Nat) : Part :=
  { p with
    left := if p.raised then p.left - a else p.left
    resTime := if p.st.isResident then p.resTime + c else p.resTime
    idleTime := if p.st.isResident && idle then p.idleTime + c else p.idleTime
    idle := if p.st == .resident && idle then some (if others then p.idle.getD 0 + a else 0) else none }

/-- Saved parts and packs that wait for a partition (R347). -/
def State.othersWait (s : State) : Bool :=
  s.parts.any (fun p => p.st == .kennelled || p.st == .stored)
    || (indices s.launches).any (fun n => !(s.waitingPacks n).isEmpty)

/-- What the dies have run after `c` more periods of CLK, each at its own clock (R417). -/
def State.dieClocks (s : State) (c : Nat) : List Nat := s.aclk.zipWith (fun n mhz => n + c * mhz) s.power.mhz

/-- Time passes (R362): a free number of CLK periods, and the arithmetic clocks that each die runs in them. A halt stops the clocks of
R370. -/
def State.passTime (s : State) : State :=
  let c := Config.freeClocks s.ticks
  let clk : DWord := s.clk + BitVec.ofNat 64 c
  let aclk := if s.host.halted then s.aclk else s.dieClocks c
  let ran (p : Part) : Nat := clocksRun aclk (dieOf p.part) - clocksRun s.aclk (dieOf p.part)
  { s with
    ticks := s.ticks + 1
    clk := clk
    aclk := aclk
    parts := s.parts.mapIdx (fun i p => if s.host.halted then p else p.pass (s.idle i) s.othersWait (ran p) c)
    links := if clk.toNat / clkPerMs == s.clk.toNat / clkPerMs then s.links else s.links.map (fun l => { l with retries := 0 }) }

/-! ### What follows at once -/

/-- The completed fences of a bundle's threads go (R152). -/
def Bundle.settleFences (b : Bundle) (writing : Bool) : Bundle :=
  { b with threads := b.threads.map (fun t =>
      if t.out.isEmpty then t else { t with out := Machine.settleFences writing 0 t.out }) }

/-- A bundle has retired (R85): its threads are EXITED, its long-latency words are over, and its commands are too. -/
def State.bundleOver (s : State) (i : Nat) (b : Bundle) : Bool :=
  b.live && b.handler.isNone && b.threads.all (·.isExited) && b.late.isEmpty && b.posting.isNone
    && !s.cmds.any (fun c => c.bundle == i && c.active)

/-- Fences and retirement of every bundle. -/
def State.settleBundles (s : State) : State :=
  { s with bundles := s.bundles.mapIdx (fun i b =>
      if !b.live then b
      else
        let b := b.settleFences ((b.team.map s.teamWriting).getD false)
        if s.bundleOver i b then { b with live := false } else b) }

/-- Threads that wait for tokens (R267). -/
def State.settleTokens (s : State) : State :=
  (indices s.bundles).foldl (fun s b => if (s.bundle b).live then s.wakeToken b else s) s

/-- The state of a team after its threads' (R208). -/
def State.settleTeam (s : State) (t : Nat) : State :=
  let tm := s.team t
  if tm.st == .running || tm.st == .parked then
    if (s.teamBundles t).isEmpty then
      if (s.childrenOf t).isEmpty then s.enterCommit t else s.modTeam t (fun x => { x with st := .childwait })
    else
      let live := (s.teamThreads t).filter (fun x => !x.isExited)
      let parked := !live.isEmpty && live.all (·.isParked)
      if parked == (tm.st == .parked) then s else s.modTeam t (fun x => { x with st := if parked then .parked else .running })
  else if tm.st == .childwait && (s.childrenOf t).isEmpty then s.enterCommit t
  else s

/-- What an early publication in this step drains (R311, R312): the team's other writes are performed. -/
def State.settleVersion (s : State) (t : Nat) : State :=
  if (s.team t).ver.drain then
    ((s.drainTeam t).cleanTeam t).modTeam t (fun x => { x with ver := { x.ver with drain := false } })
  else s

/-- A line of a team that has been DIRTY for 2^20 arithmetic clocks is written back (R240, trigger 5). -/
def State.agedLines (s : State) (t : Nat) : State :=
  s.forLines t (fun l => l.st == .dirty && l.since + 2 ^ 20 ≤ s.teamClocks t) (fun s w l => s.writeBack t w l)

/-- The lanes of a bundle on a core that are PARKED by an `await` and have read last 1,024 arithmetic clocks ago read again (R170, R417). -/
def State.overdueReads (s : State) (b : Nat) : State :=
  if !(s.bundle b).live || !s.mayContinue b then s
  else (indices (s.bundle b).threads).foldl (fun s l =>
    if (s.thread b l).st == .parked .await && (s.thread b l).readAt + 1024 ≤ s.bundleClocks b then s.awaitReread b l else s) s

/-- What has a bound in time happens at the end of it: the write-backs of R240, the whistle of an idle part after 4,500 clocks (R347), the
re-read of an `await` after 1,024 clocks (R170), the failure of a request that is not acknowledged within 1 ms (R403). -/
def State.deadlines (s : State) : State :=
  let s := (indices s.teams).foldl (fun s t => s.agedLines t) s
  let s := (indices s.parts).foldl (fun s p => if (s.partOf p).idle.any (fun n => 4500 ≤ n) then s.raiseWhistle p else s) s
  let s := (indices s.bundles).foldl (fun s b => s.overdueReads b) s
  s.failRequests (fun x => clkPerMs ≤ (s.clk - x.clk).toNat)

/-- Another outstanding store that some thread sees already covers a byte of a store: it comes first, so that all agree on the order of
the byte's stores (R157). -/
def State.covered (s : State) (b l i : Nat) (y : PStore) : Bool :=
  (indices s.bundles).any (fun b' => (indices (s.bundle b').threads).any (fun l' => (indices (s.thread b' l').out).any (fun i' =>
    (b', l', i') != (b, l, i) && match (s.thread b' l').out[i']? with
      | some (.store x) => x.vis != 0 && x.link.isNone && x.ver == y.ver && overlap x.pa x.bytes.length y.pa y.bytes.length
      | _ => false)))

/-- An outstanding store becomes visible to more agents, by a free choice (R158): to the writer's core, then to its partition. -/
def State.showStore (s : State) (b l i : Nat) : State :=
  match (s.thread b l).out[i]? with
  | some (.store y) =>
    if Config.freeBool s.ticks (64 * b + l) (158 + i) && !s.covered b l i y then
      s.modThread b l (fun t => { t with out := t.out.set i (.store { y with vis := min 2 (y.vis + 1) }) })
    else s
  | _ => s

/-- Outstanding stores become visible to more agents (R158). -/
def State.showStores (s : State) : State :=
  (indices s.bundles).foldl (fun s b => (indices (s.bundle b).threads).foldl (fun s l =>
    (indices (s.thread b l).out).foldl (fun s i => s.showStore b l i) s) s) s

/-- The background translator (R41): by free choices it makes a translation of a plain-form kernel that runs, which records the SECVER
of its object (R412), and the operating system withdraws one. -/
def State.translate (s : State) : State :=
  let kept := s.translations.filter (fun t => Config.freeBool s.ticks 414 t.code.toNat)
  let new := (indices s.launches).filterMap (fun n =>
    let l := s.launch n
    if l.st == .running && l.code.kflags.getLsbD 7 && Config.freeBool s.ticks 412 n then
      some ⟨l.asid, l.lrec.code, l.code.codesize, l.code.secver, Config.freeBool s.ticks 413 n⟩
    else none)
  { s with
    translations := kept ++ new
    bundles := s.bundles.map (fun b => match b.transl with
      | some c => if kept.any (fun t => t.asid == b.asid && t.code == c) then b else { b with transl := none }
      | none => b) }

/-- The lanes of a bundle that the report of an earlier access awaits, and that stand READY at an instruction boundary (R155). -/
def Bundle.reported (x : Bundle) : List (Nat × TrapInfo) :=
  (indices x.threads).filterMap (fun l => if (x.thread l).isReady then (x.thread l).report.map (fun i => (l, i)) else none)

/-- Threads park for the reports that they await (R155): those at one word make one event. -/
def State.settleReports (s : State) (b : Nat) : State :=
  let ts := (s.bundle b).reported
  ((ts.map (fun x => (s.thread b x.1).pc)).eraseDups).foldl (fun s pc =>
    let here := ts.filter (fun x => (s.thread b x.1).isReady && (s.thread b x.1).pc == pc)
    let s := here.foldl (fun s x => s.modThread b x.1 (fun t => { t with report := none })) s
    s.takeTraps b pc [] here) s

/-- Everything that follows an instruction or event at once. -/
def State.settle (s : State) : State :=
  let s := s.flushRegisters
  let s := (indices s.teams).foldl (fun s t => s.settleVersion t) s
  let s := s.settleBundles.settleTokens
  let s := (indices s.bundles).foldl (fun s b => s.settleReports b) s
  let s := (indices s.bundles).foldl (fun s b => s.readyPosting b) s
  let s := (indices s.teams).foldl (fun s t => s.settleTeam t) s
  let s := s.advanceLaunches
  let s := (indices s.parts).foldl (fun s p => s.settlePart p) s
  s.deadlines.showStores.translate.settleBundles

/-! ### What may happen -/

/-- The event may happen during a debug halt (R370): nothing of the partitions' issue, of Shepherd, the system cores, copies and
collectives does. -/
def duringHalt : Instr → Bool
  | .completionFlagClear _ _ => true
  | .memoryAccessPerformed _ _ _ => true
  | .stashFillArrives _ _ _ => true
  | .stashRecall _ _ _ _ => true
  | .stashWritebackAck _ _ _ => true
  | .uncorrectableError _ _ _ => true
  | .matrixTurn _ => true
  | .matrixDone _ => true
  | .pageWalkComplete _ _ _ => true
  | .pageFaultRecordPost _ => true
  | .linkEnable _ => true
  | .linkReset _ => true
  | .linkRetrain _ => true
  | .linkTrained _ _ _ => true
  | .trainingTimeout _ => true
  | .laneFail _ _ => true
  | .flitRetry _ _ => true
  | .linkFence _ => true
  | .remoteTimeout _ => true
  | .ethLinkChange _ _ => true
  | .boot => true
  | .fusereq _ => true
  | .debugHalt => true
  | .debugResume => true
  | .sitterExpiry => true
  | .powerSample _ => true
  | .thermalLimit _ => true
  | .registerWrite _ _ => true
  | .pcieHostAccess _ _ _ _ _ => true
  | _ => false

/-- The agenda may name the event: it is one of the device, and a halt does not hold it back. -/
def State.admits (s : State) (i : Instr) : Bool := !i.encoded && i != .illegalOpcode && (!s.host.halted || duringHalt i)

/-- The position of the first outstanding store of a thread. -/
def firstStore : List Pending → Nat → Option Nat
  | [], _ => none
  | .store _ :: _, n => some n
  | .fence _ :: ps, n => firstStore ps (n + 1)

/-- The events that a bundle's own parts await. -/
def State.bundleEvents (s : State) (b : Nat) : List Instr :=
  let x := s.bundle b
  (indices x.threads).filterMap (fun l => (firstStore (x.thread l).out 0).map (fun i => .memoryAccessPerformed b l i)) ++
  if !x.live || !x.resident then [] else
  (if x.late.isEmpty then [] else [.completionFlagClear b 0])
    ++ (indices x.threads).filterMap (fun l => if (x.thread l).st == .parked .await then some (.awaitReread b l) else none)
    ++ (if x.posting.isSome then [.engineCommandQueued b] else [])
    ++ (match x.handler with
      | some h => if h.current.isNone && !h.queue.isEmpty then [.handlerEventStart b] else []
      | none => [])
    ++ (if x.stepping && x.held then [.step b] else [])

/-- The events of a team's stash and of its end. -/
def State.teamEvents (s : State) (t : Nat) : List Instr :=
  (if (s.team t).st == .committing then [.teamPublish t] else [])
    ++ (s.team t).windows.flatMap (fun w => w.lines.filterMap (fun l => match l.st with
      | .filling => some (.stashFillArrives t w.num l.num)
      | .writing => some (.stashWritebackAck t w.num l.num)
      | .dirty => some (.stashWritebackTimeout t w.num l.num)
      | .clean => none))

/-- The events of a command. -/
def State.cmdEvents (s : State) (i : Nat) : List Instr :=
  match s.cmd? i with
  | none => []
  | some c => match c.spec, c.st with
    | .copy _, .queued => [.copyStart i]
    | .copy _, .running => if c.paused then [] else [.copyDone i]
    | .matrix _, .queued => [.matrixTurn i]
    | .matrix _, .running => if c.due.all (fun d => (s.clk - d).toNat < 2 ^ 63) then [.matrixDone i] else []
    | .coll _, .running => [.collectiveDone i 0 ((Config.freeWord s.ticks 75 i).setWidth 5)]
    | _, _ => []

/-- The events of a part (R337, R339, R347). -/
def State.partEvents (s : State) (i : Nat) : List Instr :=
  let p := s.partOf i
  let ends := !(s.ctx p.asid).grant.getLsbD p.part || (s.idle i && s.othersWait)
  match p.st with
  | .resident => if ends then [.whistleRaise p.asid i] else []
  | .whistled => if p.left = 0 then [.whistleDeadline p.asid i] else []
  | .yielded => [.contextSaveDone p.asid i]
  | .forced => [.contextSaveDone p.asid i]
  | .kennelled => ((List.range 8).filter (s.canResume i)).map (fun t => .contextResume p.asid i t) ++ [.kennelEvict p.asid i]
  | .stored => ((List.range 8).filter (s.canResume i)).map (fun t => .contextResume p.asid i t)
  | .resuming => [.restoreDone p.asid i []]
  | _ => []

/-- The page-fault records and other entries whose turn it is (R329). -/
def State.ringEvents (s : State) : List Instr :=
  (s.intc.waiting.filter s.intc.isNext).map (fun e => match e with
    | .page _ t => .pageFaultRecordPost (BitVec.ofNat 32 t)
    | .containment _ _ _ => .pageFaultRecordPost 0)

/-- The command at the head of the management ring (R391). -/
def State.mgmtEvents (s : State) : List Instr :=
  match s.mgmtHead with
  | (_, none) => []
  | (_, some e) => match fieldAt e.v 0 1 with
    | 2 => [.destroyContext]
    | 3 => [.createQueue]
    | 4 => [.startQueue]
    | 5 => [.suspendQueue]
    | 6 => [.destroyQueue]
    | 7 => [.grant]
    | 8 => [.usage]
    | 9 => [.loadUpdate]
    | _ => [.createContext]

/-- The events of Shepherd, the interrupt controller, boot and the links. -/
def State.deviceEvents (s : State) : List Instr :=
  (if s.boot.stage = 0 then [.boot] else [])
    ++ (s.grow.map (fun g => Instr.rgrowGrant g.place g.sub)).eraseDups
    ++ (match s.nextPlacement with
      | some (p, o) => [.teamPlaced p o]
      | none => [])
    ++ s.ringEvents
    ++ (match s.intc.tlbreq with
      | some (0, _, _) => [.tlbreqAll]
      | some (1, a, _) => [.tlbreqAsid a]
      | some (_, a, v) => [.tlbreqVa a v]
      | none => [])
    ++ (s.queues.filter (fun q => q.kick && !s.queues.any (fun x => x.before q))).map (fun q => .kickService q.qid)
    ++ (if s.queues.any (fun q => q.packets.any (fun p => !p.ended)) then [.signalRescan] else [])
    ++ s.mgmtEvents
    ++ (if s.shep.taking then [.shepherdTakeover] else [])
    ++ (if s.shep.update.isSome then [.roleExchange] else [])
    ++ (if s.host.attest == 0 then [] else [.attest])
    ++ ((List.range 12).filter (fun n => s.boot.stage ≥ 5 && s.linkPresent n && (s.link n).enable && (s.link n).st == .down)).map
      (fun n => .linkEnable n)

/-- The words of a bundle that wait for their own operation (R85), each by a lane. -/
def State.waitingWords (s : State) (b : Nat) : List Move :=
  if s.mayContinue b then
    ((indices (s.bundle b).threads).filter (fun l => match (s.thread b l).st with
      | .waiting (.word _ _ _ _) => true
      | _ => false)).map (fun l => .again b l)
  else []

/-- Everything that may happen next without the world outside. -/
def State.moves (s : State) : List Move :=
  let events := (indices s.bundles).flatMap s.bundleEvents ++ (indices s.teams).flatMap s.teamEvents
    ++ (indices s.cmds).flatMap s.cmdEvents ++ (indices s.parts).flatMap s.partEvents ++ s.deviceEvents
  ((indices s.bundles).filter s.mayIssue).map .issue ++ (indices s.bundles).flatMap s.waitingWords ++ (events.filter s.admits).map .event

/-- What happens next: the head of the agenda, or in turn one of what may happen. -/
def State.nextMove (s : State) : State × Option Move :=
  match s.agenda with
  | m :: rest => ({ s with agenda := rest }, some m)
  | [] =>
    let ms := s.moves
    ({ s with turn := s.turn + 1 }, ms[s.turn % ms.length]?)

end Sys2Proof.Machine
end

