-- ==== Sys2Proof/Machine/Start.lean ====
section
/-! DEFINITION. A state in which a given word is the next that the machine fetches: it stands for the load of a program, which
Shepherd performs through a context, a queue and a launch (assumption 2). -/
namespace Sys2Proof.Machine

/-- An ASID above those in use. -/
def State.freshAsid (s : State) : BitVec 16 := BitVec.ofNat 16 (1 + s.ctxs.foldl (fun n c => max n c.asid.toNat) 0)

/-- The code object of the loaded program: plain form, W = 16, one level. -/
def startObject : CodeObj := { CodeObj.absent with kflags := 0x80, nlevels := 1, entry := 64, codesize := 8 }

/-- The launch of the loaded program: one team of one thread with 64 registers, code at 0x10000. -/
def startLaunch (asid : BitVec 16) : Launch :=
  { (newLaunch asid { LaunchRec.absent with code := 0x10000 } .running 1 none none 0 0).mapped startObject with packs := 1 }

/-- The state with a privileged context, RESIDENT on partition 0, and a team of one thread about to run at 0x10040. -/
def State.startTeamAt (s : State) : State :=
  let asid := s.freshAsid
  let ctx : Context := { Context.absent with asid := asid, destroyed := false, priv := true, grant := 1 }
  let n := s.launches.length
  let t := s.teams.length
  let s : State := { s with ctxs := s.ctxs ++ [ctx], launches := s.launches ++ [startLaunch asid] }
  (s.makePack n).startTeam ⟨t, 0, 0, [], [⟨0, 0, 0⟩]⟩

/-- `s` with the word `w` stored where the next step fetches: the thread's page, at local offset 0, is mapped, and the step
issues the thread's bundle. -/
def State.withWord (s : State) (w : Word) : State :=
  let b := s.bundles.length
  let asid := s.freshAsid
  let s := s.startTeamAt
  { s with
    mem := (s.mem.writeBytes 64 (bytesOf 4 w.toNat)).writeBytes 68 (bytesOf 4 0)
    tlb := ⟨0, asid, 1, 16, s.nodeid.toNat * 2 ^ 43, 0xFF⟩ :: s.tlb
    host := { s.host with halted := false }
    agenda := [.issue b] }

end Sys2Proof.Machine
end

