-- ==== Sys2Proof/Machine/Step.lean ====
section
/-! DEFINITION. One step of the package: time passes, one word of one bundle issues or one event happens, and what follows at
once is settled. -/
namespace Sys2Proof.Machine

/-- Let a bundle issue one word, behind its prefix where it has one. -/
def issue (b : Nat) (s : State) : Host.Outcome State Fault Refusal :=
  if !s.mayIssue b then .next s
  else match s.front b with
    | .done t => .next t
    | .fails t => .next (t.afterIssue none t.othersReady)
    | .run i t =>
      let others := t.othersReady
      match exec i t with
      | .next u =>
        if isPrefixWord i && u.cur.pfx.isSome then
          match u.frontSecond with
          | .done v => .next v
          | .fails v => .next (v.afterIssue none others)
          | .run j v => match exec j v with
            | .next x => .next (x.afterIssue (some j) others)
            | e => e
        else .next (u.afterIssue (some i) others)
      | e => e

/-- Let the word for which a lane waits go on with its own operation (R85). A word that cannot stays as it is. -/
def again (b l : Nat) (s : State) : Host.Outcome State Fault Refusal :=
  match (s.thread b l).st with
  | .waiting (.word set i args _) =>
    if !s.mayContinue b then .next s
    else match exec i (s.relatch b l i set args) with
      | .next u => .next (if u.cur.stalled then s else u.afterAgain)
      | e => e
  | _ => .next s

/-- Make a move. -/
def act (m : Move) (s : State) : Host.Outcome State Fault Refusal :=
  match m with
  | .issue b => issue b s
  | .again b l => again b l s
  | .event i => if s.admits i then exec i s else .next s

/-- One step. -/
def step (s : State) : Host.Outcome State Fault Refusal :=
  match s.passTime.nextMove with
  | (t, none) => .next t.settle
  | (t, some m) =>
    match act m t with
    | .next u => .next u.settle
    | e => e

/-- The state with a word of the opcode table stored where the next step fetches. -/
def State.withFetchWord (s : State) (nbits w : Nat) : State := s.withWord (BitVec.ofNat 32 (w % 2 ^ nbits))

end Sys2Proof.Machine
end

