-- ==== Sys2Proof/Safety.lean ====
section
/-! DEFINITION. The terms in which claims about the machine are made: a state in which nothing is overdue, a word that has its own
effect, and what a word may change. -/
namespace Sys2Proof.Machine

/-- No bundle is due to retire: none has all its threads EXITED, no long-latency word, no word in CHECKING and no command that is
not over, and yet holds its registers (R85). -/
def State.noneOver (s : State) : Prop := ∀ i, s.bundleOver i (s.bundle i) = false

/-- Main memory is in canonical form. -/
def State.memOk (s : State) : Prop := s.mem.wf = true

/-- A word at issue has its own effect: no cause of R48 applies to it, and no uniform register it names is the token of a command
in flight (R78). -/
def State.issues (s : State) (i : Instr) : Prop := s.wordTrap i = none ∧ s.uniPending i = false

/-- No active issued lane fails a check of its own registers (R81, R97, R101). -/
def State.lanesPass (s : State) (o : LaneOp) : Prop := ∀ l ∈ s.issued, s.isActive l = true → s.laneTrap l o = none

/-- Two states agree but for bundle `b`: every register of the device, all of memory, every other bundle. -/
structure SameBut (b : Nat) (s t : State) : Prop where
  rest : { t with bundles := s.bundles } = s
  others : ∀ i, i ≠ b → t.bundle i = s.bundle i

/-- Two states agree but for the threads of bundle `b`, each of which is what `f` makes of it by its lane. -/
structure ThreadsStep (b : Nat) (s t : State) (f : Nat → Thread → Thread) : Prop where
  same : SameBut b s t
  threads : (t.bundle b).threads = (s.bundle b).threads.mapIdx f
  frame : { t.bundle b with threads := (s.bundle b).threads } = s.bundle b

/-- A mark that two words race for a register (R37) is taken away. -/
def LateOp.plain (o : LateOp) : LateOp :=
  { o with lanes := o.lanes.map (fun w => { w with clash := false }), unis := o.unis.map (fun w => { w with clash := false }) }

/-- A state without what it keeps of the order of accesses: those performed that later ones may still race (R154), the acquires before
later ones (R159), and the loads whose values may still change (R158). -/
def State.bare (s : State) : State :=
  { s with
    outside := []
    bundles := s.bundles.map (fun x => { x with
      threads := x.threads.map (fun t => { t with recent := [], acq := [] })
      late := x.late.map (fun o => { o with loads := [] }) }) }

/-- A state with the main memory of another: its bytes, and the words that an uncorrectable error has met (R243, R328). -/
def State.withMem (s t : State) : State := { s with mem := t.mem, badmem := t.badmem }

/-- A state without the marks that words of bundle `b` race for a register (R37). -/
def State.calm (s : State) (b : Nat) : State := s.modBundle b (fun x => { x with late := x.late.map LateOp.plain })

/-- Threads of the bundle at issue see no outstanding store (R158). -/
def State.unshown (s : State) : Prop := ∀ c l, ∀ x ∈ (s.thread c l).stores, s.shows s.cur.bundle c x = false

/-- No line of the stash windows of the team at issue has bytes that its home lacks. -/
def State.linesClean (s : State) : Prop :=
  ∀ x, s.curB.team = some x → ∀ w ∈ (s.team x).windows, ∀ l ∈ w.lines, l.st = .clean ∨ l.st = .filling

/-- What a word changes that acts on the threads of its issued lanes alone: each of them becomes what `next` makes of it; no other
thread, no uniform register, no mask register, no flag, no other bundle and no byte of memory changes. Words that are outstanding
stay so; they may be marked as racing this one (R37). -/
structure LaneStep (s t : State) (next : Nat → Thread → Thread) : Prop where
  same : SameBut s.cur.bundle s t
  threads : t.curB.threads = s.curB.threads.mapIdx (fun l th => if s.cur.lanes.getLsbD l then next l th else th)
  frame : { t.curB with threads := s.curB.threads, late := s.curB.late } = s.curB
  late : t.curB.late.map LateOp.plain = s.curB.late.map LateOp.plain

/-- A lane word: the lane's operands, whether the word is long-latency, and for each lane its register writes and the flags of FSTAT
that it raises. -/
structure LaneRow where
  op : LaneOp
  long : Bool
  val : Nat → List (Nat × Reg) × BitVec 6

/-- What an inactive lane writes (R94): zeros with the tags of the destinations under zeroing, and else nothing. -/
def State.inactiveWrites (s : State) (o : LaneOp) : List (Nat × Reg) := if s.zeroing then o.dst.map (fun d => (d.1, ⟨0, d.2⟩)) else []

/-- The writes of a lane. -/
def LaneRow.writes (r : LaneRow) (s : State) (l : Nat) : List (Nat × Reg) :=
  if s.isActive l then (r.val l).1 else s.inactiveWrites r.op

/-- The flags that a lane raises: an inactive lane raises none (R94). -/
def LaneRow.flags (r : LaneRow) (s : State) (l : Nat) : BitVec 6 := if s.isActive l then (r.val l).2 else 0

/-- The word's writes reach the registers later: it is long-latency and is native code (R36, R40). -/
def LaneRow.later (r : LaneRow) (s : State) : Bool := r.long && !s.cur.plain

/-- A thread past the word at the latch: its registers are written, now or later, its flags are raised, and it stands at the next
word. -/
def LaneRow.thread (r : LaneRow) (s : State) (l : Nat) (th : Thread) : Thread :=
  ({ (if r.later s then th else th.writes (r.writes s l)) with fstat := th.fstat ||| r.flags s l } : Thread).advance s.cur.pc

/-- The outstanding writes of a long-latency word (R35, R37): those within a lane's window. -/
def LaneRow.outstanding (r : LaneRow) (s : State) : List LateWrite :=
  s.issued.flatMap (fun l => ((r.writes s l).filter (fun w => (s.curB.thread l).inWindow w.1)).map
    (fun w => ⟨l, (s.curB.thread l).key w.1, w.2, false⟩))

/-- What a long-latency word of native code changes: its lanes pass it, its writes and its completion flag are outstanding, and
nothing else changes. -/
structure LateStep (s t : State) (r : LaneRow) : Prop where
  same : SameBut s.cur.bundle s t
  threads : t.curB.threads = s.curB.threads.mapIdx (fun l th => if s.cur.lanes.getLsbD l then r.thread s l th else th)
  late : t.curB.late = s.curB.late ++
    (if r.outstanding s = [] then [] else [⟨s.cur.trapPc, s.cur.flag, r.outstanding s, [], [], []⟩])
  flags : t.curB.flags = if r.outstanding s = [] then s.curB.flags else setFlag s.curB.flags s.cur.flag
  frame : { t.curB with threads := s.curB.threads, late := s.curB.late, flags := s.curB.flags } = s.curB

/-- What a lane word does that no check stops. -/
def LaneRow.done (r : LaneRow) (s t : State) : Prop :=
  if r.later s then LateStep s t r else LaneStep s t (r.thread s)

/-- The threads of the issued set that are READY pass the word at the latch. -/
def State.passed (s : State) : List Thread :=
  s.curB.threads.mapIdx (fun l th => if s.cur.lanes.getLsbD l && th.isReady then th.advance s.cur.pc else th)

/-- What a uniform word changes that writes uniform registers `ws`: these registers in their order, and the PC of its issued set;
nothing else. Outstanding words may be marked as racing it (R37). -/
structure UniStep (s t : State) (ws : List (Nat × Reg)) : Prop where
  same : SameBut s.cur.bundle s t
  regs : t.curB.s = ws.foldl (fun r w => r.set w.1 w.2) s.curB.s
  threads : t.curB.threads = s.passed
  frame : { t.curB with threads := s.curB.threads, s := s.curB.s, late := s.curB.late } = s.curB
  late : t.curB.late.map LateOp.plain = s.curB.late.map LateOp.plain

/-- What a word changes that writes mask register `n` (m7 ignores writes, R87) and whose lanes become what `next` makes of them. -/
structure MaskStep (s t : State) (n : Nat) (v : BitVec 64) (threads : List Thread) : Prop where
  same : SameBut s.cur.bundle s t
  mask : t.curB.m = if n < 7 then s.curB.m.set n v else s.curB.m
  threads : t.curB.threads = threads
  frame : { t.curB with threads := s.curB.threads, m := s.curB.m } = s.curB

/-- The mask that a lane word leaves (R95): the bit of an active issued lane is that lane's result, the bit of an inactive one is 0
under zeroing, and every other bit stays. -/
def State.maskResult (s : State) (old : BitVec 64) (bit : Nat → Bool) : BitVec 64 :=
  s.issued.foldl (fun v l => if s.isActive l then setBit v l (bit l) else if s.zeroing then setBit v l false else v) old

/-- The threads of a lane word that writes a mask: the issued lanes pass it, with the flags that active lanes raise. -/
def State.maskThreads (s : State) (fl : Nat → BitVec 6) : List Thread :=
  s.curB.threads.mapIdx (fun l th => if s.cur.lanes.getLsbD l
    then ({ th with fstat := th.fstat ||| (if s.isActive l then fl l else 0) } : Thread).advance s.cur.pc else th)

end Sys2Proof.Machine
end

