-- ==== Sys2Proof/Certificates/Slice0/Obligations.lean ====
section
/-! DEFINITION. The statements about the machine, each from the rules of spec/ that its docstring names, and the tables by which they
speak of many instructions at once. -/
namespace Sys2Proof.Claims
open Sys2Proof.Machine

/-! ### Lane words -/

/-- The operand and result forms of the integer words on lanes, with their results (R115 to R128, R143, R144): the two sources, the
tags they take and give, and each lane's value. -/
def integerRow (s : State) : Instr → Option LaneRow
  | .add d a b f _ =>
    if f == 1 then some ⟨⟨[⟨a.toNat, 2, .int⟩, ⟨b.toNat, 2, .int⟩], dstRegs d.toNat 2 .w64⟩, false, fun l =>
      let o := deliver64 s.saturating ((s.v64 l a).toInt + (s.v64 l b).toInt); (o.writes d true .w64, o.fl)⟩
    else some ⟨⟨[⟨a.toNat, 1, .int⟩, ⟨b.toNat, 1, .int⟩], dstRegs d.toNat 1 .int⟩, false, fun l =>
      let o := deliver32 s.saturating ((s.v32 l a).toInt + (s.v32 l b).toInt); (o.writes d false .int, o.fl)⟩
  | .sub d a b f _ =>
    if f == 1 then some ⟨⟨[⟨a.toNat, 2, .int⟩, ⟨b.toNat, 2, .int⟩], dstRegs d.toNat 2 .w64⟩, false, fun l =>
      let o := deliver64 s.saturating ((s.v64 l a).toInt - (s.v64 l b).toInt); (o.writes d true .w64, o.fl)⟩
    else some ⟨⟨[⟨a.toNat, 1, .int⟩, ⟨b.toNat, 1, .int⟩], dstRegs d.toNat 1 .int⟩, false, fun l =>
      let o := deliver32 s.saturating ((s.v32 l a).toInt - (s.v32 l b).toInt); (o.writes d false .int, o.fl)⟩
  | .addi d a i => some ⟨⟨[⟨a.toNat, 1, .int⟩], dstRegs d.toNat 1 .int⟩, false, fun l =>
      let o := deliver32 s.saturating ((s.v32 l a).toInt + (i.signExtend 32).toInt); (o.writes d false .int, o.fl)⟩
  | .mul d a b f _ =>
    if f == 1 then some ⟨⟨[⟨a.toNat, 2, .int⟩, ⟨b.toNat, 2, .int⟩], dstRegs d.toNat 2 .w64⟩, false, fun l =>
      (put2 d (s.v64 l a * s.v64 l b) .w64, 0)⟩
    else some ⟨⟨[⟨a.toNat, 1, .int⟩, ⟨b.toNat, 1, .int⟩], dstRegs d.toNat 1 .int⟩, false, fun l =>
      (put d (s.v32 l a * s.v32 l b) .int, 0)⟩
  | .mulh d a b f _ => some ⟨⟨[⟨a.toNat, 1, .int⟩, ⟨b.toNat, 1, .int⟩], dstRegs d.toNat 1 .int⟩, false, fun l =>
      (put d (if f == 1 then BitVec.ofInt 32 (((s.v32 l a).toNat * (s.v32 l b).toNat : Int) / 2 ^ 32)
        else BitVec.ofInt 32 ((s.v32 l a).toInt * (s.v32 l b).toInt / 2 ^ 32)) .int, 0)⟩
  | .mad d a b f _ =>
    if f == 1 then some ⟨⟨[⟨a.toNat, 2, .int⟩, ⟨b.toNat, 2, .int⟩, ⟨s.regC.toNat, 2, .int⟩], dstRegs d.toNat 2 .w64⟩, false, fun l =>
      let o := deliver64 s.saturating ((s.v64 l a).toInt * (s.v64 l b).toInt + (s.v64 l s.regC).toInt); (o.writes d true .w64, o.fl)⟩
    else some ⟨⟨[⟨a.toNat, 1, .int⟩, ⟨b.toNat, 1, .int⟩, ⟨s.regC.toNat, 1, .int⟩], dstRegs d.toNat 1 .int⟩, false, fun l =>
      let o := deliver32 s.saturating ((s.v32 l a).toInt * (s.v32 l b).toInt + (s.v32 l s.regC).toInt); (o.writes d false .int, o.fl)⟩
  | .div d a b f _ => some ⟨⟨[⟨a.toNat, 1, .int⟩, ⟨b.toNat, 1, .int⟩], dstRegs d.toNat 1 .int⟩, true, fun l =>
      let r := divide (f == 1) (s.v32 l a) (s.v32 l b); (put d r.1 .int, r.2.2)⟩
  | .rem d a b f _ => some ⟨⟨[⟨a.toNat, 1, .int⟩, ⟨b.toNat, 1, .int⟩], dstRegs d.toNat 1 .int⟩, true, fun l =>
      let r := divide (f == 1) (s.v32 l a) (s.v32 l b); (put d r.2.1 .int, r.2.2)⟩
  | .minmax d a b f _ =>
    if f ≥ 4 then some ⟨⟨[⟨a.toNat, 2, .int⟩, ⟨b.toNat, 2, .int⟩], dstRegs d.toNat 2 .w64⟩, false, fun l =>
      (put2 d (minMax64 (f == 5) (s.v64 l a) (s.v64 l b)) .w64, 0)⟩
    else some ⟨⟨[⟨a.toNat, 1, .int⟩, ⟨b.toNat, 1, .int⟩], dstRegs d.toNat 1 .int⟩, false, fun l =>
      (put d (minMax32 f.toNat (s.v32 l a) (s.v32 l b)) .int, 0)⟩
  | .absneg d a f _ =>
    if f ≥ 2 then some ⟨⟨[⟨a.toNat, 2, .int⟩], dstRegs d.toNat 2 .w64⟩, false, fun l =>
      (put2 d (if f == 3 || (s.v64 l a).msb then -(s.v64 l a) else s.v64 l a) .w64, 0)⟩
    else some ⟨⟨[⟨a.toNat, 1, .int⟩], dstRegs d.toNat 1 .int⟩, false, fun l =>
      (put d (if f == 1 || (s.v32 l a).msb then -(s.v32 l a) else s.v32 l a) .int, 0)⟩
  | .logic d a b f _ =>
    if f == 6 then some ⟨⟨[⟨a.toNat, 1, .any⟩], dstRegs d.toNat 1 .raw⟩, false, fun l => (put d (~~~(s.v32 l a)) .raw, 0)⟩
    else some ⟨⟨[⟨a.toNat, 1, .any⟩, ⟨b.toNat, 1, .any⟩], dstRegs d.toNat 1 .raw⟩, false, fun l =>
      (put d (logicOp f.toNat (s.v32 l a) (s.v32 l b)) .raw, 0)⟩
  | .shift d a b f _ =>
    if f ≥ 4 then some ⟨⟨[⟨a.toNat, 2, .any⟩, ⟨b.toNat, 1, .any⟩], dstRegs d.toNat 2 .raw⟩, false, fun l =>
      (put2 d (shift64 f.toNat (s.v64 l a) (s.v32 l b).toNat) .raw, 0)⟩
    else some ⟨⟨[⟨a.toNat, 1, .any⟩, ⟨b.toNat, 1, .any⟩], dstRegs d.toNat 1 .raw⟩, false, fun l =>
      (put d (shift32 f.toNat (s.v32 l a) (s.v32 l b).toNat) .raw, 0)⟩
  | .bits d a f _ => some ⟨⟨[⟨a.toNat, 1, .any⟩], dstRegs d.toNat 1 .raw⟩, false, fun l => (put d (bitsOp f.toNat (s.v32 l a)) .raw, 0)⟩
  | .bfx d a b f _ => some ⟨⟨[⟨a.toNat, 1, .any⟩, ⟨b.toNat, 1, .any⟩], dstRegs d.toNat 1 .raw⟩, false, fun l =>
      (put d (extractField (f == 1) (s.v32 l a) (s.v32 l b)) .raw, 0)⟩
  | .bfi d a b _ =>
    some ⟨⟨[⟨a.toNat, 1, .any⟩, ⟨b.toNat, 1, .any⟩, ⟨s.regC.toNat, 1, .any⟩], dstRegs d.toNat 1 .raw⟩, false, fun l =>
      (put d (insertField (s.v32 l a) (s.v32 l b) (s.v32 l s.regC)) .raw, 0)⟩
  | .mov d a f _ =>
    if f == 1 then some ⟨⟨[⟨a.toNat, 2, .any⟩], dstRegs d.toNat 2 .raw⟩, false, fun l =>
      ([(d.toNat, (s.vAt l a 0).moved), (d.toNat + 1, (s.vAt l a 1).moved)], 0)⟩
    else some ⟨⟨[⟨a.toNat, 1, .any⟩], dstRegs d.toNat 1 .raw⟩, false, fun l => ([(d.toNat, (s.vAt l a 0).moved)], 0)⟩
  | .li d i => some ⟨⟨[], dstRegs d.toNat 1 .int⟩, false, fun _ => (put d (i.signExtend 32) .int, 0)⟩
  | .lih d i => some ⟨⟨[⟨d.toNat, 1, .any⟩], dstRegs d.toNat 1 .int⟩, false, fun l =>
      (put d ((i.setWidth 32 <<< 14) ||| (s.v32 l d &&& 0x3FFF)) .int, 0)⟩
  | .tagset d a t => some ⟨⟨[⟨a.toNat, 1, .any⟩], dstRegs d.toNat 1 (Tag.ofCode t.toNat)⟩, false, fun l =>
      (put d (s.v32 l a) (Tag.ofCode t.toNat), 0)⟩
  | .tagget d a _ => some ⟨⟨[⟨a.toNat, 1, .unchecked⟩], dstRegs d.toNat 1 .int⟩, false, fun l =>
      (put d ((s.v l a).tag.code.setWidth 32) .int, 0)⟩
  | _ => none

/-- The floating-point, conversion, LG6 and softmax words on lanes (R129 to R142). -/
def floatRow (s : State) : Instr → Option LaneRow
  | .fadd d a b f _ => some (two d a b f false (fun x y => (formFmt f).round s.mode false
      (fAdd s.mode ((formFmt f).unpack x) ((formFmt f).unpack y))))
  | .fsub d a b f _ => some (two d a b f false (fun x y => (formFmt f).round s.mode false
      (fAdd s.mode ((formFmt f).unpack x) ((formFmt f).unpack y).neg)))
  | .fmul d a b f _ => some (two d a b f false (fun x y => (formFmt f).round s.mode false
      (fMul ((formFmt f).unpack x) ((formFmt f).unpack y))))
  | .fdiv d a b f _ => some (two d a b f true (fun x y => (formFmt f).deliver s.mode
      (fDiv ((formFmt f).unpack x) ((formFmt f).unpack y))))
  | .fminmax d a b f _ => some (two d a b (f >>> 1) false (fun x y => (formFmt (f >>> 1)).minMax (f.getLsbD 0) x y))
  | .fma d a b f _ =>
    some ⟨⟨[form f a, form f b, form f s.regC], dstRegs d.toNat (if f == 1 then 2 else 1) (formTag f)⟩, false, fun l =>
      let o := packElems f (((s.elems f l a).zip ((s.elems f l b).zip (s.elems f l s.regC))).map (fun p =>
        (formFmt f).round s.mode false (fFma s.mode ((formFmt f).unpack p.1) ((formFmt f).unpack p.2.1) ((formFmt f).unpack p.2.2))))
      (o.writes d (f == 1) (formTag f), o.fl)⟩
  | .fabsneg d a f _ =>
    if f ≥ 2 then some ⟨⟨[⟨a.toNat, 2, .f64⟩], dstRegs d.toNat 2 .f64⟩, false, fun l =>
      (put2 d (if f == 2 then s.v64 l a &&& 0x7FFFFFFFFFFFFFFF else s.v64 l a ^^^ 0x8000000000000000) .f64, 0)⟩
    else some ⟨⟨[⟨a.toNat, 1, .f32⟩], dstRegs d.toNat 1 .f32⟩, false, fun l =>
      (put d (if f == 0 then s.v32 l a &&& 0x7FFFFFFF else s.v32 l a ^^^ 0x80000000) .f32, 0)⟩
  | .fclass d a f _ => some ⟨⟨[form f a], dstRegs d.toNat 1 .int⟩, false, fun l =>
      (put d ((formFmt f).classify (if f == 1 then (s.v64 l a).toNat else (s.v32 l a).toNat)) .int, 0)⟩
  | .frnd d a f _ => some (one d a f (fun x => (formFmt f).roundIntegral s.mode x))
  | .fscl d a b f _ => some ⟨⟨[form f a, ⟨b.toNat, 1, .int⟩], dstRegs d.toNat (if f == 1 then 2 else 1) (formTag f)⟩, false, fun l =>
      let o := packElems f ((s.elems f l a).map (fun x => (formFmt f).scale s.mode x (s.v32 l b).toInt))
      (o.writes d (f == 1) (formTag f), o.fl)⟩
  | .sfu d a f _ => some ⟨⟨[⟨a.toNat, 1, .f32⟩], dstRegs d.toNat 1 .f32⟩, true, fun l =>
      let o := packElems 0 [fmtF32.deliver s.mode (sfuOp f.toNat (fmtF32.unpack (s.v32 l a).toNat))]
      (o.writes d false .f32, o.fl)⟩
  | .sfd d a f _ => some ⟨⟨[⟨a.toNat, 2, .f64⟩], dstRegs d.toNat 2 .f64⟩, true, fun l =>
      let x := fmtF64.unpack (s.v64 l a).toNat
      let o := packElems 1 [fmtF64.deliver s.mode (if f == 0 then fRcp x else if f == 1 then (fSqrt x, 0) else fRsqrt x)]
      (o.writes d true .f64, o.fl)⟩
  | .cvt d a f t => some ⟨⟨[⟨a.toNat, cvtReads f t, codeAcc f⟩], dstRegs d.toNat (cvtWrites f t) (codeTag t)⟩, false, fun l =>
      let r := convert f t s.mode s.saturating ((List.range (cvtReads f t)).map (fun i => (s.vAt l a i).val))
      (putN d.toNat r.1, r.2)⟩
  | .lgmul d a b _ => some ⟨⟨[⟨a.toNat, 1, .lg6⟩, ⟨b.toNat, 1, .lg6⟩], dstRegs d.toNat 1 .lg6x5⟩, false, fun l =>
      let es := (List.range 5).map (fun i => lgMul (lgElem (s.v32 l a).toNat i) (lgElem (s.v32 l b).toNat i))
      (put d (BitVec.ofNat 32 (packBits 6 (es.map (·.1)))) .lg6x5, es.foldl (fun x e => x ||| e.2) 0)⟩
  | .lgdot d a b _ => some ⟨⟨[⟨a.toNat, 1, .lg6⟩, ⟨b.toNat, 1, .lg6⟩, ⟨d.toNat, 1, .f32⟩], dstRegs d.toNat 1 .f32⟩, false, fun l =>
      let r := lgDot s.mode (s.v32 l d).toNat (s.v32 l a).toNat (s.v32 l b).toNat
      (put d (BitVec.ofNat 32 r.bits) .f32, r.fl)⟩
  | .smxa d a _ => some ⟨⟨[⟨a.toNat, 32, .f32⟩, ⟨d.toNat, 2, .f32⟩], dstRegs d.toNat 3 .f32⟩, false, fun l =>
      let r := softmaxA (s.vAt l d 0).val.toNat (s.vAt l d 1).val.toNat (s.group l a 32)
      ([(d.toNat, f32Reg r.1), (d.toNat + 1, f32Reg r.2.1), (d.toNat + 2, f32Reg r.2.2.1)], r.2.2.2)⟩
  | .smxb d a b f _ =>
    some ⟨⟨[⟨a.toNat, 32, .f32⟩, ⟨b.toNat, 3, .f32Ends⟩, ⟨d.toNat, 32, .f32⟩],
        dstRegs a.toNat (softmaxPRegs f.toNat) (softmaxPTag f.toNat) ++ dstRegs d.toNat 32 .f32⟩, false, fun l =>
      let es := (s.group l a 32).map (fun x => expDiff x (s.vAt l b 0).val.toNat)
      let p := softmaxP f.toNat (es.map (·.bits))
      let os := (s.group l d 32).map (fun x =>
        fmtF32.round .rne false (fMul (fmtF32.unpack x) (fmtF32.unpack (s.vAt l b 2).val.toNat)))
      (putN a.toNat p.1 ++ putN d.toNat (os.map (fun o => f32Reg o.bits)),
        es.foldl (fun x e => x ||| e.fl) (os.foldl (fun x e => x ||| e.fl) p.2))⟩
  | _ => none
where
  /-- A source of a form of R129. -/
  form (f : BitVec 3) (r : BitVec 6) : Use := ⟨r.toNat, if f == 1 then 2 else 1, formAcc f⟩
  /-- A word of two sources, element by element (R60, R129). -/
  two (d a b : BitVec 6) (f : BitVec 3) (long : Bool) (g : Nat → Nat → FRes) : LaneRow :=
    ⟨⟨[form f a, form f b], dstRegs d.toNat (if f == 1 then 2 else 1) (formTag f)⟩, long, fun l =>
      let o := packElems f (((s.elems f l a).zip (s.elems f l b)).map (fun p => g p.1 p.2))
      (o.writes d (f == 1) (formTag f), o.fl)⟩
  /-- A word of one source, element by element. -/
  one (d a : BitVec 6) (f : BitVec 3) (g : Nat → FRes) : LaneRow :=
    ⟨⟨[form f a], dstRegs d.toNat (if f == 1 then 2 else 1) (formTag f)⟩, false, fun l =>
      let o := packElems f ((s.elems f l a).map g)
      (o.writes d (f == 1) (formTag f), o.fl)⟩

end Sys2Proof.Claims

open Sys2Proof Sys2Proof.Machine Sys2Proof.Claims

/-- The integer words on lanes complete with the results of R115 to R128, R143 and R144, each in its own lane, and change nothing
else (R94, R113). -/
def Obligations.IntegerLanes : Prop :=
  ∀ (s : State) (i : Instr) (r : LaneRow), integerRow s i = some r → s.issues i → s.lanesPass r.op →
    ∃ t, exec i s = .next t ∧ r.done s t

/-- The floating-point, conversion, LG6 and softmax words complete with the results of R129 to R142 and change nothing else. -/
def Obligations.FloatLanes : Prop :=
  ∀ (s : State) (i : Instr) (r : LaneRow), floatRow s i = some r → s.issues i → s.lanesPass r.op →
    ∃ t, exec i s = .next t ∧ r.done s t

namespace Sys2Proof.Claims
open Sys2Proof.Machine

/-! ### Words across lanes, and masks -/

/-- A state as `sel` sees it: its prefix selects and does not narrow (R126). -/
def unmasked (s : State) : State := { s with cur := { s.cur with pfx := none } }

/-- `sel`: each issued lane takes a where its mask bit is 1, and else b, or 0 with the tag of b under `zero` (R126). -/
def selectRow (s : State) (d a b : BitVec 6) (wide : Bool) : LaneRow :=
  let pick (l i : Nat) : Reg :=
    if s.activeMask.getLsbD l then (s.vAt l a i).moved
    else if s.zeroing then ⟨0, (s.vAt l b i).tag.moved⟩
    else (s.vAt l b i).moved
  if wide then ⟨⟨[⟨a.toNat, 2, .any⟩, ⟨b.toNat, 2, .any⟩], dstRegs d.toNat 2 .raw⟩, false, fun l =>
    ([(d.toNat, pick l 0), (d.toNat + 1, pick l 1)], 0)⟩
  else ⟨⟨[⟨a.toNat, 1, .any⟩, ⟨b.toNat, 1, .any⟩], dstRegs d.toNat 1 .raw⟩, false, fun l => ([(d.toNat, pick l 0)], 0)⟩

/-- `movs`: a uniform register to each active lane (R111). -/
def broadcastRow (s : State) (d a : BitVec 6) : LaneRow :=
  ⟨⟨[], dstRegs d.toNat 1 .raw⟩, false, fun _ => ([(d.toNat, (s.u a).moved)], 0)⟩

/-- The lane that `shfl` gives lane l its value from (R106): the lane that is named, if there is one and it is active, and else l. -/
def shuffleFrom (s : State) (o : LaneOp) (f : BitVec 3) (b : BitVec 6) (l : Nat) : Nat :=
  let k := shuffleSource f.toNat l (s.v32 l b).toNat
  if k < 0 || k ≥ s.curB.w || !s.sound o k.toNat then l else k.toNat

/-- `shfl` (R106). -/
def shuffleRow (s : State) (d a b : BitVec 6) (f : BitVec 3) : LaneRow :=
  let o : LaneOp := ⟨[⟨a.toNat, 1, .any⟩, ⟨b.toNat, 1, .any⟩], dstRegs d.toNat 1 .raw⟩
  ⟨o, false, fun l => ([(d.toNat, (s.v (shuffleFrom s o f b l) a).moved)], 0)⟩

/-- `red` (R108): every active lane takes the combination over the tree of all W lanes, in which a lane that is not active stands with
the identity. -/
def reduceRow (s : State) (d a : BitVec 6) (f : BitVec 3) : LaneRow :=
  let o := RedOp.ofFn f.toNat
  let p := redOperands d a o
  let r := o.tree s.curB.w.log2 ((List.range s.curB.w).map (fun l => if s.sound p l then s.v32 l a else o.identity))
  let nan := (o == .minF || o == .maxF) && allNaN ((s.counted p).map (fun l => s.v32 l a))
  ⟨p, true, fun _ => ([(d.toNat, ⟨if nan then 0x7FC00000 else r.1, if o.isFloat then .f32 else .int⟩)], r.2)⟩

/-- `scan` (R109): each active lane takes the prefix combination over the active lanes up to it, or before it. -/
def scanRow (s : State) (d a : BitVec 6) (f : BitVec 3) : LaneRow :=
  let o := RedOp.ofScan f.toNat
  let p := redOperands d a o
  let rs := o.scan (f == 1 || f == 3) o.identity ((s.counted p).map (fun l => (l, s.v32 l a)))
  ⟨p, true, fun l => match lookupKey l rs with
    | some r => ([(d.toNat, ⟨r.1, if o.isFloat then .f32 else .int⟩)], r.2)
    | none => ([], 0)⟩

end Sys2Proof.Claims

/-- `sel` and `movs` complete (R126, R111): each issued lane takes a or b by the mask, each active lane takes the uniform register, and
nothing else changes.
`shfl`, `red` and `scan` complete with the values of R106, R108 and R109 and change nothing else, but that `red` and `scan` set
BSTAT.EMPTY where no lane is active. -/
def Obligations.LaneExchange : Prop :=
  (∀ (s : State) (d a b : BitVec 6) (f : BitVec 3) (h : BitVec 2), s.issues (.sel d a b f h) →
    (unmasked s).lanesPass (selectRow s d a b (f == 1)).op →
      ∃ t, exec (.sel d a b f h) s = .next { t with cur := s.cur } ∧ (selectRow s d a b (f == 1)).done (unmasked s) t) ∧
  (∀ (s : State) (d a : BitVec 6) (h : BitVec 1), s.issues (.movs d a h) → s.uniTrap [⟨a.toNat, 1, .any⟩] = none →
    s.lanesPass (broadcastRow s d a).op → ∃ t, exec (.movs d a h) s = .next t ∧ (broadcastRow s d a).done s t) ∧
  (∀ (s : State) (d a b : BitVec 6) (f : BitVec 3) (h : BitVec 2), s.issues (.shfl d a b f h) → s.lanesPass (shuffleRow s d a b f).op →
    ∃ t, exec (.shfl d a b f h) s = .next t ∧ (shuffleRow s d a b f).done s t) ∧
  (∀ (s : State) (i : Instr) (r : LaneRow), (∃ d a f h, (i = .red d a f h ∧ r = reduceRow s d a f) ∨ (i = .scan d a f h ∧ r = scanRow s d a f)) →
    s.issues i → s.lanesPass r.op →
      ∃ t, exec i s = .next t ∧ ((∃ l ∈ s.issued, s.isActive l = true) → r.done s t) ∧
        ((∀ l ∈ s.issued, s.isActive l = false) → r.done s.setEmpty t))

/-- `cmp`, `ballot`, `elect`, `lvlead`, `mlogic` and `stom` complete (R95, R107, R110, R125, R196): the mask register holds the bits that
the rule gives, the issued set passes the word, and nothing else changes. -/
def Obligations.MaskWords : Prop :=
  (∀ (s : State) (m c : BitVec 3) (a b : BitVec 6) (f : BitVec 3) (h : BitVec 2), s.issues (.cmp m c a b f h) →
    (let wide := f == 2 || f == 3 || f == 5
     let acc : Accept := if f == 4 then .f32 else if f == 5 then .f64 else .int
     let n := if wide then 2 else 1
     s.lanesPass ⟨[⟨a.toNat, n, acc⟩, ⟨b.toNat, n, acc⟩], []⟩) →
    ∃ t, exec (.cmp m c a b f h) s = .next t ∧
      MaskStep s t m.toNat (s.maskResult (s.readM m.toNat) (fun l => (s.compareLane c.toNat f.toNat a b l).1))
        (s.maskThreads (fun l => (s.compareLane c.toNat f.toNat a b l).2))) ∧
  (∀ (s : State) (m : BitVec 3) (a : BitVec 6) (h : BitVec 1), s.issues (.ballot m a h) → s.lanesPass ⟨[⟨a.toNat, 1, .any⟩], []⟩ →
    ∃ t v, exec (.ballot m a h) s = .next t ∧ MaskStep s t m.toNat v (s.maskThreads (fun _ => 0)) ∧
      ∀ l < 64, (s.cur.lanes.getLsbD l = true → l < s.curB.threads.length) → v.getLsbD l =
        if ¬ (l < s.curB.w ∧ s.cur.lanes.getLsbD l = true) then false
        else if s.isActive l then s.v32 l a != 0
        else !s.zeroing && (s.readM m.toNat).getLsbD l) ∧
  (∀ (s : State) (m : BitVec 3), s.issues (.elect m) →
    ∃ t v, exec (.elect m) s = .next t ∧ MaskStep s t m.toNat v (s.maskThreads (fun _ => 0)) ∧
      ∀ l < 64, v.getLsbD l = decide (l < s.curB.w ∧ s.isActive l = true ∧ ∀ k < l, s.isActive k = false)) ∧
  (∀ (s : State) (m : BitVec 3) (k : BitVec 2), s.issues (.lvlead m k) →
    ∃ t v, exec (.lvlead m k) s = .next t ∧ MaskStep s t m.toNat v s.passed ∧
      ∀ l < 64, v.getLsbD l = if l ∈ s.issued then s.leads s.cur.bundle l k.toNat else (s.readM m.toNat).getLsbD l) ∧
  (∀ (s : State) (d a b : BitVec 3) (f : BitVec 6), s.issues (.mlogic d a b f) →
    ∃ t, exec (.mlogic d a b f) s = .next t ∧
      MaskStep s t d.toNat (maskOp f.toNat (s.readM a.toNat) (s.readM b.toNat)) s.passed) ∧
  (∀ (s : State) (d : BitVec 3) (a : BitVec 6), s.issues (.stom d a) → s.uniTrap [⟨a.toNat, 2, .any⟩] = none →
    ∃ t, exec (.stom d a) s = .next t ∧ MaskStep s t d.toNat (s.u64 a) s.passed)

namespace Sys2Proof.Claims
open Sys2Proof.Machine

/-! ### Uniform words -/

/-- The uniform words that write uniform registers: their sources, and the registers they write with the values of R110 and R145 to
R147. -/
def uniformRow (s : State) : Instr → Option (List Use × List (Nat × Reg))
  | .uadd d a b f => some (if f == 1 then ([⟨a.toNat, 2, .int⟩, ⟨b.toNat, 2, .int⟩], put2 d (s.u64 a + s.u64 b) .w64)
      else ([⟨a.toNat, 1, .int⟩, ⟨b.toNat, 1, .int⟩], put d (s.u32 a + s.u32 b) .int))
  | .usub d a b f => some (if f == 1 then ([⟨a.toNat, 2, .int⟩, ⟨b.toNat, 2, .int⟩], put2 d (s.u64 a - s.u64 b) .w64)
      else ([⟨a.toNat, 1, .int⟩, ⟨b.toNat, 1, .int⟩], put d (s.u32 a - s.u32 b) .int))
  | .umul d a b f => some (if f == 1 then ([⟨a.toNat, 2, .int⟩, ⟨b.toNat, 2, .int⟩], put2 d (s.u64 a * s.u64 b) .w64)
      else ([⟨a.toNat, 1, .int⟩, ⟨b.toNat, 1, .int⟩],
        put d (if f == 0 then s.u32 a * s.u32 b else mulHigh (f == 3) (s.u32 a) (s.u32 b)) .int))
  | .uminmax d a b f => some (if f ≥ 4 then ([⟨a.toNat, 2, .int⟩, ⟨b.toNat, 2, .int⟩], put2 d (minMax64 (f == 5) (s.u64 a) (s.u64 b)) .w64)
      else ([⟨a.toNat, 1, .int⟩, ⟨b.toNat, 1, .int⟩], put d (minMax32 f.toNat (s.u32 a) (s.u32 b)) .int))
  | .ulogic d a b f => some (if f == 6 then ([⟨a.toNat, 1, .any⟩], put d (~~~(s.u32 a)) .raw)
      else ([⟨a.toNat, 1, .any⟩, ⟨b.toNat, 1, .any⟩], put d (logicOp f.toNat (s.u32 a) (s.u32 b)) .raw))
  | .ushift d a b f => some (if f ≥ 4 then ([⟨a.toNat, 2, .any⟩, ⟨b.toNat, 1, .any⟩], put2 d (shift64 f.toNat (s.u64 a) (s.u32 b).toNat) .raw)
      else ([⟨a.toNat, 1, .any⟩, ⟨b.toNat, 1, .any⟩], put d (shift32 f.toNat (s.u32 a) (s.u32 b).toNat) .raw))
  | .ubits d a f => some ([⟨a.toNat, 1, .any⟩], put d (bitsOp f.toNat (s.u32 a)) .raw)
  | .ucmp d a b c t => some ((let n := if t ≥ 2 then 2 else 1; [⟨a.toNat, n, .int⟩, ⟨b.toNat, n, .int⟩]),
      put d (if compareInt c.toNat t.toNat (s.u32 a) (s.u32 b) (s.u64 a) (s.u64 b) then 1 else 0) .int)
  | .umov d a f => some (if f == 1 then ([⟨a.toNat, 2, .any⟩],
        [(d.toNat, (s.readS s.cur.bundle a.toNat).moved), (d.toNat + 1, (s.readS s.cur.bundle (a.toNat + 1)).moved)])
      else ([⟨a.toNat, 1, .any⟩], [(d.toNat, (s.readS s.cur.bundle a.toNat).moved)]))
  | .uli d i => some ([], put d (i.signExtend 32) .int)
  | .ulih d i => some ([⟨d.toNat, 1, .any⟩], put d ((i.setWidth 32 <<< 14) ||| (s.u32 d &&& 0x3FFF)) .int)
  | .uaddi d a i => some ([⟨a.toNat, 1, .int⟩], put d (s.u32 a + i.signExtend 32) .int)
  | .mpopc d a => some ([], put d (BitVec.ofNat 32 (popCount (s.readM a.toNat) s.curB.w)) .int)
  | .mtos d a => some ([], put2 d (s.readM a.toNat) .w64)
  | .mfirst d a => some ([], put d (BitVec.ofNat 32 (firstLane (s.readM a.toNat) s.curB.w)) .int)
  | _ => none

end Sys2Proof.Claims

/-- The uniform integer words and the mask words with a uniform result complete with the results of R110 and R145 to R147 and change
nothing else; `ulane` complete with the register of its lane (R111). -/
def Obligations.UniformWords : Prop :=
  (∀ (s : State) (i : Instr) (us : List Use) (ws : List (Nat × Reg)), uniformRow s i = some (us, ws) → s.issues i → s.uniTrap us = none →
    ∃ t, exec i s = .next t ∧ UniStep s t ws) ∧
  (∀ (s : State) (d a n : BitVec 6), s.issues (.ulane d a n) → n.toNat < s.curB.w →
    (s.tagCheck = true → (s.laneRegister n.toNat a).tag ≠ .empty ∧ (s.laneRegister n.toNat a).tag ≠ .pend) →
    ∃ t, exec (.ulane d a n) s = .next t ∧ UniStep s t [(d.toNat, (s.laneRegister n.toNat a).moved)])

namespace Sys2Proof.Claims
open Sys2Proof.Machine

/-! ### Levels and control flow -/

/-- The level words that give each active lane a value (R191, R193), where none of them is LEVEL_USE. -/
def levelRow (s : State) : Instr → Option LaneRow
  | .lvidx d k => some ⟨⟨[], dstRegs d.toNat 1 .int⟩, false, fun l =>
      (put d (BitVec.ofNat 32 (s.levelIndex s.cur.bundle l k.toNat)) .int, 0)⟩
  | .lvext d k => some ⟨⟨[], dstRegs d.toNat 1 .int⟩, false, fun _ =>
      (put d (BitVec.ofNat 32 ((s.bundleLaunch s.cur.bundle).extent k.toNat)) .int, 0)⟩
  | .lvshare d n => if n.toNat < (s.bundleLaunch s.cur.bundle).code.shares.length then
      some ⟨⟨[], dstRegs d.toNat 2 .w64⟩, false, fun l => (put2 d (s.shareAddr s.cur.bundle l n.toNat) .w64, 0)⟩ else none
  | .lvcarry d k => if (s.bundleLaunch s.cur.bundle).code.carryBytes k.toNat ≠ 0 then
      some ⟨⟨[], dstRegs d.toNat 2 .w64⟩, false, fun l => (put2 d (s.carryAddr s.cur.bundle l k.toNat) .w64, 0)⟩ else none
  | _ => none

/-- The operands of `lvred` (R195): the value, and the register that is named and not read. -/
def levelRedOp (d a : BitVec 6) (f : BitVec 3) : LaneOp :=
  ⟨[⟨a.toNat, 1, if (RedOp.ofFn f.toNat).isFloat then .f32 else .int⟩, ⟨d.toNat, 1, .unchecked⟩], []⟩

/-- The slot that `lvred` gives a lane (R195): its value where it is a leader of the level, and else the identity. -/
def levelSlot (s : State) (d a : BitVec 6) (k : BitVec 2) (f : BitVec 3) (l : Nat) : LvSlot :=
  let t := s.curB.thread l
  ⟨k.toNat, t.slotsUsed k.toNat, f.toNat, d.toNat, t.counter k.toNat,
    if s.leads s.cur.bundle l k.toNat then s.v32 l a else (RedOp.ofFn f.toNat).identity⟩

/-- A lane has local iterations of a level left (R189). -/
def loopsBack (s : State) (k l : Nat) : Bool :=
  decide ((s.curB.thread l).counter k + 1 < (s.bundleLaunch s.cur.bundle).localCount k (s.unit s.cur.bundle l k))

/-- No generation of a barrier is open, and no thread has arrived at it. -/
def barIdle (s : State) (r : BarRef) : Prop :=
  (s.bar r).counting = false ∧ ∀ b l, (s.thread b l).arrived.getLsbD r.bit = false

/-- One barrier has changed, and no other; nothing else of a team or a pack has. -/
structure BarNow (s t : State) (r : BarRef) (b : Barrier) : Prop where
  bar : t.bar r = b
  others : ∀ r', r' ≠ r → t.bar r' = s.bar r'
  teams : t.teams.map (fun x => { x with bars := [] }) = s.teams.map (fun x => { x with bars := [] })
  packs : t.packs.map (fun x => { x with bars := [] }) = s.packs.map (fun x => { x with bars := [] })

/-- The teams and packs of another state, for a frame beside BarNow. -/
def withBars (s t : State) : State := { s with teams := t.teams, packs := t.packs }

/-- No thread of the team has an access outstanding, its bundle is shown none of others', and no line of its windows is dirty or being
written back: a release fence is over at once (R159, R229). -/
def teamQuiet (s : State) : Prop :=
  (∀ b l, (s.bundle b).team = some s.curTeam → (s.thread b l).out = []) ∧ s.unshown ∧ s.linesClean

/-- A thread of the team at issue is counted at its barrier `n`, once the issued lanes have arrived (R220). -/
def countedAfter (s : State) (n b l : Nat) : Prop :=
  (s.thread b l).isExited = true ∨ (s.thread b l).arrived.getLsbD n = true ∨ (s.thread b l).excused.getLsbD n = true ∨
    (b = s.cur.bundle ∧ l ∈ s.issued)

/-- Every thread of the team is counted, those of its retired bundles among them. -/
def allCounted (s : State) (n : Nat) : Prop :=
  ∀ b, (s.bundle b).team = some s.curTeam → ∀ l < (s.bundle b).threads.length, countedAfter s n b l

/-- A thread that has arrived at a barrier. -/
def arrivedAt (th : Thread) (n : Nat) : Thread := { th with arrived := th.arrived ||| (1#24 <<< n) }

/-- The threads that arrive at the barrier of a BUNDLE level, whose team barrier is `12 + k` (R190): they have not arrived, and have no
local iteration left. -/
structure LevelArrival (s : State) (k : Nat) : Prop where
  role : (s.bundleLaunch s.cur.bundle).role k = .bundle
  last : ∀ l ∈ s.issued, loopsBack s k l = false
  bundle : s.curB.team = some s.curTeam ∧ s.curB.live = true
  team : s.curTeam < s.teams.length ∧ 12 + k < (s.team s.curTeam).bars.length
  mode : (s.bar (.team s.curTeam (12 + k))).all = true
  fresh : ∀ j ∈ s.issued, (s.curB.thread j).arrived.getLsbD (12 + k) = false ∧ (s.curB.thread j).pwait = none
  quiet : teamQuiet s

end Sys2Proof.Claims

/-- `lvidx`, `lvext`, `lvshare` and `lvcarry` complete with the values of R191 and R193, and `lvred` with a slot more in each active lane
(R195); nothing else changes. Where every issued lane is active, a fifth `lvred` of an iteration, an `lvshare` of a share that is not, and
an `lvcarry` at a level without carry are LEVEL_USE (0x7C), as are `lvbar` and `lvend` with an offset that is not negative (R189).
`lvbar` and `lvend` loop back where every issued lane has local iterations left: the counter rises by one and the lane goes to the target.
Where none has, and the level is NONE or SEQ, or `lvend` names one without RED, the lane falls through: the counter is 0 and the lane goes
on; `lvbar` has no more to do for its fence where nothing is outstanding (R189). At a BUNDLE level, `lvbar`, and `lvend` of one with RED,
arrive and wait at team barrier 12 + k until every thread of the team is counted (R190). -/
def Obligations.Levels : Prop :=
  (∀ (s : State) (i : Instr) (r : LaneRow), levelRow s i = some r → s.issues i → s.lanesPass r.op →
    ∃ t, exec i s = .next t ∧ r.done s t) ∧
  (∀ (s : State) (d a : BitVec 6) (k : BitVec 2) (f : BitVec 3) (h : BitVec 1), s.issues (.lvred d a k f h) →
    s.lanesPass (levelRedOp d a f) → (∀ l ∈ s.issued, s.isActive l = true → (s.curB.thread l).slotsUsed k.toNat < 4) →
    ∃ t, exec (.lvred d a k f h) s = .next t ∧
      LaneStep s t (fun l th =>
        (if s.isActive l then { th with slots := th.slots ++ [levelSlot s d a k f l] } else th).advance s.cur.pc)) ∧
  (∀ (s : State) (d a : BitVec 6) (k : BitVec 2) (f : BitVec 3) (h : BitVec 1), s.issues (.lvred d a k f h) →
    s.lanesPass (levelRedOp d a f) → (∀ l ∈ s.issued, s.isActive l = true ∧ 4 ≤ (s.curB.thread l).slotsUsed k.toNat) →
    exec (.lvred d a k f h) s = .next (s.trapIssued (TrapInfo.of 0x7C))) ∧
  (∀ (s : State) (d : BitVec 6) (n : BitVec 8), s.issues (.lvshare d n) → s.lanesPass ⟨[], dstRegs d.toNat 2 .w64⟩ →
    (∀ l ∈ s.issued, s.isActive l = true) → (s.bundleLaunch s.cur.bundle).code.shares.length ≤ n.toNat →
    exec (.lvshare d n) s = .next (s.trapIssued (TrapInfo.of 0x7C))) ∧
  (∀ (s : State) (d : BitVec 6) (k : BitVec 2), s.issues (.lvcarry d k) → s.lanesPass ⟨[], dstRegs d.toNat 2 .w64⟩ →
    (∀ l ∈ s.issued, s.isActive l = true) → (s.bundleLaunch s.cur.bundle).code.carryBytes k.toNat = 0 →
    exec (.lvcarry d k) s = .next (s.trapIssued (TrapInfo.of 0x7C))) ∧
  (∀ (s : State) (i : Instr) (k : BitVec 2) (o : BitVec 20), i = .lvbar k o ∨ i = .lvend k o → s.issues i → o.getLsbD 19 = false →
    exec i s = .next (s.trapIssued (TrapInfo.of 0x7C))) ∧
  (∀ (s : State) (i : Instr) (k : BitVec 2) (o : BitVec 20), i = .lvbar k o ∨ i = .lvend k o → s.issues i → o.getLsbD 19 = true →
    (∀ l ∈ s.issued, loopsBack s k.toNat l = true) → barIdle s (s.levelBar s.cur.bundle k.toNat) →
    ∃ t, exec i s = .next t ∧
      LaneStep s t (fun _ th => (th.setCounter k.toNat (th.counter k.toNat + 1)).goto (s.cur.pc + o.signExtend 64 * 4))) ∧
  (∀ (s : State) (k : BitVec 2) (o : BitVec 20), s.issues (.lvend k o) → o.getLsbD 19 = true →
    (∀ l ∈ s.issued, loopsBack s k.toNat l = false) →
    ((s.bundleLaunch s.cur.bundle).role k.toNat).parallel = false ∨ (s.bundleLaunch s.cur.bundle).code.hasRed k.toNat = false →
    (∀ l ∈ s.issued, ∀ z ∈ (s.curB.thread l).slots, z.k ≠ k.toNat) → barIdle s (s.levelBar s.cur.bundle k.toNat) →
    ∃ t, exec (.lvend k o) s = .next t ∧ LaneStep s t (fun _ th => (th.setCounter k.toNat 0).advance th.pc)) ∧
  (∀ (s : State) (k : BitVec 2) (o : BitVec 20), s.issues (.lvbar k o) → o.getLsbD 19 = true →
    (∀ l ∈ s.issued, loopsBack s k.toNat l = false ∧ (s.curB.thread l).out = []) →
    ((s.bundleLaunch s.cur.bundle).role k.toNat).parallel = false → s.unshown → s.linesClean →
    (∀ l ∈ s.issued, ∀ z ∈ (s.curB.thread l).slots, z.k ≠ k.toNat) → barIdle s (s.levelBar s.cur.bundle k.toNat) →
    ∃ t, exec (.lvbar k o) s = .next t ∧ LaneStep s.bare t.bare (fun _ th => (th.setCounter k.toNat 0).advance th.pc)) ∧
  (∀ (s : State) (i : Instr) (k : BitVec 2) (o : BitVec 20) (bar : Bool), i = (if bar then .lvbar k o else .lvend k o) → s.issues i →
    o.getLsbD 19 = true → LevelArrival s k.toNat → bar = true ∨ (s.bundleLaunch s.cur.bundle).code.hasRed k.toNat = true →
    s.issued ≠ [] → ¬ allCounted s (12 + k.toNat) →
    ∃ t, exec i s = .next t ∧
      t.bare.curB.threads = s.bare.curB.threads.mapIdx (fun l th => if s.cur.lanes.getLsbD l then { arrivedAt th (12 + k.toNat) with
        pwait := some ⟨false, 12 + k.toNat, (s.bar (.team s.curTeam (12 + k.toNat))).gen⟩
        st := .waiting (.level k.toNat bar) } else th) ∧
      BarNow s t (.team s.curTeam (12 + k.toNat)) { s.bar (.team s.curTeam (12 + k.toNat)) with counting := true, word := s.cur.pc } ∧
      SameBut s.cur.bundle (withBars s t).bare t.bare)

/-- Branches complete (R102, R103, R105): the lanes that the mask selects go to the target and the others go on, `brw` only where the
whistle is raised; a lane of `jmp` goes to the address in its own register pair; `nop` goes on. Nothing else changes. -/
def Obligations.Branches : Prop :=
  (∀ (s : State) (m : BitVec 3) (x : BitVec 1) (o : BitVec 20), s.issues (.br m x o) →
    ∃ t, exec (.br m x o) s = .next t ∧
      LaneStep s t (fun l th => if (s.readM m.toNat).getLsbD l = (x == 1) then th.goto (s.cur.pc + o.signExtend 64 * 4)
        else th.advance s.cur.pc)) ∧
  (∀ (s : State) (m : BitVec 3) (x : BitVec 1) (o : BitVec 20), s.issues (.brw m x o) →
    ∃ t, exec (.brw m x o) s = .next t ∧
      LaneStep s t (fun l th => if s.whistled = true ∧ (s.readM m.toNat).getLsbD l = (x == 1) then
        th.goto (s.cur.pc + o.signExtend 64 * 4) else th.advance s.cur.pc)) ∧
  (∀ (s : State) (a : BitVec 6), s.issues (.jmp a) → s.lanesPass ⟨[⟨a.toNat, 2, .int⟩], []⟩ →
    (∀ l ∈ s.issued, (s.curB.thread l).isReady = true) →
    (∀ l ∈ s.issued, s.isActive l = true → (s.v64 l a).toNat % 4 = 0 ∧ vaValid (s.v64 l a) = true) →
    ∃ t, exec (.jmp a) s = .next t ∧
      LaneStep s t (fun l th => if s.isActive l then th.goto (s.v64 l a) else th.advance s.cur.pc)) ∧
  (∀ s : State, s.issues .nop → ∃ t, exec .nop s = .next t ∧ UniStep s t [])

/-- `call` and `callr` complete where the frame of each lane that calls is entered (R102, R103): the lane keeps its return address in its
link, its window becomes that of a frame that is not entered, and it goes to the target, of `callr` the address in its own register pair;
the other lanes go on, and nothing else changes. Where every issued lane calls and has a frame that is not entered, the word is
WINDOW_RANGE (0x51) in each of them and changes nothing else. -/
def Obligations.Calls : Prop :=
  (∀ (s : State) (m : BitVec 3) (x : BitVec 1) (o : BitVec 20), s.issues (.call m x o) →
    (∀ l ∈ s.issued, (s.readM m.toNat).getLsbD l = (x == 1) → (s.curB.thread l).entered = true) →
    ∃ t, exec (.call m x o) s = .next t ∧
      LaneStep s t (fun l th => if (s.readM m.toNat).getLsbD l = (x == 1) then
        ({ th with linkPc := s.cur.pc + 4, nc := th.n, base := th.base + th.n, n := 0, o := 0, entered := false } : Thread).goto
          (s.cur.pc + o.signExtend 64 * 4) else th.advance s.cur.pc)) ∧
  (∀ (s : State) (a : BitVec 6), s.issues (.callr a) → s.lanesPass ⟨[⟨a.toNat, 2, .int⟩], []⟩ →
    (∀ l ∈ s.issued, (s.curB.thread l).isReady = true) →
    (∀ l ∈ s.issued, s.isActive l = true →
      (s.v64 l a).toNat % 4 = 0 ∧ vaValid (s.v64 l a) = true ∧ (s.curB.thread l).entered = true) →
    ∃ t, exec (.callr a) s = .next t ∧
      LaneStep s t (fun l th => if s.isActive l then
        ({ th with linkPc := s.cur.pc + 4, nc := th.n, base := th.base + th.n, n := 0, o := 0, entered := false } : Thread).goto
          (s.v64 l a) else th.advance s.cur.pc)) ∧
  (∀ (s : State) (m : BitVec 3) (x : BitVec 1) (o : BitVec 20), s.issues (.call m x o) →
    (∀ l ∈ s.issued, (s.readM m.toNat).getLsbD l = (x == 1) ∧ (s.curB.thread l).entered = false) →
    exec (.call m x o) s = .next (s.trapIssued (TrapInfo.of 0x51))) ∧
  (∀ (s : State) (a : BitVec 6), s.issues (.callr a) → s.lanesPass ⟨[⟨a.toNat, 2, .int⟩], []⟩ →
    (∀ l ∈ s.issued, s.isActive l = true ∧ (s.v64 l a).toNat % 4 = 0 ∧ vaValid (s.v64 l a) = true ∧ (s.curB.thread l).entered = false) →
    exec (.callr a) s = .next (s.trapIssued (TrapInfo.of 0x51)))

/-- Frames open and close (R104, R105). `enter` completes where its checks pass and the frame engine has spilled, has read back the
overlapped registers and has written the header: the window is N registers from base − o and FP and SP stand above the header. `ret`
before `enter` completes where the frame engine has read back the caller's registers, and gives the caller's window back. `ret` of an
entered frame, said of an issued set of one lane, completes where the frame engine has read the caller's registers: base, window, FP, SP
and PC are the caller's. `exit` ends its threads where they have nothing outstanding; where no barrier of theirs is open, nothing else
changes. -/
def Obligations.Frames : Prop :=
  (∀ (s m : State) (rs : List (Nat × EngineEnd × List (Nat × Reg))) (o n : BitVec 6), s.issues (.enter o n) →
    (∀ l ∈ s.issued, ∃ a, s.enterCheck l n.toNat o.toNat = .inr a) →
    State.enterAll s.cur.bundle n.toNat o.toNat s (s.enterGood n.toNat o.toNat) = (m, rs) → (∀ r ∈ rs, r.2.1 = .ok) →
    ∃ t, exec (.enter o n) s = .next t ∧
      ThreadsStep s.cur.bundle (m.calm s.cur.bundle) (t.calm s.cur.bundle)
        (fun l th => match lookupKey l (s.enterGood n.toNat o.toNat), lookupKey l rs with
          | some f, some r => th.enterOpen n.toNat o.toNat f r.2 s.cur.pc
          | _, _ => th)) ∧
  (∀ (s m : State) (rs : List (Nat × EngineEnd × List (Nat × Reg))), s.issues .ret →
    (∀ l ∈ s.issued, (s.curB.thread l).entered = false) → State.backAll s.cur.bundle s s.issued = (m, rs) → (∀ r ∈ rs, r.2.1 = .ok) →
    ∃ t, exec .ret s = .next t ∧ ThreadsStep s.cur.bundle m t (fun l th => match lookupKey l rs with
      | some r => th.retUnentered r.2
      | none => th)) ∧
  (∀ (s : State) (l : Nat) (h : Frame), s.issues .ret → s.issued = [l] → s.retHead s.cur.bundle l = some h → h.rpc ≠ 0 →
    (State.retAct s.cur.bundle s (l, h)).2.2.1 = .ok →
    ∃ t, exec .ret s = .next t ∧
      ThreadsStep s.cur.bundle ((State.retAct s.cur.bundle s (l, h)).1.calm s.cur.bundle) (t.calm s.cur.bundle) (fun k th => if k = l then
        { th.retEntered h (State.retAct s.cur.bundle s (l, h)).2.2.2.1 with marktop := (State.retAct s.cur.bundle s (l, h)).2.2.2.2 }
        else th)) ∧
  (∀ s : State, s.issues .exit → (∀ l ∈ s.issued, (s.curB.thread l).out = []) → s.unshown → s.linesClean →
    (∀ r ∈ s.barsOf s.cur.bundle, barIdle s r) →
    ∃ t, exec .exit s = .next t ∧ LaneStep s.bare t.bare
      (fun _ th => { th with st := .exited, pwait := none, marktop := 0 }))

namespace Sys2Proof.Claims
open Sys2Proof.Machine

/-- `p` is the lowest PC of lanes. -/
def isLowest (b : Bundle) (ls : List Nat) (p : DWord) : Prop := (∃ l ∈ ls, (b.thread l).pc = p) ∧ ∀ l ∈ ls, p ≤ (b.thread l).pc

/-- The PC at which a turn among lanes begins (R90): the lowest above `after`, or the lowest where none is above. -/
def turnStart (b : Bundle) (ls : List Nat) (after p : DWord) : Prop :=
  isLowest b (ls.filter (fun l => after < (b.thread l).pc)) p ∨ ((∀ l ∈ ls, (b.thread l).pc ≤ after) ∧ isLowest b ls p)

/-- The group of a turn: the lanes at its PC. -/
def groupAt (g : BitVec 64) (b : Bundle) (ls : List Nat) (p : DWord) : Prop :=
  ∀ l < 64, g.getLsbD l = true ↔ l ∈ ls ∧ (b.thread l).pc = p

/-- Only the leash of a bundle has changed. -/
def onlyLeash (s t : State) (b : Nat) : Prop :=
  SameBut b s t ∧ { t.bundle b with leash := (s.bundle b).leash } = s.bundle b

end Sys2Proof.Claims

/-- The prefix gives its fields to the next word, whose traps stand at the prefix (R31, R48); `yield` goes on, or waits where the whistle
is raised (R344). At C = L a bundle enters rotation (R90): C is 0, and a turn begins for the READY threads at the lowest PC above that of the
set that issued last, or at the lowest PC; a turn that is over gives way to one among the READY threads outside its group, or starts again.
Where a turn begins and ends is read by inference (assumption 61). -/
def Obligations.PrefixYieldLeash : Prop :=
  (∀ (s : State) (c : BitVec 6) (m : BitVec 3) (e z : BitVec 1) (r : BitVec 3) (x : BitVec 1), s.issues (.prefixWord c m e z r x) →
    exec (.prefixWord c m e z r x) s = .next { s with cur := { s.cur with
      pfx := some ⟨c, m, e == 1, z == 1, r, x == 1⟩, trapPc := s.cur.pc, pc := s.cur.pc + 4 } }) ∧
  (∀ (s : State) (h : BitVec 6), s.issues (.yield h) → ∃ t, exec (.yield h) s = .next t ∧
    (s.whistled = false → UniStep s t []) ∧
    (s.whistled = true → LaneStep s t (fun _ th => { th with st := .waiting (.yield h.toNat) }))) ∧
  (∀ (s : State) (b : Nat) (p : DWord), (s.bundle b).live = true → (s.bundle b).leash.rot = false →
    s.leashOf b ≤ (s.bundle b).leash.count → turnStart (s.bundle b) (s.bundle b).readyLanes (s.bundle b).leash.start p →
    ∃ t g, exec (.leashRotate b) s = .next t ∧ (t.bundle b).leash = ⟨true, 0, g, 0, p⟩ ∧
      groupAt g (s.bundle b) (s.bundle b).readyLanes p ∧ onlyLeash s t b) ∧
  (∀ (s : State) (b : Nat) (p : DWord) (others : List Nat), (s.bundle b).live = true → (s.bundle b).leash.rot = true →
    s.leashOf b / 8 ≤ (s.bundle b).leash.turn ∨ (∀ l ∈ (s.bundle b).readyLanes, (s.bundle b).leash.group.getLsbD l = false) →
    others = (s.bundle b).readyLanes.filter (fun l => !(s.bundle b).leash.group.getLsbD l) →
    (turnStart (s.bundle b) others (s.bundle b).leash.start p →
      ∃ t g, exec (.leashTurnEnd b) s = .next t ∧ (t.bundle b).leash = ⟨true, (s.bundle b).leash.count, g, 0, p⟩ ∧
        groupAt g (s.bundle b) others p ∧ onlyLeash s t b) ∧
    (others = [] → isLowest (s.bundle b) (s.bundle b).readyLanes p →
      ∃ t, exec (.leashTurnEnd b) s = .next t ∧ onlyLeash s t b ∧
        (t.bundle b).leash = { (s.bundle b).leash with turn := 0, start := p }))

namespace Sys2Proof.Claims
open Sys2Proof.Machine

/-- Registers are free for `n` more for each lane of the bundle at issue, and no earlier request waits on its sub-core (R112). -/
def mayGrow (s : State) (n : Nat) : Prop :=
  s.curB.p + n ≤ 256 ∧ (∀ g ∈ s.grow, ¬ (g.place = s.curB.coreNo ∧ g.sub = s.curB.sub)) ∧
    s.curB.w * n ≤ s.freeRegs s.curB.coreNo s.curB.sub

/-- The bundle at issue with `p` registers for each lane: every ring has the new length, and the issued set passes the word. `g` is what
the word does to the outstanding words. -/
structure ResizeStep (s t : State) (p : Nat) (f : Thread → Thread) (g : LateOp → LateOp) : Prop where
  same : SameBut s.cur.bundle s t
  alloc : t.curB.p = p
  threads : t.curB.threads = s.curB.threads.mapIdx (fun l th =>
    let u := f (th.resize (p - 8))
    if s.cur.lanes.getLsbD l && u.isReady then u.advance s.cur.pc else u)
  late : t.curB.late = s.curB.late.map g
  frame : { t.curB with p := s.curB.p, threads := s.curB.threads, late := s.curB.late } = s.curB

/-- An outstanding word without its writes to windowed registers of EXITED threads (R112). -/
def keptLate (s : State) (o : LateOp) : LateOp :=
  { o with lanes := o.lanes.filter (fun w => w.key < 8 || !(s.curB.thread w.lane).isExited) }

end Sys2Proof.Claims

/-- The allocation words (R112). `rgrow` completes at once where registers are free and no request waits, and else waits at the tail of
its sub-core's queue; above 256 it is WINDOW_RANGE (0x51). `rgrow.try` writes 1 and grows, or writes 0 and does not. `rshrink` completes at
once where every thread's registers fit, and releases the windows of EXITED threads; where fewer than 16 would be left, or fewer than a window needs, it is WINDOW_RANGE. A request at
the head of a queue is granted where registers are free: its bundle grows, and its waiting lanes are READY past the word, or PARKED where
a handler has asked for it. -/
def Obligations.RegisterAllocation : Prop :=
  (∀ (s : State) (n : BitVec 6), s.issues (.rgrow n) → mayGrow s (n.toNat * 8) → s.cur.bundle < s.bundles.length →
    ∃ t, exec (.rgrow n) s = .next t ∧ ResizeStep s t (s.curB.p + n.toNat * 8) id id) ∧
  (∀ (s : State) (n : BitVec 6), s.issues (.rgrow n) → s.curB.p + n.toNat * 8 ≤ 256 → ¬ mayGrow s (n.toNat * 8) →
    ∃ t, exec (.rgrow n) s = .next t ∧
      t.grow = s.grow ++ [⟨s.curB.coreNo, s.curB.sub, s.cur.bundle, s.cur.lanes, n.toNat * 8⟩] ∧
      LaneStep { s with grow := t.grow } t (fun _ th => { th with st := .waiting .grow })) ∧
  (∀ (s : State) (n : BitVec 6), s.issues (.rgrow n) → 256 < s.curB.p + n.toNat * 8 →
    exec (.rgrow n) s = .next (s.trapIssued (TrapInfo.of 0x51))) ∧
  (∀ (s : State) (d n : BitVec 6), s.issues (.rgrowTry d n) → ¬ mayGrow s (n.toNat * 8) →
    ∃ t, exec (.rgrowTry d n) s = .next t ∧ UniStep s t [(d.toNat, ⟨0, .int⟩)]) ∧
  (∀ (s : State) (d n : BitVec 6), s.issues (.rgrowTry d n) → mayGrow s (n.toNat * 8) → s.cur.bundle < s.bundles.length →
    ∃ t, exec (.rgrowTry d n) s = .next t ∧ ResizeStep
      ((s.modBundle s.cur.bundle (fun b => { b with s := b.s.set d.toNat ⟨1, .int⟩ })).calm s.cur.bundle) (t.calm s.cur.bundle)
      (s.curB.p + n.toNat * 8) id id) ∧
  (∀ (s : State) (n : BitVec 6), s.issues (.rshrink n) → s.curB.p < n.toNat * 8 + 16 ∨
    (∃ l < s.curB.threads.length, (s.curB.thread l).isExited = false ∧ s.curB.p - n.toNat * 8 - 8 < (s.curB.thread l).n) →
    exec (.rshrink n) s = .next (s.trapIssued (TrapInfo.of 0x51))) ∧
  (∀ (s : State) (n : BitVec 6), s.issues (.rshrink n) → n.toNat * 8 + 16 ≤ s.curB.p → s.cur.bundle < s.bundles.length →
    s.curB.live = true → s.cur.stalled = false →
    (∀ l < s.curB.threads.length, (s.curB.thread l).isExited = false → (s.curB.thread l).n ≤ s.curB.p - n.toNat * 8 - 8 ∧
      (s.curB.thread l).base + (s.curB.thread l).n ≤ (s.curB.thread l).lo + (s.curB.p - n.toNat * 8 - 8)) →
    ∃ t, exec (.rshrink n) s = .next t ∧ ResizeStep s t (s.curB.p - n.toNat * 8) Thread.dropWindow (keptLate s)) ∧
  (∀ (s : State) (place sub : Nat) (g : GrowReq), s.grow.find? (fun g => g.place == place && g.sub == sub) = some g →
    (s.bundle g.bundle).p + g.n ≤ 256 → (s.bundle g.bundle).w * g.n ≤ s.freeRegs place sub → g.bundle < s.bundles.length →
    ∃ t, exec (.rgrowGrant place sub) s = .next t ∧ t.grow = s.grow.erase g ∧ (t.bundle g.bundle).p = (s.bundle g.bundle).p + g.n ∧
      SameBut g.bundle { s with grow := t.grow } t ∧
      (∀ l, g.lanes.getLsbD l = true → (s.thread g.bundle l).st = .waiting .grow → (t.thread g.bundle l).pc = (s.thread g.bundle l).pc + 4 ∧
        (t.thread g.bundle l).st = if (s.thread g.bundle l).parkAsked then .parked .handler else .ready) ∧
      ∀ l, ¬ (g.lanes.getLsbD l = true ∧ (s.thread g.bundle l).st = .waiting .grow) →
        (t.thread g.bundle l).pc = (s.thread g.bundle l).pc ∧ (t.thread g.bundle l).st = (s.thread g.bundle l).st)

namespace Sys2Proof.Claims
open Sys2Proof.Machine

/-! ### Memory words -/

/-- No line of a stash window holds the line of main memory at a local offset (R241). -/
def unheld (s : State) (off : Nat) : Prop :=
  ∀ x ∈ s.teams, ∀ w ∈ x.windows, ∀ n ∈ w.lines, n.st = .filling ∨ n.pa / 128 ≠ off / 128

/-- No outstanding store that threads of bundle `b` see already overlaps a range (R158). -/
def unseen (s : State) (b off size : Nat) : Prop :=
  ∀ c l, ∀ x ∈ (s.thread c l).stores, s.shows b c x = true → overlap x.pa x.bytes.length off size = false

/-- An access of a lane, for `lanes`, goes to main memory of this device at a local offset, through a device page where `dev` is set
(R165, R324): its translation is cached, no stash line holds it, no access of another size races it (R154), and it overwrites no store
that its bundle has seen (R157). -/
structure PlainAccess (s : State) (l : Nat) (lanes : BitVec 64) (va : DWord) (size q : Nat) (k : Access) (off : Nat) (ver : Option Nat)
    (dev : Bool) : Prop where
  place : s.locate s.cur.bundle l va size q k = (s, .mem off ver dev)
  home : unheld s off
  alone : s.racing (s.spot s.cur.bundle lanes q dev off size ver) = [] ∧
    s.touched (s.spot s.cur.bundle lanes q dev off size ver) k.isStore = []
  seen : k.isStore = true → unseen s s.cur.bundle off size
  inside : off + size ≤ lpddrEnd

/-- No injection is armed in the context, and no monitor of the team is armed (R297, R317): what leaves the bundle is what it stores. -/
def quiet (s : State) : Prop :=
  s.curCtx.inject.getLsbD 63 = false ∧ ∀ t, s.curB.team = some t → ∀ m ∈ (s.team t).mons, m.st ≠ .armed

/-- A lane load or store: its register, address pair, offset, stream and size, and whether it extends the sign. -/
structure MemForm where
  d : BitVec 6
  a : BitVec 6
  off : BitVec 8
  q : BitVec 4
  size : Nat
  sign : Bool

/-- The address of a lane (R148, R166). -/
def MemForm.va (f : MemForm) (s : State) (l : Nat) : DWord := s.v64 l f.a + (f.off.signExtend 64) * BitVec.ofNat 64 f.size

/-- The lane loads (R166). -/
def loadForm : Instr → Option MemForm
  | .ld8s d a o q => some ⟨d, a, o, q, 1, true⟩
  | .ld8z d a o q => some ⟨d, a, o, q, 1, false⟩
  | .ld16s d a o q => some ⟨d, a, o, q, 2, true⟩
  | .ld16z d a o q => some ⟨d, a, o, q, 2, false⟩
  | .ld32 d a o q => some ⟨d, a, o, q, 4, false⟩
  | .ld64 d a o q => some ⟨d, a, o, q, 8, false⟩
  | .ld128 d a o q => some ⟨d, a, o, q, 16, false⟩
  | _ => none

/-- The lane stores (R167). -/
def storeForm : Instr → Option MemForm
  | .st8 d a o q => some ⟨d, a, o, q, 1, false⟩
  | .st16 d a o q => some ⟨d, a, o, q, 2, false⟩
  | .st32 d a o q => some ⟨d, a, o, q, 4, false⟩
  | .st64 d a o q => some ⟨d, a, o, q, 8, false⟩
  | .st128 d a o q => some ⟨d, a, o, q, 16, false⟩
  | _ => none

/-- The registers that a load or store of a size moves. -/
def MemForm.regs (f : MemForm) : Nat := if f.size < 4 then 1 else f.size / 4

/-- What a lane sees at home: its own newest outstanding store of the stream to the byte, or one that another thread shows it already, and
else the byte at home (R157, R158, R164). -/
def seenByte (s : State) (b l q : Nat) (ver : Option Nat) (a : Nat) : Byte :=
  (((s.thread b l).ownByte q ver a).orElse (fun _ => s.shownByte b ver a)).getD (s.homeByte ver a)

/-- A register whose bytes are those at an address up, the lowest first (R6), tagged RAW. -/
def wordFrom (f : Nat → Byte) (a : Nat) : Reg := ⟨f (a + 3) ++ f (a + 2) ++ f (a + 1) ++ f a, .raw⟩

/-- The registers that a load gives from the bytes at an address up (R166). -/
def MemForm.loaded (f : MemForm) (g : Nat → Byte) (a : Nat) : List Reg :=
  if f.size = 1 then [⟨if f.sign then (g a).signExtend 32 else (g a).setWidth 32, .raw⟩]
  else if f.size = 2 then [⟨if f.sign then (g (a + 1) ++ g a).signExtend 32 else (g (a + 1) ++ g a).setWidth 32, .raw⟩]
  else (List.range (f.size / 4)).map (fun i => wordFrom g (a + 4 * i))

/-- Consecutive registers from a register field, with their new contents. -/
def fromReg (d : BitVec 6) (rs : List Reg) : List (Nat × Reg) := rs.mapIdx (fun i r => (d.toNat + i, r))

/-- The bytes that a lane stores: those of its registers, the lowest of the lowest register first (R6, R167). -/
def MemForm.stored (f : MemForm) (s : State) (l : Nat) : List Byte :=
  (List.range f.size).map (fun i => ((s.vAt l f.d (i / 4)).val >>> (8 * (i % 4))).setWidth 8)

/-- An outstanding store that the word at issue makes. -/
def newStore (s : State) (q : Nat) (va : DWord) (off : Nat) (bs : List Byte) (ver : Option Nat) (dev : Bool) : Pending :=
  .store ⟨q, va, off, bs, ver, dev || !(s.streamCfg s.cur.bundle q).getLsbD 2,
    (dev || !(s.streamCfg s.cur.bundle q).getLsbD 2) && (s.streamCfg s.cur.bundle q).getLsbD 1,
    dev || decide ((s.streamCfg s.cur.bundle q).extractLsb' 4 2 = 3), 0, 0, none, s.cur.pc⟩

/-- A thread with an entry more in its list of outstanding accesses. -/
def withOut (th : Thread) (p : Pending) : Thread := { th with out := th.out ++ [p] }

end Sys2Proof.Claims

namespace Sys2Proof.Claims
open Sys2Proof.Machine

/-- Lanes make atomics on committed memory in turn (R169): the memory after them, and each lane's old value. -/
def atomics (size : Nat) (off : Nat → Nat) (new : Nat → Nat → Nat) : List Nat → Memory → Memory × List (Nat × Nat)
  | [], m => (m, [])
  | l :: ls, m =>
    let old := ofBytes (m.readBytes (off l) size)
    let r := atomics size off new ls (m.writeBytes (off l) (bytesOf size (new l old)))
    (r.1, (l, old) :: r.2)

/-- The operands of an atomic (R169): the address pair, the compare value where it has one, the operand; `atomr` has a result. -/
def atomicOp (s : State) (d a : BitVec 6) (p ty : BitVec 4) (ret : Bool) : LaneOp :=
  let n := if ty = 2 ∨ ty = 3 then 2 else 1
  let acc : Accept := if !ret then .any else if ty = 4 then .f32 else .int
  ⟨[⟨a.toNat, 2, .any⟩] ++ (if p = 7 then [⟨s.regC.toNat, n, acc⟩] else []) ++ [⟨d.toNat, n, acc⟩],
    if ret then dstRegs d.toNat n (if ty = 4 then .f32 else if n = 2 then .w64 else .int) else []⟩

/-- A register of a lane as an atomic takes it. -/
def atomicValue (s : State) (ty : BitVec 4) (l : Nat) (r : BitVec 6) : Nat :=
  if ty = 2 ∨ ty = 3 then (s.v64 l r).toNat else (s.v32 l r).toNat

/-- The committed memory and the old values of an atomic word. -/
def atomicRun (s : State) (d : BitVec 6) (p ty : BitVec 4) (off : Nat → Nat) : Memory × List (Nat × Nat) :=
  atomics (if ty = 2 ∨ ty = 3 then 8 else 4) off
    (fun l old => atomNew p.toNat ty.toNat old (atomicValue s ty l d) (atomicValue s ty l s.regC))
    (s.issued.filter (fun l => s.isActive l)) s.mem

/-- What `atomr` gives a lane: the old value, with the tag of its type (R77, R169). -/
def atomicResult (d : BitVec 6) (ty : BitVec 4) (old : Nat) : List (Nat × Reg) :=
  if ty = 2 ∨ ty = 3 then put2 d (BitVec.ofNat 64 old) .w64
  else put d (BitVec.ofNat 32 old) (if ty = 4 then .f32 else .int)

end Sys2Proof.Claims

/-- A lane load of main memory completes (R166): each active lane gets the bytes at its address, its own outstanding stores of the
stream and those it is shown before those at home (R157, R158), extended or assembled with the lowest byte at the lowest address (R6),
tagged RAW; in native code they arrive later (R37). Nothing else changes.
A lane store to main memory completes (R152, R167): each active lane's store is outstanding, with its bytes and the version of its
stream, and the lane goes on; memory and everything else are as before.
An atomic on committed memory completes (R169): the active lanes act on memory one after another, each on what the earlier lanes
left; `atomr` gives each the old value; nothing else changes.
The order of the lanes is ascending, which the spec leaves open (assumption 16). -/
def Obligations.LaneMemory : Prop :=
  (∀ (s : State) (i : Instr) (f : MemForm) (off : Nat → Nat) (ver : Option Nat) (dev : Nat → Bool), loadForm i = some f → s.issues i →
      s.lanesPass ⟨[⟨f.a.toNat, 2, .any⟩], dstRegs f.d.toNat f.regs .raw⟩ →
      (∀ l ∈ s.issued, s.isActive l = true → PlainAccess s l (laneBit l) (f.va s l) f.size f.q.toNat .read (off l) ver (dev l)) →
      ∃ t, exec i s = .next t ∧ LaneRow.done ⟨⟨[⟨f.a.toNat, 2, .any⟩], dstRegs f.d.toNat f.regs .raw⟩, true, fun l =>
        (fromReg f.d (f.loaded (seenByte s s.cur.bundle l f.q.toNat ver) (off l)), 0)⟩ s.bare t.bare) ∧
  (∀ (s : State) (i : Instr) (f : MemForm) (off : Nat → Nat) (ver : Option Nat) (dev : Nat → Bool), storeForm i = some f → s.issues i →
      s.lanesPass ⟨[⟨f.a.toNat, 2, .any⟩, ⟨f.d.toNat, f.regs, .any⟩], []⟩ → quiet s →
      (∀ l ∈ s.issued, s.isActive l = true → PlainAccess s l (laneBit l) (f.va s l) f.size f.q.toNat .write (off l) ver (dev l)) →
      ∃ t, exec i s = .next t ∧ LaneStep s.bare t.bare (fun l th => (if s.isActive l then
        withOut th (newStore s f.q.toNat (f.va s l) (off l) (f.stored s l) ver (dev l)) else th).advance s.cur.pc)) ∧
  (∀ (s : State) (i : Instr) (d a : BitVec 6) (p ty q : BitVec 4) (ret : Bool) (off : Nat → Nat) (dev : Nat → Bool),
      i = (if ret then .atomr d a p ty q else .atom d a p ty q) → s.issues i → s.lanesPass (atomicOp s d a p ty ret) → quiet s →
      (∀ l ∈ s.issued, s.isActive l = true → (s.curB.thread l).out = [] ∧
        PlainAccess s l (laneBit l) (s.v64 l a) (if ty = 2 ∨ ty = 3 then 8 else 4) q.toNat .atomic (off l) none (dev l)) →
      ∃ t, exec i s = .next t ∧ LaneRow.done ⟨atomicOp s d a p ty ret, ret, fun l =>
        (if ret then atomicResult d ty ((lookupKey l (atomicRun s d p ty off).2).getD 0) else [], 0)⟩
          (State.bare { s with mem := (atomicRun s d p ty off).1, badmem := t.badmem }) t.bare)

namespace Sys2Proof.Claims
open Sys2Proof.Machine

/-- The streams of the outstanding stores of a thread. -/
def streamsOut : List Pending → BitVec 16
  | [] => 0
  | .store x :: ps => (1#16 <<< x.stream) ||| streamsOut ps
  | .fence _ :: ps => streamsOut ps

/-- What a fence does to a thread that has no fence outstanding (R152, R172): it waits behind a store of a stream that it orders
earlier, and else is over at once. -/
def fenced (th : Thread) (f : FenceMark) : Thread := if f.early &&& streamsOut th.out = 0 then th else withOut th (.fence f)

end Sys2Proof.Claims

namespace Sys2Proof.Claims
open Sys2Proof.Machine

/-- A store of a thread's list is there once, and no store before it in its stream writes a byte of it (R157). -/
def firstOf (th : Thread) (x : PStore) : Prop :=
  th.out.count (.store x) = 1 ∧ th.stores.find? (fun y => y == x || x.follows y) = some x

/-- The uniform loads and stores (R168): register, address pair, offset, stream, size, and whether it stores. -/
def uniMemForm : Instr → Option (MemForm × Bool)
  | .uld32 d a o q => some (⟨d, a, o, q, 4, false⟩, false)
  | .uld64 d a o q => some (⟨d, a, o, q, 8, false⟩, false)
  | .ust32 d a o q => some (⟨d, a, o, q, 4, false⟩, true)
  | .ust64 d a o q => some (⟨d, a, o, q, 8, false⟩, true)
  | _ => none

/-- The address of a uniform access. -/
def MemForm.uva (f : MemForm) (s : State) : DWord := s.u64 f.a + (f.off.signExtend 64) * BitVec.ofNat 64 f.size

/-- The bytes that a uniform store stores. -/
def MemForm.ustored (f : MemForm) (s : State) : List Byte :=
  (List.range f.size).map (fun i => ((s.readS s.cur.bundle (f.d.toNat + i / 4)).val >>> (8 * (i % 4))).setWidth 8)

/-- What a uniform load of native code changes (R37, R168): its writes and its flag are outstanding, and its set goes on. -/
structure UniLate (s t : State) (ws : List (Nat × Reg)) : Prop where
  same : SameBut s.cur.bundle s t
  threads : t.curB.threads = s.passed
  late : t.curB.late = s.curB.late ++ [⟨s.cur.trapPc, s.cur.flag, [], ws.map (fun w => ⟨0, w.1, w.2, false⟩), [], []⟩]
  flags : t.curB.flags = setFlag s.curB.flags s.cur.flag
  frame : { t.curB with threads := s.curB.threads, late := s.curB.late, flags := s.curB.flags } = s.curB

end Sys2Proof.Claims

/-- Uniform loads and stores of main memory complete (R168), for a bundle that exists and threads with nothing outstanding: a load
writes the bytes at the address, at once in plain-form code and later in native code; a store changes committed memory at its bytes and
nowhere else. -/
def Obligations.UniformMemory : Prop :=
  ∀ (s : State) (i : Instr) (f : MemForm) (store : Bool) (off : Nat) (dev : Bool), uniMemForm i = some (f, store) → s.issues i →
    s.cur.bundle < s.bundles.length → (∀ l ∈ s.leader :: s.issued, (s.curB.thread l).out = []) → quiet s →
    PlainAccess s s.leader s.cur.lanes (f.uva s) f.size f.q.toNat (if store then .write else .read) off none dev →
    s.uniTrap ([⟨f.a.toNat, 2, .any⟩] ++ if store then [⟨f.d.toNat, f.size / 4, .any⟩] else []) = none →
    ∃ t, exec i s = .next t ∧
      (store = false → s.cur.plain = true → UniStep s.bare t.bare
        (fromReg f.d (f.loaded (seenByte s s.cur.bundle s.leader f.q.toNat none) off))) ∧
      (store = false → s.cur.plain = false → UniLate s.bare t.bare
        (fromReg f.d (f.loaded (seenByte s s.cur.bundle s.leader f.q.toNat none) off))) ∧
      (store = true → UniStep (s.withMem t).bare t.bare [] ∧ (s.memOk → ∀ a, t.mem.read a =
        if off ≤ a ∧ a < off + f.size then (f.ustored s).getD (a - off) 0 else s.mem.read a))

/-- Fences complete (R172, R173): an acquire fence is over at once; a full or release fence, and `xfence`, waits in each issued thread
behind the thread's outstanding stores of the streams that it orders earlier, and else is over at once. This is said of fences narrower
than the PARTITION scope, of threads with no earlier fence, and of a bundle that is shown no outstanding store; nothing else changes.
A store is performed (R152, R164): a store of committed memory that no earlier one of its stream goes before leaves its thread's list
and changes memory at its own bytes and nowhere else; a store of a version changes what the version's team reads there and leaves
committed memory as it is (R310).
That an acquire fence is over at once is the model's (assumption 18). -/
def Obligations.StoreOrder : Prop :=
  (∀ (s : State) (sc : BitVec 4) (l : BitVec 1) (q : BitVec 4), s.issues (.fence sc 1 l q) →
    ∃ t, exec (.fence sc 1 l q) s = .next t ∧ UniStep s.bare t.bare []) ∧
  (∀ (s : State) (sc : BitVec 4) (k : BitVec 2) (l : BitVec 1) (q : BitVec 4), s.issues (.fence sc k l q) → k ≠ 1 → sc.toNat < 3 → s.unshown →
    (∀ j ∈ s.issued, (s.curB.thread j).isReady = true ∧ ∀ p ∈ (s.curB.thread j).out, ∃ x, p = .store x) →
    ∃ t, exec (.fence sc k l q) s = .next t ∧ LaneStep s.bare t.bare (fun _ th =>
      (fenced th ⟨if l = 1 then 0xFFFF else 1#16 <<< q.toNat, if l = 1 then 0xFFFF else 1#16 <<< q.toNat, k = 0, false⟩).advance
        s.cur.pc)) ∧
  (∀ (s : State) (sc b c : BitVec 4), s.issues (.xfence sc b c) → sc.toNat < 3 → s.unshown →
    (∀ j ∈ s.issued, (s.curB.thread j).isReady = true ∧ ∀ p ∈ (s.curB.thread j).out, ∃ x, p = .store x) →
    ∃ t, exec (.xfence sc b c) s = .next t ∧ LaneStep s.bare t.bare (fun _ th =>
      (fenced th ⟨1#16 <<< b.toNat, 1#16 <<< c.toNat, true, false⟩).advance s.cur.pc)) ∧
  (∀ (s : State) (b l n : Nat) (x : PStore), (s.thread b l).out[n]? = some (.store x) → (∀ p ∈ (s.thread b l).out, ∃ y, p = .store y) →
    firstOf (s.thread b l) x → x.link = none → x.ver = none → x.mix = 0 → x.pa + x.bytes.length ≤ lpddrEnd →
    x.bytes ≠ [] → unheld s x.pa → s.memOk →
    ∃ t, exec (.memoryAccessPerformed b l n) s = .next t ∧
      (∀ a, t.mem.read a = if x.pa ≤ a ∧ a < x.pa + x.bytes.length then x.bytes.getD (a - x.pa) 0 else s.mem.read a) ∧
      ThreadsStep b (s.withMem t).bare t.bare (fun k th => if k = l then { th with out := th.out.erase (.store x) } else th)) ∧
  (∀ (s : State) (b l n v : Nat) (x : PStore), (s.thread b l).out[n]? = some (.store x) →
    (∀ p ∈ (s.thread b l).out, ∃ y, p = .store y) → firstOf (s.thread b l) x → x.link = none → x.ver = some v →
    x.mix = 0 → x.pa + x.bytes.length ≤ lpddrEnd → x.bytes ≠ [] → unheld s x.pa → v < s.teams.length → (s.team v).verOpen = true →
    s.versionFull v x.pa = false → ((s.team v).ver.cells.map (·.1)).Pairwise (· < ·) →
    ∃ t, exec (.memoryAccessPerformed b l n) s = .next t ∧ t.mem = s.mem ∧
      (∀ a, t.homeByte (some v) a =
        if x.pa ≤ a ∧ a < x.pa + x.bytes.length then x.bytes.getD (a - x.pa) 0 else s.homeByte (some v) a) ∧
      (∀ u, u ≠ v → t.team u = s.team u) ∧
      ThreadsStep b (State.bare { s with teams := t.teams }) t.bare (fun k th => if k = l then { th with out := th.out.erase (.store x) } else th))

namespace Sys2Proof.Claims
open Sys2Proof.Machine

/-- The state after the fills that a `prefetch` begins (R171). -/
def prefetched (s : State) (a : BitVec 6) (o : BitVec 8) (q : BitVec 4) : State :=
  (s.issued.filter (fun l => s.isActive l)).foldl (fun m l => match m.prefetchLine q.toNat (s.v64 l a + o.signExtend 64) with
    | some (x, w, n, pa) => m.startFill x w n pa
    | none => m) s

/-- A late write's register: what the loads of its word give now, or what they gave at its issue (R37, R158). -/
def landed (vs : List (Nat × Nat × Reg)) (w : LateWrite) : Reg :=
  match vs.find? (fun v => v.1 == w.lane && v.2.1 == w.key) with
  | some v => ⟨v.2.2.val, w.reg.tag⟩
  | none => w.reg

end Sys2Proof.Claims

/-- `await` completes where every active lane's word differs from its register, with the word, as a load does; where every lane's word is
the same the lanes park at it (R170). `prefetch` begins the fills of its lines and changes nothing else (R171).
A parked `await` reads again (R170): where the word differs the lane is READY past its word with the word in its register, and
where it does not nothing changes. A long-latency word that ends writes its registers, clears its flag and leaves the list (R35, R37).
That the re-read takes STREAMCFG as it stands then, and that a load which has not ended may take its bytes when it ends, are read by
inference (assumptions 81, 18). -/
def Obligations.AwaitAndLateWords : Prop :=
  (∀ (s : State) (d a : BitVec 6) (o : BitVec 8) (q : BitVec 4) (off : Nat → Nat) (ver : Option Nat) (dev : Nat → Bool),
    s.issues (.await d a o q) → s.lanesPass ⟨[⟨a.toNat, 2, .any⟩, ⟨d.toNat, 1, .any⟩], dstRegs d.toNat 1 .raw⟩ →
    (∀ l ∈ s.issued, s.isActive l = true →
      PlainAccess s l (laneBit l) (MemForm.va ⟨d, a, o, q, 4, false⟩ s l) 4 q.toNat .read (off l) ver (dev l)) →
    ((∀ l ∈ s.issued, s.isActive l = true → (wordFrom (seenByte s s.cur.bundle l q.toNat ver) (off l)).val ≠ s.v32 l d) →
      ∃ t, exec (.await d a o q) s = .next t ∧
        LaneRow.done ⟨⟨[⟨a.toNat, 2, .any⟩, ⟨d.toNat, 1, .any⟩], dstRegs d.toNat 1 .raw⟩, true, fun l =>
          ([(d.toNat, wordFrom (seenByte s s.cur.bundle l q.toNat ver) (off l))], 0)⟩ (s.markRead s.cur.bundle s.issued).bare t.bare) ∧
    ((∀ l ∈ s.issued, s.isActive l = true ∧ (wordFrom (seenByte s s.cur.bundle l q.toNat ver) (off l)).val = s.v32 l d) →
      ∃ t, exec (.await d a o q) s = .next t ∧
        LaneStep (s.markRead s.cur.bundle s.issued).bare t.bare (fun _ th => { th with st := .parked .await }))) ∧
  (∀ (s : State) (a : BitVec 6) (o : BitVec 8) (q : BitVec 4), s.issues (.prefetch a o q) → s.lanesPass ⟨[⟨a.toNat, 2, .any⟩], []⟩ →
    ∃ t, exec (.prefetch a o q) s = .next t ∧ LaneStep (prefetched s a o q) t (fun _ th => th.advance s.cur.pc)) ∧
  (∀ (s : State) (b l : Nat) (pc : DWord) (d a : BitVec 6) (o : BitVec 8) (q : BitVec 4) (off : Nat) (ver : Option Nat) (dev : Bool)
    (v : Word), (s.thread b l).st = .parked .await → (s.bundle b).resident = true → s.standing b l = some (pc, .await d a o q) →
    b < s.bundles.length →
    s.locate b l (pairOf (s.readV b l) a.toNat + o.signExtend 64 * 4) 4 q.toNat .read = (s, .mem off ver dev) → unheld s off →
    s.racing (s.spot b (laneBit l) q.toNat dev off 4 ver) = [] → s.touched (s.spot b (laneBit l) q.toNat dev off 4 ver) false = [] →
    v = (wordFrom (seenByte s b l q.toNat ver) off).val →
    (v = (s.readV b l d.toNat).val → ∃ t, exec (.awaitReread b l) s = .next t ∧ t.bare = (s.markRead b [l]).bare) ∧
    (v ≠ (s.readV b l d.toNat).val → ∃ t, exec (.awaitReread b l) s = .next t ∧
      ((s.bundle b).late = [] → ThreadsStep b (s.markRead b [l]).bare t.bare (fun k th => if k = l then
        ({ th.writeV d.toNat ⟨v, .raw⟩ with st := .ready } : Thread).goto (pc + 4) else th)))) ∧
  (∀ (s m : State) (b n : Nat) (o : LateOp) (vs : List (Nat × Nat × Reg)), (s.bundle b).live = true → (s.bundle b).late[n]? = some o →
    s.reload b o.pc o.loads = (m, vs) → m.bundle b = { s.bundle b with threads := (m.bundle b).threads } →
    (∀ w ∈ o.lanes, w.clash = false) → (∀ w ∈ o.unis, w.clash = false) →
    ∃ t, exec (.completionFlagClear b n) s = .next t ∧ SameBut b (m.answer b o) t ∧
      (t.bundle b).late = (s.bundle b).late.eraseIdx n ∧
      (t.bundle b).s = o.unis.foldl (fun r w => r.set w.key w.reg) (s.bundle b).s ∧
      (t.bundle b).threads = ((m.answer b o).bundle b).threads.mapIdx (fun l th =>
        (o.lanes.filter (fun w => w.lane == l)).foldl (fun u w => u.writeKey w.key (landed vs w)) th) ∧
      (∀ k, (t.bundle b).flags.getLsbD k = ((s.bundle b).flags.getLsbD k && !decide (o.flag = some k))))

namespace Sys2Proof.Claims
open Sys2Proof.Machine

/-! ### The stash -/

/-- No thread of any bundle has an access outstanding. -/
def nothingOut (s : State) : Prop := ∀ b l, (s.thread b l).out = []

/-- A window may have `n` bytes (R245). -/
abbrev mapSize (n : Nat) : Prop := 0 < n ∧ n % 128 = 0 ∧ n ≤ 8388608

/-- A backed window of `n` bytes may begin at an address (R245). -/
abbrev mapPlace (va n : Nat) : Prop :=
  va % 128 = 0 ∧ va + n ≤ 2 ^ 56 ∧ ¬ (va < 0xFFFF0000000000 + 2 ^ 40 ∧ 0xFFFF0000000000 < va + n)

/-- A range of `n` bytes from an address may become a backed window of the team at issue (R245). -/
structure MayMap (s : State) (va n : Nat) : Prop where
  size : mapSize n
  place : mapPlace va n
  apart : ∀ w ∈ (s.team s.curTeam).windows, ¬ (va < w.base.toNat + w.size ∧ w.base.toNat < va + n)

/-- Every core of the team's block has room for its share of a window of `n` bytes (R237, R245). -/
def stashRoom (s : State) (n : Nat) : Prop :=
  ∀ c ∈ (s.team s.curTeam).blockCores, s.stashUsed (s.team s.curTeam).part c +
    (n + 128 * (s.team s.curTeam).cores - 1) / (128 * (s.team s.curTeam).cores) * 128 ≤ 524288

/-- The lowest window number that the team has free. -/
def freeWindow (s : State) (k : Nat) : Prop :=
  1 ≤ k ∧ k < 16 ∧ (s.team s.curTeam).window k = none ∧ ∀ j, 1 ≤ j → j < k → (s.team s.curTeam).window j ≠ none

/-- The backed `smap` words, with their modes. -/
def smapForm (d a b : BitVec 6) (q : BitVec 4) (mode : WinMode) (i : Instr) : Prop :=
  (i = .smapRw d a b q ∧ mode = .rw) ∨ (i = .smapRo d a b q ∧ mode = .ro)

/-- A lane of the issued set that waits for its own operation at the word (R85), with the uniform operands that the word has read. -/
def atWord (s : State) (i : Instr) (args : List DWord) (l : Nat) (th : Thread) : Thread :=
  { th with st := .waiting (.word s.cur.lanes i args (lookupKey l s.cur.homes)) }

/-- Ranges of a line of a window and of an address range meet. -/
abbrev lineIn (w : Window) (num va n : Nat) : Prop :=
  w.base.toNat + 128 * num < va + n ∧ va < w.base.toNat + 128 * num + 128

end Sys2Proof.Claims

/-- `smap` completes (R245): where the range may be mapped and every core of the block has room the team has one window more, with the
lowest free number, no line and the DIRECT bit of its stream, and the pair has its address; where a core has no room the pair is 0 and
nothing is mapped; a range that meets a window of the team is STASH_USE. A SCRATCH window has an address in the team-private range and
reads as zeros. `sunmap` takes away a window that no command holds and that has no dirty line, and waits while a command holds it (R246).
The address of a SCRATCH window is the model's choice (assumption 25). -/
def Obligations.StashWindows : Prop :=
  (∀ (s : State) (i : Instr) (d a b : BitVec 6) (q : BitVec 4) (mode : WinMode) (k : Nat), smapForm d a b q mode i → s.issues i →
    s.uniTrap [⟨a.toNat, 2, .any⟩, ⟨b.toNat, 1, .any⟩] = none → MayMap s (s.u64 a).toNat (s.u32 b).toNat → freeWindow s k →
    stashRoom s (s.u32 b).toNat → nothingOut s → s.curTeam < s.teams.length →
    ∃ t, exec i s = .next t ∧ UniStep (State.bare { s with teams := t.teams }) t.bare (put2 d (s.u64 a) .w64) ∧
      t.team s.curTeam = { s.team s.curTeam with windows := (s.team s.curTeam).windows ++
        [⟨k, s.u64 a, (s.u32 b).toNat, mode, q.toNat, s.streamDirect s.cur.bundle q.toNat, [], []⟩] } ∧
      (∀ x, x ≠ s.curTeam → t.team x = s.team x)) ∧
  (∀ (s : State) (i : Instr) (d a b : BitVec 6) (q : BitVec 4) (mode : WinMode) (k : Nat), smapForm d a b q mode i → s.issues i →
    s.uniTrap [⟨a.toNat, 2, .any⟩, ⟨b.toNat, 1, .any⟩] = none → MayMap s (s.u64 a).toNat (s.u32 b).toNat → freeWindow s k →
    ¬ stashRoom s (s.u32 b).toNat →
    ∃ t, exec i s = .next t ∧ UniStep s t (put2 d 0 .w64)) ∧
  (∀ (s : State) (i : Instr) (d a b : BitVec 6) (q : BitVec 4) (mode : WinMode) (w : Window), smapForm d a b q mode i → s.issues i →
    s.uniTrap [⟨a.toNat, 2, .any⟩, ⟨b.toNat, 1, .any⟩] = none → mapSize (s.u32 b).toNat → mapPlace (s.u64 a).toNat (s.u32 b).toNat →
    w ∈ (s.team s.curTeam).windows → (s.u64 a).toNat < w.base.toNat + w.size ∧ w.base.toNat < (s.u64 a).toNat + (s.u32 b).toNat →
    exec i s = .next (s.trapIssued { TrapInfo.of 0x15 with addr := s.u64 a })) ∧
  (∀ (s : State) (d b : BitVec 6) (k : Nat), s.issues (.smapScratch d b) → s.uniTrap [⟨b.toNat, 1, .any⟩] = none →
    mapSize (s.u32 b).toNat → freeWindow s k →
    (∀ w ∈ (s.team s.curTeam).windows, w.base.toNat + w.size ≤ 0xFFFF0000000000 + 2 ^ 39) →
    stashRoom s (s.u32 b).toNat → nothingOut s → s.curTeam < s.teams.length →
    ∃ t base, exec (.smapScratch d b) s = .next t ∧ vaPrivate base = true ∧ base.toNat % 128 = 0 ∧
      (∀ w ∈ (s.team s.curTeam).windows, vaPrivate w.base = true →
        w.base.toNat + w.size ≤ base.toNat ∨ base.toNat + (s.u32 b).toNat ≤ w.base.toNat) ∧
      UniStep (State.bare { s with teams := t.teams }) t.bare (put2 d base .w64) ∧
      t.team s.curTeam = { s.team s.curTeam with windows := (s.team s.curTeam).windows ++
        [⟨k, base, (s.u32 b).toNat, .scratch, 0, s.streamDirect s.cur.bundle 0, [], []⟩] } ∧
      t.scratchRead s.curTeam k 0 (s.u32 b).toNat = List.replicate (s.u32 b).toNat Config.freshByte) ∧
  (∀ (s : State) (a : BitVec 6) (w : Window), s.issues (.sunmap a) → s.uniTrap (s.firstUses [⟨a.toNat, 2, .any⟩]) = none →
    (s.team s.curTeam).windows.find? (fun w => w.base == s.argS 0 a.toNat && w.num != 0) = some w →
    (s.windowHeld s.curTeam w = true → ∃ t, exec (.sunmap a) s = .next t ∧
      LaneStep s t (atWord s (.sunmap a) [s.argS 0 a.toNat])) ∧
    (s.windowHeld s.curTeam w = false → (∀ l ∈ w.lines, l.st = .clean ∨ l.st = .filling) → s.curTeam < s.teams.length →
      ∃ t, exec (.sunmap a) s = .next t ∧ UniStep { s with teams := t.teams } t [] ∧
        t.team s.curTeam = { s.team s.curTeam with windows := (s.team s.curTeam).windows.filter (fun y => y.num != w.num) } ∧
        (∀ x, x ≠ s.curTeam → t.team x = s.team x)))

namespace Sys2Proof.Claims
open Sys2Proof.Machine

/-- A line of a local, unversioned window, of which there is no other copy and which alone holds no `graft`'s increment (R287): team,
window and line as numbered. -/
structure OwnLine (s : State) (x w n : Nat) (win : Window) (l : Line) : Prop where
  team : x < s.teams.length
  window : (s.team x).window w = some win
  listed : win.line n = some l
  near : l.remote = false
  version : s.winVer x win = none
  aligned : l.pa % 128 = 0
  inside : l.pa + 128 ≤ lpddrEnd
  alone : ∀ y, ∀ v ∈ (s.team y).windows, ∀ m ∈ v.lines, m.pa / 128 = l.pa / 128 → y = x ∧ v.num = w ∧ m = l
  counted : (∀ b k h, (s.thread b k).graftHome = some h → h.off ≠ none) ∧ ∀ h ∈ s.cur.homes, h.2.off ≠ none

/-- Committed memory after bytes of a line that a mask marks have gone home. -/
def wentHome (s t : State) (l : Line) (mask : BitVec 128) : Prop :=
  ∀ a, t.mem.read a = if l.pa ≤ a ∧ a < l.pa + 128 ∧ mask.getLsbD (a - l.pa) = true then lineGet l.data (a - l.pa) else s.mem.read a

/-- A line of a team's window is as given, every other team is as before, and only teams and memory differ. -/
structure LineNow (s t : State) (x w n : Nat) (l : Option Line) : Prop where
  line : t.lineOf x w n = l
  others : ∀ y, y ≠ x → t.team y = s.team y
  rest : { t with teams := s.teams, mem := s.mem, badmem := s.badmem } = s

/-- A line whose bytes are all at home. -/
def homeward (l : Line) (st : LineState) : Line := { l with st := st, dirty := 0, redirty := 0, again := false, link := none }

end Sys2Proof.Claims

namespace Sys2Proof.Claims
open Sys2Proof.Machine

/-- What `sstat.line` answers (R248). -/
def lineAnswer (w : Option Window) (va : Nat) : Nat :=
  match w with
  | none => 7
  | some w => w.num * 256 + (if w.mode = .scratch then 5 else match w.line ((va - w.base.toNat) / 128) with
      | none => 0
      | some l => (if l.excl then 8 else 0) + (match l.st with | .filling => 1 | .clean => 2 | .dirty => 3 | .writing => 4))

/-- What `sstat.window` answers (R248). -/
def windowAnswer (w : Option Window) : Nat :=
  match w with
  | none => 0
  | some w => w.size + 2 ^ 32 * (match w.mode with | .rw => 0 | .ro => 1 | .scratch => 2) + 2 ^ 34 * w.stream + 2 ^ 40 * w.num

end Sys2Proof.Claims

/-- `sflush` sends a dirty line's bytes home and leaves the line CLEAN, said of a team that has one line (R240, R247); with no dirty or
WRITING line in its range it changes nothing. `sinv` discards the lines of its range that are not FILLING, and no byte of memory changes (R247).
`sstat` completes with the state of a line, of a window, and of the team's space, and changes nothing else (R248).
That `sflush` does not wait for the acknowledgement is the model's (assumption 27). -/
def Obligations.StashFlushAndStatus : Prop :=
  (∀ (s : State) (a b : BitVec 6) (win : Window) (l : Line), s.issues (.sflush a b) →
    s.uniTrap [⟨a.toNat, 2, .any⟩, ⟨b.toNat, 1, .any⟩] = none → OwnLine s s.curTeam win.num l.num win l →
    (s.team s.curTeam).windows = [win] → win.lines = [l] → win.mode ≠ .scratch → l.st = .dirty ∨ l.st = .writing →
    lineIn win l.num (s.u64 a).toNat (s.u32 b).toNat → s.memOk →
    ∃ t, exec (.sflush a b) s = .next t ∧ wentHome s t l (l.dirty ||| l.redirty) ∧
      UniStep ({ s with teams := t.teams }.withMem t) t [] ∧ t.lineOf s.curTeam win.num l.num = some (homeward l .clean)) ∧
  (∀ (s : State) (a b : BitVec 6), s.issues (.sflush a b) → s.uniTrap [⟨a.toNat, 2, .any⟩, ⟨b.toNat, 1, .any⟩] = none →
    (∀ w ∈ (s.team s.curTeam).windows, w.mode ≠ .scratch → ∀ l ∈ w.lines, l.st = .dirty ∨ l.st = .writing →
      ¬ lineIn w l.num (s.u64 a).toNat (s.u32 b).toNat) →
    ∃ t, exec (.sflush a b) s = .next t ∧ UniStep s t []) ∧
  (∀ (s : State) (a b : BitVec 6), s.issues (.sinv a b) → s.uniTrap [⟨a.toNat, 2, .any⟩, ⟨b.toNat, 1, .any⟩] = none →
    (s.u64 a).toNat % 128 = 0 → (s.u32 b).toNat % 128 = 0 → s.curTeam < s.teams.length →
    ∃ t, exec (.sinv a b) s = .next t ∧ UniStep { s with teams := t.teams } t [] ∧ (∀ x, x ≠ s.curTeam → t.team x = s.team x) ∧
      ∀ w, (t.team s.curTeam).window w = ((s.team s.curTeam).window w).map (fun y => { y with
        lines := y.lines.filter (fun l => decide (l.st = .filling ∨ ¬ lineIn y l.num (s.u64 a).toNat (s.u32 b).toNat))
        bytes := y.bytes.filter (fun c => decide (¬ lineIn y (c.1 / 128) (s.u64 a).toNat (s.u32 b).toNat)) })) ∧
  (∀ (s : State) (d a : BitVec 6), s.issues (.sstat d a 0) → s.uniTrap [⟨a.toNat, 2, .any⟩] = none →
    ∃ t, exec (.sstat d a 0) s = .next t ∧
      UniStep s t (put d (BitVec.ofNat 32 (lineAnswer ((s.team s.curTeam).windowAt (s.u64 a)) (s.u64 a).toNat)) .int)) ∧
  (∀ (s : State) (d a : BitVec 6), s.issues (.sstat d a 1) → s.uniTrap [⟨a.toNat, 2, .any⟩] = none →
    ∃ t, exec (.sstat d a 1) s = .next t ∧
      UniStep s t (put2 d (BitVec.ofNat 64 (windowAnswer ((s.team s.curTeam).windowAt (s.u64 a)))) .w64)) ∧
  (∀ (s : State) (d a : BitVec 6), s.issues (.sstat d a 2) →
    ∃ t, exec (.sstat d a 2) s = .next t ∧ UniStep s t (put2 d (BitVec.ofNat 64
      (((s.team s.curTeam).windows.map Window.size).sum + 2 ^ 32 * ((s.team s.curTeam).blockCores.map
        (fun c => 524288 - s.stashUsed (s.team s.curTeam).part c)).sum)) .w64))

/-- The events of stash lines (R239 to R243), for a line of memory of this device of which there is no other copy. A fill gives the line
the bytes at home and makes it CLEAN; a recall sends dirty bytes home and leaves the line INVALID for a store, CLEAN and not exclusive for
a load; an acknowledged write-back leaves it CLEAN, or DIRTY where bytes were written meanwhile, which are written back at once where a
fence waits for them; a timeout begins a write-back; an error in a CLEAN line drops it, and in a line with bytes of its own or a SCRATCH
window is a containment event of the team. Errors in main memory and in registers are named by windows that no team has (assumption 82).
That a recalled DIRTY line is written back and acknowledged in the step of the recall is read by inference (assumption 27). -/
def Obligations.StashEvents : Prop :=
  (∀ (s : State) (x w n : Nat) (win : Window) (l : Line), OwnLine s x w n win l → l.st = .filling →
    ∃ t l', exec (.stashFillArrives x w n) s = .next t ∧ LineNow s t x w n (some l') ∧ t.mem = s.mem ∧
      l' = { homeward l .clean with excl := false, data := l'.data } ∧ ∀ i < 128, lineGet l'.data i = s.mem.read (l.pa + i)) ∧
  (∀ (s : State) (x w n : Nat) (win : Window) (l : Line) (store : Bool), OwnLine s x w n win l → l.st ≠ .filling → s.memOk →
    ∃ t, exec (.stashRecall x w n store) s = .next t ∧ wentHome s t l (l.dirty ||| l.redirty) ∧
      LineNow s t x w n (if store then none else some { homeward l .clean with excl := false })) ∧
  (∀ (s : State) (x w n : Nat) (win : Window) (l : Line), OwnLine s x w n win l → l.st = .writing →
    ∃ t, exec (.stashWritebackAck x w n) s = .next t ∧
      (l.redirty = 0 → t.mem = s.mem ∧ LineNow s t x w n (some (homeward l .clean))) ∧
      (l.redirty ≠ 0 → l.again = false → t.mem = s.mem ∧
        LineNow s t x w n (some { homeward l .dirty with dirty := l.redirty })) ∧
      (l.redirty ≠ 0 → l.again = true → s.memOk → wentHome s t l l.redirty ∧
        LineNow s t x w n (some (homeward l .writing)))) ∧
  (∀ (s : State) (x w n : Nat) (win : Window) (l : Line), OwnLine s x w n win l → l.st = .dirty → s.memOk →
    ∃ t, exec (.stashWritebackTimeout x w n) s = .next t ∧ wentHome s t l l.dirty ∧ LineNow s t x w n (some (homeward l .writing))) ∧
  (∀ (s : State) (x w n : Nat) (win : Window) (l : Line), OwnLine s x w n win l → w < 16 →
    (win.mode ≠ .scratch → l.st = .clean →
      ∃ t, exec (.uncorrectableError x w n) s = .next t ∧ t.mem = s.mem ∧ LineNow s t x w n none) ∧
    (win.mode = .scratch ∨ l.st = .dirty ∨ l.st = .writing →
      exec (.uncorrectableError x w n) s = .next (s.killTeam x 0x60 false none 0))) ∧
  (∀ (s : State) (x n : Nat), exec (.uncorrectableError x 17 n) s = .next (s.killTeam x 0x60 false none 0) ∧
    ∃ t, exec (.uncorrectableError x 16 n) s = .next t ∧ { t with badmem := s.badmem } = s ∧
      ∀ k, k ∈ t.badmem ↔ k = n ∨ k ∈ s.badmem)

namespace Sys2Proof.Claims
open Sys2Proof.Machine

/-! ### Engine commands -/

/-- The command that a posting word makes (R249, R252), before it has a number: its names are those of the word at issue. -/
def posted (s : State) (token : BitVec 6) (spec : CmdSpec) (q slot : Nat) (stamp retire : Bool) : Cmd where
  asid := s.curB.asid
  bundle := s.cur.bundle
  team := s.curTeam
  core := match spec with
    | .coll _ => 0
    | _ => s.curB.coreNo
  seq := 0
  pc := s.cur.pc
  token := token.toNat
  st := .queued
  spec := spec
  stream := q
  cfg := s.streamCfg s.cur.bundle q
  progress := 0
  snap := []
  paused := false
  sizeovl := false
  result := 0
  flags := 0
  slot := slot
  stamp := stamp
  retire := retire
  observed := false
  lanes := 0
  born := 0
  acq := 0
  pins := []
  devs := []
  sent := []
  orphan := false
  due := none

/-- Every line of the command's own stash operands holds its data, or lies in a SCRATCH window, and those that it writes may be written
and are translated. -/
def linesReady (s : State) (c : Cmd) : Prop :=
  (∀ a ∈ s.ownLines c, s.lineReady c.team a = true) ∧
  s.requestLines c.spec.ownAccess (s.cmdCore c) c.team (s.ownLines c) = (s, .ok [])

/-- The pages of a command's global side may be accessed, and their translations are cached (R253). -/
def pagesReady (s : State) (q : Nat) (x : CmdSpec) : Prop :=
  ∃ pins, s.pinGlobals s.curB.coreNo s.curB.asid q x.pages = (s, .inr pins)

/-- A posting word has passed its checks (R252): its issued set waits in CHECKING, with its lines there, and nothing else changes but the
stamps. -/
structure Checking (s t : State) (c : Cmd) : Prop where
  rest : { t with bundles := s.bundles, stamps := s.stamps } = s
  others : ∀ i, i ≠ s.cur.bundle → t.bundle i = s.bundle i
  posting : t.curB.posting = some ⟨s.cur.lanes, c, some s.clk⟩
  threads : t.curB.threads = s.curB.threads.mapIdx (fun l th =>
    if s.cur.lanes.getLsbD l then { th with st := .waiting .posting } else th)
  frame : { t.curB with threads := s.curB.threads, posting := s.curB.posting } = s.curB

/-- A number of `n` bytes of a block at an offset, the lowest byte first (R6). -/
def field (bs : List Byte) (o n : Nat) : Nat := ofBytes ((bs.drop o).take n)

/-- A copy has the fields of its shape record (R256). -/
def copyFields (bs : List Byte) (x : CopySpec) : Prop :=
  x.gbase = BitVec.ofNat 64 (field bs 0 8) ∧ x.sbase = BitVec.ofNat 64 (field bs 8 8) ∧ x.rows = field bs 16 2 ∧
  x.rbytes = field bs 18 2 ∧ x.gstride = field bs 20 4 ∧ x.sstride = field bs 24 2 ∧ x.dir = field bs 28 2 % 4 ∧
  x.rbytes % x.esize = 0 ∧ field bs 30 2 = 0

end Sys2Proof.Claims

/-- The posting words complete into CHECKING where every check of R253 passes (R252, R257, R262, R270): the bundle holds the command that
the record or block describes, and the issued lanes wait. -/
def Obligations.PostingWords : Prop :=
  (∀ (s m : State) (d a : BitVec 6) (bs : List Byte) (x : CopySpec), s.issues (.cpy d a) → s.cur.bundle < s.bundles.length →
    s.uniTrap [⟨a.toNat, 2, .any⟩] = none → s.curB.posting = none → (s.u64 a).toNat % 32 = 0 →
    s.readBlock .engineRead (s.u64 a) 4 = (m, .ok bs) → m.bare = s.bare → copyOfRecord bs = some x → m.copyTrap x (field bs 27 1) = none →
    pagesReady m (field bs 27 1) (.copy x) → linesReady m (posted m d (.copy x) (field bs 27 1) 0 false false) →
    ∃ t, exec (.cpy d a) s = .next t ∧ copyFields bs x ∧ Checking m t (posted m d (.copy x) (field bs 27 1)
      (field bs 28 2 / 16 % 16) (decide (field bs 28 2 / 256 % 2 = 1)) (decide (field bs 28 2 / 512 % 2 = 1)))) ∧
  (∀ (s : State) (d a : BitVec 6) (p : Nat → Word) (m : MatSpec), s.issues (.mmpost d a) → s.cur.bundle < s.bundles.length →
    s.uniTrap [⟨a.toNat, 8, .int⟩] = none → s.curB.posting = none → s.curB.w ≠ 16 →
    p = (fun i => (s.readS s.cur.bundle (a.toNat + i)).val) → matOfBlock s.curB.w p = some m →
    (∀ l < s.curB.threads.length, s.matLaneTrap m l = none) → s.matStashTrap m = none →
    linesReady s (posted s d (.matrix m) 0 0 false false) →
    ∃ t, exec (.mmpost d a) s = .next t ∧ Checking s t (posted s d (.matrix m) 0 ((p 0).toNat / 2 ^ 20 % 16)
      ((p 0).getLsbD 24) ((p 0).getLsbD 25)) ∧
      m.time = 16 + (s.curB.w * m.cols * m.k + matRate m.afmt - 1) / matRate m.afmt ∧ m.time ≤ 512) ∧
  (∀ (s m n : State) (d a : BitVec 6) (bs ts : List Byte) (x y : CollSpec) (table : DWord), s.issues (.coll d a) →
    s.cur.bundle < s.bundles.length → s.uniTrap [⟨a.toNat, 2, .any⟩] = none → s.curB.posting = none → (s.u64 a).toNat % 64 = 0 →
    s.readBlock .engineRead (s.u64 a) 8 = (m, .ok bs) → collOfBlock bs = some (x, table) →
    m.readTable table x.members.length = (n, .ok ts) → n.bare = s.bare →
    n.badMembers x ((List.range x.members.length).map (fun i => field ts (2 * i) 2)) = false →
    (n.versioned n.curTeam = true → n.streamDirect n.cur.bundle (field bs 43 1) = true) →
    x.send.toNat % (collElement x.fmt.toNat).getD 1 = 0 → x.recv.toNat % (collElement x.fmt.toNat).getD 1 = 0 →
    x.send.toNat + x.sizes.1 ≤ 2 ^ 56 → x.recv.toNat + x.sizes.2 ≤ 2 ^ 56 →
    rangesMeet x.send.toNat x.sizes.1 0xFFFF0000000000 (2 ^ 40) = false →
    rangesMeet x.recv.toNat x.sizes.2 0xFFFF0000000000 (2 ^ 40) = false →
    (pagesOf [(x.send.toNat, x.sizes.1), (x.recv.toNat, x.sizes.2), (table.toNat, 2 * x.members.length)]).length ≤ 1024 →
    y = { x with members := (List.range x.members.length).map (fun i => BitVec.ofNat 9 (field ts (2 * i) 2)) } →
    pagesReady n (field bs 43 1) (.coll y) →
    ∃ t, exec (.coll d a) s = .next t ∧ Checking n t (posted n d (.coll y) (field bs 43 1) 0 false false) ∧
      x.send = BitVec.ofNat 64 (field bs 0 8) ∧ x.recv = BitVec.ofNat 64 (field bs 8 8) ∧ x.count = field bs 16 8 ∧
      x.rank = field bs 38 2 ∧ x.kind = field bs 40 1 ∧ x.rop = field bs 41 1)

namespace Sys2Proof.Claims
open Sys2Proof.Machine

/-- The number after a number of commands of one engine (R249): the next modulo 2^48, and 0 is skipped. -/
def nextNumber (n : BitVec 48) : BitVec 48 := if n + 1 = 0 then 1 else n + 1

/-- Both registers of a uniform pair keep their values and become PEND. -/
def pairPend (r : List Reg) (n : Nat) : List Reg := r.mapIdx (fun i x => if i = n ∨ i = n + 1 then { x with tag := .pend } else x)

/-- A uniform pair with a 64-bit value, both halves tagged INT. -/
def pairInt (r : List Reg) (n : Nat) (v : DWord) : List Reg := (r.set n ⟨v.setWidth 32, .int⟩).set (n + 1) ⟨(v >>> 32).setWidth 32, .int⟩

/-- The lanes of a posting word that still wait in CHECKING. -/
def checkingLane (s : State) (b : Nat) (p : Posting) (l : Nat) : Prop :=
  p.lanes.getLsbD l = true ∧ (s.thread b l).st = .waiting .posting

/-- A command is not complete at its acceptance: an empty copy is (R256). -/
def hasWork (c : Cmd) : Prop :=
  match c.spec with
  | .copy x => x.rows ≠ 0 ∧ x.rbytes ≠ 0
  | _ => True

/-- Every byte of the operands of a matrix post lies in a line that holds its data. -/
def operandsStand (s : State) (c : Cmd) : Prop :=
  match c.spec with
  | .matrix m => ∀ r ∈ m.ranges (s.bundle c.bundle).w, ∀ i < r.2, s.lineReady c.team (r.1 + i) = true
  | _ => True

end Sys2Proof.Claims

/-- A posting word whose operand lines are there is accepted where its engine has space (R249, R252): the command is the newest, with the
next number of its engine; its token pair is PEND; the bundle has no word in CHECKING; its lanes are READY at the next word, or PARKED
where a handler park waited for this. -/
def Obligations.CommandAccepted : Prop :=
  ∀ (s : State) (b : Nat) (p : Posting) (x : Context) (pins : List Pin), (s.bundle b).posting = some p → p.cmd.bundle = b →
    b < s.bundles.length → p.ready.isSome = true → linesReady s p.cmd →
    s.pinGlobals (s.bundle b).coreNo p.cmd.asid p.cmd.stream p.cmd.spec.pages = (s, .inr pins) →
    (∀ c l, ∀ x ∈ (s.thread c l).stores, s.shows b c x = false) → s.queueSpace p.cmd = true → hasWork p.cmd → operandsStand s p.cmd →
    s.ctxs.find? (fun c => c.asid == p.cmd.asid) = some x → (∀ l, checkingLane s b p l → (s.thread b l).out = []) →
    ∃ t c, exec (.engineCommandQueued b) s = .next t ∧ t.cmds = s.cmds ++ [c] ∧
      c.seq = nextNumber ((lookupKey p.cmd.engine x.seqs).getD 0) ∧
      lookupKey p.cmd.engine (t.ctx p.cmd.asid).seqs = some c.seq ∧
      c.pins = pins.map (fun x => (x.page, x.pa)) ++ s.linePins p.cmd ∧ c.devs = (pins.filter (fun x => x.dev)).map (fun x => x.page) ∧
      c.born = s.ticks ∧ (∀ l < 64, c.lanes.getLsbD l = true ↔ l < (s.bundle b).threads.length ∧ checkingLane s b p l) ∧
      { c with
        seq := p.cmd.seq, spec := p.cmd.spec, snap := p.cmd.snap, st := p.cmd.st, pins := p.cmd.pins, devs := p.cmd.devs
        lanes := p.cmd.lanes, born := p.cmd.born, acq := p.cmd.acq, sent := p.cmd.sent } = p.cmd ∧
      (t.bundle b).posting = none ∧ (t.bundle b).s = pairPend (s.bundle b).s p.cmd.token ∧
      (∀ l, checkingLane s b p l → (t.thread b l).pc = (s.thread b l).pc + 4 ∧
        (t.thread b l).st = if (s.thread b l).parkAsked then .parked .handler else .ready) ∧
      (∀ l, ¬ checkingLane s b p l → (t.thread b l).pc = (s.thread b l).pc ∧ (t.thread b l).st = (s.thread b l).st) ∧
      (∀ i, i ≠ b → t.bundle i = s.bundle i) ∧
      { t with bundles := s.bundles, cmds := s.cmds, ctxs := s.ctxs, stamps := s.stamps } = s

namespace Sys2Proof.Claims
open Sys2Proof.Machine

/-- The token of a command (R250). -/
def token (c : Cmd) : DWord :=
  (1#64 <<< 63) ||| (c.result.setWidth 64 <<< 60) ||| (if c.sizeovl then 1#64 <<< 59 else 0) ||| (c.flags.setWidth 64 <<< 48) |||
    c.seq.setWidth 64

/-- The state `m` once command `i` is DONE and its token pair holds its token, tagged INT; that of a killed team's command is not written
(R209). Its stamp slot is one of `ss`. -/
def ended (m : State) (i : Nat) (c : Cmd) (ss : List StampSlot) : State :=
  { (if c.orphan then m else m.modBundle c.bundle (fun b => { b with s := pairInt b.s c.token (token c) })) with
    cmds := m.cmds.modify i (fun y => { y with st := .done }), stamps := ss }

/-- A command that still runs ends (R250, R252), after the state `m` of its effects: it is DONE, and its token pair holds its token,
tagged INT; that of a killed team's command is not written (R209). Nothing else changes but the stamp slots, what a record changes where
the command retires a slot (R271), and, where threads wait for a token, the bundle whose threads go on and the commands that they observe. -/
def CmdEnds (m t : State) (i : Nat) : Prop :=
  ∀ c, m.cmd? i = some c → c.st = .running → (∃ o, t.cmd? i = some { c with st := .done, observed := o }) ∧
    (c.bundle < m.bundles.length → (t.bundle c.bundle).s =
      if c.orphan then (m.bundle c.bundle).s else pairInt (m.bundle c.bundle).s c.token (token c)) ∧
    ∃ bs ss u, u = (if c.retire then (ended m i c ss).stampRing c.asid bs else ended m i c ss) ∧
      { t with cmds := u.cmds, bundles := u.bundles } = u ∧ ((∀ l r, (m.thread c.bundle l).st ≠ .waiting (.token r)) → t = u)

/-- The FLAGS of a matrix post (R262): a flag that some lane raises, but never DZ. -/
def postFlags (s : State) (i : Nat) (c : Cmd) (m : MatSpec) (ops : List Byte) (f : BitVec 5) : Prop :=
  ∀ k < 5, f.getLsbD k = true ↔ k ≠ 1 ∧ ∃ l < (s.bundle c.bundle).threads.length,
    (s.matRow i m ops (s.bundle c.bundle).w l (s.thread c.bundle l)).2.getLsbD k = true

/-- A collective that may raise flags (R270): a reduction of floating-point elements. -/
def raises (x : CollSpec) : Prop := x.kind ≠ 1 ∧ (x.fmt = 0x11 ∨ x.fmt = 0x12 ∨ x.fmt = 0x13)

end Sys2Proof.Claims

/-- The engines (R252, R257, R262, R270). A queued copy is taken; the first matrix post of a core's FIFO that is not done takes its turn;
a running copy that no watchpoint stops makes its beats, a running matrix post whose time is over writes C and FLAGS, a running collective
reads SEND, writes RECV and has its RESULT, and each ends with its token; nothing else changes. A post of a killed team only ends.
What is free of a copy, a post and a collective is that of assumptions 20, 29 and 35. -/
def Obligations.Engines : Prop :=
  (∀ (s : State) (i : Nat) (c : Cmd) (x : CopySpec), s.cmd? i = some c → c.spec = .copy x → c.st = .queued →
    ∃ t, exec (.copyStart i) s = .next t ∧
      t.cmds = s.cmds.modify i (fun c => { c with st := .running, sent := s.sentTo (s.farPages c x) }) ∧ { t with cmds := s.cmds } = s) ∧
  (∀ (s : State) (i : Nat) (c : Cmd) (m : MatSpec), s.cmd? i = some c → c.spec = .matrix m → c.st = .queued →
    (∀ j < i, ∀ y, s.cmd? j = some y → y.spec.kind = 1 → s.cmdCore y = s.cmdCore c → y.st ≠ .queued ∧ y.st ≠ .running) →
    ∃ t d, exec (.matrixTurn i) s = .next t ∧ t.cmds = s.cmds.modify i (fun c => { c with st := .running, due := d }) ∧
      (d = none ∨ d = some (s.clk + BitVec.ofNat 64 m.time)) ∧ { t with cmds := s.cmds, stamps := s.stamps } = s) ∧
  (∀ (s m : State) (i : Nat) (c : Cmd) (x : CopySpec), s.cmd? i = some c → c.spec = .copy x → c.st = .running → c.paused = false →
    s.copyLost c x = false →
    (s.handlerBundle (s.bundle c.bundle).pid (s.bundle c.bundle).core = none ∧
        m = (x.beats.drop c.progress).foldl (fun s b => s.copyBeat i c x b) s) ∨
      (s.handlerBundle (s.bundle c.bundle).pid (s.bundle c.bundle).core ≠ none ∧
        s.copyBeats i c x (x.beats.drop c.progress) = (m, none, [])) →
    ∃ t, exec (.copyDone i) s = .next t ∧ CmdEnds m t i ∧ ((∀ y, m.cmd? i = some y → y.st ≠ .running) → t = m)) ∧
  (∀ (s : State) (i : Nat) (c : Cmd) (m : MatSpec) (ops : List Byte), s.cmd? i = some c → c.spec = .matrix m → c.st = .running →
    (∀ d, c.due = some d → d ≤ s.clk) → c.orphan = false →
    s.operandBytes c (m.ranges (s.bundle c.bundle).w) = (s, ops) → c.snap = ops →
    ∃ t f, exec (.matrixDone i) s = .next t ∧ postFlags s i c m ops f ∧
      CmdEnds { s.modBundle c.bundle (fun b => { b with threads := b.threads.mapIdx (fun l th =>
        th.matWrite i m (s.matRow i m ops (s.bundle c.bundle).w l th).1) }) with
          cmds := s.cmds.modify i (fun y => { y with flags := f, snap := [] }) } t i) ∧
  (∀ (s : State) (i : Nat) (c : Cmd) (m : MatSpec), s.cmd? i = some c → c.spec = .matrix m → c.st = .running →
    (∀ d, c.due = some d → d ≤ s.clk) → c.orphan = true → ∃ t, exec (.matrixDone i) s = .next t ∧ CmdEnds s t i) ∧
  (∀ (s : State) (i : Nat) (c : Cmd) (x : CollSpec) (r r' : BitVec 3) (f : BitVec 5), s.cmd? i = some c → c.spec = .coll x →
    c.st = .running → r.toNat ≤ 2 → r' = (if s.collLost x then 1 else r) →
    ∃ t f', exec (.collectiveDone i r f) s = .next t ∧
      (let a := if r' = 0 then s.collSend c x else (s, [], false)
       let e := a.1.collRecv c x (r' == 0) a.2.1
       CmdEnds (e.1.modCmd i (fun y => { y with progress := 1, result := r', flags := f', sizeovl := a.2.2 || e.2 })) t i) ∧
      (∀ k < 5, f'.getLsbD k = true ↔ f.getLsbD k = true ∧ k ≠ 1 ∧ raises x ∧ r' = 0)) ∧
  (∀ (s : State) (i : Nat) (c : Cmd) (m : MatSpec), s.cmd? i = some c → c.spec = .matrix m → c.st = .running →
    (∃ d, c.due = some d ∧ s.clk < d) → exec (.matrixDone i) s = .next s)

namespace Sys2Proof.Claims
open Sys2Proof.Machine

/-- The bytes of a USER record (R271): PC, no name, CLK, no offsets, CODE, team, KIND 1, slot 0, BIDX. -/
def userRecord (s : State) (code : BitVec 12) : List Byte :=
  bytesOf 8 s.cur.pc.toNat ++ List.replicate 8 0 ++ bytesOf 8 s.clk.toNat ++ List.replicate 28 0 ++ List.replicate 2 0 ++
    bytesOf 2 code.toNat ++ bytesOf 4 ((s.curB.team.map (fun t => (s.team t).index)).getD 0) ++ [1, 0] ++ bytesOf 2 s.curB.bidx

/-- A command that a bundle would observe by the pair at `r` (R251). -/
def observes (s : State) (r : BitVec 6) (c : Cmd) : Prop :=
  c.bundle = s.cur.bundle ∧ c.st = .done ∧ c.observed = false ∧
    (r.toNat = c.token ∨ r.toNat = c.token + 1)

end Sys2Proof.Claims

/-- `mmfence` goes on where the bundle's earlier words have written their registers and its flags are clear, and else waits (R266).
`twait` waits while its pair is PEND, and else goes on and observes the commands of the pair (R267). `stamp` gives a USER record to the
context's ring and goes on (R273). That it has no other effect where STAMPDESC is 0 is read by inference (assumption 40). -/
def Obligations.EngineWords : Prop :=
  (∀ s : State, s.issues .mmfence → ∃ t, exec .mmfence s = .next t ∧
    (s.curB.late = [] ∧ s.curB.flags = 0 → UniStep s t []) ∧
    (¬ (s.curB.late = [] ∧ s.curB.flags = 0) → LaneStep s t (atWord s .mmfence []))) ∧
  (∀ (s : State) (a : BitVec 6), s.issues (.twait a) → ∃ t, exec (.twait a) s = .next t ∧
    (s.curB.pairPending a.toNat = true → LaneStep s t (fun _ th => { th with st := .waiting (.token a.toNat) })) ∧
    (s.curB.pairPending a.toNat = false →
      t.cmds.length = s.cmds.length ∧
      (∀ i c, s.cmd? i = some c → observes s a c → t.cmd? i = some { c with observed := true }) ∧
      (∀ i c, s.cmd? i = some c → ¬ observes s a c → t.cmd? i = some c) ∧
      SameBut s.cur.bundle { s with cmds := t.cmds } t ∧ t.curB.threads.map Thread.pc = s.passed.map Thread.pc ∧
      ((∀ c ∈ s.cmds, ¬ observes s a c) → UniStep s t []))) ∧
  (∀ (s : State) (i : BitVec 12), s.issues (.stamp i) → ∃ t, exec (.stamp i) s = .next t ∧
    UniStep (s.stampRing s.curB.asid (userRecord s i)) t [] ∧ (s.curCtx.stampdesc = 0 → UniStep s t []))

namespace Sys2Proof.Claims
open Sys2Proof.Machine

/-! ### Barriers and monitors -/

/-- A program barrier that the word may name (R222), and the object that holds it. -/
structure ProgBar (s : State) (l : BitVec 2) (n : BitVec 4) (r : BarRef) : Prop where
  named : r = s.progBar l n
  allowed : l = 1 → n.toNat < 12
  held : match r with
    | .team t k => t < s.teams.length ∧ k < (s.team t).bars.length
    | .pack p _ _ => p < s.packs.length
    | .lane _ _ => False

/-- The threads that arrive at a team barrier in ALL mode (R224): they have not arrived, and the generation's check is no matter, for no
monitor is armed. -/
structure Arrival (s : State) (l : BitVec 2) (n : BitVec 4) : Prop where
  level : l = 1
  number : n.toNat < 12
  bundle : s.curB.team = some s.curTeam ∧ s.curB.live = true ∧ s.issued ≠ []
  team : s.curTeam < s.teams.length ∧ n.toNat < (s.team s.curTeam).bars.length
  mode : (s.bar (.team s.curTeam n.toNat)).all = true
  fresh : ∀ j ∈ s.issued, (s.curB.thread j).arrived.getLsbD n.toNat = false
  ready : ∀ j ∈ s.issued, (s.curB.thread j).st = .ready
  records : ∀ j ∈ s.issued, (s.curB.thread j).pwait = none
  quiet : teamQuiet s
  plain : (s.bar (.team s.curTeam n.toNat)).payop = none ∧ (s.bar (.team s.curTeam n.toNat)).drift = [] ∧
    ∀ m ∈ (s.team s.curTeam).mons, m.st ≠ .armed

/-- A released generation of the team's barrier `n` (R224): GEN is the next, no thread of the team is ARRIVED, and the threads that waited
for it are past their words. -/
def released (s t : State) (n : Nat) : Prop :=
  (t.bar (.team s.curTeam n)).gen = (s.bar (.team s.curTeam n)).gen + 1 ∧ (t.bar (.team s.curTeam n)).counting = false ∧
  (∀ b l, (s.bundle b).team = some s.curTeam → (t.thread b l).arrived.getLsbD n = false) ∧
  (∀ b l, (s.bundle b).team = some s.curTeam → (s.thread b l).st = .waiting (.barrier false n (s.bar (.team s.curTeam n)).gen) →
    (t.thread b l).pc = (s.thread b l).pc + 4 ∧
    (t.thread b l).st = if (s.thread b l).parkAsked then .parked .handler else .ready)

end Sys2Proof.Claims

/-- `binit` sets the mode and the count of a barrier that is not open (R223): 0 is every member, and a number up to 65536 that count; an
open barrier, or a larger number, is BARRIER_USE, which parks the issued set and changes no barrier.
`barrive` and `bsync` at a team barrier in ALL mode (R220, R221, R224): the issued threads become ARRIVED; `barrive` gives its register
the generation and goes on, and `bsync` waits with a pending-wait record. Where they are not the last the barrier counts; where every
thread of the team is then counted the generation is released. -/
def Obligations.BarrierInitAndArrival : Prop :=
  (∀ (s : State) (a : BitVec 6) (l : BitVec 2) (n : BitVec 4) (r : BarRef), s.issues (.binit a l n) → ProgBar s l n r →
    s.uniTrap [⟨a.toNat, 1, .int⟩] = none → (s.bar r).counting = false → (s.u32 a).toNat ≤ 65536 →
    ∃ t, exec (.binit a l n) s = .next t ∧ UniStep (withBars s t) t [] ∧ BarNow s t r { s.bar r with
      all := decide ((s.u32 a).toNat = 0)
      expected := if (s.u32 a).toNat ≠ 0 then (s.u32 a).toNat else match r with
        | .pack p _ _ => (s.pack p).members.length
        | _ => (s.teamLaunch s.curTeam).teamThreads }) ∧
  (∀ (s : State) (a : BitVec 6) (l : BitVec 2) (n : BitVec 4) (r : BarRef), s.issues (.binit a l n) → ProgBar s l n r →
    s.uniTrap [⟨a.toNat, 1, .int⟩] = none → (s.bar r).counting = true ∨ (s.u32 a).toNat > 65536 →
    exec (.binit a l n) s = .next (s.trapIssued (TrapInfo.of 0x7D))) ∧
  (∀ (s : State) (d : BitVec 6) (l : BitVec 2) (n : BitVec 4), s.issues (.barrive d l n) → Arrival s l n → ¬ allCounted s n.toNat →
    ∃ t, exec (.barrive d l n) s = .next t ∧ t.curB.s = s.curB.s.set d.toNat ⟨(s.bar (.team s.curTeam n.toNat)).gen, .int⟩ ∧
      t.bare.curB.threads = s.bare.curB.threads.mapIdx (fun k th =>
        if s.cur.lanes.getLsbD k then (arrivedAt th n.toNat).advance s.cur.pc else th) ∧
      BarNow s t (.team s.curTeam n.toNat) { s.bar (.team s.curTeam n.toNat) with counting := true, word := s.cur.pc } ∧
      SameBut s.cur.bundle (withBars s t).bare t.bare) ∧
  (∀ (s : State) (d : BitVec 6) (l : BitVec 2) (n : BitVec 4), s.issues (.barrive d l n) → Arrival s l n → allCounted s n.toNat →
    ∃ t, exec (.barrive d l n) s = .next t ∧ released s t n.toNat ∧ t.mem = s.mem ∧
      t.curB.s = s.curB.s.set d.toNat ⟨(s.bar (.team s.curTeam n.toNat)).gen, .int⟩ ∧
      ∀ k ∈ s.issued, (t.curB.thread k).pc = s.cur.pc + 4 ∧ (t.curB.thread k).st = .ready) ∧
  (∀ (s : State) (l : BitVec 2) (n : BitVec 4), s.issues (.bsync l n) → Arrival s l n → ¬ allCounted s n.toNat →
    ∃ t, exec (.bsync l n) s = .next t ∧
      t.bare.curB.threads = s.bare.curB.threads.mapIdx (fun k th => if s.cur.lanes.getLsbD k then { arrivedAt th n.toNat with
        pwait := some ⟨false, n.toNat, (s.bar (.team s.curTeam n.toNat)).gen⟩
        st := .waiting (.barrier false n.toNat (s.bar (.team s.curTeam n.toNat)).gen) } else th) ∧
      BarNow s t (.team s.curTeam n.toNat) { s.bar (.team s.curTeam n.toNat) with counting := true, word := s.cur.pc } ∧
      SameBut s.cur.bundle (withBars s t).bare t.bare) ∧
  (∀ (s : State) (l : BitVec 2) (n : BitVec 4), s.issues (.bsync l n) → Arrival s l n → allCounted s n.toNat →
    ∃ t, exec (.bsync l n) s = .next t ∧ released s t n.toNat ∧ t.mem = s.mem ∧
      ∀ k ∈ s.issued, (t.curB.thread k).pc = (s.curB.thread k).pc + 4 ∧ (t.curB.thread k).pwait = none)

/-- `bwait` waits on a generation that is open or to come, and goes on where it has been released (R224). `bpay` gives its pair to the
payload, combined with what is there, and its destination pair is PEND until the release (R227). -/
def Obligations.BarrierWaitAndPay : Prop :=
  (∀ (s : State) (a : BitVec 6) (l : BitVec 2) (n : BitVec 4) (r : BarRef), s.issues (.bwait a l n) → ProgBar s l n r →
    s.uniTrap [⟨a.toNat, 1, .int⟩] = none → (∀ j ∈ s.issued, (s.curB.thread j).st = .ready) → (s.bar r).drift = [] →
    ∃ t, exec (.bwait a l n) s = .next t ∧
      ((s.u32 a - (s.bar r).gen).toNat < 2 ^ 31 → LaneStep s t (fun _ th =>
        { th with st := .waiting (.barrier (decide (l = 2)) n.toNat (s.u32 a)) })) ∧
      ((s.u32 a - (s.bar r).gen).toNat ≥ 2 ^ 31 → LaneStep s.bare t.bare (fun _ th => { th with
        pc := th.pc + 4, fell := true, pwait := th.pwait.filter (fun w => !(w.pack == decide (l = 2) && w.num == n.toNat)) }))) ∧
  (∀ (s : State) (d a : BitVec 6) (p : BitVec 3) (l : BitVec 2) (n : BitVec 4) (r : BarRef), s.issues (.bpay d a p l n) →
    ProgBar s l n r → s.uniTrap [⟨a.toNat, 2, .int⟩] = none → s.cur.bundle < s.bundles.length →
    (∀ e ∈ s.curB.deliver, ¬ (e.pack = decide (l = 2) ∧ e.num = n.toNat)) →
    ∃ t, exec (.bpay d a p l n) s = .next t ∧ SameBut s.cur.bundle (withBars s t) t ∧
      t.curB.s = pairPend s.curB.s d.toNat ∧ t.curB.deliver = s.curB.deliver ++ [⟨decide (l = 2), n.toNat, d.toNat⟩] ∧
      t.curB.threads = s.passed ∧
      BarNow s t r (match (s.bar r).payop with
        | none => { s.bar r with payop := some p.toNat, payload := s.u64 a }
        | some o => { s.bar r with payload := combinePay o (s.bar r).payload (s.u64 a), mixed := (s.bar r).mixed || decide (o ≠ p.toNat) }))

namespace Sys2Proof.Claims
open Sys2Proof.Machine

/-- The monitor of the team at issue that a word names exists. -/
def monHeld (s : State) (m : BitVec 3) : Prop := s.curTeam < s.teams.length ∧ m.toNat < (s.team s.curTeam).mons.length

/-- A uniform word that writes `ws` and leaves monitor `m` of its team as `x`; no other monitor and no other team changes. -/
structure MonStep (s t : State) (m : BitVec 3) (x : Monitor) (ws : List (Nat × Reg)) : Prop where
  step : UniStep { s with teams := t.teams } t ws
  teams : t.teams = s.teams.modify s.curTeam (fun y => { y with mons := y.mons.set m.toNat x })

/-- The four registers of a 128-bit value, the lowest first, tagged W64 (R306). -/
def wide (v : Int) : List Reg :=
  [⟨(BitVec.ofInt 128 v).extractLsb' 0 32, .w64⟩, ⟨(BitVec.ofInt 128 v).extractLsb' 32 32, .w64⟩,
    ⟨(BitVec.ofInt 128 v).extractLsb' 64 32, .w64⟩, ⟨(BitVec.ofInt 128 v).extractLsb' 96 32, .w64⟩]

/-- STATUS (R306). -/
def statusWord (m : Monitor) : Nat :=
  m.inexact + 2 ^ 16 * m.trips + (if m.lasttrip then 2 ^ 27 else 0) + (if m.part then 2 ^ 28 else 0) + (if m.ovf then 2 ^ 29 else 0) +
    2 ^ 30 * (match m.st with | .unconfigured => 0 | .disarmed => 1 | .armed => 2)

/-- The total of a monitor is in range, nothing sticky is set, and it is within BOUND of REF (R300). -/
def conserves (x : Monitor) : Prop :=
  x.ovf = false ∧ x.part = false ∧ -(2 ^ 127) ≤ x.total ∧ x.total < 2 ^ 127 ∧ (x.total - x.ref).natAbs ≤ x.bound

end Sys2Proof.Claims

/-- The monitor words complete (R302 to R308): `hcfg` gives a monitor that is not armed the configuration of the block; `href` sets REF and
clears the sticky bits; `hrd` reads the total, REF, BOUND or the status; `hchk` of a monitor that conserves counts a check, empties the partials, takes the total as REF where COPY asks, and gives the status; one that does
not conserve trips. Nothing else changes. -/
def Obligations.MonitorWords : Prop :=
  (∀ (s u : State) (a : BitVec 6) (m : BitVec 3) (bs : List Byte) (x : Monitor), s.issues (.hcfg a m) → monHeld s m →
    s.uniTrap [⟨a.toNat, 2, .int⟩] = none → (s.u64 a).toNat % 64 = 0 → s.readBlock .read (s.u64 a) 8 = (u, .ok bs) → u.bare = s.bare →
    Monitor.ofBlock bs = some x → ((s.team s.curTeam).mon m.toNat).st ≠ .armed →
    ∃ t, exec (.hcfg a m) s = .next t ∧ MonStep s.bare t.bare m x [] ∧ x.st = .disarmed ∧ x.base = BitVec.ofNat 64 (field bs 0 8) ∧
      x.limit = field bs 8 8 ∧ x.bound = field bs 16 16 ∧ x.stride = field bs 32 4 ∧ x.foff = field bs 36 4 ∧
      x.stream = field bs 40 1 ∧ x.fmt = field bs 41 1 ∧ x.p = field bs 42 1) ∧
  (∀ (s : State) (a : BitVec 6) (m : BitVec 3), s.issues (.href a m) → monHeld s m → s.uniTrap [⟨a.toNat, 4, .int⟩] = none →
    ((s.team s.curTeam).mon m.toNat).st ≠ .unconfigured →
    ∃ t, exec (.href a m) s = .next t ∧ MonStep s t m { (s.team s.curTeam).mon m.toNat with
      ref := ((s.readS s.cur.bundle (a.toNat + 3)).val ++ (s.readS s.cur.bundle (a.toNat + 2)).val ++
        (s.readS s.cur.bundle (a.toNat + 1)).val ++ (s.readS s.cur.bundle a.toNat).val : BitVec 128).toInt
      ovf := false, part := false, inexact := 0 } []) ∧
  (∀ (s : State) (d a : BitVec 6) (m : BitVec 3) (x : Monitor), s.issues (.hrd d a m) → s.uniTrap [⟨a.toNat, 1, .int⟩] = none →
    (s.u32 a).toNat < 4 → x = (s.team s.curTeam).mon m.toNat →
    ∃ t, exec (.hrd d a m) s = .next t ∧ UniStep s t (fromReg d (
      if s.u32 a = 0 then wide x.total else if s.u32 a = 1 then wide x.ref else if s.u32 a = 2 then wide x.bound
      else [⟨BitVec.ofNat 32 (statusWord x), .int⟩, ⟨x.checks, .int⟩, ⟨BitVec.ofNat 32 x.stores, .int⟩, ⟨0, .int⟩]))) ∧
  (∀ (s : State) (d : BitVec 6) (m : BitVec 3) (x y : Monitor), s.issues (.hchk d m) → monHeld s m →
    x = (s.team s.curTeam).mon m.toNat → x.st = .armed → x.level = 1 → x.touched = true → conserves x →
    y = { x with
      ref := if x.copy then x.total else x.ref
      partials := []
      lasttrip := false
      checks := x.checks + 1
      stores := 0
      touched := false } →
    ∃ t, exec (.hchk d m) s = .next t ∧ MonStep s t m y [(d.toNat, ⟨BitVec.ofNat 32 (statusWord y), .int⟩)]) ∧
  (∀ (s : State) (d : BitVec 6) (m : BitVec 3) (x : Monitor), s.issues (.hchk d m) → monHeld s m →
    x = (s.team s.curTeam).mon m.toNat → x.st = .armed → x.level = 1 → x.touched = true → ¬ conserves x → x.action = 0 →
    s.curB.team = some s.curTeam → s.versioned s.curTeam = false →
    ∃ t, exec (.hchk d m) s = .next t ∧ ((t.team s.curTeam).mon m.toNat).lasttrip = true ∧
      ((t.team s.curTeam).mon m.toNat).ref = x.ref ∧
      ∀ l ∈ s.issued, (t.curB.thread l).st = .parked .trap ∧ (t.curB.thread l).frec.w0.setWidth 8 = 0x61#8)

namespace Sys2Proof.Claims
open Sys2Proof.Machine

/-! ### Slices -/

/-- A state with another memory, other accesses of lane `l` that may be raced and acquires of it, and other outstanding words. -/
def noted (s : State) (l : Nat) (m : Memory) (bad : List Nat) (r : List Touch) (a : List Nat) (o : List LateOp) : State :=
  ({ s with mem := m, badmem := bad } : State).modBundle s.cur.bundle
    (fun x => ({ x with late := o } : Bundle).modThread l (fun t => { t with recent := r, acq := a }))

/-- An access of stream 0 goes to committed memory at a local offset, whatever memory holds: its translation is cached, no stash line
holds it, no access of another size races it (R154), and it overwrites no store that its bundle has seen (R157). -/
structure SteadyAccess (s : State) (l : Nat) (va : DWord) (size : Nat) (k : Access) (off : Nat) (dev : Bool) : Prop where
  place : ∀ m bad r a o, (noted s l m bad r a o).locate s.cur.bundle l va size 0 k = (noted s l m bad r a o, .mem off none dev)
  home : unheld s off
  alone : s.racing (s.spot s.cur.bundle (laneBit l) 0 dev off size none) = [] ∧
    s.touched (s.spot s.cur.bundle (laneBit l) 0 dev off size none) k.isStore = []
  seen : unseen s s.cur.bundle off size
  inside : off + size ≤ lpddrEnd

/-- The word issues in one lane, whose frame is entered and which has no access outstanding. -/
structure OneLane (s : State) (l : Nat) : Prop where
  lane : s.issued = [l]
  entered : (s.curB.thread l).entered = true
  out : (s.curB.thread l).out = []

/-- Memory after bytes have been stored from an address up, and nowhere else. -/
def storedAt (s t : State) (off : Nat) (bs : List Byte) : Prop :=
  ∀ x, t.mem.read x = if off ≤ x ∧ x < off + bs.length then bs.getD (x - off) 0 else s.mem.read x

/-- Only lane `l` of the bundle at issue and memory have changed, beside what the machine keeps of accesses and the marks of races for a
register (R37). -/
def oneThread (s t : State) (l : Nat) (f : Thread → Thread) : Prop :=
  ThreadsStep s.cur.bundle ((s.withMem t).bare.calm s.cur.bundle) (t.bare.calm s.cur.bundle) (fun k th => if k = l then f th else th)

end Sys2Proof.Claims

/-- `mark` writes a delimiter of 32 bytes (the older MARKTOP, FP, the tag, zero) at SP aligned, makes it MARKTOP and moves SP above it;
`unmark` of the youngest delimiter makes the next older one MARKTOP, and of an older one takes it out of the chain (R277, R285). Nothing
else changes. An `unmark` whose chain holds no delimiter of its tag traps SLICE_NO_MARK. -/
def Obligations.SliceMarks : Prop :=
  (∀ (s : State) (g : BitVec 12) (l off : Nat) (a : DWord) (dev : Bool), s.issues (.mark g) → OneLane s l → quiet s → s.memOk →
    a = ((s.pairV l 4 + 15) &&& 0xFFFFFFFFFFFFFFF0) → a.toNat + 32 ≤ (s.curB.thread l).flimit.toNat →
    (∀ i < 4, SteadyAccess s l (a + BitVec.ofNat 64 (8 * i)) 8 .write (off + 8 * i) dev) →
    ∃ t, exec (.mark g) s = .next t ∧
      storedAt s t off (bytesOf 8 (s.curB.thread l).marktop.toNat ++ bytesOf 8 (s.pairV l 6).toNat ++ bytesOf 8 g.toNat ++ bytesOf 8 0) ∧
      oneThread s t l (fun th => (({ th with marktop := a } : Thread).setSp (a + 32)).advance s.cur.pc)) ∧
  (∀ (s u : State) (g : BitVec 12) (l : Nat) (d : Delim), s.issues (.unmark g) → OneLane s l → u.bare = s.bare →
    s.chainTo s.cur.bundle l (g.setWidth 64) (s.curB.thread l).delimFuel (s.curB.thread l).marktop = (u, .ok, [d]) →
    d.tagw = g.setWidth 64 →
    ∃ t, exec (.unmark g) s = .next t ∧ t.mem = s.mem ∧
      oneThread s t l (fun th => ({ th with marktop := d.prev } : Thread).advance s.cur.pc)) ∧
  (∀ (s u : State) (g : BitVec 12) (l off : Nat) (ds : List Delim) (x d : Delim) (dev : Bool), s.issues (.unmark g) → OneLane s l →
    quiet s → s.memOk → u.bare = s.bare →
    s.chainTo s.cur.bundle l (g.setWidth 64) (s.curB.thread l).delimFuel (s.curB.thread l).marktop = (u, .ok, ds ++ [x, d]) →
    d.tagw = g.setWidth 64 → SteadyAccess u l x.at_ 8 .write off dev →
    ∃ t, exec (.unmark g) s = .next t ∧ storedAt s t off (bytesOf 8 d.prev.toNat) ∧
      oneThread s t l (fun th => th.advance s.cur.pc)) ∧
  (∀ (s u : State) (g : BitVec 12) (l : Nat) (ds : List Delim), s.issues (.unmark g) → OneLane s l → u.bare = s.bare →
    s.chainTo s.cur.bundle l (g.setWidth 64) (s.curB.thread l).delimFuel (s.curB.thread l).marktop = (u, .ok, ds) →
    (∀ d ∈ ds, d.tagw ≠ g.setWidth 64) →
    exec (.unmark g) s = .next (u.trapIssued (TrapInfo.of 0x53)))

namespace Sys2Proof.Claims
open Sys2Proof.Machine

/-- The state after the stores of a `cut` (R286): the image behind the header, the header but for its capacity, and the links of the
chain. -/
def cutStores (s : State) (l : Nat) (p : CutPlan) : State :=
  p.relink.foldl (fun s x => s.slicePut true s.cur.bundle l x.1 [bytesOf 8 x.2.toNat])
    ((s.slicePut true s.cur.bundle l (p.buf + 64) (pieces8 p.image)).slicePut true s.cur.bundle l (p.buf + 4)
      (p.header.take 4 :: pieces8 (p.header.drop 4)))

end Sys2Proof.Claims

/-- `cut` and `graft` complete where their checks pass (R286, R287). A `cut` stores the image and its header, takes the frames off the
thread, whose registers have been spilled, and returns to the bottom frame's caller with the handle (buffer and serial) in its pair; a
`graft` stores the relocated image,
counts itself in SYNC, and continues in the slice's top frame with the delivered value in the register that the slice names.
That what is counted and moved is moved in one step is read by inference (assumption 36). -/
def Obligations.SliceMoves : Prop :=
  (∀ (s u : State) (d a : BitVec 6) (g : BitVec 12) (l : Nat) (p : CutPlan), s.issues (.cut d a g) → OneLane s l →
    s.cur.bundle < s.bundles.length →
    s.laneTrap l ⟨[⟨a.toNat, 2, .int⟩], []⟩ = none → s.cutPlan d a (g.setWidth 64) l = (u, .ok, some p) → u.cur = s.cur →
    (cutStores u l p).cur = s.cur →
    ∃ t, exec (.cut d a g) s = .next t ∧ ThreadsStep s.cur.bundle ((cutStores u l p).calm s.cur.bundle) (t.calm s.cur.bundle)
      (fun k th => if k = l then
      (th.unwind p).writes (put2 d (p.buf ||| BitVec.ofNat 64 (p.serial * 2 ^ 56)) .w64) else th)) ∧
  (∀ (s u m : State) (a b : BitVec 6) (h : BitVec 2) (l : Nat) (p : GraftPlan), s.issues (.graft a b h) → OneLane s l →
    s.laneTrap l ⟨[⟨a.toNat, 2, .int⟩, ⟨b.toNat, 1, .any⟩], []⟩ = none → s.graftPlan a l = (u, .ok, some p) → u.cur = s.cur →
    m = u.slicePut true s.cur.bundle l p.newlo (pieces8 p.image) →
    ∃ t, exec (.graft a b h) s = .next t ∧ ThreadsStep s.cur.bundle
      ((m.syncAtomic s.cur.bundle l p.buf true (m.begun l) (syncDone (m.begun l).isSome)).calm s.cur.bundle) (t.calm s.cur.bundle)
      (fun k th => if k = l then th.grafted p (s.v l b) else th))

namespace Sys2Proof.Claims
open Sys2Proof.Machine

/-- SYNC with another STATE (R279): bits 33 and 32 change. -/
def syncWith (st : BitVec 64) (v : BitVec 64) : BitVec 64 := (v &&& 0xFFFFFFFCFFFFFFFF) ||| (st <<< 32)

/-- STATUS of `slinfo` (R291). -/
def infoStatus (s : State) (h : SliceHeader) (whole : Bool) (serial : Nat) : Nat :=
  if !whole then 5 else if h.ctx ≠ s.curB.asid.toNat then 4 else if h.serial ≠ serial then 3 else h.state

end Sys2Proof.Claims

/-- `slshare` and `slfree` of the thread's own slice complete (R290): STATE of SYNC becomes SHARED by `slshare` and FREED by `slfree`, and nothing else
changes. `slinfo` reports the slice's STATUS, ownership, serial, frames, and the grafts of SYNC, and changes nothing else (R291). -/
def Obligations.SliceStates : Prop :=
  (∀ (s u : State) (i : Instr) (a : BitVec 6) (free : Bool) (l off : Nat) (buf : DWord) (dev : Bool),
    i = (if free then .slfree a else .slshare a) → s.issues i → OneLane s l → quiet s → s.memOk → s.unshown → s.linesClean →
    s.laneTrap l ⟨[⟨a.toNat, 2, .int⟩], []⟩ = none → u.bare = s.bare →
    s.ownPlan free a l = (u, .ok, some buf) → SteadyAccess u l (buf + 16) 8 .atomic off dev →
    ∃ t, exec i s = .next t ∧
      storedAt s t off (bytesOf 8 (syncWith (if free then 2 else 1) (BitVec.ofNat 64 (ofBytes (s.mem.readBytes off 8)))).toNat) ∧
      oneThread s t l (fun th => th.advance s.cur.pc)) ∧
  (∀ (s u w : State) (d a : BitVec 6) (l : Nat) (h : SliceHeader) (r : Option (List SliceFrame)), s.issues (.slinfo d a) → OneLane s l →
    s.laneTrap l ⟨[⟨a.toNat, 2, .int⟩], dstRegs d.toNat 2 .w64⟩ = none → u.bare = s.bare → w.bare = s.bare →
    s.readHeader s.cur.bundle l (s.pairV l a.toNat &&& 0x00FFFFFFFFFFFFFF) = (u, .ok, h) →
    u.sliceFrames false s.cur.bundle l (s.pairV l a.toNat &&& 0x00FFFFFFFFFFFFFF) h = (w, .ok, r) →
    ∃ t v, exec (.slinfo d a) s = .next t ∧
      v = infoStatus s h r.isSome ((s.pairV l a.toNat).toNat / 2 ^ 56) +
        (if h.owner = s.threadName s.cur.bundle l ∧ h.ctx = s.curB.asid.toNat then 8 else 0) + 2 ^ 8 * h.serial + 2 ^ 16 * h.nfr +
        2 ^ 32 * (h.sync % 2 ^ 16) + 2 ^ 48 * (h.sync / 2 ^ 16 % 2 ^ 16) ∧
      LaneStep s.bare t.bare (fun _ th => (th.writes (put2 d (BitVec.ofNat 64 v) .w64)).advance s.cur.pc))

namespace Sys2Proof.Claims
open Sys2Proof.Machine

/-! ### Special registers -/

/-- PART (R216). -/
def partWord (s : State) : Nat :=
  match s.curB.team with
  | none => s.curB.part
  | some x =>
    let p := s.pack (s.team x).pack
    if p.formed then s.curB.part + 2 ^ 8 * ((s.team x).rank % (p.cols * p.rows) % p.cols) + 2 ^ 10 * ((s.team x).rank % (p.cols * p.rows) / p.cols) + 2 ^ 16 * (p.cols - 1) +
      2 ^ 18 * (p.rows - 1)
    else s.curB.part

/-- The bits of SEL that are not reserved for a KIND (R364): all of them, a team, a bundle. -/
def selBits (kind : BitVec 2) : DWord := if kind = 1 then 0xFFFFFFFF else if kind = 2 then 0xFFFFFFFFFFF else 0xFFFFFFFFFFFFFFFF

/-- The special registers of R362 as the word at issue reads them; LVMAP and the registers of the handler bundle have statements of their
own. -/
def specialTable (s : State) : List (Nat × DWord) :=
  let n (v : Nat) : DWord := BitVec.ofNat 64 v
  [(0x000, n (s.curB.bidx * s.curB.w)), (0x001, n s.curB.bidx),
    (0x002, n ((s.curB.team.map (fun t => (s.team t).index)).getD 0)), (0x003, n (16 * s.curB.sub + s.curB.core)),
    (0x004, n (partWord s)), (0x005, s.nodeid.setWidth 64), (0x010, s.clk),
    (0x011, n (if (s.partOf s.curB.pid).raised then 2 * min (s.partOf s.curB.pid).left (2 ^ 20 - 1) + 1 else 0)),
    (0x012, n (2 ^ 8 * (s.curB.p / 8) + (if s.curB.w = 16 then 0 else if s.curB.w = 32 then 16 else 32) +
      (if s.curB.leash.rot then 2 else 0) + (if s.curB.bempty then 1 else 0))),
    (0x013, (s.issued.foldl (fun f l => f ||| (s.curB.thread l).fstat) 0).setWidth 64), (0x014, s.host.caps),
    (0x015, n (if s.curCtx.tagcheck then 1 else 0)), (0x016, n s.curCtx.leash), (0x033, s.curCtx.hentry), (0x080, s.curCtx.inject)] ++
  (List.range 16).map (fun k => (0x020 + k, (s.curCtx.streamcfg.getD k 0).setWidth 64)) ++
  (List.range 16).map (fun k => (0x040 + k, s.curCtx.bkpta.getD k 0)) ++
  (List.range 16).map (fun k => (0x050 + k, s.curCtx.bkpts.getD k 0 &&& selBits ((s.curCtx.bkpta.getD k 0).setWidth 2))) ++
  (List.range 8).map (fun k => (0x060 + k, s.curCtx.wpa.getD k 0)) ++
  (List.range 8).map (fun k => (0x068 + k, s.curCtx.wpm.getD k 0))

/-- The open event of the bundle at issue, where it is a handler bundle (R363). -/
def openEvent (s : State) : Option TrapEvent := s.curB.handler.bind Handler.current

/-- TRAPC, TRAPPC and TRAPM (R363). -/
def trapRegs (s : State) : List (Nat × DWord) :=
  match openEvent s with
  | none => [(0x030, 0), (0x031, 0), (0x032, 0)]
  | some e => [(0x030, BitVec.ofNat 64 (e.cause.toNat % 128 + 2 ^ 8 * e.slot + 2 ^ 14 * e.sub + if e.nobundle then 2 ^ 16 else 0)),
      (0x031, e.pc), (0x032, e.lanes)]

end Sys2Proof.Claims

namespace Sys2Proof.Claims
open Sys2Proof.Machine

/-- The context of the word at issue, changed. -/
def withCtx (s : State) (asid : BitVec 16) (f : Context → Context) : State :=
  { s with ctxs := s.ctxs.map (fun c => if c.asid = asid then f c else c) }

/-- A breakpoint or watchpoint address: without a handler its EN bit stays clear (R351). -/
def debugAddr (c : Context) (v : DWord) : DWord := if c.handler then v else v &&& 0x7FFFFFFFFFFFFFFF

/-- The range of a watchpoint is translated for the home slices as its write takes effect (R366). -/
def translated (s : State) (k : Nat) : State :=
  withCtx s s.curB.asid (fun c => { c with
    wpt := c.wpt.set k (s.peekXlate s.curB.coreNo s.curB.asid (((s.ctx s.curB.asid).wpa.getD k 0) &&& 0x00FFFFFFFFFFFFF0)) })

/-- LEASH of a written value (R91): clamped to 64 and 65536, in multiples of 8. -/
def leashOf (v : DWord) : Nat :=
  let n := v.toNat % 2 ^ 17
  (if n < 64 then 64 else if n > 65536 then 65536 else n) / 8 * 8

/-- The state after a write of special register `r` by the word at issue (R59, R80, R88, R91, R150, R317, R361 to R366). -/
def afterSwr (s : State) (r : Nat) (v : DWord) : State :=
  let ctx (f : Context → Context) : State := withCtx s s.curB.asid f
  if r = 0x012 then s.modBundle s.cur.bundle (fun b => { b with bempty := v.getLsbD 0 })
  else if r = 0x013 then s.modBundle s.cur.bundle (fun b => { b with threads := b.threads.mapIdx (fun l th =>
    if s.cur.lanes.getLsbD l then { th with fstat := v.setWidth 6 } else th) })
  else if r = 0x015 then ctx (fun c => { c with tagcheck := v.getLsbD 0 })
  else if r = 0x016 then ctx (fun c => { c with leash := leashOf v })
  else if 0x020 ≤ r ∧ r < 0x030 then ctx (fun c => { c with streamcfg := c.streamcfg.set (r - 0x020) (v.setWidth 6 &&& 0x3E) })
  else if r = 0x033 then ctx (fun c => { c with hentry := v &&& 0x00FFFFFFFFFFFFFC })
  else if 0x040 ≤ r ∧ r < 0x050 then ctx (fun c => { c with bkpta := c.bkpta.set (r - 0x040) (debugAddr c (v &&& 0x80FFFFFFFFFFFFFF)) })
  else if 0x050 ≤ r ∧ r < 0x060 then ctx (fun c => { c with
    bkpts := c.bkpts.set (r - 0x050) (v &&& selBits ((c.bkpta.getD (r - 0x050) 0).setWidth 2)) })
  else if 0x060 ≤ r ∧ r < 0x068 then 
    translated (ctx (fun c => { c with wpa := c.wpa.set (r - 0x060) (debugAddr c (v &&& 0x80FFFFFFFFFFFFF0)) })) (r - 0x060)
  else if 0x068 ≤ r ∧ r < 0x070 then ctx (fun c => { c with wpm := c.wpm.set (r - 0x068) v })
  else if r = 0x080 then ctx (fun c => { c with inject := (if (v &&& 7) < 2 then v else v &&& 0x7FFFFFFFFFFFFFF8) &&& 0xBFFFFFFFFFFFFFFF })
  else s

end Sys2Proof.Claims

/-- `swr` writes the special register that it names, as its rule says, and ignores a register that is read only (R361); the events that
stand for these writes do the same (R59, R80, R88, R91, R150, R317, R371). Nothing else changes. -/
def Obligations.SpecialWrites : Prop :=
  (∀ (s : State) (a : BitVec 6) (r : BitVec 12), s.issues (.swr a r) → s.uniTrap [⟨a.toNat, if srWide r then 2 else 1, .int⟩] = none →
    ∃ t, exec (.swr a r) s = .next t ∧
      UniStep (afterSwr s r.toNat (if srWide r then s.u64 a else (s.u32 a).setWidth 64)) t []) ∧
  (∀ (s : State) (b : Nat) (lanes : BitVec 64) (v : Word), exec (.fstatWrite b lanes v) s =
    .next (s.modBundle b (fun x => { x with threads := x.threads.mapIdx (fun l th =>
      if lanes.getLsbD l then { th with fstat := v.setWidth 6 } else th) }))) ∧
  (∀ (s : State) (b : Nat) (v : Word), exec (.bstatWrite b v) s = .next (s.modBundle b (fun x => { x with bempty := v.getLsbD 0 }))) ∧
  (∀ (s : State) (k : BitVec 16) (v : Word), exec (.tagmodeWrite k v) s = .next (withCtx s k (fun c => { c with tagcheck := v.getLsbD 0 }))) ∧
  (∀ (s : State) (k : BitVec 16) (v : Word), exec (.leashWrite k v) s =
    .next (withCtx s k (fun c => { c with leash := leashOf (v.setWidth 64) }))) ∧
  (∀ (s : State) (k : BitVec 16) (n : BitVec 4) (v : Word), exec (.streamcfgWrite k n v) s =
    .next (withCtx s k (fun c => { c with streamcfg := c.streamcfg.set n.toNat (v.setWidth 6 &&& 0x3E) }))) ∧
  (∀ (s : State) (k : BitVec 16) (v : DWord), exec (.hentryWrite k v) s =
    .next (withCtx s k (fun c => { c with hentry := v &&& 0x00FFFFFFFFFFFFFC }))) ∧
  (∀ (s : State) (k : BitVec 16) (v : DWord), exec (.injectWrite k v) s = .next (withCtx s k (fun c => { c with
    inject := (if (v &&& 7) < 2 then v else v &&& 0x7FFFFFFFFFFFFFF8) &&& 0xBFFFFFFFFFFFFFFF })))

namespace Sys2Proof.Claims
open Sys2Proof.Machine

/-- STATE of `vstat` (R217). -/
def vstatState (s : State) (x : Nat) : Nat :=
  (if s.versioned x then (if (s.team x).ver.st = .early then 2 else 1) else 0) +
  (if s.relaunchable x = true ∧ (s.team x).count < s.relaunchLimit x then 4 else 0) +
  (if (s.pack (s.team x).pack).formed = true ∧ 1 < (s.pack (s.team x).pack).members.length then 8 else 0) +
  2 ^ 4 * s.relaunchLimit x + 2 ^ 7 * (s.team x).count

end Sys2Proof.Claims

/-- `srd` gives the special register that it names: a pair tagged W64 for those of 64 bits, and else one register tagged INT (R361, R362);
it changes nothing else.
`vstat` gives the state of the team's version, the bytes that it holds in whole lines (R311), or the team's rank in its pack (R217); it changes nothing else.
That a handler bundle reads 0 from TEAMIX and TIDX is read by inference (assumption 42). -/
def Obligations.SpecialReads : Prop :=
  (∀ (s : State) (d : BitVec 6) (r : BitVec 12) (v : DWord), s.issues (.srd d r) → (r.toNat, v) ∈ specialTable s ++ trapRegs s →
    ∃ t, exec (.srd d r) s = .next t ∧ UniStep s t (if srWide r then put2 d v .w64 else put d (v.setWidth 32) .int)) ∧
  (∀ (s : State) (d : BitVec 6) (k x : Nat), k < 4 → s.issues (.srd d (BitVec.ofNat 12 (8 + k))) → s.curB.team = some x →
    (s.launch (s.team x).launch).lvmap.length = 4 →
    ∃ t, exec (.srd d (BitVec.ofNat 12 (8 + k))) s = .next t ∧
      UniStep s t (put2 d ((s.launch (s.team x).launch).lvmap.getD k 0) .w64)) ∧
  (∀ (s : State) (d : BitVec 6) (x : Nat), s.curB.team = some x →
      (s.issues (.vstat d 0) → ∃ t, exec (.vstat d 0) s = .next t ∧ UniStep s t (put d (BitVec.ofNat 32 (vstatState s x)) .int)) ∧
      (s.issues (.vstat d 1) → ∃ t, exec (.vstat d 1) s = .next t ∧
        UniStep s t (put2 d (BitVec.ofNat 64 (128 * cellLines (s.team x).ver.cells 0)) .w64)) ∧
      (s.issues (.vstat d 2) → ∃ t, exec (.vstat d 2) s = .next t ∧ UniStep s t (put d (BitVec.ofNat 32
        (if (s.pack (s.team x).pack).formed then (s.team x).rank + 2 ^ 16 * ((s.pack (s.team x).pack).members.length - 1) else 0)) .int)))
namespace Sys2Proof.Claims
open Sys2Proof.Machine

/-! ### Traps and the handler -/

/-- A thread parked by a trap of a word that names no address and no register (R349, R350). -/
def parkedBy (s : State) (c : BitVec 8) (th : Thread) : Thread :=
  { th with st := .parked .trap, frec := ⟨c.setWidth 64, 0, s.cur.trapPc, 0⟩, stale := false, unpark := false, ticket := none }

/-- The event that a trap of the issued set makes (R350, R353). -/
def trapEvent (s : State) (c : BitVec 8) : TrapEvent :=
  ⟨c, false, s.curB.sub, s.curB.slot, s.cur.trapPc, laneSet s.issued, s.curB.team, [], 0, none⟩

/-- The issued set has taken a trap (R349 to R353): its lanes are parked with their fault records at the word's PC, and the handler bundle
of the core, where there is one, has the event last in its queue. -/
structure TrapTaken (s t : State) (c : BitVec 8) : Prop where
  threads : t.curB.threads = s.curB.threads.mapIdx (fun l th => if s.cur.lanes.getLsbD l then parkedBy s c th else th)
  frame : { t.curB with threads := s.curB.threads } = s.curB
  handler : ∀ h, s.handlerBundle s.curB.pid s.curB.core = some h → t.bundle h = { s.bundle h with
    handler := (s.bundle h).handler.map (fun q => { q with queue := q.queue ++ [trapEvent s c] }) }
  others : ∀ b, b ≠ s.cur.bundle → s.handlerBundle s.curB.pid s.curB.core ≠ some b → t.bundle b = s.bundle b
  rest : { t with bundles := s.bundles } = s

/-- A context with a handler, a word that is not a handler bundle's, and an issue that parks no lane but for its word. -/
def handled (s : State) : Prop := s.curCtx.handler = true ∧ s.curB.handler = none ∧ s.issued ≠ [] ∧ s.others = []

end Sys2Proof.Claims

/-- The encoding traps (R47 to R49, R33, R352): a word that a cause of R48 applies to has no effect but to take that trap; the causes stand in
the order RESERVED_FN, MBZ_SET, BAD_REGISTER before the others; a `ulane` of a lane that the bundle lacks takes RESERVED_FN, and a word
that lacks a prefix, or has one that it may not have, takes BAD_PREFIX.
The privileged words (R317, R333): `tlbinv` in its three forms, and `srd` and `swr` of INJECT, take PRIVILEGED in a context that is not
privileged, and change nothing else. -/
def Obligations.EncodingTraps : Prop :=
  (∀ (s : State) (i : Instr) (c : BitVec 8), (wordInfo i).event = false → s.wordTrap i = some c → exec i s = .next (s.trapIssued (TrapInfo.of c))) ∧
  (∀ (s : State) (i : Instr), encDefect i = some .reservedFn → s.wordTrap i = some 0x01) ∧
  (∀ (s : State) (i : Instr), encDefect i = some .mbzSet → s.wordTrap i = some 0x02) ∧
  (∀ (s : State) (i : Instr), encDefect i = some .badRegister → s.wordTrap i = some 0x05) ∧
  (∀ (s : State) (d a n : BitVec 6), encDefect (.ulane d a n) = none → s.curB.w ≤ n.toNat → s.wordTrap (.ulane d a n) = some 0x01) ∧
  (∀ (s : State) (i : Instr), encDefect i = none → s.cur.pfx = none → (wordInfo i).cNeed = true ∨ (wordInfo i).maskNeed = true →
    (wordInfo i).cEven = false → s.wordTrap i = some 0x03) ∧
  (∀ (s : State) (i : Instr), encDefect i = none → s.cur.pfx ≠ none → (wordInfo i).lane = false ∨ (wordInfo i).alone = true →
    (wordInfo i).cEven = false →
    (∀ d a n, i = .ulane d a n → n.toNat < s.curB.w) →
    s.wordTrap i = some 0x03) ∧
  (∀ (s : State) (i : Instr) (a b : BitVec 6), i ∈ [Instr.tlbinvAll, .tlbinvAsid b, .tlbinvVa a b, .srd a 0x080, .swr a 0x080] →
      encDefect i = none → s.cur.pfx = none → s.curCtx.priv = false → exec i s = .next (s.trapIssued (TrapInfo.of 0x07)))

/-- Taking a trap (R349 to R353): the issued set parks with reason TRAP and a fault record that gives the cause and the word's address, and
the event goes to the handler bundle of the core. Nothing else changes.
The program traps complete (R46, R360): `trap n` parks the issued set with SOFTWARE_n, `bkpt` with SOFT_BREAK, and a word that is no
instruction with ILLEGAL_OPCODE. -/
def Obligations.TrapsTaken : Prop :=
  (∀ (s : State) (c : BitVec 8), handled s → c ≠ 0x13 → c ≠ 0x44 → TrapTaken s (s.trapIssued (TrapInfo.of c)) c) ∧
  (∀ (s : State) (n : BitVec 4), s.issues (.trap n) → handled s →
    ∃ t, exec (.trap n) s = .next t ∧ TrapTaken s t (0x70 + n.setWidth 8)) ∧
  (∀ s : State, s.issues .bkpt → handled s → ∃ t, exec .bkpt s = .next t ∧ TrapTaken s t 0x41) ∧
  (∀ s : State, handled s → ∃ t, exec .illegalOpcode s = .next t ∧ TrapTaken s t 0x00)

namespace Sys2Proof.Claims
open Sys2Proof.Machine

/-- A thread that a return from a trap releases (R359): its unpark is staged and it is parked. -/
def releasedThread (th : Thread) : Thread :=
  if th.unpark = true ∧ th.isParked = true then
    { th with st := .ready, unpark := false, fell := false
              skip := th.skip || (!th.stale && decide (th.frec.w0.setWidth 8 = 0x40#8 ∨ th.frec.w0.setWidth 8 = 0x42#8)) }
  else { th with unpark := false }

/-- A bundle that the handler bundle `h` serves: of its part, on its core, and no handler bundle (R352). -/
def serves (s : State) (h b : Nat) : Prop :=
  (s.bundle b).live = true ∧ (s.bundle b).handler = none ∧ (s.bundle b).pid = (s.bundle h).pid ∧ (s.bundle b).core = (s.bundle h).core

end Sys2Proof.Claims

/-- The return from a trap (R359), and the start of an event (R352, R353, R363). `rett` makes every thread of the core with a staged unpark
READY at its PC, with SKIP where a breakpoint or watchpoint had parked it, closes the event, and leaves the handler's threads idle. The
next event opens where none is open: the handler's threads are READY at HENTRY. A `step` whose issues are made gives a STEP event.
That a handler thread which has executed `exit` stays EXITED in both is read by inference (assumption 45). -/
def Obligations.TrapReturn : Prop :=
  (∀ s : State, s.issues .rett → (∀ l ∈ s.issued, (s.curB.thread l).out = []) → s.unshown → s.cur.bundle < s.bundles.length →
    (openEvent s).bind TrapEvent.cmd = none →
    ∃ t, exec .rett s = .next t ∧
      (∀ b, serves s s.cur.bundle b → t.bare.bundle b = { s.bare.bundle b with threads := (s.bare.bundle b).threads.map releasedThread }) ∧
      (∀ b, b ≠ s.cur.bundle → ¬ serves s s.cur.bundle b → t.bare.bundle b = s.bare.bundle b) ∧
      (s.curB.handler ≠ none → t.bare.curB = { s.bare.curB with
        threads := s.bare.curB.threads.map (fun th => if th.st = .exited then th else { th with st := .parked .handler })
        handler := s.curB.handler.map (fun q => { q with current := none }) }) ∧
      { t with bundles := s.bundles } = s) ∧
  (∀ (s : State) (b : Nat) (q : Handler) (e : TrapEvent) (es : List TrapEvent), (s.bundle b).live = true →
    (s.bundle b).handler = some q → q.current = none → q.queue = e :: es → (s.ctx (s.bundle b).asid).hentry ≠ 0 → nothingOut s →
    ∃ t, exec (.handlerEventStart b) s = .next t ∧ SameBut b s.bare t.bare ∧ t.bare.bundle b = { s.bare.bundle b with
      handler := some ⟨some e, es⟩
      threads := (s.bare.bundle b).threads.map (fun th => if th.st = .exited then th
        else { th with pc := (s.ctx (s.bundle b).asid).hentry, fell := false, st := .ready }) }) ∧
  (∀ (s : State) (b h : Nat), (s.bundle b).live = true → (s.bundle b).stepping = true → (s.bundle b).hold = true →
    (s.bundle b).steps = 0 → s.handlerBundle (s.bundle b).pid (s.bundle b).core = some h → h ≠ b →
    ∃ t e, exec (.step b) s = .next t ∧ e.cause = 0x43 ∧ e.sub = (s.bundle b).sub ∧ e.slot = (s.bundle b).slot ∧ e.lanes = 0 ∧
      t.bundle b = { s.bundle b with stepping := false } ∧
      t.bundle h = { s.bundle h with handler := (s.bundle h).handler.map (fun q => { q with queue := q.queue ++ [e] }) } ∧
      (∀ i, i ≠ b → i ≠ h → t.bundle i = s.bundle i) ∧ { t with bundles := s.bundles } = s)

namespace Sys2Proof.Claims
open Sys2Proof.Machine

/-- The item index of a handler word: the register after its target word (R357). -/
def itemIndex (s : State) (a : BitVec 6) : Nat := (s.readS s.cur.bundle (a.toNat + 1)).val.toNat

/-- A 64-bit item, both halves tagged W64. -/
def pairItem (v : DWord) : List Reg := [⟨v.setWidth 32, .w64⟩, ⟨(v >>> 32).setWidth 32, .w64⟩]

/-- The items of a target that are read in every class but the barriers' (R356, R357). -/
def itemTable (s : State) (b l cls idx : Nat) : Option (List Reg) :=
  let th := s.thread b l
  match cls with
  | 0 => if idx < 64 ∧ idx < 8 + th.n then some [⟨(s.readV b l idx).val, (th.tagV idx).moved⟩, ⟨(th.tagV idx).code.setWidth 32, .int⟩] else none
  | 1 => if idx < 64 then some [⟨(s.readS b idx).val, (s.readS b idx).tag.moved⟩, ⟨(s.readS b idx).tag.code.setWidth 32, .int⟩] else none
  | 2 => some (pairItem th.pc)
  | 3 => some [⟨BitVec.ofNat 32 ((match th.st with
      | .ready => 0 | .waiting _ => 1 | .parked .await => 2 | .exited => 3 | .parked .trap => 6 | .parked .handler => 10) +
      (if th.unpark then 16 else 0) + (if th.ticket.isSome then 32 else 0) + if th.skip then 64 else 0), .int⟩]
  | 4 => if idx < 4 then some (pairItem ([th.frec.w0, th.frec.addr, th.frec.pc, th.frec.other].getD idx 0)) else none
  | 5 => if idx < 8 then some (pairItem ((s.bundle b).m.getD idx 0)) else none
  | 8 => if idx < 7 then some (pairItem ([th.marktop, th.fbase, th.flimit,
      BitVec.ofNat 64 (th.n + 2 ^ 6 * th.o + 2 ^ 12 * th.nc + (if th.entered then 2 ^ 18 else 0) + 2 ^ 32 * th.base),
      th.fstat.setWidth 64, BitVec.ofNat 64 (th.counter 0 + 2 ^ 32 * th.counter 1),
      BitVec.ofNat 64 (th.counter 2 + 2 ^ 32 * th.counter 3)].getD idx 0)) else none
  | 9 => some (pairItem (BitVec.ofNat 64 ((if (s.bundle b).hold then 1 else 0) +
      (if (s.bundle b).hold = true ∧ (s.bundle b).steps = 0 then 2 else 0) + 2 ^ 8 * (s.bundle b).steps)))
  | _ => none

end Sys2Proof.Claims

namespace Sys2Proof.Claims
open Sys2Proof.Machine

/-- An edit of a handler word that passes its tag checks, on a lane that waits for no page (R358). -/
structure Edit (s : State) (d a b c : BitVec 6) (x l : Nat) : Prop where
  issues : s.issues (.hlwr d a b c)
  tags : s.uniTrap [⟨a.toNat, 2, .any⟩, ⟨b.toNat, 2, .any⟩] = none
  target : s.target s.cur.bundle (s.u32 a) = some (x, l)
  free : (s.thread x l).ticket = none

/-- A bundle whose uniform register `n` has the value and the tag of an edit. -/
def withUni (x : Bundle) (n : Nat) (v : DWord) : Bundle :=
  { x with s := x.s.set n ⟨v.setWidth 32, Tag.ofCode (v.toNat / 2 ^ 32)⟩ }

/-- The word has answered status `v` after the edited state `m`. -/
def answers (s m t : State) (d a b c : BitVec 6) (v : Word) : Prop :=
  exec (.hlwr d a b c) s = .next t ∧ UniStep m t [(d.toNat, ⟨v, .int⟩)]

end Sys2Proof.Claims

/-- `hlrd` gives the item of the target, with its tag, and zeros tagged RAW where the target or the item is absent (R356, R357); it changes
nothing else.
`hlwr` makes its edit and answers DONE, or changes nothing and answers why (R358): a register or the PC of a PARKED lane, a uniform or
mask register of a HELD bundle, the park or the staged unpark of a thread, FSTAT, and the hold of a bundle. A target that is absent is
NO_TARGET, a lane that is not PARKED is NOT_PARKED, a bundle that is not HELD is NOT_HELD, a lane that waits for a page is PAGEWAIT.
Edits of barthr, DBG and the staged unpark are as in assumptions 41, 43 and 44. -/
def Obligations.HandlerAccess : Prop :=
  (∀ (s : State) (d a c : BitVec 6) (b l : Nat), s.issues (.hlrd d a c) → s.uniTrap [⟨a.toNat, 2, .any⟩] = none →
    s.target s.cur.bundle (s.u32 a) = some (b, l) → c.toNat < 10 → c ≠ 6 → c ≠ 7 →
    (c = 4 → (s.thread b l).stale = false) →
    ∃ t, exec (.hlrd d a c) s = .next t ∧ UniStep s t (fromReg d ((itemTable s b l c.toNat (itemIndex s a)).getD
      (if c = 3 then [⟨0, .raw⟩] else [⟨0, .raw⟩, ⟨0, .raw⟩])))) ∧
  (∀ (s : State) (d a c : BitVec 6), s.issues (.hlrd d a c) → s.uniTrap [⟨a.toNat, 2, .any⟩] = none →
    s.target s.cur.bundle (s.u32 a) = none →
    ∃ t, exec (.hlrd d a c) s = .next t ∧ UniStep s t (fromReg d (if c = 3 then [⟨0, .raw⟩] else [⟨0, .raw⟩, ⟨0, .raw⟩]))) ∧
  (∀ (s : State) (d a b c : BitVec 6) (x l : Nat), Edit s d a b c x l → c = 0 → itemIndex s a < 64 →
    (s.thread x l).inWindow (itemIndex s a) = true → (s.u64 b).toNat / 2 ^ 32 < 10 → (s.bundle x).late = [] →
    ∃ t, if (s.thread x l).isParked then answers s (s.modThread x l (fun th => th.writeV (itemIndex s a)
      ⟨(s.u64 b).setWidth 32, Tag.ofCode ((s.u64 b).toNat / 2 ^ 32)⟩)) t d a b c 0 else answers s s t d a b c 2) ∧
  (∀ (s : State) (d a b c : BitVec 6) (x l : Nat), Edit s d a b c x l → c = 2 → (s.u64 b).toNat % 4 = 0 → (s.u64 b).toNat < 2 ^ 56 →
    ∃ t, if (s.thread x l).isParked then answers s (s.modThread x l (fun th => { th with pc := s.u64 b, fell := false })) t d a b c 0
      else answers s s t d a b c 2) ∧
  (∀ (s : State) (d a b c : BitVec 6) (x l : Nat), Edit s d a b c x l → c = 3 → (s.u64 b).getLsbD 0 = false →
    ∃ t, if (s.thread x l).isParked then answers s (s.modThread x l (fun th => { th with unpark := true })) t d a b c 0
      else answers s s t d a b c 2) ∧
  (∀ (s : State) (d a b c : BitVec 6) (x l : Nat), Edit s d a b c x l → c = 3 → (s.u64 b).getLsbD 0 = true → (s.thread x l).st = .ready →
    ∃ t, answers s (s.modThread x l (fun th => { th with st := .parked .handler })) t d a b c 0) ∧
  (∀ (s : State) (d a b c : BitVec 6) (x l : Nat), Edit s d a b c x l → c = 1 → itemIndex s a < 64 →
    (s.u64 b).toNat / 2 ^ 32 < 10 → (s.bundle x).late = [] →
    ∃ t, if (s.bundle x).hold = true ∧ (s.bundle x).steps = 0 then
      answers s (s.modBundle x (withUni · (itemIndex s a) (s.u64 b))) t d a b c 0
      else answers s s t d a b c 3) ∧
  (∀ (s : State) (d a b c : BitVec 6) (x l : Nat), Edit s d a b c x l → c = 5 → itemIndex s a < 7 →
    ∃ t, if (s.bundle x).hold = true ∧ (s.bundle x).steps = 0 then
      answers s (s.modBundle x (fun y => { y with m := y.m.set (itemIndex s a) (s.u64 b) })) t d a b c 0
      else answers s s t d a b c 3) ∧
  (∀ (s : State) (d a b c : BitVec 6) (x l : Nat), Edit s d a b c x l → c = 8 → itemIndex s a = 4 →
    ∃ t, if (s.thread x l).isParked then answers s (s.modThread x l (fun th => { th with fstat := (s.u64 b).setWidth 6 })) t d a b c 0
      else answers s s t d a b c 2) ∧
  (∀ (s : State) (d a b c : BitVec 6) (x l : Nat), Edit s d a b c x l → c = 9 →
    ∃ t, answers s (s.modBundle x (fun y => { y with hold := (s.u64 b).getLsbD 0, steps := (s.u64 b).toNat / 2 ^ 8 % 2 ^ 8
                                                     stepping := (s.u64 b).getLsbD 0 && decide ((s.u64 b).toNat / 2 ^ 8 % 2 ^ 8 > 0) })) t d a b c 0) ∧
  (∀ (s : State) (d a b c : BitVec 6), s.issues (.hlwr d a b c) → s.uniTrap [⟨a.toNat, 2, .any⟩, ⟨b.toNat, 2, .any⟩] = none →
    (s.target s.cur.bundle (s.u32 a) = none → ∃ t, answers s s t d a b c 1) ∧
    (∀ x l, s.target s.cur.bundle (s.u32 a) = some (x, l) → (s.thread x l).ticket ≠ none → c ∈ [0, 2, 3, 7, 8] →
      ∃ t, answers s s t d a b c 6))

namespace Sys2Proof.Claims
open Sys2Proof.Machine

/-! ### Translation and pages -/

/-- No command that is not DONE pins a page that the request matches (R333). -/
def unpinned (s : State) (r : TlbReq) : Prop := s.tlbPinned r = false

/-- The words that remove translations (R333): their sources, the operands that they have read, and what each removes. -/
def removes (s : State) : Instr → Option (List Use × List DWord × TlbReq)
  | .tlbinvAll => some ([], [], ⟨0, 0, 0⟩)
  | .tlbinvAsid b => some ([⟨b.toNat, 1, .any⟩], [(s.argAsid 0 b).setWidth 64], ⟨1, s.argAsid 0 b, 0⟩)
  | .tlbinvVa a b => some ([⟨a.toNat, 2, .any⟩, ⟨b.toNat, 1, .any⟩], [s.argS 0 a.toNat, (s.argAsid 1 b).setWidth 64],
      ⟨2, s.argAsid 1 b, s.argS 0 a.toNat⟩)
  | _ => none

/-- A window without the lines at addresses that a removal covers, for a team of a context. -/
def uncovered (s : State) (r : TlbReq) (asid : BitVec 16) (w : Window) : Window :=
  { w with lines := w.lines.filter (fun l => !r.covers (s.tlb.filter r.entry) asid (w.base.toNat + 128 * l.num)) }

/-- The removal has been made (R333): no cached translation and no entry of a walk cache matches it, the others are as before, the
instruction caches hold no word of an address that it covers, and no stash line has a frame that it removes. -/
structure Removed (s t : State) (r : TlbReq) : Prop where
  teams : t.teams = s.teams.map (fun x => { x with windows := x.windows.map (uncovered s r x.asid) })
  tlb : t.tlb = s.tlb.filter (fun e => !r.entry e)
  walks : t.walks = s.walks.filter (fun e => !r.walk e)
  icache : ∀ e, e ∈ t.icache ↔ e ∈ s.icache ∧ r.covers (s.tlb.filter r.entry) e.asid e.va.toNat = false

/-- A release fence of the issued set is over at once, and no thread has a store outstanding. -/
def fencedAll (s : State) : Prop := nothingOut s ∧ s.linesClean

/-- Every stash line at an address that the removal covers is CLEAN: no fill and no write-back is under way (R333, step 3). -/
def linesStill (s : State) (r : TlbReq) : Prop :=
  ∀ x ∈ s.teams, ∀ w ∈ x.windows, ∀ l ∈ w.lines, l.st = .clean ∨ r.covers (s.tlb.filter r.entry) x.asid (w.base.toNat + 128 * l.num) = false

/-- Translated code whose source meets an address of the word's context is withdrawn (R41, R369). -/
def withdrawn (s t : State) (meets : Translation → Prop) : Prop :=
  ∀ x, x ∈ t.translations ↔ x ∈ s.translations ∧ ¬ (x.asid = s.curB.asid ∧ meets x)

end Sys2Proof.Claims

/-- `tlbinv` completes (R333): the translations that it names are gone from the caches, with the clean stash lines behind them, and nothing else changes; while a command pins a
page that it matches it waits. This is said where no store is outstanding and every stash line behind a removed translation is CLEAN. TLBREQ does the same for the operating system and sets its DONE bit (R398).
`icinv` completes (R369): after a fence, no instruction cache in its scope holds a word of its line, or of its context where it names
all; the other words stay, the translations of code built from what leaves go with it, and nothing else changes where no bundle runs
one.
That a removal waits for every pinned page is read by inference (assumption 46). -/
def Obligations.Removals : Prop :=
  (∀ (s : State) (i : Instr) (us : List Use) (args : List DWord) (r : TlbReq), s.issues i → removes s i = some (us, args, r) →
    fencedAll s → linesStill s r → s.uniTrap (s.firstUses us) = none → vaValid r.va = true →
    ∃ t, exec i s = .next t ∧
      (unpinned s r → Removed s t r ∧
        UniStep (State.bare { s with tlb := t.tlb, walks := t.walks, icache := t.icache, teams := t.teams }) t.bare []) ∧
      (¬ unpinned s r → LaneStep s.bare t.bare (atWord s i args))) ∧
  (∀ (s : State) (i : Instr) (asid : BitVec 16) (va : DWord) (r : TlbReq),
    (i, r) ∈ [(Instr.tlbreqAll, (⟨0, 0, 0⟩ : TlbReq)), (.tlbreqAsid asid, ⟨1, asid, 0⟩), (.tlbreqVa asid va, ⟨2, asid, va⟩)] →
    nothingOut s → linesStill s r →
    ∃ t, exec i s = .next t ∧
      (unpinned s r → Removed s t r ∧ t.intc = { s.intc with tlbdone := true, tlbreq := none } ∧
        State.bare { t with tlb := s.tlb, walks := s.walks, icache := s.icache, teams := s.teams, intc := s.intc } = s.bare) ∧
      (¬ unpinned s r → t = { s with intc := { s.intc with tlbdone := false, tlbreq := some (r.kind, r.asid, r.va) } })) ∧
  (∀ (s : State) (a : BitVec 6) (x : BitVec 3), s.issues (.icinv a x) → s.uniTrap [⟨a.toNat, 2, .any⟩] = none → fencedAll s →
    s.addrTrap (s.u64 a) = (s, none) → (∀ b ∈ s.bundles, b.transl = none) →
    ∃ t, exec (.icinv a x) s = .next t ∧ UniStep (State.bare { s with icache := t.icache, translations := t.translations }) t.bare [] ∧
      withdrawn s t (fun y => rangesMeet y.code.toNat y.size ((s.u64 a).toNat / 128 * 128) 128 = true) ∧
      ∀ e, e ∈ t.icache ↔ e ∈ s.icache ∧ ¬ (e.asid = s.curB.asid ∧ s.scopeCores s.cur.bundle x.toNat e.place = true ∧
        e.va.toNat / 128 = (s.u64 a).toNat / 128)) ∧
  (∀ (s : State) (x : BitVec 3), s.issues (.icinvAll x) → fencedAll s → (∀ b ∈ s.bundles, b.transl = none) →
    ∃ t, exec (.icinvAll x) s = .next t ∧ UniStep (State.bare { s with icache := t.icache, translations := t.translations }) t.bare [] ∧
      withdrawn s t (fun _ => True) ∧
      ∀ e, e ∈ t.icache ↔ e ∈ s.icache ∧ ¬ (e.asid = s.curB.asid ∧ s.scopeCores s.cur.bundle x.toNat e.place = true))

namespace Sys2Proof.Claims
open Sys2Proof.Machine

/-- The 64 bytes of the entry of a page-fault record (R328). -/
def pageEntry (s : State) (r : PageRec) : List Byte :=
  [1, BitVec.ofNat 8 r.reason] ++ bytesOf 2 r.asid.toNat ++ bytesOf 2 r.access.toNat ++ bytesOf 2 (min (s.attached r.ticket) 65535) ++
    bytesOf 8 r.va.toNat ++ bytesOf 8 r.pc.toNat ++ bytesOf 4 r.ticket ++ List.replicate 36 0

end Sys2Proof.Claims

/-- A page walk that ends in a leaf sets A, and D for a store, writes the leaf back where this changes it, and caches the translation for
the core that walked (R325, R326); a failing walk, or one of a page with an unresumed record, changes nothing (R328). Which core walks is
free (assumption 78).
A page-fault record whose turn it is goes to its ring when there is room, and its system core has an interrupt (R328, R329). A record
that is resumed is gone: with REPLAY every lane that waits for it is READY at its word, and with DELIVER it stays parked and waits for it
no longer (R330, R332); this is said where no record waits for room in the controller.
That a failing walk for which no access waits makes no record, the room of a ring, and that the descriptor of a ring is at a physical
address are read by inference (assumptions 47, 57). -/
def Obligations.PageWalksAndFaults : Prop :=
  (∀ (s : State) (k : BitVec 16) (va : DWord) (store : Bool) (size at_ : Nat) (pte new : DWord), (s.ctx k).destroyed = false →
    vaValid va = true → vaPrivate va = false → s.pageRecOf k va = none →
    (∀ p < 128, ∃ es, s.walkFrom p k va walkLevels (s.ctx k).root.toNat [] = (s, .leaf size at_ pte, es)) →
    unheld s at_ → at_ + 8 ≤ lpddrEnd → s.memOk → new = pte ||| 0x40 ||| (if store then 0x80 else 0) →
    ∃ t p, p < 128 ∧ exec (.pageWalkComplete k va store) s = .next t ∧
      t.tlbFind p k va = some ⟨p, k, va.toNat / 2 ^ size, size, ptePa pte, new⟩ ∧
      (new ≠ pte → storedAt s t at_ (bytesOf 8 new.toNat)) ∧ (new = pte → t.mem = s.mem) ∧
      { t with tlb := s.tlb, walks := s.walks, mem := s.mem, badmem := s.badmem } = s) ∧
  (∀ (s : State) (k : BitVec 16) (va : DWord) (store : Bool) (r : Nat),
    s.pageRecOf k va ≠ none ∨ (∀ p < 128, ∃ es, s.walkFrom p k va walkLevels (s.ctx k).root.toNat [] = (s, .fail r, es)) →
    exec (.pageWalkComplete k va store) s = .next s) ∧
  (∀ (s m : State) (t : BitVec 32) (r : PageRec), t ≠ 0 → s.intc.records.find? (fun x => x.ticket == t.toNat) = some r →
    RingEntry.page r.asid t.toNat ∈ s.intc.waiting →
    (∀ e ∈ s.intc.waiting, ∀ k, e = .page k t.toNat → k = r.asid) →
    s.intc.isNext (.page r.asid t.toNat) = true → s.intc.ringdesc.getD r.ring 0 ≠ 0 →
    s.ringAppend (paOffset (s.intc.ringdesc.getD r.ring 0).toNat) 64 (pageEntry s r) false = (m, true) → m.intc = s.intc →
    ∃ u, exec (.pageFaultRecordPost t) s = .next u ∧ u = { m with intc := { s.intc with
      irqs := s.intc.irqs ++ [r.ring]
      waiting := s.intc.waiting.erase (.page r.asid t.toNat)
      records := s.intc.records.map (fun x => if x.ticket = t.toNat then { x with posted := true } else x) } }) ∧
  (∀ (s : State) (ring : Nat) (t : BitVec 32) (r : PageRec),
    s.intc.records.find? (fun x => x.ticket == t.toNat && x.ring == ring && x.posted) = some r → s.intc.records.length ≤ 4096 →
    exec (.resumeReplay ring t) s = .next { s with
      intc := { s.intc with records := s.intc.records.erase r }
      bundles := s.bundles.map (fun b => { b with threads := b.threads.map (fun th =>
        if th.ticket = some t.toNat then { th with st := .ready, ticket := none, fell := false } else th) }) }) ∧
  (∀ (s : State) (ring : Nat) (t : BitVec 32) (r : PageRec),
    s.intc.records.find? (fun x => x.ticket == t.toNat && x.ring == ring && x.posted) = some r → s.intc.records.length ≤ 4096 →
    (∀ b l, (s.thread b l).ticket = some t.toNat → (s.bundle b).live = true ∧ (s.bundle b).handler = none ∧
      (s.ctx (s.bundle b).asid).handler = true) →
    ∃ u, exec (.resumeDeliver ring t) s = .next u ∧ { u with bundles := s.bundles } = { s with
        intc := { s.intc with records := s.intc.records.erase r } } ∧
      (∀ b, (u.bundle b).threads = (s.bundle b).threads.map (fun th =>
        if th.ticket = some t.toNat then { th with ticket := none } else th)) ∧
      ∀ b l h, l < 64 → (s.thread b l).ticket = some t.toNat → s.handlerBundle (s.bundle b).pid (s.bundle b).core = some h →
        ∃ q, (u.bundle h).handler = some q ∧ ∃ e ∈ q.queue, e.cause = 0x13 ∧ e.sub = (s.bundle b).sub ∧ e.slot = (s.bundle b).slot ∧
          e.pc = (s.thread b l).frec.pc ∧ e.lanes.getLsbD l = true)
namespace Sys2Proof.Claims
open Sys2Proof.Machine

/-! ### Launches and teams -/

/-- Shepherd has no packet to look at, or does not work. -/
def noPackets (s : State) : Prop := s.queues = [] ∨ s.shepherding = false

end Sys2Proof.Claims

/-- `nlaunch` completes (R197): after a release fence it reads its launch record, and the launch is the newest: it waits for nothing, is one
level deeper than its parent's launch and belongs to the parent team; the issued set goes on. At a depth of 10 it traps with LAUNCH_DEPTH.
`sigw` takes 1 from its signal at home, and nothing else changes (R386).
That the launch is READY at once is read by inference (assumption 48). -/
def Obligations.LaunchWords : Prop :=
  (∀ (s u : State) (a : BitVec 6) (bs : List Byte), s.issues (.nlaunch a) → s.uniTrap [⟨a.toNat, 2, .any⟩] = none →
    (s.u64 a).toNat % 64 = 0 → fencedAll s → u.bare = s.bare →
    (s.fenceNow s.cur.bundle s.issued true).readBlock .read (s.u64 a) 8 = (u, .ok bs) →
    ((s.teamLaunch s.curTeam).depth < 10 → s.host.journal = 0 →
      ∃ t l, exec (.nlaunch a) s = .next t ∧ t.launches = s.launches ++ [l] ∧
        l.asid = s.curB.asid ∧ l.st = .ready ∧ l.depth = (s.teamLaunch s.curTeam).depth + 1 ∧ l.parent = some s.curTeam ∧
        l.packet = none ∧ l.affinity = (s.teamLaunch s.curTeam).affinity ∧ l.lrec.addr = s.u64 a ∧
        l.lrec.code = BitVec.ofNat 64 (field bs 0 8) ∧ l.lrec.args = BitVec.ofNat 64 (field bs 24 8) ∧
        l.lrec.signal = BitVec.ofNat 64 (field bs 40 8) ∧ l.lrec.crec = BitVec.ofNat 64 (field bs 48 8) ∧
        t.shep = { s.shep with seq := s.shep.seq + 1 } ∧ 
        UniStep (State.bare { s with launches := t.launches, shep := t.shep }) t.bare []) ∧
    (10 ≤ (s.teamLaunch s.curTeam).depth → handled s → ∃ t, exec (.nlaunch a) s = .next t ∧ TrapTaken s.bare t.bare 0x7E)) ∧
  (∀ (s : State) (a : BitVec 6) (off : Nat) (ver : Option Nat) (dev : Bool), s.issues (.sigw a) →
    s.uniTrap (s.firstUses [⟨a.toNat, 2, .any⟩]) = none →
    s.locateAs s.cur.bundle s.leader (s.argS 0 a.toNat) 8 0 true .atomic = (s, .mem off ver dev) → fencedAll s → unheld s off →
    s.touched ((s.spot s.cur.bundle s.cur.lanes 0 false off 8 none).signal (s.curB.acquired s.cur.lanes 0)) true = [] → off + 8 ≤ lpddrEnd → s.curCtx.inject.getLsbD 63 = false →
    s.memOk → noPackets s →
    ∃ t, exec (.sigw a) s = .next t ∧
      storedAt s t off (bytesOf 8 ((ofBytes (s.mem.readBytes off 8) + 2 ^ 64 - 1) % 2 ^ 64)) ∧
      UniStep (s.withMem t).bare t.bare [])

namespace Sys2Proof.Claims
open Sys2Proof.Machine

/-- A bundle of a new team (R87, R178): at its place, with fresh registers and its threads READY at the entry of the code. -/
structure NewBundle (l : Launch) (team i : Nat) (q : Place) (b : Bundle) : Prop where
  owner : b.live = true ∧ b.resident = true ∧ b.team = some team ∧ b.asid = l.asid ∧ b.handler = none
  place : b.core = q.core ∧ b.sub = q.sub ∧ b.slot = q.slot
  shape : b.w = l.code.width ∧ b.p = l.regs ∧ b.bidx = i ∧ b.threads.length = l.bundleLanes
  regs : b.s = List.replicate 64 Reg.fresh ∧ b.m = List.replicate 7 0 ++ [BitVec.allOnes 64] ∧ b.flags = 0 ∧ b.late = []
  threads : ∀ th ∈ b.threads, th.st = .ready ∧ th.pc = l.lrec.code + l.code.entry ∧ th.entered = true ∧ th.n = min 56 (l.regs - 8) ∧
    th.sp = th.fp ∧ (th.keyGet 0).val = l.lrec.args.setWidth 32 ∧ (th.keyGet 2).val = l.lrec.arg16.setWidth 32

/-- A team has ended by a kill (R209): its bundles, those that had retired before among them, are no longer the team's and have retired with every thread EXITED and no
store outstanding but its direct ones, its copies that are not done are cancelled and its other commands run on without it, its windows, barriers and monitors are gone and its
version is discarded. -/
structure TornDown (s t : State) (x : Nat) : Prop where
  mine : ∀ b, (s.bundle b).team = some x →
    (t.bundle b).live = false ∧ (t.bundle b).team = none ∧ (t.bundle b).was = some x ∧ (t.bundle b).late = [] ∧ (∀ th ∈ (t.bundle b).threads, th.st = .exited) ∧
    (t.bundle b).threads.map (fun th => th.out) = (s.bundle b).threads.map (fun th => th.out.filter (fun p => match p with
      | .store y => y.ver.isNone
      | .fence _ => false))
  others : ∀ b, (s.bundle b).team ≠ some x → t.bundle b = s.bundle b
  cmds : t.cmds = s.cmds.map (fun c => if c.team = x ∧ c.st ≠ .done then
    (match c.spec with
      | .copy _ => { c with st := .cancelled }
      | _ => { c with orphan := true }) else c)
  team : (t.team x).windows = [] ∧ (t.team x).bars = [] ∧ (t.team x).mons = [] ∧ (t.team x).ver.cells = []
  kept : ∀ y, y ≠ x → t.team y = s.team y
  rest : { t with bundles := s.bundles, cmds := s.cmds, grow := s.grow, teams := s.teams, packs := s.packs, launches := s.launches
                  intc := s.intc } = s

/-- One containment record more waits for its ring (R316), with its cause and outcome. -/
def recorded (s t : State) (asid : BitVec 16) (cause outcome : BitVec 8) : Prop :=
  { t.intc with waiting := s.intc.waiting } = s.intc ∧
    ∃ bs, t.intc.waiting = s.intc.waiting ++ [.containment asid (s.intc.ringOf asid) (cause :: outcome :: bs)]

/-- Another team of the launch goes on. -/
def otherGoesOn (s : State) (x : Nat) : Prop :=
  ∃ y, y ≠ x ∧ y < s.teams.length ∧ (s.team y).launch = (s.team x).launch ∧ (s.team y).ended = false

end Sys2Proof.Claims

/-- Teams begin and end. A pack that fits is placed, unless a launch before it can place one: every one of its teams RUNS, with new bundles
at their places, and no other bundle changes (R208, R213, R389). A COMMITTING team's version is published into memory and it is RETIRED
(R208, R312). A containment event kills a team: it is RELAUNCHING where its kernel, its pack and its count allow this, and else FAILED, with
a record (R208 to R211, R316). The last is said of a pack of one team without children and without a graft under way, and publication of
a version whose lines no stash holds, with no store outstanding.
The places, and that loading takes no time, are the model's choice (assumptions 48, 49). -/
def Obligations.TeamsBeginAndEnd : Prop :=
  (∀ (s : State) (p o : Nat) (plans : List TeamPlan), s.planPack p o = some plans →
    (∀ n ∈ s.placeOrder.takeWhile (fun n => n != (s.pack p).launch), s.placeFor n = none) → (s.pack p).members.Nodup →
    ∃ t, exec (.teamPlaced p o) s = .next t ∧ (t.pack p).origin = some o ∧ (∀ b < s.bundles.length, t.bundle b = s.bundle b) ∧
      ∀ x ∈ plans, (t.team x.team).st = .running ∧ (t.team x.team).part = x.part ∧ (t.team x.team).block = x.block ∧
        ∀ i q, x.bundles[i]? = some q → ∃ b, s.bundles.length ≤ b ∧
          NewBundle (s.launch (s.team x.team).launch) x.team i q (t.bundle b)) ∧
  (∀ (s : State) (x : Nat), (s.team x).st = .committing → (s.team x).windows = [] → s.memOk → otherGoesOn s x →
    nothingOut s → (∀ c ∈ (s.team x).ver.cells, unheld s c.1) →
    ((s.team x).ver.cells.map (·.1)).Pairwise (· < ·) → (∀ c ∈ (s.team x).ver.cells, c.1 < lpddrEnd) →
    ∃ t, exec (.teamPublish x) s = .next t ∧ (∀ a, t.mem.read a = (cellAt (s.team x).ver.cells a).getD (s.mem.read a)) ∧
      t.team x = { s.team x with
        st := .retired, slot := none, windows := [], bars := [], mons := []
        ver := ⟨if (s.team x).ver.st = .none then .none else .published, [], false⟩ } ∧
      (∀ y, y ≠ x → t.team y = s.team y) ∧ State.bare { t with mem := s.mem, badmem := s.badmem, teams := s.teams } = s.bare) ∧
  (∀ (s : State) (x : Nat) (cause : BitVec 8) (again : Prop), (s.team x).st.killable = true → s.packTeams x = [x] →
    (∀ n, (s.launch n).parent ≠ some x) → otherGoesOn s x →
    (∀ b l, (s.bundle b).team = some x → (s.thread b l).graftHome = none) →
    (again ↔ s.restartable x = true ∧ (s.pack (s.team x).pack).early = false) →
    ∃ t, exec (.teamKill x cause) s = .next t ∧ TornDown s t x ∧
      (again ∧ (s.team x).count < s.relaunchLimit x → (t.team x).st = .relaunching ∧ (t.team x).count = (s.team x).count + 1 ∧
        (t.pack (s.team x).pack).origin = none ∧ recorded s t (s.team x).asid cause 0) ∧
      (again ∧ s.relaunchLimit x ≤ (s.team x).count → (t.team x).st = .failed ∧ (t.team x).slot = none ∧
        recorded s t (s.team x).asid 0x63 1) ∧
      (¬ again → (t.team x).st = .failed ∧ (t.team x).slot = none ∧ recorded s t (s.team x).asid cause 1))

namespace Sys2Proof.Claims
open Sys2Proof.Machine

/-! ### Parts and contexts -/

/-- Only part `x` has changed, into `p`. -/
def partNow (s t : State) (x : Nat) (p : Part) : Prop := t.parts = s.parts.set x p ∧ { t with parts := s.parts } = s

/-- No thread of a part is READY (R340). -/
def stopped (s : State) (x : Nat) : Prop :=
  ∀ b, (s.bundle b).live = true → (s.bundle b).pid = x → ∀ th ∈ (s.bundle b).threads, th.st ≠ .ready

/-- A part alone may change its state for a context: no pack ties it to another part (R337). -/
def alone (s : State) (k : BitVec 16) (x : Nat) : Prop := (s.partOf x).asid = k ∧ s.linked x = [x]

/-- A bundle is on a part. -/
def onPart (s : State) (x b : Nat) : Prop := (s.bundle b).live = true ∧ (s.bundle b).pid = x

/-- Nothing of a part is under way but commands: every issued access is performed, no thread yields, no graft counts, no stash line is
held, and no bundle of the part is shown a store of another thread. -/
def atRest (s : State) (x : Nat) : Prop :=
  (∀ b, onPart s x b → ∀ th ∈ (s.bundle b).threads, th.out = [] ∧ ∀ h, th.st ≠ .waiting (.yield h)) ∧
  (∀ b, onPart s x b → ∀ th ∈ (s.bundle b).threads, ∀ n i a h, th.st ≠ .waiting (.word n i a (some h))) ∧
  (∀ b, onPart s x b → ∀ c l, ∀ y ∈ (s.thread c l).stores, s.shows b c y = false) ∧
  ∀ y ∈ s.partTeams x, ∀ w ∈ (s.team y).windows, w.lines = []

/-- A thread whose waiting word a save abandons (R85, R341): its PC stays on the word. -/
def leftOff (th : Thread) : Thread := if th.isWaiting then { th with st := .ready, fell := false } else th

/-- No pack of several teams has one of its teams on a part. -/
def unpacked (s : State) (x : Nat) : Prop :=
  ∀ k ∈ s.packs, k.formed = true → ∀ y ∈ k.members, ¬ ((s.team y).holds = true ∧ (s.team y).pid = x)

/-- A counter of the engines of a core is of a core of a partition of this package (R249). -/
def ofPlace (p e : Nat) : Bool := e < 32768 && e % 16384 / 16 == p

/-- A command is a copy that is not over. -/
def openCopy (c : Cmd) : Prop := (∃ x, c.spec = .copy x) ∧ (c.st = .queued ∨ c.st = .running)

end Sys2Proof.Claims

/-- The whistle and the save (R337 to R341), of a part that no pack ties to another. Raising makes the part WHISTLED with LEFT at the
deadline, or YIELDED at once where it is quiet; LEFT of 0 makes it FORCED. A save that has space abandons waiting words with their PCs on
them, suspends copies, takes the bundles off the cores and the counters and stamp slots of the part's engines along, and puts the image in the empty kennel that it fits; without space the part stays
as it is, and waits. These saves are of a part that has no access, no yield and no stash line under way.
What a save keeps, and where it goes, is read by inference (assumptions 52, 53). -/
def Obligations.WhistleAndSave : Prop :=
  (∀ (s : State) (k : BitVec 16) (x : Nat), alone s k x → (s.partOf x).st = .resident → s.saveSpace k [x] = true →
    ∃ t, exec (.whistleRaise k x) s = .next t ∧
      (stopped s x → partNow s t x { s.partOf x with st := .yielded, raised := true, left := (s.ctx k).deadline }) ∧
      (¬ stopped s x → partNow s t x { s.partOf x with st := .whistled, raised := true, left := (s.ctx k).deadline })) ∧
  (∀ (s : State) (k : BitVec 16) (x : Nat), alone s k x → (s.partOf x).st = .whistled → (s.partOf x).left = 0 →
    ∃ t, exec (.whistleDeadline k x) s = .next t ∧ partNow s t x { s.partOf x with st := .forced }) ∧
  (∀ (s : State) (k : BitVec 16) (x : Nat), alone s k x → (s.partOf x).st = .yielded ∨ (s.partOf x).st = .forced →
    s.saveReady x = true →
    atRest s x →
    (s.kennelFree (s.partOf x).part = true → s.fitsKennel x = true →
      ∃ t, exec (.contextSaveDone k x) s = .next t ∧
        t.parts = s.parts.set x { s.partOf x with
          st := .kennelled, kennel := some (s.partOf x).part, idle := none
          seqs := (s.ctx k).seqs.filter (fun e => ofPlace (s.partOf x).part e.1)
          stamps := s.stamps.filter (fun y => y.onPart k (s.partOf x).part) } ∧
        t.stamps = s.stamps.filter (fun y => !y.onPart k (s.partOf x).part) ∧
        (∀ b, onPart s x b → t.bare.bundle b = { s.bare.bundle b with
          resident := false, posting := none, threads := (s.bare.bundle b).threads.map leftOff }) ∧
        (∀ b, ¬ onPart s x b → t.bare.bundle b = s.bare.bundle b) ∧
        (∀ i c, s.cmd? i = some c → (onPart s x c.bundle ∧ openCopy c → t.cmd? i = some { c with st := .suspended }) ∧
          (¬ (onPart s x c.bundle ∧ openCopy c) → t.cmd? i = some c)) ∧
        { t with parts := s.parts, bundles := s.bundles, cmds := s.cmds, grow := s.grow, stamps := s.stamps } = s) ∧
    (¬ (s.kennelFree (s.partOf x).part = true ∧ s.fitsKennel x = true) → s.freeImages k = [] →
      ∃ t, exec (.contextSaveDone k x) s = .next t ∧ t.parts = s.parts ∧ { t with bundles := s.bundles, grow := s.grow } = s ∧
        (∀ b, onPart s x b → t.bare.bundle b = { s.bare.bundle b with
          posting := none, threads := (s.bare.bundle b).threads.map leftOff }) ∧
        ∀ b, ¬ onPart s x b → t.bare.bundle b = s.bare.bundle b))

/-- Saved parts (R337, R342, R346), where no pack ties the part to another. An image in a kennel goes to the lowest free save-area image that
no save on its way relies on; a stored image goes to an empty kennel of a partition on which the part may resume; a saved part resumes on a granted and free partition; and
once restored it is RESIDENT there: its bundles are back with their state, and its suspended copies are queued.
Which image, kennel and places are taken is the model's choice (assumptions 52, 53). -/
def Obligations.SavedParts : Prop :=
  (∀ (s m : State) (k : BitVec 16) (x i : Nat), alone s k x → (s.partOf x).st = .kennelled → 1 ≤ s.imagesLeft k [x] →
    (s.freeImages k).head? = some i →
    s.saveBytes k ((s.ctx k).savebase + BitVec.ofNat 64 (i * 2 ^ 25)) (s.imageBytes x) = (m, none) →
    ∃ t, exec (.kennelEvict k x) s = .next t ∧ partNow m t x { s.partOf x with st := .stored, kennel := none, image := some i }) ∧
  (∀ (s : State) (k : BitVec 16) (x p : Nat), alone s k x → unpacked s x → (s.partOf x).st = .stored → p < 8 → s.kennelFree p = true →
    s.partMayUse x p = true → s.fitsKennel x = true → (∀ y ∈ s.parts, y.part = p → y.st.saving = false) →
    ∃ t, exec (.kennelStage k x p) s = .next t ∧ partNow s t x { s.partOf x with st := .kennelled, kennel := some p, image := none }) ∧
  (∀ (s : State) (k : BitVec 16) (x p : Nat), alone s k x → unpacked s x → s.carrying = true → p < 8 → s.mayResume x p = true →
    ∃ t, exec (.contextResume k x p) s = .next t ∧ partNow s t x { s.partOf x with st := .resuming, part := p }) ∧
  (∀ (s : State) (k : BitVec 16) (x : Nat), alone s k x → (s.partOf x).st = .resuming →
    ∃ t, exec (.restoreDone k x []) s = .next t ∧
      t.parts = s.parts.set x { s.partOf x with st := .resident, raised := false, left := 0, kennel := none, image := none, seqs := [], stamps := [] } ∧
      (∀ b, onPart s x b → t.bundle b = { s.bundle b with resident := true, part := (s.partOf x).part }) ∧
      (∀ b, ¬ onPart s x b → t.bundle b = s.bundle b) ∧
      (∀ i c, s.cmd? i = some c → (onPart s x c.bundle ∧ c.st = .suspended → t.cmd? i = some { c with st := .queued }) ∧
        (¬ (onPart s x c.bundle ∧ c.st = .suspended) → t.cmd? i = some c)) ∧
      (∀ y ∈ s.partTeams x, (t.team y).part = (s.partOf x).part) ∧
      { t with parts := s.parts, bundles := s.bundles, cmds := s.cmds, teams := s.teams, packs := s.packs, ctxs := s.ctxs, stamps := s.stamps } = s)

namespace Sys2Proof.Claims
open Sys2Proof.Machine

/-! ### Queues -/

/-- The local offset that a cached translation gives an address. -/
def homeOff (s : State) (k : BitVec 16) (va : DWord) : Nat :=
  match s.tlbFind packagePlace k va with
  | some e => paOffset (e.frame + va.toNat % 2 ^ e.size)
  | none => 0

/-- An aligned word of 8 bytes that the context can read and write at home: its translation is cached, and no stash line holds it. -/
structure HomeWord (s : State) (k : BitVec 16) (va : DWord) : Prop where
  valid : vaValid va = true ∧ vaPrivate va = false
  cached : ∃ e, s.tlbFind packagePlace k va = some e ∧ e.place = packagePlace ∧ e.leaf &&& 0x8C = 0x8C ∧ s.isLocal (e.frame + va.toNat % 2 ^ e.size) = true
  inside : homeOff s k va % 8 = 0 ∧ homeOff s k va + 8 ≤ lpddrEnd
  home : unheld s (homeOff s k va)

/-- The value of an aligned word of 8 bytes at home. -/
def wordAt (s : State) (k : BitVec 16) (va : DWord) : Nat := ofBytes (s.mem.readBytes (homeOff s k va) 8)

/-- A signal is satisfied (R385): its value, read as signed, is 0 or below. -/
def satisfied (s : State) (k : BitVec 16) (va : DWord) : Prop := (BitVec.ofNat 64 (wordAt s k va)).toInt ≤ 0

/-- Shepherd has nothing to do for the accepted packets: all have ended, no queue drains, no journal is kept, and no uncorrectable error lies
in memory. -/
structure Idle (s : State) : Prop where
  works : s.shepherding = true
  quiet : ∀ q ∈ s.queues, q.st ≠ .draining ∧ ∀ p ∈ q.packets, p.ended = true
  journal : s.host.journal = 0
  sound : s.badmem = []

/-- The next slot of a queue is written (R379): its 64 bytes are the number `v`, of a type, with its reserved bits zero; its acceptance does
not publish READ (R382), and the indices of the queue's packets are below it. -/
structure Written (s : State) (qid : Nat) (q : Queue) (v type : Nat) : Prop where
  queue : s.queue? qid = some q
  slot : s.nextSlot q = (s, some v)
  header : v % 256 = type ∧ bitsAt v 10 22 = 0 ∧ bitsAt v 8 1 = 0
  unpublished : (q.r + 1) % q.pubn ≠ 0
  earlier : ∀ p ∈ q.packets, p.index < q.r

/-- The queue has accepted one packet more (R382, R384). -/
def accepted (t : State) (qid : Nat) (q : Queue) (v : Nat) (kind : PacketKind) (ended : Bool) : Prop :=
  t.queue? qid = some { q with r := q.r + 1, packets := q.packets ++ [⟨q.r, kind, bitsAt v 9 1 == 1, 0, true, ended⟩] }

/-- A number of 8 bytes at an offset of a packet. -/
def part8 (v o : Nat) : DWord := BitVec.ofNat 64 (v / 2 ^ (8 * o))

/-- Queues and Shepherd's count have changed at most. -/
def onlyQueues (s t : State) : Prop := { t with queues := s.queues, shep := s.shep } = s

/-- The dependences that are not satisfied yet. -/
def waitsFor (s : State) (k : BitVec 16) (deps rest : List DWord) : Prop :=
  rest.Sublist deps ∧ ∀ d ∈ deps, d ∈ rest ↔ ¬ satisfied s k d

/-- A barrier packet is over (R384): no dependence is named, every one is satisfied, or one is where one is enough. -/
def barrierOver (any : Bool) (deps rest : List DWord) : Prop :=
  deps = [] ∨ (any = false ∧ rest = []) ∨ (any = true ∧ rest.length < deps.length)

end Sys2Proof.Claims

/-- Packets are accepted (R379, R380, R384), where every earlier packet has ended: a LAUNCH's launch is the newest, READY, with its record,
the queue's priority and affinity; a misaligned record fences the queue (R387); a SIGNAL adds or stores its value and ends; a NOP ends.
That the launch is READY at once, and that the control block is at a physical address, are read by inference (assumptions 48, 57). -/
def Obligations.WorkPackets : Prop :=
  (∀ (s : State) (qid v r : Nat) (q : Queue), Idle s → Written s qid q v 1 → v / 2 ^ 128 = 0 →
    ((part8 v 8).toNat % 64 = 0 → s.queueRead q.asid (part8 v 8) = (s, some r) → paOffset q.qcb.toNat + 49 ≤ lpddrEnd → unheld s (paOffset q.qcb.toNat + 48) →
      ∃ t l, exec (.launch qid) s = .next t ∧ accepted t qid q v (.launch s.launches.length) false ∧
        t.launches = s.launches ++ [l] ∧ l.st = .ready ∧ l.asid = q.asid ∧ l.depth = 1 ∧ l.parent = none ∧
        l.packet = some (qid, q.r) ∧ l.prio = q.prio ∧ l.affinity = s.mem.read (paOffset q.qcb.toNat + 48) ∧
        l.lrec.addr = part8 v 8 ∧ l.lrec.code = part8 r 0 ∧ l.lrec.args = part8 r 24 ∧
        onlyQueues s { t with launches := s.launches }) ∧
    ((part8 v 8).toNat % 64 ≠ 0 →
      ∃ t, exec (.launch qid) s = .next t ∧ t.queue? qid = some { q with st := .fenced, reason := 2, kick := false } ∧
        t.intc.irqs = s.intc.irqs ++ [0])) ∧
  (∀ (s : State) (qid v : Nat) (q : Queue), Idle s → Written s qid q v 4 → v / 2 ^ 200 = 0 → (part8 v 24).toNat < 2 →
    HomeWord s q.asid (part8 v 8) → s.memOk → (part8 v 8).toNat % 8 = 0 →
    ∃ t, exec (.signal qid) s = .next t ∧
      accepted t qid q v (.signal (part8 v 8) (part8 v 16) (decide ((part8 v 24).toNat = 1))) true ∧
      storedAt s t (homeOff s q.asid (part8 v 8)) (bytesOf 8 (if (part8 v 24).toNat = 1 then (part8 v 16).toNat
        else (wordAt s q.asid (part8 v 8) + (part8 v 16).toNat) % 2 ^ 64)) ∧ onlyQueues s { t with mem := s.mem }) ∧
  (∀ (s : State) (qid v : Nat) (q : Queue), Idle s → Written s qid q v 5 → v / 2 ^ 64 = 0 →
    ∃ t, exec (.nopPacket qid) s = .next t ∧ accepted t qid q v .nop true ∧ onlyQueues s t)

/-- Barrier packets (R384, R385), here without DONESIG: one waits for the named dependences that are not satisfied, and ends once all are,
or for BARRIER_OR once one is; a rescan looks at them again. A store to a doorbell sets the queue's kick bit
(R383); Shepherd serves the set bit that comes first by priority and then by QID: it clears the bit, and accepts slots until one is not
written. -/
def Obligations.BarriersAndDoorbells : Prop :=
  (∀ (s : State) (i : Instr) (qid v : Nat) (q : Queue) (any : Bool) (deps : List DWord),
    i = (if any then .barrierOr qid else .barrierAnd qid) → Idle s → Written s qid q v (if any then 3 else 2) →
    deps = ([16, 24, 32, 40, 48].map (part8 v)).filter (fun d => d != 0) → v / 2 ^ 448 = 0 → part8 v 8 = 0 →
    (∀ d ∈ deps, HomeWord s q.asid d ∧ d.toNat % 8 = 0) →
    ∃ t rest ended, exec i s = .next t ∧ accepted t qid q v (.barrier any rest) ended ∧ waitsFor s q.asid deps rest ∧
      (ended = true ↔ barrierOver any deps rest) ∧ onlyQueues s t) ∧
  (∀ (s : State) (q : Queue) (p : Packet) (any : Bool) (deps : List DWord), s.shepherding = true → s.host.journal = 0 →
    s.queues = [q] → q.st = .active → q.packets = [p] → p.ended = false → p.kind = .barrier any deps → p.done = 0 →
    s.badmem = [] → (∀ d ∈ deps, HomeWord s q.asid d) →
    ∃ t rest ended, exec .signalRescan s = .next t ∧ waitsFor s q.asid deps rest ∧ (ended = true ↔ barrierOver any deps rest) ∧
      t.queues = [{ q with packets := [{ p with started := true, kind := .barrier any rest, ended := ended }] }] ∧ onlyQueues s t) ∧
  (∀ (s : State) (qid : Nat), Idle s → ∃ t, exec (.doorbell qid) s = .next t ∧ onlyQueues s t ∧
    t.queues = s.queues.map (fun q => if q.qid = qid ∧ q.st ≠ .destroyed then { q with kick := true } else q)) ∧
  (∀ (s t : State) (qid : Nat) (q : Queue), s.shepherding = true → s.queue? qid = some q → q.kick = true →
    (∀ x ∈ s.queues, x.kick = true → x.st ≠ .destroyed → x.prio < q.prio ∨ (x.prio = q.prio ∧ q.qid ≤ x.qid)) →
    t = { s with queues := s.queues.map (fun x => if x.qid = qid ∧ x.st ≠ .destroyed then { x with kick := false } else x) } →
    t.nextSlot { q with kick := false } = (t, none) → exec (.kickService qid) s = .next t)

namespace Sys2Proof.Claims
open Sys2Proof.Machine

/-! ### The management ring -/

/-- Memory after stores in turn: each puts bytes at an address and up. -/
def stores : List (Nat × List Byte) → (Nat → Byte) → Nat → Byte
  | [], f => f
  | (a, bs) :: ws, f => stores ws (fun x => if a ≤ x ∧ x < a + bs.length then bs.getD (x - a) 0 else f x)

/-- The descriptor of the management ring. -/
def mgmtRing (s : State) : Nat := paOffset s.host.mgmtring.toNat

/-- The store that takes an entry off the ring. -/
def takenOff (s : State) (e : MgmtEntry) : Nat × List Byte := (mgmtRing s + 24, bytesOf 8 ((e.index + 1) % 2 ^ 64))

/-- The command `op` is at the head of the management ring (R391), with the flags it may have and no signal to decrement; Shepherd has no
other work, and no stash line holds the ring. -/
structure Command (s : State) (e : MgmtEntry) (op flags : Nat) : Prop where
  idle : Idle s
  head : s.mgmtHead = (s, some e)
  entry : fieldAt e.v 0 1 = op ∧ fieldAt e.v 1 1 = flags ∧ fieldAt e.v 24 8 = 0
  ring : mgmtRing s % 8 = 0 ∧ mgmtRing s + 32 ≤ lpddrEnd ∧ unheld s (mgmtRing s + 24)
  place : e.addr % 64 = 0 ∧ e.addr + 64 ≤ lpddrEnd ∧ unheld s e.addr
  mem : s.memOk

/-- The command is done (R391): it is off the ring, memory has the stores `ws` and then its RESULT. -/
def answered (s t : State) (e : MgmtEntry) (ws : List (Nat × List Byte)) (r : Byte) : Prop :=
  t.mem.read = stores ([takenOff s e] ++ ws ++ [(e.addr + 2, [r])]) s.mem.read

/-- Only memory and Shepherd's count of journal entries have changed. -/
def onlyCount (s t : State) : Prop := t.shep = { s.shep with seq := t.shep.seq } ∧ { t with mem := s.mem, shep := s.shep } = s

/-- A block of 64 bytes of main memory, at a multiple of 64, that no stash line holds. -/
def block64 (s : State) (pa : Nat) : Prop := pa % 64 = 0 ∧ pa + 64 ≤ lpddrEnd ∧ unheld s pa

/-- The number of the 64 bytes at an address, once the command is off the ring. -/
def recordAt (s : State) (e : MgmtEntry) (pa : Nat) : Nat :=
  ofBytes ((List.range 64).map (fun i => stores [takenOff s e] s.mem.read (pa + i)))

/-- Add up a counter of a context's parts on a partition. -/
def counted (s : State) (k : BitVec 16) (f : Part → Nat) (p : Nat) : Nat :=
  ((s.parts.filter (fun x => x.asid = k ∧ x.part = p)).map f).sum

/-- The context that a command names. -/
def argAsid (e : MgmtEntry) : BitVec 16 := BitVec.ofNat 16 e.arg

/-- No launch, queue, handler bundle or translated code is left to a context. -/
def emptied (s : State) (k : BitVec 16) : Prop :=
  s.translations = [] ∧ (∀ l ∈ s.launches, l.asid ≠ k) ∧ (∀ q ∈ s.queues, q.asid = k → q.st = .destroyed) ∧ ∀ b ∈ s.bundles, b.live = true → b.handler = none

end Sys2Proof.Claims

/-- The context commands (R335, R337, R390, R391). CREATE_CONTEXT of a valid record makes its context, with RESULT 0, and RESULT 2 where its
ASID is in use; DESTROY_CONTEXT destroys a context and its parts, here of one without launches and queues; GRANT sets the grant and the
slice; USAGE writes the two times of each partition, 16 bytes each. An unknown ASID gives RESULT 3.
The layout of USAGE and RESULT 2 for an ASID in use are the model's choice (assumptions 51, 54); that records and the ring are at
physical addresses is read by inference (assumption 57). -/
def Obligations.ContextCommands : Prop :=
  (∀ (s : State) (e : MgmtEntry) (v : Nat), Command s e 1 0 → e.arg % 64 = 0 → block64 s (paOffset e.arg) →
    v = recordAt s e (paOffset e.arg) → contextOk v = true →
    ((s.ctxs.filter (fun x => !x.destroyed)).map (·.vpool)).sum + (Context.parse v).vpool ≤ 4096 →
    ((s.ctx (Context.parse v).asid).destroyed = true → ∃ t, exec .createContext s = .next t ∧ answered s t e [] 0 ∧
      t.ctxs = s.ctxs.filter (fun x => x.asid != (Context.parse v).asid) ++ [Context.parse v] ∧
      t.stamps = s.stamps.filter (fun x => x.asid != (Context.parse v).asid) ∧
      onlyCount s { t with ctxs := s.ctxs, stamps := s.stamps }) ∧
    ((s.ctx (Context.parse v).asid).destroyed = false → ∃ t, exec .createContext s = .next t ∧ answered s t e [] 2 ∧
      onlyCount s t)) ∧
  (∀ (s : State) (e : MgmtEntry), Command s e 2 0 → (s.ctx (argAsid e)).destroyed = false → emptied s (argAsid e) →
    ∃ t, exec .destroyContext s = .next t ∧ answered s t e [] 0 ∧
      t.ctxs = s.ctxs.map (fun c => if c.asid = argAsid e then { c with destroyed := true, grant := 0 } else c) ∧
      t.parts = s.parts.map (fun p => if p.asid = argAsid e
        then { p with st := .destroyed, kennel := none, image := none, raised := false, idle := none, seqs := [], stamps := [] } else p) ∧
      t.stamps = s.stamps.filter (fun x => x.asid != argAsid e) ∧
      onlyCount s { t with ctxs := s.ctxs, parts := s.parts, stamps := s.stamps }) ∧
  (∀ (s : State) (e : MgmtEntry), Command s e 7 0 → (s.ctx (argAsid e)).destroyed = false →
    ∃ t, exec .grant s = .next t ∧ answered s t e [] 0 ∧
      t.ctxs = s.ctxs.map (fun c => if c.asid = argAsid e
        then { c with grant := BitVec.ofNat 8 e.arg2, slice := BitVec.ofNat 40 (e.arg2 / 256) } else c) ∧
      onlyCount s { t with ctxs := s.ctxs }) ∧
  (∀ (s : State) (e : MgmtEntry) (a : Nat), Command s e 8 0 → (s.ctx (argAsid e)).destroyed = false → a = paOffset e.arg2 →
    block64 s a → block64 s (a + 64) →
    ∃ t, exec .usage s = .next t ∧ onlyCount s t ∧ answered s t e ((List.range 8).flatMap (fun p =>
      [(a + 16 * p, bytesOf 8 (counted s (argAsid e) (·.resTime) p)), (a + 16 * p + 8, bytesOf 8 (counted s (argAsid e) (·.idleTime) p))])) 0) ∧
  (∀ (s : State) (e : MgmtEntry) (i : Instr) (op : Nat), (i, op) ∈ [(Instr.destroyContext, 2), (.grant, 7), (.usage, 8)] →
    Command s e op 0 → (s.ctx (argAsid e)).destroyed = true → ∃ t, exec i s = .next t ∧ answered s t e [] 3 ∧ onlyCount s t)

namespace Sys2Proof.Claims
open Sys2Proof.Machine

/-- The stores that show a queue's state (R376): STATUS and FAULTIDX. -/
def shown (q : Queue) (status : Nat) : List (Nat × List Byte) :=
  [(paOffset q.qcb.toNat + 36, bytesOf 4 status), (paOffset q.qcb.toNat + 40, bytesOf 8 0)]

/-- The stores that publish a queue (R376, R377, R382): READ before those of its state. -/
def published (q : Queue) (status : Nat) : List (Nat × List Byte) := (paOffset q.qcb.toNat + 8, bytesOf 8 q.r) :: shown q status

/-- Every queue of a number that is not DESTROYED has become `q`. -/
def queueNow (s t : State) (qid : Nat) (q : Queue) : Prop :=
  t.queues = s.queues.map (fun x => if x.qid = qid ∧ x.st ≠ .destroyed then q else x)

/-- The queue commands that move a queue (R377): the states from which each moves it, the state it reaches, that state's code. -/
def moves : List (Instr × Nat × List QueueState × QueueState × Nat) :=
  [(.startQueue, 4, [.created, .suspended], .active, 1), (.suspendQueue, 5, [.active], .suspended, 2)]

end Sys2Proof.Claims

/-- The queue commands (R376, R377, R391, R392). CREATE_QUEUE of a valid control block makes a CREATED queue with the lowest free number,
and writes QID, READ, STATUS and FAULTIDX; START_QUEUE makes it ACTIVE and kicks it; SUSPEND_QUEUE suspends it and publishes
READ; DESTROY_QUEUE of a queue whose packets have ended leaves it DESTROYED. From another state, or of an unknown queue, RESULT is 3.
The moment of DONE of DESTROY_QUEUE, and that the control block is at a physical address, are read by inference (assumptions 55, 57). -/
def Obligations.QueueCommands : Prop :=
  (∀ (s : State) (e : MgmtEntry) (v qid : Nat), Command s e 3 0 → block64 s (paOffset e.arg) → v = recordAt s e (paOffset e.arg) →
    s.qcbOk e.arg v = true → (1 ≤ qid ∧ qid < 4096 ∧ s.queue? qid = none ∧ ∀ n, 1 ≤ n → n < qid → s.queue? n ≠ none) →
    ∃ t q, exec .createQueue s = .next t ∧ t.queues = s.queues ++ [q] ∧ onlyCount s { t with queues := s.queues } ∧
      q.qid = qid ∧ q.st = .created ∧ q.r = 0 ∧ q.packets = [] ∧ q.kick = false ∧ q.qcb = BitVec.ofNat 64 e.arg ∧
      q.asid = BitVec.ofNat 16 (v / 2 ^ 256) ∧ q.base = BitVec.ofNat 64 (v / 2 ^ 128) ∧ q.size = v / 2 ^ 192 % 2 ^ 32 ∧
      q.pubn = v / 2 ^ 224 % 2 ^ 16 ∧ q.prio = v / 2 ^ 240 % 2 ^ 8 ∧ (q.host = true ↔ v / 2 ^ 248 % 2 ^ 8 = 1) ∧
      answered s t e ((paOffset e.arg + 34, bytesOf 2 qid) :: published q 0) 0) ∧
  (∀ (s : State) (e : MgmtEntry) (i : Instr) (op : Nat) (ok : List QueueState) (st : QueueState) (code : Nat) (q : Queue),
    (i, op, ok, st, code) ∈ moves → Command s e op 0 → s.queue? e.arg = some q → q.st ∈ ok → block64 s (paOffset q.qcb.toNat) →
    ∃ t, exec i s = .next t ∧ answered s t e (if st = .suspended then published q code else shown q code) 0 ∧
      queueNow s t e.arg { q with st := st, reason := 0, kick := q.kick || decide (st = .active) } ∧
      onlyCount s { t with queues := s.queues }) ∧
  (∀ (s : State) (e : MgmtEntry) (flags : Nat) (q : Queue), Command s e 6 flags → flags < 2 → s.queue? e.arg = some q →
    q.st ∈ [QueueState.created, .active, .suspended, .fenced] → block64 s (paOffset q.qcb.toNat) →
    ∃ t, exec .destroyQueue s = .next t ∧ answered s t e (shown q 3 ++ published q 4) 0 ∧
      queueNow s t e.arg { q with st := .destroyed, reason := 0, kick := false, abort := decide (flags = 1) } ∧
      onlyCount s { t with queues := s.queues }) ∧
  (∀ (s : State) (e : MgmtEntry) (i : Instr) (op : Nat) (ok : List QueueState),
    (i, op, ok) ∈ [(Instr.startQueue, 4, [QueueState.created, .suspended]), (.suspendQueue, 5, [.active]),
      (.destroyQueue, 6, [.created, .active, .suspended, .fenced])] → Command s e op 0 →
    (∀ q, s.queue? e.arg = some q → q.st ∉ ok) → ∃ t, exec i s = .next t ∧ answered s t e [] 3 ∧ onlyCount s t)

/-- Shepherd's two complexes (R391, R395 to R397, R410). LOAD_UPDATE boots its image on the standby, which imports the latest version of the
state table, where the image's key, signature and security version pass, and is refused with RESULT 4 where they do not, or without a
standby, or while an update is under way; what image the address holds is free (assumption 5). A started update exchanges the roles,
RESULT 0, or is refused by the new image, RESULT 4. At an error of the active complex the standby takes over, and without a standby
Shepherd is dead; when the new complex comes again, every ACTIVE queue is kicked and a version of the table is committed.
The steps of an exchange, and that a takeover imports the latest version, commits the next one and carries out no entry again, are read by
inference (assumptions 55, 89). -/
def Obligations.ShepherdRoles : Prop :=
  (∀ (s : State) (e : MgmtEntry) (x : Image), Command s e 9 0 → x = Config.loadedImage s.ticks e.arg →
    ∃ t, exec .loadUpdate s = .next t ∧
      ((s.shep.standby = true ∧ s.shep.update = none ∧ s.boot.takesImage s.boot.shepsvn x = true ∧
        t.mem.read = stores [takenOff s e] s.mem.read ∧
        t.shep = { s.shep with
          seq := t.shep.seq, update := some (BitVec.ofNat 64 e.addr, 0), loaded := some x.digest, imported := s.shep.version } ∧
        { t with mem := s.mem, shep := s.shep } = s) ∨
      (¬ (s.shep.standby = true ∧ s.shep.update = none ∧ s.boot.takesImage s.boot.shepsvn x = true) ∧
        answered s t e [] 4 ∧ onlyCount s t))) ∧
  (∀ (s : State) (a : DWord), Idle s → s.shep.update = some (a, 0) → a.toNat + 2 < lpddrEnd → unheld s (a.toNat + 2) → s.memOk →
    ∃ t r, exec .roleExchange s = .next t ∧ t.mem.read = stores [(a.toNat + 2, [r])] s.mem.read ∧
      t.shep.update = none ∧ t.shep.loaded = none ∧
      ((r = 0 ∧ t.shep.active = 1 - s.shep.active ∧ t.shep.image = s.shep.loaded) ∨
        (r = 4 ∧ t.shep.active = s.shep.active ∧ t.shep.image = s.shep.image)) ∧
      { t with mem := s.mem, shep := s.shep } = s) ∧
  (∀ s : State, s.shep.dead = false → s.shep.taking = false → s.shep.update = none →
    exec .shepherdTakeover s = .next { s with shep := if s.shep.standby = true
      then { s.shep with active := 1 - s.shep.active, standby := false, taking := true } else { s.shep with dead := true } }) ∧
  (∀ s : State, s.shep.dead = false → s.shep.taking = true → s.shep.held = [] → s.host.halted = false → s.host.journal = 0 →
    (∀ q ∈ s.queues, q.st ≠ .draining ∧ ∀ p ∈ q.packets, p.ended = true) →
    ∃ t, exec .shepherdTakeover s = .next t ∧
      t.shep = { s.shep with
        taking := false, seq := s.shep.seq + 1, verSeq := s.shep.seq, version := s.shep.version + 1, imported := s.shep.version } ∧
      t.queues = s.queues.map (fun q => if q.st = .active then { q with kick := true } else q) ∧
      { t with shep := s.shep, queues := s.queues } = s)

namespace Sys2Proof.Claims
open Sys2Proof.Machine

/-! ### Links -/

/-- Only link `n` has changed, into `l`. -/
def linkNow (s t : State) (n : Nat) (l : Link) : Prop := t.links = s.links.set n l ∧ { t with links := s.links } = s

/-- The requests that agents have on links: those of long-latency words, of stores, of commands, and of stash lines. -/
def requests (s : State) (y : Sent) : Prop :=
  (∃ b ∈ s.bundles, (∃ o ∈ b.late, y ∈ o.links) ∨ ∃ th ∈ b.threads, ∃ x, Pending.store x ∈ th.out ∧ x.link = some y) ∨
  (∃ c ∈ s.cmds, y ∈ c.sent) ∨
  ∃ x ∈ s.teams, ∃ w ∈ x.windows, ∃ l ∈ w.lines, l.link = some y

/-- No collective is there, and no copy runs. -/
def enginesOff (s : State) : Prop := ∀ c ∈ s.cmds, (∀ x, c.spec ≠ .coll x) ∧ ∀ x, c.spec = .copy x → c.st ≠ .running

/-- No request of any agent is on a link. -/
def NothingOn (s : State) (n : Nat) : Prop := (∀ y, requests s y → y.link ≠ n) ∧ enginesOff s

/-- One team alone has a request that fails, issued by the word at `pc`; its pack has no other team, it has no children, and no graft is
under way. -/
structure OneFails (s : State) (fails : Sent → Bool) (x : Nat) (pc : DWord) : Prop where
  mine : s.teamFails x fails = some pc ∧ s.packTeams x = [x] ∧ (∀ k, (s.launch k).parent ≠ some x) ∧ otherGoesOn s x
  able : (s.team x).st.killable = true
  others : ∀ y, y ≠ x → s.teamFails y fails = none
  engines : enginesOff s
  handlers : ∀ b ∈ s.bundles, b.live = true → b.handler = none
  grafts : ∀ b l, (s.thread b l).graftHome = none

/-- Requests have changed by `f`, and nothing else. -/
def rerouted (s : State) (f : Sent → Sent) : State :=
  { s with
    cmds := s.cmds.map (fun c => { c with sent := c.sent.map f })
    bundles := s.bundles.map (fun b => { b with
      late := b.late.map (fun o => { o with links := o.links.map f })
      threads := b.threads.map (fun th => th.mapSent f) })
    teams := s.teams.map (fun x => { x with windows := x.windows.map (fun w =>
      { w with lines := w.lines.map (fun l => { l with link := l.link.map f }) }) }) }

/-- The links of a request's route but `n` that can carry it (R402). -/
def otherLinks (s : State) (n : Nat) (y : Sent) : List Nat := (s.routeLinks (paNode y.pa)).filter (fun m => m ≠ n)

end Sys2Proof.Claims

/-- Span links (R400 to R402). ENABLE starts to train a DOWN link, from stage 5 of boot on; 8 trained lanes give UP and 4 or 2 DEGRADED, with every ROUTE entry set
to the links that are UP or DEGRADED and, at the first that is UP, NODEID to the identifier, with which later ones must agree; a time-out
gives DOWN. A DEGRADED link trains again on RETRAIN, after each of its requests has moved to another usable link of its route, where there
is one. A lost lane leaves 4 or 2; retries count, saturating; RESET takes a FENCED link DOWN.
A link that fences (R400, R403): the requests on it fail. Without any the link alone changes; a team with one takes a containment event
with cause UNCORRECTABLE at the word. Requests that are not acknowledged within 1 ms fail in the same way, and the link stays. Too many
retries, or fewer than 2 lanes, fence a link. What fails is said where no collective is there and no copy runs.
The fields of a link after RESET, and where RETRAIN moves requests, are read by inference (assumptions 62, 63). -/
def Obligations.Links : Prop :=
  (∀ (s : State) (n : Nat), s.linkPresent n = true → ∃ t, exec (.linkEnable n) s = .next t ∧
    linkNow s t n { s.link n with
      enable := true, st := if (s.link n).st = .down ∧ 5 ≤ s.boot.stage then .training else (s.link n).st }) ∧
  (∀ (s : State) (n : Nat) (lanes : BitVec 4) (node : BitVec 9), s.linkPresent n = true → (s.link n).st = .training →
    lanes ∈ [8#4, 4#4, 2#4] →
    (s.nodeset = false ∨ node = s.nodeid → ∃ t, exec (.linkTrained n lanes node) s = .next t ∧
      t.links = s.links.set n { s.link n with st := if lanes = 8 then .up else .degraded, lanes := lanes.toNat, node := node } ∧
      (lanes = 8 → t.nodeid = node ∧ t.nodeset = true) ∧ (lanes ≠ 8 → t.nodeid = s.nodeid ∧ t.nodeset = s.nodeset) ∧
      (∀ k < 512, ∀ i, (t.routeEntry k).getLsbD i = true ↔ i < 12 ∧ t.linkUsable i = true) ∧
      { t with links := s.links, nodeid := s.nodeid, nodeset := s.nodeset, route := s.route } = s) ∧
    (s.nodeset = true ∧ node ≠ s.nodeid → ∃ t, exec (.linkTrained n lanes node) s = .next t ∧
      linkNow s t n { s.link n with st := .down, lanes := 0, node := node })) ∧
  (∀ (s : State) (n : Nat), s.linkPresent n = true → (s.link n).st = .training → ∃ t, exec (.trainingTimeout n) s = .next t ∧
    linkNow s t n { s.link n with st := .down, lanes := 0 }) ∧
  (∀ (s : State) (n : Nat), s.linkPresent n = true → (s.link n).st = .degraded →
    ∃ t f, exec (.linkRetrain n) s = .next t ∧
      t = { rerouted s f with links := s.links.set n { s.link n with st := .training, lanes := 0 } } ∧
      ∀ y, (y.link ≠ n ∨ otherLinks s n y = [] → f y = y) ∧
        (y.link = n → otherLinks s n y ≠ [] → (f y).link ∈ otherLinks s n y ∧ (f y).pa = y.pa ∧ (f y).clk = y.clk)) ∧
  (∀ (s : State) (n : Nat) (lanes : BitVec 4), s.linkPresent n = true → s.linkUsable n = true → 2 ≤ lanes.toNat →
    lanes.toNat < (s.link n).lanes → ∃ t, exec (.laneFail n lanes) s = .next t ∧
    linkNow s t n { s.link n with st := .degraded, lanes := if 4 ≤ lanes.toNat then 4 else 2 }) ∧
  (∀ (s : State) (n : Nat) (k : BitVec 32), s.linkPresent n = true → s.linkUsable n = true →
    (s.link n).retries + k.toNat ≤ (s.link n).thresh.toNat → ∃ t, exec (.flitRetry n k) s = .next t ∧
    linkNow s t n { s.link n with
      errcnt := BitVec.ofNat 32 (min ((s.link n).errcnt.toNat + k.toNat) (2 ^ 32 - 1)), retries := (s.link n).retries + k.toNat }) ∧
  (∀ (s : State) (n : Nat), s.linkPresent n = true → (s.link n).st = .fenced → ∃ t, exec (.linkReset n) s = .next t ∧
    linkNow s t n { s.link n with st := .down, lanes := 0, node := 0, errcnt := 0, retries := 0 }) ∧
  (∀ (s : State) (n : Nat), s.linkPresent n = true → s.linkUsable n = true → NothingOn s n → ∃ t, exec (.linkFence n) s = .next t ∧
    linkNow s t n { s.link n with st := .fenced, lanes := 0 }) ∧
  (∀ (s : State) (n x : Nat) (pc : DWord), s.linkPresent n = true →
    OneFails s (fun y => y.link == n && decide (2250000 ≤ (s.clk - y.clk).toNat)) x pc →
    ∃ t, exec (.remoteTimeout n) s = .next t ∧ TornDown s t x ∧ t = s.killTeam x 0x60 false none pc) ∧
  (∀ (s : State) (n x : Nat) (pc : DWord), s.linkPresent n = true → s.linkUsable n = true → OneFails s (fun y => y.link == n) x pc →
    ∃ t, exec (.linkFence n) s = .next t ∧ TornDown s (s.killTeam x 0x60 false none pc) x ∧
      linkNow (s.killTeam x 0x60 false none pc) t n { s.link n with st := .fenced, lanes := 0 }) ∧
  (∀ (s : State) (n : Nat) (lanes : BitVec 4), s.linkPresent n = true → s.linkUsable n = true → lanes.toNat < 2 →
    lanes.toNat < (s.link n).lanes → exec (.laneFail n lanes) s = exec (.linkFence n) s) ∧
  (∀ (s : State) (n : Nat) (k : BitVec 32), s.linkPresent n = true → s.linkUsable n = true → NothingOn s n →
    (s.link n).thresh.toNat < (s.link n).retries + k.toNat → ∃ t, exec (.flitRetry n k) s = .next t ∧ (t.link n).st = .fenced ∧
      (t.link n).lanes = 0 ∧ (∀ m, m ≠ n → t.link m = s.link m) ∧ { t with links := s.links } = s)

namespace Sys2Proof.Claims
open Sys2Proof.Machine

/-! ### The world outside -/

/-- An access of an agent outside the partitions goes to main memory of this device, and meets no stash line, no outstanding store and no
access of another size that it races. -/
structure OutsideAccess (s : State) (size pa : Nat) : Prop where
  form : size ∈ [1, 2, 4, 8, 16] ∧ pa % size = 0
  place : s.isLocal pa = true ∧ pa < 2 ^ 52 ∧ paOffset pa + size ≤ lpddrEnd
  home : unheld s (paOffset pa)
  alone : nothingOut s ∧ s.touched (s.foreignSpot (paOffset pa) size) true = []
  mem : s.memOk

/-- What such an access leaves in memory: a load nothing, a store its bytes, an atomic what R169 gives for the old value. -/
def outsideStores (s : State) (kind : BitVec 2) (op ty : BitVec 4) (size pa : Nat) (v c : BitVec 128) : List (Nat × List Byte) :=
  if kind = 1 then [(paOffset pa, bytesOf size v.toNat)]
  else if kind = 2 then [(paOffset pa, bytesOf size (atomNew op.toNat ty.toNat (ofBytes (s.mem.readBytes (paOffset pa) size))
    (v.toNat % 2 ^ (8 * size)) (c.toNat % 2 ^ (8 * size))))]
  else []

/-- A kind of access that R148 and R169 have. -/
def outsideKind (kind : BitVec 2) (op ty : BitVec 4) (size : Nat) : Prop :=
  kind = 0 ∨ kind = 1 ∨ (kind = 2 ∧ op.toNat ≤ 10 ∧ ty.toNat ≤ 4 ∧ size = if ty = 2 ∨ ty = 3 then 8 else 4)

end Sys2Proof.Claims

/-- Accesses from outside the partitions (R148, R241, R398, R402, R408): of a system core, of another node over a usable link, of the PCIe
host through BAR4 or of a controller at a root port. A store changes its bytes and nothing else, an atomic acts on the old value, a load
changes nothing; the access is kept among those that later ones may race. An aligned store of 8 bytes to the device windows goes to its register at the end of the step; BAR0 is the host window, but
in recovery (R409), and BAR2 has the doorbells of HOST queues.
What lies outside memory and before boot stage 5, and when a store to the device windows reaches its register, are read by inference
(assumptions 66, 15). -/
def Obligations.OutsideAccesses : Prop :=
  (∀ (s : State) (kind : BitVec 2) (op ty : BitVec 4) (size : Nat) (pa : BitVec 64) (v c : BitVec 128), s.host.halted = false →
    5 ≤ s.boot.stage → outsideKind kind op ty size → OutsideAccess s size pa.toNat →
    ∃ t, exec (.systemCoreAccess kind op ty size pa v c) s = .next t ∧
      t.mem.read = stores (outsideStores s kind op ty size pa.toNat v c) s.mem.read ∧
      { t with mem := s.mem, badmem := s.badmem, outside := s.outside } = s) ∧
  (∀ (s : State) (node : BitVec 9) (kind : BitVec 2) (op ty : BitVec 4) (size : Nat) (pa : BitVec 64) (v c : BitVec 128),
    s.host.halted = false → outsideKind kind op ty size → OutsideAccess s size pa.toNat → node ≠ s.nodeid →
    (∃ n < 12, s.linkUsable n = true) → (∀ c ∈ s.ctxs, c.handler = false) →
    ∃ t, exec (.remoteRequest node kind op ty size pa v c) s = .next t ∧
      t.mem.read = stores (outsideStores s kind op ty size pa.toNat v c) s.mem.read ∧
      { t with mem := s.mem, badmem := s.badmem, outside := s.outside } = s) ∧
  (∀ (s : State) (store : Bool) (bar : BitVec 3) (o : BitVec 64) (size : Nat) (v : BitVec 128), 5 ≤ s.boot.stage →
    s.pcieRoot = true ∨ (bar = 4 ∧ o.toNat < 2 ^ 39) → size ∈ [1, 2, 4, 8, 16] → o.toNat % size = 0 → o.toNat + size ≤ lpddrEnd →
    unheld s o.toNat → nothingOut s → s.touched (s.foreignSpot o.toNat size) true = [] → s.memOk →
    ∃ t, exec (.pcieHostAccess store bar o size v) s = .next t ∧
      t.mem.read = stores (if store then [(o.toNat, bytesOf size v.toNat)] else []) s.mem.read ∧
      { t with mem := s.mem, badmem := s.badmem, outside := s.outside } = s) ∧
  (∀ (s : State) (pa : BitVec 64) (v c : BitVec 128), s.host.halted = false → 5 ≤ s.boot.stage → s.isLocal pa.toNat = true → pa.toNat < 2 ^ 52 →
    pa.toNat % 8 = 0 → deviceBase ≤ paOffset pa.toNat →
    exec (.systemCoreAccess 1 0 0 8 pa v c) s = .next { s with
      regwrites := s.regwrites ++ [(BitVec.ofNat 39 (paOffset pa.toNat - deviceBase), v.setWidth 64)] }) ∧
  (∀ (s : State) (o : BitVec 64) (v : BitVec 128), s.pcieRoot = false → o.toNat % 8 = 0 →
    (o.toNat < 65536 → s.boot.failed < 2 →
      exec (.pcieHostAccess true 0 o 8 v) s = exec (.registerWrite (o.setWidth 39) (v.setWidth 64)) s) ∧
    (∀ q, o.toNat < 32768 → s.queue? (o.toNat / 8) = some q → q.host = true →
      exec (.pcieHostAccess true 2 o 8 v) s = exec (.doorbell (o.toNat / 8)) s))

/-- The device windows (R398, R399, R401, R402, R405): a register write changes its register, or does what the event of the opcode table
does that the register starts. -/
def Obligations.RegisterWindows : Prop :=
  (∀ (s : State) (v : DWord),
    exec (.registerWrite 0x028 v) s = .next { s with host := { s.host with keytab := v } } ∧
    exec (.registerWrite 0x050 v) s = .next { s with host := { s.host with attest := v } } ∧
    exec (.registerWrite 0x040 v) s = exec (.fusereq v) s ∧
    exec (.registerWrite 0x038 v) s = exec (if v.getLsbD 0 then .debugHalt else .debugResume) s ∧
    exec (.registerWrite 0x20208 v) s = .next { s with intc := { s.intc with tlbva := v } }) ∧
  (∀ (s : State) (o : BitVec 39) (v : DWord), o = 0x018 ∨ o = 0x020 → ∃ t, exec (.registerWrite o v) s = .next t ∧
    t.host = (if o = 0x018 then { s.host with journal := v } else { s.host with mgmtring := v }) ∧
    t.boot = { s.boot with stage := if s.boot.stage = 5 ∧ t.host.journal ≠ 0 ∧ t.host.mgmtring ≠ 0 then 6 else s.boot.stage } ∧
    { t with host := s.host, boot := s.boot } = s) ∧
  (∀ (s : State) (v : DWord), ∃ t, exec (.registerWrite 0x030 v) s = .next t ∧ { t with host := s.host } = s ∧
    t.host = { s.host with sitter := t.host.sitter } ∧ t.host.sitter.getLsbD 7 = v.getLsbD 7 ∧
    (t.host.sitter.toNat % 128 = max 1 (min (v.toNat % 128) 120))) ∧
  (∀ (s : State) (n : Nat) (v : DWord),
    (n < 4096 → exec (.registerWrite (BitVec.ofNat 39 (0x10000 + 8 * n)) v) s = exec (.doorbell n) s) ∧
    (n < 24 → exec (.registerWrite (BitVec.ofNat 39 (0x20000 + 8 * n)) v) s =
      .next { s with intc := { s.intc with ringdesc := s.intc.ringdesc.set n v } }) ∧
    (n < 24 → exec (.registerWrite (BitVec.ofNat 39 (0x20100 + 8 * n)) v) s =
      exec (if v.getLsbD 32 then .resumeDeliver n (v.setWidth 32) else .resumeReplay n (v.setWidth 32)) s) ∧
    (n < 128 → exec (.registerWrite (BitVec.ofNat 39 (0x42000 + 8 * n)) v) s = exec (.ethDoorbell 0 n (v.setWidth 32)) s ∧
      exec (.registerWrite (BitVec.ofNat 39 (0x52000 + 8 * n)) v) s = exec (.ethDoorbell 1 n (v.setWidth 32)) s) ∧
    (n < 12 → s.linkPresent n = true → v.getLsbD 1 = false → v.getLsbD 2 = false → v.getLsbD 0 = false →
      ∃ t, exec (.registerWrite (BitVec.ofNat 39 (0x110008 + 0x1000 * n)) v) s = .next t ∧
        linkNow s t n { s.link n with enable := false, thresh := if v.extractLsb' 8 16 = 0 then 1 else v.extractLsb' 8 16 })) ∧
  (∀ (s : State) (n : Nat) (v : DWord), n < 8192 → ∃ t, exec (.registerWrite (BitVec.ofNat 39 (0x30000 + 8 * n)) v) s = .next t ∧
    { t with intc := s.intc } = s ∧ { t.intc with steer := s.intc.steer } = s.intc ∧
    ∀ k, t.intc.steerOf k = if k / 8 = n then v.extractLsb' (8 * (k % 8)) 8 else s.intc.steerOf k) ∧
  (∀ (s : State) (n : Nat) (v : DWord), n < 128 → ∃ t, exec (.registerWrite (BitVec.ofNat 39 (0x100000 + 8 * n)) v) s = .next t ∧
    { t with route := s.route } = s ∧
    ∀ k, t.routeEntry k = if k / 4 = n then v.extractLsb' (16 * (k % 4)) 16 &&& 0xFFF else s.routeEntry k)

namespace Sys2Proof.Claims
open Sys2Proof.Machine

/-! ### Ethernet, boot, power -/

/-- The ring block of a port. -/
def ring (s : State) (port n : Nat) : EthRing := (s.ethPort port).ring n

/-- The entry at CONS of a work ring (R405, R406): its number is `v`; it has 32 bytes that no stash line holds. -/
structure WorkEntry (s : State) (port work v : Nat) : Prop where
  read : v = ofBytes ((List.range 32).map (fun i => s.mem.read ((ring s port work).head + i)))
  home : unheld s (ring s port work).head

/-- Where the next completion entry goes. -/
def doneAt (s : State) (port work : Nat) : Nat :=
  let c := ring s port (ring s port work).cq.toNat
  paOffset (c.base.toNat + 16 * (c.prod.toNat % c.size.toNat))

/-- A completion entry (R406): work index, QPN, STATUS and PHASE, byte count, immediate. -/
def doneEntry (s : State) (port work qpn status count imm : Nat) : List Byte :=
  let c := ring s port (ring s port work).cq.toNat
  bytesOf 4 (ring s port work).cons.toNat ++ bytesOf 3 qpn ++ bytesOf 1 (status + 128 * (1 - c.prod.toNat / c.size.toNat % 2)) ++
    bytesOf 4 count ++ bytesOf 4 imm

/-- The entry is consumed: CONS of the work ring has advanced, and PROD of its completion ring where a completion is written. -/
structure Consumed (s t : State) (port work : Nat) (done : Bool) : Prop where
  taken : ring t port work = { ring s port work with cons := (ring s port work).cons + 1 }
  wrote : ring t port (ring s port work).cq.toNat = if done
    then { ring s port (ring s port work).cq.toNat with prod := (ring s port (ring s port work).cq.toNat).prod + 1 }
    else ring s port (ring s port work).cq.toNat
  rest : { t with mem := s.mem, badmem := s.badmem, eth := s.eth } = s

/-- The bytes at ADDR that a send entry's operation reads (R406): LEN of them to be sent, or the 16 operand bytes of an atomic. -/
def sentBytes (v : Nat) : Nat :=
  if v / 2 ^ 120 % 256 ≤ 3 then v / 2 ^ 64 % 2 ^ 32 else if v / 2 ^ 120 % 256 = 5 ∨ v / 2 ^ 120 % 256 = 6 then 16 else 0

/-- The completion entry's place is 16 bytes of main memory that no stash line holds. -/
def donePlace (s : State) (port work : Nat) : Prop :=
  doneAt s port work % 16 = 0 ∧ doneAt s port work + 16 ≤ lpddrEnd ∧ unheld s (doneAt s port work)

end Sys2Proof.Claims

/-- The Ethernet port engines (R405 to R407). A doorbell sets PROD of its ring. A finished send entry is consumed, and has a completion
entry where it asks for one; one whose data is the remote peer's is left out here. A frame that fits goes to the buffer of a receive entry
of its queue pair, which is consumed with a completion entry. The link of a port goes up or down.
That a completion waits for room, and that rings, entries and buffers are at physical addresses, are read by inference (assumptions 64,
57). -/
def Obligations.EthernetPorts : Prop :=
  (∀ (s : State) (port n : Nat) (v : BitVec 32), port < s.eth.length → n < 128 →
    ∃ t, exec (.ethDoorbell port n v) s = .next t ∧ ring t port n = { ring s port n with prod := v } ∧
      (∀ k, k ≠ n → ring t port k = ring s port k) ∧ (∀ p, p ≠ port → t.ethPort p = s.ethPort p) ∧ { t with eth := s.eth } = s) ∧
  (∀ (s : State) (port work v : Nat) (status : BitVec 7) (count imm : BitVec 32), s.host.halted = false → port < s.eth.length →
    (s.ethPort port).canWork work 0 = true → WorkEntry s port work v → donePlace s port work → s.memOk →
    status ≠ 0 ∨ v / 2 ^ 120 % 256 < 4 → (∀ i < sentBytes v, unheld s (paOffset (v % 2 ^ 64) + i)) →
    ∃ t, exec (.ethCompletion port work status count imm) s = .next t ∧ Consumed s t port work (v.testBit 224) ∧
      t.mem.read = stores (if v.testBit 224 then [(doneAt s port work, doneEntry s port work (v / 2 ^ 96 % 2 ^ 24) status.toNat
        count.toNat imm.toNat)] else []) s.mem.read) ∧
  (∀ (s : State) (port work v : Nat) (qpn : BitVec 24) (frame : List (BitVec 8)) (imm : BitVec 32), s.host.halted = false →
    (s.ethPort port).up = true → (s.ethPort port).canWork work 1 = true → WorkEntry s port work v → donePlace s port work → s.memOk →
    qpn.toNat = v / 2 ^ 96 % 2 ^ 24 → frame.length ≤ v / 2 ^ 64 % 2 ^ 32 → paOffset (v % 2 ^ 64) + frame.length ≤ lpddrEnd →
    (∀ i < frame.length, unheld s (paOffset (v % 2 ^ 64) + i)) →
    ∃ t, exec (.ethFrameReceive port work qpn frame imm) s = .next t ∧ Consumed s t port work true ∧
      t.mem.read = stores [(paOffset (v % 2 ^ 64), frame),
        (doneAt s port work, doneEntry s port work qpn.toNat 0 frame.length imm.toNat)] s.mem.read) ∧
  (∀ (s : State) (port : Nat) (up : Bool), ∃ t, exec (.ethLinkChange port up) s = .next t ∧
    t.eth = s.eth.modify port (fun p => { p with up := up }) ∧ { t with eth := s.eth } = s)

namespace Sys2Proof.Claims
open Sys2Proof.Machine

/-- An image is accepted (R410): its key is the fused root key, its signature holds, and its version is not below the fuses. -/
def acceptable (b : Boot) (svn : Nat) (x : Image) : Prop :=
  Config.sm3 (bytesOf 64 x.key.toNat) = b.root ∧ Config.sm2Verifies x.key x.digest x.sig = true ∧ svn ≤ x.ver

/-- A slot of the boot flash can be booted from (R409, R410): it is readable, and both images are accepted. -/
def bootable (b : Boot) (f : FlashSlot) : Prop :=
  f.readable = true ∧ acceptable b b.shepsvn f.shep ∧ acceptable b b.syssvn f.sys

/-- A link after stage 5 (R400, R409): one that is present, enabled and DOWN trains. -/
def trains (s : State) (n : Nat) (l : Link) : Link :=
  if s.linkPresent n = true ∧ l.enable = true ∧ l.st = .down then { l with st := .training } else l

end Sys2Proof.Claims

/-- Boot, fuses and attestation (R409, R410, R415, R416). From reset boot reaches stage 5 from the first slot that can be booted from, with
the first complex that starts, and the links train; it stays in stage 1 without LPDDR, in stage 4 without a complex, and in stage 2 or 3
without a slot. A fuse counter only rises, to at most 64. The report holds the nonce, the digests, CAPS, the counters, ID and BOOTSTAT, and
their signature; the digest of the report and the signature are free values (assumption 3).
The debug halt, the Sitter and power (R370, R399, R417). A halt stops the device, and the Sitter answers where it is enabled; the time
runs out; the halt ends. Above 2,400 W every die's clock steps down by 75 MHz to no less than 1.2 GHz, below 2,300 W it steps up to at most
2.25 GHz; a thermal limit steps one die down.
The stage of a failed boot, what a halt holds back, and that request and report are at physical addresses are read by inference
(assumptions 65, 67, 57). -/
def Obligations.BootHaltPower : Prop :=
  (∀ (s : State) (f g : FlashSlot), s.boot.stage = 0 → s.boot.flash = [f, g] → s.links.length = 12 →
    ∃ t, exec .boot s = .next t ∧ { t with boot := s.boot, shep := s.shep, links := s.links } = s ∧
      t.shep = { s.shep with active := t.shep.active, standby := s.boot.complex0 && s.boot.complex1 } ∧
      (s.boot.lpddr = false → t.boot.stage = 1 ∧ t.boot.failed = 1) ∧
      (s.boot.lpddr = true →
        (¬ bootable s.boot f ∧ ¬ bootable s.boot g ∧ t.boot.stage = t.boot.failed ∧ t.boot.stage = if g.readable then 3 else 2) ∨
        ((bootable s.boot f ∨ bootable s.boot g) ∧ (s.boot.complex0 = true ∨ s.boot.complex1 = true) ∧
          t.boot.stage = 5 ∧ t.boot.failed = s.boot.failed ∧ (t.boot.slot1 = true ↔ ¬ bootable s.boot f) ∧
          t.shep.active = (if s.boot.complex0 then 0 else 1) ∧ ∀ n < 12, t.link n = trains s n (s.link n)) ∨
        ((bootable s.boot f ∨ bootable s.boot g) ∧ s.boot.complex0 = false ∧ s.boot.complex1 = false ∧
          t.boot.stage = 4 ∧ t.boot.failed = 4))) ∧
  (∀ (s : State) (v : DWord) (k n : Nat), k = v.toNat % 4 → n = v.toNat / 4 % 128 →
    exec (.fusereq v) s = .next { s with boot := { s.boot with
      shepsvn := if k = 0 ∧ n ≤ 64 then max s.boot.shepsvn n else s.boot.shepsvn
      syssvn := if k = 1 ∧ n ≤ 64 then max s.boot.syssvn n else s.boot.syssvn
      codesvn := if k = 2 ∧ n ≤ 64 then max s.boot.codesvn n else s.boot.codesvn } }) ∧
  (∀ (s : State) (a buf : Nat) (body : List Byte), s.host.attest ≠ 0 → s.shepherding = true → 5 ≤ s.boot.stage → a = paOffset s.host.attest.toNat →
    buf = paOffset (ofBytes ((List.range 8).map (fun i => s.mem.read (a + 32 + i)))) → buf % 128 = 0 → buf + 192 ≤ lpddrEnd →
    a % 64 = 0 → unheld s a → unheld s buf → unheld s (buf + 128) → s.memOk →
    body = (List.range 32).map (fun i => s.mem.read (a + i)) ++ bytesOf 32 s.shepDigest.toNat ++
      bytesOf 32 s.boot.slotOf.sys.digest.toNat ++ bytesOf 8 s.host.caps.toNat ++
      bytesOf 8 (s.boot.shepsvn + 2 ^ 8 * s.boot.syssvn + 2 ^ 16 * s.boot.codesvn) ++ bytesOf 8 s.host.idreg.toNat ++
      bytesOf 8 s.boot.stat.toNat →
    ∃ t, exec .attest s = .next t ∧ t.host = { s.host with attest := 0 } ∧ { t with host := s.host, mem := s.mem, badmem := s.badmem } = s ∧
      t.mem.read = stores [(buf, body), (buf + 128, bytesOf 64 (Config.deviceSignature (Config.sm3 body)).toNat)] s.mem.read) ∧
  (∀ s : State, s.host.halted = false → exec .debugHalt s = .next { s with host := { s.host with
    halted := true, answering := s.host.sitter.getLsbD 7 } }) ∧
  (∀ s : State, exec .debugResume s = .next { s with host := { s.host with halted := false, answering := false } }) ∧
  (∀ s : State, exec .sitterExpiry s = .next { s with host := { s.host with answering := false } }) ∧
  (∀ (s : State) (w : BitVec 16), ∃ t, exec (.powerSample w) s = .next t ∧ { t with power := s.power } = s ∧ t.power.watts = w ∧ t.power.sampled = true ∧
    t.power.mhz.length = s.power.mhz.length ∧ ∀ i < s.power.mhz.length, t.power.mhz.getD i 0 =
      if 2400 < w.toNat then max 1200 (s.power.mhz.getD i 0 - 75)
      else if w.toNat < 2300 then min 2250 (s.power.mhz.getD i 0 + 75) else s.power.mhz.getD i 0) ∧
  (∀ (s : State) (die : Nat), die < s.power.mhz.length → ∃ t, exec (.thermalLimit die) s = .next t ∧
    t.power = { s.power with mhz := s.power.mhz.set die (max 1200 (s.power.mhz.getD die 0 - 75)) } ∧ { t with power := s.power } = s)
/-- `harm` (R307): it arms its monitor when sa is 1 and disarms it when sa is 0; arming starts a new total, and an armed monitor stays as it is
(R302). Any other value of sa, and an UNCONFIGURED monitor, are refused with MONITOR_USE. -/
def Obligations.MonitorArming : Prop :=
  (∀ (s : State) (a : BitVec 6) (m : BitVec 3) (x : Monitor), s.issues (.harm a m) → monHeld s m → s.uniTrap [⟨a.toNat, 1, .int⟩] = none →
    x = (s.team s.curTeam).mon m.toNat → x.st ≠ .unconfigured → (s.u32 a).toNat ≤ 1 →
    ∃ t, exec (.harm a m) s = .next t ∧ MonStep s t m (
      if s.u32 a = 0 then { x with st := .disarmed } else if x.st = .armed then x
      else { x with st := .armed, partials := [], stores := 0, touched := false }) []) ∧
  (∀ (s : State) (a : BitVec 6) (m : BitVec 3), s.issues (.harm a m) → s.uniTrap [⟨a.toNat, 1, .int⟩] = none → handled s →
    ((s.team s.curTeam).mon m.toNat).st = .unconfigured ∨ 1 < (s.u32 a).toNat →
    ∃ t, exec (.harm a m) s = .next t ∧ TrapTaken s t 0x64)

/-- An encoding trap (R49) is raised before the word has any effect: every thread of the issued set parks with the same cause and trap PC, a
uniform word writes nothing, and every other lane, register and byte of memory is as before. What a versioned team's unhandled trap does
beyond this is R314. -/
def Obligations.EncodingTrapsPark : Prop :=
  ∀ (s : State) (i : Instr) (c : BitVec 8), i.encoded = true → s.wordTrap i = some c → s.others = [] →
    (s.curCtx.handler = true ∧ s.curB.handler = none) ∨ (∀ x, s.versioned x = false) →
    ∃ t, exec i s = .next t ∧
      t.curB.threads = s.curB.threads.mapIdx (fun l th => if s.cur.lanes.getLsbD l then parkedBy s c th else th) ∧
      { t.curB with threads := s.curB.threads } = s.curB ∧ { t with bundles := s.bundles } = s ∧
      ∀ b, b ≠ s.cur.bundle → { t.bundle b with handler := (s.bundle b).handler } = s.bundle b

namespace Sys2Proof.Claims
open Sys2Proof.Machine

/-- The long-latency words of R36; R119 says that the words of `rem` are long-latency too. -/
def longWord : Instr → Bool
  | .ld8s _ _ _ _ => true
  | .ld8z _ _ _ _ => true
  | .ld16s _ _ _ _ => true
  | .ld16z _ _ _ _ => true
  | .ld32 _ _ _ _ => true
  | .ld64 _ _ _ _ => true
  | .ld128 _ _ _ _ => true
  | .atomr _ _ _ _ _ => true
  | .await _ _ _ _ => true
  | .div _ _ _ _ _ => true
  | .rem _ _ _ _ _ => true
  | .fdiv _ _ _ _ _ => true
  | .sfu _ _ _ _ => true
  | .sfd _ _ _ _ => true
  | .red _ _ _ _ => true
  | .scan _ _ _ _ => true
  | .uld32 _ _ _ _ => true
  | .uld64 _ _ _ _ => true
  | _ => false

end Sys2Proof.Claims

/-- The long-latency words are those of R36, and no other. -/
def Obligations.LongLatencyWords : Prop := ∀ i : Instr, (wordInfo i).long = longWord i

/-- A bundle at creation (R87): its uniform registers are EMPTY, m0 to m6 are zero and m7 is all ones, no completion flag is set, and the
leash and BSTAT are clear. A write of m7 is ignored, whatever the bundle, and a write of another mask register changes that one alone. -/
def Obligations.CreatedBundles : Prop :=
  (∀ (k : BitVec 16) (x part : Nat) (q : Place) (w p i : Nat) (t : Option Nat) (ts : List Thread) (h : Option Handler) (b : Bundle),
    b = newBundle k x part q w p i t ts h →
    (∀ n < 64, b.s[n]? = some Reg.fresh) ∧ b.s.length = 64 ∧ (∀ n < 7, b.m[n]? = some 0) ∧ b.m[7]? = some (BitVec.allOnes 64) ∧
      b.m.length = 8 ∧ b.flags = 0 ∧ b.leash = Leash.fresh ∧ b.bempty = false) ∧
  (∀ (b : Bundle) (v : BitVec 64), b.writeM 7 v = b) ∧
  (∀ (b : Bundle) (n : Nat) (v : BitVec 64), n < 7 → b.m.length = 8 → (b.writeM n v).m[n]? = some v ∧
    (∀ k, k ≠ n → (b.writeM n v).m[k]? = b.m[k]?) ∧ { b.writeM n v with m := b.m } = b)

/-- The machine after reset (R321, R362, R399 to R401, R413, R417): no context, team, bundle or queue exists, memory lists nothing, the
registers of the host window, of the links and of the interrupt controller hold the reset values of their tables, and NODEID is 0.
The invariants hold: memory is in canonical form, and no bundle is due to retire.
That memory lists nothing, which stands for bytes of 0, is the model's choice (assumption 4). -/
def Obligations.ResetValues : Prop :=
  State.reset.mem = [] ∧ State.reset.bundles = [] ∧ State.reset.teams = [] ∧ State.reset.ctxs = [] ∧ State.reset.queues = [] ∧
  State.reset.clk = 0 ∧ State.reset.nodeid = 0 ∧ State.reset.memOk ∧ State.reset.noneOver ∧
  (∀ o ∈ [0x010, 0x018, 0x020, 0x028, 0x038, 0x048, 0x050], State.reset.regRead o = 0) ∧ State.reset.regRead 0x030 = 0x1E ∧
  (∀ n < 24, State.reset.regRead (0x20000 + 8 * n) = 0) ∧
  (∀ n < 12, State.reset.regRead (0x110000 + 0x1000 * n) = 0 ∧ State.reset.regRead (0x110008 + 0x1000 * n) = 0x40001)

/-- Every step keeps main memory in its canonical form (R1, R321), from whatever state the step begins: the addresses rise, each is listed
once, and no byte is listed that an unlisted address reads as, so that equal memories are equal data. That form is the model's, no rule of the spec (assumption
4). -/
def Obligations.MemoryKept : Prop := ∀ s t : State, s.memOk → step s = .next t → t.memOk

/-- After every step no bundle is due to retire (R85): a bundle retires with the last of its threads, long-latency words and commands, in the
same step, from whatever state the step begins.
The moment is read by inference (assumption 68). -/
def Obligations.RetirementKept : Prop := ∀ s t : State, step s = .next t → t.noneOver

/-- Decoding and encoding agree (R28, R42, R45): every instruction that a word can hold, with every operand at every value of its field, has
a word, and that word decodes to it. -/
def Obligations.DecodeEncode : Prop := ∀ i : Instr, i.encoded = true → ∃ w, encode i = some w ∧ decode w = .ok i

/-- A step runs the decoded instruction (R31, R34, R35, R40, R89). Where a bundle may issue, its set stands at a word that decodes to an
instruction, and no breakpoint, fence or flag stops it, the step executes that instruction at the latch, then does what follows an issue,
and settles. This is said of a word of a plain-form page, of a word inside a clause, and of a word behind a prefix. -/
def Obligations.StepRunsInstruction : Prop :=
  (∀ (s p r v u : State) (b : Nat) (rest : List Move) (w : Word) (i : Instr), s.agenda = .issue b :: rest →
    p = { s.passTime with agenda := rest } → p.mayIssue b = true → (p.selectSet b).cur.lanes ≠ 0 →
    (p.selectSet b).fetch b (p.selectSet b).cur.pc = (r, .word w true) → decode w = .ok i → isPrefixWord i = false →
    v = { r with cur := { r.cur with plain := true } } → v.cur.flag = none → v.fallsInClause v.cur.pc = false → headerOf w = none →
    v.curB.flags = 0 → v.bkptLanes = [] → v.cur.lanes ≠ 0 → v.fenceHolds i = false → exec i v = .next u →
    step s = .next (u.afterIssue (some i) v.othersReady).settle) ∧
  (∀ (s p r v u : State) (b : Nat) (rest : List Move) (w : Word) (i : Instr) (c : Clause), s.agenda = .issue b :: rest →
    p = { s.passTime with agenda := rest } → p.mayIssue b = true → (p.selectSet b).cur.lanes ≠ 0 →
    (p.selectSet b).fetch b (p.selectSet b).cur.pc = (r, .word w false) → decode w = .ok i → isPrefixWord i = false →
    headerOf w = none → r.clauseAt r.cur.bundle r.cur.pc = some c → (∀ l ∈ r.issued, (r.curB.thread l).fell = true) →
    r.bkptLanes = [] → r.cur.lanes ≠ 0 → c.h.bad = false → r.clauseDefect r.cur.bundle r.cur.pc c w = false →
    v = { r with cur := { r.cur with flag := (if (wordInfo i).long then
      some (Clause.flagOf c (r.longBefore r.cur.bundle r.cur.pc c)) else none) } } →
    (∀ n, v.cur.flag = some n → v.curB.flags.getLsbD n = false) → v.fenceHolds i = false → exec i v = .next u →
    step s = .next (u.afterIssue (some i) v.othersReady).settle) ∧
  (∀ (s p v u x y : State) (b : Nat) (rest : List Move) (i j : Instr), s.agenda = .issue b :: rest →
    p = { s.passTime with agenda := rest } → p.mayIssue b = true → p.front b = .run i v → isPrefixWord i = true →
    exec i v = .next u → u.cur.pfx.isSome = true → u.frontSecond = .run j x → exec j x = .next y →
    step s = .next (y.afterIssue (some j) v.othersReady).settle)

/-- Words that the spec writes out decode to the instructions they stand for (R42, R45, and the examples of the entries). -/
def Obligations.DecodedWords : Prop :=
  ∀ x ∈ [((0x64302020 : Word), Instr.ld32 12 2 2 0), (0x1B34C240, .fma 13 12 9 0 0), (0x0C488260, .cmp 2 2 8 9 4 0),
      (0x62244FD2, .ld16s 9 4 0xFD 2), (0x6B30602F, .st128 12 6 2 15), (0xA1102021, .uld64 4 2 2 1), (0x6C306843, .atom 12 6 8 4 3),
      (0x45000048, .enter 1 8), (0x38200001, .lvidx 8 1), (0x3F600001, .lvlead 3 1), (0x900810C3, .mlogic 2 1 3 3),
      (0x87105190, .ucmp 4 5 6 2 0), (0xB1418000, .mmpost 16 24), (0xB5000123, .stamp 0x123), (0x5130A005, .cut 12 10 5),
      (0xC1200012, .barrive 8 1 2), (0xCA302000, .hrd 12 2 0), (0xCB003000, .harm 3 0), (0xB8102180, .smapRw 4 2 6 0)],
    decode x.1 = .ok x.2
end

