-- ==== Sys2Proof/Laws/Memory.lean ====
section
/-! SUPPORT. Main memory: a read after a write, the bytes that a write leaves, and the canonical form. -/
namespace Sys2Proof.Laws
open Sys2Proof.Machine

/-- Every cell lies above an address. -/
def aboveAll (x : Nat) (m : Memory) : Prop := ∀ c ∈ m, x < c.1

theorem wf_tail {c : Host.Cell} {m : Memory} (h : Memory.wf (c :: m) = true) : Memory.wf m = true := by
  match m, c with
  | [], _ => rfl
  | _ :: _, (_, _) => simp [Memory.wf] at h; exact h.2

theorem wf_head {a : Nat} {b : Byte} {m : Memory} (h : Memory.wf ((a, b) :: m) = true) : b ≠ Config.freshByte := by
  match m with
  | [] => simpa [Memory.wf] using h
  | (_, _) :: _ => simp [Memory.wf] at h; exact h.1.1

theorem wf_above {a : Nat} {b : Byte} {m : Memory} (h : Memory.wf ((a, b) :: m) = true) : aboveAll a m := by
  induction m generalizing a b with
  | nil => intro c hc; cases hc
  | cons c m ih =>
    obtain ⟨a', b'⟩ := c
    simp [Memory.wf] at h
    intro d hd
    rcases List.mem_cons.mp hd with rfl | hd
    · exact h.1.2
    · exact Nat.lt_trans h.1.2 (ih h.2 d hd)

theorem wf_cons {a : Nat} {b : Byte} {m : Memory} (hb : b ≠ Config.freshByte) (ha : aboveAll a m) (hm : Memory.wf m = true) :
    Memory.wf ((a, b) :: m) = true := by
  match m with
  | [] => simpa [Memory.wf] using hb
  | (a', b') :: m => simp [Memory.wf, hb, hm]; exact ha (a', b') (by simp)

/-- Below every cell memory reads as unlisted. -/
theorem read_below {m : Memory} {x : Nat} (h : aboveAll x m) : m.read x = Config.freshByte := by
  cases m with
  | nil => rfl
  | cons c m =>
    have := h c (by simp)
    simp [Memory.read]
    split
    · omega
    · simp

/-- A write puts no cell below those there are, but its own. -/
theorem write_above {m : Memory} {y x : Nat} {v : Byte} (hy : aboveAll y m) (hx : y < x) : aboveAll y (m.write x v) := by
  induction m with
  | nil =>
    simp [Memory.write]
    split
    · exact hy
    · intro c hc; simp at hc; subst hc; exact hx
  | cons c m ih =>
    obtain ⟨a, b⟩ := c
    have ha := hy (a, b) (by simp)
    have hm : aboveAll y m := fun c hc => hy c (by simp [hc])
    simp only [Memory.write]
    split
    · split
      · exact hy
      · intro c hc
        rcases List.mem_cons.mp hc with rfl | hc
        · exact hx
        · exact hy c hc
    · split
      · split
        · exact hm
        · intro c hc
          rcases List.mem_cons.mp hc with rfl | hc
          · exact ha
          · exact hm c hc
      · intro c hc
        rcases List.mem_cons.mp hc with rfl | hc
        · exact ha
        · exact ih hm c hc

/-- A write keeps the canonical form. -/
theorem wf_write {m : Memory} (h : m.wf = true) (x : Nat) (v : Byte) : (m.write x v).wf = true := by
  induction m with
  | nil =>
    by_cases hv : v = Config.freshByte <;> simp [Memory.write, hv, Memory.wf]
  | cons c m ih =>
    obtain ⟨a, b⟩ := c
    have ha := wf_above h
    have hb := wf_head h
    have ht := wf_tail h
    simp only [Memory.write]
    split
    · rename_i hx
      split
      · exact h
      · refine wf_cons ‹_› ?_ h
        intro c hc
        rcases List.mem_cons.mp hc with rfl | hc
        · exact hx
        · exact Nat.lt_trans hx (ha c hc)
    · split
      · split
        · exact ht
        · exact wf_cons ‹_› ha ht
      · exact wf_cons hb (write_above ha (by omega)) (ih ht)

/-- A read after a write to the same address gives the value written. -/
theorem read_write_same {m : Memory} (h : m.wf = true) (x : Nat) (v : Byte) : (m.write x v).read x = v := by
  induction m with
  | nil => by_cases hv : v = Config.freshByte <;> simp [Memory.write, hv, Memory.read]
  | cons c m ih =>
    obtain ⟨a, b⟩ := c
    have ha := wf_above h
    simp only [Memory.write]
    split
    · rename_i hx
      split
      · rename_i hv
        simp [Memory.read, hx, hv]
        omega
      · simp [Memory.read]
    · split
      · rename_i hx
        split
        · rename_i hv
          subst hx
          rw [read_below ha, hv]
        · simp [Memory.read, hx]
      · simp only [Memory.read]
        rw [if_neg (by omega), if_neg (by omega)]
        exact ih (wf_tail h)

/-- A write leaves every other address as it was. -/
theorem read_write_other {m : Memory} (h : m.wf = true) {x y : Nat} (v : Byte) (hy : y ≠ x) :
    (m.write x v).read y = m.read y := by
  induction m with
  | nil => by_cases hv : v = Config.freshByte <;> simp [Memory.write, hv, Memory.read, hy]
  | cons c m ih =>
    obtain ⟨a, b⟩ := c
    have ha := wf_above h
    simp only [Memory.write]
    split
    · rename_i hx
      split
      · rfl
      · rw [Memory.read.eq_2, if_neg hy]
        split
        · rw [read_below]
          intro c hc
          rcases List.mem_cons.mp hc with rfl | hc
          · simp only; omega
          · have := ha c hc; omega
        · rfl
    · split
      · rename_i hx
        subst hx
        split
        · rw [Memory.read.eq_2, if_neg hy]
          split
          · apply read_below
            intro c hc
            have := ha c hc; omega
          · rfl
        · simp [Memory.read, hy]
      · simp only [Memory.read]
        split
        · rfl
        · split
          · rfl
          · exact ih (wf_tail h)

/-- A write of several bytes keeps the canonical form. -/
theorem wf_writeBytes {m : Memory} (h : m.wf = true) (x : Nat) (bs : List Byte) : (m.writeBytes x bs).wf = true := by
  induction bs generalizing m x with
  | nil => exact h
  | cons b bs ih => exact ih (wf_write h x b) (x + 1)

/-- A write of several bytes leaves every address outside them as it was. -/
theorem read_writeBytes_other {m : Memory} (h : m.wf = true) {x y : Nat} (bs : List Byte) (hy : y < x ∨ x + bs.length ≤ y) :
    (m.writeBytes x bs).read y = m.read y := by
  induction bs generalizing m x with
  | nil => rfl
  | cons b bs ih =>
    simp only [List.length_cons] at hy
    simp only [Memory.writeBytes]
    rw [ih (wf_write h x b) (by omega), read_write_other h b (by omega)]

/-- A read after a write of several bytes gives the byte written. -/
theorem read_writeBytes_same {m : Memory} (h : m.wf = true) (x : Nat) (bs : List Byte) (i : Nat) (hi : i < bs.length) :
    (m.writeBytes x bs).read (x + i) = bs[i] := by
  induction bs generalizing m x i with
  | nil => simp at hi
  | cons b bs ih =>
    simp only [Memory.writeBytes]
    cases i with
    | zero =>
      rw [read_writeBytes_other (wf_write h x b) bs (by omega), Nat.add_zero, read_write_same h]
      rfl
    | succ i =>
      have := ih (wf_write h x b) (x + 1) i (by simpa using hi)
      rw [Nat.add_right_comm, Nat.add_assoc] at this
      simpa using this

/-- Every write of bytes of main memory keeps its canonical form. -/
theorem memWrite_wf (s : State) (pa : Nat) (bs : List Byte) (h : s.mem.wf = true) : (s.memWrite pa bs).mem.wf = true := by
  unfold State.memWrite
  split
  · exact wf_writeBytes h pa bs
  · exact h

/-- Memory is in canonical form after reset. -/
theorem reset_wf : State.reset.mem.wf = true := rfl

end Sys2Proof.Laws
end

