-- ==== Sys2Proof/Laws/PerInstr.lean ====
section
/-! SUPPORT. The family Encoding: the row that the opcode map gives the word of an instruction is that instruction's, with
every field as it was. One lemma for each constructor of Instr. -/
set_option linter.unusedSimpArgs false
namespace Sys2Proof.Laws

/-- The opcode byte of a word as a field. -/
theorem opcodeOf_field (w : Word) : opcodeOf w = (fld w 24 8).toNat := by
  have := w.isLt
  simp [opcodeOf, fld, BitVec.extractLsb'_toNat, Nat.shiftRight_eq_div_pow]
  omega

/-- A field above the lower part of a word. -/
theorem above {v w : Nat} {x : BitVec v} {y : BitVec w} {lo len : Nat} (h : w ≤ lo) :
    (x ++ y).extractLsb' lo len = x.extractLsb' (lo - w) len := BitVec.extractLsb'_append_eq_of_le h

/-- A field within the lower part of a word. -/
theorem below {v w : Nat} {x : BitVec v} {y : BitVec w} {lo len : Nat} (h : lo + len ≤ w) :
    (x ++ y).extractLsb' lo len = y.extractLsb' lo len := BitVec.extractLsb'_append_eq_of_add_le h

/-- The upper part of a word. -/
theorem top {v w : Nat} {x : BitVec v} {y : BitVec w} : (x ++ y).extractLsb' w v = x := BitVec.extractLsb'_append_eq_left

/-- The word of the instruction, if it has one, selects the instruction's own row, which reads every field back. -/
def Encoding.Statement (i : Instr) : Prop := ∀ w, encode i = some w → decodeAt (opcodeOf w) w = some i

theorem Encoding.add (d : BitVec 6) (a : BitVec 6) (b : BitVec 6) (f : BitVec 3) (h : BitVec 2) : Encoding.Statement (.add d a b f h) := by
  intro w hw
  have op : fld w 24 8 = 0x0 := by
    cases hw; show BitVec.extractLsb' (n := 8+6+6+6+3+2+1) 24 8 _ = _; simp (disch := decide) only [above, below, Nat.reduceSub, BitVec.extractLsb'_eq_self, top]; try rfl
  have m0 : w &&& 0x1#32 = 0x0#32 := by
    cases hw; show HAnd.hAnd (α := BitVec (8+6+6+6+3+2+1)) _ (0x0#8 ++ 0x0#6 ++ 0x0#6 ++ 0x0#6 ++ 0x0#3 ++ 0x0#2 ++ 0x1#1) = _
    simp only [BitVec.and_append, BitVec.and_zero]; rfl
  have fd : fld w 18 6 = d := by
    cases hw; show BitVec.extractLsb' (n := 8+6+6+6+3+2+1) 18 6 _ = _; simp (disch := decide) only [above, below, Nat.reduceSub, BitVec.extractLsb'_eq_self, top]
  have fa : fld w 12 6 = a := by
    cases hw; show BitVec.extractLsb' (n := 8+6+6+6+3+2+1) 12 6 _ = _; simp (disch := decide) only [above, below, Nat.reduceSub, BitVec.extractLsb'_eq_self, top]
  have fb : fld w 6 6 = b := by
    cases hw; show BitVec.extractLsb' (n := 8+6+6+6+3+2+1) 6 6 _ = _; simp (disch := decide) only [above, below, Nat.reduceSub, BitVec.extractLsb'_eq_self, top]
  have ff : fld w 3 3 = f := by
    cases hw; show BitVec.extractLsb' (n := 8+6+6+6+3+2+1) 3 3 _ = _; simp (disch := decide) only [above, below, Nat.reduceSub, BitVec.extractLsb'_eq_self, top]
  have fh : fld w 1 2 = h := by
    cases hw; show BitVec.extractLsb' (n := 8+6+6+6+3+2+1) 1 2 _ = _; simp (disch := decide) only [above, below, Nat.reduceSub, BitVec.extractLsb'_eq_self, top]
  rw [opcodeOf_field, op]
  simp [decodeAt, decodeAt0, m0, fd, fa, fb, ff, fh]

theorem Encoding.sub (d : BitVec 6) (a : BitVec 6) (b : BitVec 6) (f : BitVec 3) (h : BitVec 2) : Encoding.Statement (.sub d a b f h) := by
  intro w hw
  have op : fld w 24 8 = 0x1 := by
    cases hw; show BitVec.extractLsb' (n := 8+6+6+6+3+2+1) 24 8 _ = _; simp (disch := decide) only [above, below, Nat.reduceSub, BitVec.extractLsb'_eq_self, top]; try rfl
  have m0 : w &&& 0x1#32 = 0x0#32 := by
    cases hw; show HAnd.hAnd (α := BitVec (8+6+6+6+3+2+1)) _ (0x0#8 ++ 0x0#6 ++ 0x0#6 ++ 0x0#6 ++ 0x0#3 ++ 0x0#2 ++ 0x1#1) = _
    simp only [BitVec.and_append, BitVec.and_zero]; rfl
  have fd : fld w 18 6 = d := by
    cases hw; show BitVec.extractLsb' (n := 8+6+6+6+3+2+1) 18 6 _ = _; simp (disch := decide) only [above, below, Nat.reduceSub, BitVec.extractLsb'_eq_self, top]
  have fa : fld w 12 6 = a := by
    cases hw; show BitVec.extractLsb' (n := 8+6+6+6+3+2+1) 12 6 _ = _; simp (disch := decide) only [above, below, Nat.reduceSub, BitVec.extractLsb'_eq_self, top]
  have fb : fld w 6 6 = b := by
    cases hw; show BitVec.extractLsb' (n := 8+6+6+6+3+2+1) 6 6 _ = _; simp (disch := decide) only [above, below, Nat.reduceSub, BitVec.extractLsb'_eq_self, top]
  have ff : fld w 3 3 = f := by
    cases hw; show BitVec.extractLsb' (n := 8+6+6+6+3+2+1) 3 3 _ = _; simp (disch := decide) only [above, below, Nat.reduceSub, BitVec.extractLsb'_eq_self, top]
  have fh : fld w 1 2 = h := by
    cases hw; show BitVec.extractLsb' (n := 8+6+6+6+3+2+1) 1 2 _ = _; simp (disch := decide) only [above, below, Nat.reduceSub, BitVec.extractLsb'_eq_self, top]
  rw [opcodeOf_field, op]
  simp [decodeAt, decodeAt0, m0, fd, fa, fb, ff, fh]

theorem Encoding.mul (d : BitVec 6) (a : BitVec 6) (b : BitVec 6) (f : BitVec 1) (h : BitVec 2) : Encoding.Statement (.mul d a b f h) := by
  intro w hw
  have op : fld w 24 8 = 0x2 := by
    cases hw; show BitVec.extractLsb' (n := 8+6+6+6+2+1+2+1) 24 8 _ = _; simp (disch := decide) only [above, below, Nat.reduceSub, BitVec.extractLsb'_eq_self, top]; try rfl
  have m0 : w &&& 0x31#32 = 0x0#32 := by
    cases hw; show HAnd.hAnd (α := BitVec (8+6+6+6+2+1+2+1)) _ (0x0#8 ++ 0x0#6 ++ 0x0#6 ++ 0x0#6 ++ 0x3#2 ++ 0x0#1 ++ 0x0#2 ++ 0x1#1) = _
    simp only [BitVec.and_append, BitVec.and_zero]; rfl
  have fd : fld w 18 6 = d := by
    cases hw; show BitVec.extractLsb' (n := 8+6+6+6+2+1+2+1) 18 6 _ = _; simp (disch := decide) only [above, below, Nat.reduceSub, BitVec.extractLsb'_eq_self, top]
  have fa : fld w 12 6 = a := by
    cases hw; show BitVec.extractLsb' (n := 8+6+6+6+2+1+2+1) 12 6 _ = _; simp (disch := decide) only [above, below, Nat.reduceSub, BitVec.extractLsb'_eq_self, top]
  have fb : fld w 6 6 = b := by
    cases hw; show BitVec.extractLsb' (n := 8+6+6+6+2+1+2+1) 6 6 _ = _; simp (disch := decide) only [above, below, Nat.reduceSub, BitVec.extractLsb'_eq_self, top]
  have ff : fld w 3 1 = f := by
    cases hw; show BitVec.extractLsb' (n := 8+6+6+6+2+1+2+1) 3 1 _ = _; simp (disch := decide) only [above, below, Nat.reduceSub, BitVec.extractLsb'_eq_self, top]
  have fh : fld w 1 2 = h := by
    cases hw; show BitVec.extractLsb' (n := 8+6+6+6+2+1+2+1) 1 2 _ = _; simp (disch := decide) only [above, below, Nat.reduceSub, BitVec.extractLsb'_eq_self, top]
  rw [opcodeOf_field, op]
  simp [decodeAt, decodeAt0, m0, fd, fa, fb, ff, fh]

theorem Encoding.mulh (d : BitVec 6) (a : BitVec 6) (b : BitVec 6) (f : BitVec 1) (h : BitVec 2) : Encoding.Statement (.mulh d a b f h) := by
  intro w hw
  have op : fld w 24 8 = 0x2 := by
    cases hw; show BitVec.extractLsb' (n := 8+6+6+6+2+1+2+1) 24 8 _ = _; simp (disch := decide) only [above, below, Nat.reduceSub, BitVec.extractLsb'_eq_self, top]; try rfl
  have m0 : w &&& 0x31#32 = 0x10#32 := by
    cases hw; show HAnd.hAnd (α := BitVec (8+6+6+6+2+1+2+1)) _ (0x0#8 ++ 0x0#6 ++ 0x0#6 ++ 0x0#6 ++ 0x3#2 ++ 0x0#1 ++ 0x0#2 ++ 0x1#1) = _
    simp only [BitVec.and_append, BitVec.and_zero]; rfl
  have fd : fld w 18 6 = d := by
    cases hw; show BitVec.extractLsb' (n := 8+6+6+6+2+1+2+1) 18 6 _ = _; simp (disch := decide) only [above, below, Nat.reduceSub, BitVec.extractLsb'_eq_self, top]
  have fa : fld w 12 6 = a := by
    cases hw; show BitVec.extractLsb' (n := 8+6+6+6+2+1+2+1) 12 6 _ = _; simp (disch := decide) only [above, below, Nat.reduceSub, BitVec.extractLsb'_eq_self, top]
  have fb : fld w 6 6 = b := by
    cases hw; show BitVec.extractLsb' (n := 8+6+6+6+2+1+2+1) 6 6 _ = _; simp (disch := decide) only [above, below, Nat.reduceSub, BitVec.extractLsb'_eq_self, top]
  have ff : fld w 3 1 = f := by
    cases hw; show BitVec.extractLsb' (n := 8+6+6+6+2+1+2+1) 3 1 _ = _; simp (disch := decide) only [above, below, Nat.reduceSub, BitVec.extractLsb'_eq_self, top]
  have fh : fld w 1 2 = h := by
    cases hw; show BitVec.extractLsb' (n := 8+6+6+6+2+1+2+1) 1 2 _ = _; simp (disch := decide) only [above, below, Nat.reduceSub, BitVec.extractLsb'_eq_self, top]
  rw [opcodeOf_field, op]
  simp [decodeAt, decodeAt0, m0, fd, fa, fb, ff, fh]

theorem Encoding.mad (d : BitVec 6) (a : BitVec 6) (b : BitVec 6) (f : BitVec 3) (h : BitVec 2) : Encoding.Statement (.mad d a b f h) := by
  intro w hw
  have op : fld w 24 8 = 0x3 := by
    cases hw; show BitVec.extractLsb' (n := 8+6+6+6+3+2+1) 24 8 _ = _; simp (disch := decide) only [above, below, Nat.reduceSub, BitVec.extractLsb'_eq_self, top]; try rfl
  have m0 : w &&& 0x1#32 = 0x0#32 := by
    cases hw; show HAnd.hAnd (α := BitVec (8+6+6+6+3+2+1)) _ (0x0#8 ++ 0x0#6 ++ 0x0#6 ++ 0x0#6 ++ 0x0#3 ++ 0x0#2 ++ 0x1#1) = _
    simp only [BitVec.and_append, BitVec.and_zero]; rfl
  have fd : fld w 18 6 = d := by
    cases hw; show BitVec.extractLsb' (n := 8+6+6+6+3+2+1) 18 6 _ = _; simp (disch := decide) only [above, below, Nat.reduceSub, BitVec.extractLsb'_eq_self, top]
  have fa : fld w 12 6 = a := by
    cases hw; show BitVec.extractLsb' (n := 8+6+6+6+3+2+1) 12 6 _ = _; simp (disch := decide) only [above, below, Nat.reduceSub, BitVec.extractLsb'_eq_self, top]
  have fb : fld w 6 6 = b := by
    cases hw; show BitVec.extractLsb' (n := 8+6+6+6+3+2+1) 6 6 _ = _; simp (disch := decide) only [above, below, Nat.reduceSub, BitVec.extractLsb'_eq_self, top]
  have ff : fld w 3 3 = f := by
    cases hw; show BitVec.extractLsb' (n := 8+6+6+6+3+2+1) 3 3 _ = _; simp (disch := decide) only [above, below, Nat.reduceSub, BitVec.extractLsb'_eq_self, top]
  have fh : fld w 1 2 = h := by
    cases hw; show BitVec.extractLsb' (n := 8+6+6+6+3+2+1) 1 2 _ = _; simp (disch := decide) only [above, below, Nat.reduceSub, BitVec.extractLsb'_eq_self, top]
  rw [opcodeOf_field, op]
  simp [decodeAt, decodeAt0, m0, fd, fa, fb, ff, fh]

theorem Encoding.div (d : BitVec 6) (a : BitVec 6) (b : BitVec 6) (f : BitVec 1) (h : BitVec 2) : Encoding.Statement (.div d a b f h) := by
  intro w hw
  have op : fld w 24 8 = 0x4 := by
    cases hw; show BitVec.extractLsb' (n := 8+6+6+6+2+1+2+1) 24 8 _ = _; simp (disch := decide) only [above, below, Nat.reduceSub, BitVec.extractLsb'_eq_self, top]; try rfl
  have m0 : w &&& 0x31#32 = 0x0#32 := by
    cases hw; show HAnd.hAnd (α := BitVec (8+6+6+6+2+1+2+1)) _ (0x0#8 ++ 0x0#6 ++ 0x0#6 ++ 0x0#6 ++ 0x3#2 ++ 0x0#1 ++ 0x0#2 ++ 0x1#1) = _
    simp only [BitVec.and_append, BitVec.and_zero]; rfl
  have fd : fld w 18 6 = d := by
    cases hw; show BitVec.extractLsb' (n := 8+6+6+6+2+1+2+1) 18 6 _ = _; simp (disch := decide) only [above, below, Nat.reduceSub, BitVec.extractLsb'_eq_self, top]
  have fa : fld w 12 6 = a := by
    cases hw; show BitVec.extractLsb' (n := 8+6+6+6+2+1+2+1) 12 6 _ = _; simp (disch := decide) only [above, below, Nat.reduceSub, BitVec.extractLsb'_eq_self, top]
  have fb : fld w 6 6 = b := by
    cases hw; show BitVec.extractLsb' (n := 8+6+6+6+2+1+2+1) 6 6 _ = _; simp (disch := decide) only [above, below, Nat.reduceSub, BitVec.extractLsb'_eq_self, top]
  have ff : fld w 3 1 = f := by
    cases hw; show BitVec.extractLsb' (n := 8+6+6+6+2+1+2+1) 3 1 _ = _; simp (disch := decide) only [above, below, Nat.reduceSub, BitVec.extractLsb'_eq_self, top]
  have fh : fld w 1 2 = h := by
    cases hw; show BitVec.extractLsb' (n := 8+6+6+6+2+1+2+1) 1 2 _ = _; simp (disch := decide) only [above, below, Nat.reduceSub, BitVec.extractLsb'_eq_self, top]
  rw [opcodeOf_field, op]
  simp [decodeAt, decodeAt0, m0, fd, fa, fb, ff, fh]

theorem Encoding.rem (d : BitVec 6) (a : BitVec 6) (b : BitVec 6) (f : BitVec 1) (h : BitVec 2) : Encoding.Statement (.rem d a b f h) := by
  intro w hw
  have op : fld w 24 8 = 0x4 := by
    cases hw; show BitVec.extractLsb' (n := 8+6+6+6+2+1+2+1) 24 8 _ = _; simp (disch := decide) only [above, below, Nat.reduceSub, BitVec.extractLsb'_eq_self, top]; try rfl
  have m0 : w &&& 0x31#32 = 0x10#32 := by
    cases hw; show HAnd.hAnd (α := BitVec (8+6+6+6+2+1+2+1)) _ (0x0#8 ++ 0x0#6 ++ 0x0#6 ++ 0x0#6 ++ 0x3#2 ++ 0x0#1 ++ 0x0#2 ++ 0x1#1) = _
    simp only [BitVec.and_append, BitVec.and_zero]; rfl
  have fd : fld w 18 6 = d := by
    cases hw; show BitVec.extractLsb' (n := 8+6+6+6+2+1+2+1) 18 6 _ = _; simp (disch := decide) only [above, below, Nat.reduceSub, BitVec.extractLsb'_eq_self, top]
  have fa : fld w 12 6 = a := by
    cases hw; show BitVec.extractLsb' (n := 8+6+6+6+2+1+2+1) 12 6 _ = _; simp (disch := decide) only [above, below, Nat.reduceSub, BitVec.extractLsb'_eq_self, top]
  have fb : fld w 6 6 = b := by
    cases hw; show BitVec.extractLsb' (n := 8+6+6+6+2+1+2+1) 6 6 _ = _; simp (disch := decide) only [above, below, Nat.reduceSub, BitVec.extractLsb'_eq_self, top]
  have ff : fld w 3 1 = f := by
    cases hw; show BitVec.extractLsb' (n := 8+6+6+6+2+1+2+1) 3 1 _ = _; simp (disch := decide) only [above, below, Nat.reduceSub, BitVec.extractLsb'_eq_self, top]
  have fh : fld w 1 2 = h := by
    cases hw; show BitVec.extractLsb' (n := 8+6+6+6+2+1+2+1) 1 2 _ = _; simp (disch := decide) only [above, below, Nat.reduceSub, BitVec.extractLsb'_eq_self, top]
  rw [opcodeOf_field, op]
  simp [decodeAt, decodeAt0, m0, fd, fa, fb, ff, fh]

theorem Encoding.minmax (d : BitVec 6) (a : BitVec 6) (b : BitVec 6) (f : BitVec 3) (h : BitVec 2) : Encoding.Statement (.minmax d a b f h) := by
  intro w hw
  have op : fld w 24 8 = 0x5 := by
    cases hw; show BitVec.extractLsb' (n := 8+6+6+6+3+2+1) 24 8 _ = _; simp (disch := decide) only [above, below, Nat.reduceSub, BitVec.extractLsb'_eq_self, top]; try rfl
  have m0 : w &&& 0x1#32 = 0x0#32 := by
    cases hw; show HAnd.hAnd (α := BitVec (8+6+6+6+3+2+1)) _ (0x0#8 ++ 0x0#6 ++ 0x0#6 ++ 0x0#6 ++ 0x0#3 ++ 0x0#2 ++ 0x1#1) = _
    simp only [BitVec.and_append, BitVec.and_zero]; rfl
  have fd : fld w 18 6 = d := by
    cases hw; show BitVec.extractLsb' (n := 8+6+6+6+3+2+1) 18 6 _ = _; simp (disch := decide) only [above, below, Nat.reduceSub, BitVec.extractLsb'_eq_self, top]
  have fa : fld w 12 6 = a := by
    cases hw; show BitVec.extractLsb' (n := 8+6+6+6+3+2+1) 12 6 _ = _; simp (disch := decide) only [above, below, Nat.reduceSub, BitVec.extractLsb'_eq_self, top]
  have fb : fld w 6 6 = b := by
    cases hw; show BitVec.extractLsb' (n := 8+6+6+6+3+2+1) 6 6 _ = _; simp (disch := decide) only [above, below, Nat.reduceSub, BitVec.extractLsb'_eq_self, top]
  have ff : fld w 3 3 = f := by
    cases hw; show BitVec.extractLsb' (n := 8+6+6+6+3+2+1) 3 3 _ = _; simp (disch := decide) only [above, below, Nat.reduceSub, BitVec.extractLsb'_eq_self, top]
  have fh : fld w 1 2 = h := by
    cases hw; show BitVec.extractLsb' (n := 8+6+6+6+3+2+1) 1 2 _ = _; simp (disch := decide) only [above, below, Nat.reduceSub, BitVec.extractLsb'_eq_self, top]
  rw [opcodeOf_field, op]
  simp [decodeAt, decodeAt0, m0, fd, fa, fb, ff, fh]

theorem Encoding.absneg (d : BitVec 6) (a : BitVec 6) (f : BitVec 3) (h : BitVec 1) : Encoding.Statement (.absneg d a f h) := by
  intro w hw
  have op : fld w 24 8 = 0x6 := by
    cases hw; show BitVec.extractLsb' (n := 8+6+6+6+3+1+1+1) 24 8 _ = _; simp (disch := decide) only [above, below, Nat.reduceSub, BitVec.extractLsb'_eq_self, top]; try rfl
  have m0 : w &&& 0xFC5#32 = 0x0#32 := by
    cases hw; show HAnd.hAnd (α := BitVec (8+6+6+6+3+1+1+1)) _ (0x0#8 ++ 0x0#6 ++ 0x0#6 ++ 0x3F#6 ++ 0x0#3 ++ 0x1#1 ++ 0x0#1 ++ 0x1#1) = _
    simp only [BitVec.and_append, BitVec.and_zero]; rfl
  have fd : fld w 18 6 = d := by
    cases hw; show BitVec.extractLsb' (n := 8+6+6+6+3+1+1+1) 18 6 _ = _; simp (disch := decide) only [above, below, Nat.reduceSub, BitVec.extractLsb'_eq_self, top]
  have fa : fld w 12 6 = a := by
    cases hw; show BitVec.extractLsb' (n := 8+6+6+6+3+1+1+1) 12 6 _ = _; simp (disch := decide) only [above, below, Nat.reduceSub, BitVec.extractLsb'_eq_self, top]
  have ff : fld w 3 3 = f := by
    cases hw; show BitVec.extractLsb' (n := 8+6+6+6+3+1+1+1) 3 3 _ = _; simp (disch := decide) only [above, below, Nat.reduceSub, BitVec.extractLsb'_eq_self, top]
  have fh : fld w 1 1 = h := by
    cases hw; show BitVec.extractLsb' (n := 8+6+6+6+3+1+1+1) 1 1 _ = _; simp (disch := decide) only [above, below, Nat.reduceSub, BitVec.extractLsb'_eq_self, top]
  rw [opcodeOf_field, op]
  simp [decodeAt, decodeAt0, m0, fd, fa, ff, fh]

theorem Encoding.logic (d : BitVec 6) (a : BitVec 6) (b : BitVec 6) (f : BitVec 3) (h : BitVec 2) : Encoding.Statement (.logic d a b f h) := by
  intro w hw
  have op : fld w 24 8 = 0x7 := by
    cases hw; show BitVec.extractLsb' (n := 8+6+6+6+3+2+1) 24 8 _ = _; simp (disch := decide) only [above, below, Nat.reduceSub, BitVec.extractLsb'_eq_self, top]; try rfl
  have m0 : w &&& 0x1#32 = 0x0#32 := by
    cases hw; show HAnd.hAnd (α := BitVec (8+6+6+6+3+2+1)) _ (0x0#8 ++ 0x0#6 ++ 0x0#6 ++ 0x0#6 ++ 0x0#3 ++ 0x0#2 ++ 0x1#1) = _
    simp only [BitVec.and_append, BitVec.and_zero]; rfl
  have fd : fld w 18 6 = d := by
    cases hw; show BitVec.extractLsb' (n := 8+6+6+6+3+2+1) 18 6 _ = _; simp (disch := decide) only [above, below, Nat.reduceSub, BitVec.extractLsb'_eq_self, top]
  have fa : fld w 12 6 = a := by
    cases hw; show BitVec.extractLsb' (n := 8+6+6+6+3+2+1) 12 6 _ = _; simp (disch := decide) only [above, below, Nat.reduceSub, BitVec.extractLsb'_eq_self, top]
  have fb : fld w 6 6 = b := by
    cases hw; show BitVec.extractLsb' (n := 8+6+6+6+3+2+1) 6 6 _ = _; simp (disch := decide) only [above, below, Nat.reduceSub, BitVec.extractLsb'_eq_self, top]
  have ff : fld w 3 3 = f := by
    cases hw; show BitVec.extractLsb' (n := 8+6+6+6+3+2+1) 3 3 _ = _; simp (disch := decide) only [above, below, Nat.reduceSub, BitVec.extractLsb'_eq_self, top]
  have fh : fld w 1 2 = h := by
    cases hw; show BitVec.extractLsb' (n := 8+6+6+6+3+2+1) 1 2 _ = _; simp (disch := decide) only [above, below, Nat.reduceSub, BitVec.extractLsb'_eq_self, top]
  rw [opcodeOf_field, op]
  simp [decodeAt, decodeAt0, m0, fd, fa, fb, ff, fh]

theorem Encoding.shift (d : BitVec 6) (a : BitVec 6) (b : BitVec 6) (f : BitVec 3) (h : BitVec 2) : Encoding.Statement (.shift d a b f h) := by
  intro w hw
  have op : fld w 24 8 = 0x8 := by
    cases hw; show BitVec.extractLsb' (n := 8+6+6+6+3+2+1) 24 8 _ = _; simp (disch := decide) only [above, below, Nat.reduceSub, BitVec.extractLsb'_eq_self, top]; try rfl
  have m0 : w &&& 0x1#32 = 0x0#32 := by
    cases hw; show HAnd.hAnd (α := BitVec (8+6+6+6+3+2+1)) _ (0x0#8 ++ 0x0#6 ++ 0x0#6 ++ 0x0#6 ++ 0x0#3 ++ 0x0#2 ++ 0x1#1) = _
    simp only [BitVec.and_append, BitVec.and_zero]; rfl
  have fd : fld w 18 6 = d := by
    cases hw; show BitVec.extractLsb' (n := 8+6+6+6+3+2+1) 18 6 _ = _; simp (disch := decide) only [above, below, Nat.reduceSub, BitVec.extractLsb'_eq_self, top]
  have fa : fld w 12 6 = a := by
    cases hw; show BitVec.extractLsb' (n := 8+6+6+6+3+2+1) 12 6 _ = _; simp (disch := decide) only [above, below, Nat.reduceSub, BitVec.extractLsb'_eq_self, top]
  have fb : fld w 6 6 = b := by
    cases hw; show BitVec.extractLsb' (n := 8+6+6+6+3+2+1) 6 6 _ = _; simp (disch := decide) only [above, below, Nat.reduceSub, BitVec.extractLsb'_eq_self, top]
  have ff : fld w 3 3 = f := by
    cases hw; show BitVec.extractLsb' (n := 8+6+6+6+3+2+1) 3 3 _ = _; simp (disch := decide) only [above, below, Nat.reduceSub, BitVec.extractLsb'_eq_self, top]
  have fh : fld w 1 2 = h := by
    cases hw; show BitVec.extractLsb' (n := 8+6+6+6+3+2+1) 1 2 _ = _; simp (disch := decide) only [above, below, Nat.reduceSub, BitVec.extractLsb'_eq_self, top]
  rw [opcodeOf_field, op]
  simp [decodeAt, decodeAt0, m0, fd, fa, fb, ff, fh]

theorem Encoding.bits (d : BitVec 6) (a : BitVec 6) (f : BitVec 3) (h : BitVec 1) : Encoding.Statement (.bits d a f h) := by
  intro w hw
  have op : fld w 24 8 = 0x9 := by
    cases hw; show BitVec.extractLsb' (n := 8+6+6+6+3+1+1+1) 24 8 _ = _; simp (disch := decide) only [above, below, Nat.reduceSub, BitVec.extractLsb'_eq_self, top]; try rfl
  have m0 : w &&& 0xFC5#32 = 0x0#32 := by
    cases hw; show HAnd.hAnd (α := BitVec (8+6+6+6+3+1+1+1)) _ (0x0#8 ++ 0x0#6 ++ 0x0#6 ++ 0x3F#6 ++ 0x0#3 ++ 0x1#1 ++ 0x0#1 ++ 0x1#1) = _
    simp only [BitVec.and_append, BitVec.and_zero]; rfl
  have fd : fld w 18 6 = d := by
    cases hw; show BitVec.extractLsb' (n := 8+6+6+6+3+1+1+1) 18 6 _ = _; simp (disch := decide) only [above, below, Nat.reduceSub, BitVec.extractLsb'_eq_self, top]
  have fa : fld w 12 6 = a := by
    cases hw; show BitVec.extractLsb' (n := 8+6+6+6+3+1+1+1) 12 6 _ = _; simp (disch := decide) only [above, below, Nat.reduceSub, BitVec.extractLsb'_eq_self, top]
  have ff : fld w 3 3 = f := by
    cases hw; show BitVec.extractLsb' (n := 8+6+6+6+3+1+1+1) 3 3 _ = _; simp (disch := decide) only [above, below, Nat.reduceSub, BitVec.extractLsb'_eq_self, top]
  have fh : fld w 1 1 = h := by
    cases hw; show BitVec.extractLsb' (n := 8+6+6+6+3+1+1+1) 1 1 _ = _; simp (disch := decide) only [above, below, Nat.reduceSub, BitVec.extractLsb'_eq_self, top]
  rw [opcodeOf_field, op]
  simp [decodeAt, decodeAt0, m0, fd, fa, ff, fh]

theorem Encoding.bfx (d : BitVec 6) (a : BitVec 6) (b : BitVec 6) (f : BitVec 3) (h : BitVec 2) : Encoding.Statement (.bfx d a b f h) := by
  intro w hw
  have op : fld w 24 8 = 0xa := by
    cases hw; show BitVec.extractLsb' (n := 8+6+6+6+3+2+1) 24 8 _ = _; simp (disch := decide) only [above, below, Nat.reduceSub, BitVec.extractLsb'_eq_self, top]; try rfl
  have m0 : w &&& 0x1#32 = 0x0#32 := by
    cases hw; show HAnd.hAnd (α := BitVec (8+6+6+6+3+2+1)) _ (0x0#8 ++ 0x0#6 ++ 0x0#6 ++ 0x0#6 ++ 0x0#3 ++ 0x0#2 ++ 0x1#1) = _
    simp only [BitVec.and_append, BitVec.and_zero]; rfl
  have fd : fld w 18 6 = d := by
    cases hw; show BitVec.extractLsb' (n := 8+6+6+6+3+2+1) 18 6 _ = _; simp (disch := decide) only [above, below, Nat.reduceSub, BitVec.extractLsb'_eq_self, top]
  have fa : fld w 12 6 = a := by
    cases hw; show BitVec.extractLsb' (n := 8+6+6+6+3+2+1) 12 6 _ = _; simp (disch := decide) only [above, below, Nat.reduceSub, BitVec.extractLsb'_eq_self, top]
  have fb : fld w 6 6 = b := by
    cases hw; show BitVec.extractLsb' (n := 8+6+6+6+3+2+1) 6 6 _ = _; simp (disch := decide) only [above, below, Nat.reduceSub, BitVec.extractLsb'_eq_self, top]
  have ff : fld w 3 3 = f := by
    cases hw; show BitVec.extractLsb' (n := 8+6+6+6+3+2+1) 3 3 _ = _; simp (disch := decide) only [above, below, Nat.reduceSub, BitVec.extractLsb'_eq_self, top]
  have fh : fld w 1 2 = h := by
    cases hw; show BitVec.extractLsb' (n := 8+6+6+6+3+2+1) 1 2 _ = _; simp (disch := decide) only [above, below, Nat.reduceSub, BitVec.extractLsb'_eq_self, top]
  rw [opcodeOf_field, op]
  simp [decodeAt, decodeAt0, m0, fd, fa, fb, ff, fh]

theorem Encoding.bfi (d : BitVec 6) (a : BitVec 6) (b : BitVec 6) (h : BitVec 2) : Encoding.Statement (.bfi d a b h) := by
  intro w hw
  have op : fld w 24 8 = 0xb := by
    cases hw; show BitVec.extractLsb' (n := 8+6+6+6+3+2+1) 24 8 _ = _; simp (disch := decide) only [above, below, Nat.reduceSub, BitVec.extractLsb'_eq_self, top]; try rfl
  have m0 : w &&& 0x39#32 = 0x0#32 := by
    cases hw; show HAnd.hAnd (α := BitVec (8+6+6+6+3+2+1)) _ (0x0#8 ++ 0x0#6 ++ 0x0#6 ++ 0x0#6 ++ 0x7#3 ++ 0x0#2 ++ 0x1#1) = _
    simp only [BitVec.and_append, BitVec.and_zero]; rfl
  have fd : fld w 18 6 = d := by
    cases hw; show BitVec.extractLsb' (n := 8+6+6+6+3+2+1) 18 6 _ = _; simp (disch := decide) only [above, below, Nat.reduceSub, BitVec.extractLsb'_eq_self, top]
  have fa : fld w 12 6 = a := by
    cases hw; show BitVec.extractLsb' (n := 8+6+6+6+3+2+1) 12 6 _ = _; simp (disch := decide) only [above, below, Nat.reduceSub, BitVec.extractLsb'_eq_self, top]
  have fb : fld w 6 6 = b := by
    cases hw; show BitVec.extractLsb' (n := 8+6+6+6+3+2+1) 6 6 _ = _; simp (disch := decide) only [above, below, Nat.reduceSub, BitVec.extractLsb'_eq_self, top]
  have fh : fld w 1 2 = h := by
    cases hw; show BitVec.extractLsb' (n := 8+6+6+6+3+2+1) 1 2 _ = _; simp (disch := decide) only [above, below, Nat.reduceSub, BitVec.extractLsb'_eq_self, top]
  rw [opcodeOf_field, op]
  simp [decodeAt, decodeAt0, m0, fd, fa, fb, fh]

theorem Encoding.cmp (m : BitVec 3) (c : BitVec 3) (a : BitVec 6) (b : BitVec 6) (f : BitVec 3) (h : BitVec 2) : Encoding.Statement (.cmp m c a b f h) := by
  intro w hw
  have op : fld w 24 8 = 0xc := by
    cases hw; show BitVec.extractLsb' (n := 8+3+3+6+6+3+2+1) 24 8 _ = _; simp (disch := decide) only [above, below, Nat.reduceSub, BitVec.extractLsb'_eq_self, top]; try rfl
  have m0 : w &&& 0x1#32 = 0x0#32 := by
    cases hw; show HAnd.hAnd (α := BitVec (8+3+3+6+6+3+2+1)) _ (0x0#8 ++ 0x0#3 ++ 0x0#3 ++ 0x0#6 ++ 0x0#6 ++ 0x0#3 ++ 0x0#2 ++ 0x1#1) = _
    simp only [BitVec.and_append, BitVec.and_zero]; rfl
  have fm : fld w 21 3 = m := by
    cases hw; show BitVec.extractLsb' (n := 8+3+3+6+6+3+2+1) 21 3 _ = _; simp (disch := decide) only [above, below, Nat.reduceSub, BitVec.extractLsb'_eq_self, top]
  have fc : fld w 18 3 = c := by
    cases hw; show BitVec.extractLsb' (n := 8+3+3+6+6+3+2+1) 18 3 _ = _; simp (disch := decide) only [above, below, Nat.reduceSub, BitVec.extractLsb'_eq_self, top]
  have fa : fld w 12 6 = a := by
    cases hw; show BitVec.extractLsb' (n := 8+3+3+6+6+3+2+1) 12 6 _ = _; simp (disch := decide) only [above, below, Nat.reduceSub, BitVec.extractLsb'_eq_self, top]
  have fb : fld w 6 6 = b := by
    cases hw; show BitVec.extractLsb' (n := 8+3+3+6+6+3+2+1) 6 6 _ = _; simp (disch := decide) only [above, below, Nat.reduceSub, BitVec.extractLsb'_eq_self, top]
  have ff : fld w 3 3 = f := by
    cases hw; show BitVec.extractLsb' (n := 8+3+3+6+6+3+2+1) 3 3 _ = _; simp (disch := decide) only [above, below, Nat.reduceSub, BitVec.extractLsb'_eq_self, top]
  have fh : fld w 1 2 = h := by
    cases hw; show BitVec.extractLsb' (n := 8+3+3+6+6+3+2+1) 1 2 _ = _; simp (disch := decide) only [above, below, Nat.reduceSub, BitVec.extractLsb'_eq_self, top]
  rw [opcodeOf_field, op]
  simp [decodeAt, decodeAt0, m0, fm, fc, fa, fb, ff, fh]

theorem Encoding.sel (d : BitVec 6) (a : BitVec 6) (b : BitVec 6) (f : BitVec 3) (h : BitVec 2) : Encoding.Statement (.sel d a b f h) := by
  intro w hw
  have op : fld w 24 8 = 0xd := by
    cases hw; show BitVec.extractLsb' (n := 8+6+6+6+3+2+1) 24 8 _ = _; simp (disch := decide) only [above, below, Nat.reduceSub, BitVec.extractLsb'_eq_self, top]; try rfl
  have m0 : w &&& 0x1#32 = 0x0#32 := by
    cases hw; show HAnd.hAnd (α := BitVec (8+6+6+6+3+2+1)) _ (0x0#8 ++ 0x0#6 ++ 0x0#6 ++ 0x0#6 ++ 0x0#3 ++ 0x0#2 ++ 0x1#1) = _
    simp only [BitVec.and_append, BitVec.and_zero]; rfl
  have fd : fld w 18 6 = d := by
    cases hw; show BitVec.extractLsb' (n := 8+6+6+6+3+2+1) 18 6 _ = _; simp (disch := decide) only [above, below, Nat.reduceSub, BitVec.extractLsb'_eq_self, top]
  have fa : fld w 12 6 = a := by
    cases hw; show BitVec.extractLsb' (n := 8+6+6+6+3+2+1) 12 6 _ = _; simp (disch := decide) only [above, below, Nat.reduceSub, BitVec.extractLsb'_eq_self, top]
  have fb : fld w 6 6 = b := by
    cases hw; show BitVec.extractLsb' (n := 8+6+6+6+3+2+1) 6 6 _ = _; simp (disch := decide) only [above, below, Nat.reduceSub, BitVec.extractLsb'_eq_self, top]
  have ff : fld w 3 3 = f := by
    cases hw; show BitVec.extractLsb' (n := 8+6+6+6+3+2+1) 3 3 _ = _; simp (disch := decide) only [above, below, Nat.reduceSub, BitVec.extractLsb'_eq_self, top]
  have fh : fld w 1 2 = h := by
    cases hw; show BitVec.extractLsb' (n := 8+6+6+6+3+2+1) 1 2 _ = _; simp (disch := decide) only [above, below, Nat.reduceSub, BitVec.extractLsb'_eq_self, top]
  rw [opcodeOf_field, op]
  simp [decodeAt, decodeAt0, m0, fd, fa, fb, ff, fh]

theorem Encoding.mov (d : BitVec 6) (a : BitVec 6) (f : BitVec 1) (h : BitVec 1) : Encoding.Statement (.mov d a f h) := by
  intro w hw
  have op : fld w 24 8 = 0xe := by
    cases hw; show BitVec.extractLsb' (n := 8+6+6+8+1+1+1+1) 24 8 _ = _; simp (disch := decide) only [above, below, Nat.reduceSub, BitVec.extractLsb'_eq_self, top]; try rfl
  have m0 : w &&& 0xFF5#32 = 0x0#32 := by
    cases hw; show HAnd.hAnd (α := BitVec (8+6+6+8+1+1+1+1)) _ (0x0#8 ++ 0x0#6 ++ 0x0#6 ++ 0xFF#8 ++ 0x0#1 ++ 0x1#1 ++ 0x0#1 ++ 0x1#1) = _
    simp only [BitVec.and_append, BitVec.and_zero]; rfl
  have fd : fld w 18 6 = d := by
    cases hw; show BitVec.extractLsb' (n := 8+6+6+8+1+1+1+1) 18 6 _ = _; simp (disch := decide) only [above, below, Nat.reduceSub, BitVec.extractLsb'_eq_self, top]
  have fa : fld w 12 6 = a := by
    cases hw; show BitVec.extractLsb' (n := 8+6+6+8+1+1+1+1) 12 6 _ = _; simp (disch := decide) only [above, below, Nat.reduceSub, BitVec.extractLsb'_eq_self, top]
  have ff : fld w 3 1 = f := by
    cases hw; show BitVec.extractLsb' (n := 8+6+6+8+1+1+1+1) 3 1 _ = _; simp (disch := decide) only [above, below, Nat.reduceSub, BitVec.extractLsb'_eq_self, top]
  have fh : fld w 1 1 = h := by
    cases hw; show BitVec.extractLsb' (n := 8+6+6+8+1+1+1+1) 1 1 _ = _; simp (disch := decide) only [above, below, Nat.reduceSub, BitVec.extractLsb'_eq_self, top]
  rw [opcodeOf_field, op]
  simp [decodeAt, decodeAt0, m0, fd, fa, ff, fh]

theorem Encoding.movs (d : BitVec 6) (a : BitVec 6) (h : BitVec 1) : Encoding.Statement (.movs d a h) := by
  intro w hw
  have op : fld w 24 8 = 0xe := by
    cases hw; show BitVec.extractLsb' (n := 8+6+6+10+1+1) 24 8 _ = _; simp (disch := decide) only [above, below, Nat.reduceSub, BitVec.extractLsb'_eq_self, top]; try rfl
  have m0 : w &&& 0xFF5#32 = 0x10#32 := by
    cases hw; show HAnd.hAnd (α := BitVec (8+6+6+10+1+1)) _ (0x0#8 ++ 0x0#6 ++ 0x0#6 ++ 0x3FD#10 ++ 0x0#1 ++ 0x1#1) = _
    simp only [BitVec.and_append, BitVec.and_zero]; rfl
  have m1 : w &&& 0xFFD#32 = 0x10#32 := by
    cases hw; show HAnd.hAnd (α := BitVec (8+6+6+10+1+1)) _ (0x0#8 ++ 0x0#6 ++ 0x0#6 ++ 0x3FF#10 ++ 0x0#1 ++ 0x1#1) = _
    simp only [BitVec.and_append, BitVec.and_zero]; rfl
  have fd : fld w 18 6 = d := by
    cases hw; show BitVec.extractLsb' (n := 8+6+6+10+1+1) 18 6 _ = _; simp (disch := decide) only [above, below, Nat.reduceSub, BitVec.extractLsb'_eq_self, top]
  have fa : fld w 12 6 = a := by
    cases hw; show BitVec.extractLsb' (n := 8+6+6+10+1+1) 12 6 _ = _; simp (disch := decide) only [above, below, Nat.reduceSub, BitVec.extractLsb'_eq_self, top]
  have fh : fld w 1 1 = h := by
    cases hw; show BitVec.extractLsb' (n := 8+6+6+10+1+1) 1 1 _ = _; simp (disch := decide) only [above, below, Nat.reduceSub, BitVec.extractLsb'_eq_self, top]
  rw [opcodeOf_field, op]
  simp [decodeAt, decodeAt0, m0, m1, fd, fa, fh]

theorem Encoding.li (d : BitVec 6) (i : BitVec 18) : Encoding.Statement (.li d i) := by
  intro w hw
  have op : fld w 24 8 = 0xf := by
    cases hw; show BitVec.extractLsb' (n := 8+6+18) 24 8 _ = _; simp (disch := decide) only [above, below, Nat.reduceSub, BitVec.extractLsb'_eq_self, top]; try rfl
  have fd : fld w 18 6 = d := by
    cases hw; show BitVec.extractLsb' (n := 8+6+18) 18 6 _ = _; simp (disch := decide) only [above, below, Nat.reduceSub, BitVec.extractLsb'_eq_self, top]
  have fi : fld w 0 18 = i := by
    cases hw; show BitVec.extractLsb' (n := 8+6+18) 0 18 _ = _; simp (disch := decide) only [above, below, Nat.reduceSub, BitVec.extractLsb'_eq_self, top]
  rw [opcodeOf_field, op]
  simp [decodeAt, decodeAt0, fd, fi]

theorem Encoding.lih (d : BitVec 6) (i : BitVec 18) : Encoding.Statement (.lih d i) := by
  intro w hw
  have op : fld w 24 8 = 0x10 := by
    cases hw; show BitVec.extractLsb' (n := 8+6+18) 24 8 _ = _; simp (disch := decide) only [above, below, Nat.reduceSub, BitVec.extractLsb'_eq_self, top]; try rfl
  have fd : fld w 18 6 = d := by
    cases hw; show BitVec.extractLsb' (n := 8+6+18) 18 6 _ = _; simp (disch := decide) only [above, below, Nat.reduceSub, BitVec.extractLsb'_eq_self, top]
  have fi : fld w 0 18 = i := by
    cases hw; show BitVec.extractLsb' (n := 8+6+18) 0 18 _ = _; simp (disch := decide) only [above, below, Nat.reduceSub, BitVec.extractLsb'_eq_self, top]
  rw [opcodeOf_field, op]
  simp [decodeAt, decodeAt1, fd, fi]

theorem Encoding.addi (d : BitVec 6) (a : BitVec 6) (i : BitVec 12) : Encoding.Statement (.addi d a i) := by
  intro w hw
  have op : fld w 24 8 = 0x11 := by
    cases hw; show BitVec.extractLsb' (n := 8+6+6+12) 24 8 _ = _; simp (disch := decide) only [above, below, Nat.reduceSub, BitVec.extractLsb'_eq_self, top]; try rfl
  have fd : fld w 18 6 = d := by
    cases hw; show BitVec.extractLsb' (n := 8+6+6+12) 18 6 _ = _; simp (disch := decide) only [above, below, Nat.reduceSub, BitVec.extractLsb'_eq_self, top]
  have fa : fld w 12 6 = a := by
    cases hw; show BitVec.extractLsb' (n := 8+6+6+12) 12 6 _ = _; simp (disch := decide) only [above, below, Nat.reduceSub, BitVec.extractLsb'_eq_self, top]
  have fi : fld w 0 12 = i := by
    cases hw; show BitVec.extractLsb' (n := 8+6+6+12) 0 12 _ = _; simp (disch := decide) only [above, below, Nat.reduceSub, BitVec.extractLsb'_eq_self, top]
  rw [opcodeOf_field, op]
  simp [decodeAt, decodeAt1, fd, fa, fi]

theorem Encoding.fadd (d : BitVec 6) (a : BitVec 6) (b : BitVec 6) (f : BitVec 3) (h : BitVec 2) : Encoding.Statement (.fadd d a b f h) := by
  intro w hw
  have op : fld w 24 8 = 0x18 := by
    cases hw; show BitVec.extractLsb' (n := 8+6+6+6+3+2+1) 24 8 _ = _; simp (disch := decide) only [above, below, Nat.reduceSub, BitVec.extractLsb'_eq_self, top]; try rfl
  have m0 : w &&& 0x1#32 = 0x0#32 := by
    cases hw; show HAnd.hAnd (α := BitVec (8+6+6+6+3+2+1)) _ (0x0#8 ++ 0x0#6 ++ 0x0#6 ++ 0x0#6 ++ 0x0#3 ++ 0x0#2 ++ 0x1#1) = _
    simp only [BitVec.and_append, BitVec.and_zero]; rfl
  have fd : fld w 18 6 = d := by
    cases hw; show BitVec.extractLsb' (n := 8+6+6+6+3+2+1) 18 6 _ = _; simp (disch := decide) only [above, below, Nat.reduceSub, BitVec.extractLsb'_eq_self, top]
  have fa : fld w 12 6 = a := by
    cases hw; show BitVec.extractLsb' (n := 8+6+6+6+3+2+1) 12 6 _ = _; simp (disch := decide) only [above, below, Nat.reduceSub, BitVec.extractLsb'_eq_self, top]
  have fb : fld w 6 6 = b := by
    cases hw; show BitVec.extractLsb' (n := 8+6+6+6+3+2+1) 6 6 _ = _; simp (disch := decide) only [above, below, Nat.reduceSub, BitVec.extractLsb'_eq_self, top]
  have ff : fld w 3 3 = f := by
    cases hw; show BitVec.extractLsb' (n := 8+6+6+6+3+2+1) 3 3 _ = _; simp (disch := decide) only [above, below, Nat.reduceSub, BitVec.extractLsb'_eq_self, top]
  have fh : fld w 1 2 = h := by
    cases hw; show BitVec.extractLsb' (n := 8+6+6+6+3+2+1) 1 2 _ = _; simp (disch := decide) only [above, below, Nat.reduceSub, BitVec.extractLsb'_eq_self, top]
  rw [opcodeOf_field, op]
  simp [decodeAt, decodeAt1, m0, fd, fa, fb, ff, fh]

theorem Encoding.fsub (d : BitVec 6) (a : BitVec 6) (b : BitVec 6) (f : BitVec 3) (h : BitVec 2) : Encoding.Statement (.fsub d a b f h) := by
  intro w hw
  have op : fld w 24 8 = 0x19 := by
    cases hw; show BitVec.extractLsb' (n := 8+6+6+6+3+2+1) 24 8 _ = _; simp (disch := decide) only [above, below, Nat.reduceSub, BitVec.extractLsb'_eq_self, top]; try rfl
  have m0 : w &&& 0x1#32 = 0x0#32 := by
    cases hw; show HAnd.hAnd (α := BitVec (8+6+6+6+3+2+1)) _ (0x0#8 ++ 0x0#6 ++ 0x0#6 ++ 0x0#6 ++ 0x0#3 ++ 0x0#2 ++ 0x1#1) = _
    simp only [BitVec.and_append, BitVec.and_zero]; rfl
  have fd : fld w 18 6 = d := by
    cases hw; show BitVec.extractLsb' (n := 8+6+6+6+3+2+1) 18 6 _ = _; simp (disch := decide) only [above, below, Nat.reduceSub, BitVec.extractLsb'_eq_self, top]
  have fa : fld w 12 6 = a := by
    cases hw; show BitVec.extractLsb' (n := 8+6+6+6+3+2+1) 12 6 _ = _; simp (disch := decide) only [above, below, Nat.reduceSub, BitVec.extractLsb'_eq_self, top]
  have fb : fld w 6 6 = b := by
    cases hw; show BitVec.extractLsb' (n := 8+6+6+6+3+2+1) 6 6 _ = _; simp (disch := decide) only [above, below, Nat.reduceSub, BitVec.extractLsb'_eq_self, top]
  have ff : fld w 3 3 = f := by
    cases hw; show BitVec.extractLsb' (n := 8+6+6+6+3+2+1) 3 3 _ = _; simp (disch := decide) only [above, below, Nat.reduceSub, BitVec.extractLsb'_eq_self, top]
  have fh : fld w 1 2 = h := by
    cases hw; show BitVec.extractLsb' (n := 8+6+6+6+3+2+1) 1 2 _ = _; simp (disch := decide) only [above, below, Nat.reduceSub, BitVec.extractLsb'_eq_self, top]
  rw [opcodeOf_field, op]
  simp [decodeAt, decodeAt1, m0, fd, fa, fb, ff, fh]

theorem Encoding.fmul (d : BitVec 6) (a : BitVec 6) (b : BitVec 6) (f : BitVec 3) (h : BitVec 2) : Encoding.Statement (.fmul d a b f h) := by
  intro w hw
  have op : fld w 24 8 = 0x1a := by
    cases hw; show BitVec.extractLsb' (n := 8+6+6+6+3+2+1) 24 8 _ = _; simp (disch := decide) only [above, below, Nat.reduceSub, BitVec.extractLsb'_eq_self, top]; try rfl
  have m0 : w &&& 0x1#32 = 0x0#32 := by
    cases hw; show HAnd.hAnd (α := BitVec (8+6+6+6+3+2+1)) _ (0x0#8 ++ 0x0#6 ++ 0x0#6 ++ 0x0#6 ++ 0x0#3 ++ 0x0#2 ++ 0x1#1) = _
    simp only [BitVec.and_append, BitVec.and_zero]; rfl
  have fd : fld w 18 6 = d := by
    cases hw; show BitVec.extractLsb' (n := 8+6+6+6+3+2+1) 18 6 _ = _; simp (disch := decide) only [above, below, Nat.reduceSub, BitVec.extractLsb'_eq_self, top]
  have fa : fld w 12 6 = a := by
    cases hw; show BitVec.extractLsb' (n := 8+6+6+6+3+2+1) 12 6 _ = _; simp (disch := decide) only [above, below, Nat.reduceSub, BitVec.extractLsb'_eq_self, top]
  have fb : fld w 6 6 = b := by
    cases hw; show BitVec.extractLsb' (n := 8+6+6+6+3+2+1) 6 6 _ = _; simp (disch := decide) only [above, below, Nat.reduceSub, BitVec.extractLsb'_eq_self, top]
  have ff : fld w 3 3 = f := by
    cases hw; show BitVec.extractLsb' (n := 8+6+6+6+3+2+1) 3 3 _ = _; simp (disch := decide) only [above, below, Nat.reduceSub, BitVec.extractLsb'_eq_self, top]
  have fh : fld w 1 2 = h := by
    cases hw; show BitVec.extractLsb' (n := 8+6+6+6+3+2+1) 1 2 _ = _; simp (disch := decide) only [above, below, Nat.reduceSub, BitVec.extractLsb'_eq_self, top]
  rw [opcodeOf_field, op]
  simp [decodeAt, decodeAt1, m0, fd, fa, fb, ff, fh]

theorem Encoding.fma (d : BitVec 6) (a : BitVec 6) (b : BitVec 6) (f : BitVec 3) (h : BitVec 2) : Encoding.Statement (.fma d a b f h) := by
  intro w hw
  have op : fld w 24 8 = 0x1b := by
    cases hw; show BitVec.extractLsb' (n := 8+6+6+6+3+2+1) 24 8 _ = _; simp (disch := decide) only [above, below, Nat.reduceSub, BitVec.extractLsb'_eq_self, top]; try rfl
  have m0 : w &&& 0x1#32 = 0x0#32 := by
    cases hw; show HAnd.hAnd (α := BitVec (8+6+6+6+3+2+1)) _ (0x0#8 ++ 0x0#6 ++ 0x0#6 ++ 0x0#6 ++ 0x0#3 ++ 0x0#2 ++ 0x1#1) = _
    simp only [BitVec.and_append, BitVec.and_zero]; rfl
  have fd : fld w 18 6 = d := by
    cases hw; show BitVec.extractLsb' (n := 8+6+6+6+3+2+1) 18 6 _ = _; simp (disch := decide) only [above, below, Nat.reduceSub, BitVec.extractLsb'_eq_self, top]
  have fa : fld w 12 6 = a := by
    cases hw; show BitVec.extractLsb' (n := 8+6+6+6+3+2+1) 12 6 _ = _; simp (disch := decide) only [above, below, Nat.reduceSub, BitVec.extractLsb'_eq_self, top]
  have fb : fld w 6 6 = b := by
    cases hw; show BitVec.extractLsb' (n := 8+6+6+6+3+2+1) 6 6 _ = _; simp (disch := decide) only [above, below, Nat.reduceSub, BitVec.extractLsb'_eq_self, top]
  have ff : fld w 3 3 = f := by
    cases hw; show BitVec.extractLsb' (n := 8+6+6+6+3+2+1) 3 3 _ = _; simp (disch := decide) only [above, below, Nat.reduceSub, BitVec.extractLsb'_eq_self, top]
  have fh : fld w 1 2 = h := by
    cases hw; show BitVec.extractLsb' (n := 8+6+6+6+3+2+1) 1 2 _ = _; simp (disch := decide) only [above, below, Nat.reduceSub, BitVec.extractLsb'_eq_self, top]
  rw [opcodeOf_field, op]
  simp [decodeAt, decodeAt1, m0, fd, fa, fb, ff, fh]

theorem Encoding.fminmax (d : BitVec 6) (a : BitVec 6) (b : BitVec 6) (f : BitVec 3) (h : BitVec 2) : Encoding.Statement (.fminmax d a b f h) := by
  intro w hw
  have op : fld w 24 8 = 0x1c := by
    cases hw; show BitVec.extractLsb' (n := 8+6+6+6+3+2+1) 24 8 _ = _; simp (disch := decide) only [above, below, Nat.reduceSub, BitVec.extractLsb'_eq_self, top]; try rfl
  have m0 : w &&& 0x1#32 = 0x0#32 := by
    cases hw; show HAnd.hAnd (α := BitVec (8+6+6+6+3+2+1)) _ (0x0#8 ++ 0x0#6 ++ 0x0#6 ++ 0x0#6 ++ 0x0#3 ++ 0x0#2 ++ 0x1#1) = _
    simp only [BitVec.and_append, BitVec.and_zero]; rfl
  have fd : fld w 18 6 = d := by
    cases hw; show BitVec.extractLsb' (n := 8+6+6+6+3+2+1) 18 6 _ = _; simp (disch := decide) only [above, below, Nat.reduceSub, BitVec.extractLsb'_eq_self, top]
  have fa : fld w 12 6 = a := by
    cases hw; show BitVec.extractLsb' (n := 8+6+6+6+3+2+1) 12 6 _ = _; simp (disch := decide) only [above, below, Nat.reduceSub, BitVec.extractLsb'_eq_self, top]
  have fb : fld w 6 6 = b := by
    cases hw; show BitVec.extractLsb' (n := 8+6+6+6+3+2+1) 6 6 _ = _; simp (disch := decide) only [above, below, Nat.reduceSub, BitVec.extractLsb'_eq_self, top]
  have ff : fld w 3 3 = f := by
    cases hw; show BitVec.extractLsb' (n := 8+6+6+6+3+2+1) 3 3 _ = _; simp (disch := decide) only [above, below, Nat.reduceSub, BitVec.extractLsb'_eq_self, top]
  have fh : fld w 1 2 = h := by
    cases hw; show BitVec.extractLsb' (n := 8+6+6+6+3+2+1) 1 2 _ = _; simp (disch := decide) only [above, below, Nat.reduceSub, BitVec.extractLsb'_eq_self, top]
  rw [opcodeOf_field, op]
  simp [decodeAt, decodeAt1, m0, fd, fa, fb, ff, fh]

theorem Encoding.fabsneg (d : BitVec 6) (a : BitVec 6) (f : BitVec 3) (h : BitVec 1) : Encoding.Statement (.fabsneg d a f h) := by
  intro w hw
  have op : fld w 24 8 = 0x1d := by
    cases hw; show BitVec.extractLsb' (n := 8+6+6+6+3+1+1+1) 24 8 _ = _; simp (disch := decide) only [above, below, Nat.reduceSub, BitVec.extractLsb'_eq_self, top]; try rfl
  have m0 : w &&& 0xFC5#32 = 0x0#32 := by
    cases hw; show HAnd.hAnd (α := BitVec (8+6+6+6+3+1+1+1)) _ (0x0#8 ++ 0x0#6 ++ 0x0#6 ++ 0x3F#6 ++ 0x0#3 ++ 0x1#1 ++ 0x0#1 ++ 0x1#1) = _
    simp only [BitVec.and_append, BitVec.and_zero]; rfl
  have fd : fld w 18 6 = d := by
    cases hw; show BitVec.extractLsb' (n := 8+6+6+6+3+1+1+1) 18 6 _ = _; simp (disch := decide) only [above, below, Nat.reduceSub, BitVec.extractLsb'_eq_self, top]
  have fa : fld w 12 6 = a := by
    cases hw; show BitVec.extractLsb' (n := 8+6+6+6+3+1+1+1) 12 6 _ = _; simp (disch := decide) only [above, below, Nat.reduceSub, BitVec.extractLsb'_eq_self, top]
  have ff : fld w 3 3 = f := by
    cases hw; show BitVec.extractLsb' (n := 8+6+6+6+3+1+1+1) 3 3 _ = _; simp (disch := decide) only [above, below, Nat.reduceSub, BitVec.extractLsb'_eq_self, top]
  have fh : fld w 1 1 = h := by
    cases hw; show BitVec.extractLsb' (n := 8+6+6+6+3+1+1+1) 1 1 _ = _; simp (disch := decide) only [above, below, Nat.reduceSub, BitVec.extractLsb'_eq_self, top]
  rw [opcodeOf_field, op]
  simp [decodeAt, decodeAt1, m0, fd, fa, ff, fh]

theorem Encoding.fclass (d : BitVec 6) (a : BitVec 6) (f : BitVec 3) (h : BitVec 1) : Encoding.Statement (.fclass d a f h) := by
  intro w hw
  have op : fld w 24 8 = 0x1e := by
    cases hw; show BitVec.extractLsb' (n := 8+6+6+6+3+1+1+1) 24 8 _ = _; simp (disch := decide) only [above, below, Nat.reduceSub, BitVec.extractLsb'_eq_self, top]; try rfl
  have m0 : w &&& 0xFC5#32 = 0x0#32 := by
    cases hw; show HAnd.hAnd (α := BitVec (8+6+6+6+3+1+1+1)) _ (0x0#8 ++ 0x0#6 ++ 0x0#6 ++ 0x3F#6 ++ 0x0#3 ++ 0x1#1 ++ 0x0#1 ++ 0x1#1) = _
    simp only [BitVec.and_append, BitVec.and_zero]; rfl
  have fd : fld w 18 6 = d := by
    cases hw; show BitVec.extractLsb' (n := 8+6+6+6+3+1+1+1) 18 6 _ = _; simp (disch := decide) only [above, below, Nat.reduceSub, BitVec.extractLsb'_eq_self, top]
  have fa : fld w 12 6 = a := by
    cases hw; show BitVec.extractLsb' (n := 8+6+6+6+3+1+1+1) 12 6 _ = _; simp (disch := decide) only [above, below, Nat.reduceSub, BitVec.extractLsb'_eq_self, top]
  have ff : fld w 3 3 = f := by
    cases hw; show BitVec.extractLsb' (n := 8+6+6+6+3+1+1+1) 3 3 _ = _; simp (disch := decide) only [above, below, Nat.reduceSub, BitVec.extractLsb'_eq_self, top]
  have fh : fld w 1 1 = h := by
    cases hw; show BitVec.extractLsb' (n := 8+6+6+6+3+1+1+1) 1 1 _ = _; simp (disch := decide) only [above, below, Nat.reduceSub, BitVec.extractLsb'_eq_self, top]
  rw [opcodeOf_field, op]
  simp [decodeAt, decodeAt1, m0, fd, fa, ff, fh]

theorem Encoding.frnd (d : BitVec 6) (a : BitVec 6) (f : BitVec 3) (h : BitVec 1) : Encoding.Statement (.frnd d a f h) := by
  intro w hw
  have op : fld w 24 8 = 0x1f := by
    cases hw; show BitVec.extractLsb' (n := 8+6+6+6+3+1+1+1) 24 8 _ = _; simp (disch := decide) only [above, below, Nat.reduceSub, BitVec.extractLsb'_eq_self, top]; try rfl
  have m0 : w &&& 0xFC5#32 = 0x0#32 := by
    cases hw; show HAnd.hAnd (α := BitVec (8+6+6+6+3+1+1+1)) _ (0x0#8 ++ 0x0#6 ++ 0x0#6 ++ 0x3F#6 ++ 0x0#3 ++ 0x1#1 ++ 0x0#1 ++ 0x1#1) = _
    simp only [BitVec.and_append, BitVec.and_zero]; rfl
  have fd : fld w 18 6 = d := by
    cases hw; show BitVec.extractLsb' (n := 8+6+6+6+3+1+1+1) 18 6 _ = _; simp (disch := decide) only [above, below, Nat.reduceSub, BitVec.extractLsb'_eq_self, top]
  have fa : fld w 12 6 = a := by
    cases hw; show BitVec.extractLsb' (n := 8+6+6+6+3+1+1+1) 12 6 _ = _; simp (disch := decide) only [above, below, Nat.reduceSub, BitVec.extractLsb'_eq_self, top]
  have ff : fld w 3 3 = f := by
    cases hw; show BitVec.extractLsb' (n := 8+6+6+6+3+1+1+1) 3 3 _ = _; simp (disch := decide) only [above, below, Nat.reduceSub, BitVec.extractLsb'_eq_self, top]
  have fh : fld w 1 1 = h := by
    cases hw; show BitVec.extractLsb' (n := 8+6+6+6+3+1+1+1) 1 1 _ = _; simp (disch := decide) only [above, below, Nat.reduceSub, BitVec.extractLsb'_eq_self, top]
  rw [opcodeOf_field, op]
  simp [decodeAt, decodeAt1, m0, fd, fa, ff, fh]

theorem Encoding.cvt (d : BitVec 6) (a : BitVec 6) (f : BitVec 6) (t : BitVec 6) : Encoding.Statement (.cvt d a f t) := by
  intro w hw
  have op : fld w 24 8 = 0x20 := by
    cases hw; show BitVec.extractLsb' (n := 8+6+6+6+6) 24 8 _ = _; simp (disch := decide) only [above, below, Nat.reduceSub, BitVec.extractLsb'_eq_self, top]; try rfl
  have fd : fld w 18 6 = d := by
    cases hw; show BitVec.extractLsb' (n := 8+6+6+6+6) 18 6 _ = _; simp (disch := decide) only [above, below, Nat.reduceSub, BitVec.extractLsb'_eq_self, top]
  have fa : fld w 12 6 = a := by
    cases hw; show BitVec.extractLsb' (n := 8+6+6+6+6) 12 6 _ = _; simp (disch := decide) only [above, below, Nat.reduceSub, BitVec.extractLsb'_eq_self, top]
  have ff : fld w 6 6 = f := by
    cases hw; show BitVec.extractLsb' (n := 8+6+6+6+6) 6 6 _ = _; simp (disch := decide) only [above, below, Nat.reduceSub, BitVec.extractLsb'_eq_self, top]
  have ft : fld w 0 6 = t := by
    cases hw; show BitVec.extractLsb' (n := 8+6+6+6+6) 0 6 _ = _; simp (disch := decide) only [above, below, Nat.reduceSub, BitVec.extractLsb'_eq_self, top]
  rw [opcodeOf_field, op]
  simp [decodeAt, decodeAt2, fd, fa, ff, ft]

theorem Encoding.fdiv (d : BitVec 6) (a : BitVec 6) (b : BitVec 6) (f : BitVec 3) (h : BitVec 2) : Encoding.Statement (.fdiv d a b f h) := by
  intro w hw
  have op : fld w 24 8 = 0x21 := by
    cases hw; show BitVec.extractLsb' (n := 8+6+6+6+3+2+1) 24 8 _ = _; simp (disch := decide) only [above, below, Nat.reduceSub, BitVec.extractLsb'_eq_self, top]; try rfl
  have m0 : w &&& 0x1#32 = 0x0#32 := by
    cases hw; show HAnd.hAnd (α := BitVec (8+6+6+6+3+2+1)) _ (0x0#8 ++ 0x0#6 ++ 0x0#6 ++ 0x0#6 ++ 0x0#3 ++ 0x0#2 ++ 0x1#1) = _
    simp only [BitVec.and_append, BitVec.and_zero]; rfl
  have fd : fld w 18 6 = d := by
    cases hw; show BitVec.extractLsb' (n := 8+6+6+6+3+2+1) 18 6 _ = _; simp (disch := decide) only [above, below, Nat.reduceSub, BitVec.extractLsb'_eq_self, top]
  have fa : fld w 12 6 = a := by
    cases hw; show BitVec.extractLsb' (n := 8+6+6+6+3+2+1) 12 6 _ = _; simp (disch := decide) only [above, below, Nat.reduceSub, BitVec.extractLsb'_eq_self, top]
  have fb : fld w 6 6 = b := by
    cases hw; show BitVec.extractLsb' (n := 8+6+6+6+3+2+1) 6 6 _ = _; simp (disch := decide) only [above, below, Nat.reduceSub, BitVec.extractLsb'_eq_self, top]
  have ff : fld w 3 3 = f := by
    cases hw; show BitVec.extractLsb' (n := 8+6+6+6+3+2+1) 3 3 _ = _; simp (disch := decide) only [above, below, Nat.reduceSub, BitVec.extractLsb'_eq_self, top]
  have fh : fld w 1 2 = h := by
    cases hw; show BitVec.extractLsb' (n := 8+6+6+6+3+2+1) 1 2 _ = _; simp (disch := decide) only [above, below, Nat.reduceSub, BitVec.extractLsb'_eq_self, top]
  rw [opcodeOf_field, op]
  simp [decodeAt, decodeAt2, m0, fd, fa, fb, ff, fh]

theorem Encoding.sfu (d : BitVec 6) (a : BitVec 6) (f : BitVec 3) (h : BitVec 1) : Encoding.Statement (.sfu d a f h) := by
  intro w hw
  have op : fld w 24 8 = 0x22 := by
    cases hw; show BitVec.extractLsb' (n := 8+6+6+6+3+1+1+1) 24 8 _ = _; simp (disch := decide) only [above, below, Nat.reduceSub, BitVec.extractLsb'_eq_self, top]; try rfl
  have m0 : w &&& 0xFC5#32 = 0x0#32 := by
    cases hw; show HAnd.hAnd (α := BitVec (8+6+6+6+3+1+1+1)) _ (0x0#8 ++ 0x0#6 ++ 0x0#6 ++ 0x3F#6 ++ 0x0#3 ++ 0x1#1 ++ 0x0#1 ++ 0x1#1) = _
    simp only [BitVec.and_append, BitVec.and_zero]; rfl
  have fd : fld w 18 6 = d := by
    cases hw; show BitVec.extractLsb' (n := 8+6+6+6+3+1+1+1) 18 6 _ = _; simp (disch := decide) only [above, below, Nat.reduceSub, BitVec.extractLsb'_eq_self, top]
  have fa : fld w 12 6 = a := by
    cases hw; show BitVec.extractLsb' (n := 8+6+6+6+3+1+1+1) 12 6 _ = _; simp (disch := decide) only [above, below, Nat.reduceSub, BitVec.extractLsb'_eq_self, top]
  have ff : fld w 3 3 = f := by
    cases hw; show BitVec.extractLsb' (n := 8+6+6+6+3+1+1+1) 3 3 _ = _; simp (disch := decide) only [above, below, Nat.reduceSub, BitVec.extractLsb'_eq_self, top]
  have fh : fld w 1 1 = h := by
    cases hw; show BitVec.extractLsb' (n := 8+6+6+6+3+1+1+1) 1 1 _ = _; simp (disch := decide) only [above, below, Nat.reduceSub, BitVec.extractLsb'_eq_self, top]
  rw [opcodeOf_field, op]
  simp [decodeAt, decodeAt2, m0, fd, fa, ff, fh]

theorem Encoding.sfd (d : BitVec 6) (a : BitVec 6) (f : BitVec 3) (h : BitVec 1) : Encoding.Statement (.sfd d a f h) := by
  intro w hw
  have op : fld w 24 8 = 0x23 := by
    cases hw; show BitVec.extractLsb' (n := 8+6+6+6+3+1+1+1) 24 8 _ = _; simp (disch := decide) only [above, below, Nat.reduceSub, BitVec.extractLsb'_eq_self, top]; try rfl
  have m0 : w &&& 0xFC5#32 = 0x0#32 := by
    cases hw; show HAnd.hAnd (α := BitVec (8+6+6+6+3+1+1+1)) _ (0x0#8 ++ 0x0#6 ++ 0x0#6 ++ 0x3F#6 ++ 0x0#3 ++ 0x1#1 ++ 0x0#1 ++ 0x1#1) = _
    simp only [BitVec.and_append, BitVec.and_zero]; rfl
  have fd : fld w 18 6 = d := by
    cases hw; show BitVec.extractLsb' (n := 8+6+6+6+3+1+1+1) 18 6 _ = _; simp (disch := decide) only [above, below, Nat.reduceSub, BitVec.extractLsb'_eq_self, top]
  have fa : fld w 12 6 = a := by
    cases hw; show BitVec.extractLsb' (n := 8+6+6+6+3+1+1+1) 12 6 _ = _; simp (disch := decide) only [above, below, Nat.reduceSub, BitVec.extractLsb'_eq_self, top]
  have ff : fld w 3 3 = f := by
    cases hw; show BitVec.extractLsb' (n := 8+6+6+6+3+1+1+1) 3 3 _ = _; simp (disch := decide) only [above, below, Nat.reduceSub, BitVec.extractLsb'_eq_self, top]
  have fh : fld w 1 1 = h := by
    cases hw; show BitVec.extractLsb' (n := 8+6+6+6+3+1+1+1) 1 1 _ = _; simp (disch := decide) only [above, below, Nat.reduceSub, BitVec.extractLsb'_eq_self, top]
  rw [opcodeOf_field, op]
  simp [decodeAt, decodeAt2, m0, fd, fa, ff, fh]

theorem Encoding.lgmul (d : BitVec 6) (a : BitVec 6) (b : BitVec 6) (h : BitVec 2) : Encoding.Statement (.lgmul d a b h) := by
  intro w hw
  have op : fld w 24 8 = 0x24 := by
    cases hw; show BitVec.extractLsb' (n := 8+6+6+6+3+2+1) 24 8 _ = _; simp (disch := decide) only [above, below, Nat.reduceSub, BitVec.extractLsb'_eq_self, top]; try rfl
  have m0 : w &&& 0x39#32 = 0x0#32 := by
    cases hw; show HAnd.hAnd (α := BitVec (8+6+6+6+3+2+1)) _ (0x0#8 ++ 0x0#6 ++ 0x0#6 ++ 0x0#6 ++ 0x7#3 ++ 0x0#2 ++ 0x1#1) = _
    simp only [BitVec.and_append, BitVec.and_zero]; rfl
  have fd : fld w 18 6 = d := by
    cases hw; show BitVec.extractLsb' (n := 8+6+6+6+3+2+1) 18 6 _ = _; simp (disch := decide) only [above, below, Nat.reduceSub, BitVec.extractLsb'_eq_self, top]
  have fa : fld w 12 6 = a := by
    cases hw; show BitVec.extractLsb' (n := 8+6+6+6+3+2+1) 12 6 _ = _; simp (disch := decide) only [above, below, Nat.reduceSub, BitVec.extractLsb'_eq_self, top]
  have fb : fld w 6 6 = b := by
    cases hw; show BitVec.extractLsb' (n := 8+6+6+6+3+2+1) 6 6 _ = _; simp (disch := decide) only [above, below, Nat.reduceSub, BitVec.extractLsb'_eq_self, top]
  have fh : fld w 1 2 = h := by
    cases hw; show BitVec.extractLsb' (n := 8+6+6+6+3+2+1) 1 2 _ = _; simp (disch := decide) only [above, below, Nat.reduceSub, BitVec.extractLsb'_eq_self, top]
  rw [opcodeOf_field, op]
  simp [decodeAt, decodeAt2, m0, fd, fa, fb, fh]

theorem Encoding.lgdot (d : BitVec 6) (a : BitVec 6) (b : BitVec 6) (h : BitVec 2) : Encoding.Statement (.lgdot d a b h) := by
  intro w hw
  have op : fld w 24 8 = 0x25 := by
    cases hw; show BitVec.extractLsb' (n := 8+6+6+6+3+2+1) 24 8 _ = _; simp (disch := decide) only [above, below, Nat.reduceSub, BitVec.extractLsb'_eq_self, top]; try rfl
  have m0 : w &&& 0x39#32 = 0x0#32 := by
    cases hw; show HAnd.hAnd (α := BitVec (8+6+6+6+3+2+1)) _ (0x0#8 ++ 0x0#6 ++ 0x0#6 ++ 0x0#6 ++ 0x7#3 ++ 0x0#2 ++ 0x1#1) = _
    simp only [BitVec.and_append, BitVec.and_zero]; rfl
  have fd : fld w 18 6 = d := by
    cases hw; show BitVec.extractLsb' (n := 8+6+6+6+3+2+1) 18 6 _ = _; simp (disch := decide) only [above, below, Nat.reduceSub, BitVec.extractLsb'_eq_self, top]
  have fa : fld w 12 6 = a := by
    cases hw; show BitVec.extractLsb' (n := 8+6+6+6+3+2+1) 12 6 _ = _; simp (disch := decide) only [above, below, Nat.reduceSub, BitVec.extractLsb'_eq_self, top]
  have fb : fld w 6 6 = b := by
    cases hw; show BitVec.extractLsb' (n := 8+6+6+6+3+2+1) 6 6 _ = _; simp (disch := decide) only [above, below, Nat.reduceSub, BitVec.extractLsb'_eq_self, top]
  have fh : fld w 1 2 = h := by
    cases hw; show BitVec.extractLsb' (n := 8+6+6+6+3+2+1) 1 2 _ = _; simp (disch := decide) only [above, below, Nat.reduceSub, BitVec.extractLsb'_eq_self, top]
  rw [opcodeOf_field, op]
  simp [decodeAt, decodeAt2, m0, fd, fa, fb, fh]

theorem Encoding.fscl (d : BitVec 6) (a : BitVec 6) (b : BitVec 6) (f : BitVec 3) (h : BitVec 2) : Encoding.Statement (.fscl d a b f h) := by
  intro w hw
  have op : fld w 24 8 = 0x26 := by
    cases hw; show BitVec.extractLsb' (n := 8+6+6+6+3+2+1) 24 8 _ = _; simp (disch := decide) only [above, below, Nat.reduceSub, BitVec.extractLsb'_eq_self, top]; try rfl
  have m0 : w &&& 0x1#32 = 0x0#32 := by
    cases hw; show HAnd.hAnd (α := BitVec (8+6+6+6+3+2+1)) _ (0x0#8 ++ 0x0#6 ++ 0x0#6 ++ 0x0#6 ++ 0x0#3 ++ 0x0#2 ++ 0x1#1) = _
    simp only [BitVec.and_append, BitVec.and_zero]; rfl
  have fd : fld w 18 6 = d := by
    cases hw; show BitVec.extractLsb' (n := 8+6+6+6+3+2+1) 18 6 _ = _; simp (disch := decide) only [above, below, Nat.reduceSub, BitVec.extractLsb'_eq_self, top]
  have fa : fld w 12 6 = a := by
    cases hw; show BitVec.extractLsb' (n := 8+6+6+6+3+2+1) 12 6 _ = _; simp (disch := decide) only [above, below, Nat.reduceSub, BitVec.extractLsb'_eq_self, top]
  have fb : fld w 6 6 = b := by
    cases hw; show BitVec.extractLsb' (n := 8+6+6+6+3+2+1) 6 6 _ = _; simp (disch := decide) only [above, below, Nat.reduceSub, BitVec.extractLsb'_eq_self, top]
  have ff : fld w 3 3 = f := by
    cases hw; show BitVec.extractLsb' (n := 8+6+6+6+3+2+1) 3 3 _ = _; simp (disch := decide) only [above, below, Nat.reduceSub, BitVec.extractLsb'_eq_self, top]
  have fh : fld w 1 2 = h := by
    cases hw; show BitVec.extractLsb' (n := 8+6+6+6+3+2+1) 1 2 _ = _; simp (disch := decide) only [above, below, Nat.reduceSub, BitVec.extractLsb'_eq_self, top]
  rw [opcodeOf_field, op]
  simp [decodeAt, decodeAt2, m0, fd, fa, fb, ff, fh]

theorem Encoding.smxa (d : BitVec 6) (a : BitVec 6) (h : BitVec 1) : Encoding.Statement (.smxa d a h) := by
  intro w hw
  have op : fld w 24 8 = 0x27 := by
    cases hw; show BitVec.extractLsb' (n := 8+6+6+10+1+1) 24 8 _ = _; simp (disch := decide) only [above, below, Nat.reduceSub, BitVec.extractLsb'_eq_self, top]; try rfl
  have m0 : w &&& 0xFFD#32 = 0x0#32 := by
    cases hw; show HAnd.hAnd (α := BitVec (8+6+6+10+1+1)) _ (0x0#8 ++ 0x0#6 ++ 0x0#6 ++ 0x3FF#10 ++ 0x0#1 ++ 0x1#1) = _
    simp only [BitVec.and_append, BitVec.and_zero]; rfl
  have fd : fld w 18 6 = d := by
    cases hw; show BitVec.extractLsb' (n := 8+6+6+10+1+1) 18 6 _ = _; simp (disch := decide) only [above, below, Nat.reduceSub, BitVec.extractLsb'_eq_self, top]
  have fa : fld w 12 6 = a := by
    cases hw; show BitVec.extractLsb' (n := 8+6+6+10+1+1) 12 6 _ = _; simp (disch := decide) only [above, below, Nat.reduceSub, BitVec.extractLsb'_eq_self, top]
  have fh : fld w 1 1 = h := by
    cases hw; show BitVec.extractLsb' (n := 8+6+6+10+1+1) 1 1 _ = _; simp (disch := decide) only [above, below, Nat.reduceSub, BitVec.extractLsb'_eq_self, top]
  rw [opcodeOf_field, op]
  simp [decodeAt, decodeAt2, m0, fd, fa, fh]

theorem Encoding.smxb (d : BitVec 6) (a : BitVec 6) (b : BitVec 6) (f : BitVec 3) (h : BitVec 2) : Encoding.Statement (.smxb d a b f h) := by
  intro w hw
  have op : fld w 24 8 = 0x28 := by
    cases hw; show BitVec.extractLsb' (n := 8+6+6+6+3+2+1) 24 8 _ = _; simp (disch := decide) only [above, below, Nat.reduceSub, BitVec.extractLsb'_eq_self, top]; try rfl
  have m0 : w &&& 0x1#32 = 0x0#32 := by
    cases hw; show HAnd.hAnd (α := BitVec (8+6+6+6+3+2+1)) _ (0x0#8 ++ 0x0#6 ++ 0x0#6 ++ 0x0#6 ++ 0x0#3 ++ 0x0#2 ++ 0x1#1) = _
    simp only [BitVec.and_append, BitVec.and_zero]; rfl
  have fd : fld w 18 6 = d := by
    cases hw; show BitVec.extractLsb' (n := 8+6+6+6+3+2+1) 18 6 _ = _; simp (disch := decide) only [above, below, Nat.reduceSub, BitVec.extractLsb'_eq_self, top]
  have fa : fld w 12 6 = a := by
    cases hw; show BitVec.extractLsb' (n := 8+6+6+6+3+2+1) 12 6 _ = _; simp (disch := decide) only [above, below, Nat.reduceSub, BitVec.extractLsb'_eq_self, top]
  have fb : fld w 6 6 = b := by
    cases hw; show BitVec.extractLsb' (n := 8+6+6+6+3+2+1) 6 6 _ = _; simp (disch := decide) only [above, below, Nat.reduceSub, BitVec.extractLsb'_eq_self, top]
  have ff : fld w 3 3 = f := by
    cases hw; show BitVec.extractLsb' (n := 8+6+6+6+3+2+1) 3 3 _ = _; simp (disch := decide) only [above, below, Nat.reduceSub, BitVec.extractLsb'_eq_self, top]
  have fh : fld w 1 2 = h := by
    cases hw; show BitVec.extractLsb' (n := 8+6+6+6+3+2+1) 1 2 _ = _; simp (disch := decide) only [above, below, Nat.reduceSub, BitVec.extractLsb'_eq_self, top]
  rw [opcodeOf_field, op]
  simp [decodeAt, decodeAt2, m0, fd, fa, fb, ff, fh]

theorem Encoding.tagset (d : BitVec 6) (a : BitVec 6) (t : BitVec 4) : Encoding.Statement (.tagset d a t) := by
  intro w hw
  have op : fld w 24 8 = 0x29 := by
    cases hw; show BitVec.extractLsb' (n := 8+6+6+8+4) 24 8 _ = _; simp (disch := decide) only [above, below, Nat.reduceSub, BitVec.extractLsb'_eq_self, top]; try rfl
  have m0 : w &&& 0xFF0#32 = 0x0#32 := by
    cases hw; show HAnd.hAnd (α := BitVec (8+6+6+8+4)) _ (0x0#8 ++ 0x0#6 ++ 0x0#6 ++ 0xFF#8 ++ 0x0#4) = _
    simp only [BitVec.and_append, BitVec.and_zero]; rfl
  have fd : fld w 18 6 = d := by
    cases hw; show BitVec.extractLsb' (n := 8+6+6+8+4) 18 6 _ = _; simp (disch := decide) only [above, below, Nat.reduceSub, BitVec.extractLsb'_eq_self, top]
  have fa : fld w 12 6 = a := by
    cases hw; show BitVec.extractLsb' (n := 8+6+6+8+4) 12 6 _ = _; simp (disch := decide) only [above, below, Nat.reduceSub, BitVec.extractLsb'_eq_self, top]
  have ft : fld w 0 4 = t := by
    cases hw; show BitVec.extractLsb' (n := 8+6+6+8+4) 0 4 _ = _; simp (disch := decide) only [above, below, Nat.reduceSub, BitVec.extractLsb'_eq_self, top]
  rw [opcodeOf_field, op]
  simp [decodeAt, decodeAt2, m0, fd, fa, ft]

theorem Encoding.tagget (d : BitVec 6) (a : BitVec 6) (h : BitVec 1) : Encoding.Statement (.tagget d a h) := by
  intro w hw
  have op : fld w 24 8 = 0x2a := by
    cases hw; show BitVec.extractLsb' (n := 8+6+6+10+1+1) 24 8 _ = _; simp (disch := decide) only [above, below, Nat.reduceSub, BitVec.extractLsb'_eq_self, top]; try rfl
  have m0 : w &&& 0xFFD#32 = 0x0#32 := by
    cases hw; show HAnd.hAnd (α := BitVec (8+6+6+10+1+1)) _ (0x0#8 ++ 0x0#6 ++ 0x0#6 ++ 0x3FF#10 ++ 0x0#1 ++ 0x1#1) = _
    simp only [BitVec.and_append, BitVec.and_zero]; rfl
  have fd : fld w 18 6 = d := by
    cases hw; show BitVec.extractLsb' (n := 8+6+6+10+1+1) 18 6 _ = _; simp (disch := decide) only [above, below, Nat.reduceSub, BitVec.extractLsb'_eq_self, top]
  have fa : fld w 12 6 = a := by
    cases hw; show BitVec.extractLsb' (n := 8+6+6+10+1+1) 12 6 _ = _; simp (disch := decide) only [above, below, Nat.reduceSub, BitVec.extractLsb'_eq_self, top]
  have fh : fld w 1 1 = h := by
    cases hw; show BitVec.extractLsb' (n := 8+6+6+10+1+1) 1 1 _ = _; simp (disch := decide) only [above, below, Nat.reduceSub, BitVec.extractLsb'_eq_self, top]
  rw [opcodeOf_field, op]
  simp [decodeAt, decodeAt2, m0, fd, fa, fh]

theorem Encoding.shfl (d : BitVec 6) (a : BitVec 6) (b : BitVec 6) (f : BitVec 3) (h : BitVec 2) : Encoding.Statement (.shfl d a b f h) := by
  intro w hw
  have op : fld w 24 8 = 0x30 := by
    cases hw; show BitVec.extractLsb' (n := 8+6+6+6+3+2+1) 24 8 _ = _; simp (disch := decide) only [above, below, Nat.reduceSub, BitVec.extractLsb'_eq_self, top]; try rfl
  have m0 : w &&& 0x1#32 = 0x0#32 := by
    cases hw; show HAnd.hAnd (α := BitVec (8+6+6+6+3+2+1)) _ (0x0#8 ++ 0x0#6 ++ 0x0#6 ++ 0x0#6 ++ 0x0#3 ++ 0x0#2 ++ 0x1#1) = _
    simp only [BitVec.and_append, BitVec.and_zero]; rfl
  have fd : fld w 18 6 = d := by
    cases hw; show BitVec.extractLsb' (n := 8+6+6+6+3+2+1) 18 6 _ = _; simp (disch := decide) only [above, below, Nat.reduceSub, BitVec.extractLsb'_eq_self, top]
  have fa : fld w 12 6 = a := by
    cases hw; show BitVec.extractLsb' (n := 8+6+6+6+3+2+1) 12 6 _ = _; simp (disch := decide) only [above, below, Nat.reduceSub, BitVec.extractLsb'_eq_self, top]
  have fb : fld w 6 6 = b := by
    cases hw; show BitVec.extractLsb' (n := 8+6+6+6+3+2+1) 6 6 _ = _; simp (disch := decide) only [above, below, Nat.reduceSub, BitVec.extractLsb'_eq_self, top]
  have ff : fld w 3 3 = f := by
    cases hw; show BitVec.extractLsb' (n := 8+6+6+6+3+2+1) 3 3 _ = _; simp (disch := decide) only [above, below, Nat.reduceSub, BitVec.extractLsb'_eq_self, top]
  have fh : fld w 1 2 = h := by
    cases hw; show BitVec.extractLsb' (n := 8+6+6+6+3+2+1) 1 2 _ = _; simp (disch := decide) only [above, below, Nat.reduceSub, BitVec.extractLsb'_eq_self, top]
  rw [opcodeOf_field, op]
  simp [decodeAt, decodeAt3, m0, fd, fa, fb, ff, fh]

theorem Encoding.ballot (m : BitVec 3) (a : BitVec 6) (h : BitVec 1) : Encoding.Statement (.ballot m a h) := by
  intro w hw
  have op : fld w 24 8 = 0x31 := by
    cases hw; show BitVec.extractLsb' (n := 8+3+3+6+10+1+1) 24 8 _ = _; simp (disch := decide) only [above, below, Nat.reduceSub, BitVec.extractLsb'_eq_self, top]; try rfl
  have m0 : w &&& 0x1C0FFD#32 = 0x0#32 := by
    cases hw; show HAnd.hAnd (α := BitVec (8+3+3+6+10+1+1)) _ (0x0#8 ++ 0x0#3 ++ 0x7#3 ++ 0x0#6 ++ 0x3FF#10 ++ 0x0#1 ++ 0x1#1) = _
    simp only [BitVec.and_append, BitVec.and_zero]; rfl
  have fm : fld w 21 3 = m := by
    cases hw; show BitVec.extractLsb' (n := 8+3+3+6+10+1+1) 21 3 _ = _; simp (disch := decide) only [above, below, Nat.reduceSub, BitVec.extractLsb'_eq_self, top]
  have fa : fld w 12 6 = a := by
    cases hw; show BitVec.extractLsb' (n := 8+3+3+6+10+1+1) 12 6 _ = _; simp (disch := decide) only [above, below, Nat.reduceSub, BitVec.extractLsb'_eq_self, top]
  have fh : fld w 1 1 = h := by
    cases hw; show BitVec.extractLsb' (n := 8+3+3+6+10+1+1) 1 1 _ = _; simp (disch := decide) only [above, below, Nat.reduceSub, BitVec.extractLsb'_eq_self, top]
  rw [opcodeOf_field, op]
  simp [decodeAt, decodeAt3, m0, fm, fa, fh]

theorem Encoding.red (d : BitVec 6) (a : BitVec 6) (f : BitVec 3) (h : BitVec 1) : Encoding.Statement (.red d a f h) := by
  intro w hw
  have op : fld w 24 8 = 0x32 := by
    cases hw; show BitVec.extractLsb' (n := 8+6+6+6+3+1+1+1) 24 8 _ = _; simp (disch := decide) only [above, below, Nat.reduceSub, BitVec.extractLsb'_eq_self, top]; try rfl
  have m0 : w &&& 0xFC5#32 = 0x0#32 := by
    cases hw; show HAnd.hAnd (α := BitVec (8+6+6+6+3+1+1+1)) _ (0x0#8 ++ 0x0#6 ++ 0x0#6 ++ 0x3F#6 ++ 0x0#3 ++ 0x1#1 ++ 0x0#1 ++ 0x1#1) = _
    simp only [BitVec.and_append, BitVec.and_zero]; rfl
  have fd : fld w 18 6 = d := by
    cases hw; show BitVec.extractLsb' (n := 8+6+6+6+3+1+1+1) 18 6 _ = _; simp (disch := decide) only [above, below, Nat.reduceSub, BitVec.extractLsb'_eq_self, top]
  have fa : fld w 12 6 = a := by
    cases hw; show BitVec.extractLsb' (n := 8+6+6+6+3+1+1+1) 12 6 _ = _; simp (disch := decide) only [above, below, Nat.reduceSub, BitVec.extractLsb'_eq_self, top]
  have ff : fld w 3 3 = f := by
    cases hw; show BitVec.extractLsb' (n := 8+6+6+6+3+1+1+1) 3 3 _ = _; simp (disch := decide) only [above, below, Nat.reduceSub, BitVec.extractLsb'_eq_self, top]
  have fh : fld w 1 1 = h := by
    cases hw; show BitVec.extractLsb' (n := 8+6+6+6+3+1+1+1) 1 1 _ = _; simp (disch := decide) only [above, below, Nat.reduceSub, BitVec.extractLsb'_eq_self, top]
  rw [opcodeOf_field, op]
  simp [decodeAt, decodeAt3, m0, fd, fa, ff, fh]

theorem Encoding.scan (d : BitVec 6) (a : BitVec 6) (f : BitVec 3) (h : BitVec 1) : Encoding.Statement (.scan d a f h) := by
  intro w hw
  have op : fld w 24 8 = 0x33 := by
    cases hw; show BitVec.extractLsb' (n := 8+6+6+6+3+1+1+1) 24 8 _ = _; simp (disch := decide) only [above, below, Nat.reduceSub, BitVec.extractLsb'_eq_self, top]; try rfl
  have m0 : w &&& 0xFC5#32 = 0x0#32 := by
    cases hw; show HAnd.hAnd (α := BitVec (8+6+6+6+3+1+1+1)) _ (0x0#8 ++ 0x0#6 ++ 0x0#6 ++ 0x3F#6 ++ 0x0#3 ++ 0x1#1 ++ 0x0#1 ++ 0x1#1) = _
    simp only [BitVec.and_append, BitVec.and_zero]; rfl
  have fd : fld w 18 6 = d := by
    cases hw; show BitVec.extractLsb' (n := 8+6+6+6+3+1+1+1) 18 6 _ = _; simp (disch := decide) only [above, below, Nat.reduceSub, BitVec.extractLsb'_eq_self, top]
  have fa : fld w 12 6 = a := by
    cases hw; show BitVec.extractLsb' (n := 8+6+6+6+3+1+1+1) 12 6 _ = _; simp (disch := decide) only [above, below, Nat.reduceSub, BitVec.extractLsb'_eq_self, top]
  have ff : fld w 3 3 = f := by
    cases hw; show BitVec.extractLsb' (n := 8+6+6+6+3+1+1+1) 3 3 _ = _; simp (disch := decide) only [above, below, Nat.reduceSub, BitVec.extractLsb'_eq_self, top]
  have fh : fld w 1 1 = h := by
    cases hw; show BitVec.extractLsb' (n := 8+6+6+6+3+1+1+1) 1 1 _ = _; simp (disch := decide) only [above, below, Nat.reduceSub, BitVec.extractLsb'_eq_self, top]
  rw [opcodeOf_field, op]
  simp [decodeAt, decodeAt3, m0, fd, fa, ff, fh]

theorem Encoding.elect (m : BitVec 3) : Encoding.Statement (.elect m) := by
  intro w hw
  have op : fld w 24 8 = 0x35 := by
    cases hw; show BitVec.extractLsb' (n := 8+3+21) 24 8 _ = _; simp (disch := decide) only [above, below, Nat.reduceSub, BitVec.extractLsb'_eq_self, top]; try rfl
  have m0 : w &&& 0x1FFFFF#32 = 0x0#32 := by
    cases hw; show HAnd.hAnd (α := BitVec (8+3+21)) _ (0x0#8 ++ 0x0#3 ++ 0x1FFFFF#21) = _
    simp only [BitVec.and_append, BitVec.and_zero]; rfl
  have fm : fld w 21 3 = m := by
    cases hw; show BitVec.extractLsb' (n := 8+3+21) 21 3 _ = _; simp (disch := decide) only [above, below, Nat.reduceSub, BitVec.extractLsb'_eq_self, top]
  rw [opcodeOf_field, op]
  simp [decodeAt, decodeAt3, m0, fm]

theorem Encoding.lvidx (d : BitVec 6) (k : BitVec 2) : Encoding.Statement (.lvidx d k) := by
  intro w hw
  have op : fld w 24 8 = 0x38 := by
    cases hw; show BitVec.extractLsb' (n := 8+6+16+2) 24 8 _ = _; simp (disch := decide) only [above, below, Nat.reduceSub, BitVec.extractLsb'_eq_self, top]; try rfl
  have m0 : w &&& 0x3FFFC#32 = 0x0#32 := by
    cases hw; show HAnd.hAnd (α := BitVec (8+6+16+2)) _ (0x0#8 ++ 0x0#6 ++ 0xFFFF#16 ++ 0x0#2) = _
    simp only [BitVec.and_append, BitVec.and_zero]; rfl
  have fd : fld w 18 6 = d := by
    cases hw; show BitVec.extractLsb' (n := 8+6+16+2) 18 6 _ = _; simp (disch := decide) only [above, below, Nat.reduceSub, BitVec.extractLsb'_eq_self, top]
  have fk : fld w 0 2 = k := by
    cases hw; show BitVec.extractLsb' (n := 8+6+16+2) 0 2 _ = _; simp (disch := decide) only [above, below, Nat.reduceSub, BitVec.extractLsb'_eq_self, top]
  rw [opcodeOf_field, op]
  simp [decodeAt, decodeAt3, m0, fd, fk]

theorem Encoding.lvext (d : BitVec 6) (k : BitVec 2) : Encoding.Statement (.lvext d k) := by
  intro w hw
  have op : fld w 24 8 = 0x39 := by
    cases hw; show BitVec.extractLsb' (n := 8+6+16+2) 24 8 _ = _; simp (disch := decide) only [above, below, Nat.reduceSub, BitVec.extractLsb'_eq_self, top]; try rfl
  have m0 : w &&& 0x3FFFC#32 = 0x0#32 := by
    cases hw; show HAnd.hAnd (α := BitVec (8+6+16+2)) _ (0x0#8 ++ 0x0#6 ++ 0xFFFF#16 ++ 0x0#2) = _
    simp only [BitVec.and_append, BitVec.and_zero]; rfl
  have fd : fld w 18 6 = d := by
    cases hw; show BitVec.extractLsb' (n := 8+6+16+2) 18 6 _ = _; simp (disch := decide) only [above, below, Nat.reduceSub, BitVec.extractLsb'_eq_self, top]
  have fk : fld w 0 2 = k := by
    cases hw; show BitVec.extractLsb' (n := 8+6+16+2) 0 2 _ = _; simp (disch := decide) only [above, below, Nat.reduceSub, BitVec.extractLsb'_eq_self, top]
  rw [opcodeOf_field, op]
  simp [decodeAt, decodeAt3, m0, fd, fk]

theorem Encoding.lvred (d : BitVec 6) (a : BitVec 6) (k : BitVec 2) (f : BitVec 3) (h : BitVec 1) : Encoding.Statement (.lvred d a k f h) := by
  intro w hw
  have op : fld w 24 8 = 0x3a := by
    cases hw; show BitVec.extractLsb' (n := 8+6+6+4+2+3+1+1+1) 24 8 _ = _; simp (disch := decide) only [above, below, Nat.reduceSub, BitVec.extractLsb'_eq_self, top]; try rfl
  have m0 : w &&& 0xF05#32 = 0x0#32 := by
    cases hw; show HAnd.hAnd (α := BitVec (8+6+6+4+2+3+1+1+1)) _ (0x0#8 ++ 0x0#6 ++ 0x0#6 ++ 0xF#4 ++ 0x0#2 ++ 0x0#3 ++ 0x1#1 ++ 0x0#1 ++ 0x1#1) = _
    simp only [BitVec.and_append, BitVec.and_zero]; rfl
  have fd : fld w 18 6 = d := by
    cases hw; show BitVec.extractLsb' (n := 8+6+6+4+2+3+1+1+1) 18 6 _ = _; simp (disch := decide) only [above, below, Nat.reduceSub, BitVec.extractLsb'_eq_self, top]
  have fa : fld w 12 6 = a := by
    cases hw; show BitVec.extractLsb' (n := 8+6+6+4+2+3+1+1+1) 12 6 _ = _; simp (disch := decide) only [above, below, Nat.reduceSub, BitVec.extractLsb'_eq_self, top]
  have fk : fld w 6 2 = k := by
    cases hw; show BitVec.extractLsb' (n := 8+6+6+4+2+3+1+1+1) 6 2 _ = _; simp (disch := decide) only [above, below, Nat.reduceSub, BitVec.extractLsb'_eq_self, top]
  have ff : fld w 3 3 = f := by
    cases hw; show BitVec.extractLsb' (n := 8+6+6+4+2+3+1+1+1) 3 3 _ = _; simp (disch := decide) only [above, below, Nat.reduceSub, BitVec.extractLsb'_eq_self, top]
  have fh : fld w 1 1 = h := by
    cases hw; show BitVec.extractLsb' (n := 8+6+6+4+2+3+1+1+1) 1 1 _ = _; simp (disch := decide) only [above, below, Nat.reduceSub, BitVec.extractLsb'_eq_self, top]
  rw [opcodeOf_field, op]
  simp [decodeAt, decodeAt3, m0, fd, fa, fk, ff, fh]

theorem Encoding.lvbar (k : BitVec 2) (o : BitVec 20) : Encoding.Statement (.lvbar k o) := by
  intro w hw
  have op : fld w 24 8 = 0x3b := by
    cases hw; show BitVec.extractLsb' (n := 8+2+2+20) 24 8 _ = _; simp (disch := decide) only [above, below, Nat.reduceSub, BitVec.extractLsb'_eq_self, top]; try rfl
  have m0 : w &&& 0x300000#32 = 0x0#32 := by
    cases hw; show HAnd.hAnd (α := BitVec (8+2+2+20)) _ (0x0#8 ++ 0x0#2 ++ 0x3#2 ++ 0x0#20) = _
    simp only [BitVec.and_append, BitVec.and_zero]; rfl
  have fk : fld w 22 2 = k := by
    cases hw; show BitVec.extractLsb' (n := 8+2+2+20) 22 2 _ = _; simp (disch := decide) only [above, below, Nat.reduceSub, BitVec.extractLsb'_eq_self, top]
  have fo : fld w 0 20 = o := by
    cases hw; show BitVec.extractLsb' (n := 8+2+2+20) 0 20 _ = _; simp (disch := decide) only [above, below, Nat.reduceSub, BitVec.extractLsb'_eq_self, top]
  rw [opcodeOf_field, op]
  simp [decodeAt, decodeAt3, m0, fk, fo]

theorem Encoding.lvend (k : BitVec 2) (o : BitVec 20) : Encoding.Statement (.lvend k o) := by
  intro w hw
  have op : fld w 24 8 = 0x3c := by
    cases hw; show BitVec.extractLsb' (n := 8+2+2+20) 24 8 _ = _; simp (disch := decide) only [above, below, Nat.reduceSub, BitVec.extractLsb'_eq_self, top]; try rfl
  have m0 : w &&& 0x300000#32 = 0x0#32 := by
    cases hw; show HAnd.hAnd (α := BitVec (8+2+2+20)) _ (0x0#8 ++ 0x0#2 ++ 0x3#2 ++ 0x0#20) = _
    simp only [BitVec.and_append, BitVec.and_zero]; rfl
  have fk : fld w 22 2 = k := by
    cases hw; show BitVec.extractLsb' (n := 8+2+2+20) 22 2 _ = _; simp (disch := decide) only [above, below, Nat.reduceSub, BitVec.extractLsb'_eq_self, top]
  have fo : fld w 0 20 = o := by
    cases hw; show BitVec.extractLsb' (n := 8+2+2+20) 0 20 _ = _; simp (disch := decide) only [above, below, Nat.reduceSub, BitVec.extractLsb'_eq_self, top]
  rw [opcodeOf_field, op]
  simp [decodeAt, decodeAt3, m0, fk, fo]

theorem Encoding.lvshare (d : BitVec 6) (n : BitVec 8) : Encoding.Statement (.lvshare d n) := by
  intro w hw
  have op : fld w 24 8 = 0x3d := by
    cases hw; show BitVec.extractLsb' (n := 8+6+10+8) 24 8 _ = _; simp (disch := decide) only [above, below, Nat.reduceSub, BitVec.extractLsb'_eq_self, top]; try rfl
  have m0 : w &&& 0x3FF00#32 = 0x0#32 := by
    cases hw; show HAnd.hAnd (α := BitVec (8+6+10+8)) _ (0x0#8 ++ 0x0#6 ++ 0x3FF#10 ++ 0x0#8) = _
    simp only [BitVec.and_append, BitVec.and_zero]; rfl
  have fd : fld w 18 6 = d := by
    cases hw; show BitVec.extractLsb' (n := 8+6+10+8) 18 6 _ = _; simp (disch := decide) only [above, below, Nat.reduceSub, BitVec.extractLsb'_eq_self, top]
  have fn : fld w 0 8 = n := by
    cases hw; show BitVec.extractLsb' (n := 8+6+10+8) 0 8 _ = _; simp (disch := decide) only [above, below, Nat.reduceSub, BitVec.extractLsb'_eq_self, top]
  rw [opcodeOf_field, op]
  simp [decodeAt, decodeAt3, m0, fd, fn]

theorem Encoding.lvcarry (d : BitVec 6) (k : BitVec 2) : Encoding.Statement (.lvcarry d k) := by
  intro w hw
  have op : fld w 24 8 = 0x3e := by
    cases hw; show BitVec.extractLsb' (n := 8+6+16+2) 24 8 _ = _; simp (disch := decide) only [above, below, Nat.reduceSub, BitVec.extractLsb'_eq_self, top]; try rfl
  have m0 : w &&& 0x3FFFC#32 = 0x0#32 := by
    cases hw; show HAnd.hAnd (α := BitVec (8+6+16+2)) _ (0x0#8 ++ 0x0#6 ++ 0xFFFF#16 ++ 0x0#2) = _
    simp only [BitVec.and_append, BitVec.and_zero]; rfl
  have fd : fld w 18 6 = d := by
    cases hw; show BitVec.extractLsb' (n := 8+6+16+2) 18 6 _ = _; simp (disch := decide) only [above, below, Nat.reduceSub, BitVec.extractLsb'_eq_self, top]
  have fk : fld w 0 2 = k := by
    cases hw; show BitVec.extractLsb' (n := 8+6+16+2) 0 2 _ = _; simp (disch := decide) only [above, below, Nat.reduceSub, BitVec.extractLsb'_eq_self, top]
  rw [opcodeOf_field, op]
  simp [decodeAt, decodeAt3, m0, fd, fk]

theorem Encoding.lvlead (m : BitVec 3) (k : BitVec 2) : Encoding.Statement (.lvlead m k) := by
  intro w hw
  have op : fld w 24 8 = 0x3f := by
    cases hw; show BitVec.extractLsb' (n := 8+3+19+2) 24 8 _ = _; simp (disch := decide) only [above, below, Nat.reduceSub, BitVec.extractLsb'_eq_self, top]; try rfl
  have m0 : w &&& 0x1FFFFC#32 = 0x0#32 := by
    cases hw; show HAnd.hAnd (α := BitVec (8+3+19+2)) _ (0x0#8 ++ 0x0#3 ++ 0x7FFFF#19 ++ 0x0#2) = _
    simp only [BitVec.and_append, BitVec.and_zero]; rfl
  have fm : fld w 21 3 = m := by
    cases hw; show BitVec.extractLsb' (n := 8+3+19+2) 21 3 _ = _; simp (disch := decide) only [above, below, Nat.reduceSub, BitVec.extractLsb'_eq_self, top]
  have fk : fld w 0 2 = k := by
    cases hw; show BitVec.extractLsb' (n := 8+3+19+2) 0 2 _ = _; simp (disch := decide) only [above, below, Nat.reduceSub, BitVec.extractLsb'_eq_self, top]
  rw [opcodeOf_field, op]
  simp [decodeAt, decodeAt3, m0, fm, fk]

theorem Encoding.br (m : BitVec 3) (s : BitVec 1) (o : BitVec 20) : Encoding.Statement (.br m s o) := by
  intro w hw
  have op : fld w 24 8 = 0x40 := by
    cases hw; show BitVec.extractLsb' (n := 8+3+1+20) 24 8 _ = _; simp (disch := decide) only [above, below, Nat.reduceSub, BitVec.extractLsb'_eq_self, top]; try rfl
  have fm : fld w 21 3 = m := by
    cases hw; show BitVec.extractLsb' (n := 8+3+1+20) 21 3 _ = _; simp (disch := decide) only [above, below, Nat.reduceSub, BitVec.extractLsb'_eq_self, top]
  have fs : fld w 20 1 = s := by
    cases hw; show BitVec.extractLsb' (n := 8+3+1+20) 20 1 _ = _; simp (disch := decide) only [above, below, Nat.reduceSub, BitVec.extractLsb'_eq_self, top]
  have fo : fld w 0 20 = o := by
    cases hw; show BitVec.extractLsb' (n := 8+3+1+20) 0 20 _ = _; simp (disch := decide) only [above, below, Nat.reduceSub, BitVec.extractLsb'_eq_self, top]
  rw [opcodeOf_field, op]
  simp [decodeAt, decodeAt4, fm, fs, fo]

theorem Encoding.call (m : BitVec 3) (s : BitVec 1) (o : BitVec 20) : Encoding.Statement (.call m s o) := by
  intro w hw
  have op : fld w 24 8 = 0x41 := by
    cases hw; show BitVec.extractLsb' (n := 8+3+1+20) 24 8 _ = _; simp (disch := decide) only [above, below, Nat.reduceSub, BitVec.extractLsb'_eq_self, top]; try rfl
  have fm : fld w 21 3 = m := by
    cases hw; show BitVec.extractLsb' (n := 8+3+1+20) 21 3 _ = _; simp (disch := decide) only [above, below, Nat.reduceSub, BitVec.extractLsb'_eq_self, top]
  have fs : fld w 20 1 = s := by
    cases hw; show BitVec.extractLsb' (n := 8+3+1+20) 20 1 _ = _; simp (disch := decide) only [above, below, Nat.reduceSub, BitVec.extractLsb'_eq_self, top]
  have fo : fld w 0 20 = o := by
    cases hw; show BitVec.extractLsb' (n := 8+3+1+20) 0 20 _ = _; simp (disch := decide) only [above, below, Nat.reduceSub, BitVec.extractLsb'_eq_self, top]
  rw [opcodeOf_field, op]
  simp [decodeAt, decodeAt4, fm, fs, fo]

theorem Encoding.jmp (a : BitVec 6) : Encoding.Statement (.jmp a) := by
  intro w hw
  have op : fld w 24 8 = 0x42 := by
    cases hw; show BitVec.extractLsb' (n := 14+6+12) 24 8 _ = _; simp (disch := decide) only [above, below, Nat.reduceSub, BitVec.extractLsb'_eq_self, top]; try rfl
  have m0 : w &&& 0xFC0FFF#32 = 0x0#32 := by
    cases hw; show HAnd.hAnd (α := BitVec (14+6+12)) _ (0x3F#14 ++ 0x0#6 ++ 0xFFF#12) = _
    simp only [BitVec.and_append, BitVec.and_zero]; rfl
  have fa : fld w 12 6 = a := by
    cases hw; show BitVec.extractLsb' (n := 14+6+12) 12 6 _ = _; simp (disch := decide) only [above, below, Nat.reduceSub, BitVec.extractLsb'_eq_self, top]
  rw [opcodeOf_field, op]
  simp [decodeAt, decodeAt4, m0, fa]

theorem Encoding.callr (a : BitVec 6) : Encoding.Statement (.callr a) := by
  intro w hw
  have op : fld w 24 8 = 0x43 := by
    cases hw; show BitVec.extractLsb' (n := 14+6+12) 24 8 _ = _; simp (disch := decide) only [above, below, Nat.reduceSub, BitVec.extractLsb'_eq_self, top]; try rfl
  have m0 : w &&& 0xFC0FFF#32 = 0x0#32 := by
    cases hw; show HAnd.hAnd (α := BitVec (14+6+12)) _ (0x3F#14 ++ 0x0#6 ++ 0xFFF#12) = _
    simp only [BitVec.and_append, BitVec.and_zero]; rfl
  have fa : fld w 12 6 = a := by
    cases hw; show BitVec.extractLsb' (n := 14+6+12) 12 6 _ = _; simp (disch := decide) only [above, below, Nat.reduceSub, BitVec.extractLsb'_eq_self, top]
  rw [opcodeOf_field, op]
  simp [decodeAt, decodeAt4, m0, fa]

theorem Encoding.ret : Encoding.Statement (.ret) := by
  intro w hw
  cases hw
  rfl

theorem Encoding.enter (o : BitVec 6) (n : BitVec 6) : Encoding.Statement (.enter o n) := by
  intro w hw
  have op : fld w 24 8 = 0x45 := by
    cases hw; show BitVec.extractLsb' (n := 20+6+6) 24 8 _ = _; simp (disch := decide) only [above, below, Nat.reduceSub, BitVec.extractLsb'_eq_self, top]; try rfl
  have m0 : w &&& 0xFFF000#32 = 0x0#32 := by
    cases hw; show HAnd.hAnd (α := BitVec (20+6+6)) _ (0xFFF#20 ++ 0x0#6 ++ 0x0#6) = _
    simp only [BitVec.and_append, BitVec.and_zero]; rfl
  have fo : fld w 6 6 = o := by
    cases hw; show BitVec.extractLsb' (n := 20+6+6) 6 6 _ = _; simp (disch := decide) only [above, below, Nat.reduceSub, BitVec.extractLsb'_eq_self, top]
  have fn : fld w 0 6 = n := by
    cases hw; show BitVec.extractLsb' (n := 20+6+6) 0 6 _ = _; simp (disch := decide) only [above, below, Nat.reduceSub, BitVec.extractLsb'_eq_self, top]
  rw [opcodeOf_field, op]
  simp [decodeAt, decodeAt4, m0, fo, fn]

theorem Encoding.exit : Encoding.Statement (.exit) := by
  intro w hw
  cases hw
  rfl

theorem Encoding.brw (m : BitVec 3) (s : BitVec 1) (o : BitVec 20) : Encoding.Statement (.brw m s o) := by
  intro w hw
  have op : fld w 24 8 = 0x48 := by
    cases hw; show BitVec.extractLsb' (n := 8+3+1+20) 24 8 _ = _; simp (disch := decide) only [above, below, Nat.reduceSub, BitVec.extractLsb'_eq_self, top]; try rfl
  have fm : fld w 21 3 = m := by
    cases hw; show BitVec.extractLsb' (n := 8+3+1+20) 21 3 _ = _; simp (disch := decide) only [above, below, Nat.reduceSub, BitVec.extractLsb'_eq_self, top]
  have fs : fld w 20 1 = s := by
    cases hw; show BitVec.extractLsb' (n := 8+3+1+20) 20 1 _ = _; simp (disch := decide) only [above, below, Nat.reduceSub, BitVec.extractLsb'_eq_self, top]
  have fo : fld w 0 20 = o := by
    cases hw; show BitVec.extractLsb' (n := 8+3+1+20) 0 20 _ = _; simp (disch := decide) only [above, below, Nat.reduceSub, BitVec.extractLsb'_eq_self, top]
  rw [opcodeOf_field, op]
  simp [decodeAt, decodeAt4, fm, fs, fo]

theorem Encoding.yield (h : BitVec 6) : Encoding.Statement (.yield h) := by
  intro w hw
  have op : fld w 24 8 = 0x49 := by
    cases hw; show BitVec.extractLsb' (n := 26+6) 24 8 _ = _; simp (disch := decide) only [above, below, Nat.reduceSub, BitVec.extractLsb'_eq_self, top]; try rfl
  have m0 : w &&& 0xFFFFC0#32 = 0x0#32 := by
    cases hw; show HAnd.hAnd (α := BitVec (26+6)) _ (0x3FFFF#26 ++ 0x0#6) = _
    simp only [BitVec.and_append, BitVec.and_zero]; rfl
  have fh : fld w 0 6 = h := by
    cases hw; show BitVec.extractLsb' (n := 26+6) 0 6 _ = _; simp (disch := decide) only [above, below, Nat.reduceSub, BitVec.extractLsb'_eq_self, top]
  rw [opcodeOf_field, op]
  simp [decodeAt, decodeAt4, m0, fh]

theorem Encoding.nop : Encoding.Statement (.nop) := by
  intro w hw
  cases hw
  rfl

theorem Encoding.mark (t : BitVec 12) : Encoding.Statement (.mark t) := by
  intro w hw
  have op : fld w 24 8 = 0x50 := by
    cases hw; show BitVec.extractLsb' (n := 20+12) 24 8 _ = _; simp (disch := decide) only [above, below, Nat.reduceSub, BitVec.extractLsb'_eq_self, top]; try rfl
  have m0 : w &&& 0xFFF000#32 = 0x0#32 := by
    cases hw; show HAnd.hAnd (α := BitVec (20+12)) _ (0xFFF#20 ++ 0x0#12) = _
    simp only [BitVec.and_append, BitVec.and_zero]; rfl
  have ft : fld w 0 12 = t := by
    cases hw; show BitVec.extractLsb' (n := 20+12) 0 12 _ = _; simp (disch := decide) only [above, below, Nat.reduceSub, BitVec.extractLsb'_eq_self, top]
  rw [opcodeOf_field, op]
  simp [decodeAt, decodeAt5, m0, ft]

theorem Encoding.cut (d : BitVec 6) (a : BitVec 6) (t : BitVec 12) : Encoding.Statement (.cut d a t) := by
  intro w hw
  have op : fld w 24 8 = 0x51 := by
    cases hw; show BitVec.extractLsb' (n := 8+6+6+12) 24 8 _ = _; simp (disch := decide) only [above, below, Nat.reduceSub, BitVec.extractLsb'_eq_self, top]; try rfl
  have fd : fld w 18 6 = d := by
    cases hw; show BitVec.extractLsb' (n := 8+6+6+12) 18 6 _ = _; simp (disch := decide) only [above, below, Nat.reduceSub, BitVec.extractLsb'_eq_self, top]
  have fa : fld w 12 6 = a := by
    cases hw; show BitVec.extractLsb' (n := 8+6+6+12) 12 6 _ = _; simp (disch := decide) only [above, below, Nat.reduceSub, BitVec.extractLsb'_eq_self, top]
  have ft : fld w 0 12 = t := by
    cases hw; show BitVec.extractLsb' (n := 8+6+6+12) 0 12 _ = _; simp (disch := decide) only [above, below, Nat.reduceSub, BitVec.extractLsb'_eq_self, top]
  rw [opcodeOf_field, op]
  simp [decodeAt, decodeAt5, fd, fa, ft]

theorem Encoding.graft (a : BitVec 6) (b : BitVec 6) (h : BitVec 2) : Encoding.Statement (.graft a b h) := by
  intro w hw
  have op : fld w 24 8 = 0x52 := by
    cases hw; show BitVec.extractLsb' (n := 14+6+6+3+2+1) 24 8 _ = _; simp (disch := decide) only [above, below, Nat.reduceSub, BitVec.extractLsb'_eq_self, top]; try rfl
  have m0 : w &&& 0xFC0039#32 = 0x0#32 := by
    cases hw; show HAnd.hAnd (α := BitVec (14+6+6+3+2+1)) _ (0x3F#14 ++ 0x0#6 ++ 0x0#6 ++ 0x7#3 ++ 0x0#2 ++ 0x1#1) = _
    simp only [BitVec.and_append, BitVec.and_zero]; rfl
  have fa : fld w 12 6 = a := by
    cases hw; show BitVec.extractLsb' (n := 14+6+6+3+2+1) 12 6 _ = _; simp (disch := decide) only [above, below, Nat.reduceSub, BitVec.extractLsb'_eq_self, top]
  have fb : fld w 6 6 = b := by
    cases hw; show BitVec.extractLsb' (n := 14+6+6+3+2+1) 6 6 _ = _; simp (disch := decide) only [above, below, Nat.reduceSub, BitVec.extractLsb'_eq_self, top]
  have fh : fld w 1 2 = h := by
    cases hw; show BitVec.extractLsb' (n := 14+6+6+3+2+1) 1 2 _ = _; simp (disch := decide) only [above, below, Nat.reduceSub, BitVec.extractLsb'_eq_self, top]
  rw [opcodeOf_field, op]
  simp [decodeAt, decodeAt5, m0, fa, fb, fh]

theorem Encoding.unmark (t : BitVec 12) : Encoding.Statement (.unmark t) := by
  intro w hw
  have op : fld w 24 8 = 0x53 := by
    cases hw; show BitVec.extractLsb' (n := 20+12) 24 8 _ = _; simp (disch := decide) only [above, below, Nat.reduceSub, BitVec.extractLsb'_eq_self, top]; try rfl
  have m0 : w &&& 0xFFF000#32 = 0x0#32 := by
    cases hw; show HAnd.hAnd (α := BitVec (20+12)) _ (0xFFF#20 ++ 0x0#12) = _
    simp only [BitVec.and_append, BitVec.and_zero]; rfl
  have ft : fld w 0 12 = t := by
    cases hw; show BitVec.extractLsb' (n := 20+12) 0 12 _ = _; simp (disch := decide) only [above, below, Nat.reduceSub, BitVec.extractLsb'_eq_self, top]
  rw [opcodeOf_field, op]
  simp [decodeAt, decodeAt5, m0, ft]

theorem Encoding.slshare (a : BitVec 6) : Encoding.Statement (.slshare a) := by
  intro w hw
  have op : fld w 24 8 = 0x54 := by
    cases hw; show BitVec.extractLsb' (n := 14+6+12) 24 8 _ = _; simp (disch := decide) only [above, below, Nat.reduceSub, BitVec.extractLsb'_eq_self, top]; try rfl
  have m0 : w &&& 0xFC0FFF#32 = 0x0#32 := by
    cases hw; show HAnd.hAnd (α := BitVec (14+6+12)) _ (0x3F#14 ++ 0x0#6 ++ 0xFFF#12) = _
    simp only [BitVec.and_append, BitVec.and_zero]; rfl
  have fa : fld w 12 6 = a := by
    cases hw; show BitVec.extractLsb' (n := 14+6+12) 12 6 _ = _; simp (disch := decide) only [above, below, Nat.reduceSub, BitVec.extractLsb'_eq_self, top]
  rw [opcodeOf_field, op]
  simp [decodeAt, decodeAt5, m0, fa]

theorem Encoding.slfree (a : BitVec 6) : Encoding.Statement (.slfree a) := by
  intro w hw
  have op : fld w 24 8 = 0x55 := by
    cases hw; show BitVec.extractLsb' (n := 14+6+12) 24 8 _ = _; simp (disch := decide) only [above, below, Nat.reduceSub, BitVec.extractLsb'_eq_self, top]; try rfl
  have m0 : w &&& 0xFC0FFF#32 = 0x0#32 := by
    cases hw; show HAnd.hAnd (α := BitVec (14+6+12)) _ (0x3F#14 ++ 0x0#6 ++ 0xFFF#12) = _
    simp only [BitVec.and_append, BitVec.and_zero]; rfl
  have fa : fld w 12 6 = a := by
    cases hw; show BitVec.extractLsb' (n := 14+6+12) 12 6 _ = _; simp (disch := decide) only [above, below, Nat.reduceSub, BitVec.extractLsb'_eq_self, top]
  rw [opcodeOf_field, op]
  simp [decodeAt, decodeAt5, m0, fa]

theorem Encoding.slinfo (d : BitVec 6) (a : BitVec 6) : Encoding.Statement (.slinfo d a) := by
  intro w hw
  have op : fld w 24 8 = 0x56 := by
    cases hw; show BitVec.extractLsb' (n := 8+6+6+12) 24 8 _ = _; simp (disch := decide) only [above, below, Nat.reduceSub, BitVec.extractLsb'_eq_self, top]; try rfl
  have m0 : w &&& 0xFFF#32 = 0x0#32 := by
    cases hw; show HAnd.hAnd (α := BitVec (8+6+6+12)) _ (0x0#8 ++ 0x0#6 ++ 0x0#6 ++ 0xFFF#12) = _
    simp only [BitVec.and_append, BitVec.and_zero]; rfl
  have fd : fld w 18 6 = d := by
    cases hw; show BitVec.extractLsb' (n := 8+6+6+12) 18 6 _ = _; simp (disch := decide) only [above, below, Nat.reduceSub, BitVec.extractLsb'_eq_self, top]
  have fa : fld w 12 6 = a := by
    cases hw; show BitVec.extractLsb' (n := 8+6+6+12) 12 6 _ = _; simp (disch := decide) only [above, below, Nat.reduceSub, BitVec.extractLsb'_eq_self, top]
  rw [opcodeOf_field, op]
  simp [decodeAt, decodeAt5, m0, fd, fa]

theorem Encoding.ld8s (d : BitVec 6) (a : BitVec 6) (o : BitVec 8) (q : BitVec 4) : Encoding.Statement (.ld8s d a o q) := by
  intro w hw
  have op : fld w 24 8 = 0x60 := by
    cases hw; show BitVec.extractLsb' (n := 8+6+6+8+4) 24 8 _ = _; simp (disch := decide) only [above, below, Nat.reduceSub, BitVec.extractLsb'_eq_self, top]; try rfl
  have fd : fld w 18 6 = d := by
    cases hw; show BitVec.extractLsb' (n := 8+6+6+8+4) 18 6 _ = _; simp (disch := decide) only [above, below, Nat.reduceSub, BitVec.extractLsb'_eq_self, top]
  have fa : fld w 12 6 = a := by
    cases hw; show BitVec.extractLsb' (n := 8+6+6+8+4) 12 6 _ = _; simp (disch := decide) only [above, below, Nat.reduceSub, BitVec.extractLsb'_eq_self, top]
  have fo : fld w 4 8 = o := by
    cases hw; show BitVec.extractLsb' (n := 8+6+6+8+4) 4 8 _ = _; simp (disch := decide) only [above, below, Nat.reduceSub, BitVec.extractLsb'_eq_self, top]
  have fq : fld w 0 4 = q := by
    cases hw; show BitVec.extractLsb' (n := 8+6+6+8+4) 0 4 _ = _; simp (disch := decide) only [above, below, Nat.reduceSub, BitVec.extractLsb'_eq_self, top]
  rw [opcodeOf_field, op]
  simp [decodeAt, decodeAt6, fd, fa, fo, fq]

theorem Encoding.ld8z (d : BitVec 6) (a : BitVec 6) (o : BitVec 8) (q : BitVec 4) : Encoding.Statement (.ld8z d a o q) := by
  intro w hw
  have op : fld w 24 8 = 0x61 := by
    cases hw; show BitVec.extractLsb' (n := 8+6+6+8+4) 24 8 _ = _; simp (disch := decide) only [above, below, Nat.reduceSub, BitVec.extractLsb'_eq_self, top]; try rfl
  have fd : fld w 18 6 = d := by
    cases hw; show BitVec.extractLsb' (n := 8+6+6+8+4) 18 6 _ = _; simp (disch := decide) only [above, below, Nat.reduceSub, BitVec.extractLsb'_eq_self, top]
  have fa : fld w 12 6 = a := by
    cases hw; show BitVec.extractLsb' (n := 8+6+6+8+4) 12 6 _ = _; simp (disch := decide) only [above, below, Nat.reduceSub, BitVec.extractLsb'_eq_self, top]
  have fo : fld w 4 8 = o := by
    cases hw; show BitVec.extractLsb' (n := 8+6+6+8+4) 4 8 _ = _; simp (disch := decide) only [above, below, Nat.reduceSub, BitVec.extractLsb'_eq_self, top]
  have fq : fld w 0 4 = q := by
    cases hw; show BitVec.extractLsb' (n := 8+6+6+8+4) 0 4 _ = _; simp (disch := decide) only [above, below, Nat.reduceSub, BitVec.extractLsb'_eq_self, top]
  rw [opcodeOf_field, op]
  simp [decodeAt, decodeAt6, fd, fa, fo, fq]

theorem Encoding.ld16s (d : BitVec 6) (a : BitVec 6) (o : BitVec 8) (q : BitVec 4) : Encoding.Statement (.ld16s d a o q) := by
  intro w hw
  have op : fld w 24 8 = 0x62 := by
    cases hw; show BitVec.extractLsb' (n := 8+6+6+8+4) 24 8 _ = _; simp (disch := decide) only [above, below, Nat.reduceSub, BitVec.extractLsb'_eq_self, top]; try rfl
  have fd : fld w 18 6 = d := by
    cases hw; show BitVec.extractLsb' (n := 8+6+6+8+4) 18 6 _ = _; simp (disch := decide) only [above, below, Nat.reduceSub, BitVec.extractLsb'_eq_self, top]
  have fa : fld w 12 6 = a := by
    cases hw; show BitVec.extractLsb' (n := 8+6+6+8+4) 12 6 _ = _; simp (disch := decide) only [above, below, Nat.reduceSub, BitVec.extractLsb'_eq_self, top]
  have fo : fld w 4 8 = o := by
    cases hw; show BitVec.extractLsb' (n := 8+6+6+8+4) 4 8 _ = _; simp (disch := decide) only [above, below, Nat.reduceSub, BitVec.extractLsb'_eq_self, top]
  have fq : fld w 0 4 = q := by
    cases hw; show BitVec.extractLsb' (n := 8+6+6+8+4) 0 4 _ = _; simp (disch := decide) only [above, below, Nat.reduceSub, BitVec.extractLsb'_eq_self, top]
  rw [opcodeOf_field, op]
  simp [decodeAt, decodeAt6, fd, fa, fo, fq]

theorem Encoding.ld16z (d : BitVec 6) (a : BitVec 6) (o : BitVec 8) (q : BitVec 4) : Encoding.Statement (.ld16z d a o q) := by
  intro w hw
  have op : fld w 24 8 = 0x63 := by
    cases hw; show BitVec.extractLsb' (n := 8+6+6+8+4) 24 8 _ = _; simp (disch := decide) only [above, below, Nat.reduceSub, BitVec.extractLsb'_eq_self, top]; try rfl
  have fd : fld w 18 6 = d := by
    cases hw; show BitVec.extractLsb' (n := 8+6+6+8+4) 18 6 _ = _; simp (disch := decide) only [above, below, Nat.reduceSub, BitVec.extractLsb'_eq_self, top]
  have fa : fld w 12 6 = a := by
    cases hw; show BitVec.extractLsb' (n := 8+6+6+8+4) 12 6 _ = _; simp (disch := decide) only [above, below, Nat.reduceSub, BitVec.extractLsb'_eq_self, top]
  have fo : fld w 4 8 = o := by
    cases hw; show BitVec.extractLsb' (n := 8+6+6+8+4) 4 8 _ = _; simp (disch := decide) only [above, below, Nat.reduceSub, BitVec.extractLsb'_eq_self, top]
  have fq : fld w 0 4 = q := by
    cases hw; show BitVec.extractLsb' (n := 8+6+6+8+4) 0 4 _ = _; simp (disch := decide) only [above, below, Nat.reduceSub, BitVec.extractLsb'_eq_self, top]
  rw [opcodeOf_field, op]
  simp [decodeAt, decodeAt6, fd, fa, fo, fq]

theorem Encoding.ld32 (d : BitVec 6) (a : BitVec 6) (o : BitVec 8) (q : BitVec 4) : Encoding.Statement (.ld32 d a o q) := by
  intro w hw
  have op : fld w 24 8 = 0x64 := by
    cases hw; show BitVec.extractLsb' (n := 8+6+6+8+4) 24 8 _ = _; simp (disch := decide) only [above, below, Nat.reduceSub, BitVec.extractLsb'_eq_self, top]; try rfl
  have fd : fld w 18 6 = d := by
    cases hw; show BitVec.extractLsb' (n := 8+6+6+8+4) 18 6 _ = _; simp (disch := decide) only [above, below, Nat.reduceSub, BitVec.extractLsb'_eq_self, top]
  have fa : fld w 12 6 = a := by
    cases hw; show BitVec.extractLsb' (n := 8+6+6+8+4) 12 6 _ = _; simp (disch := decide) only [above, below, Nat.reduceSub, BitVec.extractLsb'_eq_self, top]
  have fo : fld w 4 8 = o := by
    cases hw; show BitVec.extractLsb' (n := 8+6+6+8+4) 4 8 _ = _; simp (disch := decide) only [above, below, Nat.reduceSub, BitVec.extractLsb'_eq_self, top]
  have fq : fld w 0 4 = q := by
    cases hw; show BitVec.extractLsb' (n := 8+6+6+8+4) 0 4 _ = _; simp (disch := decide) only [above, below, Nat.reduceSub, BitVec.extractLsb'_eq_self, top]
  rw [opcodeOf_field, op]
  simp [decodeAt, decodeAt6, fd, fa, fo, fq]

theorem Encoding.ld64 (d : BitVec 6) (a : BitVec 6) (o : BitVec 8) (q : BitVec 4) : Encoding.Statement (.ld64 d a o q) := by
  intro w hw
  have op : fld w 24 8 = 0x65 := by
    cases hw; show BitVec.extractLsb' (n := 8+6+6+8+4) 24 8 _ = _; simp (disch := decide) only [above, below, Nat.reduceSub, BitVec.extractLsb'_eq_self, top]; try rfl
  have fd : fld w 18 6 = d := by
    cases hw; show BitVec.extractLsb' (n := 8+6+6+8+4) 18 6 _ = _; simp (disch := decide) only [above, below, Nat.reduceSub, BitVec.extractLsb'_eq_self, top]
  have fa : fld w 12 6 = a := by
    cases hw; show BitVec.extractLsb' (n := 8+6+6+8+4) 12 6 _ = _; simp (disch := decide) only [above, below, Nat.reduceSub, BitVec.extractLsb'_eq_self, top]
  have fo : fld w 4 8 = o := by
    cases hw; show BitVec.extractLsb' (n := 8+6+6+8+4) 4 8 _ = _; simp (disch := decide) only [above, below, Nat.reduceSub, BitVec.extractLsb'_eq_self, top]
  have fq : fld w 0 4 = q := by
    cases hw; show BitVec.extractLsb' (n := 8+6+6+8+4) 0 4 _ = _; simp (disch := decide) only [above, below, Nat.reduceSub, BitVec.extractLsb'_eq_self, top]
  rw [opcodeOf_field, op]
  simp [decodeAt, decodeAt6, fd, fa, fo, fq]

theorem Encoding.ld128 (d : BitVec 6) (a : BitVec 6) (o : BitVec 8) (q : BitVec 4) : Encoding.Statement (.ld128 d a o q) := by
  intro w hw
  have op : fld w 24 8 = 0x66 := by
    cases hw; show BitVec.extractLsb' (n := 8+6+6+8+4) 24 8 _ = _; simp (disch := decide) only [above, below, Nat.reduceSub, BitVec.extractLsb'_eq_self, top]; try rfl
  have fd : fld w 18 6 = d := by
    cases hw; show BitVec.extractLsb' (n := 8+6+6+8+4) 18 6 _ = _; simp (disch := decide) only [above, below, Nat.reduceSub, BitVec.extractLsb'_eq_self, top]
  have fa : fld w 12 6 = a := by
    cases hw; show BitVec.extractLsb' (n := 8+6+6+8+4) 12 6 _ = _; simp (disch := decide) only [above, below, Nat.reduceSub, BitVec.extractLsb'_eq_self, top]
  have fo : fld w 4 8 = o := by
    cases hw; show BitVec.extractLsb' (n := 8+6+6+8+4) 4 8 _ = _; simp (disch := decide) only [above, below, Nat.reduceSub, BitVec.extractLsb'_eq_self, top]
  have fq : fld w 0 4 = q := by
    cases hw; show BitVec.extractLsb' (n := 8+6+6+8+4) 0 4 _ = _; simp (disch := decide) only [above, below, Nat.reduceSub, BitVec.extractLsb'_eq_self, top]
  rw [opcodeOf_field, op]
  simp [decodeAt, decodeAt6, fd, fa, fo, fq]

theorem Encoding.st8 (d : BitVec 6) (a : BitVec 6) (o : BitVec 8) (q : BitVec 4) : Encoding.Statement (.st8 d a o q) := by
  intro w hw
  have op : fld w 24 8 = 0x67 := by
    cases hw; show BitVec.extractLsb' (n := 8+6+6+8+4) 24 8 _ = _; simp (disch := decide) only [above, below, Nat.reduceSub, BitVec.extractLsb'_eq_self, top]; try rfl
  have fd : fld w 18 6 = d := by
    cases hw; show BitVec.extractLsb' (n := 8+6+6+8+4) 18 6 _ = _; simp (disch := decide) only [above, below, Nat.reduceSub, BitVec.extractLsb'_eq_self, top]
  have fa : fld w 12 6 = a := by
    cases hw; show BitVec.extractLsb' (n := 8+6+6+8+4) 12 6 _ = _; simp (disch := decide) only [above, below, Nat.reduceSub, BitVec.extractLsb'_eq_self, top]
  have fo : fld w 4 8 = o := by
    cases hw; show BitVec.extractLsb' (n := 8+6+6+8+4) 4 8 _ = _; simp (disch := decide) only [above, below, Nat.reduceSub, BitVec.extractLsb'_eq_self, top]
  have fq : fld w 0 4 = q := by
    cases hw; show BitVec.extractLsb' (n := 8+6+6+8+4) 0 4 _ = _; simp (disch := decide) only [above, below, Nat.reduceSub, BitVec.extractLsb'_eq_self, top]
  rw [opcodeOf_field, op]
  simp [decodeAt, decodeAt6, fd, fa, fo, fq]

theorem Encoding.st16 (d : BitVec 6) (a : BitVec 6) (o : BitVec 8) (q : BitVec 4) : Encoding.Statement (.st16 d a o q) := by
  intro w hw
  have op : fld w 24 8 = 0x68 := by
    cases hw; show BitVec.extractLsb' (n := 8+6+6+8+4) 24 8 _ = _; simp (disch := decide) only [above, below, Nat.reduceSub, BitVec.extractLsb'_eq_self, top]; try rfl
  have fd : fld w 18 6 = d := by
    cases hw; show BitVec.extractLsb' (n := 8+6+6+8+4) 18 6 _ = _; simp (disch := decide) only [above, below, Nat.reduceSub, BitVec.extractLsb'_eq_self, top]
  have fa : fld w 12 6 = a := by
    cases hw; show BitVec.extractLsb' (n := 8+6+6+8+4) 12 6 _ = _; simp (disch := decide) only [above, below, Nat.reduceSub, BitVec.extractLsb'_eq_self, top]
  have fo : fld w 4 8 = o := by
    cases hw; show BitVec.extractLsb' (n := 8+6+6+8+4) 4 8 _ = _; simp (disch := decide) only [above, below, Nat.reduceSub, BitVec.extractLsb'_eq_self, top]
  have fq : fld w 0 4 = q := by
    cases hw; show BitVec.extractLsb' (n := 8+6+6+8+4) 0 4 _ = _; simp (disch := decide) only [above, below, Nat.reduceSub, BitVec.extractLsb'_eq_self, top]
  rw [opcodeOf_field, op]
  simp [decodeAt, decodeAt6, fd, fa, fo, fq]

theorem Encoding.st32 (d : BitVec 6) (a : BitVec 6) (o : BitVec 8) (q : BitVec 4) : Encoding.Statement (.st32 d a o q) := by
  intro w hw
  have op : fld w 24 8 = 0x69 := by
    cases hw; show BitVec.extractLsb' (n := 8+6+6+8+4) 24 8 _ = _; simp (disch := decide) only [above, below, Nat.reduceSub, BitVec.extractLsb'_eq_self, top]; try rfl
  have fd : fld w 18 6 = d := by
    cases hw; show BitVec.extractLsb' (n := 8+6+6+8+4) 18 6 _ = _; simp (disch := decide) only [above, below, Nat.reduceSub, BitVec.extractLsb'_eq_self, top]
  have fa : fld w 12 6 = a := by
    cases hw; show BitVec.extractLsb' (n := 8+6+6+8+4) 12 6 _ = _; simp (disch := decide) only [above, below, Nat.reduceSub, BitVec.extractLsb'_eq_self, top]
  have fo : fld w 4 8 = o := by
    cases hw; show BitVec.extractLsb' (n := 8+6+6+8+4) 4 8 _ = _; simp (disch := decide) only [above, below, Nat.reduceSub, BitVec.extractLsb'_eq_self, top]
  have fq : fld w 0 4 = q := by
    cases hw; show BitVec.extractLsb' (n := 8+6+6+8+4) 0 4 _ = _; simp (disch := decide) only [above, below, Nat.reduceSub, BitVec.extractLsb'_eq_self, top]
  rw [opcodeOf_field, op]
  simp [decodeAt, decodeAt6, fd, fa, fo, fq]

theorem Encoding.st64 (d : BitVec 6) (a : BitVec 6) (o : BitVec 8) (q : BitVec 4) : Encoding.Statement (.st64 d a o q) := by
  intro w hw
  have op : fld w 24 8 = 0x6a := by
    cases hw; show BitVec.extractLsb' (n := 8+6+6+8+4) 24 8 _ = _; simp (disch := decide) only [above, below, Nat.reduceSub, BitVec.extractLsb'_eq_self, top]; try rfl
  have fd : fld w 18 6 = d := by
    cases hw; show BitVec.extractLsb' (n := 8+6+6+8+4) 18 6 _ = _; simp (disch := decide) only [above, below, Nat.reduceSub, BitVec.extractLsb'_eq_self, top]
  have fa : fld w 12 6 = a := by
    cases hw; show BitVec.extractLsb' (n := 8+6+6+8+4) 12 6 _ = _; simp (disch := decide) only [above, below, Nat.reduceSub, BitVec.extractLsb'_eq_self, top]
  have fo : fld w 4 8 = o := by
    cases hw; show BitVec.extractLsb' (n := 8+6+6+8+4) 4 8 _ = _; simp (disch := decide) only [above, below, Nat.reduceSub, BitVec.extractLsb'_eq_self, top]
  have fq : fld w 0 4 = q := by
    cases hw; show BitVec.extractLsb' (n := 8+6+6+8+4) 0 4 _ = _; simp (disch := decide) only [above, below, Nat.reduceSub, BitVec.extractLsb'_eq_self, top]
  rw [opcodeOf_field, op]
  simp [decodeAt, decodeAt6, fd, fa, fo, fq]

theorem Encoding.st128 (d : BitVec 6) (a : BitVec 6) (o : BitVec 8) (q : BitVec 4) : Encoding.Statement (.st128 d a o q) := by
  intro w hw
  have op : fld w 24 8 = 0x6b := by
    cases hw; show BitVec.extractLsb' (n := 8+6+6+8+4) 24 8 _ = _; simp (disch := decide) only [above, below, Nat.reduceSub, BitVec.extractLsb'_eq_self, top]; try rfl
  have fd : fld w 18 6 = d := by
    cases hw; show BitVec.extractLsb' (n := 8+6+6+8+4) 18 6 _ = _; simp (disch := decide) only [above, below, Nat.reduceSub, BitVec.extractLsb'_eq_self, top]
  have fa : fld w 12 6 = a := by
    cases hw; show BitVec.extractLsb' (n := 8+6+6+8+4) 12 6 _ = _; simp (disch := decide) only [above, below, Nat.reduceSub, BitVec.extractLsb'_eq_self, top]
  have fo : fld w 4 8 = o := by
    cases hw; show BitVec.extractLsb' (n := 8+6+6+8+4) 4 8 _ = _; simp (disch := decide) only [above, below, Nat.reduceSub, BitVec.extractLsb'_eq_self, top]
  have fq : fld w 0 4 = q := by
    cases hw; show BitVec.extractLsb' (n := 8+6+6+8+4) 0 4 _ = _; simp (disch := decide) only [above, below, Nat.reduceSub, BitVec.extractLsb'_eq_self, top]
  rw [opcodeOf_field, op]
  simp [decodeAt, decodeAt6, fd, fa, fo, fq]

theorem Encoding.atom (d : BitVec 6) (a : BitVec 6) (p : BitVec 4) (t : BitVec 4) (q : BitVec 4) : Encoding.Statement (.atom d a p t q) := by
  intro w hw
  have op : fld w 24 8 = 0x6c := by
    cases hw; show BitVec.extractLsb' (n := 8+6+6+4+4+4) 24 8 _ = _; simp (disch := decide) only [above, below, Nat.reduceSub, BitVec.extractLsb'_eq_self, top]; try rfl
  have fd : fld w 18 6 = d := by
    cases hw; show BitVec.extractLsb' (n := 8+6+6+4+4+4) 18 6 _ = _; simp (disch := decide) only [above, below, Nat.reduceSub, BitVec.extractLsb'_eq_self, top]
  have fa : fld w 12 6 = a := by
    cases hw; show BitVec.extractLsb' (n := 8+6+6+4+4+4) 12 6 _ = _; simp (disch := decide) only [above, below, Nat.reduceSub, BitVec.extractLsb'_eq_self, top]
  have fp : fld w 8 4 = p := by
    cases hw; show BitVec.extractLsb' (n := 8+6+6+4+4+4) 8 4 _ = _; simp (disch := decide) only [above, below, Nat.reduceSub, BitVec.extractLsb'_eq_self, top]
  have ft : fld w 4 4 = t := by
    cases hw; show BitVec.extractLsb' (n := 8+6+6+4+4+4) 4 4 _ = _; simp (disch := decide) only [above, below, Nat.reduceSub, BitVec.extractLsb'_eq_self, top]
  have fq : fld w 0 4 = q := by
    cases hw; show BitVec.extractLsb' (n := 8+6+6+4+4+4) 0 4 _ = _; simp (disch := decide) only [above, below, Nat.reduceSub, BitVec.extractLsb'_eq_self, top]
  rw [opcodeOf_field, op]
  simp [decodeAt, decodeAt6, fd, fa, fp, ft, fq]

theorem Encoding.atomr (d : BitVec 6) (a : BitVec 6) (p : BitVec 4) (t : BitVec 4) (q : BitVec 4) : Encoding.Statement (.atomr d a p t q) := by
  intro w hw
  have op : fld w 24 8 = 0x6d := by
    cases hw; show BitVec.extractLsb' (n := 8+6+6+4+4+4) 24 8 _ = _; simp (disch := decide) only [above, below, Nat.reduceSub, BitVec.extractLsb'_eq_self, top]; try rfl
  have fd : fld w 18 6 = d := by
    cases hw; show BitVec.extractLsb' (n := 8+6+6+4+4+4) 18 6 _ = _; simp (disch := decide) only [above, below, Nat.reduceSub, BitVec.extractLsb'_eq_self, top]
  have fa : fld w 12 6 = a := by
    cases hw; show BitVec.extractLsb' (n := 8+6+6+4+4+4) 12 6 _ = _; simp (disch := decide) only [above, below, Nat.reduceSub, BitVec.extractLsb'_eq_self, top]
  have fp : fld w 8 4 = p := by
    cases hw; show BitVec.extractLsb' (n := 8+6+6+4+4+4) 8 4 _ = _; simp (disch := decide) only [above, below, Nat.reduceSub, BitVec.extractLsb'_eq_self, top]
  have ft : fld w 4 4 = t := by
    cases hw; show BitVec.extractLsb' (n := 8+6+6+4+4+4) 4 4 _ = _; simp (disch := decide) only [above, below, Nat.reduceSub, BitVec.extractLsb'_eq_self, top]
  have fq : fld w 0 4 = q := by
    cases hw; show BitVec.extractLsb' (n := 8+6+6+4+4+4) 0 4 _ = _; simp (disch := decide) only [above, below, Nat.reduceSub, BitVec.extractLsb'_eq_self, top]
  rw [opcodeOf_field, op]
  simp [decodeAt, decodeAt6, fd, fa, fp, ft, fq]

theorem Encoding.prefetch (a : BitVec 6) (o : BitVec 8) (q : BitVec 4) : Encoding.Statement (.prefetch a o q) := by
  intro w hw
  have op : fld w 24 8 = 0x6e := by
    cases hw; show BitVec.extractLsb' (n := 14+6+8+4) 24 8 _ = _; simp (disch := decide) only [above, below, Nat.reduceSub, BitVec.extractLsb'_eq_self, top]; try rfl
  have m0 : w &&& 0xFC0000#32 = 0x0#32 := by
    cases hw; show HAnd.hAnd (α := BitVec (14+6+8+4)) _ (0x3F#14 ++ 0x0#6 ++ 0x0#8 ++ 0x0#4) = _
    simp only [BitVec.and_append, BitVec.and_zero]; rfl
  have fa : fld w 12 6 = a := by
    cases hw; show BitVec.extractLsb' (n := 14+6+8+4) 12 6 _ = _; simp (disch := decide) only [above, below, Nat.reduceSub, BitVec.extractLsb'_eq_self, top]
  have fo : fld w 4 8 = o := by
    cases hw; show BitVec.extractLsb' (n := 14+6+8+4) 4 8 _ = _; simp (disch := decide) only [above, below, Nat.reduceSub, BitVec.extractLsb'_eq_self, top]
  have fq : fld w 0 4 = q := by
    cases hw; show BitVec.extractLsb' (n := 14+6+8+4) 0 4 _ = _; simp (disch := decide) only [above, below, Nat.reduceSub, BitVec.extractLsb'_eq_self, top]
  rw [opcodeOf_field, op]
  simp [decodeAt, decodeAt6, m0, fa, fo, fq]

theorem Encoding.await (d : BitVec 6) (a : BitVec 6) (o : BitVec 8) (q : BitVec 4) : Encoding.Statement (.await d a o q) := by
  intro w hw
  have op : fld w 24 8 = 0x6f := by
    cases hw; show BitVec.extractLsb' (n := 8+6+6+8+4) 24 8 _ = _; simp (disch := decide) only [above, below, Nat.reduceSub, BitVec.extractLsb'_eq_self, top]; try rfl
  have fd : fld w 18 6 = d := by
    cases hw; show BitVec.extractLsb' (n := 8+6+6+8+4) 18 6 _ = _; simp (disch := decide) only [above, below, Nat.reduceSub, BitVec.extractLsb'_eq_self, top]
  have fa : fld w 12 6 = a := by
    cases hw; show BitVec.extractLsb' (n := 8+6+6+8+4) 12 6 _ = _; simp (disch := decide) only [above, below, Nat.reduceSub, BitVec.extractLsb'_eq_self, top]
  have fo : fld w 4 8 = o := by
    cases hw; show BitVec.extractLsb' (n := 8+6+6+8+4) 4 8 _ = _; simp (disch := decide) only [above, below, Nat.reduceSub, BitVec.extractLsb'_eq_self, top]
  have fq : fld w 0 4 = q := by
    cases hw; show BitVec.extractLsb' (n := 8+6+6+8+4) 0 4 _ = _; simp (disch := decide) only [above, below, Nat.reduceSub, BitVec.extractLsb'_eq_self, top]
  rw [opcodeOf_field, op]
  simp [decodeAt, decodeAt6, fd, fa, fo, fq]

theorem Encoding.fence (s : BitVec 4) (k : BitVec 2) (l : BitVec 1) (q : BitVec 4) : Encoding.Statement (.fence s k l q) := by
  intro w hw
  have op : fld w 24 8 = 0x70 := by
    cases hw; show BitVec.extractLsb' (n := 20+4+2+1+1+4) 24 8 _ = _; simp (disch := decide) only [above, below, Nat.reduceSub, BitVec.extractLsb'_eq_self, top]; try rfl
  have m0 : w &&& 0xFFF010#32 = 0x0#32 := by
    cases hw; show HAnd.hAnd (α := BitVec (20+4+2+1+1+4)) _ (0xFFF#20 ++ 0x0#4 ++ 0x0#2 ++ 0x0#1 ++ 0x1#1 ++ 0x0#4) = _
    simp only [BitVec.and_append, BitVec.and_zero]; rfl
  have fs : fld w 8 4 = s := by
    cases hw; show BitVec.extractLsb' (n := 20+4+2+1+1+4) 8 4 _ = _; simp (disch := decide) only [above, below, Nat.reduceSub, BitVec.extractLsb'_eq_self, top]
  have fk : fld w 6 2 = k := by
    cases hw; show BitVec.extractLsb' (n := 20+4+2+1+1+4) 6 2 _ = _; simp (disch := decide) only [above, below, Nat.reduceSub, BitVec.extractLsb'_eq_self, top]
  have fl : fld w 5 1 = l := by
    cases hw; show BitVec.extractLsb' (n := 20+4+2+1+1+4) 5 1 _ = _; simp (disch := decide) only [above, below, Nat.reduceSub, BitVec.extractLsb'_eq_self, top]
  have fq : fld w 0 4 = q := by
    cases hw; show BitVec.extractLsb' (n := 20+4+2+1+1+4) 0 4 _ = _; simp (disch := decide) only [above, below, Nat.reduceSub, BitVec.extractLsb'_eq_self, top]
  rw [opcodeOf_field, op]
  simp [decodeAt, decodeAt7, m0, fs, fk, fl, fq]

theorem Encoding.xfence (s : BitVec 4) (b : BitVec 4) (c : BitVec 4) : Encoding.Statement (.xfence s b c) := by
  intro w hw
  have op : fld w 24 8 = 0x71 := by
    cases hw; show BitVec.extractLsb' (n := 20+4+4+4) 24 8 _ = _; simp (disch := decide) only [above, below, Nat.reduceSub, BitVec.extractLsb'_eq_self, top]; try rfl
  have m0 : w &&& 0xFFF000#32 = 0x0#32 := by
    cases hw; show HAnd.hAnd (α := BitVec (20+4+4+4)) _ (0xFFF#20 ++ 0x0#4 ++ 0x0#4 ++ 0x0#4) = _
    simp only [BitVec.and_append, BitVec.and_zero]; rfl
  have fs : fld w 8 4 = s := by
    cases hw; show BitVec.extractLsb' (n := 20+4+4+4) 8 4 _ = _; simp (disch := decide) only [above, below, Nat.reduceSub, BitVec.extractLsb'_eq_self, top]
  have fb : fld w 4 4 = b := by
    cases hw; show BitVec.extractLsb' (n := 20+4+4+4) 4 4 _ = _; simp (disch := decide) only [above, below, Nat.reduceSub, BitVec.extractLsb'_eq_self, top]
  have fc : fld w 0 4 = c := by
    cases hw; show BitVec.extractLsb' (n := 20+4+4+4) 0 4 _ = _; simp (disch := decide) only [above, below, Nat.reduceSub, BitVec.extractLsb'_eq_self, top]
  rw [opcodeOf_field, op]
  simp [decodeAt, decodeAt7, m0, fs, fb, fc]

theorem Encoding.prefixWord (c : BitVec 6) (m : BitVec 3) (e : BitVec 1) (z : BitVec 1) (r : BitVec 3) (s : BitVec 1) : Encoding.Statement (.prefixWord c m e z r s) := by
  intro w hw
  have op : fld w 24 8 = 0x7e := by
    cases hw; show BitVec.extractLsb' (n := 8+6+3+1+1+3+1+9) 24 8 _ = _; simp (disch := decide) only [above, below, Nat.reduceSub, BitVec.extractLsb'_eq_self, top]; try rfl
  have m0 : w &&& 0x1FF#32 = 0x0#32 := by
    cases hw; show HAnd.hAnd (α := BitVec (8+6+3+1+1+3+1+9)) _ (0x0#8 ++ 0x0#6 ++ 0x0#3 ++ 0x0#1 ++ 0x0#1 ++ 0x0#3 ++ 0x0#1 ++ 0x1FF#9) = _
    simp only [BitVec.and_append, BitVec.and_zero]; rfl
  have fc : fld w 18 6 = c := by
    cases hw; show BitVec.extractLsb' (n := 8+6+3+1+1+3+1+9) 18 6 _ = _; simp (disch := decide) only [above, below, Nat.reduceSub, BitVec.extractLsb'_eq_self, top]
  have fm : fld w 15 3 = m := by
    cases hw; show BitVec.extractLsb' (n := 8+6+3+1+1+3+1+9) 15 3 _ = _; simp (disch := decide) only [above, below, Nat.reduceSub, BitVec.extractLsb'_eq_self, top]
  have fe : fld w 14 1 = e := by
    cases hw; show BitVec.extractLsb' (n := 8+6+3+1+1+3+1+9) 14 1 _ = _; simp (disch := decide) only [above, below, Nat.reduceSub, BitVec.extractLsb'_eq_self, top]
  have fz : fld w 13 1 = z := by
    cases hw; show BitVec.extractLsb' (n := 8+6+3+1+1+3+1+9) 13 1 _ = _; simp (disch := decide) only [above, below, Nat.reduceSub, BitVec.extractLsb'_eq_self, top]
  have fr : fld w 10 3 = r := by
    cases hw; show BitVec.extractLsb' (n := 8+6+3+1+1+3+1+9) 10 3 _ = _; simp (disch := decide) only [above, below, Nat.reduceSub, BitVec.extractLsb'_eq_self, top]
  have fs : fld w 9 1 = s := by
    cases hw; show BitVec.extractLsb' (n := 8+6+3+1+1+3+1+9) 9 1 _ = _; simp (disch := decide) only [above, below, Nat.reduceSub, BitVec.extractLsb'_eq_self, top]
  rw [opcodeOf_field, op]
  simp [decodeAt, decodeAt7, m0, fc, fm, fe, fz, fr, fs]

theorem Encoding.uadd (d : BitVec 6) (a : BitVec 6) (b : BitVec 6) (f : BitVec 6) : Encoding.Statement (.uadd d a b f) := by
  intro w hw
  have op : fld w 24 8 = 0x80 := by
    cases hw; show BitVec.extractLsb' (n := 8+6+6+6+6) 24 8 _ = _; simp (disch := decide) only [above, below, Nat.reduceSub, BitVec.extractLsb'_eq_self, top]; try rfl
  have fd : fld w 18 6 = d := by
    cases hw; show BitVec.extractLsb' (n := 8+6+6+6+6) 18 6 _ = _; simp (disch := decide) only [above, below, Nat.reduceSub, BitVec.extractLsb'_eq_self, top]
  have fa : fld w 12 6 = a := by
    cases hw; show BitVec.extractLsb' (n := 8+6+6+6+6) 12 6 _ = _; simp (disch := decide) only [above, below, Nat.reduceSub, BitVec.extractLsb'_eq_self, top]
  have fb : fld w 6 6 = b := by
    cases hw; show BitVec.extractLsb' (n := 8+6+6+6+6) 6 6 _ = _; simp (disch := decide) only [above, below, Nat.reduceSub, BitVec.extractLsb'_eq_self, top]
  have ff : fld w 0 6 = f := by
    cases hw; show BitVec.extractLsb' (n := 8+6+6+6+6) 0 6 _ = _; simp (disch := decide) only [above, below, Nat.reduceSub, BitVec.extractLsb'_eq_self, top]
  rw [opcodeOf_field, op]
  simp [decodeAt, decodeAt8, fd, fa, fb, ff]

theorem Encoding.usub (d : BitVec 6) (a : BitVec 6) (b : BitVec 6) (f : BitVec 6) : Encoding.Statement (.usub d a b f) := by
  intro w hw
  have op : fld w 24 8 = 0x81 := by
    cases hw; show BitVec.extractLsb' (n := 8+6+6+6+6) 24 8 _ = _; simp (disch := decide) only [above, below, Nat.reduceSub, BitVec.extractLsb'_eq_self, top]; try rfl
  have fd : fld w 18 6 = d := by
    cases hw; show BitVec.extractLsb' (n := 8+6+6+6+6) 18 6 _ = _; simp (disch := decide) only [above, below, Nat.reduceSub, BitVec.extractLsb'_eq_self, top]
  have fa : fld w 12 6 = a := by
    cases hw; show BitVec.extractLsb' (n := 8+6+6+6+6) 12 6 _ = _; simp (disch := decide) only [above, below, Nat.reduceSub, BitVec.extractLsb'_eq_self, top]
  have fb : fld w 6 6 = b := by
    cases hw; show BitVec.extractLsb' (n := 8+6+6+6+6) 6 6 _ = _; simp (disch := decide) only [above, below, Nat.reduceSub, BitVec.extractLsb'_eq_self, top]
  have ff : fld w 0 6 = f := by
    cases hw; show BitVec.extractLsb' (n := 8+6+6+6+6) 0 6 _ = _; simp (disch := decide) only [above, below, Nat.reduceSub, BitVec.extractLsb'_eq_self, top]
  rw [opcodeOf_field, op]
  simp [decodeAt, decodeAt8, fd, fa, fb, ff]

theorem Encoding.umul (d : BitVec 6) (a : BitVec 6) (b : BitVec 6) (f : BitVec 6) : Encoding.Statement (.umul d a b f) := by
  intro w hw
  have op : fld w 24 8 = 0x82 := by
    cases hw; show BitVec.extractLsb' (n := 8+6+6+6+6) 24 8 _ = _; simp (disch := decide) only [above, below, Nat.reduceSub, BitVec.extractLsb'_eq_self, top]; try rfl
  have fd : fld w 18 6 = d := by
    cases hw; show BitVec.extractLsb' (n := 8+6+6+6+6) 18 6 _ = _; simp (disch := decide) only [above, below, Nat.reduceSub, BitVec.extractLsb'_eq_self, top]
  have fa : fld w 12 6 = a := by
    cases hw; show BitVec.extractLsb' (n := 8+6+6+6+6) 12 6 _ = _; simp (disch := decide) only [above, below, Nat.reduceSub, BitVec.extractLsb'_eq_self, top]
  have fb : fld w 6 6 = b := by
    cases hw; show BitVec.extractLsb' (n := 8+6+6+6+6) 6 6 _ = _; simp (disch := decide) only [above, below, Nat.reduceSub, BitVec.extractLsb'_eq_self, top]
  have ff : fld w 0 6 = f := by
    cases hw; show BitVec.extractLsb' (n := 8+6+6+6+6) 0 6 _ = _; simp (disch := decide) only [above, below, Nat.reduceSub, BitVec.extractLsb'_eq_self, top]
  rw [opcodeOf_field, op]
  simp [decodeAt, decodeAt8, fd, fa, fb, ff]

theorem Encoding.uminmax (d : BitVec 6) (a : BitVec 6) (b : BitVec 6) (f : BitVec 6) : Encoding.Statement (.uminmax d a b f) := by
  intro w hw
  have op : fld w 24 8 = 0x83 := by
    cases hw; show BitVec.extractLsb' (n := 8+6+6+6+6) 24 8 _ = _; simp (disch := decide) only [above, below, Nat.reduceSub, BitVec.extractLsb'_eq_self, top]; try rfl
  have fd : fld w 18 6 = d := by
    cases hw; show BitVec.extractLsb' (n := 8+6+6+6+6) 18 6 _ = _; simp (disch := decide) only [above, below, Nat.reduceSub, BitVec.extractLsb'_eq_self, top]
  have fa : fld w 12 6 = a := by
    cases hw; show BitVec.extractLsb' (n := 8+6+6+6+6) 12 6 _ = _; simp (disch := decide) only [above, below, Nat.reduceSub, BitVec.extractLsb'_eq_self, top]
  have fb : fld w 6 6 = b := by
    cases hw; show BitVec.extractLsb' (n := 8+6+6+6+6) 6 6 _ = _; simp (disch := decide) only [above, below, Nat.reduceSub, BitVec.extractLsb'_eq_self, top]
  have ff : fld w 0 6 = f := by
    cases hw; show BitVec.extractLsb' (n := 8+6+6+6+6) 0 6 _ = _; simp (disch := decide) only [above, below, Nat.reduceSub, BitVec.extractLsb'_eq_self, top]
  rw [opcodeOf_field, op]
  simp [decodeAt, decodeAt8, fd, fa, fb, ff]

theorem Encoding.ulogic (d : BitVec 6) (a : BitVec 6) (b : BitVec 6) (f : BitVec 6) : Encoding.Statement (.ulogic d a b f) := by
  intro w hw
  have op : fld w 24 8 = 0x84 := by
    cases hw; show BitVec.extractLsb' (n := 8+6+6+6+6) 24 8 _ = _; simp (disch := decide) only [above, below, Nat.reduceSub, BitVec.extractLsb'_eq_self, top]; try rfl
  have fd : fld w 18 6 = d := by
    cases hw; show BitVec.extractLsb' (n := 8+6+6+6+6) 18 6 _ = _; simp (disch := decide) only [above, below, Nat.reduceSub, BitVec.extractLsb'_eq_self, top]
  have fa : fld w 12 6 = a := by
    cases hw; show BitVec.extractLsb' (n := 8+6+6+6+6) 12 6 _ = _; simp (disch := decide) only [above, below, Nat.reduceSub, BitVec.extractLsb'_eq_self, top]
  have fb : fld w 6 6 = b := by
    cases hw; show BitVec.extractLsb' (n := 8+6+6+6+6) 6 6 _ = _; simp (disch := decide) only [above, below, Nat.reduceSub, BitVec.extractLsb'_eq_self, top]
  have ff : fld w 0 6 = f := by
    cases hw; show BitVec.extractLsb' (n := 8+6+6+6+6) 0 6 _ = _; simp (disch := decide) only [above, below, Nat.reduceSub, BitVec.extractLsb'_eq_self, top]
  rw [opcodeOf_field, op]
  simp [decodeAt, decodeAt8, fd, fa, fb, ff]

theorem Encoding.ushift (d : BitVec 6) (a : BitVec 6) (b : BitVec 6) (f : BitVec 6) : Encoding.Statement (.ushift d a b f) := by
  intro w hw
  have op : fld w 24 8 = 0x85 := by
    cases hw; show BitVec.extractLsb' (n := 8+6+6+6+6) 24 8 _ = _; simp (disch := decide) only [above, below, Nat.reduceSub, BitVec.extractLsb'_eq_self, top]; try rfl
  have fd : fld w 18 6 = d := by
    cases hw; show BitVec.extractLsb' (n := 8+6+6+6+6) 18 6 _ = _; simp (disch := decide) only [above, below, Nat.reduceSub, BitVec.extractLsb'_eq_self, top]
  have fa : fld w 12 6 = a := by
    cases hw; show BitVec.extractLsb' (n := 8+6+6+6+6) 12 6 _ = _; simp (disch := decide) only [above, below, Nat.reduceSub, BitVec.extractLsb'_eq_self, top]
  have fb : fld w 6 6 = b := by
    cases hw; show BitVec.extractLsb' (n := 8+6+6+6+6) 6 6 _ = _; simp (disch := decide) only [above, below, Nat.reduceSub, BitVec.extractLsb'_eq_self, top]
  have ff : fld w 0 6 = f := by
    cases hw; show BitVec.extractLsb' (n := 8+6+6+6+6) 0 6 _ = _; simp (disch := decide) only [above, below, Nat.reduceSub, BitVec.extractLsb'_eq_self, top]
  rw [opcodeOf_field, op]
  simp [decodeAt, decodeAt8, fd, fa, fb, ff]

theorem Encoding.ubits (d : BitVec 6) (a : BitVec 6) (f : BitVec 6) : Encoding.Statement (.ubits d a f) := by
  intro w hw
  have op : fld w 24 8 = 0x86 := by
    cases hw; show BitVec.extractLsb' (n := 8+6+6+6+6) 24 8 _ = _; simp (disch := decide) only [above, below, Nat.reduceSub, BitVec.extractLsb'_eq_self, top]; try rfl
  have m0 : w &&& 0xFC0#32 = 0x0#32 := by
    cases hw; show HAnd.hAnd (α := BitVec (8+6+6+6+6)) _ (0x0#8 ++ 0x0#6 ++ 0x0#6 ++ 0x3F#6 ++ 0x0#6) = _
    simp only [BitVec.and_append, BitVec.and_zero]; rfl
  have fd : fld w 18 6 = d := by
    cases hw; show BitVec.extractLsb' (n := 8+6+6+6+6) 18 6 _ = _; simp (disch := decide) only [above, below, Nat.reduceSub, BitVec.extractLsb'_eq_self, top]
  have fa : fld w 12 6 = a := by
    cases hw; show BitVec.extractLsb' (n := 8+6+6+6+6) 12 6 _ = _; simp (disch := decide) only [above, below, Nat.reduceSub, BitVec.extractLsb'_eq_self, top]
  have ff : fld w 0 6 = f := by
    cases hw; show BitVec.extractLsb' (n := 8+6+6+6+6) 0 6 _ = _; simp (disch := decide) only [above, below, Nat.reduceSub, BitVec.extractLsb'_eq_self, top]
  rw [opcodeOf_field, op]
  simp [decodeAt, decodeAt8, m0, fd, fa, ff]

theorem Encoding.ucmp (d : BitVec 6) (a : BitVec 6) (b : BitVec 6) (c : BitVec 3) (t : BitVec 3) : Encoding.Statement (.ucmp d a b c t) := by
  intro w hw
  have op : fld w 24 8 = 0x87 := by
    cases hw; show BitVec.extractLsb' (n := 8+6+6+6+3+3) 24 8 _ = _; simp (disch := decide) only [above, below, Nat.reduceSub, BitVec.extractLsb'_eq_self, top]; try rfl
  have fd : fld w 18 6 = d := by
    cases hw; show BitVec.extractLsb' (n := 8+6+6+6+3+3) 18 6 _ = _; simp (disch := decide) only [above, below, Nat.reduceSub, BitVec.extractLsb'_eq_self, top]
  have fa : fld w 12 6 = a := by
    cases hw; show BitVec.extractLsb' (n := 8+6+6+6+3+3) 12 6 _ = _; simp (disch := decide) only [above, below, Nat.reduceSub, BitVec.extractLsb'_eq_self, top]
  have fb : fld w 6 6 = b := by
    cases hw; show BitVec.extractLsb' (n := 8+6+6+6+3+3) 6 6 _ = _; simp (disch := decide) only [above, below, Nat.reduceSub, BitVec.extractLsb'_eq_self, top]
  have fc : fld w 3 3 = c := by
    cases hw; show BitVec.extractLsb' (n := 8+6+6+6+3+3) 3 3 _ = _; simp (disch := decide) only [above, below, Nat.reduceSub, BitVec.extractLsb'_eq_self, top]
  have ft : fld w 0 3 = t := by
    cases hw; show BitVec.extractLsb' (n := 8+6+6+6+3+3) 0 3 _ = _; simp (disch := decide) only [above, below, Nat.reduceSub, BitVec.extractLsb'_eq_self, top]
  rw [opcodeOf_field, op]
  simp [decodeAt, decodeAt8, fd, fa, fb, fc, ft]

theorem Encoding.umov (d : BitVec 6) (a : BitVec 6) (f : BitVec 6) : Encoding.Statement (.umov d a f) := by
  intro w hw
  have op : fld w 24 8 = 0x88 := by
    cases hw; show BitVec.extractLsb' (n := 8+6+6+6+6) 24 8 _ = _; simp (disch := decide) only [above, below, Nat.reduceSub, BitVec.extractLsb'_eq_self, top]; try rfl
  have m0 : w &&& 0xFC0#32 = 0x0#32 := by
    cases hw; show HAnd.hAnd (α := BitVec (8+6+6+6+6)) _ (0x0#8 ++ 0x0#6 ++ 0x0#6 ++ 0x3F#6 ++ 0x0#6) = _
    simp only [BitVec.and_append, BitVec.and_zero]; rfl
  have fd : fld w 18 6 = d := by
    cases hw; show BitVec.extractLsb' (n := 8+6+6+6+6) 18 6 _ = _; simp (disch := decide) only [above, below, Nat.reduceSub, BitVec.extractLsb'_eq_self, top]
  have fa : fld w 12 6 = a := by
    cases hw; show BitVec.extractLsb' (n := 8+6+6+6+6) 12 6 _ = _; simp (disch := decide) only [above, below, Nat.reduceSub, BitVec.extractLsb'_eq_self, top]
  have ff : fld w 0 6 = f := by
    cases hw; show BitVec.extractLsb' (n := 8+6+6+6+6) 0 6 _ = _; simp (disch := decide) only [above, below, Nat.reduceSub, BitVec.extractLsb'_eq_self, top]
  rw [opcodeOf_field, op]
  simp [decodeAt, decodeAt8, m0, fd, fa, ff]

theorem Encoding.uli (d : BitVec 6) (i : BitVec 18) : Encoding.Statement (.uli d i) := by
  intro w hw
  have op : fld w 24 8 = 0x89 := by
    cases hw; show BitVec.extractLsb' (n := 8+6+18) 24 8 _ = _; simp (disch := decide) only [above, below, Nat.reduceSub, BitVec.extractLsb'_eq_self, top]; try rfl
  have fd : fld w 18 6 = d := by
    cases hw; show BitVec.extractLsb' (n := 8+6+18) 18 6 _ = _; simp (disch := decide) only [above, below, Nat.reduceSub, BitVec.extractLsb'_eq_self, top]
  have fi : fld w 0 18 = i := by
    cases hw; show BitVec.extractLsb' (n := 8+6+18) 0 18 _ = _; simp (disch := decide) only [above, below, Nat.reduceSub, BitVec.extractLsb'_eq_self, top]
  rw [opcodeOf_field, op]
  simp [decodeAt, decodeAt8, fd, fi]

theorem Encoding.ulih (d : BitVec 6) (i : BitVec 18) : Encoding.Statement (.ulih d i) := by
  intro w hw
  have op : fld w 24 8 = 0x8a := by
    cases hw; show BitVec.extractLsb' (n := 8+6+18) 24 8 _ = _; simp (disch := decide) only [above, below, Nat.reduceSub, BitVec.extractLsb'_eq_self, top]; try rfl
  have fd : fld w 18 6 = d := by
    cases hw; show BitVec.extractLsb' (n := 8+6+18) 18 6 _ = _; simp (disch := decide) only [above, below, Nat.reduceSub, BitVec.extractLsb'_eq_self, top]
  have fi : fld w 0 18 = i := by
    cases hw; show BitVec.extractLsb' (n := 8+6+18) 0 18 _ = _; simp (disch := decide) only [above, below, Nat.reduceSub, BitVec.extractLsb'_eq_self, top]
  rw [opcodeOf_field, op]
  simp [decodeAt, decodeAt8, fd, fi]

theorem Encoding.uaddi (d : BitVec 6) (a : BitVec 6) (i : BitVec 12) : Encoding.Statement (.uaddi d a i) := by
  intro w hw
  have op : fld w 24 8 = 0x8b := by
    cases hw; show BitVec.extractLsb' (n := 8+6+6+12) 24 8 _ = _; simp (disch := decide) only [above, below, Nat.reduceSub, BitVec.extractLsb'_eq_self, top]; try rfl
  have fd : fld w 18 6 = d := by
    cases hw; show BitVec.extractLsb' (n := 8+6+6+12) 18 6 _ = _; simp (disch := decide) only [above, below, Nat.reduceSub, BitVec.extractLsb'_eq_self, top]
  have fa : fld w 12 6 = a := by
    cases hw; show BitVec.extractLsb' (n := 8+6+6+12) 12 6 _ = _; simp (disch := decide) only [above, below, Nat.reduceSub, BitVec.extractLsb'_eq_self, top]
  have fi : fld w 0 12 = i := by
    cases hw; show BitVec.extractLsb' (n := 8+6+6+12) 0 12 _ = _; simp (disch := decide) only [above, below, Nat.reduceSub, BitVec.extractLsb'_eq_self, top]
  rw [opcodeOf_field, op]
  simp [decodeAt, decodeAt8, fd, fa, fi]

theorem Encoding.mlogic (d : BitVec 3) (a : BitVec 3) (b : BitVec 3) (f : BitVec 6) : Encoding.Statement (.mlogic d a b f) := by
  intro w hw
  have op : fld w 24 8 = 0x90 := by
    cases hw; show BitVec.extractLsb' (n := 11+3+3+3+3+3+6) 24 8 _ = _; simp (disch := decide) only [above, below, Nat.reduceSub, BitVec.extractLsb'_eq_self, top]; try rfl
  have m0 : w &&& 0xE38E00#32 = 0x0#32 := by
    cases hw; show HAnd.hAnd (α := BitVec (11+3+3+3+3+3+6)) _ (0x7#11 ++ 0x0#3 ++ 0x7#3 ++ 0x0#3 ++ 0x7#3 ++ 0x0#3 ++ 0x0#6) = _
    simp only [BitVec.and_append, BitVec.and_zero]; rfl
  have fd : fld w 18 3 = d := by
    cases hw; show BitVec.extractLsb' (n := 11+3+3+3+3+3+6) 18 3 _ = _; simp (disch := decide) only [above, below, Nat.reduceSub, BitVec.extractLsb'_eq_self, top]
  have fa : fld w 12 3 = a := by
    cases hw; show BitVec.extractLsb' (n := 11+3+3+3+3+3+6) 12 3 _ = _; simp (disch := decide) only [above, below, Nat.reduceSub, BitVec.extractLsb'_eq_self, top]
  have fb : fld w 6 3 = b := by
    cases hw; show BitVec.extractLsb' (n := 11+3+3+3+3+3+6) 6 3 _ = _; simp (disch := decide) only [above, below, Nat.reduceSub, BitVec.extractLsb'_eq_self, top]
  have ff : fld w 0 6 = f := by
    cases hw; show BitVec.extractLsb' (n := 11+3+3+3+3+3+6) 0 6 _ = _; simp (disch := decide) only [above, below, Nat.reduceSub, BitVec.extractLsb'_eq_self, top]
  rw [opcodeOf_field, op]
  simp [decodeAt, decodeAt9, m0, fd, fa, fb, ff]

theorem Encoding.mpopc (d : BitVec 6) (a : BitVec 3) : Encoding.Statement (.mpopc d a) := by
  intro w hw
  have op : fld w 24 8 = 0x91 := by
    cases hw; show BitVec.extractLsb' (n := 8+6+3+3+12) 24 8 _ = _; simp (disch := decide) only [above, below, Nat.reduceSub, BitVec.extractLsb'_eq_self, top]; try rfl
  have m0 : w &&& 0x38FFF#32 = 0x0#32 := by
    cases hw; show HAnd.hAnd (α := BitVec (8+6+3+3+12)) _ (0x0#8 ++ 0x0#6 ++ 0x7#3 ++ 0x0#3 ++ 0xFFF#12) = _
    simp only [BitVec.and_append, BitVec.and_zero]; rfl
  have fd : fld w 18 6 = d := by
    cases hw; show BitVec.extractLsb' (n := 8+6+3+3+12) 18 6 _ = _; simp (disch := decide) only [above, below, Nat.reduceSub, BitVec.extractLsb'_eq_self, top]
  have fa : fld w 12 3 = a := by
    cases hw; show BitVec.extractLsb' (n := 8+6+3+3+12) 12 3 _ = _; simp (disch := decide) only [above, below, Nat.reduceSub, BitVec.extractLsb'_eq_self, top]
  rw [opcodeOf_field, op]
  simp [decodeAt, decodeAt9, m0, fd, fa]

theorem Encoding.mtos (d : BitVec 6) (a : BitVec 3) : Encoding.Statement (.mtos d a) := by
  intro w hw
  have op : fld w 24 8 = 0x92 := by
    cases hw; show BitVec.extractLsb' (n := 8+6+3+3+12) 24 8 _ = _; simp (disch := decide) only [above, below, Nat.reduceSub, BitVec.extractLsb'_eq_self, top]; try rfl
  have m0 : w &&& 0x38FFF#32 = 0x0#32 := by
    cases hw; show HAnd.hAnd (α := BitVec (8+6+3+3+12)) _ (0x0#8 ++ 0x0#6 ++ 0x7#3 ++ 0x0#3 ++ 0xFFF#12) = _
    simp only [BitVec.and_append, BitVec.and_zero]; rfl
  have fd : fld w 18 6 = d := by
    cases hw; show BitVec.extractLsb' (n := 8+6+3+3+12) 18 6 _ = _; simp (disch := decide) only [above, below, Nat.reduceSub, BitVec.extractLsb'_eq_self, top]
  have fa : fld w 12 3 = a := by
    cases hw; show BitVec.extractLsb' (n := 8+6+3+3+12) 12 3 _ = _; simp (disch := decide) only [above, below, Nat.reduceSub, BitVec.extractLsb'_eq_self, top]
  rw [opcodeOf_field, op]
  simp [decodeAt, decodeAt9, m0, fd, fa]

theorem Encoding.stom (d : BitVec 3) (a : BitVec 6) : Encoding.Statement (.stom d a) := by
  intro w hw
  have op : fld w 24 8 = 0x93 := by
    cases hw; show BitVec.extractLsb' (n := 11+3+6+12) 24 8 _ = _; simp (disch := decide) only [above, below, Nat.reduceSub, BitVec.extractLsb'_eq_self, top]; try rfl
  have m0 : w &&& 0xE00FFF#32 = 0x0#32 := by
    cases hw; show HAnd.hAnd (α := BitVec (11+3+6+12)) _ (0x7#11 ++ 0x0#3 ++ 0x0#6 ++ 0xFFF#12) = _
    simp only [BitVec.and_append, BitVec.and_zero]; rfl
  have fd : fld w 18 3 = d := by
    cases hw; show BitVec.extractLsb' (n := 11+3+6+12) 18 3 _ = _; simp (disch := decide) only [above, below, Nat.reduceSub, BitVec.extractLsb'_eq_self, top]
  have fa : fld w 12 6 = a := by
    cases hw; show BitVec.extractLsb' (n := 11+3+6+12) 12 6 _ = _; simp (disch := decide) only [above, below, Nat.reduceSub, BitVec.extractLsb'_eq_self, top]
  rw [opcodeOf_field, op]
  simp [decodeAt, decodeAt9, m0, fd, fa]

theorem Encoding.mfirst (d : BitVec 6) (a : BitVec 3) : Encoding.Statement (.mfirst d a) := by
  intro w hw
  have op : fld w 24 8 = 0x94 := by
    cases hw; show BitVec.extractLsb' (n := 8+6+3+3+12) 24 8 _ = _; simp (disch := decide) only [above, below, Nat.reduceSub, BitVec.extractLsb'_eq_self, top]; try rfl
  have m0 : w &&& 0x38FFF#32 = 0x0#32 := by
    cases hw; show HAnd.hAnd (α := BitVec (8+6+3+3+12)) _ (0x0#8 ++ 0x0#6 ++ 0x7#3 ++ 0x0#3 ++ 0xFFF#12) = _
    simp only [BitVec.and_append, BitVec.and_zero]; rfl
  have fd : fld w 18 6 = d := by
    cases hw; show BitVec.extractLsb' (n := 8+6+3+3+12) 18 6 _ = _; simp (disch := decide) only [above, below, Nat.reduceSub, BitVec.extractLsb'_eq_self, top]
  have fa : fld w 12 3 = a := by
    cases hw; show BitVec.extractLsb' (n := 8+6+3+3+12) 12 3 _ = _; simp (disch := decide) only [above, below, Nat.reduceSub, BitVec.extractLsb'_eq_self, top]
  rw [opcodeOf_field, op]
  simp [decodeAt, decodeAt9, m0, fd, fa]

theorem Encoding.ulane (d : BitVec 6) (a : BitVec 6) (n : BitVec 6) : Encoding.Statement (.ulane d a n) := by
  intro w hw
  have op : fld w 24 8 = 0x98 := by
    cases hw; show BitVec.extractLsb' (n := 8+6+6+6+6) 24 8 _ = _; simp (disch := decide) only [above, below, Nat.reduceSub, BitVec.extractLsb'_eq_self, top]; try rfl
  have m0 : w &&& 0xFC0#32 = 0x0#32 := by
    cases hw; show HAnd.hAnd (α := BitVec (8+6+6+6+6)) _ (0x0#8 ++ 0x0#6 ++ 0x0#6 ++ 0x3F#6 ++ 0x0#6) = _
    simp only [BitVec.and_append, BitVec.and_zero]; rfl
  have fd : fld w 18 6 = d := by
    cases hw; show BitVec.extractLsb' (n := 8+6+6+6+6) 18 6 _ = _; simp (disch := decide) only [above, below, Nat.reduceSub, BitVec.extractLsb'_eq_self, top]
  have fa : fld w 12 6 = a := by
    cases hw; show BitVec.extractLsb' (n := 8+6+6+6+6) 12 6 _ = _; simp (disch := decide) only [above, below, Nat.reduceSub, BitVec.extractLsb'_eq_self, top]
  have fn : fld w 0 6 = n := by
    cases hw; show BitVec.extractLsb' (n := 8+6+6+6+6) 0 6 _ = _; simp (disch := decide) only [above, below, Nat.reduceSub, BitVec.extractLsb'_eq_self, top]
  rw [opcodeOf_field, op]
  simp [decodeAt, decodeAt9, m0, fd, fa, fn]

theorem Encoding.uld32 (d : BitVec 6) (a : BitVec 6) (o : BitVec 8) (q : BitVec 4) : Encoding.Statement (.uld32 d a o q) := by
  intro w hw
  have op : fld w 24 8 = 0xa0 := by
    cases hw; show BitVec.extractLsb' (n := 8+6+6+8+4) 24 8 _ = _; simp (disch := decide) only [above, below, Nat.reduceSub, BitVec.extractLsb'_eq_self, top]; try rfl
  have fd : fld w 18 6 = d := by
    cases hw; show BitVec.extractLsb' (n := 8+6+6+8+4) 18 6 _ = _; simp (disch := decide) only [above, below, Nat.reduceSub, BitVec.extractLsb'_eq_self, top]
  have fa : fld w 12 6 = a := by
    cases hw; show BitVec.extractLsb' (n := 8+6+6+8+4) 12 6 _ = _; simp (disch := decide) only [above, below, Nat.reduceSub, BitVec.extractLsb'_eq_self, top]
  have fo : fld w 4 8 = o := by
    cases hw; show BitVec.extractLsb' (n := 8+6+6+8+4) 4 8 _ = _; simp (disch := decide) only [above, below, Nat.reduceSub, BitVec.extractLsb'_eq_self, top]
  have fq : fld w 0 4 = q := by
    cases hw; show BitVec.extractLsb' (n := 8+6+6+8+4) 0 4 _ = _; simp (disch := decide) only [above, below, Nat.reduceSub, BitVec.extractLsb'_eq_self, top]
  rw [opcodeOf_field, op]
  simp [decodeAt, decodeAtA, fd, fa, fo, fq]

theorem Encoding.uld64 (d : BitVec 6) (a : BitVec 6) (o : BitVec 8) (q : BitVec 4) : Encoding.Statement (.uld64 d a o q) := by
  intro w hw
  have op : fld w 24 8 = 0xa1 := by
    cases hw; show BitVec.extractLsb' (n := 8+6+6+8+4) 24 8 _ = _; simp (disch := decide) only [above, below, Nat.reduceSub, BitVec.extractLsb'_eq_self, top]; try rfl
  have fd : fld w 18 6 = d := by
    cases hw; show BitVec.extractLsb' (n := 8+6+6+8+4) 18 6 _ = _; simp (disch := decide) only [above, below, Nat.reduceSub, BitVec.extractLsb'_eq_self, top]
  have fa : fld w 12 6 = a := by
    cases hw; show BitVec.extractLsb' (n := 8+6+6+8+4) 12 6 _ = _; simp (disch := decide) only [above, below, Nat.reduceSub, BitVec.extractLsb'_eq_self, top]
  have fo : fld w 4 8 = o := by
    cases hw; show BitVec.extractLsb' (n := 8+6+6+8+4) 4 8 _ = _; simp (disch := decide) only [above, below, Nat.reduceSub, BitVec.extractLsb'_eq_self, top]
  have fq : fld w 0 4 = q := by
    cases hw; show BitVec.extractLsb' (n := 8+6+6+8+4) 0 4 _ = _; simp (disch := decide) only [above, below, Nat.reduceSub, BitVec.extractLsb'_eq_self, top]
  rw [opcodeOf_field, op]
  simp [decodeAt, decodeAtA, fd, fa, fo, fq]

theorem Encoding.ust32 (d : BitVec 6) (a : BitVec 6) (o : BitVec 8) (q : BitVec 4) : Encoding.Statement (.ust32 d a o q) := by
  intro w hw
  have op : fld w 24 8 = 0xa2 := by
    cases hw; show BitVec.extractLsb' (n := 8+6+6+8+4) 24 8 _ = _; simp (disch := decide) only [above, below, Nat.reduceSub, BitVec.extractLsb'_eq_self, top]; try rfl
  have fd : fld w 18 6 = d := by
    cases hw; show BitVec.extractLsb' (n := 8+6+6+8+4) 18 6 _ = _; simp (disch := decide) only [above, below, Nat.reduceSub, BitVec.extractLsb'_eq_self, top]
  have fa : fld w 12 6 = a := by
    cases hw; show BitVec.extractLsb' (n := 8+6+6+8+4) 12 6 _ = _; simp (disch := decide) only [above, below, Nat.reduceSub, BitVec.extractLsb'_eq_self, top]
  have fo : fld w 4 8 = o := by
    cases hw; show BitVec.extractLsb' (n := 8+6+6+8+4) 4 8 _ = _; simp (disch := decide) only [above, below, Nat.reduceSub, BitVec.extractLsb'_eq_self, top]
  have fq : fld w 0 4 = q := by
    cases hw; show BitVec.extractLsb' (n := 8+6+6+8+4) 0 4 _ = _; simp (disch := decide) only [above, below, Nat.reduceSub, BitVec.extractLsb'_eq_self, top]
  rw [opcodeOf_field, op]
  simp [decodeAt, decodeAtA, fd, fa, fo, fq]

theorem Encoding.ust64 (d : BitVec 6) (a : BitVec 6) (o : BitVec 8) (q : BitVec 4) : Encoding.Statement (.ust64 d a o q) := by
  intro w hw
  have op : fld w 24 8 = 0xa3 := by
    cases hw; show BitVec.extractLsb' (n := 8+6+6+8+4) 24 8 _ = _; simp (disch := decide) only [above, below, Nat.reduceSub, BitVec.extractLsb'_eq_self, top]; try rfl
  have fd : fld w 18 6 = d := by
    cases hw; show BitVec.extractLsb' (n := 8+6+6+8+4) 18 6 _ = _; simp (disch := decide) only [above, below, Nat.reduceSub, BitVec.extractLsb'_eq_self, top]
  have fa : fld w 12 6 = a := by
    cases hw; show BitVec.extractLsb' (n := 8+6+6+8+4) 12 6 _ = _; simp (disch := decide) only [above, below, Nat.reduceSub, BitVec.extractLsb'_eq_self, top]
  have fo : fld w 4 8 = o := by
    cases hw; show BitVec.extractLsb' (n := 8+6+6+8+4) 4 8 _ = _; simp (disch := decide) only [above, below, Nat.reduceSub, BitVec.extractLsb'_eq_self, top]
  have fq : fld w 0 4 = q := by
    cases hw; show BitVec.extractLsb' (n := 8+6+6+8+4) 0 4 _ = _; simp (disch := decide) only [above, below, Nat.reduceSub, BitVec.extractLsb'_eq_self, top]
  rw [opcodeOf_field, op]
  simp [decodeAt, decodeAtA, fd, fa, fo, fq]

theorem Encoding.rgrow (n : BitVec 6) : Encoding.Statement (.rgrow n) := by
  intro w hw
  have op : fld w 24 8 = 0xa8 := by
    cases hw; show BitVec.extractLsb' (n := 26+6) 24 8 _ = _; simp (disch := decide) only [above, below, Nat.reduceSub, BitVec.extractLsb'_eq_self, top]; try rfl
  have m0 : w &&& 0xFFFFC0#32 = 0x0#32 := by
    cases hw; show HAnd.hAnd (α := BitVec (26+6)) _ (0x3FFFF#26 ++ 0x0#6) = _
    simp only [BitVec.and_append, BitVec.and_zero]; rfl
  have fn : fld w 0 6 = n := by
    cases hw; show BitVec.extractLsb' (n := 26+6) 0 6 _ = _; simp (disch := decide) only [above, below, Nat.reduceSub, BitVec.extractLsb'_eq_self, top]
  rw [opcodeOf_field, op]
  simp [decodeAt, decodeAtA, m0, fn]

theorem Encoding.rgrowTry (d : BitVec 6) (n : BitVec 6) : Encoding.Statement (.rgrowTry d n) := by
  intro w hw
  have op : fld w 24 8 = 0xa8 := by
    cases hw; show BitVec.extractLsb' (n := 8+6+12+6) 24 8 _ = _; simp (disch := decide) only [above, below, Nat.reduceSub, BitVec.extractLsb'_eq_self, top]; try rfl
  have m0 : w &&& 0x800#32 = 0x800#32 := by
    cases hw; show HAnd.hAnd (α := BitVec (8+6+12+6)) _ (0x0#8 ++ 0x0#6 ++ 0x20#12 ++ 0x0#6) = _
    simp only [BitVec.and_append, BitVec.and_zero]; rfl
  have n0 : ¬(w &&& 0xFFFFC0#32 = 0x0#32) := by
    intro e
    have e2 := congrArg (fun x => x &&& 0x800#32) e
    rw [BitVec.and_assoc, show (0xFFFFC0#32 &&& 0x800#32) = 0x800#32 from rfl, m0] at e2
    exact absurd e2 (by decide)
  have m1 : w &&& 0x3FFC0#32 = 0x800#32 := by
    cases hw; show HAnd.hAnd (α := BitVec (8+6+12+6)) _ (0x0#8 ++ 0x0#6 ++ 0xFFF#12 ++ 0x0#6) = _
    simp only [BitVec.and_append, BitVec.and_zero]; rfl
  have fd : fld w 18 6 = d := by
    cases hw; show BitVec.extractLsb' (n := 8+6+12+6) 18 6 _ = _; simp (disch := decide) only [above, below, Nat.reduceSub, BitVec.extractLsb'_eq_self, top]
  have fn : fld w 0 6 = n := by
    cases hw; show BitVec.extractLsb' (n := 8+6+12+6) 0 6 _ = _; simp (disch := decide) only [above, below, Nat.reduceSub, BitVec.extractLsb'_eq_self, top]
  rw [opcodeOf_field, op]
  simp [decodeAt, decodeAtA, n0, m1, fd, fn]

theorem Encoding.rshrink (n : BitVec 6) : Encoding.Statement (.rshrink n) := by
  intro w hw
  have op : fld w 24 8 = 0xa9 := by
    cases hw; show BitVec.extractLsb' (n := 26+6) 24 8 _ = _; simp (disch := decide) only [above, below, Nat.reduceSub, BitVec.extractLsb'_eq_self, top]; try rfl
  have m0 : w &&& 0xFFFFC0#32 = 0x0#32 := by
    cases hw; show HAnd.hAnd (α := BitVec (26+6)) _ (0x3FFFF#26 ++ 0x0#6) = _
    simp only [BitVec.and_append, BitVec.and_zero]; rfl
  have fn : fld w 0 6 = n := by
    cases hw; show BitVec.extractLsb' (n := 26+6) 0 6 _ = _; simp (disch := decide) only [above, below, Nat.reduceSub, BitVec.extractLsb'_eq_self, top]
  rw [opcodeOf_field, op]
  simp [decodeAt, decodeAtA, m0, fn]

theorem Encoding.cpy (d : BitVec 6) (a : BitVec 6) : Encoding.Statement (.cpy d a) := by
  intro w hw
  have op : fld w 24 8 = 0xb0 := by
    cases hw; show BitVec.extractLsb' (n := 8+6+6+12) 24 8 _ = _; simp (disch := decide) only [above, below, Nat.reduceSub, BitVec.extractLsb'_eq_self, top]; try rfl
  have m0 : w &&& 0xFFF#32 = 0x0#32 := by
    cases hw; show HAnd.hAnd (α := BitVec (8+6+6+12)) _ (0x0#8 ++ 0x0#6 ++ 0x0#6 ++ 0xFFF#12) = _
    simp only [BitVec.and_append, BitVec.and_zero]; rfl
  have fd : fld w 18 6 = d := by
    cases hw; show BitVec.extractLsb' (n := 8+6+6+12) 18 6 _ = _; simp (disch := decide) only [above, below, Nat.reduceSub, BitVec.extractLsb'_eq_self, top]
  have fa : fld w 12 6 = a := by
    cases hw; show BitVec.extractLsb' (n := 8+6+6+12) 12 6 _ = _; simp (disch := decide) only [above, below, Nat.reduceSub, BitVec.extractLsb'_eq_self, top]
  rw [opcodeOf_field, op]
  simp [decodeAt, decodeAtB, m0, fd, fa]

theorem Encoding.mmpost (d : BitVec 6) (a : BitVec 6) : Encoding.Statement (.mmpost d a) := by
  intro w hw
  have op : fld w 24 8 = 0xb1 := by
    cases hw; show BitVec.extractLsb' (n := 8+6+6+12) 24 8 _ = _; simp (disch := decide) only [above, below, Nat.reduceSub, BitVec.extractLsb'_eq_self, top]; try rfl
  have m0 : w &&& 0xFFF#32 = 0x0#32 := by
    cases hw; show HAnd.hAnd (α := BitVec (8+6+6+12)) _ (0x0#8 ++ 0x0#6 ++ 0x0#6 ++ 0xFFF#12) = _
    simp only [BitVec.and_append, BitVec.and_zero]; rfl
  have fd : fld w 18 6 = d := by
    cases hw; show BitVec.extractLsb' (n := 8+6+6+12) 18 6 _ = _; simp (disch := decide) only [above, below, Nat.reduceSub, BitVec.extractLsb'_eq_self, top]
  have fa : fld w 12 6 = a := by
    cases hw; show BitVec.extractLsb' (n := 8+6+6+12) 12 6 _ = _; simp (disch := decide) only [above, below, Nat.reduceSub, BitVec.extractLsb'_eq_self, top]
  rw [opcodeOf_field, op]
  simp [decodeAt, decodeAtB, m0, fd, fa]

theorem Encoding.mmfence : Encoding.Statement (.mmfence) := by
  intro w hw
  cases hw
  rfl

theorem Encoding.twait (a : BitVec 6) : Encoding.Statement (.twait a) := by
  intro w hw
  have op : fld w 24 8 = 0xb3 := by
    cases hw; show BitVec.extractLsb' (n := 14+6+12) 24 8 _ = _; simp (disch := decide) only [above, below, Nat.reduceSub, BitVec.extractLsb'_eq_self, top]; try rfl
  have m0 : w &&& 0xFC0FFF#32 = 0x0#32 := by
    cases hw; show HAnd.hAnd (α := BitVec (14+6+12)) _ (0x3F#14 ++ 0x0#6 ++ 0xFFF#12) = _
    simp only [BitVec.and_append, BitVec.and_zero]; rfl
  have fa : fld w 12 6 = a := by
    cases hw; show BitVec.extractLsb' (n := 14+6+12) 12 6 _ = _; simp (disch := decide) only [above, below, Nat.reduceSub, BitVec.extractLsb'_eq_self, top]
  rw [opcodeOf_field, op]
  simp [decodeAt, decodeAtB, m0, fa]

theorem Encoding.coll (d : BitVec 6) (a : BitVec 6) : Encoding.Statement (.coll d a) := by
  intro w hw
  have op : fld w 24 8 = 0xb4 := by
    cases hw; show BitVec.extractLsb' (n := 8+6+6+12) 24 8 _ = _; simp (disch := decide) only [above, below, Nat.reduceSub, BitVec.extractLsb'_eq_self, top]; try rfl
  have m0 : w &&& 0xFFF#32 = 0x0#32 := by
    cases hw; show HAnd.hAnd (α := BitVec (8+6+6+12)) _ (0x0#8 ++ 0x0#6 ++ 0x0#6 ++ 0xFFF#12) = _
    simp only [BitVec.and_append, BitVec.and_zero]; rfl
  have fd : fld w 18 6 = d := by
    cases hw; show BitVec.extractLsb' (n := 8+6+6+12) 18 6 _ = _; simp (disch := decide) only [above, below, Nat.reduceSub, BitVec.extractLsb'_eq_self, top]
  have fa : fld w 12 6 = a := by
    cases hw; show BitVec.extractLsb' (n := 8+6+6+12) 12 6 _ = _; simp (disch := decide) only [above, below, Nat.reduceSub, BitVec.extractLsb'_eq_self, top]
  rw [opcodeOf_field, op]
  simp [decodeAt, decodeAtB, m0, fd, fa]

theorem Encoding.stamp (c : BitVec 12) : Encoding.Statement (.stamp c) := by
  intro w hw
  have op : fld w 24 8 = 0xb5 := by
    cases hw; show BitVec.extractLsb' (n := 20+12) 24 8 _ = _; simp (disch := decide) only [above, below, Nat.reduceSub, BitVec.extractLsb'_eq_self, top]; try rfl
  have m0 : w &&& 0xFFF000#32 = 0x0#32 := by
    cases hw; show HAnd.hAnd (α := BitVec (20+12)) _ (0xFFF#20 ++ 0x0#12) = _
    simp only [BitVec.and_append, BitVec.and_zero]; rfl
  have fc : fld w 0 12 = c := by
    cases hw; show BitVec.extractLsb' (n := 20+12) 0 12 _ = _; simp (disch := decide) only [above, below, Nat.reduceSub, BitVec.extractLsb'_eq_self, top]
  rw [opcodeOf_field, op]
  simp [decodeAt, decodeAtB, m0, fc]

theorem Encoding.smapRw (d : BitVec 6) (a : BitVec 6) (b : BitVec 6) (q : BitVec 4) : Encoding.Statement (.smapRw d a b q) := by
  intro w hw
  have op : fld w 24 8 = 0xb8 := by
    cases hw; show BitVec.extractLsb' (n := 8+6+6+6+4+2) 24 8 _ = _; simp (disch := decide) only [above, below, Nat.reduceSub, BitVec.extractLsb'_eq_self, top]; try rfl
  have m0 : w &&& 0x3#32 = 0x0#32 := by
    cases hw; show HAnd.hAnd (α := BitVec (8+6+6+6+4+2)) _ (0x0#8 ++ 0x0#6 ++ 0x0#6 ++ 0x0#6 ++ 0x0#4 ++ 0x3#2) = _
    simp only [BitVec.and_append, BitVec.and_zero]; rfl
  have fd : fld w 18 6 = d := by
    cases hw; show BitVec.extractLsb' (n := 8+6+6+6+4+2) 18 6 _ = _; simp (disch := decide) only [above, below, Nat.reduceSub, BitVec.extractLsb'_eq_self, top]
  have fa : fld w 12 6 = a := by
    cases hw; show BitVec.extractLsb' (n := 8+6+6+6+4+2) 12 6 _ = _; simp (disch := decide) only [above, below, Nat.reduceSub, BitVec.extractLsb'_eq_self, top]
  have fb : fld w 6 6 = b := by
    cases hw; show BitVec.extractLsb' (n := 8+6+6+6+4+2) 6 6 _ = _; simp (disch := decide) only [above, below, Nat.reduceSub, BitVec.extractLsb'_eq_self, top]
  have fq : fld w 2 4 = q := by
    cases hw; show BitVec.extractLsb' (n := 8+6+6+6+4+2) 2 4 _ = _; simp (disch := decide) only [above, below, Nat.reduceSub, BitVec.extractLsb'_eq_self, top]
  rw [opcodeOf_field, op]
  simp [decodeAt, decodeAtB, m0, fd, fa, fb, fq]

theorem Encoding.smapRo (d : BitVec 6) (a : BitVec 6) (b : BitVec 6) (q : BitVec 4) : Encoding.Statement (.smapRo d a b q) := by
  intro w hw
  have op : fld w 24 8 = 0xb8 := by
    cases hw; show BitVec.extractLsb' (n := 8+6+6+6+4+2) 24 8 _ = _; simp (disch := decide) only [above, below, Nat.reduceSub, BitVec.extractLsb'_eq_self, top]; try rfl
  have m0 : w &&& 0x3#32 = 0x1#32 := by
    cases hw; show HAnd.hAnd (α := BitVec (8+6+6+6+4+2)) _ (0x0#8 ++ 0x0#6 ++ 0x0#6 ++ 0x0#6 ++ 0x0#4 ++ 0x3#2) = _
    simp only [BitVec.and_append, BitVec.and_zero]; rfl
  have fd : fld w 18 6 = d := by
    cases hw; show BitVec.extractLsb' (n := 8+6+6+6+4+2) 18 6 _ = _; simp (disch := decide) only [above, below, Nat.reduceSub, BitVec.extractLsb'_eq_self, top]
  have fa : fld w 12 6 = a := by
    cases hw; show BitVec.extractLsb' (n := 8+6+6+6+4+2) 12 6 _ = _; simp (disch := decide) only [above, below, Nat.reduceSub, BitVec.extractLsb'_eq_self, top]
  have fb : fld w 6 6 = b := by
    cases hw; show BitVec.extractLsb' (n := 8+6+6+6+4+2) 6 6 _ = _; simp (disch := decide) only [above, below, Nat.reduceSub, BitVec.extractLsb'_eq_self, top]
  have fq : fld w 2 4 = q := by
    cases hw; show BitVec.extractLsb' (n := 8+6+6+6+4+2) 2 4 _ = _; simp (disch := decide) only [above, below, Nat.reduceSub, BitVec.extractLsb'_eq_self, top]
  rw [opcodeOf_field, op]
  simp [decodeAt, decodeAtB, m0, fd, fa, fb, fq]

theorem Encoding.smapScratch (d : BitVec 6) (b : BitVec 6) : Encoding.Statement (.smapScratch d b) := by
  intro w hw
  have op : fld w 24 8 = 0xb8 := by
    cases hw; show BitVec.extractLsb' (n := 8+6+6+6+6) 24 8 _ = _; simp (disch := decide) only [above, below, Nat.reduceSub, BitVec.extractLsb'_eq_self, top]; try rfl
  have m0 : w &&& 0x3#32 = 0x2#32 := by
    cases hw; show HAnd.hAnd (α := BitVec (8+6+6+6+6)) _ (0x0#8 ++ 0x0#6 ++ 0x0#6 ++ 0x0#6 ++ 0x3#6) = _
    simp only [BitVec.and_append, BitVec.and_zero]; rfl
  have m1 : w &&& 0x3F03F#32 = 0x2#32 := by
    cases hw; show HAnd.hAnd (α := BitVec (8+6+6+6+6)) _ (0x0#8 ++ 0x0#6 ++ 0x3F#6 ++ 0x0#6 ++ 0x3F#6) = _
    simp only [BitVec.and_append, BitVec.and_zero]; rfl
  have fd : fld w 18 6 = d := by
    cases hw; show BitVec.extractLsb' (n := 8+6+6+6+6) 18 6 _ = _; simp (disch := decide) only [above, below, Nat.reduceSub, BitVec.extractLsb'_eq_self, top]
  have fb : fld w 6 6 = b := by
    cases hw; show BitVec.extractLsb' (n := 8+6+6+6+6) 6 6 _ = _; simp (disch := decide) only [above, below, Nat.reduceSub, BitVec.extractLsb'_eq_self, top]
  rw [opcodeOf_field, op]
  simp [decodeAt, decodeAtB, m0, m1, fd, fb]

theorem Encoding.sunmap (a : BitVec 6) : Encoding.Statement (.sunmap a) := by
  intro w hw
  have op : fld w 24 8 = 0xb9 := by
    cases hw; show BitVec.extractLsb' (n := 14+6+12) 24 8 _ = _; simp (disch := decide) only [above, below, Nat.reduceSub, BitVec.extractLsb'_eq_self, top]; try rfl
  have m0 : w &&& 0xFC0FFF#32 = 0x0#32 := by
    cases hw; show HAnd.hAnd (α := BitVec (14+6+12)) _ (0x3F#14 ++ 0x0#6 ++ 0xFFF#12) = _
    simp only [BitVec.and_append, BitVec.and_zero]; rfl
  have fa : fld w 12 6 = a := by
    cases hw; show BitVec.extractLsb' (n := 14+6+12) 12 6 _ = _; simp (disch := decide) only [above, below, Nat.reduceSub, BitVec.extractLsb'_eq_self, top]
  rw [opcodeOf_field, op]
  simp [decodeAt, decodeAtB, m0, fa]

theorem Encoding.sflush (a : BitVec 6) (b : BitVec 6) : Encoding.Statement (.sflush a b) := by
  intro w hw
  have op : fld w 24 8 = 0xba := by
    cases hw; show BitVec.extractLsb' (n := 14+6+6+6) 24 8 _ = _; simp (disch := decide) only [above, below, Nat.reduceSub, BitVec.extractLsb'_eq_self, top]; try rfl
  have m0 : w &&& 0xFC003F#32 = 0x0#32 := by
    cases hw; show HAnd.hAnd (α := BitVec (14+6+6+6)) _ (0x3F#14 ++ 0x0#6 ++ 0x0#6 ++ 0x3F#6) = _
    simp only [BitVec.and_append, BitVec.and_zero]; rfl
  have fa : fld w 12 6 = a := by
    cases hw; show BitVec.extractLsb' (n := 14+6+6+6) 12 6 _ = _; simp (disch := decide) only [above, below, Nat.reduceSub, BitVec.extractLsb'_eq_self, top]
  have fb : fld w 6 6 = b := by
    cases hw; show BitVec.extractLsb' (n := 14+6+6+6) 6 6 _ = _; simp (disch := decide) only [above, below, Nat.reduceSub, BitVec.extractLsb'_eq_self, top]
  rw [opcodeOf_field, op]
  simp [decodeAt, decodeAtB, m0, fa, fb]

theorem Encoding.sinv (a : BitVec 6) (b : BitVec 6) : Encoding.Statement (.sinv a b) := by
  intro w hw
  have op : fld w 24 8 = 0xbb := by
    cases hw; show BitVec.extractLsb' (n := 14+6+6+6) 24 8 _ = _; simp (disch := decide) only [above, below, Nat.reduceSub, BitVec.extractLsb'_eq_self, top]; try rfl
  have m0 : w &&& 0xFC003F#32 = 0x0#32 := by
    cases hw; show HAnd.hAnd (α := BitVec (14+6+6+6)) _ (0x3F#14 ++ 0x0#6 ++ 0x0#6 ++ 0x3F#6) = _
    simp only [BitVec.and_append, BitVec.and_zero]; rfl
  have fa : fld w 12 6 = a := by
    cases hw; show BitVec.extractLsb' (n := 14+6+6+6) 12 6 _ = _; simp (disch := decide) only [above, below, Nat.reduceSub, BitVec.extractLsb'_eq_self, top]
  have fb : fld w 6 6 = b := by
    cases hw; show BitVec.extractLsb' (n := 14+6+6+6) 6 6 _ = _; simp (disch := decide) only [above, below, Nat.reduceSub, BitVec.extractLsb'_eq_self, top]
  rw [opcodeOf_field, op]
  simp [decodeAt, decodeAtB, m0, fa, fb]

theorem Encoding.sstat (d : BitVec 6) (a : BitVec 6) (s : BitVec 6) : Encoding.Statement (.sstat d a s) := by
  intro w hw
  have op : fld w 24 8 = 0xbc := by
    cases hw; show BitVec.extractLsb' (n := 8+6+6+6+6) 24 8 _ = _; simp (disch := decide) only [above, below, Nat.reduceSub, BitVec.extractLsb'_eq_self, top]; try rfl
  have m0 : w &&& 0xFC0#32 = 0x0#32 := by
    cases hw; show HAnd.hAnd (α := BitVec (8+6+6+6+6)) _ (0x0#8 ++ 0x0#6 ++ 0x0#6 ++ 0x3F#6 ++ 0x0#6) = _
    simp only [BitVec.and_append, BitVec.and_zero]; rfl
  have fd : fld w 18 6 = d := by
    cases hw; show BitVec.extractLsb' (n := 8+6+6+6+6) 18 6 _ = _; simp (disch := decide) only [above, below, Nat.reduceSub, BitVec.extractLsb'_eq_self, top]
  have fa : fld w 12 6 = a := by
    cases hw; show BitVec.extractLsb' (n := 8+6+6+6+6) 12 6 _ = _; simp (disch := decide) only [above, below, Nat.reduceSub, BitVec.extractLsb'_eq_self, top]
  have fs : fld w 0 6 = s := by
    cases hw; show BitVec.extractLsb' (n := 8+6+6+6+6) 0 6 _ = _; simp (disch := decide) only [above, below, Nat.reduceSub, BitVec.extractLsb'_eq_self, top]
  rw [opcodeOf_field, op]
  simp [decodeAt, decodeAtB, m0, fd, fa, fs]

theorem Encoding.binit (a : BitVec 6) (l : BitVec 2) (n : BitVec 4) : Encoding.Statement (.binit a l n) := by
  intro w hw
  have op : fld w 24 8 = 0xc0 := by
    cases hw; show BitVec.extractLsb' (n := 14+6+6+2+4) 24 8 _ = _; simp (disch := decide) only [above, below, Nat.reduceSub, BitVec.extractLsb'_eq_self, top]; try rfl
  have m0 : w &&& 0xFC0FC0#32 = 0x0#32 := by
    cases hw; show HAnd.hAnd (α := BitVec (14+6+6+2+4)) _ (0x3F#14 ++ 0x0#6 ++ 0x3F#6 ++ 0x0#2 ++ 0x0#4) = _
    simp only [BitVec.and_append, BitVec.and_zero]; rfl
  have fa : fld w 12 6 = a := by
    cases hw; show BitVec.extractLsb' (n := 14+6+6+2+4) 12 6 _ = _; simp (disch := decide) only [above, below, Nat.reduceSub, BitVec.extractLsb'_eq_self, top]
  have fl : fld w 4 2 = l := by
    cases hw; show BitVec.extractLsb' (n := 14+6+6+2+4) 4 2 _ = _; simp (disch := decide) only [above, below, Nat.reduceSub, BitVec.extractLsb'_eq_self, top]
  have fn : fld w 0 4 = n := by
    cases hw; show BitVec.extractLsb' (n := 14+6+6+2+4) 0 4 _ = _; simp (disch := decide) only [above, below, Nat.reduceSub, BitVec.extractLsb'_eq_self, top]
  rw [opcodeOf_field, op]
  simp [decodeAt, decodeAtC, m0, fa, fl, fn]

theorem Encoding.barrive (d : BitVec 6) (l : BitVec 2) (n : BitVec 4) : Encoding.Statement (.barrive d l n) := by
  intro w hw
  have op : fld w 24 8 = 0xc1 := by
    cases hw; show BitVec.extractLsb' (n := 8+6+12+2+4) 24 8 _ = _; simp (disch := decide) only [above, below, Nat.reduceSub, BitVec.extractLsb'_eq_self, top]; try rfl
  have m0 : w &&& 0x3FFC0#32 = 0x0#32 := by
    cases hw; show HAnd.hAnd (α := BitVec (8+6+12+2+4)) _ (0x0#8 ++ 0x0#6 ++ 0xFFF#12 ++ 0x0#2 ++ 0x0#4) = _
    simp only [BitVec.and_append, BitVec.and_zero]; rfl
  have fd : fld w 18 6 = d := by
    cases hw; show BitVec.extractLsb' (n := 8+6+12+2+4) 18 6 _ = _; simp (disch := decide) only [above, below, Nat.reduceSub, BitVec.extractLsb'_eq_self, top]
  have fl : fld w 4 2 = l := by
    cases hw; show BitVec.extractLsb' (n := 8+6+12+2+4) 4 2 _ = _; simp (disch := decide) only [above, below, Nat.reduceSub, BitVec.extractLsb'_eq_self, top]
  have fn : fld w 0 4 = n := by
    cases hw; show BitVec.extractLsb' (n := 8+6+12+2+4) 0 4 _ = _; simp (disch := decide) only [above, below, Nat.reduceSub, BitVec.extractLsb'_eq_self, top]
  rw [opcodeOf_field, op]
  simp [decodeAt, decodeAtC, m0, fd, fl, fn]

theorem Encoding.bwait (a : BitVec 6) (l : BitVec 2) (n : BitVec 4) : Encoding.Statement (.bwait a l n) := by
  intro w hw
  have op : fld w 24 8 = 0xc2 := by
    cases hw; show BitVec.extractLsb' (n := 14+6+6+2+4) 24 8 _ = _; simp (disch := decide) only [above, below, Nat.reduceSub, BitVec.extractLsb'_eq_self, top]; try rfl
  have m0 : w &&& 0xFC0FC0#32 = 0x0#32 := by
    cases hw; show HAnd.hAnd (α := BitVec (14+6+6+2+4)) _ (0x3F#14 ++ 0x0#6 ++ 0x3F#6 ++ 0x0#2 ++ 0x0#4) = _
    simp only [BitVec.and_append, BitVec.and_zero]; rfl
  have fa : fld w 12 6 = a := by
    cases hw; show BitVec.extractLsb' (n := 14+6+6+2+4) 12 6 _ = _; simp (disch := decide) only [above, below, Nat.reduceSub, BitVec.extractLsb'_eq_self, top]
  have fl : fld w 4 2 = l := by
    cases hw; show BitVec.extractLsb' (n := 14+6+6+2+4) 4 2 _ = _; simp (disch := decide) only [above, below, Nat.reduceSub, BitVec.extractLsb'_eq_self, top]
  have fn : fld w 0 4 = n := by
    cases hw; show BitVec.extractLsb' (n := 14+6+6+2+4) 0 4 _ = _; simp (disch := decide) only [above, below, Nat.reduceSub, BitVec.extractLsb'_eq_self, top]
  rw [opcodeOf_field, op]
  simp [decodeAt, decodeAtC, m0, fa, fl, fn]

theorem Encoding.bsync (l : BitVec 2) (n : BitVec 4) : Encoding.Statement (.bsync l n) := by
  intro w hw
  have op : fld w 24 8 = 0xc3 := by
    cases hw; show BitVec.extractLsb' (n := 26+2+4) 24 8 _ = _; simp (disch := decide) only [above, below, Nat.reduceSub, BitVec.extractLsb'_eq_self, top]; try rfl
  have m0 : w &&& 0xFFFFC0#32 = 0x0#32 := by
    cases hw; show HAnd.hAnd (α := BitVec (26+2+4)) _ (0x3FFFF#26 ++ 0x0#2 ++ 0x0#4) = _
    simp only [BitVec.and_append, BitVec.and_zero]; rfl
  have fl : fld w 4 2 = l := by
    cases hw; show BitVec.extractLsb' (n := 26+2+4) 4 2 _ = _; simp (disch := decide) only [above, below, Nat.reduceSub, BitVec.extractLsb'_eq_self, top]
  have fn : fld w 0 4 = n := by
    cases hw; show BitVec.extractLsb' (n := 26+2+4) 0 4 _ = _; simp (disch := decide) only [above, below, Nat.reduceSub, BitVec.extractLsb'_eq_self, top]
  rw [opcodeOf_field, op]
  simp [decodeAt, decodeAtC, m0, fl, fn]

theorem Encoding.bpay (d : BitVec 6) (a : BitVec 6) (p : BitVec 3) (l : BitVec 2) (n : BitVec 4) : Encoding.Statement (.bpay d a p l n) := by
  intro w hw
  have op : fld w 24 8 = 0xc4 := by
    cases hw; show BitVec.extractLsb' (n := 8+6+6+3+3+2+4) 24 8 _ = _; simp (disch := decide) only [above, below, Nat.reduceSub, BitVec.extractLsb'_eq_self, top]; try rfl
  have m0 : w &&& 0xE00#32 = 0x0#32 := by
    cases hw; show HAnd.hAnd (α := BitVec (8+6+6+3+3+2+4)) _ (0x0#8 ++ 0x0#6 ++ 0x0#6 ++ 0x7#3 ++ 0x0#3 ++ 0x0#2 ++ 0x0#4) = _
    simp only [BitVec.and_append, BitVec.and_zero]; rfl
  have fd : fld w 18 6 = d := by
    cases hw; show BitVec.extractLsb' (n := 8+6+6+3+3+2+4) 18 6 _ = _; simp (disch := decide) only [above, below, Nat.reduceSub, BitVec.extractLsb'_eq_self, top]
  have fa : fld w 12 6 = a := by
    cases hw; show BitVec.extractLsb' (n := 8+6+6+3+3+2+4) 12 6 _ = _; simp (disch := decide) only [above, below, Nat.reduceSub, BitVec.extractLsb'_eq_self, top]
  have fp : fld w 6 3 = p := by
    cases hw; show BitVec.extractLsb' (n := 8+6+6+3+3+2+4) 6 3 _ = _; simp (disch := decide) only [above, below, Nat.reduceSub, BitVec.extractLsb'_eq_self, top]
  have fl : fld w 4 2 = l := by
    cases hw; show BitVec.extractLsb' (n := 8+6+6+3+3+2+4) 4 2 _ = _; simp (disch := decide) only [above, below, Nat.reduceSub, BitVec.extractLsb'_eq_self, top]
  have fn : fld w 0 4 = n := by
    cases hw; show BitVec.extractLsb' (n := 8+6+6+3+3+2+4) 0 4 _ = _; simp (disch := decide) only [above, below, Nat.reduceSub, BitVec.extractLsb'_eq_self, top]
  rw [opcodeOf_field, op]
  simp [decodeAt, decodeAtC, m0, fd, fa, fp, fl, fn]

theorem Encoding.hcfg (a : BitVec 6) (m : BitVec 3) : Encoding.Statement (.hcfg a m) := by
  intro w hw
  have op : fld w 24 8 = 0xc8 := by
    cases hw; show BitVec.extractLsb' (n := 14+6+9+3) 24 8 _ = _; simp (disch := decide) only [above, below, Nat.reduceSub, BitVec.extractLsb'_eq_self, top]; try rfl
  have m0 : w &&& 0xFC0FF8#32 = 0x0#32 := by
    cases hw; show HAnd.hAnd (α := BitVec (14+6+9+3)) _ (0x3F#14 ++ 0x0#6 ++ 0x1FF#9 ++ 0x0#3) = _
    simp only [BitVec.and_append, BitVec.and_zero]; rfl
  have fa : fld w 12 6 = a := by
    cases hw; show BitVec.extractLsb' (n := 14+6+9+3) 12 6 _ = _; simp (disch := decide) only [above, below, Nat.reduceSub, BitVec.extractLsb'_eq_self, top]
  have fm : fld w 0 3 = m := by
    cases hw; show BitVec.extractLsb' (n := 14+6+9+3) 0 3 _ = _; simp (disch := decide) only [above, below, Nat.reduceSub, BitVec.extractLsb'_eq_self, top]
  rw [opcodeOf_field, op]
  simp [decodeAt, decodeAtC, m0, fa, fm]

theorem Encoding.href (a : BitVec 6) (m : BitVec 3) : Encoding.Statement (.href a m) := by
  intro w hw
  have op : fld w 24 8 = 0xc9 := by
    cases hw; show BitVec.extractLsb' (n := 14+6+9+3) 24 8 _ = _; simp (disch := decide) only [above, below, Nat.reduceSub, BitVec.extractLsb'_eq_self, top]; try rfl
  have m0 : w &&& 0xFC0FF8#32 = 0x0#32 := by
    cases hw; show HAnd.hAnd (α := BitVec (14+6+9+3)) _ (0x3F#14 ++ 0x0#6 ++ 0x1FF#9 ++ 0x0#3) = _
    simp only [BitVec.and_append, BitVec.and_zero]; rfl
  have fa : fld w 12 6 = a := by
    cases hw; show BitVec.extractLsb' (n := 14+6+9+3) 12 6 _ = _; simp (disch := decide) only [above, below, Nat.reduceSub, BitVec.extractLsb'_eq_self, top]
  have fm : fld w 0 3 = m := by
    cases hw; show BitVec.extractLsb' (n := 14+6+9+3) 0 3 _ = _; simp (disch := decide) only [above, below, Nat.reduceSub, BitVec.extractLsb'_eq_self, top]
  rw [opcodeOf_field, op]
  simp [decodeAt, decodeAtC, m0, fa, fm]

theorem Encoding.hrd (d : BitVec 6) (a : BitVec 6) (m : BitVec 3) : Encoding.Statement (.hrd d a m) := by
  intro w hw
  have op : fld w 24 8 = 0xca := by
    cases hw; show BitVec.extractLsb' (n := 8+6+6+9+3) 24 8 _ = _; simp (disch := decide) only [above, below, Nat.reduceSub, BitVec.extractLsb'_eq_self, top]; try rfl
  have m0 : w &&& 0xFF8#32 = 0x0#32 := by
    cases hw; show HAnd.hAnd (α := BitVec (8+6+6+9+3)) _ (0x0#8 ++ 0x0#6 ++ 0x0#6 ++ 0x1FF#9 ++ 0x0#3) = _
    simp only [BitVec.and_append, BitVec.and_zero]; rfl
  have fd : fld w 18 6 = d := by
    cases hw; show BitVec.extractLsb' (n := 8+6+6+9+3) 18 6 _ = _; simp (disch := decide) only [above, below, Nat.reduceSub, BitVec.extractLsb'_eq_self, top]
  have fa : fld w 12 6 = a := by
    cases hw; show BitVec.extractLsb' (n := 8+6+6+9+3) 12 6 _ = _; simp (disch := decide) only [above, below, Nat.reduceSub, BitVec.extractLsb'_eq_self, top]
  have fm : fld w 0 3 = m := by
    cases hw; show BitVec.extractLsb' (n := 8+6+6+9+3) 0 3 _ = _; simp (disch := decide) only [above, below, Nat.reduceSub, BitVec.extractLsb'_eq_self, top]
  rw [opcodeOf_field, op]
  simp [decodeAt, decodeAtC, m0, fd, fa, fm]

theorem Encoding.harm (a : BitVec 6) (m : BitVec 3) : Encoding.Statement (.harm a m) := by
  intro w hw
  have op : fld w 24 8 = 0xcb := by
    cases hw; show BitVec.extractLsb' (n := 14+6+9+3) 24 8 _ = _; simp (disch := decide) only [above, below, Nat.reduceSub, BitVec.extractLsb'_eq_self, top]; try rfl
  have m0 : w &&& 0xFC0FF8#32 = 0x0#32 := by
    cases hw; show HAnd.hAnd (α := BitVec (14+6+9+3)) _ (0x3F#14 ++ 0x0#6 ++ 0x1FF#9 ++ 0x0#3) = _
    simp only [BitVec.and_append, BitVec.and_zero]; rfl
  have fa : fld w 12 6 = a := by
    cases hw; show BitVec.extractLsb' (n := 14+6+9+3) 12 6 _ = _; simp (disch := decide) only [above, below, Nat.reduceSub, BitVec.extractLsb'_eq_self, top]
  have fm : fld w 0 3 = m := by
    cases hw; show BitVec.extractLsb' (n := 14+6+9+3) 0 3 _ = _; simp (disch := decide) only [above, below, Nat.reduceSub, BitVec.extractLsb'_eq_self, top]
  rw [opcodeOf_field, op]
  simp [decodeAt, decodeAtC, m0, fa, fm]

theorem Encoding.hchk (d : BitVec 6) (m : BitVec 3) : Encoding.Statement (.hchk d m) := by
  intro w hw
  have op : fld w 24 8 = 0xcc := by
    cases hw; show BitVec.extractLsb' (n := 8+6+15+3) 24 8 _ = _; simp (disch := decide) only [above, below, Nat.reduceSub, BitVec.extractLsb'_eq_self, top]; try rfl
  have m0 : w &&& 0x3FFF8#32 = 0x0#32 := by
    cases hw; show HAnd.hAnd (α := BitVec (8+6+15+3)) _ (0x0#8 ++ 0x0#6 ++ 0x7FFF#15 ++ 0x0#3) = _
    simp only [BitVec.and_append, BitVec.and_zero]; rfl
  have fd : fld w 18 6 = d := by
    cases hw; show BitVec.extractLsb' (n := 8+6+15+3) 18 6 _ = _; simp (disch := decide) only [above, below, Nat.reduceSub, BitVec.extractLsb'_eq_self, top]
  have fm : fld w 0 3 = m := by
    cases hw; show BitVec.extractLsb' (n := 8+6+15+3) 0 3 _ = _; simp (disch := decide) only [above, below, Nat.reduceSub, BitVec.extractLsb'_eq_self, top]
  rw [opcodeOf_field, op]
  simp [decodeAt, decodeAtC, m0, fd, fm]

theorem Encoding.vstat (d : BitVec 6) (s : BitVec 12) : Encoding.Statement (.vstat d s) := by
  intro w hw
  have op : fld w 24 8 = 0xd0 := by
    cases hw; show BitVec.extractLsb' (n := 8+6+6+12) 24 8 _ = _; simp (disch := decide) only [above, below, Nat.reduceSub, BitVec.extractLsb'_eq_self, top]; try rfl
  have m0 : w &&& 0x3F000#32 = 0x0#32 := by
    cases hw; show HAnd.hAnd (α := BitVec (8+6+6+12)) _ (0x0#8 ++ 0x0#6 ++ 0x3F#6 ++ 0x0#12) = _
    simp only [BitVec.and_append, BitVec.and_zero]; rfl
  have fd : fld w 18 6 = d := by
    cases hw; show BitVec.extractLsb' (n := 8+6+6+12) 18 6 _ = _; simp (disch := decide) only [above, below, Nat.reduceSub, BitVec.extractLsb'_eq_self, top]
  have fs : fld w 0 12 = s := by
    cases hw; show BitVec.extractLsb' (n := 8+6+6+12) 0 12 _ = _; simp (disch := decide) only [above, below, Nat.reduceSub, BitVec.extractLsb'_eq_self, top]
  rw [opcodeOf_field, op]
  simp [decodeAt, decodeAtD, m0, fd, fs]

theorem Encoding.nlaunch (a : BitVec 6) : Encoding.Statement (.nlaunch a) := by
  intro w hw
  have op : fld w 24 8 = 0xd8 := by
    cases hw; show BitVec.extractLsb' (n := 14+6+12) 24 8 _ = _; simp (disch := decide) only [above, below, Nat.reduceSub, BitVec.extractLsb'_eq_self, top]; try rfl
  have m0 : w &&& 0xFC0FFF#32 = 0x0#32 := by
    cases hw; show HAnd.hAnd (α := BitVec (14+6+12)) _ (0x3F#14 ++ 0x0#6 ++ 0xFFF#12) = _
    simp only [BitVec.and_append, BitVec.and_zero]; rfl
  have fa : fld w 12 6 = a := by
    cases hw; show BitVec.extractLsb' (n := 14+6+12) 12 6 _ = _; simp (disch := decide) only [above, below, Nat.reduceSub, BitVec.extractLsb'_eq_self, top]
  rw [opcodeOf_field, op]
  simp [decodeAt, decodeAtD, m0, fa]

theorem Encoding.sigw (a : BitVec 6) : Encoding.Statement (.sigw a) := by
  intro w hw
  have op : fld w 24 8 = 0xd9 := by
    cases hw; show BitVec.extractLsb' (n := 14+6+12) 24 8 _ = _; simp (disch := decide) only [above, below, Nat.reduceSub, BitVec.extractLsb'_eq_self, top]; try rfl
  have m0 : w &&& 0xFC0FFF#32 = 0x0#32 := by
    cases hw; show HAnd.hAnd (α := BitVec (14+6+12)) _ (0x3F#14 ++ 0x0#6 ++ 0xFFF#12) = _
    simp only [BitVec.and_append, BitVec.and_zero]; rfl
  have fa : fld w 12 6 = a := by
    cases hw; show BitVec.extractLsb' (n := 14+6+12) 12 6 _ = _; simp (disch := decide) only [above, below, Nat.reduceSub, BitVec.extractLsb'_eq_self, top]
  rw [opcodeOf_field, op]
  simp [decodeAt, decodeAtD, m0, fa]

theorem Encoding.trap (n : BitVec 4) : Encoding.Statement (.trap n) := by
  intro w hw
  have op : fld w 24 8 = 0xe0 := by
    cases hw; show BitVec.extractLsb' (n := 28+4) 24 8 _ = _; simp (disch := decide) only [above, below, Nat.reduceSub, BitVec.extractLsb'_eq_self, top]; try rfl
  have m0 : w &&& 0xFFFFF0#32 = 0x0#32 := by
    cases hw; show HAnd.hAnd (α := BitVec (28+4)) _ (0xFFFFF#28 ++ 0x0#4) = _
    simp only [BitVec.and_append, BitVec.and_zero]; rfl
  have fn : fld w 0 4 = n := by
    cases hw; show BitVec.extractLsb' (n := 28+4) 0 4 _ = _; simp (disch := decide) only [above, below, Nat.reduceSub, BitVec.extractLsb'_eq_self, top]
  rw [opcodeOf_field, op]
  simp [decodeAt, decodeAtE, m0, fn]

theorem Encoding.bkpt : Encoding.Statement (.bkpt) := by
  intro w hw
  cases hw
  rfl

theorem Encoding.rett : Encoding.Statement (.rett) := by
  intro w hw
  cases hw
  rfl

theorem Encoding.srd (d : BitVec 6) (r : BitVec 12) : Encoding.Statement (.srd d r) := by
  intro w hw
  have op : fld w 24 8 = 0xe3 := by
    cases hw; show BitVec.extractLsb' (n := 8+6+6+12) 24 8 _ = _; simp (disch := decide) only [above, below, Nat.reduceSub, BitVec.extractLsb'_eq_self, top]; try rfl
  have m0 : w &&& 0x3F000#32 = 0x0#32 := by
    cases hw; show HAnd.hAnd (α := BitVec (8+6+6+12)) _ (0x0#8 ++ 0x0#6 ++ 0x3F#6 ++ 0x0#12) = _
    simp only [BitVec.and_append, BitVec.and_zero]; rfl
  have fd : fld w 18 6 = d := by
    cases hw; show BitVec.extractLsb' (n := 8+6+6+12) 18 6 _ = _; simp (disch := decide) only [above, below, Nat.reduceSub, BitVec.extractLsb'_eq_self, top]
  have fr : fld w 0 12 = r := by
    cases hw; show BitVec.extractLsb' (n := 8+6+6+12) 0 12 _ = _; simp (disch := decide) only [above, below, Nat.reduceSub, BitVec.extractLsb'_eq_self, top]
  rw [opcodeOf_field, op]
  simp [decodeAt, decodeAtE, m0, fd, fr]

theorem Encoding.swr (a : BitVec 6) (r : BitVec 12) : Encoding.Statement (.swr a r) := by
  intro w hw
  have op : fld w 24 8 = 0xe4 := by
    cases hw; show BitVec.extractLsb' (n := 14+6+12) 24 8 _ = _; simp (disch := decide) only [above, below, Nat.reduceSub, BitVec.extractLsb'_eq_self, top]; try rfl
  have m0 : w &&& 0xFC0000#32 = 0x0#32 := by
    cases hw; show HAnd.hAnd (α := BitVec (14+6+12)) _ (0x3F#14 ++ 0x0#6 ++ 0x0#12) = _
    simp only [BitVec.and_append, BitVec.and_zero]; rfl
  have fa : fld w 12 6 = a := by
    cases hw; show BitVec.extractLsb' (n := 14+6+12) 12 6 _ = _; simp (disch := decide) only [above, below, Nat.reduceSub, BitVec.extractLsb'_eq_self, top]
  have fr : fld w 0 12 = r := by
    cases hw; show BitVec.extractLsb' (n := 14+6+12) 0 12 _ = _; simp (disch := decide) only [above, below, Nat.reduceSub, BitVec.extractLsb'_eq_self, top]
  rw [opcodeOf_field, op]
  simp [decodeAt, decodeAtE, m0, fa, fr]

theorem Encoding.icinv (a : BitVec 6) (s : BitVec 3) : Encoding.Statement (.icinv a s) := by
  intro w hw
  have op : fld w 24 8 = 0xe5 := by
    cases hw; show BitVec.extractLsb' (n := 14+6+9+3) 24 8 _ = _; simp (disch := decide) only [above, below, Nat.reduceSub, BitVec.extractLsb'_eq_self, top]; try rfl
  have m0 : w &&& 0xFC0FF8#32 = 0x0#32 := by
    cases hw; show HAnd.hAnd (α := BitVec (14+6+9+3)) _ (0x3F#14 ++ 0x0#6 ++ 0x1FF#9 ++ 0x0#3) = _
    simp only [BitVec.and_append, BitVec.and_zero]; rfl
  have fa : fld w 12 6 = a := by
    cases hw; show BitVec.extractLsb' (n := 14+6+9+3) 12 6 _ = _; simp (disch := decide) only [above, below, Nat.reduceSub, BitVec.extractLsb'_eq_self, top]
  have fs : fld w 0 3 = s := by
    cases hw; show BitVec.extractLsb' (n := 14+6+9+3) 0 3 _ = _; simp (disch := decide) only [above, below, Nat.reduceSub, BitVec.extractLsb'_eq_self, top]
  rw [opcodeOf_field, op]
  simp [decodeAt, decodeAtE, m0, fa, fs]

theorem Encoding.icinvAll (s : BitVec 3) : Encoding.Statement (.icinvAll s) := by
  intro w hw
  have op : fld w 24 8 = 0xe5 := by
    cases hw; show BitVec.extractLsb' (n := 29+3) 24 8 _ = _; simp (disch := decide) only [above, below, Nat.reduceSub, BitVec.extractLsb'_eq_self, top]; try rfl
  have m0 : w &&& 0xFC0FF8#32 = 0x8#32 := by
    cases hw; show HAnd.hAnd (α := BitVec (29+3)) _ (0x1F81FF#29 ++ 0x0#3) = _
    simp only [BitVec.and_append, BitVec.and_zero]; rfl
  have m1 : w &&& 0xFFFFF8#32 = 0x8#32 := by
    cases hw; show HAnd.hAnd (α := BitVec (29+3)) _ (0x1FFFFF#29 ++ 0x0#3) = _
    simp only [BitVec.and_append, BitVec.and_zero]; rfl
  have fs : fld w 0 3 = s := by
    cases hw; show BitVec.extractLsb' (n := 29+3) 0 3 _ = _; simp (disch := decide) only [above, below, Nat.reduceSub, BitVec.extractLsb'_eq_self, top]
  rw [opcodeOf_field, op]
  simp [decodeAt, decodeAtE, m0, m1, fs]

theorem Encoding.tlbinvAll : Encoding.Statement (.tlbinvAll) := by
  intro w hw
  cases hw
  rfl

theorem Encoding.tlbinvAsid (b : BitVec 6) : Encoding.Statement (.tlbinvAsid b) := by
  intro w hw
  have op : fld w 24 8 = 0xe6 := by
    cases hw; show BitVec.extractLsb' (n := 20+6+6) 24 8 _ = _; simp (disch := decide) only [above, below, Nat.reduceSub, BitVec.extractLsb'_eq_self, top]; try rfl
  have m0 : w &&& 0x1#32 = 0x1#32 := by
    cases hw; show HAnd.hAnd (α := BitVec (20+6+6)) _ (0x0#20 ++ 0x0#6 ++ 0x1#6) = _
    simp only [BitVec.and_append, BitVec.and_zero]; rfl
  have n0 : ¬(w &&& 0xFFFFFF#32 = 0x0#32) := by
    intro e
    have e2 := congrArg (fun x => x &&& 0x1#32) e
    rw [BitVec.and_assoc, show (0xFFFFFF#32 &&& 0x1#32) = 0x1#32 from rfl, m0] at e2
    exact absurd e2 (by decide)
  have m1 : w &&& 0xFFF03F#32 = 0x1#32 := by
    cases hw; show HAnd.hAnd (α := BitVec (20+6+6)) _ (0xFFF#20 ++ 0x0#6 ++ 0x3F#6) = _
    simp only [BitVec.and_append, BitVec.and_zero]; rfl
  have fb : fld w 6 6 = b := by
    cases hw; show BitVec.extractLsb' (n := 20+6+6) 6 6 _ = _; simp (disch := decide) only [above, below, Nat.reduceSub, BitVec.extractLsb'_eq_self, top]
  rw [opcodeOf_field, op]
  simp [decodeAt, decodeAtE, n0, m1, fb]

theorem Encoding.tlbinvVa (a : BitVec 6) (b : BitVec 6) : Encoding.Statement (.tlbinvVa a b) := by
  intro w hw
  have op : fld w 24 8 = 0xe6 := by
    cases hw; show BitVec.extractLsb' (n := 14+6+6+6) 24 8 _ = _; simp (disch := decide) only [above, below, Nat.reduceSub, BitVec.extractLsb'_eq_self, top]; try rfl
  have m0 : w &&& 0x2#32 = 0x2#32 := by
    cases hw; show HAnd.hAnd (α := BitVec (14+6+6+6)) _ (0x0#14 ++ 0x0#6 ++ 0x0#6 ++ 0x2#6) = _
    simp only [BitVec.and_append, BitVec.and_zero]; rfl
  have n0 : ¬(w &&& 0xFFFFFF#32 = 0x0#32) := by
    intro e
    have e2 := congrArg (fun x => x &&& 0x2#32) e
    rw [BitVec.and_assoc, show (0xFFFFFF#32 &&& 0x2#32) = 0x2#32 from rfl, m0] at e2
    exact absurd e2 (by decide)
  have m1 : w &&& 0x3#32 = 0x2#32 := by
    cases hw; show HAnd.hAnd (α := BitVec (14+6+6+6)) _ (0x0#14 ++ 0x0#6 ++ 0x0#6 ++ 0x3#6) = _
    simp only [BitVec.and_append, BitVec.and_zero]; rfl
  have n1 : ¬(w &&& 0xFFF03F#32 = 0x1#32) := by
    intro e
    have e2 := congrArg (fun x => x &&& 0x3#32) e
    rw [BitVec.and_assoc, show (0xFFF03F#32 &&& 0x3#32) = 0x3#32 from rfl, m1] at e2
    exact absurd e2 (by decide)
  have m2 : w &&& 0xFC003F#32 = 0x2#32 := by
    cases hw; show HAnd.hAnd (α := BitVec (14+6+6+6)) _ (0x3F#14 ++ 0x0#6 ++ 0x0#6 ++ 0x3F#6) = _
    simp only [BitVec.and_append, BitVec.and_zero]; rfl
  have fa : fld w 12 6 = a := by
    cases hw; show BitVec.extractLsb' (n := 14+6+6+6) 12 6 _ = _; simp (disch := decide) only [above, below, Nat.reduceSub, BitVec.extractLsb'_eq_self, top]
  have fb : fld w 6 6 = b := by
    cases hw; show BitVec.extractLsb' (n := 14+6+6+6) 6 6 _ = _; simp (disch := decide) only [above, below, Nat.reduceSub, BitVec.extractLsb'_eq_self, top]
  rw [opcodeOf_field, op]
  simp [decodeAt, decodeAtE, n0, n1, m2, fa, fb]

theorem Encoding.hlrd (d : BitVec 6) (a : BitVec 6) (c : BitVec 6) : Encoding.Statement (.hlrd d a c) := by
  intro w hw
  have op : fld w 24 8 = 0xe8 := by
    cases hw; show BitVec.extractLsb' (n := 8+6+6+6+6) 24 8 _ = _; simp (disch := decide) only [above, below, Nat.reduceSub, BitVec.extractLsb'_eq_self, top]; try rfl
  have m0 : w &&& 0xFC0#32 = 0x0#32 := by
    cases hw; show HAnd.hAnd (α := BitVec (8+6+6+6+6)) _ (0x0#8 ++ 0x0#6 ++ 0x0#6 ++ 0x3F#6 ++ 0x0#6) = _
    simp only [BitVec.and_append, BitVec.and_zero]; rfl
  have fd : fld w 18 6 = d := by
    cases hw; show BitVec.extractLsb' (n := 8+6+6+6+6) 18 6 _ = _; simp (disch := decide) only [above, below, Nat.reduceSub, BitVec.extractLsb'_eq_self, top]
  have fa : fld w 12 6 = a := by
    cases hw; show BitVec.extractLsb' (n := 8+6+6+6+6) 12 6 _ = _; simp (disch := decide) only [above, below, Nat.reduceSub, BitVec.extractLsb'_eq_self, top]
  have fc : fld w 0 6 = c := by
    cases hw; show BitVec.extractLsb' (n := 8+6+6+6+6) 0 6 _ = _; simp (disch := decide) only [above, below, Nat.reduceSub, BitVec.extractLsb'_eq_self, top]
  rw [opcodeOf_field, op]
  simp [decodeAt, decodeAtE, m0, fd, fa, fc]

theorem Encoding.hlwr (d : BitVec 6) (a : BitVec 6) (b : BitVec 6) (c : BitVec 6) : Encoding.Statement (.hlwr d a b c) := by
  intro w hw
  have op : fld w 24 8 = 0xe9 := by
    cases hw; show BitVec.extractLsb' (n := 8+6+6+6+6) 24 8 _ = _; simp (disch := decide) only [above, below, Nat.reduceSub, BitVec.extractLsb'_eq_self, top]; try rfl
  have fd : fld w 18 6 = d := by
    cases hw; show BitVec.extractLsb' (n := 8+6+6+6+6) 18 6 _ = _; simp (disch := decide) only [above, below, Nat.reduceSub, BitVec.extractLsb'_eq_self, top]
  have fa : fld w 12 6 = a := by
    cases hw; show BitVec.extractLsb' (n := 8+6+6+6+6) 12 6 _ = _; simp (disch := decide) only [above, below, Nat.reduceSub, BitVec.extractLsb'_eq_self, top]
  have fb : fld w 6 6 = b := by
    cases hw; show BitVec.extractLsb' (n := 8+6+6+6+6) 6 6 _ = _; simp (disch := decide) only [above, below, Nat.reduceSub, BitVec.extractLsb'_eq_self, top]
  have fc : fld w 0 6 = c := by
    cases hw; show BitVec.extractLsb' (n := 8+6+6+6+6) 0 6 _ = _; simp (disch := decide) only [above, below, Nat.reduceSub, BitVec.extractLsb'_eq_self, top]
  rw [opcodeOf_field, op]
  simp [decodeAt, decodeAtE, fd, fa, fb, fc]

theorem Encoding.fstatWrite (bundle : Nat) (lanes : BitVec 64) (value : BitVec 32) : Encoding.Statement (.fstatWrite bundle lanes value) := by
  intro w hw
  cases hw

theorem Encoding.bstatWrite (bundle : Nat) (value : BitVec 32) : Encoding.Statement (.bstatWrite bundle value) := by
  intro w hw
  cases hw

theorem Encoding.tagmodeWrite (asid : BitVec 16) (value : BitVec 32) : Encoding.Statement (.tagmodeWrite asid value) := by
  intro w hw
  cases hw

theorem Encoding.leashWrite (asid : BitVec 16) (value : BitVec 32) : Encoding.Statement (.leashWrite asid value) := by
  intro w hw
  cases hw

theorem Encoding.streamcfgWrite (asid : BitVec 16) (n : BitVec 4) (value : BitVec 32) : Encoding.Statement (.streamcfgWrite asid n value) := by
  intro w hw
  cases hw

theorem Encoding.hentryWrite (asid : BitVec 16) (value : BitVec 64) : Encoding.Statement (.hentryWrite asid value) := by
  intro w hw
  cases hw

theorem Encoding.injectWrite (asid : BitVec 16) (value : BitVec 64) : Encoding.Statement (.injectWrite asid value) := by
  intro w hw
  cases hw

theorem Encoding.completionFlagClear (bundle : Nat) (op : Nat) : Encoding.Statement (.completionFlagClear bundle op) := by
  intro w hw
  cases hw

theorem Encoding.leashRotate (bundle : Nat) : Encoding.Statement (.leashRotate bundle) := by
  intro w hw
  cases hw

theorem Encoding.leashTurnEnd (bundle : Nat) : Encoding.Statement (.leashTurnEnd bundle) := by
  intro w hw
  cases hw

theorem Encoding.rgrowGrant (place : Nat) (sub : Nat) : Encoding.Statement (.rgrowGrant place sub) := by
  intro w hw
  cases hw

theorem Encoding.memoryAccessPerformed (bundle : Nat) (lane : Nat) (item : Nat) : Encoding.Statement (.memoryAccessPerformed bundle lane item) := by
  intro w hw
  cases hw

theorem Encoding.awaitReread (bundle : Nat) (lane : Nat) : Encoding.Statement (.awaitReread bundle lane) := by
  intro w hw
  cases hw

theorem Encoding.stashFillArrives (team : Nat) (window : Nat) (line : Nat) : Encoding.Statement (.stashFillArrives team window line) := by
  intro w hw
  cases hw

theorem Encoding.stashRecall (team : Nat) (window : Nat) (line : Nat) (store : Bool) : Encoding.Statement (.stashRecall team window line store) := by
  intro w hw
  cases hw

theorem Encoding.stashWritebackAck (team : Nat) (window : Nat) (line : Nat) : Encoding.Statement (.stashWritebackAck team window line) := by
  intro w hw
  cases hw

theorem Encoding.stashWritebackTimeout (team : Nat) (window : Nat) (line : Nat) : Encoding.Statement (.stashWritebackTimeout team window line) := by
  intro w hw
  cases hw

theorem Encoding.uncorrectableError (team : Nat) (window : Nat) (line : Nat) : Encoding.Statement (.uncorrectableError team window line) := by
  intro w hw
  cases hw

theorem Encoding.engineCommandQueued (bundle : Nat) : Encoding.Statement (.engineCommandQueued bundle) := by
  intro w hw
  cases hw

theorem Encoding.copyStart (cmd : Nat) : Encoding.Statement (.copyStart cmd) := by
  intro w hw
  cases hw

theorem Encoding.copyDone (cmd : Nat) : Encoding.Statement (.copyDone cmd) := by
  intro w hw
  cases hw

theorem Encoding.matrixTurn (cmd : Nat) : Encoding.Statement (.matrixTurn cmd) := by
  intro w hw
  cases hw

theorem Encoding.matrixDone (cmd : Nat) : Encoding.Statement (.matrixDone cmd) := by
  intro w hw
  cases hw

theorem Encoding.collectiveDone (cmd : Nat) (result : BitVec 3) (flags : BitVec 5) : Encoding.Statement (.collectiveDone cmd result flags) := by
  intro w hw
  cases hw

theorem Encoding.teamPlaced (pack : Nat) (origin : Nat) : Encoding.Statement (.teamPlaced pack origin) := by
  intro w hw
  cases hw

theorem Encoding.teamPublish (team : Nat) : Encoding.Statement (.teamPublish team) := by
  intro w hw
  cases hw

theorem Encoding.teamKill (team : Nat) (cause : BitVec 8) : Encoding.Statement (.teamKill team cause) := by
  intro w hw
  cases hw

theorem Encoding.pageWalkComplete (asid : BitVec 16) (va : BitVec 64) (store : Bool) : Encoding.Statement (.pageWalkComplete asid va store) := by
  intro w hw
  cases hw

theorem Encoding.pageFaultRecordPost (ticket : BitVec 32) : Encoding.Statement (.pageFaultRecordPost ticket) := by
  intro w hw
  cases hw

theorem Encoding.resumeReplay (ring : Nat) (ticket : BitVec 32) : Encoding.Statement (.resumeReplay ring ticket) := by
  intro w hw
  cases hw

theorem Encoding.resumeDeliver (ring : Nat) (ticket : BitVec 32) : Encoding.Statement (.resumeDeliver ring ticket) := by
  intro w hw
  cases hw

theorem Encoding.tlbreqAll : Encoding.Statement (.tlbreqAll) := by
  intro w hw
  cases hw

theorem Encoding.tlbreqAsid (asid : BitVec 16) : Encoding.Statement (.tlbreqAsid asid) := by
  intro w hw
  cases hw

theorem Encoding.tlbreqVa (asid : BitVec 16) (va : BitVec 64) : Encoding.Statement (.tlbreqVa asid va) := by
  intro w hw
  cases hw

theorem Encoding.handlerEventStart (bundle : Nat) : Encoding.Statement (.handlerEventStart bundle) := by
  intro w hw
  cases hw

theorem Encoding.step (bundle : Nat) : Encoding.Statement (.step bundle) := by
  intro w hw
  cases hw

theorem Encoding.whistleRaise (asid : BitVec 16) (part : Nat) : Encoding.Statement (.whistleRaise asid part) := by
  intro w hw
  cases hw

theorem Encoding.whistleDeadline (asid : BitVec 16) (part : Nat) : Encoding.Statement (.whistleDeadline asid part) := by
  intro w hw
  cases hw

theorem Encoding.contextSaveDone (asid : BitVec 16) (part : Nat) : Encoding.Statement (.contextSaveDone asid part) := by
  intro w hw
  cases hw

theorem Encoding.kennelEvict (asid : BitVec 16) (part : Nat) : Encoding.Statement (.kennelEvict asid part) := by
  intro w hw
  cases hw

theorem Encoding.kennelStage (asid : BitVec 16) (part : Nat) (target : Nat) : Encoding.Statement (.kennelStage asid part target) := by
  intro w hw
  cases hw

theorem Encoding.contextResume (asid : BitVec 16) (part : Nat) (target : Nat) : Encoding.Statement (.contextResume asid part target) := by
  intro w hw
  cases hw

theorem Encoding.restoreDone (asid : BitVec 16) (part : Nat) (badTeams : List Nat) : Encoding.Statement (.restoreDone asid part badTeams) := by
  intro w hw
  cases hw

theorem Encoding.doorbell (qid : Nat) : Encoding.Statement (.doorbell qid) := by
  intro w hw
  cases hw

theorem Encoding.kickService (qid : Nat) : Encoding.Statement (.kickService qid) := by
  intro w hw
  cases hw

theorem Encoding.launch (qid : Nat) : Encoding.Statement (.launch qid) := by
  intro w hw
  cases hw

theorem Encoding.barrierAnd (qid : Nat) : Encoding.Statement (.barrierAnd qid) := by
  intro w hw
  cases hw

theorem Encoding.barrierOr (qid : Nat) : Encoding.Statement (.barrierOr qid) := by
  intro w hw
  cases hw

theorem Encoding.signal (qid : Nat) : Encoding.Statement (.signal qid) := by
  intro w hw
  cases hw

theorem Encoding.nopPacket (qid : Nat) : Encoding.Statement (.nopPacket qid) := by
  intro w hw
  cases hw

theorem Encoding.signalRescan : Encoding.Statement (.signalRescan) := by
  intro w hw
  cases hw

theorem Encoding.createContext : Encoding.Statement (.createContext) := by
  intro w hw
  cases hw

theorem Encoding.destroyContext : Encoding.Statement (.destroyContext) := by
  intro w hw
  cases hw

theorem Encoding.createQueue : Encoding.Statement (.createQueue) := by
  intro w hw
  cases hw

theorem Encoding.startQueue : Encoding.Statement (.startQueue) := by
  intro w hw
  cases hw

theorem Encoding.suspendQueue : Encoding.Statement (.suspendQueue) := by
  intro w hw
  cases hw

theorem Encoding.destroyQueue : Encoding.Statement (.destroyQueue) := by
  intro w hw
  cases hw

theorem Encoding.grant : Encoding.Statement (.grant) := by
  intro w hw
  cases hw

theorem Encoding.usage : Encoding.Statement (.usage) := by
  intro w hw
  cases hw

theorem Encoding.loadUpdate : Encoding.Statement (.loadUpdate) := by
  intro w hw
  cases hw

theorem Encoding.roleExchange : Encoding.Statement (.roleExchange) := by
  intro w hw
  cases hw

theorem Encoding.shepherdTakeover : Encoding.Statement (.shepherdTakeover) := by
  intro w hw
  cases hw

theorem Encoding.linkEnable (link : Nat) : Encoding.Statement (.linkEnable link) := by
  intro w hw
  cases hw

theorem Encoding.linkReset (link : Nat) : Encoding.Statement (.linkReset link) := by
  intro w hw
  cases hw

theorem Encoding.linkRetrain (link : Nat) : Encoding.Statement (.linkRetrain link) := by
  intro w hw
  cases hw

theorem Encoding.linkTrained (link : Nat) (lanes : BitVec 4) (node : BitVec 9) : Encoding.Statement (.linkTrained link lanes node) := by
  intro w hw
  cases hw

theorem Encoding.trainingTimeout (link : Nat) : Encoding.Statement (.trainingTimeout link) := by
  intro w hw
  cases hw

theorem Encoding.laneFail (link : Nat) (lanes : BitVec 4) : Encoding.Statement (.laneFail link lanes) := by
  intro w hw
  cases hw

theorem Encoding.flitRetry (link : Nat) (count : BitVec 32) : Encoding.Statement (.flitRetry link count) := by
  intro w hw
  cases hw

theorem Encoding.linkFence (link : Nat) : Encoding.Statement (.linkFence link) := by
  intro w hw
  cases hw

theorem Encoding.remoteTimeout (link : Nat) : Encoding.Statement (.remoteTimeout link) := by
  intro w hw
  cases hw

theorem Encoding.remoteRequest (node : BitVec 9) (kind : BitVec 2) (op : BitVec 4) (ty : BitVec 4) (size : Nat) (pa : BitVec 64) (value : BitVec 128) (compare : BitVec 128) : Encoding.Statement (.remoteRequest node kind op ty size pa value compare) := by
  intro w hw
  cases hw

theorem Encoding.ethDoorbell (port : Nat) (ring : Nat) (value : BitVec 32) : Encoding.Statement (.ethDoorbell port ring value) := by
  intro w hw
  cases hw

theorem Encoding.ethCompletion (port : Nat) (work : Nat) (status : BitVec 7) (count : BitVec 32) (imm : BitVec 32) : Encoding.Statement (.ethCompletion port work status count imm) := by
  intro w hw
  cases hw

theorem Encoding.ethFrameReceive (port : Nat) (work : Nat) (qpn : BitVec 24) (frame : List (BitVec 8)) (imm : BitVec 32) : Encoding.Statement (.ethFrameReceive port work qpn frame imm) := by
  intro w hw
  cases hw

theorem Encoding.boot : Encoding.Statement (.boot) := by
  intro w hw
  cases hw

theorem Encoding.fusereq (value : BitVec 64) : Encoding.Statement (.fusereq value) := by
  intro w hw
  cases hw

theorem Encoding.attest : Encoding.Statement (.attest) := by
  intro w hw
  cases hw

theorem Encoding.debugHalt : Encoding.Statement (.debugHalt) := by
  intro w hw
  cases hw

theorem Encoding.debugResume : Encoding.Statement (.debugResume) := by
  intro w hw
  cases hw

theorem Encoding.sitterExpiry : Encoding.Statement (.sitterExpiry) := by
  intro w hw
  cases hw

theorem Encoding.powerSample (watts : BitVec 16) : Encoding.Statement (.powerSample watts) := by
  intro w hw
  cases hw

theorem Encoding.thermalLimit (die : Nat) : Encoding.Statement (.thermalLimit die) := by
  intro w hw
  cases hw

theorem Encoding.registerWrite (offset : BitVec 39) (value : BitVec 64) : Encoding.Statement (.registerWrite offset value) := by
  intro w hw
  cases hw

theorem Encoding.illegalOpcode : Encoding.Statement (.illegalOpcode) := by
  intro w hw
  cases hw

theorem Encoding.pcieHostAccess (store : Bool) (bar : BitVec 3) (offset : BitVec 64) (size : Nat) (value : BitVec 128) : Encoding.Statement (.pcieHostAccess store bar offset size value) := by
  intro w hw
  cases hw

theorem Encoding.systemCoreAccess (kind : BitVec 2) (op : BitVec 4) (ty : BitVec 4) (size : Nat) (pa : BitVec 64) (value : BitVec 128) (compare : BitVec 128) : Encoding.Statement (.systemCoreAccess kind op ty size pa value compare) := by
  intro w hw
  cases hw

theorem Encoding.ethLinkChange (port : Nat) (up : Bool) : Encoding.Statement (.ethLinkChange port up) := by
  intro w hw
  cases hw

end Sys2Proof.Laws
end

