-- ==== Sys2Proof/Laws/State.lean ====
section
/-! SUPPORT. What each update of the state leaves as it was: one lemma for each field of each update. -/
namespace Sys2Proof.Laws
open Sys2Proof.Machine

/-! ### modBundle -/

@[simp] theorem modBundle_mem (s : State) (b : Nat) (f : Bundle → Bundle) : (s.modBundle b f).mem = s.mem := rfl
@[simp] theorem modBundle_clk (s : State) (b : Nat) (f : Bundle → Bundle) : (s.modBundle b f).clk = s.clk := rfl
@[simp] theorem modBundle_aclk (s : State) (b : Nat) (f : Bundle → Bundle) : (s.modBundle b f).aclk = s.aclk := rfl
@[simp] theorem modBundle_ctxs (s : State) (b : Nat) (f : Bundle → Bundle) : (s.modBundle b f).ctxs = s.ctxs := rfl
@[simp] theorem modBundle_parts (s : State) (b : Nat) (f : Bundle → Bundle) : (s.modBundle b f).parts = s.parts := rfl
@[simp] theorem modBundle_launches (s : State) (b : Nat) (f : Bundle → Bundle) : (s.modBundle b f).launches = s.launches := rfl
@[simp] theorem modBundle_packs (s : State) (b : Nat) (f : Bundle → Bundle) : (s.modBundle b f).packs = s.packs := rfl
@[simp] theorem modBundle_teams (s : State) (b : Nat) (f : Bundle → Bundle) : (s.modBundle b f).teams = s.teams := rfl
@[simp] theorem modBundle_cmds (s : State) (b : Nat) (f : Bundle → Bundle) : (s.modBundle b f).cmds = s.cmds := rfl
@[simp] theorem modBundle_stamps (s : State) (b : Nat) (f : Bundle → Bundle) : (s.modBundle b f).stamps = s.stamps := rfl
@[simp] theorem modBundle_grow (s : State) (b : Nat) (f : Bundle → Bundle) : (s.modBundle b f).grow = s.grow := rfl
@[simp] theorem modBundle_tlb (s : State) (b : Nat) (f : Bundle → Bundle) : (s.modBundle b f).tlb = s.tlb := rfl
@[simp] theorem modBundle_walks (s : State) (b : Nat) (f : Bundle → Bundle) : (s.modBundle b f).walks = s.walks := rfl
@[simp] theorem modBundle_badmem (s : State) (b : Nat) (f : Bundle → Bundle) : (s.modBundle b f).badmem = s.badmem := rfl
@[simp] theorem modBundle_outside (s : State) (b : Nat) (f : Bundle → Bundle) : (s.modBundle b f).outside = s.outside := rfl
@[simp] theorem modBundle_translations (s : State) (b : Nat) (f : Bundle → Bundle) : (s.modBundle b f).translations = s.translations := rfl
@[simp] theorem modBundle_icache (s : State) (b : Nat) (f : Bundle → Bundle) : (s.modBundle b f).icache = s.icache := rfl
@[simp] theorem modBundle_intc (s : State) (b : Nat) (f : Bundle → Bundle) : (s.modBundle b f).intc = s.intc := rfl
@[simp] theorem modBundle_queues (s : State) (b : Nat) (f : Bundle → Bundle) : (s.modBundle b f).queues = s.queues := rfl
@[simp] theorem modBundle_shep (s : State) (b : Nat) (f : Bundle → Bundle) : (s.modBundle b f).shep = s.shep := rfl
@[simp] theorem modBundle_links (s : State) (b : Nat) (f : Bundle → Bundle) : (s.modBundle b f).links = s.links := rfl
@[simp] theorem modBundle_route (s : State) (b : Nat) (f : Bundle → Bundle) : (s.modBundle b f).route = s.route := rfl
@[simp] theorem modBundle_nodeid (s : State) (b : Nat) (f : Bundle → Bundle) : (s.modBundle b f).nodeid = s.nodeid := rfl
@[simp] theorem modBundle_nodeset (s : State) (b : Nat) (f : Bundle → Bundle) : (s.modBundle b f).nodeset = s.nodeset := rfl
@[simp] theorem modBundle_eth (s : State) (b : Nat) (f : Bundle → Bundle) : (s.modBundle b f).eth = s.eth := rfl
@[simp] theorem modBundle_boot (s : State) (b : Nat) (f : Bundle → Bundle) : (s.modBundle b f).boot = s.boot := rfl
@[simp] theorem modBundle_host (s : State) (b : Nat) (f : Bundle → Bundle) : (s.modBundle b f).host = s.host := rfl
@[simp] theorem modBundle_power (s : State) (b : Nat) (f : Bundle → Bundle) : (s.modBundle b f).power = s.power := rfl
@[simp] theorem modBundle_cur (s : State) (b : Nat) (f : Bundle → Bundle) : (s.modBundle b f).cur = s.cur := rfl
@[simp] theorem modBundle_agenda (s : State) (b : Nat) (f : Bundle → Bundle) : (s.modBundle b f).agenda = s.agenda := rfl
@[simp] theorem modBundle_regwrites (s : State) (b : Nat) (f : Bundle → Bundle) : (s.modBundle b f).regwrites = s.regwrites := rfl
@[simp] theorem modBundle_turn (s : State) (b : Nat) (f : Bundle → Bundle) : (s.modBundle b f).turn = s.turn := rfl
@[simp] theorem modBundle_ticks (s : State) (b : Nat) (f : Bundle → Bundle) : (s.modBundle b f).ticks = s.ticks := rfl

/-! ### modThread -/

@[simp] theorem modThread_mem (s : State) (b l : Nat) (f : Thread → Thread) : (s.modThread b l f).mem = s.mem := rfl
@[simp] theorem modThread_clk (s : State) (b l : Nat) (f : Thread → Thread) : (s.modThread b l f).clk = s.clk := rfl
@[simp] theorem modThread_aclk (s : State) (b l : Nat) (f : Thread → Thread) : (s.modThread b l f).aclk = s.aclk := rfl
@[simp] theorem modThread_ctxs (s : State) (b l : Nat) (f : Thread → Thread) : (s.modThread b l f).ctxs = s.ctxs := rfl
@[simp] theorem modThread_parts (s : State) (b l : Nat) (f : Thread → Thread) : (s.modThread b l f).parts = s.parts := rfl
@[simp] theorem modThread_launches (s : State) (b l : Nat) (f : Thread → Thread) : (s.modThread b l f).launches = s.launches := rfl
@[simp] theorem modThread_packs (s : State) (b l : Nat) (f : Thread → Thread) : (s.modThread b l f).packs = s.packs := rfl
@[simp] theorem modThread_teams (s : State) (b l : Nat) (f : Thread → Thread) : (s.modThread b l f).teams = s.teams := rfl
@[simp] theorem modThread_cmds (s : State) (b l : Nat) (f : Thread → Thread) : (s.modThread b l f).cmds = s.cmds := rfl
@[simp] theorem modThread_stamps (s : State) (b l : Nat) (f : Thread → Thread) : (s.modThread b l f).stamps = s.stamps := rfl
@[simp] theorem modThread_grow (s : State) (b l : Nat) (f : Thread → Thread) : (s.modThread b l f).grow = s.grow := rfl
@[simp] theorem modThread_tlb (s : State) (b l : Nat) (f : Thread → Thread) : (s.modThread b l f).tlb = s.tlb := rfl
@[simp] theorem modThread_walks (s : State) (b l : Nat) (f : Thread → Thread) : (s.modThread b l f).walks = s.walks := rfl
@[simp] theorem modThread_badmem (s : State) (b l : Nat) (f : Thread → Thread) : (s.modThread b l f).badmem = s.badmem := rfl
@[simp] theorem modThread_outside (s : State) (b l : Nat) (f : Thread → Thread) : (s.modThread b l f).outside = s.outside := rfl
@[simp] theorem modThread_translations (s : State) (b l : Nat) (f : Thread → Thread) : (s.modThread b l f).translations = s.translations := rfl
@[simp] theorem modThread_icache (s : State) (b l : Nat) (f : Thread → Thread) : (s.modThread b l f).icache = s.icache := rfl
@[simp] theorem modThread_intc (s : State) (b l : Nat) (f : Thread → Thread) : (s.modThread b l f).intc = s.intc := rfl
@[simp] theorem modThread_queues (s : State) (b l : Nat) (f : Thread → Thread) : (s.modThread b l f).queues = s.queues := rfl
@[simp] theorem modThread_shep (s : State) (b l : Nat) (f : Thread → Thread) : (s.modThread b l f).shep = s.shep := rfl
@[simp] theorem modThread_links (s : State) (b l : Nat) (f : Thread → Thread) : (s.modThread b l f).links = s.links := rfl
@[simp] theorem modThread_route (s : State) (b l : Nat) (f : Thread → Thread) : (s.modThread b l f).route = s.route := rfl
@[simp] theorem modThread_nodeid (s : State) (b l : Nat) (f : Thread → Thread) : (s.modThread b l f).nodeid = s.nodeid := rfl
@[simp] theorem modThread_nodeset (s : State) (b l : Nat) (f : Thread → Thread) : (s.modThread b l f).nodeset = s.nodeset := rfl
@[simp] theorem modThread_eth (s : State) (b l : Nat) (f : Thread → Thread) : (s.modThread b l f).eth = s.eth := rfl
@[simp] theorem modThread_boot (s : State) (b l : Nat) (f : Thread → Thread) : (s.modThread b l f).boot = s.boot := rfl
@[simp] theorem modThread_host (s : State) (b l : Nat) (f : Thread → Thread) : (s.modThread b l f).host = s.host := rfl
@[simp] theorem modThread_power (s : State) (b l : Nat) (f : Thread → Thread) : (s.modThread b l f).power = s.power := rfl
@[simp] theorem modThread_cur (s : State) (b l : Nat) (f : Thread → Thread) : (s.modThread b l f).cur = s.cur := rfl
@[simp] theorem modThread_agenda (s : State) (b l : Nat) (f : Thread → Thread) : (s.modThread b l f).agenda = s.agenda := rfl
@[simp] theorem modThread_regwrites (s : State) (b l : Nat) (f : Thread → Thread) : (s.modThread b l f).regwrites = s.regwrites := rfl
@[simp] theorem modThread_turn (s : State) (b l : Nat) (f : Thread → Thread) : (s.modThread b l f).turn = s.turn := rfl
@[simp] theorem modThread_ticks (s : State) (b l : Nat) (f : Thread → Thread) : (s.modThread b l f).ticks = s.ticks := rfl

/-! ### mapLanes -/

@[simp] theorem mapLanes_mem (s : State) (f : Nat → Thread → Thread) : (s.mapLanes f).mem = s.mem := rfl
@[simp] theorem mapLanes_clk (s : State) (f : Nat → Thread → Thread) : (s.mapLanes f).clk = s.clk := rfl
@[simp] theorem mapLanes_aclk (s : State) (f : Nat → Thread → Thread) : (s.mapLanes f).aclk = s.aclk := rfl
@[simp] theorem mapLanes_ctxs (s : State) (f : Nat → Thread → Thread) : (s.mapLanes f).ctxs = s.ctxs := rfl
@[simp] theorem mapLanes_parts (s : State) (f : Nat → Thread → Thread) : (s.mapLanes f).parts = s.parts := rfl
@[simp] theorem mapLanes_launches (s : State) (f : Nat → Thread → Thread) : (s.mapLanes f).launches = s.launches := rfl
@[simp] theorem mapLanes_packs (s : State) (f : Nat → Thread → Thread) : (s.mapLanes f).packs = s.packs := rfl
@[simp] theorem mapLanes_teams (s : State) (f : Nat → Thread → Thread) : (s.mapLanes f).teams = s.teams := rfl
@[simp] theorem mapLanes_cmds (s : State) (f : Nat → Thread → Thread) : (s.mapLanes f).cmds = s.cmds := rfl
@[simp] theorem mapLanes_stamps (s : State) (f : Nat → Thread → Thread) : (s.mapLanes f).stamps = s.stamps := rfl
@[simp] theorem mapLanes_grow (s : State) (f : Nat → Thread → Thread) : (s.mapLanes f).grow = s.grow := rfl
@[simp] theorem mapLanes_tlb (s : State) (f : Nat → Thread → Thread) : (s.mapLanes f).tlb = s.tlb := rfl
@[simp] theorem mapLanes_walks (s : State) (f : Nat → Thread → Thread) : (s.mapLanes f).walks = s.walks := rfl
@[simp] theorem mapLanes_badmem (s : State) (f : Nat → Thread → Thread) : (s.mapLanes f).badmem = s.badmem := rfl
@[simp] theorem mapLanes_outside (s : State) (f : Nat → Thread → Thread) : (s.mapLanes f).outside = s.outside := rfl
@[simp] theorem mapLanes_translations (s : State) (f : Nat → Thread → Thread) : (s.mapLanes f).translations = s.translations := rfl
@[simp] theorem mapLanes_icache (s : State) (f : Nat → Thread → Thread) : (s.mapLanes f).icache = s.icache := rfl
@[simp] theorem mapLanes_intc (s : State) (f : Nat → Thread → Thread) : (s.mapLanes f).intc = s.intc := rfl
@[simp] theorem mapLanes_queues (s : State) (f : Nat → Thread → Thread) : (s.mapLanes f).queues = s.queues := rfl
@[simp] theorem mapLanes_shep (s : State) (f : Nat → Thread → Thread) : (s.mapLanes f).shep = s.shep := rfl
@[simp] theorem mapLanes_links (s : State) (f : Nat → Thread → Thread) : (s.mapLanes f).links = s.links := rfl
@[simp] theorem mapLanes_route (s : State) (f : Nat → Thread → Thread) : (s.mapLanes f).route = s.route := rfl
@[simp] theorem mapLanes_nodeid (s : State) (f : Nat → Thread → Thread) : (s.mapLanes f).nodeid = s.nodeid := rfl
@[simp] theorem mapLanes_nodeset (s : State) (f : Nat → Thread → Thread) : (s.mapLanes f).nodeset = s.nodeset := rfl
@[simp] theorem mapLanes_eth (s : State) (f : Nat → Thread → Thread) : (s.mapLanes f).eth = s.eth := rfl
@[simp] theorem mapLanes_boot (s : State) (f : Nat → Thread → Thread) : (s.mapLanes f).boot = s.boot := rfl
@[simp] theorem mapLanes_host (s : State) (f : Nat → Thread → Thread) : (s.mapLanes f).host = s.host := rfl
@[simp] theorem mapLanes_power (s : State) (f : Nat → Thread → Thread) : (s.mapLanes f).power = s.power := rfl
@[simp] theorem mapLanes_cur (s : State) (f : Nat → Thread → Thread) : (s.mapLanes f).cur = s.cur := rfl
@[simp] theorem mapLanes_agenda (s : State) (f : Nat → Thread → Thread) : (s.mapLanes f).agenda = s.agenda := rfl
@[simp] theorem mapLanes_regwrites (s : State) (f : Nat → Thread → Thread) : (s.mapLanes f).regwrites = s.regwrites := rfl
@[simp] theorem mapLanes_turn (s : State) (f : Nat → Thread → Thread) : (s.mapLanes f).turn = s.turn := rfl
@[simp] theorem mapLanes_ticks (s : State) (f : Nat → Thread → Thread) : (s.mapLanes f).ticks = s.ticks := rfl

/-! ### advanceAll -/

@[simp] theorem advanceAll_mem (s : State) : (s.advanceAll).mem = s.mem := rfl
@[simp] theorem advanceAll_clk (s : State) : (s.advanceAll).clk = s.clk := rfl
@[simp] theorem advanceAll_aclk (s : State) : (s.advanceAll).aclk = s.aclk := rfl
@[simp] theorem advanceAll_ctxs (s : State) : (s.advanceAll).ctxs = s.ctxs := rfl
@[simp] theorem advanceAll_parts (s : State) : (s.advanceAll).parts = s.parts := rfl
@[simp] theorem advanceAll_launches (s : State) : (s.advanceAll).launches = s.launches := rfl
@[simp] theorem advanceAll_packs (s : State) : (s.advanceAll).packs = s.packs := rfl
@[simp] theorem advanceAll_teams (s : State) : (s.advanceAll).teams = s.teams := rfl
@[simp] theorem advanceAll_cmds (s : State) : (s.advanceAll).cmds = s.cmds := rfl
@[simp] theorem advanceAll_stamps (s : State) : (s.advanceAll).stamps = s.stamps := rfl
@[simp] theorem advanceAll_grow (s : State) : (s.advanceAll).grow = s.grow := rfl
@[simp] theorem advanceAll_tlb (s : State) : (s.advanceAll).tlb = s.tlb := rfl
@[simp] theorem advanceAll_walks (s : State) : (s.advanceAll).walks = s.walks := rfl
@[simp] theorem advanceAll_badmem (s : State) : (s.advanceAll).badmem = s.badmem := rfl
@[simp] theorem advanceAll_outside (s : State) : (s.advanceAll).outside = s.outside := rfl
@[simp] theorem advanceAll_translations (s : State) : (s.advanceAll).translations = s.translations := rfl
@[simp] theorem advanceAll_icache (s : State) : (s.advanceAll).icache = s.icache := rfl
@[simp] theorem advanceAll_intc (s : State) : (s.advanceAll).intc = s.intc := rfl
@[simp] theorem advanceAll_queues (s : State) : (s.advanceAll).queues = s.queues := rfl
@[simp] theorem advanceAll_shep (s : State) : (s.advanceAll).shep = s.shep := rfl
@[simp] theorem advanceAll_links (s : State) : (s.advanceAll).links = s.links := rfl
@[simp] theorem advanceAll_route (s : State) : (s.advanceAll).route = s.route := rfl
@[simp] theorem advanceAll_nodeid (s : State) : (s.advanceAll).nodeid = s.nodeid := rfl
@[simp] theorem advanceAll_nodeset (s : State) : (s.advanceAll).nodeset = s.nodeset := rfl
@[simp] theorem advanceAll_eth (s : State) : (s.advanceAll).eth = s.eth := rfl
@[simp] theorem advanceAll_boot (s : State) : (s.advanceAll).boot = s.boot := rfl
@[simp] theorem advanceAll_host (s : State) : (s.advanceAll).host = s.host := rfl
@[simp] theorem advanceAll_power (s : State) : (s.advanceAll).power = s.power := rfl
@[simp] theorem advanceAll_cur (s : State) : (s.advanceAll).cur = s.cur := rfl
@[simp] theorem advanceAll_agenda (s : State) : (s.advanceAll).agenda = s.agenda := rfl
@[simp] theorem advanceAll_regwrites (s : State) : (s.advanceAll).regwrites = s.regwrites := rfl
@[simp] theorem advanceAll_turn (s : State) : (s.advanceAll).turn = s.turn := rfl
@[simp] theorem advanceAll_ticks (s : State) : (s.advanceAll).ticks = s.ticks := rfl

/-! ### writeLane -/

@[simp] theorem writeLane_mem (s : State) (l : Nat) (w : List (Nat × Reg)) : (s.writeLane l w).mem = s.mem := rfl
@[simp] theorem writeLane_clk (s : State) (l : Nat) (w : List (Nat × Reg)) : (s.writeLane l w).clk = s.clk := rfl
@[simp] theorem writeLane_aclk (s : State) (l : Nat) (w : List (Nat × Reg)) : (s.writeLane l w).aclk = s.aclk := rfl
@[simp] theorem writeLane_ctxs (s : State) (l : Nat) (w : List (Nat × Reg)) : (s.writeLane l w).ctxs = s.ctxs := rfl
@[simp] theorem writeLane_parts (s : State) (l : Nat) (w : List (Nat × Reg)) : (s.writeLane l w).parts = s.parts := rfl
@[simp] theorem writeLane_launches (s : State) (l : Nat) (w : List (Nat × Reg)) : (s.writeLane l w).launches = s.launches := rfl
@[simp] theorem writeLane_packs (s : State) (l : Nat) (w : List (Nat × Reg)) : (s.writeLane l w).packs = s.packs := rfl
@[simp] theorem writeLane_teams (s : State) (l : Nat) (w : List (Nat × Reg)) : (s.writeLane l w).teams = s.teams := rfl
@[simp] theorem writeLane_cmds (s : State) (l : Nat) (w : List (Nat × Reg)) : (s.writeLane l w).cmds = s.cmds := rfl
@[simp] theorem writeLane_stamps (s : State) (l : Nat) (w : List (Nat × Reg)) : (s.writeLane l w).stamps = s.stamps := rfl
@[simp] theorem writeLane_grow (s : State) (l : Nat) (w : List (Nat × Reg)) : (s.writeLane l w).grow = s.grow := rfl
@[simp] theorem writeLane_tlb (s : State) (l : Nat) (w : List (Nat × Reg)) : (s.writeLane l w).tlb = s.tlb := rfl
@[simp] theorem writeLane_walks (s : State) (l : Nat) (w : List (Nat × Reg)) : (s.writeLane l w).walks = s.walks := rfl
@[simp] theorem writeLane_badmem (s : State) (l : Nat) (w : List (Nat × Reg)) : (s.writeLane l w).badmem = s.badmem := rfl
@[simp] theorem writeLane_outside (s : State) (l : Nat) (w : List (Nat × Reg)) : (s.writeLane l w).outside = s.outside := rfl
@[simp] theorem writeLane_translations (s : State) (l : Nat) (w : List (Nat × Reg)) : (s.writeLane l w).translations = s.translations := rfl
@[simp] theorem writeLane_icache (s : State) (l : Nat) (w : List (Nat × Reg)) : (s.writeLane l w).icache = s.icache := rfl
@[simp] theorem writeLane_intc (s : State) (l : Nat) (w : List (Nat × Reg)) : (s.writeLane l w).intc = s.intc := rfl
@[simp] theorem writeLane_queues (s : State) (l : Nat) (w : List (Nat × Reg)) : (s.writeLane l w).queues = s.queues := rfl
@[simp] theorem writeLane_shep (s : State) (l : Nat) (w : List (Nat × Reg)) : (s.writeLane l w).shep = s.shep := rfl
@[simp] theorem writeLane_links (s : State) (l : Nat) (w : List (Nat × Reg)) : (s.writeLane l w).links = s.links := rfl
@[simp] theorem writeLane_route (s : State) (l : Nat) (w : List (Nat × Reg)) : (s.writeLane l w).route = s.route := rfl
@[simp] theorem writeLane_nodeid (s : State) (l : Nat) (w : List (Nat × Reg)) : (s.writeLane l w).nodeid = s.nodeid := rfl
@[simp] theorem writeLane_nodeset (s : State) (l : Nat) (w : List (Nat × Reg)) : (s.writeLane l w).nodeset = s.nodeset := rfl
@[simp] theorem writeLane_eth (s : State) (l : Nat) (w : List (Nat × Reg)) : (s.writeLane l w).eth = s.eth := rfl
@[simp] theorem writeLane_boot (s : State) (l : Nat) (w : List (Nat × Reg)) : (s.writeLane l w).boot = s.boot := rfl
@[simp] theorem writeLane_host (s : State) (l : Nat) (w : List (Nat × Reg)) : (s.writeLane l w).host = s.host := rfl
@[simp] theorem writeLane_power (s : State) (l : Nat) (w : List (Nat × Reg)) : (s.writeLane l w).power = s.power := rfl
@[simp] theorem writeLane_cur (s : State) (l : Nat) (w : List (Nat × Reg)) : (s.writeLane l w).cur = s.cur := rfl
@[simp] theorem writeLane_agenda (s : State) (l : Nat) (w : List (Nat × Reg)) : (s.writeLane l w).agenda = s.agenda := rfl
@[simp] theorem writeLane_regwrites (s : State) (l : Nat) (w : List (Nat × Reg)) : (s.writeLane l w).regwrites = s.regwrites := rfl
@[simp] theorem writeLane_turn (s : State) (l : Nat) (w : List (Nat × Reg)) : (s.writeLane l w).turn = s.turn := rfl
@[simp] theorem writeLane_ticks (s : State) (l : Nat) (w : List (Nat × Reg)) : (s.writeLane l w).ticks = s.ticks := rfl

/-! ### writeS -/

@[simp] theorem writeS_mem (s : State) (w : List (Nat × Reg)) : (s.writeS w).mem = s.mem := rfl
@[simp] theorem writeS_clk (s : State) (w : List (Nat × Reg)) : (s.writeS w).clk = s.clk := rfl
@[simp] theorem writeS_aclk (s : State) (w : List (Nat × Reg)) : (s.writeS w).aclk = s.aclk := rfl
@[simp] theorem writeS_ctxs (s : State) (w : List (Nat × Reg)) : (s.writeS w).ctxs = s.ctxs := rfl
@[simp] theorem writeS_parts (s : State) (w : List (Nat × Reg)) : (s.writeS w).parts = s.parts := rfl
@[simp] theorem writeS_launches (s : State) (w : List (Nat × Reg)) : (s.writeS w).launches = s.launches := rfl
@[simp] theorem writeS_packs (s : State) (w : List (Nat × Reg)) : (s.writeS w).packs = s.packs := rfl
@[simp] theorem writeS_teams (s : State) (w : List (Nat × Reg)) : (s.writeS w).teams = s.teams := rfl
@[simp] theorem writeS_cmds (s : State) (w : List (Nat × Reg)) : (s.writeS w).cmds = s.cmds := rfl
@[simp] theorem writeS_stamps (s : State) (w : List (Nat × Reg)) : (s.writeS w).stamps = s.stamps := rfl
@[simp] theorem writeS_grow (s : State) (w : List (Nat × Reg)) : (s.writeS w).grow = s.grow := rfl
@[simp] theorem writeS_tlb (s : State) (w : List (Nat × Reg)) : (s.writeS w).tlb = s.tlb := rfl
@[simp] theorem writeS_walks (s : State) (w : List (Nat × Reg)) : (s.writeS w).walks = s.walks := rfl
@[simp] theorem writeS_badmem (s : State) (w : List (Nat × Reg)) : (s.writeS w).badmem = s.badmem := rfl
@[simp] theorem writeS_outside (s : State) (w : List (Nat × Reg)) : (s.writeS w).outside = s.outside := rfl
@[simp] theorem writeS_translations (s : State) (w : List (Nat × Reg)) : (s.writeS w).translations = s.translations := rfl
@[simp] theorem writeS_icache (s : State) (w : List (Nat × Reg)) : (s.writeS w).icache = s.icache := rfl
@[simp] theorem writeS_intc (s : State) (w : List (Nat × Reg)) : (s.writeS w).intc = s.intc := rfl
@[simp] theorem writeS_queues (s : State) (w : List (Nat × Reg)) : (s.writeS w).queues = s.queues := rfl
@[simp] theorem writeS_shep (s : State) (w : List (Nat × Reg)) : (s.writeS w).shep = s.shep := rfl
@[simp] theorem writeS_links (s : State) (w : List (Nat × Reg)) : (s.writeS w).links = s.links := rfl
@[simp] theorem writeS_route (s : State) (w : List (Nat × Reg)) : (s.writeS w).route = s.route := rfl
@[simp] theorem writeS_nodeid (s : State) (w : List (Nat × Reg)) : (s.writeS w).nodeid = s.nodeid := rfl
@[simp] theorem writeS_nodeset (s : State) (w : List (Nat × Reg)) : (s.writeS w).nodeset = s.nodeset := rfl
@[simp] theorem writeS_eth (s : State) (w : List (Nat × Reg)) : (s.writeS w).eth = s.eth := rfl
@[simp] theorem writeS_boot (s : State) (w : List (Nat × Reg)) : (s.writeS w).boot = s.boot := rfl
@[simp] theorem writeS_host (s : State) (w : List (Nat × Reg)) : (s.writeS w).host = s.host := rfl
@[simp] theorem writeS_power (s : State) (w : List (Nat × Reg)) : (s.writeS w).power = s.power := rfl
@[simp] theorem writeS_cur (s : State) (w : List (Nat × Reg)) : (s.writeS w).cur = s.cur := rfl
@[simp] theorem writeS_agenda (s : State) (w : List (Nat × Reg)) : (s.writeS w).agenda = s.agenda := rfl
@[simp] theorem writeS_regwrites (s : State) (w : List (Nat × Reg)) : (s.writeS w).regwrites = s.regwrites := rfl
@[simp] theorem writeS_turn (s : State) (w : List (Nat × Reg)) : (s.writeS w).turn = s.turn := rfl
@[simp] theorem writeS_ticks (s : State) (w : List (Nat × Reg)) : (s.writeS w).ticks = s.ticks := rfl

/-! ### writeM -/

@[simp] theorem writeM_mem (s : State) (n : Nat) (v : BitVec 64) : (s.writeM n v).mem = s.mem := rfl
@[simp] theorem writeM_clk (s : State) (n : Nat) (v : BitVec 64) : (s.writeM n v).clk = s.clk := rfl
@[simp] theorem writeM_aclk (s : State) (n : Nat) (v : BitVec 64) : (s.writeM n v).aclk = s.aclk := rfl
@[simp] theorem writeM_ctxs (s : State) (n : Nat) (v : BitVec 64) : (s.writeM n v).ctxs = s.ctxs := rfl
@[simp] theorem writeM_parts (s : State) (n : Nat) (v : BitVec 64) : (s.writeM n v).parts = s.parts := rfl
@[simp] theorem writeM_launches (s : State) (n : Nat) (v : BitVec 64) : (s.writeM n v).launches = s.launches := rfl
@[simp] theorem writeM_packs (s : State) (n : Nat) (v : BitVec 64) : (s.writeM n v).packs = s.packs := rfl
@[simp] theorem writeM_teams (s : State) (n : Nat) (v : BitVec 64) : (s.writeM n v).teams = s.teams := rfl
@[simp] theorem writeM_cmds (s : State) (n : Nat) (v : BitVec 64) : (s.writeM n v).cmds = s.cmds := rfl
@[simp] theorem writeM_stamps (s : State) (n : Nat) (v : BitVec 64) : (s.writeM n v).stamps = s.stamps := rfl
@[simp] theorem writeM_grow (s : State) (n : Nat) (v : BitVec 64) : (s.writeM n v).grow = s.grow := rfl
@[simp] theorem writeM_tlb (s : State) (n : Nat) (v : BitVec 64) : (s.writeM n v).tlb = s.tlb := rfl
@[simp] theorem writeM_walks (s : State) (n : Nat) (v : BitVec 64) : (s.writeM n v).walks = s.walks := rfl
@[simp] theorem writeM_badmem (s : State) (n : Nat) (v : BitVec 64) : (s.writeM n v).badmem = s.badmem := rfl
@[simp] theorem writeM_outside (s : State) (n : Nat) (v : BitVec 64) : (s.writeM n v).outside = s.outside := rfl
@[simp] theorem writeM_translations (s : State) (n : Nat) (v : BitVec 64) : (s.writeM n v).translations = s.translations := rfl
@[simp] theorem writeM_icache (s : State) (n : Nat) (v : BitVec 64) : (s.writeM n v).icache = s.icache := rfl
@[simp] theorem writeM_intc (s : State) (n : Nat) (v : BitVec 64) : (s.writeM n v).intc = s.intc := rfl
@[simp] theorem writeM_queues (s : State) (n : Nat) (v : BitVec 64) : (s.writeM n v).queues = s.queues := rfl
@[simp] theorem writeM_shep (s : State) (n : Nat) (v : BitVec 64) : (s.writeM n v).shep = s.shep := rfl
@[simp] theorem writeM_links (s : State) (n : Nat) (v : BitVec 64) : (s.writeM n v).links = s.links := rfl
@[simp] theorem writeM_route (s : State) (n : Nat) (v : BitVec 64) : (s.writeM n v).route = s.route := rfl
@[simp] theorem writeM_nodeid (s : State) (n : Nat) (v : BitVec 64) : (s.writeM n v).nodeid = s.nodeid := rfl
@[simp] theorem writeM_nodeset (s : State) (n : Nat) (v : BitVec 64) : (s.writeM n v).nodeset = s.nodeset := rfl
@[simp] theorem writeM_eth (s : State) (n : Nat) (v : BitVec 64) : (s.writeM n v).eth = s.eth := rfl
@[simp] theorem writeM_boot (s : State) (n : Nat) (v : BitVec 64) : (s.writeM n v).boot = s.boot := rfl
@[simp] theorem writeM_host (s : State) (n : Nat) (v : BitVec 64) : (s.writeM n v).host = s.host := rfl
@[simp] theorem writeM_power (s : State) (n : Nat) (v : BitVec 64) : (s.writeM n v).power = s.power := rfl
@[simp] theorem writeM_cur (s : State) (n : Nat) (v : BitVec 64) : (s.writeM n v).cur = s.cur := rfl
@[simp] theorem writeM_agenda (s : State) (n : Nat) (v : BitVec 64) : (s.writeM n v).agenda = s.agenda := rfl
@[simp] theorem writeM_regwrites (s : State) (n : Nat) (v : BitVec 64) : (s.writeM n v).regwrites = s.regwrites := rfl
@[simp] theorem writeM_turn (s : State) (n : Nat) (v : BitVec 64) : (s.writeM n v).turn = s.turn := rfl
@[simp] theorem writeM_ticks (s : State) (n : Nat) (v : BitVec 64) : (s.writeM n v).ticks = s.ticks := rfl

/-! ### waitIssued -/

@[simp] theorem waitIssued_mem (s : State) (w : Wait) : (s.waitIssued w).mem = s.mem := rfl
@[simp] theorem waitIssued_clk (s : State) (w : Wait) : (s.waitIssued w).clk = s.clk := rfl
@[simp] theorem waitIssued_aclk (s : State) (w : Wait) : (s.waitIssued w).aclk = s.aclk := rfl
@[simp] theorem waitIssued_ctxs (s : State) (w : Wait) : (s.waitIssued w).ctxs = s.ctxs := rfl
@[simp] theorem waitIssued_parts (s : State) (w : Wait) : (s.waitIssued w).parts = s.parts := rfl
@[simp] theorem waitIssued_launches (s : State) (w : Wait) : (s.waitIssued w).launches = s.launches := rfl
@[simp] theorem waitIssued_packs (s : State) (w : Wait) : (s.waitIssued w).packs = s.packs := rfl
@[simp] theorem waitIssued_teams (s : State) (w : Wait) : (s.waitIssued w).teams = s.teams := rfl
@[simp] theorem waitIssued_cmds (s : State) (w : Wait) : (s.waitIssued w).cmds = s.cmds := rfl
@[simp] theorem waitIssued_stamps (s : State) (w : Wait) : (s.waitIssued w).stamps = s.stamps := rfl
@[simp] theorem waitIssued_grow (s : State) (w : Wait) : (s.waitIssued w).grow = s.grow := rfl
@[simp] theorem waitIssued_tlb (s : State) (w : Wait) : (s.waitIssued w).tlb = s.tlb := rfl
@[simp] theorem waitIssued_walks (s : State) (w : Wait) : (s.waitIssued w).walks = s.walks := rfl
@[simp] theorem waitIssued_badmem (s : State) (w : Wait) : (s.waitIssued w).badmem = s.badmem := rfl
@[simp] theorem waitIssued_outside (s : State) (w : Wait) : (s.waitIssued w).outside = s.outside := rfl
@[simp] theorem waitIssued_translations (s : State) (w : Wait) : (s.waitIssued w).translations = s.translations := rfl
@[simp] theorem waitIssued_icache (s : State) (w : Wait) : (s.waitIssued w).icache = s.icache := rfl
@[simp] theorem waitIssued_intc (s : State) (w : Wait) : (s.waitIssued w).intc = s.intc := rfl
@[simp] theorem waitIssued_queues (s : State) (w : Wait) : (s.waitIssued w).queues = s.queues := rfl
@[simp] theorem waitIssued_shep (s : State) (w : Wait) : (s.waitIssued w).shep = s.shep := rfl
@[simp] theorem waitIssued_links (s : State) (w : Wait) : (s.waitIssued w).links = s.links := rfl
@[simp] theorem waitIssued_route (s : State) (w : Wait) : (s.waitIssued w).route = s.route := rfl
@[simp] theorem waitIssued_nodeid (s : State) (w : Wait) : (s.waitIssued w).nodeid = s.nodeid := rfl
@[simp] theorem waitIssued_nodeset (s : State) (w : Wait) : (s.waitIssued w).nodeset = s.nodeset := rfl
@[simp] theorem waitIssued_eth (s : State) (w : Wait) : (s.waitIssued w).eth = s.eth := rfl
@[simp] theorem waitIssued_boot (s : State) (w : Wait) : (s.waitIssued w).boot = s.boot := rfl
@[simp] theorem waitIssued_host (s : State) (w : Wait) : (s.waitIssued w).host = s.host := rfl
@[simp] theorem waitIssued_power (s : State) (w : Wait) : (s.waitIssued w).power = s.power := rfl
@[simp] theorem waitIssued_cur (s : State) (w : Wait) : (s.waitIssued w).cur = s.cur := rfl
@[simp] theorem waitIssued_agenda (s : State) (w : Wait) : (s.waitIssued w).agenda = s.agenda := rfl
@[simp] theorem waitIssued_regwrites (s : State) (w : Wait) : (s.waitIssued w).regwrites = s.regwrites := rfl
@[simp] theorem waitIssued_turn (s : State) (w : Wait) : (s.waitIssued w).turn = s.turn := rfl
@[simp] theorem waitIssued_ticks (s : State) (w : Wait) : (s.waitIssued w).ticks = s.ticks := rfl

/-! ### modCtx -/

@[simp] theorem modCtx_mem (s : State) (a : BitVec 16) (f : Context → Context) : (s.modCtx a f).mem = s.mem := rfl
@[simp] theorem modCtx_clk (s : State) (a : BitVec 16) (f : Context → Context) : (s.modCtx a f).clk = s.clk := rfl
@[simp] theorem modCtx_aclk (s : State) (a : BitVec 16) (f : Context → Context) : (s.modCtx a f).aclk = s.aclk := rfl
@[simp] theorem modCtx_parts (s : State) (a : BitVec 16) (f : Context → Context) : (s.modCtx a f).parts = s.parts := rfl
@[simp] theorem modCtx_launches (s : State) (a : BitVec 16) (f : Context → Context) : (s.modCtx a f).launches = s.launches := rfl
@[simp] theorem modCtx_packs (s : State) (a : BitVec 16) (f : Context → Context) : (s.modCtx a f).packs = s.packs := rfl
@[simp] theorem modCtx_teams (s : State) (a : BitVec 16) (f : Context → Context) : (s.modCtx a f).teams = s.teams := rfl
@[simp] theorem modCtx_bundles (s : State) (a : BitVec 16) (f : Context → Context) : (s.modCtx a f).bundles = s.bundles := rfl
@[simp] theorem modCtx_cmds (s : State) (a : BitVec 16) (f : Context → Context) : (s.modCtx a f).cmds = s.cmds := rfl
@[simp] theorem modCtx_stamps (s : State) (a : BitVec 16) (f : Context → Context) : (s.modCtx a f).stamps = s.stamps := rfl
@[simp] theorem modCtx_grow (s : State) (a : BitVec 16) (f : Context → Context) : (s.modCtx a f).grow = s.grow := rfl
@[simp] theorem modCtx_tlb (s : State) (a : BitVec 16) (f : Context → Context) : (s.modCtx a f).tlb = s.tlb := rfl
@[simp] theorem modCtx_walks (s : State) (a : BitVec 16) (f : Context → Context) : (s.modCtx a f).walks = s.walks := rfl
@[simp] theorem modCtx_badmem (s : State) (a : BitVec 16) (f : Context → Context) : (s.modCtx a f).badmem = s.badmem := rfl
@[simp] theorem modCtx_outside (s : State) (a : BitVec 16) (f : Context → Context) : (s.modCtx a f).outside = s.outside := rfl
@[simp] theorem modCtx_translations (s : State) (a : BitVec 16) (f : Context → Context) : (s.modCtx a f).translations = s.translations := rfl
@[simp] theorem modCtx_icache (s : State) (a : BitVec 16) (f : Context → Context) : (s.modCtx a f).icache = s.icache := rfl
@[simp] theorem modCtx_intc (s : State) (a : BitVec 16) (f : Context → Context) : (s.modCtx a f).intc = s.intc := rfl
@[simp] theorem modCtx_queues (s : State) (a : BitVec 16) (f : Context → Context) : (s.modCtx a f).queues = s.queues := rfl
@[simp] theorem modCtx_shep (s : State) (a : BitVec 16) (f : Context → Context) : (s.modCtx a f).shep = s.shep := rfl
@[simp] theorem modCtx_links (s : State) (a : BitVec 16) (f : Context → Context) : (s.modCtx a f).links = s.links := rfl
@[simp] theorem modCtx_route (s : State) (a : BitVec 16) (f : Context → Context) : (s.modCtx a f).route = s.route := rfl
@[simp] theorem modCtx_nodeid (s : State) (a : BitVec 16) (f : Context → Context) : (s.modCtx a f).nodeid = s.nodeid := rfl
@[simp] theorem modCtx_nodeset (s : State) (a : BitVec 16) (f : Context → Context) : (s.modCtx a f).nodeset = s.nodeset := rfl
@[simp] theorem modCtx_eth (s : State) (a : BitVec 16) (f : Context → Context) : (s.modCtx a f).eth = s.eth := rfl
@[simp] theorem modCtx_boot (s : State) (a : BitVec 16) (f : Context → Context) : (s.modCtx a f).boot = s.boot := rfl
@[simp] theorem modCtx_host (s : State) (a : BitVec 16) (f : Context → Context) : (s.modCtx a f).host = s.host := rfl
@[simp] theorem modCtx_power (s : State) (a : BitVec 16) (f : Context → Context) : (s.modCtx a f).power = s.power := rfl
@[simp] theorem modCtx_cur (s : State) (a : BitVec 16) (f : Context → Context) : (s.modCtx a f).cur = s.cur := rfl
@[simp] theorem modCtx_agenda (s : State) (a : BitVec 16) (f : Context → Context) : (s.modCtx a f).agenda = s.agenda := rfl
@[simp] theorem modCtx_regwrites (s : State) (a : BitVec 16) (f : Context → Context) : (s.modCtx a f).regwrites = s.regwrites := rfl
@[simp] theorem modCtx_turn (s : State) (a : BitVec 16) (f : Context → Context) : (s.modCtx a f).turn = s.turn := rfl
@[simp] theorem modCtx_ticks (s : State) (a : BitVec 16) (f : Context → Context) : (s.modCtx a f).ticks = s.ticks := rfl

/-! ### modPart -/

@[simp] theorem modPart_mem (s : State) (p : Nat) (f : Part → Part) : (s.modPart p f).mem = s.mem := rfl
@[simp] theorem modPart_clk (s : State) (p : Nat) (f : Part → Part) : (s.modPart p f).clk = s.clk := rfl
@[simp] theorem modPart_aclk (s : State) (p : Nat) (f : Part → Part) : (s.modPart p f).aclk = s.aclk := rfl
@[simp] theorem modPart_ctxs (s : State) (p : Nat) (f : Part → Part) : (s.modPart p f).ctxs = s.ctxs := rfl
@[simp] theorem modPart_launches (s : State) (p : Nat) (f : Part → Part) : (s.modPart p f).launches = s.launches := rfl
@[simp] theorem modPart_packs (s : State) (p : Nat) (f : Part → Part) : (s.modPart p f).packs = s.packs := rfl
@[simp] theorem modPart_teams (s : State) (p : Nat) (f : Part → Part) : (s.modPart p f).teams = s.teams := rfl
@[simp] theorem modPart_bundles (s : State) (p : Nat) (f : Part → Part) : (s.modPart p f).bundles = s.bundles := rfl
@[simp] theorem modPart_cmds (s : State) (p : Nat) (f : Part → Part) : (s.modPart p f).cmds = s.cmds := rfl
@[simp] theorem modPart_stamps (s : State) (p : Nat) (f : Part → Part) : (s.modPart p f).stamps = s.stamps := rfl
@[simp] theorem modPart_grow (s : State) (p : Nat) (f : Part → Part) : (s.modPart p f).grow = s.grow := rfl
@[simp] theorem modPart_tlb (s : State) (p : Nat) (f : Part → Part) : (s.modPart p f).tlb = s.tlb := rfl
@[simp] theorem modPart_walks (s : State) (p : Nat) (f : Part → Part) : (s.modPart p f).walks = s.walks := rfl
@[simp] theorem modPart_badmem (s : State) (p : Nat) (f : Part → Part) : (s.modPart p f).badmem = s.badmem := rfl
@[simp] theorem modPart_outside (s : State) (p : Nat) (f : Part → Part) : (s.modPart p f).outside = s.outside := rfl
@[simp] theorem modPart_translations (s : State) (p : Nat) (f : Part → Part) : (s.modPart p f).translations = s.translations := rfl
@[simp] theorem modPart_icache (s : State) (p : Nat) (f : Part → Part) : (s.modPart p f).icache = s.icache := rfl
@[simp] theorem modPart_intc (s : State) (p : Nat) (f : Part → Part) : (s.modPart p f).intc = s.intc := rfl
@[simp] theorem modPart_queues (s : State) (p : Nat) (f : Part → Part) : (s.modPart p f).queues = s.queues := rfl
@[simp] theorem modPart_shep (s : State) (p : Nat) (f : Part → Part) : (s.modPart p f).shep = s.shep := rfl
@[simp] theorem modPart_links (s : State) (p : Nat) (f : Part → Part) : (s.modPart p f).links = s.links := rfl
@[simp] theorem modPart_route (s : State) (p : Nat) (f : Part → Part) : (s.modPart p f).route = s.route := rfl
@[simp] theorem modPart_nodeid (s : State) (p : Nat) (f : Part → Part) : (s.modPart p f).nodeid = s.nodeid := rfl
@[simp] theorem modPart_nodeset (s : State) (p : Nat) (f : Part → Part) : (s.modPart p f).nodeset = s.nodeset := rfl
@[simp] theorem modPart_eth (s : State) (p : Nat) (f : Part → Part) : (s.modPart p f).eth = s.eth := rfl
@[simp] theorem modPart_boot (s : State) (p : Nat) (f : Part → Part) : (s.modPart p f).boot = s.boot := rfl
@[simp] theorem modPart_host (s : State) (p : Nat) (f : Part → Part) : (s.modPart p f).host = s.host := rfl
@[simp] theorem modPart_power (s : State) (p : Nat) (f : Part → Part) : (s.modPart p f).power = s.power := rfl
@[simp] theorem modPart_cur (s : State) (p : Nat) (f : Part → Part) : (s.modPart p f).cur = s.cur := rfl
@[simp] theorem modPart_agenda (s : State) (p : Nat) (f : Part → Part) : (s.modPart p f).agenda = s.agenda := rfl
@[simp] theorem modPart_regwrites (s : State) (p : Nat) (f : Part → Part) : (s.modPart p f).regwrites = s.regwrites := rfl
@[simp] theorem modPart_turn (s : State) (p : Nat) (f : Part → Part) : (s.modPart p f).turn = s.turn := rfl
@[simp] theorem modPart_ticks (s : State) (p : Nat) (f : Part → Part) : (s.modPart p f).ticks = s.ticks := rfl

/-! ### modTeam -/

@[simp] theorem modTeam_mem (s : State) (t : Nat) (f : Team → Team) : (s.modTeam t f).mem = s.mem := rfl
@[simp] theorem modTeam_clk (s : State) (t : Nat) (f : Team → Team) : (s.modTeam t f).clk = s.clk := rfl
@[simp] theorem modTeam_aclk (s : State) (t : Nat) (f : Team → Team) : (s.modTeam t f).aclk = s.aclk := rfl
@[simp] theorem modTeam_ctxs (s : State) (t : Nat) (f : Team → Team) : (s.modTeam t f).ctxs = s.ctxs := rfl
@[simp] theorem modTeam_parts (s : State) (t : Nat) (f : Team → Team) : (s.modTeam t f).parts = s.parts := rfl
@[simp] theorem modTeam_launches (s : State) (t : Nat) (f : Team → Team) : (s.modTeam t f).launches = s.launches := rfl
@[simp] theorem modTeam_packs (s : State) (t : Nat) (f : Team → Team) : (s.modTeam t f).packs = s.packs := rfl
@[simp] theorem modTeam_bundles (s : State) (t : Nat) (f : Team → Team) : (s.modTeam t f).bundles = s.bundles := rfl
@[simp] theorem modTeam_cmds (s : State) (t : Nat) (f : Team → Team) : (s.modTeam t f).cmds = s.cmds := rfl
@[simp] theorem modTeam_stamps (s : State) (t : Nat) (f : Team → Team) : (s.modTeam t f).stamps = s.stamps := rfl
@[simp] theorem modTeam_grow (s : State) (t : Nat) (f : Team → Team) : (s.modTeam t f).grow = s.grow := rfl
@[simp] theorem modTeam_tlb (s : State) (t : Nat) (f : Team → Team) : (s.modTeam t f).tlb = s.tlb := rfl
@[simp] theorem modTeam_walks (s : State) (t : Nat) (f : Team → Team) : (s.modTeam t f).walks = s.walks := rfl
@[simp] theorem modTeam_badmem (s : State) (t : Nat) (f : Team → Team) : (s.modTeam t f).badmem = s.badmem := rfl
@[simp] theorem modTeam_outside (s : State) (t : Nat) (f : Team → Team) : (s.modTeam t f).outside = s.outside := rfl
@[simp] theorem modTeam_translations (s : State) (t : Nat) (f : Team → Team) : (s.modTeam t f).translations = s.translations := rfl
@[simp] theorem modTeam_icache (s : State) (t : Nat) (f : Team → Team) : (s.modTeam t f).icache = s.icache := rfl
@[simp] theorem modTeam_intc (s : State) (t : Nat) (f : Team → Team) : (s.modTeam t f).intc = s.intc := rfl
@[simp] theorem modTeam_queues (s : State) (t : Nat) (f : Team → Team) : (s.modTeam t f).queues = s.queues := rfl
@[simp] theorem modTeam_shep (s : State) (t : Nat) (f : Team → Team) : (s.modTeam t f).shep = s.shep := rfl
@[simp] theorem modTeam_links (s : State) (t : Nat) (f : Team → Team) : (s.modTeam t f).links = s.links := rfl
@[simp] theorem modTeam_route (s : State) (t : Nat) (f : Team → Team) : (s.modTeam t f).route = s.route := rfl
@[simp] theorem modTeam_nodeid (s : State) (t : Nat) (f : Team → Team) : (s.modTeam t f).nodeid = s.nodeid := rfl
@[simp] theorem modTeam_nodeset (s : State) (t : Nat) (f : Team → Team) : (s.modTeam t f).nodeset = s.nodeset := rfl
@[simp] theorem modTeam_eth (s : State) (t : Nat) (f : Team → Team) : (s.modTeam t f).eth = s.eth := rfl
@[simp] theorem modTeam_boot (s : State) (t : Nat) (f : Team → Team) : (s.modTeam t f).boot = s.boot := rfl
@[simp] theorem modTeam_host (s : State) (t : Nat) (f : Team → Team) : (s.modTeam t f).host = s.host := rfl
@[simp] theorem modTeam_power (s : State) (t : Nat) (f : Team → Team) : (s.modTeam t f).power = s.power := rfl
@[simp] theorem modTeam_cur (s : State) (t : Nat) (f : Team → Team) : (s.modTeam t f).cur = s.cur := rfl
@[simp] theorem modTeam_agenda (s : State) (t : Nat) (f : Team → Team) : (s.modTeam t f).agenda = s.agenda := rfl
@[simp] theorem modTeam_regwrites (s : State) (t : Nat) (f : Team → Team) : (s.modTeam t f).regwrites = s.regwrites := rfl
@[simp] theorem modTeam_turn (s : State) (t : Nat) (f : Team → Team) : (s.modTeam t f).turn = s.turn := rfl
@[simp] theorem modTeam_ticks (s : State) (t : Nat) (f : Team → Team) : (s.modTeam t f).ticks = s.ticks := rfl

/-! ### modPack -/

@[simp] theorem modPack_mem (s : State) (p : Nat) (f : Pack → Pack) : (s.modPack p f).mem = s.mem := rfl
@[simp] theorem modPack_clk (s : State) (p : Nat) (f : Pack → Pack) : (s.modPack p f).clk = s.clk := rfl
@[simp] theorem modPack_aclk (s : State) (p : Nat) (f : Pack → Pack) : (s.modPack p f).aclk = s.aclk := rfl
@[simp] theorem modPack_ctxs (s : State) (p : Nat) (f : Pack → Pack) : (s.modPack p f).ctxs = s.ctxs := rfl
@[simp] theorem modPack_parts (s : State) (p : Nat) (f : Pack → Pack) : (s.modPack p f).parts = s.parts := rfl
@[simp] theorem modPack_launches (s : State) (p : Nat) (f : Pack → Pack) : (s.modPack p f).launches = s.launches := rfl
@[simp] theorem modPack_teams (s : State) (p : Nat) (f : Pack → Pack) : (s.modPack p f).teams = s.teams := rfl
@[simp] theorem modPack_bundles (s : State) (p : Nat) (f : Pack → Pack) : (s.modPack p f).bundles = s.bundles := rfl
@[simp] theorem modPack_cmds (s : State) (p : Nat) (f : Pack → Pack) : (s.modPack p f).cmds = s.cmds := rfl
@[simp] theorem modPack_stamps (s : State) (p : Nat) (f : Pack → Pack) : (s.modPack p f).stamps = s.stamps := rfl
@[simp] theorem modPack_grow (s : State) (p : Nat) (f : Pack → Pack) : (s.modPack p f).grow = s.grow := rfl
@[simp] theorem modPack_tlb (s : State) (p : Nat) (f : Pack → Pack) : (s.modPack p f).tlb = s.tlb := rfl
@[simp] theorem modPack_walks (s : State) (p : Nat) (f : Pack → Pack) : (s.modPack p f).walks = s.walks := rfl
@[simp] theorem modPack_badmem (s : State) (p : Nat) (f : Pack → Pack) : (s.modPack p f).badmem = s.badmem := rfl
@[simp] theorem modPack_outside (s : State) (p : Nat) (f : Pack → Pack) : (s.modPack p f).outside = s.outside := rfl
@[simp] theorem modPack_translations (s : State) (p : Nat) (f : Pack → Pack) : (s.modPack p f).translations = s.translations := rfl
@[simp] theorem modPack_icache (s : State) (p : Nat) (f : Pack → Pack) : (s.modPack p f).icache = s.icache := rfl
@[simp] theorem modPack_intc (s : State) (p : Nat) (f : Pack → Pack) : (s.modPack p f).intc = s.intc := rfl
@[simp] theorem modPack_queues (s : State) (p : Nat) (f : Pack → Pack) : (s.modPack p f).queues = s.queues := rfl
@[simp] theorem modPack_shep (s : State) (p : Nat) (f : Pack → Pack) : (s.modPack p f).shep = s.shep := rfl
@[simp] theorem modPack_links (s : State) (p : Nat) (f : Pack → Pack) : (s.modPack p f).links = s.links := rfl
@[simp] theorem modPack_route (s : State) (p : Nat) (f : Pack → Pack) : (s.modPack p f).route = s.route := rfl
@[simp] theorem modPack_nodeid (s : State) (p : Nat) (f : Pack → Pack) : (s.modPack p f).nodeid = s.nodeid := rfl
@[simp] theorem modPack_nodeset (s : State) (p : Nat) (f : Pack → Pack) : (s.modPack p f).nodeset = s.nodeset := rfl
@[simp] theorem modPack_eth (s : State) (p : Nat) (f : Pack → Pack) : (s.modPack p f).eth = s.eth := rfl
@[simp] theorem modPack_boot (s : State) (p : Nat) (f : Pack → Pack) : (s.modPack p f).boot = s.boot := rfl
@[simp] theorem modPack_host (s : State) (p : Nat) (f : Pack → Pack) : (s.modPack p f).host = s.host := rfl
@[simp] theorem modPack_power (s : State) (p : Nat) (f : Pack → Pack) : (s.modPack p f).power = s.power := rfl
@[simp] theorem modPack_cur (s : State) (p : Nat) (f : Pack → Pack) : (s.modPack p f).cur = s.cur := rfl
@[simp] theorem modPack_agenda (s : State) (p : Nat) (f : Pack → Pack) : (s.modPack p f).agenda = s.agenda := rfl
@[simp] theorem modPack_regwrites (s : State) (p : Nat) (f : Pack → Pack) : (s.modPack p f).regwrites = s.regwrites := rfl
@[simp] theorem modPack_turn (s : State) (p : Nat) (f : Pack → Pack) : (s.modPack p f).turn = s.turn := rfl
@[simp] theorem modPack_ticks (s : State) (p : Nat) (f : Pack → Pack) : (s.modPack p f).ticks = s.ticks := rfl

/-! ### modLaunch -/

@[simp] theorem modLaunch_mem (s : State) (n : Nat) (f : Launch → Launch) : (s.modLaunch n f).mem = s.mem := rfl
@[simp] theorem modLaunch_clk (s : State) (n : Nat) (f : Launch → Launch) : (s.modLaunch n f).clk = s.clk := rfl
@[simp] theorem modLaunch_aclk (s : State) (n : Nat) (f : Launch → Launch) : (s.modLaunch n f).aclk = s.aclk := rfl
@[simp] theorem modLaunch_ctxs (s : State) (n : Nat) (f : Launch → Launch) : (s.modLaunch n f).ctxs = s.ctxs := rfl
@[simp] theorem modLaunch_parts (s : State) (n : Nat) (f : Launch → Launch) : (s.modLaunch n f).parts = s.parts := rfl
@[simp] theorem modLaunch_packs (s : State) (n : Nat) (f : Launch → Launch) : (s.modLaunch n f).packs = s.packs := rfl
@[simp] theorem modLaunch_teams (s : State) (n : Nat) (f : Launch → Launch) : (s.modLaunch n f).teams = s.teams := rfl
@[simp] theorem modLaunch_bundles (s : State) (n : Nat) (f : Launch → Launch) : (s.modLaunch n f).bundles = s.bundles := rfl
@[simp] theorem modLaunch_cmds (s : State) (n : Nat) (f : Launch → Launch) : (s.modLaunch n f).cmds = s.cmds := rfl
@[simp] theorem modLaunch_stamps (s : State) (n : Nat) (f : Launch → Launch) : (s.modLaunch n f).stamps = s.stamps := rfl
@[simp] theorem modLaunch_grow (s : State) (n : Nat) (f : Launch → Launch) : (s.modLaunch n f).grow = s.grow := rfl
@[simp] theorem modLaunch_tlb (s : State) (n : Nat) (f : Launch → Launch) : (s.modLaunch n f).tlb = s.tlb := rfl
@[simp] theorem modLaunch_walks (s : State) (n : Nat) (f : Launch → Launch) : (s.modLaunch n f).walks = s.walks := rfl
@[simp] theorem modLaunch_badmem (s : State) (n : Nat) (f : Launch → Launch) : (s.modLaunch n f).badmem = s.badmem := rfl
@[simp] theorem modLaunch_outside (s : State) (n : Nat) (f : Launch → Launch) : (s.modLaunch n f).outside = s.outside := rfl
@[simp] theorem modLaunch_translations (s : State) (n : Nat) (f : Launch → Launch) : (s.modLaunch n f).translations = s.translations := rfl
@[simp] theorem modLaunch_icache (s : State) (n : Nat) (f : Launch → Launch) : (s.modLaunch n f).icache = s.icache := rfl
@[simp] theorem modLaunch_intc (s : State) (n : Nat) (f : Launch → Launch) : (s.modLaunch n f).intc = s.intc := rfl
@[simp] theorem modLaunch_queues (s : State) (n : Nat) (f : Launch → Launch) : (s.modLaunch n f).queues = s.queues := rfl
@[simp] theorem modLaunch_shep (s : State) (n : Nat) (f : Launch → Launch) : (s.modLaunch n f).shep = s.shep := rfl
@[simp] theorem modLaunch_links (s : State) (n : Nat) (f : Launch → Launch) : (s.modLaunch n f).links = s.links := rfl
@[simp] theorem modLaunch_route (s : State) (n : Nat) (f : Launch → Launch) : (s.modLaunch n f).route = s.route := rfl
@[simp] theorem modLaunch_nodeid (s : State) (n : Nat) (f : Launch → Launch) : (s.modLaunch n f).nodeid = s.nodeid := rfl
@[simp] theorem modLaunch_nodeset (s : State) (n : Nat) (f : Launch → Launch) : (s.modLaunch n f).nodeset = s.nodeset := rfl
@[simp] theorem modLaunch_eth (s : State) (n : Nat) (f : Launch → Launch) : (s.modLaunch n f).eth = s.eth := rfl
@[simp] theorem modLaunch_boot (s : State) (n : Nat) (f : Launch → Launch) : (s.modLaunch n f).boot = s.boot := rfl
@[simp] theorem modLaunch_host (s : State) (n : Nat) (f : Launch → Launch) : (s.modLaunch n f).host = s.host := rfl
@[simp] theorem modLaunch_power (s : State) (n : Nat) (f : Launch → Launch) : (s.modLaunch n f).power = s.power := rfl
@[simp] theorem modLaunch_cur (s : State) (n : Nat) (f : Launch → Launch) : (s.modLaunch n f).cur = s.cur := rfl
@[simp] theorem modLaunch_agenda (s : State) (n : Nat) (f : Launch → Launch) : (s.modLaunch n f).agenda = s.agenda := rfl
@[simp] theorem modLaunch_regwrites (s : State) (n : Nat) (f : Launch → Launch) : (s.modLaunch n f).regwrites = s.regwrites := rfl
@[simp] theorem modLaunch_turn (s : State) (n : Nat) (f : Launch → Launch) : (s.modLaunch n f).turn = s.turn := rfl
@[simp] theorem modLaunch_ticks (s : State) (n : Nat) (f : Launch → Launch) : (s.modLaunch n f).ticks = s.ticks := rfl

/-! ### modCmd -/

@[simp] theorem modCmd_mem (s : State) (c : Nat) (f : Cmd → Cmd) : (s.modCmd c f).mem = s.mem := rfl
@[simp] theorem modCmd_clk (s : State) (c : Nat) (f : Cmd → Cmd) : (s.modCmd c f).clk = s.clk := rfl
@[simp] theorem modCmd_aclk (s : State) (c : Nat) (f : Cmd → Cmd) : (s.modCmd c f).aclk = s.aclk := rfl
@[simp] theorem modCmd_ctxs (s : State) (c : Nat) (f : Cmd → Cmd) : (s.modCmd c f).ctxs = s.ctxs := rfl
@[simp] theorem modCmd_parts (s : State) (c : Nat) (f : Cmd → Cmd) : (s.modCmd c f).parts = s.parts := rfl
@[simp] theorem modCmd_launches (s : State) (c : Nat) (f : Cmd → Cmd) : (s.modCmd c f).launches = s.launches := rfl
@[simp] theorem modCmd_packs (s : State) (c : Nat) (f : Cmd → Cmd) : (s.modCmd c f).packs = s.packs := rfl
@[simp] theorem modCmd_teams (s : State) (c : Nat) (f : Cmd → Cmd) : (s.modCmd c f).teams = s.teams := rfl
@[simp] theorem modCmd_bundles (s : State) (c : Nat) (f : Cmd → Cmd) : (s.modCmd c f).bundles = s.bundles := rfl
@[simp] theorem modCmd_stamps (s : State) (c : Nat) (f : Cmd → Cmd) : (s.modCmd c f).stamps = s.stamps := rfl
@[simp] theorem modCmd_grow (s : State) (c : Nat) (f : Cmd → Cmd) : (s.modCmd c f).grow = s.grow := rfl
@[simp] theorem modCmd_tlb (s : State) (c : Nat) (f : Cmd → Cmd) : (s.modCmd c f).tlb = s.tlb := rfl
@[simp] theorem modCmd_walks (s : State) (c : Nat) (f : Cmd → Cmd) : (s.modCmd c f).walks = s.walks := rfl
@[simp] theorem modCmd_badmem (s : State) (c : Nat) (f : Cmd → Cmd) : (s.modCmd c f).badmem = s.badmem := rfl
@[simp] theorem modCmd_outside (s : State) (c : Nat) (f : Cmd → Cmd) : (s.modCmd c f).outside = s.outside := rfl
@[simp] theorem modCmd_translations (s : State) (c : Nat) (f : Cmd → Cmd) : (s.modCmd c f).translations = s.translations := rfl
@[simp] theorem modCmd_icache (s : State) (c : Nat) (f : Cmd → Cmd) : (s.modCmd c f).icache = s.icache := rfl
@[simp] theorem modCmd_intc (s : State) (c : Nat) (f : Cmd → Cmd) : (s.modCmd c f).intc = s.intc := rfl
@[simp] theorem modCmd_queues (s : State) (c : Nat) (f : Cmd → Cmd) : (s.modCmd c f).queues = s.queues := rfl
@[simp] theorem modCmd_shep (s : State) (c : Nat) (f : Cmd → Cmd) : (s.modCmd c f).shep = s.shep := rfl
@[simp] theorem modCmd_links (s : State) (c : Nat) (f : Cmd → Cmd) : (s.modCmd c f).links = s.links := rfl
@[simp] theorem modCmd_route (s : State) (c : Nat) (f : Cmd → Cmd) : (s.modCmd c f).route = s.route := rfl
@[simp] theorem modCmd_nodeid (s : State) (c : Nat) (f : Cmd → Cmd) : (s.modCmd c f).nodeid = s.nodeid := rfl
@[simp] theorem modCmd_nodeset (s : State) (c : Nat) (f : Cmd → Cmd) : (s.modCmd c f).nodeset = s.nodeset := rfl
@[simp] theorem modCmd_eth (s : State) (c : Nat) (f : Cmd → Cmd) : (s.modCmd c f).eth = s.eth := rfl
@[simp] theorem modCmd_boot (s : State) (c : Nat) (f : Cmd → Cmd) : (s.modCmd c f).boot = s.boot := rfl
@[simp] theorem modCmd_host (s : State) (c : Nat) (f : Cmd → Cmd) : (s.modCmd c f).host = s.host := rfl
@[simp] theorem modCmd_power (s : State) (c : Nat) (f : Cmd → Cmd) : (s.modCmd c f).power = s.power := rfl
@[simp] theorem modCmd_cur (s : State) (c : Nat) (f : Cmd → Cmd) : (s.modCmd c f).cur = s.cur := rfl
@[simp] theorem modCmd_agenda (s : State) (c : Nat) (f : Cmd → Cmd) : (s.modCmd c f).agenda = s.agenda := rfl
@[simp] theorem modCmd_regwrites (s : State) (c : Nat) (f : Cmd → Cmd) : (s.modCmd c f).regwrites = s.regwrites := rfl
@[simp] theorem modCmd_turn (s : State) (c : Nat) (f : Cmd → Cmd) : (s.modCmd c f).turn = s.turn := rfl
@[simp] theorem modCmd_ticks (s : State) (c : Nat) (f : Cmd → Cmd) : (s.modCmd c f).ticks = s.ticks := rfl

/-! ### stall -/

@[simp] theorem stall_mem (s : State) : (s.stall).mem = s.mem := rfl
@[simp] theorem stall_clk (s : State) : (s.stall).clk = s.clk := rfl
@[simp] theorem stall_aclk (s : State) : (s.stall).aclk = s.aclk := rfl
@[simp] theorem stall_ctxs (s : State) : (s.stall).ctxs = s.ctxs := rfl
@[simp] theorem stall_parts (s : State) : (s.stall).parts = s.parts := rfl
@[simp] theorem stall_launches (s : State) : (s.stall).launches = s.launches := rfl
@[simp] theorem stall_packs (s : State) : (s.stall).packs = s.packs := rfl
@[simp] theorem stall_teams (s : State) : (s.stall).teams = s.teams := rfl
@[simp] theorem stall_bundles (s : State) : (s.stall).bundles = s.bundles := rfl
@[simp] theorem stall_cmds (s : State) : (s.stall).cmds = s.cmds := rfl
@[simp] theorem stall_stamps (s : State) : (s.stall).stamps = s.stamps := rfl
@[simp] theorem stall_grow (s : State) : (s.stall).grow = s.grow := rfl
@[simp] theorem stall_tlb (s : State) : (s.stall).tlb = s.tlb := rfl
@[simp] theorem stall_walks (s : State) : (s.stall).walks = s.walks := rfl
@[simp] theorem stall_badmem (s : State) : (s.stall).badmem = s.badmem := rfl
@[simp] theorem stall_outside (s : State) : (s.stall).outside = s.outside := rfl
@[simp] theorem stall_translations (s : State) : (s.stall).translations = s.translations := rfl
@[simp] theorem stall_icache (s : State) : (s.stall).icache = s.icache := rfl
@[simp] theorem stall_intc (s : State) : (s.stall).intc = s.intc := rfl
@[simp] theorem stall_queues (s : State) : (s.stall).queues = s.queues := rfl
@[simp] theorem stall_shep (s : State) : (s.stall).shep = s.shep := rfl
@[simp] theorem stall_links (s : State) : (s.stall).links = s.links := rfl
@[simp] theorem stall_route (s : State) : (s.stall).route = s.route := rfl
@[simp] theorem stall_nodeid (s : State) : (s.stall).nodeid = s.nodeid := rfl
@[simp] theorem stall_nodeset (s : State) : (s.stall).nodeset = s.nodeset := rfl
@[simp] theorem stall_eth (s : State) : (s.stall).eth = s.eth := rfl
@[simp] theorem stall_boot (s : State) : (s.stall).boot = s.boot := rfl
@[simp] theorem stall_host (s : State) : (s.stall).host = s.host := rfl
@[simp] theorem stall_power (s : State) : (s.stall).power = s.power := rfl
@[simp] theorem stall_agenda (s : State) : (s.stall).agenda = s.agenda := rfl
@[simp] theorem stall_regwrites (s : State) : (s.stall).regwrites = s.regwrites := rfl
@[simp] theorem stall_turn (s : State) : (s.stall).turn = s.turn := rfl
@[simp] theorem stall_ticks (s : State) : (s.stall).ticks = s.ticks := rfl

/-! ### tick -/

@[simp] theorem tick_mem (s : State) : (s.tick).mem = s.mem := rfl
@[simp] theorem tick_clk (s : State) : (s.tick).clk = s.clk := rfl
@[simp] theorem tick_aclk (s : State) : (s.tick).aclk = s.aclk := rfl
@[simp] theorem tick_ctxs (s : State) : (s.tick).ctxs = s.ctxs := rfl
@[simp] theorem tick_parts (s : State) : (s.tick).parts = s.parts := rfl
@[simp] theorem tick_launches (s : State) : (s.tick).launches = s.launches := rfl
@[simp] theorem tick_packs (s : State) : (s.tick).packs = s.packs := rfl
@[simp] theorem tick_teams (s : State) : (s.tick).teams = s.teams := rfl
@[simp] theorem tick_bundles (s : State) : (s.tick).bundles = s.bundles := rfl
@[simp] theorem tick_cmds (s : State) : (s.tick).cmds = s.cmds := rfl
@[simp] theorem tick_stamps (s : State) : (s.tick).stamps = s.stamps := rfl
@[simp] theorem tick_grow (s : State) : (s.tick).grow = s.grow := rfl
@[simp] theorem tick_tlb (s : State) : (s.tick).tlb = s.tlb := rfl
@[simp] theorem tick_walks (s : State) : (s.tick).walks = s.walks := rfl
@[simp] theorem tick_badmem (s : State) : (s.tick).badmem = s.badmem := rfl
@[simp] theorem tick_outside (s : State) : (s.tick).outside = s.outside := rfl
@[simp] theorem tick_translations (s : State) : (s.tick).translations = s.translations := rfl
@[simp] theorem tick_icache (s : State) : (s.tick).icache = s.icache := rfl
@[simp] theorem tick_intc (s : State) : (s.tick).intc = s.intc := rfl
@[simp] theorem tick_queues (s : State) : (s.tick).queues = s.queues := rfl
@[simp] theorem tick_shep (s : State) : (s.tick).shep = s.shep := rfl
@[simp] theorem tick_links (s : State) : (s.tick).links = s.links := rfl
@[simp] theorem tick_route (s : State) : (s.tick).route = s.route := rfl
@[simp] theorem tick_nodeid (s : State) : (s.tick).nodeid = s.nodeid := rfl
@[simp] theorem tick_nodeset (s : State) : (s.tick).nodeset = s.nodeset := rfl
@[simp] theorem tick_eth (s : State) : (s.tick).eth = s.eth := rfl
@[simp] theorem tick_boot (s : State) : (s.tick).boot = s.boot := rfl
@[simp] theorem tick_host (s : State) : (s.tick).host = s.host := rfl
@[simp] theorem tick_power (s : State) : (s.tick).power = s.power := rfl
@[simp] theorem tick_cur (s : State) : (s.tick).cur = s.cur := rfl
@[simp] theorem tick_agenda (s : State) : (s.tick).agenda = s.agenda := rfl
@[simp] theorem tick_regwrites (s : State) : (s.tick).regwrites = s.regwrites := rfl
@[simp] theorem tick_turn (s : State) : (s.tick).turn = s.turn := rfl

/-! ### advance -/

@[simp] theorem advance_st (t : Thread) (pc : DWord) : (t.advance pc).st = t.st := rfl
@[simp] theorem advance_plain (t : Thread) (pc : DWord) : (t.advance pc).plain = t.plain := rfl
@[simp] theorem advance_parkAsked (t : Thread) (pc : DWord) : (t.advance pc).parkAsked = t.parkAsked := rfl
@[simp] theorem advance_unpark (t : Thread) (pc : DWord) : (t.advance pc).unpark = t.unpark := rfl
@[simp] theorem advance_skip (t : Thread) (pc : DWord) : (t.advance pc).skip = t.skip := rfl
@[simp] theorem advance_ticket (t : Thread) (pc : DWord) : (t.advance pc).ticket = t.ticket := rfl
@[simp] theorem advance_fixed (t : Thread) (pc : DWord) : (t.advance pc).fixed = t.fixed := rfl
@[simp] theorem advance_ring (t : Thread) (pc : DWord) : (t.advance pc).ring = t.ring := rfl
@[simp] theorem advance_base (t : Thread) (pc : DWord) : (t.advance pc).base = t.base := rfl
@[simp] theorem advance_lo (t : Thread) (pc : DWord) : (t.advance pc).lo = t.lo := rfl
@[simp] theorem advance_holes (t : Thread) (pc : DWord) : (t.advance pc).holes = t.holes := rfl
@[simp] theorem advance_n (t : Thread) (pc : DWord) : (t.advance pc).n = t.n := rfl
@[simp] theorem advance_o (t : Thread) (pc : DWord) : (t.advance pc).o = t.o := rfl
@[simp] theorem advance_nc (t : Thread) (pc : DWord) : (t.advance pc).nc = t.nc := rfl
@[simp] theorem advance_entered (t : Thread) (pc : DWord) : (t.advance pc).entered = t.entered := rfl
@[simp] theorem advance_linkPc (t : Thread) (pc : DWord) : (t.advance pc).linkPc = t.linkPc := rfl
@[simp] theorem advance_frames (t : Thread) (pc : DWord) : (t.advance pc).frames = t.frames := rfl
@[simp] theorem advance_fbase (t : Thread) (pc : DWord) : (t.advance pc).fbase = t.fbase := rfl
@[simp] theorem advance_flimit (t : Thread) (pc : DWord) : (t.advance pc).flimit = t.flimit := rfl
@[simp] theorem advance_fstat (t : Thread) (pc : DWord) : (t.advance pc).fstat = t.fstat := rfl
@[simp] theorem advance_marktop (t : Thread) (pc : DWord) : (t.advance pc).marktop = t.marktop := rfl
@[simp] theorem advance_frec (t : Thread) (pc : DWord) : (t.advance pc).frec = t.frec := rfl
@[simp] theorem advance_stale (t : Thread) (pc : DWord) : (t.advance pc).stale = t.stale := rfl
@[simp] theorem advance_ctr (t : Thread) (pc : DWord) : (t.advance pc).ctr = t.ctr := rfl
@[simp] theorem advance_slots (t : Thread) (pc : DWord) : (t.advance pc).slots = t.slots := rfl
@[simp] theorem advance_arrived (t : Thread) (pc : DWord) : (t.advance pc).arrived = t.arrived := rfl
@[simp] theorem advance_excused (t : Thread) (pc : DWord) : (t.advance pc).excused = t.excused := rfl
@[simp] theorem advance_pwait (t : Thread) (pc : DWord) : (t.advance pc).pwait = t.pwait := rfl
@[simp] theorem advance_out (t : Thread) (pc : DWord) : (t.advance pc).out = t.out := rfl
@[simp] theorem advance_recent (t : Thread) (pc : DWord) : (t.advance pc).recent = t.recent := rfl
@[simp] theorem advance_acq (t : Thread) (pc : DWord) : (t.advance pc).acq = t.acq := rfl
@[simp] theorem advance_report (t : Thread) (pc : DWord) : (t.advance pc).report = t.report := rfl
@[simp] theorem advance_readAt (t : Thread) (pc : DWord) : (t.advance pc).readAt = t.readAt := rfl
@[simp] theorem advance_bound (t : Thread) (pc : DWord) : (t.advance pc).bound = t.bound := rfl

/-! ### goto -/

@[simp] theorem goto_st (t : Thread) (pc : DWord) : (t.goto pc).st = t.st := rfl
@[simp] theorem goto_plain (t : Thread) (pc : DWord) : (t.goto pc).plain = t.plain := rfl
@[simp] theorem goto_parkAsked (t : Thread) (pc : DWord) : (t.goto pc).parkAsked = t.parkAsked := rfl
@[simp] theorem goto_unpark (t : Thread) (pc : DWord) : (t.goto pc).unpark = t.unpark := rfl
@[simp] theorem goto_skip (t : Thread) (pc : DWord) : (t.goto pc).skip = t.skip := rfl
@[simp] theorem goto_ticket (t : Thread) (pc : DWord) : (t.goto pc).ticket = t.ticket := rfl
@[simp] theorem goto_fixed (t : Thread) (pc : DWord) : (t.goto pc).fixed = t.fixed := rfl
@[simp] theorem goto_ring (t : Thread) (pc : DWord) : (t.goto pc).ring = t.ring := rfl
@[simp] theorem goto_base (t : Thread) (pc : DWord) : (t.goto pc).base = t.base := rfl
@[simp] theorem goto_lo (t : Thread) (pc : DWord) : (t.goto pc).lo = t.lo := rfl
@[simp] theorem goto_holes (t : Thread) (pc : DWord) : (t.goto pc).holes = t.holes := rfl
@[simp] theorem goto_n (t : Thread) (pc : DWord) : (t.goto pc).n = t.n := rfl
@[simp] theorem goto_o (t : Thread) (pc : DWord) : (t.goto pc).o = t.o := rfl
@[simp] theorem goto_nc (t : Thread) (pc : DWord) : (t.goto pc).nc = t.nc := rfl
@[simp] theorem goto_entered (t : Thread) (pc : DWord) : (t.goto pc).entered = t.entered := rfl
@[simp] theorem goto_linkPc (t : Thread) (pc : DWord) : (t.goto pc).linkPc = t.linkPc := rfl
@[simp] theorem goto_frames (t : Thread) (pc : DWord) : (t.goto pc).frames = t.frames := rfl
@[simp] theorem goto_fbase (t : Thread) (pc : DWord) : (t.goto pc).fbase = t.fbase := rfl
@[simp] theorem goto_flimit (t : Thread) (pc : DWord) : (t.goto pc).flimit = t.flimit := rfl
@[simp] theorem goto_fstat (t : Thread) (pc : DWord) : (t.goto pc).fstat = t.fstat := rfl
@[simp] theorem goto_marktop (t : Thread) (pc : DWord) : (t.goto pc).marktop = t.marktop := rfl
@[simp] theorem goto_frec (t : Thread) (pc : DWord) : (t.goto pc).frec = t.frec := rfl
@[simp] theorem goto_stale (t : Thread) (pc : DWord) : (t.goto pc).stale = t.stale := rfl
@[simp] theorem goto_ctr (t : Thread) (pc : DWord) : (t.goto pc).ctr = t.ctr := rfl
@[simp] theorem goto_slots (t : Thread) (pc : DWord) : (t.goto pc).slots = t.slots := rfl
@[simp] theorem goto_arrived (t : Thread) (pc : DWord) : (t.goto pc).arrived = t.arrived := rfl
@[simp] theorem goto_excused (t : Thread) (pc : DWord) : (t.goto pc).excused = t.excused := rfl
@[simp] theorem goto_pwait (t : Thread) (pc : DWord) : (t.goto pc).pwait = t.pwait := rfl
@[simp] theorem goto_out (t : Thread) (pc : DWord) : (t.goto pc).out = t.out := rfl
@[simp] theorem goto_recent (t : Thread) (pc : DWord) : (t.goto pc).recent = t.recent := rfl
@[simp] theorem goto_acq (t : Thread) (pc : DWord) : (t.goto pc).acq = t.acq := rfl
@[simp] theorem goto_report (t : Thread) (pc : DWord) : (t.goto pc).report = t.report := rfl
@[simp] theorem goto_readAt (t : Thread) (pc : DWord) : (t.goto pc).readAt = t.readAt := rfl
@[simp] theorem goto_bound (t : Thread) (pc : DWord) : (t.goto pc).bound = t.bound := rfl

/-! ### bundleModThread -/

@[simp] theorem bundleModThread_live (x : Bundle) (l : Nat) (f : Thread → Thread) : (x.modThread l f).live = x.live := rfl
@[simp] theorem bundleModThread_resident (x : Bundle) (l : Nat) (f : Thread → Thread) : (x.modThread l f).resident = x.resident := rfl
@[simp] theorem bundleModThread_asid (x : Bundle) (l : Nat) (f : Thread → Thread) : (x.modThread l f).asid = x.asid := rfl
@[simp] theorem bundleModThread_team (x : Bundle) (l : Nat) (f : Thread → Thread) : (x.modThread l f).team = x.team := rfl
@[simp] theorem bundleModThread_was (x : Bundle) (l : Nat) (f : Thread → Thread) : (x.modThread l f).was = x.was := rfl
@[simp] theorem bundleModThread_pid (x : Bundle) (l : Nat) (f : Thread → Thread) : (x.modThread l f).pid = x.pid := rfl
@[simp] theorem bundleModThread_part (x : Bundle) (l : Nat) (f : Thread → Thread) : (x.modThread l f).part = x.part := rfl
@[simp] theorem bundleModThread_core (x : Bundle) (l : Nat) (f : Thread → Thread) : (x.modThread l f).core = x.core := rfl
@[simp] theorem bundleModThread_sub (x : Bundle) (l : Nat) (f : Thread → Thread) : (x.modThread l f).sub = x.sub := rfl
@[simp] theorem bundleModThread_slot (x : Bundle) (l : Nat) (f : Thread → Thread) : (x.modThread l f).slot = x.slot := rfl
@[simp] theorem bundleModThread_w (x : Bundle) (l : Nat) (f : Thread → Thread) : (x.modThread l f).w = x.w := rfl
@[simp] theorem bundleModThread_p (x : Bundle) (l : Nat) (f : Thread → Thread) : (x.modThread l f).p = x.p := rfl
@[simp] theorem bundleModThread_bidx (x : Bundle) (l : Nat) (f : Thread → Thread) : (x.modThread l f).bidx = x.bidx := rfl
@[simp] theorem bundleModThread_s (x : Bundle) (l : Nat) (f : Thread → Thread) : (x.modThread l f).s = x.s := rfl
@[simp] theorem bundleModThread_m (x : Bundle) (l : Nat) (f : Thread → Thread) : (x.modThread l f).m = x.m := rfl
@[simp] theorem bundleModThread_flags (x : Bundle) (l : Nat) (f : Thread → Thread) : (x.modThread l f).flags = x.flags := rfl
@[simp] theorem bundleModThread_late (x : Bundle) (l : Nat) (f : Thread → Thread) : (x.modThread l f).late = x.late := rfl
@[simp] theorem bundleModThread_leash (x : Bundle) (l : Nat) (f : Thread → Thread) : (x.modThread l f).leash = x.leash := rfl
@[simp] theorem bundleModThread_bempty (x : Bundle) (l : Nat) (f : Thread → Thread) : (x.modThread l f).bempty = x.bempty := rfl
@[simp] theorem bundleModThread_hold (x : Bundle) (l : Nat) (f : Thread → Thread) : (x.modThread l f).hold = x.hold := rfl
@[simp] theorem bundleModThread_steps (x : Bundle) (l : Nat) (f : Thread → Thread) : (x.modThread l f).steps = x.steps := rfl
@[simp] theorem bundleModThread_stepping (x : Bundle) (l : Nat) (f : Thread → Thread) : (x.modThread l f).stepping = x.stepping := rfl
@[simp] theorem bundleModThread_lbars (x : Bundle) (l : Nat) (f : Thread → Thread) : (x.modThread l f).lbars = x.lbars := rfl
@[simp] theorem bundleModThread_deliver (x : Bundle) (l : Nat) (f : Thread → Thread) : (x.modThread l f).deliver = x.deliver := rfl
@[simp] theorem bundleModThread_posting (x : Bundle) (l : Nat) (f : Thread → Thread) : (x.modThread l f).posting = x.posting := rfl
@[simp] theorem bundleModThread_handler (x : Bundle) (l : Nat) (f : Thread → Thread) : (x.modThread l f).handler = x.handler := rfl
@[simp] theorem bundleModThread_transl (x : Bundle) (l : Nat) (f : Thread → Thread) : (x.modThread l f).transl = x.transl := rfl

/-! ### What the updates change -/

@[simp] theorem advance_pc (t : Thread) (pc : DWord) : (t.advance pc).pc = pc + 4 := rfl
@[simp] theorem advance_fell (t : Thread) (pc : DWord) : (t.advance pc).fell = true := rfl
@[simp] theorem goto_pc (t : Thread) (pc : DWord) : (t.goto pc).pc = pc := rfl
@[simp] theorem goto_fell (t : Thread) (pc : DWord) : (t.goto pc).fell = false := rfl
@[simp] theorem stall_cur (s : State) : s.stall.cur = { s.cur with stalled := true } := rfl
@[simp] theorem tick_ticks (s : State) : s.tick.ticks = s.ticks + 1 := rfl

/-- The bundle that an update changes. -/
theorem bundle_modBundle (s : State) (b : Nat) (f : Bundle → Bundle) :
    (s.modBundle b f).bundle b = if b < s.bundles.length then f (s.bundle b) else s.bundle b := by
  by_cases h : b < s.bundles.length <;> simp [State.bundle, State.modBundle, List.getD_eq_getElem?_getD, h]

/-- The other bundles. -/
theorem bundle_modBundle_ne (s : State) (b c : Nat) (f : Bundle → Bundle) (h : c ≠ b) :
    (s.modBundle b f).bundle c = s.bundle c := by
  simp [State.bundle, State.modBundle, List.getD_eq_getElem?_getD, Ne.symm h]

/-- The team that an update changes. -/
theorem team_modTeam (s : State) (t : Nat) (f : Team → Team) :
    (s.modTeam t f).team t = if t < s.teams.length then f (s.team t) else s.team t := by
  by_cases h : t < s.teams.length <;> simp [State.team, State.modTeam, List.getD_eq_getElem?_getD, h]

/-- The other teams. -/
theorem team_modTeam_ne (s : State) (t c : Nat) (f : Team → Team) (h : c ≠ t) :
    (s.modTeam t f).team c = s.team c := by
  simp [State.team, State.modTeam, List.getD_eq_getElem?_getD, Ne.symm h]

end Sys2Proof.Laws
end

