-- ==== Sys2Proof/Laws/Words.lean ====
section
/-! SUPPORT. What the shared operations behind the words do, each said once: a word that issues, a lane word, a uniform word, a word
that writes a mask register. -/
namespace Sys2Proof.Laws
open Sys2Proof.Machine

/-- A word that issues has its effect. -/
theorem word_issues {s : State} {i : Instr} (h : s.issues i) (f : State → State) : s.word i f = .next (f s) := by
  simp [State.word, h.1, h.2]

/-- Every word answers a next state. -/
theorem word_next (s : State) (i : Instr) (f : State → State) : ∃ t, s.word i f = .next t := by
  unfold State.word
  split
  · exact ⟨_, rfl⟩
  · split <;> exact ⟨_, rfl⟩

/-- No trap is taken where none is asked. -/
@[simp] theorem takeTraps_nil (s : State) (b : Nat) (pc : DWord) (set : List Nat) : s.takeTraps b pc set [] = s := rfl

/-- A change of one bundle changes nothing else. -/
theorem sameBut_modBundle (s : State) (b : Nat) (f : Bundle → Bundle) : SameBut b s (s.modBundle b f) :=
  ⟨rfl, fun _ h => bundle_modBundle_ne s b _ f h⟩

/-- The bundle at issue after a change of it. -/
theorem curB_modBundle (s : State) (f : Bundle → Bundle) (h : s.cur.bundle < s.bundles.length) :
    (s.modBundle s.cur.bundle f).curB = f s.curB := by
  simp [State.curB, bundle_modBundle, h]

/-- A bundle that does not exist has no thread. -/
theorem curB_absent (s : State) (h : ¬ s.cur.bundle < s.bundles.length) : s.curB = Bundle.absent := by
  simp [State.curB, State.bundle, List.getD_eq_getElem?_getD, h]

/-- A change of a bundle that does not exist changes nothing. -/
theorem modBundle_absent (s : State) (b : Nat) (f : Bundle → Bundle) (h : ¬ b < s.bundles.length) : s.modBundle b f = s := by
  simp only [State.modBundle]
  rw [List.modify_eq_self (by omega)]

/-- A change of a bundle depends only on what it makes of that bundle. -/
theorem modBundle_congr (s : State) (b : Nat) (f g : Bundle → Bundle) (h : f (s.bundle b) = g (s.bundle b)) :
    s.modBundle b f = s.modBundle b g := by
  by_cases hb : b < s.bundles.length
  · have hg : s.bundles[b]? = some (s.bundle b) := by
      simp [State.bundle, List.getD_eq_getElem?_getD, hb]
    unfold State.modBundle
    congr 1
    apply List.ext_getElem?
    intro i
    rw [List.getElem?_modify, List.getElem?_modify]
    by_cases e : b = i
    · subst e
      rw [hg]
      show Option.map _ _ = Option.map _ _
      simp [h]
    · simp [e]
  · rw [modBundle_absent s _ _ hb, modBundle_absent s _ _ hb]

/-- Marks of a race change no outstanding word otherwise. -/
theorem clashV_late (x : Bundle) (l k : Nat) :
    (x.clashV l k).late.map LateOp.plain = x.late.map LateOp.plain ∧ { x.clashV l k with late := x.late } = x := by
  unfold Bundle.clashV
  split
  · exact ⟨rfl, rfl⟩
  · refine ⟨?_, rfl⟩
    simp only [List.map_map]
    apply List.map_congr_left
    intro o _
    simp only [LateOp.plain, Function.comp_apply, List.map_map]
    congr 1
    apply List.map_congr_left
    intro w _
    simp only [Function.comp_apply]
    split <;> rfl

/-- Marks of a race on a uniform register change no outstanding word otherwise. -/
theorem clashS_late (x : Bundle) (n : Nat) :
    (x.clashS n).late.map LateOp.plain = x.late.map LateOp.plain ∧ { x.clashS n with late := x.late } = x := by
  unfold Bundle.clashS
  split
  · exact ⟨rfl, rfl⟩
  · refine ⟨?_, rfl⟩
    simp only [List.map_map]
    apply List.map_congr_left
    intro o _
    simp only [LateOp.plain, Function.comp_apply, List.map_map]
    congr 1
    apply List.map_congr_left
    intro w _
    simp only [Function.comp_apply]
    split <;> rfl

/-- What only the marks of races may differ in. -/
def likeLate (x y : Bundle) : Prop := y.late.map LateOp.plain = x.late.map LateOp.plain ∧ { y with late := x.late } = x

theorem likeLate.trans {x y z : Bundle} (h : likeLate x y) (g : likeLate y z) : likeLate x z :=
  ⟨g.1.trans h.1, by rw [← h.2, ← g.2]⟩

/-- The marks that a word makes on outstanding words. -/
theorem contest_like (x : Bundle) (fate : Nat → Fate) : likeLate x (x.contest fate) := by
  unfold Bundle.contest
  split
  · exact ⟨rfl, rfl⟩
  · suffices h : ∀ (ls : List Nat) (y : Bundle), likeLate x y → likeLate x (ls.foldl (fun b l => match fate l with
        | .done ws _ => ws.foldl (fun b w => b.clashV l ((b.thread l).key w.1)) b
        | _ => b) y) from h _ x ⟨rfl, rfl⟩
    intro ls
    induction ls with
    | nil => exact fun y h => h
    | cons l ls ih =>
      intro y h
      refine ih _ ?_
      dsimp only
      split
      · rename_i ws _ hw
        clear ih hw
        induction ws generalizing y with
        | nil => exact h
        | cons w ws ihw => exact ihw _ (h.trans (clashV_late y l _))
      · exact h

/-- A word none of whose lanes traps: its lanes meet their fates, and nothing else happens. -/
theorem meetAll_pass {s : State} {fate : Nat → Fate} (h : ∀ l ∈ s.issued, ∀ i, fate l ≠ .trap i) (long : Bool)
    (links : List Sent) (loads : List LateLoad) :
    s.meetAll long links loads fate = s.modBundle s.cur.bundle (fun b =>
      let late := long && !s.cur.plain
      let writes := s.issued.flatMap (fun l => lateOf (s.curB.thread l) l (fate l))
      let b := if late then b else b.contest fate
      let b := { b with threads := b.threads.mapIdx (fun l t => t.meet s.cur.pc (!late) (fate l)) }
      if late && (writes != [] || links != []) then b.addLate ⟨s.cur.trapPc, s.cur.flag, writes, [], links, loads⟩ else b) := by
  refine Eq.trans (congrArg (State.takeTraps _ _ _ _) (List.filterMap_eq_nil_iff.mpr ?_ : _ = [])) rfl
  intro l hl
  have := h l hl
  split
  · rename_i i hi; exact absurd hi (this i)
  · rfl

/-- The fate of a lane of a lane word that no check stops. -/
theorem laneFate_pass {s : State} {o : LaneOp} (h : s.lanesPass o) {l : Nat} (hl : l ∈ s.issued) (f : Nat → Fate) :
    s.laneFate o f l = if s.isActive l then f l else .done (s.inactiveWrites o) 0 := by
  have hl' : s.cur.lanes.getLsbD l = true := (List.mem_filter.mp hl).2
  unfold State.laneFate State.inactiveWrites
  by_cases ha : s.isActive l = true
  · simp [hl', ha, h l hl ha]
  · simp [hl', ha]

/-- A lane that is not issued has no fate. -/
theorem laneFate_other {s : State} {o : LaneOp} {l : Nat} (hl : s.cur.lanes.getLsbD l = false) (f : Nat → Fate) :
    s.laneFate o f l = .none := by
  simp [State.laneFate, hl]

/-- THE LANE WORD: where no check stops a lane, it does what its row says and nothing else. -/
theorem laneWord_done {s : State} {r : LaneRow} (h : s.lanesPass r.op) : r.done s (s.laneWord r.op r.long r.val) := by
  have hf : ∀ l ∈ s.issued, s.laneFate r.op (fun l => .done (r.val l).1 (r.val l).2) l = .done (r.writes s l) (r.flags s l) := by
    intro l hl
    rw [laneFate_pass h hl]
    unfold LaneRow.writes LaneRow.flags
    split <;> rfl
  have ht : ∀ l ∈ s.issued, ∀ i, s.laneFate r.op (fun l => .done (r.val l).1 (r.val l).2) l ≠ .trap i := by
    intro l hl i; rw [hf l hl]; exact Fate.noConfusion
  have hw : s.issued.flatMap (fun l => lateOf (s.curB.thread l) l
      (s.laneFate r.op (fun l => .done (r.val l).1 (r.val l).2) l)) = r.outstanding s := by
    unfold LaneRow.outstanding
    apply List.flatMap_congr
    intro l hl
    rw [hf l hl]
    rfl
  have hth : ∀ (now : Bool), now = !r.later s → s.curB.threads.mapIdx (fun l t => t.meet s.cur.pc now
      (s.laneFate r.op (fun l => .done (r.val l).1 (r.val l).2) l)) =
      s.curB.threads.mapIdx (fun l th => if s.cur.lanes.getLsbD l then r.thread s l th else th) := by
    rintro now rfl
    apply List.mapIdx_eq_mapIdx_iff.mpr
    intro l hl
    by_cases hc : s.cur.lanes.getLsbD l = true
    · have : l ∈ s.issued := List.mem_filter.mpr ⟨List.mem_range.mpr hl, hc⟩
      rw [hf l this, if_pos hc]
      unfold LaneRow.thread Thread.meet
      cases r.later s <;> simp
    · rw [laneFate_other (by simpa using hc), if_neg hc]; rfl
  unfold State.laneWord
  rw [meetAll_pass ht]
  simp only [hw]
  by_cases hb : s.cur.bundle < s.bundles.length
  · unfold LaneRow.done
    by_cases hl : r.later s = true
    · rw [if_pos hl]
      have hl' : (r.long && !s.cur.plain) = true := hl
      simp only [hl', if_true, Bool.not_true]
      have hn := hth false (by simp [hl])
      refine ⟨sameBut_modBundle _ _ _, ?_, ?_, ?_, ?_⟩ <;>
        (rw [curB_modBundle _ _ hb]; by_cases hz : r.outstanding s = [] <;> simp [hz, Bundle.addLate, hn])
    · rw [if_neg hl]
      have hl' : (r.long && !s.cur.plain) = false := by simpa [LaneRow.later] using hl
      simp only [hl', if_false, Bool.not_false, Bool.false_and, Bool.false_eq_true]
      have hn := hth true (by simp [hl])
      have hc := contest_like s.curB (s.laneFate r.op (fun l => .done (r.val l).1 (r.val l).2))
      have hct : (s.curB.contest (s.laneFate r.op (fun l => .done (r.val l).1 (r.val l).2))).threads = s.curB.threads :=
        (congrArg Bundle.threads hc.2 : _)
      refine ⟨sameBut_modBundle _ _ _, ?_, ?_, ?_⟩
      · rw [curB_modBundle _ _ hb]; simp only [hct]; exact hn
      · rw [curB_modBundle _ _ hb]
        conv => rhs; rw [← hc.2]
        simp only [hct]
      · rw [curB_modBundle _ _ hb]; exact hc.1
  · rw [modBundle_absent _ _ _ hb]
    have ha := curB_absent s hb
    have hi : s.issued = [] := by simp [State.issued, ha, Bundle.absent, lanesIn]
    unfold LaneRow.done
    split
    · refine ⟨⟨rfl, fun _ _ => rfl⟩, ?_, ?_, ?_, rfl⟩ <;> simp [LaneRow.outstanding, hi, ha, Bundle.absent]
    · refine ⟨⟨rfl, fun _ _ => rfl⟩, ?_, rfl, rfl⟩; simp [ha, Bundle.absent]

/-! ### Uniform words -/

/-- The uniform registers that writes leave, with the marks of races. -/
theorem bundleWriteS_like (x : Bundle) (ws : List (Nat × Reg)) :
    (x.writeS ws).s = ws.foldl (fun r w => r.set w.1 w.2) x.s ∧ { x.writeS ws with s := x.s, late := x.late } = x
      ∧ (x.writeS ws).late.map LateOp.plain = x.late.map LateOp.plain := by
  unfold Bundle.writeS
  induction ws generalizing x with
  | nil => exact ⟨rfl, rfl, rfl⟩
  | cons w ws ih =>
    simp only [List.foldl_cons]
    have hc := clashS_late { x with s := x.s.set w.1 w.2 } w.1
    obtain ⟨h1, h2, h3⟩ := ih ({ x with s := x.s.set w.1 w.2 }.clashS w.1)
    have hs : ({ x with s := x.s.set w.1 w.2 }.clashS w.1).s = x.s.set w.1 w.2 := congrArg Bundle.s hc.2
    refine ⟨by rw [h1, hs], ?_, h3.trans hc.1⟩
    have e := congrArg (fun y : Bundle => { y with s := x.s, late := x.late }) h2
    have e' := congrArg (fun y : Bundle => { y with s := x.s }) hc.2
    exact e.trans e'

/-- A word that writes uniform registers and advances its issued set. -/
theorem writeS_advance (s : State) (ws : List (Nat × Reg)) : UniStep s (s.writeS ws).advanceAll ws := by
  obtain ⟨h1, h2, h3⟩ := bundleWriteS_like s.curB ws
  have ht : (s.curB.writeS ws).threads = s.curB.threads := by
    have := congrArg Bundle.threads h2; exact this
  by_cases hb : s.cur.bundle < s.bundles.length
  · have e : (s.writeS ws).advanceAll.curB = { s.curB.writeS ws with threads := s.passed } := by
      have hl : (s.writeS ws).cur.bundle < (s.writeS ws).bundles.length := by
        simpa [State.writeS, State.modBundle] using hb
      unfold State.advanceAll State.mapLanes
      rw [curB_modBundle _ _ hl, State.writeS, curB_modBundle _ _ hb, ht]
      rfl
    refine ⟨⟨rfl, fun i hi => ?_⟩, ?_, ?_, ?_, ?_⟩
    · exact (bundle_modBundle_ne _ _ _ _ hi).trans (bundle_modBundle_ne _ _ _ _ hi)
    · rw [e]; exact h1
    · rw [e]
    · rw [e]; exact (congrArg (fun y : Bundle => { y with threads := s.curB.threads }) h2 : _)
    · rw [e]; exact h3
  · have ha := curB_absent s hb
    have e : (s.writeS ws).advanceAll = s := by
      unfold State.advanceAll State.mapLanes State.writeS
      rw [modBundle_absent s _ _ hb, modBundle_absent s _ _ hb]
    rw [e]
    have hn : ∀ ws : List (Nat × Reg), ws.foldl (fun r w => r.set w.1 w.2) ([] : List Reg) = [] := by
      intro ws; induction ws with
      | nil => rfl
      | cons w ws ih => simpa using ih
    refine ⟨⟨rfl, fun _ _ => rfl⟩, ?_, ?_, rfl, rfl⟩
    · rw [ha]; exact (hn ws).symm
    · unfold State.passed; rw [ha]; rfl

/-- THE UNIFORM WORD: where its tag checks pass, it writes its registers and advances. -/
theorem uniWrites_done {s : State} {us : List Use} (h : s.uniTrap us = none) (ws : List (Nat × Reg)) :
    UniStep s (s.uniWrites us ws) ws := by
  unfold State.uniWrites State.uniWord
  rw [h]
  exact writeS_advance s ws

/-! ### Words that write a mask register -/

/-- A word of no register write marks no race. -/
theorem contest_none {x : Bundle} {fate : Nat → Fate} (h : ∀ l ws fl, fate l = .done ws fl → ws = []) : x.contest fate = x := by
  unfold Bundle.contest
  split
  · rfl
  · generalize List.range x.threads.length = ls
    induction ls with
    | nil => rfl
    | cons l ls ih =>
      simp only [List.foldl_cons]
      refine Eq.trans (congrArg (fun y => List.foldl _ y ls) ?_) ih
      split
      · rename_i ws fl hw
        rw [h l ws fl hw]; rfl
      · rfl

/-- A mask register written, and then lanes that meet fates without traps and without register writes. -/
theorem writeM_meetAll {s : State} {n : Nat} {v : BitVec 64} {fate : Nat → Fate} (ht : ∀ l ∈ s.issued, ∀ i, fate l ≠ .trap i)
    (hw : ∀ l ws fl, fate l = .done ws fl → ws = []) :
    MaskStep s ((s.writeM n v).meetAll false [] [] fate) n v (s.curB.threads.mapIdx (fun l th => th.meet s.cur.pc true (fate l))) := by
  have hm : ∀ x : Bundle, (x.writeM n v).threads = x.threads := by
    intro x; unfold Bundle.writeM; split <;> rfl
  by_cases hb : s.cur.bundle < s.bundles.length
  · have hc : (s.writeM n v).curB = s.curB.writeM n v := curB_modBundle s _ hb
    have hi : (s.writeM n v).issued = s.issued := by
      unfold State.issued; rw [hc, hm]; rfl
    have hl : (s.writeM n v).cur.bundle < (s.writeM n v).bundles.length := by
      simpa [State.writeM, State.modBundle] using hb
    rw [meetAll_pass (by rw [hi]; exact ht)]
    simp only [Bool.false_and, Bool.false_eq_true, if_false, Bool.not_false]
    have e : ((s.writeM n v).modBundle (s.writeM n v).cur.bundle (fun b =>
        { b.contest fate with
          threads := (b.contest fate).threads.mapIdx (fun l t => t.meet (s.writeM n v).cur.pc true (fate l)) })).curB
        = { s.curB.writeM n v with threads := s.curB.threads.mapIdx (fun l th => th.meet s.cur.pc true (fate l)) } := by
      rw [curB_modBundle _ _ hl, hc, contest_none hw, hm]; rfl
    refine ⟨⟨rfl, fun i hi' => ?_⟩, ?_, ?_, ?_⟩
    · exact (bundle_modBundle_ne _ _ _ _ hi').trans (bundle_modBundle_ne _ _ _ _ hi')
    · rw [e]; unfold Bundle.writeM; split <;> rfl
    · rw [e]
    · rw [e]; unfold Bundle.writeM; split <;> rfl
  · have ha := curB_absent s hb
    have e1 : s.writeM n v = s := modBundle_absent s _ _ hb
    rw [e1, meetAll_pass ht, modBundle_absent s _ _ hb]
    refine ⟨⟨rfl, fun _ _ => rfl⟩, ?_, ?_, rfl⟩
    · rw [ha]; split <;> rfl
    · rw [ha]; rfl

/-- Lanes that pass their checks and write no register. -/
theorem meet_flags {s : State} {o : LaneOp} (h : s.lanesPass o) (ho : o.dst = []) (fl : Nat → BitVec 6) :
    s.curB.threads.mapIdx (fun l th => th.meet s.cur.pc true (s.laneFate o (fun l => .done [] (fl l)) l)) = s.maskThreads fl := by
  unfold State.maskThreads
  apply List.mapIdx_eq_mapIdx_iff.mpr
  intro l hl
  by_cases hc : s.cur.lanes.getLsbD l = true
  · have : l ∈ s.issued := List.mem_filter.mpr ⟨List.mem_range.mpr hl, hc⟩
    rw [laneFate_pass h this, if_pos hc]
    unfold State.inactiveWrites
    by_cases ha : s.isActive l = true <;> simp [ha, ho, Thread.meet, Thread.writes]
  · rw [laneFate_other (by simpa using hc), if_neg hc]; rfl

/-- A lane of a word without destinations writes no register. -/
theorem laneFate_none {s : State} {o : LaneOp} (ho : o.dst = []) (fl : Nat → BitVec 6) (l : Nat) (ws : List (Nat × Reg))
    (x : BitVec 6) (e : s.laneFate o (fun l => .done [] (fl l)) l = .done ws x) : ws = [] := by
  unfold State.laneFate at e
  split at e
  · cases e
  · split at e
    · injection e with e _; rw [← e, ho]; split <;> rfl
    · split at e
      · cases e
      · injection e with e _; exact e.symm

/-- A lane that passes its checks does not trap. -/
theorem laneFate_noTrap {s : State} {o : LaneOp} (h : s.lanesPass o) (f : Nat → Fate) (hf : ∀ l ∈ s.issued, ∀ i, f l ≠ .trap i) :
    ∀ l ∈ s.issued, ∀ i, s.laneFate o f l ≠ .trap i := by
  intro l hl i
  rw [laneFate_pass h hl]
  split
  · exact hf l hl i
  · exact Fate.noConfusion

/-- THE LANE WORD THAT WRITES A MASK: where no check stops a lane. -/
theorem laneMask_done {s : State} {o : LaneOp} (h : s.lanesPass o) (ho : o.dst = []) (m : Nat) (f : Nat → Bool × BitVec 6) :
    MaskStep s (s.laneMask m o f) m (s.maskResult (s.readM m) (fun l => (f l).1)) (s.maskThreads (fun l => (f l).2)) := by
  unfold State.laneMask
  have hv : s.issued.foldl (fun v l => match s.laneFate o (fun l => .done [] (f l).2) l with
      | .done _ _ => if s.isActive l then setBit v l (f l).1 else if s.zeroing then setBit v l false else v
      | _ => v) (s.readM m) = s.maskResult (s.readM m) (fun l => (f l).1) := by
    unfold State.maskResult
    apply List.foldl_ext
    intro v l hl
    rw [laneFate_pass h hl]
    split <;> rename_i he
    · rfl
    · split at he <;> exact absurd rfl (he _ _)
  rw [← meet_flags h ho (fun l => (f l).2)]
  have hm := writeM_meetAll (s := s) (n := m) (v := s.maskResult (s.readM m) (fun l => (f l).1))
    (laneFate_noTrap h (fun l => .done [] (f l).2) (fun _ _ _ => Fate.noConfusion)) (laneFate_none ho (fun l => (f l).2))
  rw [← hv] at hm ⊢
  exact hm

/-- A mask register written by a word that advances its issued set. -/
theorem writeM_advance (s : State) (n : Nat) (v : BitVec 64) : MaskStep s (s.writeM n v).advanceAll n v s.passed := by
  have hm : ∀ x : Bundle, (x.writeM n v).threads = x.threads := by
    intro x; unfold Bundle.writeM; split <;> rfl
  by_cases hb : s.cur.bundle < s.bundles.length
  · have hl : (s.writeM n v).cur.bundle < (s.writeM n v).bundles.length := by
      simpa [State.writeM, State.modBundle] using hb
    have e : (s.writeM n v).advanceAll.curB = { s.curB.writeM n v with threads := s.passed } := by
      unfold State.advanceAll State.mapLanes
      rw [curB_modBundle _ _ hl, State.writeM, curB_modBundle _ _ hb, hm]
      rfl
    refine ⟨⟨rfl, fun i hi => ?_⟩, ?_, ?_, ?_⟩
    · exact (bundle_modBundle_ne _ _ _ _ hi).trans (bundle_modBundle_ne _ _ _ _ hi)
    · rw [e]; unfold Bundle.writeM; split <;> rfl
    · rw [e]
    · rw [e]; unfold Bundle.writeM; split <;> rfl
  · have ha := curB_absent s hb
    have e : (s.writeM n v).advanceAll = s := by
      unfold State.advanceAll State.mapLanes State.writeM
      rw [modBundle_absent s _ _ hb, modBundle_absent s _ _ hb]
    rw [e]
    refine ⟨⟨rfl, fun _ _ => rfl⟩, ?_, ?_, rfl⟩
    · rw [ha]; split <;> rfl
    · unfold State.passed; rw [ha]; rfl

/-- Bits of a mask that lanes in turn set. -/
theorem setBits_get (ls : List Nat) (v : BitVec 64) (bit : Nat → Bool) (k : Nat) (hk : k < 64) :
    (ls.foldl (fun v l => setBit v l (bit l)) v).getLsbD k = if k ∈ ls then bit k else v.getLsbD k := by
  induction ls generalizing v with
  | nil => rfl
  | cons l ls ih =>
    simp only [List.foldl_cons, ih]
    by_cases hm : k ∈ ls
    · simp [hm]
    · by_cases e : k = l
      · subst e
        cases hb : bit k <;> simp [hm, setBit, laneBit, hk]
      · cases hb : bit l <;> simp [hm, e, setBit, laneBit, hk] <;> omega

/-! ### Words that act on their lanes in turn -/

/-- A state with other threads in the bundle at issue. -/
def withThreads (s : State) (ts : List Thread) : State := s.modBundle s.cur.bundle (fun x => { x with threads := ts })

theorem withThreads_curB {s : State} (h : s.cur.bundle < s.bundles.length) (ts : List Thread) :
    (withThreads s ts).curB = { s.curB with threads := ts } := curB_modBundle s _ h

theorem withThreads_self (s : State) : withThreads s s.curB.threads = s := by
  by_cases h : s.cur.bundle < s.bundles.length
  · unfold withThreads State.modBundle
    have : s.bundles.modify s.cur.bundle (fun x => { x with threads := s.curB.threads }) = s.bundles := by
      apply List.ext_getElem?
      intro i
      rw [List.getElem?_modify]
      by_cases e : s.cur.bundle = i
      · subst e
        simp [State.curB, State.bundle, List.getD_eq_getElem?_getD, h]
      · simp [e]
    rw [this]
  · exact modBundle_absent s _ _ h

theorem withThreads_modThread (s : State) (ts : List Thread) (l : Nat) (f : Thread → Thread) :
    (withThreads s ts).modThread s.cur.bundle l f = withThreads s (ts.modify l f) := by
  unfold withThreads State.modThread State.modBundle
  simp only [List.modify_modify_eq]
  rfl

/-- THE LANES IN TURN: an operation that, from a state in which only other lanes' threads have changed, changes its own lane's thread
alone, changes each issued lane's thread when it is done for all of them. -/
theorem foldLanes (s : State) (f : State → Nat → State) (g : Nat → Thread → Thread)
    (hf : ∀ ts l, l ∈ s.issued → ts.length = s.curB.threads.length → ts[l]? = s.curB.threads[l]? →
      f (withThreads s ts) l = (withThreads s ts).modThread s.cur.bundle l (g l)) :
    s.issued.foldl f s = s.mapLanes (fun l t => if s.cur.lanes.getLsbD l then g l t else t) := by
  suffices h : ∀ (ls : List Nat) (ts : List Thread), ls.Nodup → (∀ l ∈ ls, l ∈ s.issued) → ts.length = s.curB.threads.length →
      (∀ l ∈ ls, ts[l]? = s.curB.threads[l]?) →
      ls.foldl f (withThreads s ts) = withThreads s (ts.mapIdx (fun l t => if l ∈ ls then g l t else t)) by
    have h1 := h s.issued s.curB.threads (List.nodup_range.filter _) (fun _ h => h) rfl (fun _ _ => rfl)
    rw [withThreads_self] at h1
    rw [h1]
    unfold State.mapLanes withThreads
    apply modBundle_congr
    have : s.curB.threads.mapIdx (fun l t => if l ∈ s.issued then g l t else t)
        = s.curB.threads.mapIdx (fun l t => if s.cur.lanes.getLsbD l then g l t else t) := by
      apply List.mapIdx_eq_mapIdx_iff.mpr
      intro l hl
      have : l ∈ s.issued ↔ s.cur.lanes.getLsbD l = true := by
        unfold State.issued lanesIn
        simp [hl]
      simp only [this]
    rw [this]
    rfl
  intro ls
  induction ls with
  | nil =>
    intro ts _ _ _ _
    have : ts.mapIdx (fun l t => if l ∈ ([] : List Nat) then g l t else t) = ts := by
      apply List.ext_getElem?
      intro i
      simp [List.getElem?_mapIdx]
    rw [this]
    rfl
  | cons l ls ih =>
    intro ts hn hm hl ht
    simp only [List.foldl_cons]
    rw [hf ts l (hm l (by simp)) hl (ht l (by simp)), withThreads_modThread]
    rw [ih (ts.modify l (g l)) (List.nodup_cons.mp hn).2 (fun k hk => hm k (by simp [hk])) (by simpa using hl)]
    · congr 1
      apply List.ext_getElem?
      intro i
      simp only [List.getElem?_mapIdx, List.getElem?_modify]
      have hni := (List.nodup_cons.mp hn).1
      by_cases e : l = i
      · subst e
        simp [hni, Function.comp_def]
      · simp [e, Ne.symm e]
    · intro k hk
      have hni := (List.nodup_cons.mp hn).1
      have : l ≠ k := fun e => hni (e ▸ hk)
      rw [List.getElem?_modify_ne _ _ this]
      exact ht k (by simp [hk])

/-- Threads changed by their lanes. -/
theorem mapLanes_step (s : State) (next : Nat → Thread → Thread) :
    LaneStep s (s.mapLanes (fun l t => if s.cur.lanes.getLsbD l then next l t else t)) next := by
  by_cases hb : s.cur.bundle < s.bundles.length
  · have e : (s.mapLanes (fun l t => if s.cur.lanes.getLsbD l then next l t else t)).curB = _ := curB_modBundle s _ hb
    exact ⟨sameBut_modBundle _ _ _, by rw [e], by rw [e], by rw [e]⟩
  · have e : s.mapLanes (fun l t => if s.cur.lanes.getLsbD l then next l t else t) = s := modBundle_absent s _ _ hb
    rw [e]
    refine ⟨⟨rfl, fun _ _ => rfl⟩, ?_, rfl, rfl⟩
    rw [curB_absent s hb]; rfl

end Sys2Proof.Laws
end

