-- ==== Sys2Proof/Tests/Slice0.lean ====
section
/-! SUPPORT. Tests of the model: words written out from the encoding tables of the spec, terms that are not well formed, single
steps whose results are computed by hand from the rules, and for each statement and clause a state that meets its hypotheses. -/
set_option Elab.async false

namespace Sys2Proof.Tests
open Sys2Proof Sys2Proof.Machine Sys2Proof.Claims

/-! ### States to test on -/

/-- Boot with no image in its flash. -/
def bareBoot : Boot := ⟨0, 0, 0, false, 0, 0, 0, [], true, true, true⟩

/-- A privileged context with ASID 1, and a team of one thread whose plain-form word stands at the latch. -/
def one : State := { State.reset.startTeamAt with boot := bareBoot, cur := ⟨0, 0x10040, 0x10040, 1, none, none, true, false, 0x10040, 0, [], [], [], [], false⟩, agenda := [] }

/-- Lane register n of the thread. -/
def withV (n : Nat) (v : Word) (s : State) : State := s.modThread 0 0 (fun t => t.writeV n ⟨v, .int⟩)

/-- Uniform register n. -/
def withS (n : Nat) (v : Word) (s : State) : State := s.modBundle 0 (fun b => { b with s := b.s.set n ⟨v, .int⟩ })

/-- Bytes of main memory from an offset up. -/
def withMem (a : Nat) (bs : List Byte) (s : State) : State := { s with mem := s.mem.writeBytes a bs }

/-- The page of 64 KiB at 0x20000 is main memory from 0x10000, for the core and for the package; the pair v10 and the pair s10 hold its
address. -/
def data : State :=
  withS 10 0x20000 (withS 11 0 (withV 10 0x20000 (withV 11 0 { one with tlb := [⟨0, 1, 2, 16, 0x10000, 0xFF⟩, ⟨128, 1, 2, 16, 0x10000, 0xFF⟩] })))

/-! ### What a finite check says of every number -/

theorem issues_of {s : State} {i : Instr} (h : ((s.wordTrap i).isNone && !s.uniPending i) = true) : s.issues i := by
  simpa [State.issues] using h

theorem passes_of {s : State} {o : LaneOp} (h : s.issued.all (fun l => !s.isActive l || (s.laneTrap l o).isNone) = true) :
    s.lanesPass o := by
  intro l hl ha
  have := List.all_eq_true.mp h l hl
  simpa [ha] using this

/-- What holds of the entries of a list and of what stands for a missing one holds of every entry asked for. -/
theorem entry_of {α : Type} {P : α → Prop} {xs : List α} {d : α} (h0 : P d) (h : ∀ x ∈ xs, P x) (n : Nat) : P (xs.getD n d) := by
  by_cases hn : n < xs.length
  · simpa [List.getD_eq_getElem?_getD, hn] using h _ (List.getElem_mem hn)
  · simpa [List.getD_eq_getElem?_getD, List.getElem?_eq_none (Nat.le_of_not_lt hn)] using h0

theorem bundles_of {P : Bundle → Prop} {s : State} (h0 : P Bundle.absent) (h : ∀ b ∈ s.bundles, P b) (b : Nat) : P (s.bundle b) :=
  entry_of h0 h b

theorem teams_of {P : Team → Prop} {s : State} (h0 : P Team.absent) (h : ∀ x ∈ s.teams, P x) (x : Nat) : P (s.team x) := entry_of h0 h x

theorem threads_of {P : Thread → Prop} {s : State} (h0 : P Thread.absent) (h : ∀ b ∈ s.bundles, ∀ t ∈ b.threads, P t) (b l : Nat) :
    P (s.thread b l) :=
  bundles_of (P := fun b => P (b.thread l)) h0 (fun b hb => entry_of h0 (h b hb) l) b

/-- A check of every thread. -/
def everyThread (s : State) (p : Thread → Bool) : Bool := s.bundles.all (fun b => b.threads.all p)

theorem every_of {s : State} {p : Thread → Bool} {P : Thread → Prop} (h : everyThread s p = true) (h0 : P Thread.absent)
    (hp : ∀ t, p t = true → P t) : ∀ b l, P (s.thread b l) :=
  threads_of h0 (fun b hb t ht => hp t (List.all_eq_true.mp (List.all_eq_true.mp h b hb) t ht))

theorem nothingOut_of {s : State} (h : everyThread s (fun t => t.out.isEmpty) = true) : nothingOut s :=
  every_of (P := fun t => t.out = []) h rfl (fun t ht => by simpa using ht)

/-- No outstanding store is shown to other threads. -/
theorem hidden_of {s : State} (h : everyThread s (fun t => t.stores.all (fun x => x.vis == 0)) = true) (b : Nat) :
    ∀ c l, ∀ x ∈ (s.thread c l).stores, s.shows b c x = false := by
  intro c l x hx
  have key : ∀ x ∈ (s.thread c l).stores, x.vis = 0 :=
    every_of (P := fun t => ∀ x ∈ t.stores, x.vis = 0) h (by simp [Thread.absent, Thread.stores]) (fun t ht => by simpa using ht) c l
  simp [State.shows, key x hx]

theorem unseen_of {s : State} {b off size : Nat} (h : everyThread s (fun t => t.stores.all (fun x => x.vis == 0)) = true) :
    unseen s b off size := by
  intro c l x hx hs
  rw [hidden_of h b c l x hx] at hs
  cases hs

/-- A check of every stash line. -/
def everyLine (s : State) (p : Line → Bool) : Bool := s.teams.all (fun x => x.windows.all (fun w => w.lines.all p))

theorem lines_of {s : State} {p : Line → Bool} (h : everyLine s p = true) : ∀ x ∈ s.teams, ∀ w ∈ x.windows, ∀ l ∈ w.lines, p l = true :=
  fun x hx w hw l hl => List.all_eq_true.mp (List.all_eq_true.mp (List.all_eq_true.mp h x hx) w hw) l hl

theorem linesClean_of {s : State} (h : everyLine s (fun l => l.st == .clean || l.st == .filling) = true) : s.linesClean := by
  intro x _
  refine teams_of (P := fun y => ∀ w ∈ y.windows, ∀ l ∈ w.lines, l.st = .clean ∨ l.st = .filling) (by simp [Team.absent]) ?_ x
  intro y hy w hw l hl
  simpa using lines_of h y hy w hw l hl

theorem barIdle_of {s : State} {r : BarRef} (h1 : (s.bar r).counting = false)
    (h2 : everyThread s (fun t => !t.arrived.getLsbD r.bit) = true) : barIdle s r :=
  ⟨h1, every_of (P := fun t => t.arrived.getLsbD r.bit = false) h2 (by simp [Thread.absent]) (fun t ht => by simpa using ht)⟩

theorem barsIdle_of {s : State} {rs : List BarRef}
    (h : rs.all (fun r => !(s.bar r).counting && everyThread s (fun t => !t.arrived.getLsbD r.bit)) = true) : ∀ r ∈ rs, barIdle s r := by
  intro r hr
  obtain ⟨h1, h2⟩ : _ ∧ _ := by simpa using List.all_eq_true.mp h r hr
  exact barIdle_of h1 h2

theorem unheld_of {s : State} {off : Nat} (h : everyLine s (fun n => n.st == .filling || n.pa / 128 != off / 128) = true) : unheld s off := by
  intro x hx w hw n hn
  simpa using lines_of h x hx w hw n hn

/-- No stash line is there at all. -/
theorem noLine_of {s : State} (h : everyLine s (fun _ => false) = true) (off : Nat) : unheld s off := by
  intro x hx w hw n hn
  exact absurd (lines_of h x hx w hw n hn) (by simp)

theorem quiet_of {s : State} (h : (!s.curCtx.inject.getLsbD 63 &&
    (s.curB.team.map (fun t => (s.team t).mons.all (fun m => m.st != .armed))).getD true) = true) : quiet s := by
  rw [Bool.and_eq_true] at h
  refine ⟨by simpa using h.1, ?_⟩
  intro t ht m hm
  have h2 := h.2
  rw [ht] at h2
  simpa using List.all_eq_true.mp h2 m hm

/-- The one lane of these states. -/
theorem lane_of {s : State} {P : Nat → Prop} (h : s.issued = [0]) (p : P 0) : ∀ l ∈ s.issued, P l := by
  rw [h]
  simpa using p

theorem active_of {s : State} {P : Nat → Prop} (h : s.issued = [0]) (p : P 0) : ∀ l ∈ s.issued, s.isActive l = true → P l :=
  lane_of h (fun _ => p)

theorem some_of {α : Type} {P : α → Prop} {o : Option α} {x : α} (h : o = some x) (p : P x) : ∀ y, o = some y → P y := by
  rintro y rfl
  cases h
  exact p

theorem none_of {α : Type} {P : α → Prop} {o : Option α} (h : o = none) : ∀ y, o = some y → P y := by
  intro y hy
  rw [h] at hy
  cases hy

/-- The entry is a store. -/
def isStore : Pending → Bool
  | .store _ => true
  | .fence _ => false

theorem stores_of {ps : List Pending} (h : ps.all isStore = true) : ∀ p ∈ ps, ∃ x, p = .store x := by
  intro p hp
  have := List.all_eq_true.mp h p hp
  cases p with
  | store x => exact ⟨x, rfl⟩
  | fence f => simp [isStore] at this

theorem freeWindow_of {s : State} {k : Nat} (h1 : 1 ≤ k ∧ k < 16) (h2 : (s.team s.curTeam).window k = none)
    (h3 : ∀ j < k, j ≠ 0 → (s.team s.curTeam).window j ≠ none) : freeWindow s k :=
  ⟨h1.1, h1.2, h2, fun j h hj => h3 j hj (by omega)⟩

theorem hasWork_of {c : Cmd} (h : (match c.spec with | .copy x => x.rows != 0 && x.rbytes != 0 | _ => true) = true) : hasWork c := by
  unfold hasWork
  split <;> simp_all

theorem operandsStand_of {s : State} {c : Cmd} {m : MatSpec} (h1 : c.spec = .matrix m)
    (h2 : ∀ r ∈ m.ranges (s.bundle c.bundle).w, ∀ i < r.2, s.lineReady c.team (r.1 + i) = true) : operandsStand s c := by
  simpa [operandsStand, h1] using h2

theorem operandsNone_of {s : State} {c : Cmd} (h : c.spec.kind ≠ 1) : operandsStand s c := by
  unfold operandsStand
  cases hc : c.spec <;> simp_all [CmdSpec.kind]

/-- A thread waits for a token. -/
def waitsToken : TState → Bool
  | .waiting (.token _) => true
  | _ => false

theorem noTokenWait_of {s : State} {b : Nat} (h : everyThread s (fun t => !waitsToken t.st) = true) :
    ∀ l r, (s.thread b l).st ≠ .waiting (.token r) := by
  intro l r
  refine every_of (P := fun t => t.st ≠ .waiting (.token r)) h (by simp [Thread.absent]) ?_ b l
  intro t ht he
  simp [he, waitsToken] at ht

theorem teamQuiet_of {s : State} (h1 : everyThread s (fun t => t.out.isEmpty) = true)
    (h2 : everyLine s (fun l => l.st == .clean || l.st == .filling) = true) : teamQuiet s :=
  ⟨fun b l _ => nothingOut_of h1 b l, fun c l x hx => by simp [Thread.stores, nothingOut_of h1 c l] at hx, linesClean_of h2⟩

theorem fencedAll_of {s : State} (h1 : everyThread s (fun t => t.out.isEmpty) = true)
    (h2 : everyLine s (fun l => l.st == .clean || l.st == .filling) = true) : fencedAll s := ⟨nothingOut_of h1, linesClean_of h2⟩

theorem both_of {α : Type} {x : α × Bool} (h : x.2 = true) : x = (x.1, true) := by
  rcases x with ⟨a, b⟩
  subst h
  rfl

theorem ticket_of {s : State} {n : Nat} (h : s.bundles.all (fun x => x.threads.all (fun t => t.ticket.isNone) ||
    (x.live && x.handler.isNone && (s.ctx x.asid).handler)) = true) : ∀ b l, (s.thread b l).ticket = some n →
    (s.bundle b).live = true ∧ (s.bundle b).handler = none ∧ (s.ctx (s.bundle b).asid).handler = true := by
  intro b l
  refine bundles_of (P := fun x => (x.thread l).ticket = some n → x.live = true ∧ x.handler = none ∧ (s.ctx x.asid).handler = true)
    (fun h => absurd h (by simp [Bundle.thread, Bundle.absent, Thread.absent])) ?_ b
  intro x hx ht
  rcases Bool.or_eq_true _ _ ▸ List.all_eq_true.mp h x hx with k | k
  · have : (x.thread l).ticket = none :=
      entry_of (P := fun t : Thread => t.ticket = none) rfl (fun t ht => by simpa using List.all_eq_true.mp k t ht) l
    simp [this] at ht
  · simpa [and_assoc] using k

theorem launches_of {P : Launch → Prop} {s : State} (h0 : P Launch.absent) (h : ∀ l ∈ s.launches, P l) (n : Nat) : P (s.launch n) :=
  entry_of h0 h n

theorem noChild_of {s : State} {x : Nat} (h : s.launches.all (fun l => l.parent != some x) = true) :
    ∀ n, (s.launch n).parent ≠ some x :=
  launches_of (P := fun l => l.parent ≠ some x) (by simp [Launch.absent]) (fun l hl => by
    simpa using List.all_eq_true.mp h l hl)

theorem stopped_of {s : State} {x : Nat} (h : everyThread s (fun t => t.st != .ready) = true) : stopped s x := by
  intro b _ _
  refine bundles_of (P := fun b => ∀ th ∈ b.threads, th.st ≠ .ready) (by simp [Bundle.absent]) ?_ b
  intro b hb t ht
  simpa using List.all_eq_true.mp (List.all_eq_true.mp h b hb) t ht

theorem unstopped_of {s : State} {x : Nat} (b : Nat) (h1 : (s.bundle b).live = true ∧ (s.bundle b).pid = x)
    (h2 : (s.bundle b).threads.any (fun t => t.st == .ready) = true) : ¬ stopped s x := by
  intro hs
  obtain ⟨t, ht, hr⟩ := List.any_eq_true.mp h2
  exact hs b h1.1 h1.2 t ht (by simpa using hr)

/-- Nothing of the thread is under way: it has nothing outstanding, and neither yields nor has a graft that counts. -/
def resting (t : Thread) : Bool :=
  t.out.isEmpty && match t.st with
    | .waiting (.yield _) => false
    | .waiting (.word _ _ _ home) => home.isNone
    | _ => true

theorem atRest_of {s : State} {x : Nat} (h1 : everyThread s resting = true)
    (h2 : (s.partTeams x).all (fun y => (s.team y).windows.all (fun w => w.lines.isEmpty)) = true) : atRest s x := by
  have key : ∀ b, ∀ th ∈ (s.bundle b).threads, resting th = true := by
    refine bundles_of (P := fun b => ∀ th ∈ b.threads, resting th = true) (by simp [Bundle.absent]) ?_
    exact fun b hb => List.all_eq_true.mp (List.all_eq_true.mp h1 b hb)
  have quiet : ∀ c l, (s.thread c l).out = [] :=
    every_of (P := fun t => t.out = []) h1 rfl (fun t ht => by simp [resting] at ht; exact ht.1)
  refine ⟨?_, ?_, ?_, ?_⟩
  · intro b _ th ht
    have := key b th ht
    refine ⟨by simp [resting] at this; exact this.1, ?_⟩
    intro k hk
    simp [resting, hk] at this
  · intro b _ th ht n i a k hk
    have := key b th ht
    simp [resting, hk] at this
  · intro b _ c l y hy
    simp [Thread.stores, quiet c l] at hy
  · intro y hy w hw
    simpa using List.all_eq_true.mp (List.all_eq_true.mp h2 y hy) w hw

theorem second_of {α β : Type} {x : α × β} {b : β} (h : x.2 = b) : x = (x.1, b) := by
  rcases x with ⟨a, c⟩
  subst h
  rfl

theorem pairIs_of {α β : Type} {x : α × β} {a : α} {b : β} (h1 : x.1 = a) (h2 : x.2 = b) : x = (a, b) := by
  rcases x with ⟨c, d⟩
  subst h1 h2
  rfl

theorem pages_of {s : State} {q : Nat} {x : CmdSpec} {ps : List Pin}
    (h1 : (s.pinGlobals s.curB.coreNo s.curB.asid q x.pages).1 = s)
    (h2 : (s.pinGlobals s.curB.coreNo s.curB.asid q x.pages).2 = .inr ps) : pagesReady s q x := ⟨ps, pairIs_of h1 h2⟩

theorem some_pair {α β : Type} {x : α × Option β} (h : x.2.isNone = true) : x = (x.1, none) := by
  rcases x with ⟨a, b⟩
  cases b <;> simp_all

theorem get_of {α : Type} {x : Option α} (h : x.isSome = true) : x = some (x.get h) := by simp

theorem othersSound_of {s : State} {x : Nat} {fails : Sent → Bool}
    (h1 : ∀ b ∈ s.bundles, b.team = none ∨ b.team = some x) (h2 : ∀ y < s.teams.length, s.stashFails y fails = false) :
    ∀ y, y ≠ x → s.teamFails y fails = none := by
  intro y hy
  have hb : s.bundles.filter (fun b => b.team == some y) = [] := by
    rw [List.filter_eq_nil_iff]
    intro b hb
    rcases h1 b hb with h | h <;> simp [h]
    exact Ne.symm hy
  have hs : s.stashFails y fails = false := by
    by_cases hl : y < s.teams.length
    · exact h2 y hl
    · unfold State.stashFails State.team
      rw [List.getD_eq_getElem?_getD, List.getElem?_eq_none (Nat.le_of_not_lt hl)]
      rfl
  simp [State.teamFails, hb, hs]

theorem grafts_of {s : State} (h : everyThread s (fun t => t.graftHome.isNone) = true) : ∀ b l, (s.thread b l).graftHome = none :=
  every_of (P := fun t => t.graftHome = none) h rfl (fun t ht => by simpa using ht)

/-- The command is no collective, and no copy that runs. -/
def offCmd (c : Cmd) : Bool :=
  match c.spec with
  | .coll _ => false
  | .copy _ => c.st != .running
  | _ => true

theorem enginesOff_of {s : State} (h : s.cmds.all offCmd = true) : enginesOff s := by
  intro c hc
  have := List.all_eq_true.mp h c hc
  refine ⟨fun x hx => ?_, fun x hx hr => ?_⟩ <;> simp_all [offCmd]

/-- The entry is a store whose request is not on the link, or is no store. -/
def offLink (n : Nat) : Pending → Bool
  | .store x => x.link.all (fun y => y.link != n)
  | .fence _ => true

theorem nothingOn_of {s : State} {n : Nat} (h1 : ∀ b ∈ s.bundles, ∀ o ∈ b.late, ∀ y ∈ o.links, y.link ≠ n)
    (h2 : everyThread s (fun t => t.out.all (offLink n)) = true) (h3 : everyLine s (fun l => l.link.all (fun y => y.link != n)) = true)
    (h4 : s.cmds.all offCmd = true) (h5 : s.cmds.all (fun c => c.sent.all (fun y => y.link != n)) = true) : NothingOn s n := by
  refine ⟨?_, enginesOff_of h4⟩
  rintro y (⟨b, hb, ⟨o, ho, hy⟩ | ⟨t, ht, x, hx, hl⟩⟩ | ⟨c, hc, hy⟩ | ⟨x, hx, w, hw, l, hl, hy⟩)
  · exact h1 b hb o ho y hy
  · simpa [offLink, hl] using List.all_eq_true.mp (List.all_eq_true.mp (List.all_eq_true.mp h2 b hb) t ht) _ hx
  · simpa using List.all_eq_true.mp (List.all_eq_true.mp h5 c hc) y hy
  · simpa [hy] using lines_of h3 x hx w hw l hl

theorem lineAlone_of {s : State} {x w : Nat} {l : Line} (h : ∀ y < s.teams.length, ∀ v ∈ (s.team y).windows, ∀ m ∈ v.lines,
    m.pa / 128 = l.pa / 128 → y = x ∧ v.num = w ∧ m = l) : ∀ y, ∀ v ∈ (s.team y).windows, ∀ m ∈ v.lines,
    m.pa / 128 = l.pa / 128 → y = x ∧ v.num = w ∧ m = l := by
  intro y v hv
  by_cases hl : y < s.teams.length
  · exact h y hl v hv
  · rw [show s.team y = Team.absent by
      unfold State.team
      rw [List.getD_eq_getElem?_getD, List.getElem?_eq_none (Nat.le_of_not_lt hl)]
      rfl] at hv
    cases hv

theorem counted_of {s : State} (h1 : everyThread s (fun t => (t.graftHome.map (fun h => h.off.isSome)).getD true) = true)
    (h2 : s.cur.homes.all (fun h => h.2.off.isSome) = true) :
    (∀ b k h, (s.thread b k).graftHome = some h → h.off ≠ none) ∧ ∀ h ∈ s.cur.homes, h.2.off ≠ none := by
  refine ⟨every_of (P := fun t => ∀ h, t.graftHome = some h → h.off ≠ none) h1 (by simp [Thread.absent, Thread.graftHome]) ?_, ?_⟩
  · intro t ht h hh he
    simp [hh, he] at ht
  · intro h hh he
    have := List.all_eq_true.mp h2 h hh
    simp [he] at this

theorem forall_one {α : Type} {P : α → Prop} {x : α} (h : P x) : ∀ y ∈ [x], P y := by simpa using h

theorem next_of {o : Host.Outcome State Fault Refusal} (h : (match o with | .next _ => true | _ => false) = true) : ∃ t, o = .next t := by
  cases o with
  | next t => exact ⟨t, rfl⟩
  | fault f => simp at h
  | refused f => simp at h

/-- The state after a word. -/
def after (i : Instr) (s : State) : State :=
  match exec i s with
  | .next t => t
  | _ => s

theorem after_of {i : Instr} {s : State} (h : (match exec i s with | .next _ => true | _ => false) = true) :
    exec i s = .next (after i s) := by
  unfold after
  split <;> simp_all

theorem fetched_of {x : State × Fetched} {f : Fetched} (h : x.2 = f) : x = (x.1, f) := by
  rcases x with ⟨a, b⟩
  subst h
  rfl

/-- The word that the front end runs, and its state. -/
def runs : Front → Option (Instr × State)
  | .run i t => some (i, t)
  | .done _ => none
  | .fails _ => none

theorem runs_of {x : Front} {i : Instr} (h : (runs x).map Prod.fst = some i) : x = .run i (((runs x).map Prod.snd).getD State.reset) := by
  cases x with
  | run j t => simp [runs] at h ⊢; exact h
  | done t => simp [runs] at h
  | fails t => simp [runs] at h

theorem two_of {P : Nat → Prop} (p0 : P 0) (p1 : P 1) : ∀ i < 2, P i := by
  intro i hi
  match i, hi with
  | 0, _ => exact p0
  | 1, _ => exact p1

/-- The one bundle is counted: all its lanes issue. -/
theorem allCounted_of {s : State} {n : Nat} (h : ∀ l < (s.bundle 0).threads.length, l ∈ s.issued) (hb : s.bundles.length = 1)
    (hc : s.cur.bundle = 0) : allCounted s n := by
  intro b ht l hl
  obtain rfl : b = 0 := by
    apply Classical.byContradiction
    intro h0
    rw [show s.bundle b = Bundle.absent by
      unfold State.bundle
      rw [List.getD_eq_getElem?_getD, List.getElem?_eq_none (by omega)]
      rfl] at ht
    cases ht
  exact Or.inr (Or.inr (Or.inr ⟨hc.symm, h l hl⟩))

theorem notCounted_of {s : State} {n : Nat} (b l : Nat) (h1 : (s.bundle b).team = some s.curTeam) (h2 : l < (s.bundle b).threads.length)
    (h3 : (s.thread b l).counted n = false) (h4 : l ∉ s.issued) : ¬ allCounted s n := by
  intro ha
  rcases ha b h1 l h2 with x | x | x | x
  · simp [Thread.counted, x] at h3
  · simp [Thread.counted, x] at h3
  · simp [Thread.counted, x] at h3
  · exact h4 x.2

theorem lane_one {P : Nat → Prop} (h : P 0) : ∀ j < 1, P j := by
  intro j hj
  obtain rfl : j = 0 := by omega
  exact h

theorem plan_of {α : Type} {x : State × EngineEnd × Option α} (h2 : x.2.1 = .ok) (h3 : x.2.2.isSome = true) :
    x = (x.1, .ok, some (x.2.2.get h3)) := by
  rcases x with ⟨a, b, c⟩
  subst h2
  simp

theorem ownPlan_of {α : Type} {s : State} {x : State × EngineEnd × Option α} {y : α} (h1 : x.1 = s) (h2 : x.2.1 = .ok)
    (h3 : x.2.2 = some y) : x = (s, .ok, some y) := by
  rcases x with ⟨a, b, c⟩
  subst h1 h2 h3
  rfl

theorem planned_of {α : Type} {s : State} {x : State × EngineEnd × Option α} (h1 : x.1 = s) (h2 : x.2.1 = .ok)
    (h3 : x.2.2.isSome = true) : x = (s, .ok, some (x.2.2.get h3)) := by
  rcases x with ⟨a, b, c⟩
  subst h1 h2
  simp

theorem walks_of {s : State} {k : BitVec 16} {va : DWord} {r : Nat} {e : WalkEnd}
    (h : ∀ p < 128, (s.walkFrom p k va walkLevels r []).1 = s ∧ (s.walkFrom p k va walkLevels r []).2.1 = e) :
    ∀ p < 128, ∃ es, s.walkFrom p k va walkLevels r [] = (s, e, es) := by
  intro p hp
  obtain ⟨h1, h2⟩ := h p hp
  exact ⟨_, Prod.ext h1 (Prod.ext h2 rfl)⟩

theorem idle_of {s : State} (h : s.shepherding = true ∧ (∀ q ∈ s.queues, q.st ≠ .draining ∧ ∀ p ∈ q.packets, p.ended = true) ∧
    s.host.journal = 0 ∧ s.badmem = []) : Idle s := by
  obtain ⟨works, quiet, journal, sound⟩ := h
  exact ⟨works, quiet, journal, sound⟩

theorem written_of {s : State} {qid v type : Nat} {q : Queue} (h : s.queue? qid = some q ∧ s.nextSlot q = (s, some v) ∧
    (v % 256 = type ∧ bitsAt v 10 22 = 0 ∧ bitsAt v 8 1 = 0) ∧ (q.r + 1) % q.pubn ≠ 0 ∧ ∀ p ∈ q.packets, p.index < q.r) :
    Written s qid q v type := by
  obtain ⟨queue, slot, header, unpublished, earlier⟩ := h
  exact ⟨queue, slot, header, unpublished, earlier⟩

theorem ended_of {α : Type} {x : State × EngineEnd × α} (h : x.2.1 = .ok) : x = (x.1, .ok, x.2.2) := by
  rcases x with ⟨a, b, c⟩
  subst h
  rfl

theorem triple_of {α : Type} {x : State × EngineEnd × α} {r : α} (h1 : x.2.1 = .ok) (h2 : x.2.2 = r) : x = (x.1, .ok, r) := by
  rcases x with ⟨a, b, c⟩
  subst h1 h2
  rfl

theorem four_of {P : Nat → Prop} (p0 : P 0) (p1 : P 1) (p2 : P 2) (p3 : P 3) : ∀ i < 4, P i := by
  intro i hi
  match i, hi with
  | 0, _ => exact p0
  | 1, _ => exact p1
  | 2, _ => exact p2
  | 3, _ => exact p3

theorem pair_of {α : Type} {s : State} {x : State × EngineEnd × α} (h1 : x.1 = s) (h2 : x.2.1 = .ok) : x = (s, .ok, x.2.2) := by
  rcases x with ⟨a, b, c⟩
  subst h1 h2
  rfl

/-! ### Decoding: for every row of the opcode table one word written out field by field from the encodings of the spec -/

theorem test_decode_add_to_li : ∀ x ∈ [((0b0_0000000_101000_010000_011000_001_10_0 : Word), (.add 40 16 24 1 2 : Instr)), (0b0_0000001_101000_010000_011000_001_10_0, .sub 40 16 24 1 2),
      (0b0_0000010_101000_010000_011000_00_1_10_0, .mul 40 16 24 1 2), (0b0_0000010_101000_010000_011000_01_1_10_0, .mulh 40 16 24 1 2),
      (0b0_0000011_101000_010000_011000_001_10_0, .mad 40 16 24 1 2), (0b0_0000100_101000_010000_011000_00_1_10_0, .div 40 16 24 1 2),
      (0b0_0000100_101000_010000_011000_01_1_10_0, .rem 40 16 24 1 2), (0b0_0000101_101000_010000_011000_001_10_0, .minmax 40 16 24 1 2),
      (0b0_0000110_101000_010000_000000_001_0_1_0, .absneg 40 16 1 1), (0b0_0000111_101000_010000_011000_001_10_0, .logic 40 16 24 1 2),
      (0b0_0001000_101000_010000_011000_001_10_0, .shift 40 16 24 1 2), (0b0_0001001_101000_010000_000000_001_0_1_0, .bits 40 16 1 1),
      (0b0_0001010_101000_010000_011000_001_10_0, .bfx 40 16 24 1 2), (0b0_0001011_101000_010000_011000_000_10_0, .bfi 40 16 24 2),
      (0b0_0001100_101_100_010000_011000_001_10_0, .cmp 5 4 16 24 1 2), (0b0_0001101_101000_010000_011000_001_10_0, .sel 40 16 24 1 2),
      (0b0_0001110_101000_010000_00000000_1_0_1_0, .mov 40 16 1 1), (0b0_0001110_101000_010000_0000000100_1_0, .movs 40 16 1),
      (0b0_0001111_101000_100000000000000001, .li 40 0x20001)],
    decode x.1 = .ok x.2 ∧ x.2.wellFormed = true := by
  decide +kernel

theorem test_decode_lih_to_smxb : ∀ x ∈ [((0b0_0010000_101000_100000000000000001 : Word), (.lih 40 0x20001 : Instr)), (0b0_0010001_101000_010000_100000000001, .addi 40 16 0x801),
      (0b0_0011000_101000_010000_011000_001_10_0, .fadd 40 16 24 1 2), (0b0_0011001_101000_010000_011000_001_10_0, .fsub 40 16 24 1 2),
      (0b0_0011010_101000_010000_011000_001_10_0, .fmul 40 16 24 1 2), (0b0_0011011_101000_010000_011000_001_10_0, .fma 40 16 24 1 2),
      (0b0_0011100_101000_010000_011000_001_10_0, .fminmax 40 16 24 1 2), (0b0_0011101_101000_010000_000000_001_0_1_0, .fabsneg 40 16 1 1),
      (0b0_0011110_101000_010000_000000_001_0_1_0, .fclass 40 16 1 1), (0b0_0011111_101000_010000_000000_001_0_1_0, .frnd 40 16 1 1),
      (0b0_0100000_101001_010000_010010_010001, .cvt 41 16 18 17), (0b0_0100001_101000_010000_011000_001_10_0, .fdiv 40 16 24 1 2),
      (0b0_0100010_101000_010000_000000_001_0_1_0, .sfu 40 16 1 1), (0b0_0100011_101000_010000_000000_001_0_1_0, .sfd 40 16 1 1),
      (0b0_0100100_101000_010000_011000_000_10_0, .lgmul 40 16 24 2), (0b0_0100101_101000_010000_011000_000_10_0, .lgdot 40 16 24 2),
      (0b0_0100110_101000_010000_011000_001_10_0, .fscl 40 16 24 1 2), (0b0_0100111_101100_001000_0000000000_1_0, .smxa 44 8 1),
      (0b0_0101000_100000_001000_111100_001_10_0, .smxb 32 8 60 1 2)],
    decode x.1 = .ok x.2 ∧ x.2.wellFormed = true := by
  decide +kernel

theorem test_decode_tagset_to_callr : ∀ x ∈ [((0b0_0101001_101000_010000_00000000_1001 : Word), (.tagset 40 16 9 : Instr)), (0b0_0101010_101000_010000_0000000000_1_0, .tagget 40 16 1),
      (0b0_0110000_101000_010000_011000_001_10_0, .shfl 40 16 24 1 2), (0b0_0110001_101_000_010000_0000000000_1_0, .ballot 5 16 1),
      (0b0_0110010_101000_010000_000000_001_0_1_0, .red 40 16 1 1), (0b0_0110011_101000_010000_000000_001_0_1_0, .scan 40 16 1 1),
      (0b0_0110101_101_000000000000000000000, .elect 5), (0b0_0111000_101000_0000000000000000_10, .lvidx 40 2),
      (0b0_0111001_101000_0000000000000000_10, .lvext 40 2), (0b0_0111010_101000_010000_0000_10_001_0_1_0, .lvred 40 16 2 1 1),
      (0b0_0111011_10_00_10000000000000000001, .lvbar 2 0x80001), (0b0_0111100_10_00_10000000000000000001, .lvend 2 0x80001),
      (0b0_0111101_101000_0000000000_00000011, .lvshare 40 3), (0b0_0111110_101000_0000000000000000_10, .lvcarry 40 2),
      (0b0_0111111_101_0000000000000000000_10, .lvlead 5 2), (0b0_1000000_101_1_10000000000000000001, .br 5 1 0x80001),
      (0b0_1000001_101_1_10000000000000000001, .call 5 1 0x80001), (0b0_1000010_000000_010000_000000000000, .jmp 16),
      (0b0_1000011_000000_010000_000000000000, .callr 16)],
    decode x.1 = .ok x.2 ∧ x.2.wellFormed = true := by
  decide +kernel

theorem test_decode_ret_to_ld64 : ∀ x ∈ [((0b0_1000100_000000000000000000000000 : Word), (.ret : Instr)), (0b0_1000101_000000000000_000011_001000, .enter 3 8),
      (0b0_1000111_000000000000000000000000, .exit), (0b0_1001000_101_1_10000000000000000001, .brw 5 1 0x80001),
      (0b0_1001001_000000000000000000_000011, .yield 3), (0b0_1001011_000000000000000000000000, .nop),
      (0b0_1010000_000000000000_100000000101, .mark 0x805), (0b0_1010001_101000_010000_100000000101, .cut 40 16 0x805),
      (0b0_1010010_000000_010000_011000_000_10_0, .graft 16 24 2), (0b0_1010011_000000000000_100000000101, .unmark 0x805),
      (0b0_1010100_000000_010000_000000000000, .slshare 16), (0b0_1010101_000000_010000_000000000000, .slfree 16),
      (0b0_1010110_101000_010000_000000000000, .slinfo 40 16), (0b0_1100000_101000_010000_10000001_1001, .ld8s 40 16 0x81 9),
      (0b0_1100001_101000_010000_10000001_1001, .ld8z 40 16 0x81 9), (0b0_1100010_101000_010000_10000001_1001, .ld16s 40 16 0x81 9),
      (0b0_1100011_101000_010000_10000001_1001, .ld16z 40 16 0x81 9), (0b0_1100100_101000_010000_10000001_1001, .ld32 40 16 0x81 9),
      (0b0_1100101_101000_010000_10000001_1001, .ld64 40 16 0x81 9)],
    decode x.1 = .ok x.2 ∧ x.2.wellFormed = true := by
  decide +kernel

theorem test_decode_ld128_to_ushift : ∀ x ∈ [((0b0_1100110_101000_010000_10000001_1001 : Word), (.ld128 40 16 0x81 9 : Instr)), (0b0_1100111_101000_010000_10000001_1001, .st8 40 16 0x81 9),
      (0b0_1101000_101000_010000_10000001_1001, .st16 40 16 0x81 9), (0b0_1101001_101000_010000_10000001_1001, .st32 40 16 0x81 9),
      (0b0_1101010_101000_010000_10000001_1001, .st64 40 16 0x81 9), (0b0_1101011_101000_010000_10000001_1001, .st128 40 16 0x81 9),
      (0b0_1101100_101000_010000_1001_0100_1001, .atom 40 16 9 4 9), (0b0_1101101_101000_010000_1001_0100_1001, .atomr 40 16 9 4 9),
      (0b0_1101110_000000_010000_10000001_1001, .prefetch 16 0x81 9), (0b0_1101111_101000_010000_10000001_1001, .await 40 16 0x81 9),
      (0b0_1110000_000000000000_0010_10_0_0_1001, .fence 2 2 0 9), (0b0_1110001_000000000000_0010_0101_1001, .xfence 2 5 9),
      (0b0_1111110_001011_101_1_1_100_1_000000000, .prefixWord 11 5 1 1 4 1), (0b1_0000000_101000_010000_011000_000001, .uadd 40 16 24 1),
      (0b1_0000001_101000_010000_011000_000001, .usub 40 16 24 1), (0b1_0000010_101000_010000_011000_000001, .umul 40 16 24 1),
      (0b1_0000011_101000_010000_011000_000001, .uminmax 40 16 24 1), (0b1_0000100_101000_010000_011000_000001, .ulogic 40 16 24 1),
      (0b1_0000101_101000_010000_011000_000001, .ushift 40 16 24 1)],
    decode x.1 = .ok x.2 ∧ x.2.wellFormed = true := by
  decide +kernel

theorem test_decode_ubits_to_rshrink : ∀ x ∈ [((0b1_0000110_101000_010000_000000_000001 : Word), (.ubits 40 16 1 : Instr)), (0b1_0000111_101000_010000_011000_100_001, .ucmp 40 16 24 4 1),
      (0b1_0001000_101000_010000_000000_000001, .umov 40 16 1), (0b1_0001001_101000_100000000000000001, .uli 40 0x20001),
      (0b1_0001010_101000_100000000000000001, .ulih 40 0x20001), (0b1_0001011_101000_010000_100000000001, .uaddi 40 16 0x801),
      (0b1_0010000_000_101_000_010_000_110_000001, .mlogic 5 2 6 1), (0b1_0010001_101000_000_010_000000000000, .mpopc 40 2),
      (0b1_0010010_101000_000_010_000000000000, .mtos 40 2), (0b1_0010011_000_101_010000_000000000000, .stom 5 16),
      (0b1_0010100_101000_000_010_000000000000, .mfirst 40 2), (0b1_0011000_101000_010000_000000_001000, .ulane 40 16 8),
      (0b1_0100000_101000_010000_10000001_1001, .uld32 40 16 0x81 9), (0b1_0100001_101000_010000_10000001_1001, .uld64 40 16 0x81 9),
      (0b1_0100010_101000_010000_10000001_1001, .ust32 40 16 0x81 9), (0b1_0100011_101000_010000_10000001_1001, .ust64 40 16 0x81 9),
      (0b1_0101000_000000000000000000_001000, .rgrow 8), (0b1_0101000_101000_000000100000_001000, .rgrowTry 40 8),
      (0b1_0101001_000000000000000000_001000, .rshrink 8)],
    decode x.1 = .ok x.2 ∧ x.2.wellFormed = true := by
  decide +kernel

theorem test_decode_cpy_to_hcfg : ∀ x ∈ [((0b1_0110000_101000_010000_000000000000 : Word), (.cpy 40 16 : Instr)), (0b1_0110001_101000_010000_000000000000, .mmpost 40 16),
      (0b1_0110010_000000000000000000000000, .mmfence), (0b1_0110011_000000_010000_000000000000, .twait 16),
      (0b1_0110100_101000_010000_000000000000, .coll 40 16), (0b1_0110101_000000000000_100000000001, .stamp 0x801),
      (0b1_0111000_101000_010000_011000_1001_00, .smapRw 40 16 24 9), (0b1_0111000_101000_010000_011000_1001_01, .smapRo 40 16 24 9),
      (0b1_0111000_101000_000000_011000_000010, .smapScratch 40 24), (0b1_0111001_000000_010000_000000000000, .sunmap 16),
      (0b1_0111010_000000_010000_011000_000000, .sflush 16 24), (0b1_0111011_000000_010000_011000_000000, .sinv 16 24),
      (0b1_0111100_101000_010000_000000_000001, .sstat 40 16 1), (0b1_1000000_000000_010000_000000_01_0011, .binit 16 1 3),
      (0b1_1000001_101000_000000000000_01_0011, .barrive 40 1 3), (0b1_1000010_000000_010000_000000_01_0011, .bwait 16 1 3),
      (0b1_1000011_000000000000000000_01_0011, .bsync 1 3), (0b1_1000100_101000_010000_000_101_01_0011, .bpay 40 16 5 1 3),
      (0b1_1001000_000000_010000_000000000_101, .hcfg 16 5)],
    decode x.1 = .ok x.2 ∧ x.2.wellFormed = true := by
  decide +kernel

theorem test_decode_href_to_hlwr : ∀ x ∈ [((0b1_1001001_000000_010000_000000000_101 : Word), (.href 16 5 : Instr)), (0b1_1001010_101000_010000_000000000_101, .hrd 40 16 5),
      (0b1_1001011_000000_010000_000000000_101, .harm 16 5), (0b1_1001100_101000_000000000000000_101, .hchk 40 5),
      (0b1_1010000_101000_000000_000000000010, .vstat 40 2), (0b1_1011000_000000_010000_000000000000, .nlaunch 16),
      (0b1_1011001_000000_010000_000000000000, .sigw 16), (0b1_1100000_00000000000000000000_1011, .trap 11),
      (0b1_1100001_000000000000000000000000, .bkpt), (0b1_1100010_000000000000000000000000, .rett),
      (0b1_1100011_101000_000000_000000010110, .srd 40 22), (0b1_1100100_000000_010000_000000010110, .swr 16 22),
      (0b1_1100101_000000_010000_000000000_011, .icinv 16 3), (0b1_1100101_000000000000000000001_011, .icinvAll 3),
      (0b1_1100110_000000000000000000000000, .tlbinvAll), (0b1_1100110_000000000000_011000_000001, .tlbinvAsid 24),
      (0b1_1100110_000000_010000_011000_000010, .tlbinvVa 16 24), (0b1_1101000_101000_010000_000000_001001, .hlrd 40 16 9),
      (0b1_1101001_101000_010000_011000_001001, .hlwr 40 16 24 9)],
    decode x.1 = .ok x.2 ∧ x.2.wellFormed = true := by
  decide +kernel

/-- R34, R46, R47: a header, two opcodes of R46 and a bit that must be zero hold no instruction; a reserved `fn` fails its check. -/
theorem test_decode_rejects : decode 0xFF000000 = .bad .header ∧ decode 0x7F000000 = .bad .illegalOpcode ∧
    decode 0xCF000000 = .bad .illegalOpcode ∧ decode 0x00000001 = .bad .mbzSet ∧
    decode 0x00000010 = .ok (.add 0 0 0 2 0) ∧ (Instr.add 0 0 0 2 0).wellFormed = false := by
  decide +kernel

/-! ### Witnesses: states and operands that meet the hypotheses of each clause of a statement -/

/-- The word stands behind a prefix that names mask register 0 or the third operand v12. -/
def pre (c : BitVec 6) (men : Bool) (s : State) : State := { s with cur := { s.cur with pfx := some ⟨c, 0, men, false, 0, false⟩ } }

/-- The level 0 has three iterations, which the one thread makes in turn. -/
def looped : State := one.modLaunch 0 (fun l => { l with roles := [.seq], lrec := { l.lrec with ext := [3] } })

/-- The frames of the thread are in main memory from 0x20000. -/
def framed : State := { one with tlb := [⟨0, 1, 0, 16, 0x20000, 0xFF⟩] }

/-- The thread, whose window has 8 registers, has been called, and has not entered its frame. -/
def called : State := after (.call 7 1 4) (framed.modThread 0 0 (fun t => { t with n := 8 }))

theorem enterGood_of {s : State} {o n : Nat} (h : s.issued.all (fun l => (s.enterCheck l n o).isRight) = true) :
    ∀ l ∈ s.issued, ∃ a, s.enterCheck l n o = .inr a := by
  intro l hl
  have := List.all_eq_true.mp h l hl
  cases hc : s.enterCheck l n o with
  | inl i => simp [hc] at this
  | inr a => exact ⟨a, rfl⟩

/-- A second thread stands at a word further on. -/
def two : State := one.modBundle 0 (fun b => { b with threads := b.threads ++ b.threads.map (fun t => { t with pc := 0x10060 }) })

/-- Level 1 is a BUNDLE level of two units, with reductions. -/
def crossed : State := two.modLaunch 0 (fun l => { l with
  roles := [.lane, .bundle], lrec := { l.lrec with ext := [1, 1] }, obj := l.obj.map (fun o => { o with nlevels := 2, nest := [0, 2] }) })

/-- A request for registers waits on the sub-core. -/
def asked : State := { one with grow := [⟨0, 0, 0, 1, 192⟩] }

/-- The thread has a store of v12 outstanding. -/
def stored : State := after (.st32 12 10 0 0) (withV 12 0x01020304 data)

/-- The store is one of the team's version. -/
def storedOver : State := (stored.modThread 0 0 (fun t => { t with out := t.out.map (fun p => match p with
    | .store x => .store { x with ver := some 0 }
    | .fence f => .fence f) })).modTeam 0 (fun t => { t with ver := ⟨.open, [(0x10001, 9), (0x10005, 9)], false⟩ })

/-- The thread is parked at an `await` of the word at 0x20000, in main memory at 0x10000. -/
def awaiting (bs : List Byte) : State :=
  (withMem 0x40 (bytesOf 4 ((encode (.await 12 10 0 0)).getD 0).toNat) (withMem 0x10000 bs
    { data with tlb := ⟨0, 1, 1, 16, 0, 0xFF⟩ :: data.tlb })).modThread 0 0 (fun t => { t with st := .parked .await })

/-- A division of native code is outstanding, with flag F3. -/
def loading : State := after (.div 12 10 11 0 0) { data with cur := { data.cur with plain := false, flag := some 3 } }

/-- A window of 512 KiB of main memory from the page. -/
def mapped : State := after (.smapRw 14 10 12 5) (withS 12 0x80000 data)

/-- The team has one window, with one line, which holds bytes of main memory. -/
def lined (st : LineState) (redirty : BitVec 128) (again : Bool := false) : State := (withS 12 0x100 data).modTeam 0 (fun t => { t with
  windows := [⟨1, 0x20000, 0x1000, .rw, 5, false, [⟨1, st, true, 0x10080, false, 0x0201, 3, redirty, 0, again, none⟩], []⟩] })

/-- A SCRATCH window at the base of the team's range. -/
def scratch : State := after (.smapScratch 14 12) (withS 12 0x1000 data)

/-- A record of a copy of two rows of 128 bytes IN, with a stamp. -/
def copyRecord : List Byte := bytesOf 8 0x20100 ++ bytesOf 8 0xFFFF0000000080 ++ bytesOf 2 2 ++ bytesOf 2 128 ++ bytesOf 4 256 ++
  bytesOf 2 128 ++ [0x12, 3] ++ bytesOf 2 0x1F0 ++ [0, 0]

/-- A post of the product of two elements of BF16 in each lane, with C from v8. -/
def posting : State :=
  (withS 16 0x01081111 (withS 17 0x00022808 (withS 21 0xFFFF00 (withS 22 4 scratch)))).modBundle 0 (fun b => { b with w := 32 })

/-- A collective block: two nodes, one element of F32 each. -/
def collBlock : List Byte := bytesOf 8 0x20200 ++ bytesOf 8 0x20300 ++ bytesOf 8 1 ++ bytesOf 8 0x20040 ++ bytesOf 4 7 ++ bytesOf 2 2 ++
  bytesOf 2 0 ++ [0, 0, 0x12, 0] ++ List.replicate 20 0

/-- The package has Span links. -/
def linked (s : State) : State := { s with host := { s.host with caps := BitVec.allOnes 64 }, route := [(1, 1)], links := ⟨.up, 8, 1, 0, 1024, true, 0⟩ :: s.links.tail }

/-- The commands of these states. -/
def command (st : CmdState) (spec : CmdSpec) (snap : List Byte) : Cmd where
  asid := 1
  bundle := 0
  team := 0
  core := 0
  seq := 5
  pc := 0x10040
  token := 24
  st := st
  spec := spec
  stream := 0
  cfg := 0
  progress := 0
  snap := snap
  paused := false
  sizeovl := false
  result := 0
  flags := 0
  slot := 0
  stamp := false
  retire := false
  observed := false
  lanes := 0
  born := 0
  acq := 0
  pins := []
  devs := []
  sent := []
  orphan := false
  due := none

def copySpec : CmdSpec := .copy ⟨0x20100, 0xFFFF0000000080, 2, 128, 256, 128, 4, 0⟩

def matSpec : MatSpec := ⟨0x11, 0x11, 2, 40, 8, true, false, false, 0, 0xFFFF0000000000, 0, 4, 0, 0, 17⟩

def collSpec : CollSpec := ⟨0x20200, 0x20300, 1, [0, 1], 7, 0, 0, 0, 0x12, 0⟩

/-- The only command of the device. -/
def withCmd (c : Cmd) (s : State) : State := { s with cmds := [c] }

/-- A command whose posting word waits in CHECKING, with its lines there. -/
def checking (c : Cmd) (s : State) : State :=
  (s.modBundle 0 (fun b => { b with posting := some ⟨1, c, some 0⟩ })).modThread 0 0 (fun t => { t with st := .waiting .posting })

/-- The block of a monitor of F32 words, with BOUND 16 and the stream 0. -/
def monBlock : List Byte := bytesOf 8 0x20000 ++ bytesOf 8 64 ++ bytesOf 16 16 ++ bytesOf 4 4 ++ bytesOf 4 0 ++ [0, 3, 64, 8] ++ List.replicate 20 0

/-- The monitor 7 of the team is armed, with this total and action. -/
def armed (total : Int) (action : Nat) : State := data.modTeam 0 (fun t => { t with
  mons := t.mons.set 7 { Monitor.fresh with st := .armed, bound := 16, level := 1, action := action, partials := [(0, total)], touched := true } })

/-- The frames of the thread and a buffer of 1 KiB are in main memory. -/
def sliced : State := withMem 0x10000 [0, 4, 0, 0] { framed with tlb := framed.tlb ++ data.tlb }

/-- The thread's delimiters, the youngest last, with their tags (R277). -/
def delims (d : List (Nat × Nat × Nat)) (top : DWord) : State :=
  (d.foldl (fun s x => withMem (0x20000 + x.1) (bytesOf 8 x.2.1 ++ bytesOf 8 0x140 ++ bytesOf 8 x.2.2) s) sliced).modThread 0 0
    (fun t => { t with marktop := top })

def marked : State := delims [(0x140, 0, 5)] 0x140

def marked2 : State := delims [(0x140, 0, 5), (0x160, 0x140, 6)] 0x160

/-- The header of a frame without saved registers (R98): CFP, CSP, RPC and WIN. -/
def frameHeader : List Byte := bytesOf 8 0x140 ++ bytesOf 8 0x160 ++ bytesOf 8 0x10044 ++ bytesOf 8 0x38208

/-- The thread has called a function, whose eight registers are the caller's last; the pair v2 holds the buffer's address. -/
def callee : State := (withMem 0x20160 frameHeader marked).modThread 0 0 (fun t => { t with
  base := 48, lo := 0, n := 8, o := 8, nc := 56, frames := ⟨0x1A0, 0x140, 0x160, 0x10044, 8, 8, 56⟩ :: t.frames
  fixed := [⟨0, .int⟩, ⟨0, .int⟩, ⟨0x20000, .int⟩, ⟨0, .int⟩, ⟨0x1B0, .w64⟩, ⟨0, .w64⟩, ⟨0x1A0, .w64⟩, ⟨0, .w64⟩] })

/-- A state after the first lane has read eight bytes at each of these places, and has acquired. -/
def readAt (s : State) (pas : List Nat) : State := noted s 0 s.mem [] (pas.map (fun a => ⟨1, 0, a, 8, none, false, none, 0⟩)) (List.replicate 16 0) []

/-- The callee after a `cut` has planned: CAP and SYNC, the delimiter and the bytes of the image have been read. -/
def planned : State :=
  readAt callee [0x10000, 0x10010, 0x20140, 0x20148, 0x20150, 0x20160, 0x20168, 0x20170, 0x20178, 0x20180, 0x20188, 0x20190, 0x20198, 0x201A0, 0x201A8]

/-- The plan of `cut 0, 2, 5` of the callee: the image of its one frame, with two words of local data, and the header of R279 and R280. -/
def cutting : CutPlan where
  buf := 0x20000
  serial := 1
  image := bytesOf 8 0x140 ++ bytesOf 8 0x160 ++ bytesOf 8 0x10044 ++ bytesOf 8 0x38208 ++ List.replicate 48 0
  header := bytesOf 4 0x534C4943 ++ bytesOf 4 80 ++ bytesOf 2 1 ++ bytesOf 2 1 ++ bytesOf 8 0x0005010000000000 ++ bytesOf 8 0 ++
    bytesOf 8 0x160 ++ bytesOf 8 0x10044 ++ bytesOf 4 64 ++ bytesOf 4 0xFFFFFFFF ++ List.replicate 8 0
  relink := []
  lifted := 1
  bottom := ⟨0x1A0, 0x140, 0x160, 0x10044, 8, 8, 56⟩
  base := 0
  fill := []
  marktop := 0

/-- The slice of that cut in the buffer, serial 1, and its handle in v12. -/
def hasSlice : State :=
  withV 12 0x20000 (withV 13 0x01000000 (withMem 0x10000 (bytesOf 4 0x400 ++ cutting.header ++ cutting.image) sliced))

/-- The state after the header of the slice, and those of its frames, have been read. -/
def headed : State :=
  readAt hasSlice ((List.range 8).map (fun i => 0x10000 + 8 * i) ++ (List.range 4).map (fun i => 0x10040 + 8 * i))

/-- The context has a handler at 0x10080. -/
def watched : State := { one with ctxs := one.ctxs.map (fun c => { c with handler := true, hentry := 0x10080 }) }

/-- An event of a break word in another bundle. -/
def anEvent : TrapEvent := ⟨0x41, false, 0, 1, 0x10040, 1, some 0, [], 0, none⟩

/-- A handler bundle issues, and another bundle of the core has a thread in this state. -/
def handling (st : TState) (hold : Bool) : State := { watched with
  bundles := one.bundles.map (fun b => { b with team := none, handler := some ⟨some anEvent, []⟩ }) ++
    one.bundles.map (fun b => { b with slot := 1, hold := hold, threads := b.threads.map (fun t => { t with st := st, unpark := st == .parked .trap }) }) }

/-- A handler word names item `idx` of the other bundle's thread, with `v` to write. -/
def naming (idx v hi : Word) (s : State) : State := withS 20 0x100 (withS 21 idx (withS 22 v (withS 23 hi s)))

/-- The tables of the context map 1 GiB at 0x40000000, for loads and stores (R322, R323). -/
def tables : State := withMem 0x30000 (bytesOf 8 0x31001) (withMem 0x31000 (bytesOf 8 0x32001) (withMem 0x32008 (bytesOf 8 0x4000000F)
  { data with ctxs := data.ctxs.map (fun c => { c with root := 0x30000 }) }))

/-- A page-fault record of ring 23, whose ring of 16 entries is described at 0x40000. -/
def faulted (posted : Bool) : State := withMem 0x40000 (bytesOf 8 0x50000 ++ bytesOf 8 16) { handling (.parked .trap) false with
  intc := { State.reset.intc with
    ringdesc := State.reset.intc.ringdesc.set 23 0x40000, nextTicket := 6, waiting := [.page 1 5]
    records := [⟨5, 23, 1, 2, 0, 1, 0x20000, 0x10040, posted⟩] } }

/-- The other bundle's thread waits for the record. -/
def attached : State := (faulted true).modThread 1 0 (fun t => { t with ticket := some 5 })

/-- A saved part whose save-area image lies in the device windows. -/
def kennelled : State := { one with
  parts := one.parts.map (fun p => { p with st := .kennelled, kennel := some 0 })
  ctxs := one.ctxs.map (fun c => { c with saveimg := 1 })
  tlb := [⟨128, 1, 0, 30, 0x7C000000000, 0xFF⟩] }

theorem kennelled_xlate (va : DWord) (h : va.toNat < 2 ^ 30) :
    kennelled.xlate packagePlace 1 va .write = (kennelled, .ok (0x7C000000000 + va.toNat) 0xFF) := by
  have hf : kennelled.tlbFind packagePlace 1 va = some ⟨128, 1, 0, 30, 0x7C000000000, 0xFF⟩ := by
    have hi : kennelled.tlbIn packagePlace 1 va = some ⟨128, 1, 0, 30, 0x7C000000000, 0xFF⟩ := by
      show List.find? _ [(⟨128, 1, 0, 30, 0x7C000000000, 0xFF⟩ : TlbEntry)] = _
      rw [List.find?_cons_of_pos]
      simp [packagePlace]
      omega
    unfold State.tlbFind
    rw [hi]
  unfold State.xlate
  simp only [hf]
  simp [leafAllows, Access.isStore, packagePlace]
  omega

theorem kennelled_save : ∀ (n : Nat) (va : DWord), va.toNat + n ≤ 2 ^ 30 → kennelled.saveBytes 1 va n = (kennelled, none)
  | 0, _, _ => rfl
  | n + 1, va, h => by
    have hl : va.toNat < 2 ^ 30 := by omega
    have hv : vaValid va = true := by
      simp only [vaValid, beq_iff_eq]
      apply BitVec.eq_of_toNat_eq
      simp only [BitVec.extractLsb'_toNat, Nat.shiftRight_eq_div_pow, show (0 : BitVec 8).toNat = 0 from rfl]
      omega
    have hp : vaPrivate va = false := by
      simp only [vaPrivate, beq_eq_false_iff_ne, ne_eq]
      intro he
      have := congrArg BitVec.toNat he
      simp only [BitVec.extractLsb'_toNat, Nat.shiftRight_eq_div_pow, show (65535 : BitVec 24).toNat = 65535 from rfl] at this
      omega
    have ho : paOffset (0x7C000000000 + va.toNat) = 0x7C000000000 + va.toNat := by
      unfold paOffset
      omega
    have hn : kennelled.isLocal (0x7C000000000 + va.toNat) = true := by
      have hz : bitsAt (0x7C000000000 + va.toNat) 43 9 = 0 := by
        unfold bitsAt
        omega
      simp [State.isLocal, paNode, hz, show kennelled.nodeid = 0 from rfl]
    have hx : kennelled.paExists (0x7C000000000 + va.toNat) = true := by
      simp [State.paExists, hn, ho, lpddrEnd, deviceBase]
    have hm : (kennelled.isLocal (0x7C000000000 + va.toNat) && decide (paOffset (0x7C000000000 + va.toNat) < lpddrEnd)) = false := by
      rw [ho, hn, Bool.true_and]
      exact decide_eq_false (by unfold lpddrEnd; omega)
    have h1 : (va + 1).toNat = va.toNat + 1 := by
      rw [BitVec.toNat_add]
      simp
      omega
    unfold State.saveBytes
    simp only [hv, hp, kennelled_xlate va hl, hx]
    simp only [Bool.not_true, Bool.or_self, Bool.false_eq_true, ↓reduceIte, hm]
    exact kennelled_save n (va + 1) (by omega)

/-- A launch record in memory, for `nlaunch`. -/
def launching (depth : Nat) : State := (withMem 0x10000 (bytesOf 8 0x60000) { watched with tlb := data.tlb }).modLaunch 0
  (fun l => { l with depth := depth })

/-- The context and the launch of these states, with no team placed. -/
def unplaced : State := ({ State.reset with ctxs := one.ctxs, launches := [startLaunch 1] } : State).makePack 0

/-- The launch has two teams; the first is in a state, with a count, of a kernel with these flags. -/
def teams2 (st : TeamState) (count : Nat) (kflags : BitVec 16) : State := ({ one with teams := one.teams ++ one.teams } : State).modTeam 0
  (fun t => { t with st := st, count := count }) |>.modLaunch 0 (fun l => { l with obj := l.obj.map (fun o => { o with kflags := kflags }) })

/-- The package has all its units. -/
def full (s : State) : State := { s with host := { s.host with caps := BitVec.allOnes 64 } }

def uncapped (s : State) : State := { s with host := { s.host with caps := 0 } }

/-- The part 0 in a state, with its thread in a state. -/
def part0 (st : PartState) (th : TState) : State :=
  ({ full one with parts := one.parts.map (fun p => { p with st := st }) } : State).modThread 0 0 (fun t => { t with st := th })

/-- A queue of 16 slots at 0x20400, with READ r. -/
def aQueue (st : QueueState) (kick : Bool) (ps : List Packet) : Queue :=
  ⟨1, 1, 0x60000, 0x20400, 16, 4, 3, false, st, 0, 0, kick, false, ps⟩

/-- The queue's next slot holds these bytes. -/
def queueing (slot : List Byte) : State := withMem 0x10400 slot (withMem 0x10000 (bytesOf 8 0x60000) { data with queues := [aQueue .active true []] })

/-- The management ring at 0x70000 has one command. -/
def commanding (op flags : Byte) (arg arg2 : Nat) (s : State) : State := withMem 0x70000 (bytesOf 8 0x71000 ++ bytesOf 8 16 ++ bytesOf 8 1)
  (withMem 0x71000 ([op, flags] ++ List.replicate 6 0 ++ bytesOf 8 arg ++ bytesOf 8 arg2)
    { s with boot := { s.boot with stage := 6 }, host := { s.host with mgmtring := 0x70000 } })

/-- The command. -/
def entryOf (op flags : Byte) (arg arg2 : Nat) : MgmtEntry :=
  ⟨0, 0x71000, ofBytes ([op, flags] ++ List.replicate 6 0 ++ bytesOf 8 arg ++ bytesOf 8 arg2)⟩

/-- A context record (R335) for ASID k. -/
def contextRecord (k vpool : Nat) : List Byte := bytesOf 8 0x30000 ++ bytesOf 2 k ++ bytesOf 2 7 ++ bytesOf 4 1000 ++ bytesOf 8 0 ++ bytesOf 8 0 ++
  bytesOf 4 4096 ++ bytesOf 2 1 ++ bytesOf 2 0 ++ bytesOf 8 0 ++ bytesOf 4 0 ++ bytesOf 4 vpool

/-- A queue control block (R376). -/
def queueBlock : List Byte := List.replicate 16 0 ++ bytesOf 8 0x20400 ++ bytesOf 4 16 ++ bytesOf 2 16 ++ [31, 1] ++ bytesOf 2 1

/-- A context with ASID 2 beside. -/
def second (s : State) : State := { s with ctxs := s.ctxs ++ s.ctxs.map (fun c => { c with asid := 2 }) }

/-- The package with a link in a state. -/
def linkIn (st : LinkState) (lanes : Nat) (s : State) : State :=
  full { s with links := ⟨st, lanes, 0, 0, 1024, true, 1000⟩ :: s.links.tail }

/-- A team has a store on link 0. -/
def onLink0 : State := (linkIn .up 8 (teams2 .running 0 0)).modThread 0 0 (fun t => { t with
  out := [.store ⟨0, 0x20000, 0x80000000000, [1], none, false, false, false, 0, 0, some ⟨0, 0x80000000000, 0⟩, 0x10040⟩] })

/-- Ports with a send ring 0, a receive ring 1 and their completion ring 64, of 64 entries each. -/
def ported (entry : List Byte) : State := withMem 0x80000 entry (withMem 0x84000 entry { data with eth :=
  [⟨0, true, [⟨0, 0x80000, 64, 0, 64, 1, 0⟩, ⟨1, 0x84000, 64, 1, 64, 1, 0⟩, ⟨64, 0x90000, 64, 2, 0, 0, 0⟩]⟩, ⟨0, false, []⟩] })

/-- The device after reset, with two slots of its flash, of which the first can be read. -/
def booting (lpddr : Bool) : State := { State.reset with boot := { bareBoot with
  lpddr := lpddr, flash := [⟨true, ⟨1, 2, 3, 4⟩, ⟨5, 6, 7, 8⟩⟩, ⟨false, ⟨0, 0, 0, 0⟩, ⟨0, 0, 0, 0⟩⟩] } }

/-- The next step fetches a word, which follows a clause header (R34) in native code. -/
def clausal : State := withMem 0x3C (bytesOf 4 0xFF300001) { (State.reset.withWord ((encode (.div 8 9 10 0 0)).getD 0)).modThread 0 0
  (fun t => { t with fell := true }) with tlb := [⟨0, 1, 1, 16, 0, 0xDF⟩] }

/-- The next step fetches a prefix, and then a word. -/
def prefixed : State :=
  withMem 68 (bytesOf 4 ((encode (.mad 8 9 10 0 0)).getD 0).toNat) (State.reset.withWord ((encode (.prefixWord 11 0 0 0 0 0)).getD 0))

/-- The next step fetches this word. -/
def fetching (i : Instr) : State := State.reset.withWord ((encode i).getD 0)

/-- Boot is over. -/
def booted (s : State) : State := { s with boot := { s.boot with stage := 5 } }

/-- Witnesses for `Obligations.IntegerLanes`. -/
theorem test_IntegerLanes :
  (∃ (s : State) (i : Instr) (r : LaneRow), integerRow s i = some r ∧ s.issues i ∧ s.lanesPass r.op) ∧
  (∃ (s : State) (i : Instr) (r : LaneRow), integerRow s i = some r ∧ s.issues i ∧ s.lanesPass r.op) :=
  ⟨⟨one, .add 8 9 10 0 0, _, rfl, issues_of (by decide +kernel), passes_of (by decide +kernel)⟩,
    ⟨pre 12 false one, .mad 62 60 58 1 0, _, rfl, issues_of (by decide +kernel), passes_of (by decide +kernel)⟩⟩

/-- Witnesses for `Obligations.FloatLanes`. -/
theorem test_FloatLanes :
  (∃ (s : State) (i : Instr) (r : LaneRow), floatRow s i = some r ∧ s.issues i ∧ s.lanesPass r.op) ∧
  (∃ (s : State) (i : Instr) (r : LaneRow), floatRow s i = some r ∧ s.issues i ∧ s.lanesPass r.op) :=
  ⟨⟨one, .fadd 62 60 58 1 0, _, rfl, issues_of (by decide +kernel), passes_of (by decide +kernel)⟩,
    ⟨one, .smxb 32 8 60 2 0, _, rfl, issues_of (by decide +kernel), passes_of (by decide +kernel)⟩⟩

/-- Witnesses for `Obligations.LaneExchange`. -/
theorem test_LaneExchange :
  (∃ (s : State) (d a b : BitVec 6) (f : BitVec 3) (h : BitVec 2), s.issues (.sel d a b f h) ∧ (unmasked s).lanesPass (selectRow s d a b
    (f == 1)).op) ∧
  (∃ (s : State) (d a : BitVec 6) (h : BitVec 1), s.issues (.movs d a h) ∧ s.uniTrap [⟨a.toNat, 1, .any⟩] = none ∧ s.lanesPass
    (broadcastRow s d a).op) ∧
  (∃ (s : State) (d a b : BitVec 6) (f : BitVec 3) (h : BitVec 2), s.issues (.shfl d a b f h) ∧ s.lanesPass (shuffleRow s d a b f).op) ∧
  (∃ (s : State) (i : Instr) (r : LaneRow), ((∃ d a f h, (i = .red d a f h ∧ r = reduceRow s d a f) ∨ (i = .scan d a f h ∧ r = scanRow s d
    a f))) ∧ s.issues i ∧ s.lanesPass r.op) ∧
  (∃ (s : State) (i : Instr) (r : LaneRow), ((∃ d a f h, (i = .red d a f h ∧ r = reduceRow s d a f) ∨ (i = .scan d a f h ∧ r = scanRow s d
    a f))) ∧ s.issues i ∧ s.lanesPass r.op) :=
  ⟨⟨pre 0 true one, 62, 60, 58, 1, 0, issues_of (by decide +kernel), passes_of (by decide +kernel)⟩,
    ⟨withS 63 7 one, 63, 63, 0, issues_of (by decide +kernel), by decide +kernel, passes_of (by decide +kernel)⟩,
    ⟨one, 63, 9, 10, 3, 0, issues_of (by decide +kernel), passes_of (by decide +kernel)⟩,
    ⟨one, .red 8 9 7 0, _, ⟨8, 9, 7, 0, Or.inl ⟨rfl, rfl⟩⟩, issues_of (by decide +kernel), passes_of (by decide +kernel)⟩,
    ⟨one, .scan 8 9 3 0, _, ⟨8, 9, 3, 0, Or.inr ⟨rfl, rfl⟩⟩, issues_of (by decide +kernel), passes_of (by decide +kernel)⟩⟩

/-- Witnesses for `Obligations.MaskWords`. -/
theorem test_MaskWords :
  (∃ (s : State) (m c : BitVec 3) (a b : BitVec 6) (f : BitVec 3) (h : BitVec 2), s.issues (.cmp m c a b f h) ∧ s.lanesPass ⟨[⟨a.toNat, 2,
    .f64⟩, ⟨b.toNat, 2, .f64⟩], []⟩) ∧
  (∃ (s : State) (m : BitVec 3) (a : BitVec 6) (h : BitVec 1), s.issues (.ballot m a h) ∧ s.lanesPass ⟨[⟨a.toNat, 1, .any⟩], []⟩) ∧
  (∃ (s : State) (m : BitVec 3), s.issues (.elect m)) ∧
  (∃ (s : State) (m : BitVec 3) (k : BitVec 2), s.issues (.lvlead m k)) ∧
  (∃ (s : State) (d a b : BitVec 3) (f : BitVec 6), s.issues (.mlogic d a b f)) ∧
  (∃ (s : State) (d : BitVec 3) (a : BitVec 6), s.issues (.stom d a) ∧ s.uniTrap [⟨a.toNat, 2, .any⟩] = none) :=
  ⟨⟨one, 6, 5, 62, 60, 5, 0, issues_of (by decide +kernel), passes_of (by decide +kernel)⟩,
    ⟨one, 0, 63, 0, issues_of (by decide +kernel), passes_of (by decide +kernel)⟩,
    ⟨one, 7, issues_of (by decide +kernel)⟩,
    ⟨one, 3, 0, issues_of (by decide +kernel)⟩,
    ⟨one, 6, 7, 0, 3, issues_of (by decide +kernel)⟩,
    ⟨withS 62 1 (withS 63 2 one), 6, 62, issues_of (by decide +kernel), by decide +kernel⟩⟩

/-- Witnesses for `Obligations.UniformWords`. -/
theorem test_UniformWords :
  (∃ (s : State) (i : Instr) (us : List Use) (ws : List (Nat × Reg)), uniformRow s i = some (us, ws) ∧ s.issues i ∧ s.uniTrap us = none) ∧
  (∃ (s : State) (d a n : BitVec 6), s.issues (.ulane d a n) ∧ n.toNat < s.curB.w ∧ ((s.tagCheck = true → (s.laneRegister n.toNat a).tag ≠
    .empty ∧ (s.laneRegister n.toNat a).tag ≠ .pend))) :=
  ⟨⟨one, .uadd 62 60 58 1, _, _, rfl, issues_of (by decide +kernel), by decide +kernel⟩,
    ⟨one, 63, 63, 15, issues_of (by decide +kernel), by decide +kernel⟩⟩

/-- Witnesses for `Obligations.Levels`. -/
theorem test_Levels :
  (∃ (s : State) (i : Instr) (r : LaneRow), levelRow s i = some r ∧ s.issues i ∧ s.lanesPass r.op) ∧
  (∃ (s : State) (d a : BitVec 6) (k : BitVec 2) (f : BitVec 3) (h : BitVec 1), s.issues (.lvred d a k f h) ∧ s.lanesPass (levelRedOp d a
    f) ∧ ((∀ l ∈ s.issued, s.isActive l = true → (s.curB.thread l).slotsUsed k.toNat < 4))) ∧
  (∃ (s : State) (d a : BitVec 6) (k : BitVec 2) (f : BitVec 3) (h : BitVec 1), s.issues (.lvred d a k f h) ∧ s.lanesPass (levelRedOp d a
    f) ∧ ((∀ l ∈ s.issued, s.isActive l = true ∧ 4 ≤ (s.curB.thread l).slotsUsed k.toNat))) ∧
  (∃ (s : State) (d : BitVec 6) (n : BitVec 8), s.issues (.lvshare d n) ∧ s.lanesPass ⟨[], dstRegs d.toNat 2 .w64⟩ ∧ ((∀ l ∈ s.issued,
    s.isActive l = true)) ∧ (s.bundleLaunch s.cur.bundle).code.shares.length ≤ n.toNat) ∧
  (∃ (s : State) (d : BitVec 6) (k : BitVec 2), s.issues (.lvcarry d k) ∧ s.lanesPass ⟨[], dstRegs d.toNat 2 .w64⟩ ∧ ((∀ l ∈ s.issued,
    s.isActive l = true)) ∧ (s.bundleLaunch s.cur.bundle).code.carryBytes k.toNat = 0) ∧
  (∃ (s : State) (i : Instr) (k : BitVec 2) (o : BitVec 20), (i = .lvbar k o ∨ i = .lvend k o) ∧ s.issues i ∧ o.getLsbD 19 = false) ∧
  (∃ (s : State) (i : Instr) (k : BitVec 2) (o : BitVec 20), (i = .lvbar k o ∨ i = .lvend k o) ∧ s.issues i ∧ o.getLsbD 19 = false) ∧
  (∃ (s : State) (i : Instr) (k : BitVec 2) (o : BitVec 20), (i = .lvbar k o ∨ i = .lvend k o) ∧ s.issues i ∧ o.getLsbD 19 = true ∧ ((∀ l
    ∈ s.issued, loopsBack s k.toNat l = true)) ∧ barIdle s (s.levelBar s.cur.bundle k.toNat)) ∧
  (∃ (s : State) (i : Instr) (k : BitVec 2) (o : BitVec 20), (i = .lvbar k o ∨ i = .lvend k o) ∧ s.issues i ∧ o.getLsbD 19 = true ∧ ((∀ l
    ∈ s.issued, loopsBack s k.toNat l = true)) ∧ barIdle s (s.levelBar s.cur.bundle k.toNat)) ∧
  (∃ (s : State) (k : BitVec 2) (o : BitVec 20), s.issues (.lvend k o) ∧ o.getLsbD 19 = true ∧ ((∀ l ∈ s.issued, loopsBack s k.toNat l =
    false)) ∧ (((s.bundleLaunch s.cur.bundle).role k.toNat).parallel = false ∨ (s.bundleLaunch s.cur.bundle).code.hasRed k.toNat = false)
    ∧ ((∀ l ∈ s.issued, ∀ z ∈ (s.curB.thread l).slots, z.k ≠ k.toNat)) ∧ barIdle s (s.levelBar s.cur.bundle k.toNat)) ∧
  (∃ (s : State) (k : BitVec 2) (o : BitVec 20), s.issues (.lvbar k o) ∧ o.getLsbD 19 = true ∧ ((∀ l ∈ s.issued, loopsBack s k.toNat l =
    false ∧ (s.curB.thread l).out = [])) ∧ ((s.bundleLaunch s.cur.bundle).role k.toNat).parallel = false ∧ s.unshown ∧ s.linesClean ∧ ((∀
    l ∈ s.issued, ∀ z ∈ (s.curB.thread l).slots, z.k ≠ k.toNat)) ∧ barIdle s (s.levelBar s.cur.bundle k.toNat)) ∧
  (∃ (s : State) (i : Instr) (k : BitVec 2) (o : BitVec 20) (bar : Bool), i = (if bar then .lvbar k o else .lvend k o) ∧ s.issues i ∧
    o.getLsbD 19 = true ∧ LevelArrival s k.toNat ∧ (bar = true ∨ (s.bundleLaunch s.cur.bundle).code.hasRed k.toNat = true) ∧ s.issued ≠ []
    ∧ (¬ allCounted s (12 + k.toNat))) ∧
  (∃ (s : State) (i : Instr) (k : BitVec 2) (o : BitVec 20) (bar : Bool), i = (if bar then .lvbar k o else .lvend k o) ∧ s.issues i ∧
    o.getLsbD 19 = true ∧ LevelArrival s k.toNat ∧ (bar = true ∨ (s.bundleLaunch s.cur.bundle).code.hasRed k.toNat = true) ∧ s.issued ≠ []
    ∧ (¬ allCounted s (12 + k.toNat))) :=
  ⟨⟨one, .lvidx 63 0, _, rfl, issues_of (by decide +kernel), passes_of (by decide +kernel)⟩,
    ⟨one, 8, 9, 0, 7, 0, issues_of (by decide +kernel), passes_of (by decide +kernel), by decide +kernel⟩,
    ⟨one.modThread 0 0 (fun t => { t with slots := List.replicate 4 ⟨0, 0, 0, 8, 0, 1⟩ }), 8, 9, 0, 0, 0, issues_of (by decide +kernel),
      passes_of (by decide +kernel), by decide +kernel⟩,
    ⟨one, 8, 255, issues_of (by decide +kernel), passes_of (by decide +kernel), by decide +kernel⟩,
    ⟨one, 8, 3, issues_of (by decide +kernel), passes_of (by decide +kernel), by decide +kernel⟩,
    ⟨one, .lvbar 0 0x7FFFF, 0, 0x7FFFF, Or.inl rfl, issues_of (by decide +kernel), by decide +kernel⟩,
    ⟨one, .lvend 3 0, 3, 0, Or.inr rfl, issues_of (by decide +kernel), by decide +kernel⟩,
    ⟨looped, .lvend 0 0xFFFFF, 0, 0xFFFFF, Or.inr rfl, issues_of (by decide +kernel), by decide +kernel, by decide +kernel, barIdle_of (by
      decide +kernel) (by decide +kernel)⟩,
    ⟨looped, .lvbar 0 0x80000, 0, 0x80000, Or.inl rfl, issues_of (by decide +kernel), by decide +kernel, by decide +kernel, barIdle_of (by
      decide +kernel) (by decide +kernel)⟩,
    ⟨one, 0, 0xFFFFF, issues_of (by decide +kernel), by decide +kernel, by decide +kernel, by decide +kernel, (by decide +kernel),
      barIdle_of (by decide +kernel) (by decide +kernel)⟩,
    ⟨one, 0, 0xFFFFF, issues_of (by decide +kernel), by decide +kernel, by decide +kernel, by decide +kernel, hidden_of (by
      decide +kernel) _, linesClean_of (by decide +kernel), by decide +kernel, barIdle_of (by decide +kernel) (by decide +kernel)⟩,
    ⟨crossed, .lvbar 1 0xFFFFF, 1, 0xFFFFF, true, rfl, issues_of (by decide +kernel), by decide +kernel, ⟨by decide +kernel, by
      decide +kernel, by decide +kernel, by decide +kernel, by decide +kernel, (by decide +kernel), teamQuiet_of (by decide +kernel) (by
      decide +kernel)⟩, by decide +kernel, by decide +kernel, notCounted_of 0 1 (by decide +kernel) (by decide +kernel) (by
      decide +kernel) (by decide +kernel)⟩,
    ⟨crossed, .lvend 1 0xFFFFF, 1, 0xFFFFF, false, rfl, issues_of (by decide +kernel), by decide +kernel, ⟨by decide +kernel, by
      decide +kernel, by decide +kernel, by decide +kernel, by decide +kernel, (by decide +kernel), teamQuiet_of (by decide +kernel) (by
      decide +kernel)⟩, by decide +kernel, by decide +kernel, notCounted_of 0 1 (by decide +kernel) (by decide +kernel) (by
      decide +kernel) (by decide +kernel)⟩⟩

/-- Witnesses for `Obligations.Branches`. -/
theorem test_Branches :
  (∃ (s : State) (m : BitVec 3) (x : BitVec 1) (o : BitVec 20), s.issues (.br m x o)) ∧
  (∃ (s : State) (m : BitVec 3) (x : BitVec 1) (o : BitVec 20), s.issues (.brw m x o)) ∧
  (∃ (s : State) (a : BitVec 6), s.issues (.jmp a) ∧ s.lanesPass ⟨[⟨a.toNat, 2, .int⟩], []⟩ ∧ ((∀ l ∈ s.issued, (s.curB.thread l).isReady
    = true)) ∧ ((∀ l ∈ s.issued, s.isActive l = true → (s.v64 l a).toNat % 4 = 0 ∧ vaValid (s.v64 l a) = true))) ∧
  (∃ s : State, s.issues .nop) :=
  ⟨⟨one, 7, 1, 0xFFFFF, issues_of (by decide +kernel)⟩,
    ⟨one, 7, 0, 0x7FFFF, issues_of (by decide +kernel)⟩,
    ⟨data, 10, issues_of (by decide +kernel), passes_of (by decide +kernel), by decide +kernel⟩,
    ⟨one, issues_of (by decide +kernel)⟩⟩

/-- Witnesses for `Obligations.Calls`. -/
theorem test_Calls :
  (∃ (s : State) (m : BitVec 3) (x : BitVec 1) (o : BitVec 20), s.issues (.call m x o) ∧ ((∀ l ∈ s.issued, (s.readM m.toNat).getLsbD l =
    (x == 1) → (s.curB.thread l).entered = true))) ∧
  (∃ (s : State) (a : BitVec 6), s.issues (.callr a) ∧ s.lanesPass ⟨[⟨a.toNat, 2, .int⟩], []⟩ ∧ ((∀ l ∈ s.issued, (s.curB.thread
    l).isReady = true)) ∧ ((∀ l ∈ s.issued, s.isActive l = true → (s.v64 l a).toNat % 4 = 0 ∧ vaValid (s.v64 l a) = true ∧ (s.curB.thread
    l).entered = true))) ∧
  (∃ (s : State) (m : BitVec 3) (x : BitVec 1) (o : BitVec 20), s.issues (.call m x o) ∧ ((∀ l ∈ s.issued, (s.readM m.toNat).getLsbD l =
    (x == 1) ∧ (s.curB.thread l).entered = false))) ∧
  (∃ (s : State) (a : BitVec 6), s.issues (.callr a) ∧ s.lanesPass ⟨[⟨a.toNat, 2, .int⟩], []⟩ ∧ ((∀ l ∈ s.issued, s.isActive l = true ∧
    (s.v64 l a).toNat % 4 = 0 ∧ vaValid (s.v64 l a) = true ∧ (s.curB.thread l).entered = false))) :=
  ⟨⟨one, 7, 1, 1, issues_of (by decide +kernel), by decide +kernel⟩,
    ⟨data, 10, issues_of (by decide +kernel), passes_of (by decide +kernel), by decide +kernel⟩,
    ⟨one.modThread 0 0 (fun t => { t with entered := false }), 7, 1, 1, issues_of (by decide +kernel), by decide +kernel⟩,
    ⟨data.modThread 0 0 (fun t => { t with entered := false }), 10, issues_of (by decide +kernel), passes_of (by decide +kernel), by
      decide +kernel⟩⟩

/-- Witnesses for `Obligations.Frames`. -/
theorem test_Frames :
  (∃ (s m : State) (rs : List (Nat × EngineEnd × List (Nat × Reg))) (o n : BitVec 6), s.issues (.enter o n) ∧ ((∀ l ∈ s.issued, ∃ a,
    s.enterCheck l n.toNat o.toNat = .inr a)) ∧ State.enterAll s.cur.bundle n.toNat o.toNat s (s.enterGood n.toNat o.toNat) = (m, rs) ∧
    ((∀ r ∈ rs, r.2.1 = .ok))) ∧
  (∃ (s m : State) (rs : List (Nat × EngineEnd × List (Nat × Reg))), s.issues .ret ∧ ((∀ l ∈ s.issued, (s.curB.thread l).entered = false))
    ∧ State.backAll s.cur.bundle s s.issued = (m, rs) ∧ ((∀ r ∈ rs, r.2.1 = .ok))) ∧
  (∃ (s : State) (l : Nat) (h : Frame), s.issues .ret ∧ s.issued = [l] ∧ s.retHead s.cur.bundle l = some h ∧ h.rpc ≠ 0 ∧ (State.retAct
    s.cur.bundle s (l, h)).2.2.1 = .ok) ∧
  (∃ s : State, s.issues .exit ∧ ((∀ l ∈ s.issued, (s.curB.thread l).out = [])) ∧ s.unshown ∧ s.linesClean ∧ ((∀ r ∈ s.barsOf
    s.cur.bundle, barIdle s r))) :=
  ⟨⟨called, _, _, 8, 16, issues_of (by decide +kernel), enterGood_of (by decide +kernel), (Prod.eta _).symm, by decide +kernel⟩,
    ⟨one.modThread 0 0 (fun t => { t with entered := false, nc := 8 }), _, _, issues_of (by decide +kernel), by decide +kernel, (Prod.eta
      _).symm, by decide +kernel⟩,
    ⟨after (.enter 0 8) called, 0, ⟨0x1B0, 0x140, 0x140, 0x10044, 8, 0, 8⟩, issues_of (by decide +kernel), by decide +kernel⟩,
    ⟨one, issues_of (by decide +kernel), by decide +kernel, hidden_of (by decide +kernel) _, linesClean_of (by decide +kernel),
      barsIdle_of (by decide +kernel)⟩⟩

/-- Witnesses for `Obligations.PrefixYieldLeash`. -/
theorem test_PrefixYieldLeash :
  (∃ (s : State) (c : BitVec 6) (m : BitVec 3) (e z : BitVec 1) (r : BitVec 3) (x : BitVec 1), s.issues (.prefixWord c m e z r x)) ∧
  (∃ (s : State) (h : BitVec 6), s.issues (.yield h)) ∧
  (∃ (s : State) (b : Nat) (p : DWord), (s.bundle b).live = true ∧ (s.bundle b).leash.rot = false ∧ s.leashOf b ≤ (s.bundle b).leash.count
    ∧ turnStart (s.bundle b) (s.bundle b).readyLanes (s.bundle b).leash.start p) ∧
  (∃ (s : State) (b : Nat) (p : DWord) (others : List Nat), (s.bundle b).live = true ∧ (s.bundle b).leash.rot = true ∧ (s.leashOf b / 8 ≤
    (s.bundle b).leash.turn ∨ (∀ l ∈ (s.bundle b).readyLanes, (s.bundle b).leash.group.getLsbD l = false)) ∧ others = (s.bundle
    b).readyLanes.filter (fun l => !(s.bundle b).leash.group.getLsbD l) ∧ turnStart (s.bundle b) others (s.bundle b).leash.start p) ∧
  (∃ (s : State) (b : Nat) (p : DWord) (others : List Nat), (s.bundle b).live = true ∧ (s.bundle b).leash.rot = true ∧ (s.leashOf b / 8 ≤
    (s.bundle b).leash.turn ∨ (∀ l ∈ (s.bundle b).readyLanes, (s.bundle b).leash.group.getLsbD l = false)) ∧ others = (s.bundle
    b).readyLanes.filter (fun l => !(s.bundle b).leash.group.getLsbD l) ∧ others = [] ∧ isLowest (s.bundle b) (s.bundle b).readyLanes p) :=
  ⟨⟨one, 62, 7, 1, 1, 4, 1, issues_of (by decide +kernel)⟩,
    ⟨one, 63, issues_of (by decide +kernel)⟩,
    ⟨one.modBundle 0 (fun b => { b with leash := { b.leash with count := 4096 } }), 0, 0x10040, by decide +kernel, by decide +kernel, by
      decide +kernel, by unfold turnStart isLowest; decide +kernel⟩,
    ⟨two.modBundle 0 (fun b => { b with leash := ⟨true, 9, 1, 512, 0x10040⟩ }), 0, 0x10060, [1], by decide +kernel, by decide +kernel, by
      decide +kernel, by decide +kernel, by unfold turnStart isLowest; decide +kernel⟩,
    ⟨two.modBundle 0 (fun b => { b with leash := ⟨true, 9, 3, 512, 0x10040⟩ }), 0, 0x10040, [], by decide +kernel, by decide +kernel, by
      decide +kernel, by decide +kernel, by decide +kernel, by unfold isLowest; decide +kernel⟩⟩

/-- Witnesses for `Obligations.RegisterAllocation`. -/
theorem test_RegisterAllocation :
  (∃ (s : State) (n : BitVec 6), s.issues (.rgrow n) ∧ mayGrow s (n.toNat * 8) ∧ s.cur.bundle < s.bundles.length) ∧
  (∃ (s : State) (n : BitVec 6), s.issues (.rgrow n) ∧ s.curB.p + n.toNat * 8 ≤ 256 ∧ (¬ mayGrow s (n.toNat * 8))) ∧
  (∃ (s : State) (n : BitVec 6), s.issues (.rgrow n) ∧ 256 < s.curB.p + n.toNat * 8) ∧
  (∃ (s : State) (d n : BitVec 6), s.issues (.rgrowTry d n) ∧ (¬ mayGrow s (n.toNat * 8))) ∧
  (∃ (s : State) (d n : BitVec 6), s.issues (.rgrowTry d n) ∧ mayGrow s (n.toNat * 8) ∧ s.cur.bundle < s.bundles.length) ∧
  (∃ (s : State) (n : BitVec 6), s.issues (.rshrink n) ∧ (s.curB.p < n.toNat * 8 + 16 ∨ (∃ l < s.curB.threads.length, (s.curB.thread
    l).isExited = false ∧ s.curB.p - n.toNat * 8 - 8 < (s.curB.thread l).n))) ∧
  (∃ (s : State) (n : BitVec 6), s.issues (.rshrink n) ∧ (s.curB.p < n.toNat * 8 + 16 ∨ (∃ l < s.curB.threads.length, (s.curB.thread
    l).isExited = false ∧ s.curB.p - n.toNat * 8 - 8 < (s.curB.thread l).n))) ∧
  (∃ (s : State) (n : BitVec 6), s.issues (.rshrink n) ∧ n.toNat * 8 + 16 ≤ s.curB.p ∧ s.cur.bundle < s.bundles.length ∧ s.curB.live =
    true ∧ s.cur.stalled = false ∧ ((∀ l < s.curB.threads.length, (s.curB.thread l).isExited = false → (s.curB.thread l).n ≤ s.curB.p -
    n.toNat * 8 - 8 ∧ (s.curB.thread l).base + (s.curB.thread l).n ≤ (s.curB.thread l).lo + (s.curB.p - n.toNat * 8 - 8)))) ∧
  (∃ (s : State) (place sub : Nat) (g : GrowReq), s.grow.find? (fun g => g.place == place && g.sub == sub) = some g ∧ (s.bundle
    g.bundle).p + g.n ≤ 256 ∧ (s.bundle g.bundle).w * g.n ≤ s.freeRegs place sub ∧ g.bundle < s.bundles.length) :=
  ⟨⟨one, 24, issues_of (by decide +kernel), by unfold mayGrow; decide +kernel, by decide +kernel⟩,
    ⟨asked, 24, issues_of (by decide +kernel), by decide +kernel, by unfold mayGrow; decide +kernel⟩,
    ⟨one, 25, issues_of (by decide +kernel), by decide +kernel⟩,
    ⟨one, 63, 25, issues_of (by decide +kernel), by unfold mayGrow; decide +kernel⟩,
    ⟨one, 63, 24, issues_of (by decide +kernel), by unfold mayGrow; decide +kernel, by decide +kernel⟩,
    ⟨one, 7, issues_of (by decide +kernel), Or.inl (by decide +kernel)⟩,
    ⟨one, 1, issues_of (by decide +kernel), Or.inr (by decide +kernel)⟩,
    ⟨one.modThread 0 0 (fun t => { t with n := 8 }), 6, issues_of (by decide +kernel), by decide +kernel⟩,
    ⟨asked, 0, 0, ⟨0, 0, 0, 1, 192⟩, by decide +kernel⟩⟩

/-- Witnesses for `Obligations.LaneMemory`. -/
theorem test_LaneMemory :
  (∃ (s : State) (i : Instr) (f : MemForm) (off : Nat → Nat) (ver : Option Nat) (dev : Nat → Bool), loadForm i = some f ∧ s.issues i ∧
    s.lanesPass ⟨[⟨f.a.toNat, 2, .any⟩], dstRegs f.d.toNat f.regs .raw⟩ ∧ ((∀ l ∈ s.issued, s.isActive l = true → PlainAccess s l (laneBit
    l) (f.va s l) f.size f.q.toNat .read (off l) ver (dev l)))) ∧
  (∃ (s : State) (i : Instr) (f : MemForm) (off : Nat → Nat) (ver : Option Nat) (dev : Nat → Bool), loadForm i = some f ∧ s.issues i ∧
    s.lanesPass ⟨[⟨f.a.toNat, 2, .any⟩], dstRegs f.d.toNat f.regs .raw⟩ ∧ ((∀ l ∈ s.issued, s.isActive l = true → PlainAccess s l (laneBit
    l) (f.va s l) f.size f.q.toNat .read (off l) ver (dev l)))) ∧
  (∃ (s : State) (i : Instr) (f : MemForm) (off : Nat → Nat) (ver : Option Nat) (dev : Nat → Bool), storeForm i = some f ∧ s.issues i ∧
    s.lanesPass ⟨[⟨f.a.toNat, 2, .any⟩, ⟨f.d.toNat, f.regs, .any⟩], []⟩ ∧ quiet s ∧ ((∀ l ∈ s.issued, s.isActive l = true → PlainAccess s
    l (laneBit l) (f.va s l) f.size f.q.toNat .write (off l) ver (dev l)))) ∧
  (∃ (s : State) (i : Instr) (d a : BitVec 6) (p ty q : BitVec 4) (ret : Bool) (off : Nat → Nat) (dev : Nat → Bool), i = (if ret then
    .atomr d a p ty q else .atom d a p ty q) ∧ s.issues i ∧ s.lanesPass (atomicOp s d a p ty ret) ∧ quiet s ∧ ((∀ l ∈ s.issued, s.isActive
    l = true → (s.curB.thread l).out = [] ∧ PlainAccess s l (laneBit l) (s.v64 l a) (if ty = 2 ∨ ty = 3 then 8 else 4) q.toNat .atomic
    (off l) none (dev l)))) ∧
  (∃ (s : State) (i : Instr) (d a : BitVec 6) (p ty q : BitVec 4) (ret : Bool) (off : Nat → Nat) (dev : Nat → Bool), i = (if ret then
    .atomr d a p ty q else .atom d a p ty q) ∧ s.issues i ∧ s.lanesPass (atomicOp s d a p ty ret) ∧ quiet s ∧ ((∀ l ∈ s.issued, s.isActive
    l = true → (s.curB.thread l).out = [] ∧ PlainAccess s l (laneBit l) (s.v64 l a) (if ty = 2 ∨ ty = 3 then 8 else 4) q.toNat .atomic
    (off l) none (dev l)))) :=
  ⟨⟨data, .ld128 60 10 0x7F 15, ⟨60, 10, 0x7F, 15, 16, false⟩, fun _ => 0x107F0, none, fun _ => false, rfl, issues_of (by
      decide +kernel), passes_of (by decide +kernel), active_of (by decide +kernel) ⟨by decide +kernel, unheld_of (by decide +kernel), ⟨by
      decide +kernel, by decide +kernel⟩, fun _ => unseen_of (by decide +kernel), by decide +kernel⟩⟩,
    ⟨data, .ld8s 12 10 0 0, ⟨12, 10, 0, 0, 1, true⟩, fun _ => 0x10000, none, fun _ => false, rfl, issues_of (by decide +kernel), passes_of
      (by decide +kernel), active_of (by decide +kernel) ⟨by decide +kernel, unheld_of (by decide +kernel), ⟨by decide +kernel, by
      decide +kernel⟩, fun _ => unseen_of (by decide +kernel), by decide +kernel⟩⟩,
    ⟨data, .st64 62 10 127 0, ⟨62, 10, 127, 0, 8, false⟩, fun _ => 0x103F8, none, fun _ => false, rfl, issues_of (by decide +kernel),
      passes_of (by decide +kernel), quiet_of (by decide +kernel), active_of (by decide +kernel) ⟨by decide +kernel, unheld_of (by
      decide +kernel), ⟨by decide +kernel, by decide +kernel⟩, fun _ => unseen_of (by decide +kernel), by decide +kernel⟩⟩,
    ⟨data, .atomr 62 10 0 2 15, 62, 10, 0, 2, 15, true, fun _ => 0x10000, fun _ => false, rfl, issues_of (by decide +kernel), passes_of
      (by decide +kernel), quiet_of (by decide +kernel), active_of (by decide +kernel) ⟨by decide +kernel, by decide +kernel, unheld_of
      (by decide +kernel), ⟨by decide +kernel, by decide +kernel⟩, fun _ => unseen_of (by decide +kernel), by decide +kernel⟩⟩,
    ⟨pre 12 false data, .atom 62 10 7 0 0, 62, 10, 7, 0, 0, false, fun _ => 0x10000, fun _ => false, rfl, issues_of (by decide +kernel),
      passes_of (by decide +kernel), quiet_of (by decide +kernel), active_of (by decide +kernel) ⟨by decide +kernel, by decide +kernel,
      unheld_of (by decide +kernel), ⟨by decide +kernel, by decide +kernel⟩, fun _ => unseen_of (by decide +kernel), by decide +kernel⟩⟩⟩

/-- Witnesses for `Obligations.UniformMemory`. -/
theorem test_UniformMemory :
  (∃ (s : State) (i : Instr) (f : MemForm) (store : Bool) (off : Nat) (dev : Bool), uniMemForm i = some (f, store) ∧ s.issues i ∧
    s.cur.bundle < s.bundles.length ∧ ((∀ l ∈ s.leader :: s.issued, (s.curB.thread l).out = [])) ∧ quiet s ∧ PlainAccess s s.leader
    s.cur.lanes (f.uva s) f.size f.q.toNat (if store then .write else .read) off none dev ∧ s.uniTrap ([⟨f.a.toNat, 2, .any⟩] ++ if store
    then [⟨f.d.toNat, f.size / 4, .any⟩] else []) = none) ∧
  (∃ (s : State) (i : Instr) (f : MemForm) (store : Bool) (off : Nat) (dev : Bool), uniMemForm i = some (f, store) ∧ s.issues i ∧
    s.cur.bundle < s.bundles.length ∧ ((∀ l ∈ s.leader :: s.issued, (s.curB.thread l).out = [])) ∧ quiet s ∧ PlainAccess s s.leader
    s.cur.lanes (f.uva s) f.size f.q.toNat (if store then .write else .read) off none dev ∧ s.uniTrap ([⟨f.a.toNat, 2, .any⟩] ++ if store
    then [⟨f.d.toNat, f.size / 4, .any⟩] else []) = none) :=
  ⟨⟨data, .uld64 62 10 127 15, ⟨62, 10, 127, 15, 8, false⟩, false, 0x103F8, false, rfl, issues_of (by decide +kernel), by decide +kernel,
      by decide +kernel, quiet_of (by decide +kernel), ⟨by decide +kernel, unheld_of (by decide +kernel), ⟨by decide +kernel, by
      decide +kernel⟩, fun _ => unseen_of (by decide +kernel), by decide +kernel⟩, by decide +kernel⟩,
    ⟨data, .ust32 63 10 0 0, ⟨63, 10, 0, 0, 4, false⟩, true, 0x10000, false, rfl, issues_of (by decide +kernel), by decide +kernel, by
      decide +kernel, quiet_of (by decide +kernel), ⟨by decide +kernel, unheld_of (by decide +kernel), ⟨by decide +kernel, by
      decide +kernel⟩, fun _ => unseen_of (by decide +kernel), by decide +kernel⟩, by decide +kernel⟩⟩

/-- Witnesses for `Obligations.StoreOrder`. -/
theorem test_StoreOrder :
  (∃ (s : State) (sc : BitVec 4) (l : BitVec 1) (q : BitVec 4), s.issues (.fence sc 1 l q)) ∧
  (∃ (s : State) (sc : BitVec 4) (k : BitVec 2) (l : BitVec 1) (q : BitVec 4), s.issues (.fence sc k l q) ∧ k ≠ 1 ∧ sc.toNat < 3 ∧
    s.unshown ∧ ((∀ j ∈ s.issued, (s.curB.thread j).isReady = true ∧ ∀ p ∈ (s.curB.thread j).out, ∃ x, p = .store x))) ∧
  (∃ (s : State) (sc b c : BitVec 4), s.issues (.xfence sc b c) ∧ sc.toNat < 3 ∧ s.unshown ∧ ((∀ j ∈ s.issued, (s.curB.thread j).isReady =
    true ∧ ∀ p ∈ (s.curB.thread j).out, ∃ x, p = .store x))) ∧
  (∃ (s : State) (b l n : Nat) (x : PStore), (s.thread b l).out[n]? = some (.store x) ∧ ((∀ p ∈ (s.thread b l).out, ∃ y, p = .store y)) ∧
    firstOf (s.thread b l) x ∧ x.link = none ∧ x.ver = none ∧ x.mix = 0 ∧ x.pa + x.bytes.length ≤ lpddrEnd ∧ x.bytes ≠ [] ∧ unheld s x.pa
    ∧ s.memOk) ∧
  (∃ (s : State) (b l n v : Nat) (x : PStore), (s.thread b l).out[n]? = some (.store x) ∧ ((∀ p ∈ (s.thread b l).out, ∃ y, p = .store y))
    ∧ firstOf (s.thread b l) x ∧ x.link = none ∧ x.ver = some v ∧ x.mix = 0 ∧ x.pa + x.bytes.length ≤ lpddrEnd ∧ x.bytes ≠ [] ∧ unheld s
    x.pa ∧ v < s.teams.length ∧ (s.team v).verOpen = true ∧ s.versionFull v x.pa = false ∧ ((s.team v).ver.cells.map (·.1)).Pairwise (· <
    ·)) :=
  ⟨⟨stored, 5, 1, 0, issues_of (by decide +kernel)⟩,
    ⟨stored, 2, 2, 0, 15, issues_of (by decide +kernel), by decide +kernel, by decide +kernel, hidden_of (by decide +kernel) _, lane_of
      (by decide +kernel) ⟨by decide +kernel, stores_of (by decide +kernel)⟩⟩,
    ⟨stored, 2, 0, 15, issues_of (by decide +kernel), by decide +kernel, hidden_of (by decide +kernel) _, lane_of (by decide +kernel) ⟨by
      decide +kernel, stores_of (by decide +kernel)⟩⟩,
    ⟨stored, 0, 0, 0, ⟨0, 0x20000, 0x10000, [4, 3, 2, 1], none, true, false, false, 0, 0, none, 0x10040⟩, by decide +kernel, stores_of (by
      decide +kernel), ⟨by decide +kernel, by decide +kernel⟩, by decide +kernel, by decide +kernel, by decide +kernel, (by decide +kernel),
      by decide +kernel, unheld_of (by decide +kernel), (by unfold State.memOk; decide +kernel)⟩,
    ⟨storedOver, 0, 0, 0, 0, ⟨0, 0x20000, 0x10000, [4, 3, 2, 1], some 0, true, false, false, 0, 0, none, 0x10040⟩, by decide +kernel,
      stores_of (by decide +kernel), ⟨by decide +kernel, by decide +kernel⟩, by decide +kernel, by decide +kernel, by decide +kernel, by
      decide +kernel, by decide +kernel, unheld_of (by decide +kernel), by decide +kernel⟩⟩

/-- Witnesses for `Obligations.AwaitAndLateWords`. -/
theorem test_AwaitAndLateWords :
  (∃ (s : State) (d a : BitVec 6) (o : BitVec 8) (q : BitVec 4) (off : Nat → Nat) (ver : Option Nat) (dev : Nat → Bool), s.issues (.await
    d a o q) ∧ s.lanesPass ⟨[⟨a.toNat, 2, .any⟩, ⟨d.toNat, 1, .any⟩], dstRegs d.toNat 1 .raw⟩ ∧ ((∀ l ∈ s.issued, s.isActive l = true →
    PlainAccess s l (laneBit l) (MemForm.va ⟨d, a, o, q, 4, false⟩ s l) 4 q.toNat .read (off l) ver (dev l))) ∧ (∀ l ∈ s.issued,
    s.isActive l = true → (wordFrom (seenByte s s.cur.bundle l q.toNat ver) (off l)).val ≠ s.v32 l d)) ∧
  (∃ (s : State) (d a : BitVec 6) (o : BitVec 8) (q : BitVec 4) (off : Nat → Nat) (ver : Option Nat) (dev : Nat → Bool), s.issues (.await
    d a o q) ∧ s.lanesPass ⟨[⟨a.toNat, 2, .any⟩, ⟨d.toNat, 1, .any⟩], dstRegs d.toNat 1 .raw⟩ ∧ ((∀ l ∈ s.issued, s.isActive l = true →
    PlainAccess s l (laneBit l) (MemForm.va ⟨d, a, o, q, 4, false⟩ s l) 4 q.toNat .read (off l) ver (dev l))) ∧ (∀ l ∈ s.issued,
    s.isActive l = true ∧ (wordFrom (seenByte s s.cur.bundle l q.toNat ver) (off l)).val = s.v32 l d)) ∧
  (∃ (s : State) (a : BitVec 6) (o : BitVec 8) (q : BitVec 4), s.issues (.prefetch a o q) ∧ s.lanesPass ⟨[⟨a.toNat, 2, .any⟩], []⟩) ∧
  (∃ (s : State) (b l : Nat) (pc : DWord) (d a : BitVec 6) (o : BitVec 8) (q : BitVec 4) (off : Nat) (ver : Option Nat) (dev : Bool)
    (v : Word), (s.thread b l).st = .parked .await ∧ (s.bundle b).resident = true ∧ s.standing b l = some (pc, .await d a o q) ∧ b <
    s.bundles.length ∧ s.locate b l (pairOf (s.readV b l) a.toNat + o.signExtend 64 * 4) 4 q.toNat .read = (s, .mem off ver dev) ∧ unheld
    s off ∧ s.racing (s.spot b (laneBit l) q.toNat dev off 4 ver) = [] ∧ s.touched (s.spot b (laneBit l) q.toNat dev off 4 ver) false = []
    ∧ v = (wordFrom (seenByte s b l q.toNat ver) off).val ∧ v = (s.readV b l d.toNat).val) ∧
  (∃ (s : State) (b l : Nat) (pc : DWord) (d a : BitVec 6) (o : BitVec 8) (q : BitVec 4) (off : Nat) (ver : Option Nat) (dev : Bool)
    (v : Word), (s.thread b l).st = .parked .await ∧ (s.bundle b).resident = true ∧ s.standing b l = some (pc, .await d a o q) ∧ b <
    s.bundles.length ∧ s.locate b l (pairOf (s.readV b l) a.toNat + o.signExtend 64 * 4) 4 q.toNat .read = (s, .mem off ver dev) ∧ unheld
    s off ∧ s.racing (s.spot b (laneBit l) q.toNat dev off 4 ver) = [] ∧ s.touched (s.spot b (laneBit l) q.toNat dev off 4 ver) false = []
    ∧ v = (wordFrom (seenByte s b l q.toNat ver) off).val ∧ v ≠ (s.readV b l d.toNat).val) ∧
  (∃ (s m : State) (b n : Nat) (o : LateOp) (vs : List (Nat × Nat × Reg)), (s.bundle b).live = true ∧ (s.bundle b).late[n]? = some o ∧
    s.reload b o.pc o.loads = (m, vs) ∧ m.bundle b = { s.bundle b with threads := (m.bundle b).threads } ∧ ((∀ w ∈ o.lanes, w.clash =
    false)) ∧ ((∀ w ∈ o.unis, w.clash = false))) :=
  ⟨⟨withMem 0x10000 [1] data, 12, 10, 0, 0, fun _ => 0x10000, none, fun _ => false, issues_of (by decide +kernel), passes_of (by
      decide +kernel), active_of (by decide +kernel) ⟨by decide +kernel, unheld_of (by decide +kernel), ⟨by decide +kernel, by
      decide +kernel⟩, fun _ => unseen_of (by decide +kernel), by decide +kernel⟩, by decide +kernel⟩,
    ⟨data, 12, 10, 0, 0, fun _ => 0x10000, none, fun _ => false, issues_of (by decide +kernel), passes_of (by decide +kernel), active_of
      (by decide +kernel) ⟨by decide +kernel, unheld_of (by decide +kernel), ⟨by decide +kernel, by decide +kernel⟩, fun _ => unseen_of
      (by decide +kernel), by decide +kernel⟩, by decide +kernel⟩,
    ⟨data, 10, 0, 0, issues_of (by decide +kernel), passes_of (by decide +kernel)⟩,
    ⟨awaiting [], 0, 0, 0x10040, 12, 10, 0, 0, 0x10000, none, false, 0, by decide +kernel, by decide +kernel, by decide +kernel, by
      decide +kernel, by decide +kernel, unheld_of (by decide +kernel), by decide +kernel⟩,
    ⟨awaiting [4, 3, 2, 1], 0, 0, 0x10040, 12, 10, 0, 0, 0x10000, none, false, 0x01020304, by decide +kernel, by decide +kernel, by
      decide +kernel, by decide +kernel, by decide +kernel, unheld_of (by decide +kernel), by decide +kernel⟩,
    ⟨loading, _, 0, 0, ⟨0x10040, some 3, [⟨0, 12, ⟨0xFFFFFFFF, .int⟩, false⟩], [], [], []⟩, _, by decide +kernel, by decide +kernel,
      (Prod.eta _).symm, by decide +kernel⟩⟩

/-- Witnesses for `Obligations.StashWindows`. -/
theorem test_StashWindows :
  (∃ (s : State) (i : Instr) (d a b : BitVec 6) (q : BitVec 4) (mode : WinMode) (k : Nat), smapForm d a b q mode i ∧ s.issues i ∧
    s.uniTrap [⟨a.toNat, 2, .any⟩, ⟨b.toNat, 1, .any⟩] = none ∧ MayMap s (s.u64 a).toNat (s.u32 b).toNat ∧ freeWindow s k ∧ stashRoom s
    (s.u32 b).toNat ∧ nothingOut s ∧ s.curTeam < s.teams.length) ∧
  (∃ (s : State) (i : Instr) (d a b : BitVec 6) (q : BitVec 4) (mode : WinMode) (k : Nat), smapForm d a b q mode i ∧ s.issues i ∧
    s.uniTrap [⟨a.toNat, 2, .any⟩, ⟨b.toNat, 1, .any⟩] = none ∧ MayMap s (s.u64 a).toNat (s.u32 b).toNat ∧ freeWindow s k ∧ stashRoom s
    (s.u32 b).toNat ∧ nothingOut s ∧ s.curTeam < s.teams.length) ∧
  (∃ (s : State) (i : Instr) (d a b : BitVec 6) (q : BitVec 4) (mode : WinMode) (k : Nat), smapForm d a b q mode i ∧ s.issues i ∧
    s.uniTrap [⟨a.toNat, 2, .any⟩, ⟨b.toNat, 1, .any⟩] = none ∧ MayMap s (s.u64 a).toNat (s.u32 b).toNat ∧ freeWindow s k ∧ (¬ stashRoom s
    (s.u32 b).toNat)) ∧
  (∃ (s : State) (i : Instr) (d a b : BitVec 6) (q : BitVec 4) (mode : WinMode) (w : Window), smapForm d a b q mode i ∧ s.issues i ∧
    s.uniTrap [⟨a.toNat, 2, .any⟩, ⟨b.toNat, 1, .any⟩] = none ∧ mapSize (s.u32 b).toNat ∧ mapPlace (s.u64 a).toNat (s.u32 b).toNat ∧ w ∈
    (s.team s.curTeam).windows ∧ ((s.u64 a).toNat < w.base.toNat + w.size ∧ w.base.toNat < (s.u64 a).toNat + (s.u32 b).toNat)) ∧
  (∃ (s : State) (d b : BitVec 6) (k : Nat), s.issues (.smapScratch d b) ∧ s.uniTrap [⟨b.toNat, 1, .any⟩] = none ∧ mapSize (s.u32 b).toNat
    ∧ freeWindow s k ∧ ((∀ w ∈ (s.team s.curTeam).windows, w.base.toNat + w.size ≤ 0xFFFF0000000000 + 2 ^ 39)) ∧ stashRoom s (s.u32
    b).toNat ∧ nothingOut s ∧ s.curTeam < s.teams.length) ∧
  (∃ (s : State) (a : BitVec 6) (w : Window), s.issues (.sunmap a) ∧ s.uniTrap (s.firstUses [⟨a.toNat, 2, .any⟩]) = none ∧ (s.team
    s.curTeam).windows.find? (fun w => w.base == s.argS 0 a.toNat && w.num != 0) = some w) :=
  ⟨⟨withS 12 0x80000 data, .smapRw 14 10 12 5, 14, 10, 12, 5, .rw, 1, Or.inl ⟨rfl, rfl⟩, issues_of (by decide +kernel), by
      decide +kernel, ⟨by decide +kernel, by decide +kernel, by decide +kernel⟩, freeWindow_of (by decide +kernel) (by decide +kernel) (by
      decide +kernel), (by unfold stashRoom; decide +kernel), nothingOut_of (by decide +kernel), by decide +kernel⟩,
    ⟨withS 12 0x80 data, .smapRo 62 10 12 15, 62, 10, 12, 15, .ro, 1, Or.inr ⟨rfl, rfl⟩, issues_of (by decide +kernel), by decide +kernel,
      ⟨by decide +kernel, by decide +kernel, by decide +kernel⟩, freeWindow_of (by decide +kernel) (by decide +kernel) (by
      decide +kernel), (by unfold stashRoom; decide +kernel), nothingOut_of (by decide +kernel), by decide +kernel⟩,
    ⟨withS 12 0x80080 data, .smapRw 14 10 12 5, 14, 10, 12, 5, .rw, 1, Or.inl ⟨rfl, rfl⟩, issues_of (by decide +kernel), by
      decide +kernel, ⟨by decide +kernel, by decide +kernel, by decide +kernel⟩, freeWindow_of (by decide +kernel) (by decide +kernel) (by
      decide +kernel), (by unfold stashRoom; decide +kernel)⟩,
    ⟨withS 12 0x80 mapped, .smapRo 62 10 12 0, 62, 10, 12, 0, .ro, ⟨1, 0x20000, 0x80000, .rw, 5, false, [], []⟩, Or.inr ⟨rfl, rfl⟩,
      issues_of (by decide +kernel), by decide +kernel, (by decide +kernel), (by decide +kernel), by decide +kernel⟩,
    ⟨withS 12 0x80000 data, 14, 12, 1, issues_of (by decide +kernel), by decide +kernel, (by decide +kernel), freeWindow_of (by
      decide +kernel) (by decide +kernel) (by decide +kernel), by decide +kernel, (by unfold stashRoom; decide +kernel), nothingOut_of (by
      decide +kernel), by decide +kernel⟩,
    ⟨mapped, 10, ⟨1, 0x20000, 0x80000, .rw, 5, false, [], []⟩, issues_of (by decide +kernel), by decide +kernel⟩⟩

/-- Witnesses for `Obligations.StashFlushAndStatus`. -/
theorem test_StashFlushAndStatus :
  (∃ (s : State) (a b : BitVec 6) (win : Window) (l : Line), s.issues (.sflush a b) ∧ s.uniTrap [⟨a.toNat, 2, .any⟩, ⟨b.toNat, 1, .any⟩] =
    none ∧ OwnLine s s.curTeam win.num l.num win l ∧ (s.team s.curTeam).windows = [win] ∧ win.lines = [l] ∧ win.mode ≠ .scratch ∧ (l.st =
    .dirty ∨ l.st = .writing) ∧ lineIn win l.num (s.u64 a).toNat (s.u32 b).toNat ∧ s.memOk) ∧
  (∃ (s : State) (a b : BitVec 6) (win : Window) (l : Line), s.issues (.sflush a b) ∧ s.uniTrap [⟨a.toNat, 2, .any⟩, ⟨b.toNat, 1, .any⟩] =
    none ∧ OwnLine s s.curTeam win.num l.num win l ∧ (s.team s.curTeam).windows = [win] ∧ win.lines = [l] ∧ win.mode ≠ .scratch ∧ (l.st =
    .dirty ∨ l.st = .writing) ∧ lineIn win l.num (s.u64 a).toNat (s.u32 b).toNat ∧ s.memOk) ∧
  (∃ (s : State) (a b : BitVec 6), s.issues (.sflush a b) ∧ s.uniTrap [⟨a.toNat, 2, .any⟩, ⟨b.toNat, 1, .any⟩] = none ∧ ((∀ w ∈ (s.team
    s.curTeam).windows, w.mode ≠ .scratch → ∀ l ∈ w.lines, l.st = .dirty ∨ l.st = .writing → ¬ lineIn w l.num (s.u64 a).toNat (s.u32
    b).toNat))) ∧
  (∃ (s : State) (a b : BitVec 6), s.issues (.sinv a b) ∧ s.uniTrap [⟨a.toNat, 2, .any⟩, ⟨b.toNat, 1, .any⟩] = none ∧ (s.u64 a).toNat %
    128 = 0 ∧ (s.u32 b).toNat % 128 = 0 ∧ s.curTeam < s.teams.length) ∧
  (∃ (s : State) (d a : BitVec 6), s.issues (.sstat d a 0) ∧ s.uniTrap [⟨a.toNat, 2, .any⟩] = none) ∧
  (∃ (s : State) (d a : BitVec 6), s.issues (.sstat d a 1) ∧ s.uniTrap [⟨a.toNat, 2, .any⟩] = none) ∧
  (∃ (s : State) (d a : BitVec 6), s.issues (.sstat d a 2)) :=
  ⟨⟨lined .dirty 0, 10, 12, ⟨1, 0x20000, 0x1000, .rw, 5, false, [⟨1, .dirty, true, 0x10080, false, 0x0201, 3, 0, 0, false, none⟩], []⟩,
      ⟨1, .dirty, true, 0x10080, false, 0x0201, 3, 0, 0, false, none⟩, issues_of (by decide +kernel), by decide +kernel, ⟨by
      decide +kernel, rfl, rfl, by decide +kernel, by decide +kernel, by decide +kernel, (by decide +kernel), lineAlone_of (by
      decide +kernel), counted_of (by decide +kernel) (by decide +kernel)⟩, by decide +kernel, by decide +kernel, by decide +kernel, by
      decide +kernel, by decide +kernel, (by unfold State.memOk; decide +kernel)⟩,
    ⟨lined .writing 1, 10, 12, ⟨1, 0x20000, 0x1000, .rw, 5, false, [⟨1, .writing, true, 0x10080, false, 0x0201, 3, 1, 0, false, none⟩],
      []⟩, ⟨1, .writing, true, 0x10080, false, 0x0201, 3, 1, 0, false, none⟩, issues_of (by decide +kernel), by decide +kernel, ⟨by
      decide +kernel, rfl, rfl, by decide +kernel, by decide +kernel, by decide +kernel, (by decide +kernel), lineAlone_of (by
      decide +kernel), counted_of (by decide +kernel) (by decide +kernel)⟩, by decide +kernel, by decide +kernel, by decide +kernel, by
      decide +kernel, by decide +kernel, (by unfold State.memOk; decide +kernel)⟩,
    ⟨lined .clean 0, 10, 12, issues_of (by decide +kernel), by decide +kernel⟩,
    ⟨lined .clean 0, 10, 12, issues_of (by decide +kernel), by decide +kernel⟩,
    ⟨lined .clean 0, 14, 10, issues_of (by decide +kernel), by decide +kernel⟩,
    ⟨lined .clean 0, 14, 10, issues_of (by decide +kernel), by decide +kernel⟩,
    ⟨lined .clean 0, 14, 0, issues_of (by decide +kernel)⟩⟩

/-- Witnesses for `Obligations.StashEvents`. -/
theorem test_StashEvents :
  (∃ (s : State) (x w n : Nat) (win : Window) (l : Line), OwnLine s x w n win l ∧ l.st = .filling) ∧
  (∃ (s : State) (x w n : Nat) (win : Window) (l : Line) (_store : Bool), OwnLine s x w n win l ∧ l.st ≠ .filling ∧ s.memOk) ∧
  (∃ (s : State) (x w n : Nat) (win : Window) (l : Line) (_store : Bool), OwnLine s x w n win l ∧ l.st ≠ .filling ∧ s.memOk) ∧
  (∃ (s : State) (x w n : Nat) (win : Window) (l : Line), OwnLine s x w n win l ∧ l.st = .writing) ∧
  (∃ (s : State) (x w n : Nat) (win : Window) (l : Line), OwnLine s x w n win l ∧ l.st = .writing ∧ l.redirty = 0) ∧
  (∃ (s : State) (x w n : Nat) (win : Window) (l : Line), OwnLine s x w n win l ∧ l.st = .writing ∧ l.redirty ≠ 0 ∧ l.again = true ∧
    s.memOk) ∧
  (∃ (s : State) (x w n : Nat) (win : Window) (l : Line), OwnLine s x w n win l ∧ l.st = .dirty ∧ s.memOk) ∧
  (∃ (s : State) (x w n : Nat) (win : Window) (l : Line), OwnLine s x w n win l ∧ w < 16 ∧ l.st = .clean) ∧
  (∃ (s : State) (x w n : Nat) (win : Window) (l : Line), OwnLine s x w n win l ∧ w < 16 ∧ l.st = .dirty) :=
  ⟨⟨lined .filling 0, 0, 1, 1, _, _, ⟨by decide +kernel, rfl, rfl, by decide +kernel, by decide +kernel, by decide +kernel, by
      decide +kernel, lineAlone_of (by decide +kernel), counted_of (by decide +kernel) (by decide +kernel)⟩, by decide +kernel⟩,
    ⟨lined .dirty 0, 0, 1, 1, _, _, true, ⟨by decide +kernel, rfl, rfl, by decide +kernel, by decide +kernel, by decide +kernel, by
      decide +kernel, lineAlone_of (by decide +kernel), counted_of (by decide +kernel) (by decide +kernel)⟩, by decide +kernel,
      (by unfold State.memOk; decide +kernel)⟩,
    ⟨lined .clean 0, 0, 1, 1, _, _, false, ⟨by decide +kernel, rfl, rfl, by decide +kernel, by decide +kernel, by decide +kernel, by
      decide +kernel, lineAlone_of (by decide +kernel), counted_of (by decide +kernel) (by decide +kernel)⟩, by decide +kernel,
      (by unfold State.memOk; decide +kernel)⟩,
    ⟨lined .writing 1, 0, 1, 1, _, _, ⟨by decide +kernel, rfl, rfl, by decide +kernel, by decide +kernel, by decide +kernel, by
      decide +kernel, lineAlone_of (by decide +kernel), counted_of (by decide +kernel) (by decide +kernel)⟩, by decide +kernel⟩,
    ⟨lined .writing 0, 0, 1, 1, _, _, ⟨by decide +kernel, rfl, rfl, by decide +kernel, by decide +kernel, by decide +kernel, by
      decide +kernel, lineAlone_of (by decide +kernel), counted_of (by decide +kernel) (by decide +kernel)⟩, by decide +kernel⟩,
    ⟨lined .writing 1 true, 0, 1, 1, _, _, ⟨by decide +kernel, rfl, rfl, by decide +kernel, by decide +kernel, by decide +kernel, by
      decide +kernel, lineAlone_of (by decide +kernel), counted_of (by decide +kernel) (by decide +kernel)⟩, by decide +kernel, by
      decide +kernel, by decide +kernel, (by unfold State.memOk; decide +kernel)⟩,
    ⟨lined .dirty 0, 0, 1, 1, _, _, ⟨by decide +kernel, rfl, rfl, by decide +kernel, by decide +kernel, by decide +kernel, by
      decide +kernel, lineAlone_of (by decide +kernel), counted_of (by decide +kernel) (by decide +kernel)⟩, by decide +kernel,
      (by unfold State.memOk; decide +kernel)⟩,
    ⟨lined .clean 0, 0, 1, 1, _, _, ⟨by decide +kernel, rfl, rfl, by decide +kernel, by decide +kernel, by decide +kernel, by
      decide +kernel, lineAlone_of (by decide +kernel), counted_of (by decide +kernel) (by decide +kernel)⟩, by decide +kernel⟩,
    ⟨lined .dirty 0, 0, 1, 1, _, _, ⟨by decide +kernel, rfl, rfl, by decide +kernel, by decide +kernel, by decide +kernel, by
      decide +kernel, lineAlone_of (by decide +kernel), counted_of (by decide +kernel) (by decide +kernel)⟩, by decide +kernel⟩⟩

/-- Witnesses for `Obligations.PostingWords`. -/
theorem test_PostingWords :
  (∃ (s m : State) (d a : BitVec 6) (bs : List Byte) (x : CopySpec), s.issues (.cpy d a) ∧ s.cur.bundle < s.bundles.length ∧ s.uniTrap
    [⟨a.toNat, 2, .any⟩] = none ∧ s.curB.posting = none ∧ (s.u64 a).toNat % 32 = 0 ∧ s.readBlock .engineRead (s.u64 a) 4 = (m, .ok bs) ∧
    m.bare = s.bare ∧ copyOfRecord bs = some x ∧ m.copyTrap x (field bs 27 1) = none ∧ pagesReady m (field bs 27 1) (.copy x) ∧ linesReady
    m (posted m d (.copy x) (field bs 27 1) 0 false false)) ∧
  (∃ (s : State) (d a : BitVec 6) (p : Nat → Word) (m : MatSpec), s.issues (.mmpost d a) ∧ s.cur.bundle < s.bundles.length ∧ s.uniTrap
    [⟨a.toNat, 8, .int⟩] = none ∧ s.curB.posting = none ∧ s.curB.w ≠ 16 ∧ p = (fun i => (s.readS s.cur.bundle (a.toNat + i)).val) ∧
    matOfBlock s.curB.w p = some m ∧ ((∀ l < s.curB.threads.length, s.matLaneTrap m l = none)) ∧ s.matStashTrap m = none ∧ linesReady s
    (posted s d (.matrix m) 0 0 false false)) ∧
  (∃ (s m n : State) (d a : BitVec 6) (bs ts : List Byte) (x y : CollSpec) (table : DWord), s.issues (.coll d a) ∧ s.cur.bundle <
    s.bundles.length ∧ s.uniTrap [⟨a.toNat, 2, .any⟩] = none ∧ s.curB.posting = none ∧ (s.u64 a).toNat % 64 = 0 ∧ s.readBlock .engineRead
    (s.u64 a) 8 = (m, .ok bs) ∧ collOfBlock bs = some (x, table) ∧ m.readTable table x.members.length = (n, .ok ts) ∧ n.bare = s.bare ∧
    n.badMembers x ((List.range x.members.length).map (fun i => field ts (2 * i) 2)) = false ∧ ((n.versioned n.curTeam = true →
    n.streamDirect n.cur.bundle (field bs 43 1) = true)) ∧ x.send.toNat % (collElement x.fmt.toNat).getD 1 = 0 ∧ x.recv.toNat %
    (collElement x.fmt.toNat).getD 1 = 0 ∧ x.send.toNat + x.sizes.1 ≤ 2 ^ 56 ∧ x.recv.toNat + x.sizes.2 ≤ 2 ^ 56 ∧ rangesMeet x.send.toNat
    x.sizes.1 0xFFFF0000000000 (2 ^ 40) = false ∧ rangesMeet x.recv.toNat x.sizes.2 0xFFFF0000000000 (2 ^ 40) = false ∧ (pagesOf
    [(x.send.toNat, x.sizes.1), (x.recv.toNat, x.sizes.2), (table.toNat, 2 * x.members.length)]).length ≤ 1024 ∧ y =
    { x with members := (List.range x.members.length).map (fun i => BitVec.ofNat 9 (field ts (2 * i) 2)) } ∧ pagesReady n (field bs 43 1)
    (.coll y)) :=
  ⟨⟨withMem 0x10000 copyRecord scratch, _, 20, 10, copyRecord, ⟨0x20100, 0xFFFF0000000080, 2, 128, 256, 128, 4, 0⟩, issues_of (by
      decide +kernel), by decide +kernel, by decide +kernel, by decide +kernel, (by decide +kernel), second_of (by decide +kernel), by
      decide +kernel, by decide +kernel, by decide +kernel, pages_of (ps := [⟨2, 65536, false⟩]) (by decide +kernel) (by decide +kernel),
      (by unfold linesReady; decide +kernel)⟩,
    ⟨posting, 24, 16, _, ⟨0x11, 0x11, 2, 40, 8, true, false, false, 0, 0xFFFF0000000000, 0, 4, 0, 0, 17⟩, issues_of (by decide +kernel),
      by decide +kernel, by decide +kernel, by decide +kernel, (by decide +kernel), rfl, by decide +kernel, by decide +kernel, by
      decide +kernel, (by unfold linesReady; decide +kernel)⟩,
    ⟨withMem 0x10000 (collBlock ++ [0, 0, 1, 0]) (linked data), _, _, 24, 10, collBlock, [0, 0, 1, 0], ⟨0x20200, 0x20300, 1, [0, 0], 7, 0,
      0, 0, 0x12, 0⟩, _, 0x20040, issues_of (by decide +kernel), by decide +kernel, by decide +kernel, by decide +kernel, by
      decide +kernel, second_of (by decide +kernel), by decide +kernel, second_of (by decide +kernel), by decide +kernel, by
      decide +kernel, by decide +kernel, by decide +kernel, by decide +kernel, (by decide +kernel), by decide +kernel, by decide +kernel, by
      decide +kernel, by decide +kernel, rfl, pages_of (ps := [⟨2, 65536, false⟩, ⟨2, 65536, false⟩]) (by decide +kernel) (by
      decide +kernel)⟩⟩

/-- Witnesses for `Obligations.CommandAccepted`. -/
theorem test_CommandAccepted :
  (∃ (s : State) (b : Nat) (p : Posting) (x : Context) (pins : List Pin), (s.bundle b).posting = some p ∧ p.cmd.bundle = b ∧ b <
    s.bundles.length ∧ p.ready.isSome = true ∧ linesReady s p.cmd ∧ s.pinGlobals (s.bundle b).coreNo p.cmd.asid p.cmd.stream
    p.cmd.spec.pages = (s, .inr pins) ∧ ((∀ c l, ∀ x ∈ (s.thread c l).stores, s.shows b c x = false)) ∧ s.queueSpace p.cmd = true ∧
    hasWork p.cmd ∧ operandsStand s p.cmd ∧ s.ctxs.find? (fun c => c.asid == p.cmd.asid) = some x ∧ ((∀ l, checkingLane s b p l →
    (s.thread b l).out = []))) ∧
  (∃ (s : State) (b : Nat) (p : Posting) (x : Context) (pins : List Pin), (s.bundle b).posting = some p ∧ p.cmd.bundle = b ∧ b <
    s.bundles.length ∧ p.ready.isSome = true ∧ linesReady s p.cmd ∧ s.pinGlobals (s.bundle b).coreNo p.cmd.asid p.cmd.stream
    p.cmd.spec.pages = (s, .inr pins) ∧ ((∀ c l, ∀ x ∈ (s.thread c l).stores, s.shows b c x = false)) ∧ s.queueSpace p.cmd = true ∧
    hasWork p.cmd ∧ operandsStand s p.cmd ∧ s.ctxs.find? (fun c => c.asid == p.cmd.asid) = some x ∧ ((∀ l, checkingLane s b p l →
    (s.thread b l).out = []))) ∧
  (∃ (s : State) (b : Nat) (p : Posting) (x : Context) (pins : List Pin), (s.bundle b).posting = some p ∧ p.cmd.bundle = b ∧ b <
    s.bundles.length ∧ p.ready.isSome = true ∧ linesReady s p.cmd ∧ s.pinGlobals (s.bundle b).coreNo p.cmd.asid p.cmd.stream
    p.cmd.spec.pages = (s, .inr pins) ∧ ((∀ c l, ∀ x ∈ (s.thread c l).stores, s.shows b c x = false)) ∧ s.queueSpace p.cmd = true ∧
    hasWork p.cmd ∧ operandsStand s p.cmd ∧ s.ctxs.find? (fun c => c.asid == p.cmd.asid) = some x ∧ ((∀ l, checkingLane s b p l →
    (s.thread b l).out = []))) :=
  ⟨⟨checking (command .queued copySpec []) (scratch), 0, ⟨1, command .queued copySpec [], some 0⟩, _, [⟨2, 65536, false⟩], by
      decide +kernel, by decide +kernel, by decide +kernel, by decide +kernel, (by unfold linesReady; decide +kernel), pairIs_of (by
      decide +kernel) (by decide +kernel), hidden_of (by decide +kernel) _, by decide +kernel, hasWork_of (by decide +kernel),
      operandsNone_of (by decide +kernel), get_of (by decide +kernel), fun l _ => nothingOut_of (by decide +kernel) 0 l⟩,
    ⟨checking (command .queued (.matrix matSpec) []) (posting), 0, ⟨1, command .queued (.matrix matSpec) [], some 0⟩, _, [], by
      decide +kernel, by decide +kernel, by decide +kernel, by decide +kernel, (by unfold linesReady; decide +kernel), pairIs_of (by
      decide +kernel) (by decide +kernel), hidden_of (by decide +kernel) _, by decide +kernel, hasWork_of (by decide +kernel),
      operandsStand_of rfl (by decide +kernel), get_of (by decide +kernel), fun l _ => nothingOut_of (by decide +kernel) 0 l⟩,
    ⟨checking (command .queued (.coll collSpec) []) (linked data), 0, ⟨1, command .queued (.coll collSpec) [], some 0⟩, _, [⟨2, 65536,
      false⟩, ⟨2, 65536, false⟩], by decide +kernel, by decide +kernel, by decide +kernel, (by decide +kernel),
      (by unfold linesReady; decide +kernel), pairIs_of (by decide +kernel) (by decide +kernel), hidden_of (by decide +kernel) _, by
      decide +kernel, hasWork_of (by decide +kernel), operandsNone_of (by decide +kernel), get_of (by decide +kernel), fun l _ =>
      nothingOut_of (by decide +kernel) 0 l⟩⟩

/-- Witnesses for `Obligations.Engines`. -/
theorem test_Engines :
  (∃ (s : State) (i : Nat) (c : Cmd) (x : CopySpec), s.cmd? i = some c ∧ c.spec = .copy x ∧ c.st = .queued) ∧
  (∃ (s : State) (i : Nat) (c : Cmd) (m : MatSpec), s.cmd? i = some c ∧ c.spec = .matrix m ∧ c.st = .queued ∧ ((∀ j < i, ∀ y, s.cmd? j =
    some y → y.spec.kind = 1 → s.cmdCore y = s.cmdCore c → y.st ≠ .queued ∧ y.st ≠ .running))) ∧
  (∃ (s : State) (i : Nat) (c : Cmd) (m : MatSpec), s.cmd? i = some c ∧ c.spec = .matrix m ∧ c.st = .queued ∧ ((∀ j < i, ∀ y, s.cmd? j =
    some y → y.spec.kind = 1 → s.cmdCore y = s.cmdCore c → y.st ≠ .queued ∧ y.st ≠ .running))) ∧
  (∃ (s m : State) (i : Nat) (c : Cmd) (x : CopySpec), s.cmd? i = some c ∧ c.spec = .copy x ∧ c.st = .running ∧ c.paused = false ∧
    s.copyLost c x = false ∧ ((s.handlerBundle (s.bundle c.bundle).pid (s.bundle c.bundle).core = none ∧ m = (x.beats.drop
    c.progress).foldl (fun s b => s.copyBeat i c x b) s) ∨ (s.handlerBundle (s.bundle c.bundle).pid (s.bundle c.bundle).core ≠ none ∧
    s.copyBeats i c x (x.beats.drop c.progress) = (m, none, [])))) ∧
  (∃ (s : State) (i : Nat) (c : Cmd) (m : MatSpec) (ops : List Byte), s.cmd? i = some c ∧ c.spec = .matrix m ∧ c.st = .running ∧ ((∀ d,
    c.due = some d → d ≤ s.clk)) ∧ c.orphan = false ∧ s.operandBytes c (m.ranges (s.bundle c.bundle).w) = (s, ops) ∧ c.snap = ops) ∧
  (∃ (s : State) (i : Nat) (c : Cmd) (m : MatSpec), s.cmd? i = some c ∧ c.spec = .matrix m ∧ c.st = .running ∧ ((∀ d, c.due = some d → d ≤
    s.clk)) ∧ c.orphan = true) ∧
  (∃ (s : State) (i : Nat) (c : Cmd) (x : CollSpec) (r r' : BitVec 3) (_f : BitVec 5), s.cmd? i = some c ∧ c.spec = .coll x ∧ c.st =
    .running ∧ r.toNat ≤ 2 ∧ r' = (if s.collLost x then 1 else r)) ∧
  (∃ (s : State) (i : Nat) (c : Cmd) (m : MatSpec), s.cmd? i = some c ∧ c.spec = .matrix m ∧ c.st = .running ∧ ((∃ d, c.due = some d ∧
    s.clk < d))) :=
  ⟨⟨withCmd (command .queued copySpec []) scratch, 0, _, _, rfl, rfl, by decide +kernel⟩,
    ⟨withCmd (command .queued (.matrix matSpec) []) posting, 0, _, _, rfl, rfl, by decide +kernel, fun j h => absurd h (Nat.not_lt_zero
      j)⟩,
    ⟨{ posting with cmds := [command .done (.matrix matSpec) [], command .queued (.matrix matSpec) []] }, 1, _, _, rfl, rfl, by
      decide +kernel, lane_one (some_of rfl (by decide +kernel))⟩,
    ⟨withCmd (command .running copySpec []) scratch, _, 0, _, _, rfl, rfl, by decide +kernel, by decide +kernel, by decide +kernel, Or.inl
      ⟨by decide +kernel, rfl⟩⟩,
    ⟨withCmd (command .running (.matrix matSpec) (List.replicate 128 0)) posting, 0, _, _, (List.replicate 128 0), rfl, rfl, by
      decide +kernel, none_of rfl, by decide +kernel, pairIs_of (by decide +kernel) (by decide +kernel), by decide +kernel⟩,
    ⟨withCmd { command .running (.matrix matSpec) [] with orphan := true } posting, 0, _, _, rfl, rfl, by decide +kernel, none_of rfl, by
      decide +kernel⟩,
    ⟨withCmd (command .running (.coll collSpec) []) (linked data), 0, _, _, 2, _, 31, rfl, rfl, by decide +kernel, by decide +kernel, rfl⟩,
    ⟨withCmd { command .running (.matrix matSpec) [] with due := some 20 } posting, 0, _, _, rfl, rfl, by decide +kernel, ⟨20, rfl, by
      decide +kernel⟩⟩⟩

/-- Witnesses for `Obligations.EngineWords`. -/
theorem test_EngineWords :
  (∃ s : State, s.issues .mmfence ∧ (s.curB.late = [] ∧ s.curB.flags = 0)) ∧
  (∃ s : State, s.issues .mmfence ∧ (¬ (s.curB.late = [] ∧ s.curB.flags = 0))) ∧
  (∃ (s : State) (a : BitVec 6), s.issues (.twait a) ∧ s.curB.pairPending a.toNat = false ∧ (∃ i c, s.cmd? i = some c ∧ observes s a c)) ∧
  (∃ (s : State) (a : BitVec 6), s.issues (.twait a) ∧ s.curB.pairPending a.toNat = true) ∧
  (∃ (s : State) (i : BitVec 12), s.issues (.stamp i) ∧ s.curCtx.stampdesc = 0) :=
  ⟨⟨one, issues_of (by decide +kernel), by decide +kernel⟩,
    ⟨one.modBundle 0 (fun b => { b with flags := 1 }), issues_of (by decide +kernel), by decide +kernel⟩,
    ⟨withCmd (command .done copySpec []) scratch, 24, issues_of (by decide +kernel), by decide +kernel, ⟨0, _, rfl, rfl, rfl, rfl, Or.inl
      rfl⟩⟩,
    ⟨scratch.modBundle 0 (fun b => { b with s := b.s.set 24 ⟨0, .pend⟩ }), 24, issues_of (by decide +kernel), by decide +kernel⟩,
    ⟨one, 0xFFF, issues_of (by decide +kernel), by decide +kernel⟩⟩

/-- Witnesses for `Obligations.BarrierInitAndArrival`. -/
theorem test_BarrierInitAndArrival :
  (∃ (s : State) (a : BitVec 6) (l : BitVec 2) (n : BitVec 4) (r : BarRef), s.issues (.binit a l n) ∧ ProgBar s l n r ∧ s.uniTrap
    [⟨a.toNat, 1, .int⟩] = none ∧ (s.bar r).counting = false ∧ (s.u32 a).toNat ≤ 65536) ∧
  (∃ (s : State) (a : BitVec 6) (l : BitVec 2) (n : BitVec 4) (r : BarRef), s.issues (.binit a l n) ∧ ProgBar s l n r ∧ s.uniTrap
    [⟨a.toNat, 1, .int⟩] = none ∧ (s.bar r).counting = false ∧ (s.u32 a).toNat ≤ 65536) ∧
  (∃ (s : State) (a : BitVec 6) (l : BitVec 2) (n : BitVec 4) (r : BarRef), s.issues (.binit a l n) ∧ ProgBar s l n r ∧ s.uniTrap
    [⟨a.toNat, 1, .int⟩] = none ∧ ((s.bar r).counting = true ∨ (s.u32 a).toNat > 65536)) ∧
  (∃ (s : State) (d : BitVec 6) (l : BitVec 2) (n : BitVec 4), s.issues (.barrive d l n) ∧ Arrival s l n ∧ (¬ allCounted s n.toNat)) ∧
  (∃ (s : State) (d : BitVec 6) (l : BitVec 2) (n : BitVec 4), s.issues (.barrive d l n) ∧ Arrival s l n ∧ allCounted s n.toNat) ∧
  (∃ (s : State) (l : BitVec 2) (n : BitVec 4), s.issues (.bsync l n) ∧ Arrival s l n ∧ (¬ allCounted s n.toNat)) ∧
  (∃ (s : State) (l : BitVec 2) (n : BitVec 4), s.issues (.bsync l n) ∧ Arrival s l n ∧ allCounted s n.toNat) :=
  ⟨⟨withS 12 65536 one, 12, 1, 11, _, issues_of (by decide +kernel), ⟨rfl, by decide +kernel, ⟨by decide +kernel, by decide +kernel⟩⟩, by
      decide +kernel⟩,
    ⟨withS 12 0 (one.modPack 0 (fun p => { p with formed := true })), 12, 2, 3, _, issues_of (by decide +kernel), ⟨rfl, by decide +kernel,
      (by decide +kernel : 0 < 1)⟩, by decide +kernel⟩,
    ⟨withS 12 65537 one, 12, 1, 0, _, issues_of (by decide +kernel), ⟨rfl, by decide +kernel, ⟨by decide +kernel, by decide +kernel⟩⟩, by
      decide +kernel⟩,
    ⟨two, 12, 1, 11, issues_of (by decide +kernel), ⟨rfl, by decide +kernel, by decide +kernel, by decide +kernel, (by decide +kernel), by
      decide +kernel, by decide +kernel, by decide +kernel, teamQuiet_of (by decide +kernel) (by decide +kernel), by decide +kernel⟩,
      notCounted_of 0 1 (by decide +kernel) (by decide +kernel) (by decide +kernel) (by decide +kernel)⟩,
    ⟨one, 12, 1, 0, issues_of (by decide +kernel), ⟨rfl, by decide +kernel, by decide +kernel, by decide +kernel, (by decide +kernel), by
      decide +kernel, by decide +kernel, by decide +kernel, teamQuiet_of (by decide +kernel) (by decide +kernel), by decide +kernel⟩,
      allCounted_of (by decide +kernel) (by decide +kernel) (by decide +kernel)⟩,
    ⟨two, 1, 0, issues_of (by decide +kernel), ⟨rfl, by decide +kernel, by decide +kernel, by decide +kernel, (by decide +kernel), by
      decide +kernel, by decide +kernel, by decide +kernel, teamQuiet_of (by decide +kernel) (by decide +kernel), by decide +kernel⟩,
      notCounted_of 0 1 (by decide +kernel) (by decide +kernel) (by decide +kernel) (by decide +kernel)⟩,
    ⟨one, 1, 11, issues_of (by decide +kernel), ⟨rfl, by decide +kernel, by decide +kernel, by decide +kernel, (by decide +kernel), by
      decide +kernel, by decide +kernel, by decide +kernel, teamQuiet_of (by decide +kernel) (by decide +kernel), by decide +kernel⟩,
      allCounted_of (by decide +kernel) (by decide +kernel) (by decide +kernel)⟩⟩

/-- Witnesses for `Obligations.BarrierWaitAndPay`. -/
theorem test_BarrierWaitAndPay :
  (∃ (s : State) (a : BitVec 6) (l : BitVec 2) (n : BitVec 4) (r : BarRef), s.issues (.bwait a l n) ∧ ProgBar s l n r ∧ s.uniTrap
    [⟨a.toNat, 1, .int⟩] = none ∧ ((∀ j ∈ s.issued, (s.curB.thread j).st = .ready)) ∧ (s.bar r).drift = [] ∧ (s.u32 a - (s.bar
    r).gen).toNat < 2 ^ 31) ∧
  (∃ (s : State) (a : BitVec 6) (l : BitVec 2) (n : BitVec 4) (r : BarRef), s.issues (.bwait a l n) ∧ ProgBar s l n r ∧ s.uniTrap
    [⟨a.toNat, 1, .int⟩] = none ∧ ((∀ j ∈ s.issued, (s.curB.thread j).st = .ready)) ∧ (s.bar r).drift = [] ∧ (s.u32 a - (s.bar
    r).gen).toNat ≥ 2 ^ 31) ∧
  (∃ (s : State) (d a : BitVec 6) (p : BitVec 3) (l : BitVec 2) (n : BitVec 4) (r : BarRef), s.issues (.bpay d a p l n) ∧ ProgBar s l n r
    ∧ s.uniTrap [⟨a.toNat, 2, .int⟩] = none ∧ s.cur.bundle < s.bundles.length ∧ ((∀ e ∈ s.curB.deliver, ¬ (e.pack = decide (l = 2) ∧ e.num
    = n.toNat)))) ∧
  (∃ (s : State) (d a : BitVec 6) (p : BitVec 3) (l : BitVec 2) (n : BitVec 4) (r : BarRef), s.issues (.bpay d a p l n) ∧ ProgBar s l n r
    ∧ s.uniTrap [⟨a.toNat, 2, .int⟩] = none ∧ s.cur.bundle < s.bundles.length ∧ ((∀ e ∈ s.curB.deliver, ¬ (e.pack = decide (l = 2) ∧ e.num
    = n.toNat)))) :=
  ⟨⟨withS 12 0x7FFFFFFF one, 12, 1, 11, _, issues_of (by decide +kernel), ⟨rfl, by decide +kernel, ⟨by decide +kernel, by
      decide +kernel⟩⟩, by decide +kernel⟩,
    ⟨withS 12 0x80000000 one, 12, 1, 11, _, issues_of (by decide +kernel), ⟨rfl, by decide +kernel, ⟨by decide +kernel, by
      decide +kernel⟩⟩, by decide +kernel⟩,
    ⟨one, 24, 10, 0, 1, 11, _, issues_of (by decide +kernel), ⟨rfl, by decide +kernel, ⟨by decide +kernel, by decide +kernel⟩⟩, by
      decide +kernel⟩,
    ⟨after (.bpay 24 10 0 1 11) one, 26, 10, 4, 1, 10, _, issues_of (by decide +kernel), ⟨rfl, by decide +kernel, ⟨by decide +kernel, by
      decide +kernel⟩⟩, by decide +kernel⟩⟩

/-- Witnesses for `Obligations.MonitorWords`. -/
theorem test_MonitorWords :
  (∃ (s u : State) (a : BitVec 6) (m : BitVec 3) (bs : List Byte) (x : Monitor), s.issues (.hcfg a m) ∧ monHeld s m ∧ s.uniTrap [⟨a.toNat,
    2, .int⟩] = none ∧ (s.u64 a).toNat % 64 = 0 ∧ s.readBlock .read (s.u64 a) 8 = (u, .ok bs) ∧ u.bare = s.bare ∧ Monitor.ofBlock bs =
    some x ∧ ((s.team s.curTeam).mon m.toNat).st ≠ .armed) ∧
  (∃ (s : State) (a : BitVec 6) (m : BitVec 3), s.issues (.href a m) ∧ monHeld s m ∧ s.uniTrap [⟨a.toNat, 4, .int⟩] = none ∧ ((s.team
    s.curTeam).mon m.toNat).st ≠ .unconfigured) ∧
  (∃ (s : State) (d a : BitVec 6) (m : BitVec 3) (x : Monitor), s.issues (.hrd d a m) ∧ s.uniTrap [⟨a.toNat, 1, .int⟩] = none ∧ (s.u32
    a).toNat < 4 ∧ x = (s.team s.curTeam).mon m.toNat) ∧
  (∃ (s : State) (d : BitVec 6) (m : BitVec 3) (x y : Monitor), s.issues (.hchk d m) ∧ monHeld s m ∧ x = (s.team s.curTeam).mon m.toNat ∧
    x.st = .armed ∧ x.level = 1 ∧ x.touched = true ∧ conserves x ∧ y =
    { x with ref := if x.copy then x.total else x.ref, partials := [], lasttrip := false, checks := x.checks + 1, stores := 0, touched := false }) ∧
  (∃ (s : State) (d : BitVec 6) (m : BitVec 3) (x : Monitor), s.issues (.hchk d m) ∧ monHeld s m ∧ x = (s.team s.curTeam).mon m.toNat ∧
    x.st = .armed ∧ x.level = 1 ∧ x.touched = true ∧ (¬ conserves x) ∧ x.action = 0 ∧ s.curB.team = some s.curTeam ∧ s.versioned s.curTeam
    = false) :=
  ⟨⟨withMem 0x10000 monBlock data, _, 10, 7, monBlock, _, issues_of (by decide +kernel), ⟨by decide +kernel, by decide +kernel⟩, by
      decide +kernel, by decide +kernel, second_of (by decide +kernel), by decide +kernel, get_of (by decide +kernel), by decide +kernel⟩,
    ⟨armed 0 0, 12, 7, issues_of (by decide +kernel), ⟨by decide +kernel, by decide +kernel⟩, by decide +kernel⟩,
    ⟨withS 12 3 (armed 0 0), 16, 12, 7, _, issues_of (by decide +kernel), by decide +kernel, by decide +kernel, rfl⟩,
    ⟨armed 16 1, 12, 7, _, _, issues_of (by decide +kernel), ⟨by decide +kernel, by decide +kernel⟩, rfl, by decide +kernel, by
      decide +kernel, by decide +kernel, by unfold conserves; decide +kernel, rfl⟩,
    ⟨armed 17 0, 12, 7, _, issues_of (by decide +kernel), ⟨by decide +kernel, by decide +kernel⟩, rfl, by decide +kernel, by
      decide +kernel, by decide +kernel, by unfold conserves; decide +kernel, by decide +kernel⟩⟩

/-- Witnesses for `Obligations.SliceMarks`. -/
theorem test_SliceMarks :
  (∃ (s : State) (g : BitVec 12) (l off : Nat) (a : DWord) (dev : Bool), s.issues (.mark g) ∧ OneLane s l ∧ quiet s ∧ s.memOk ∧ a =
    ((s.pairV l 4 + 15) &&& 0xFFFFFFFFFFFFFFF0) ∧ a.toNat + 32 ≤ (s.curB.thread l).flimit.toNat ∧ ((∀ i < 4, SteadyAccess s l (a +
    BitVec.ofNat 64 (8 * i)) 8 .write (off + 8 * i) dev))) ∧
  (∃ (s u : State) (g : BitVec 12) (l : Nat) (d : Delim), s.issues (.unmark g) ∧ OneLane s l ∧ u.bare = s.bare ∧ s.chainTo s.cur.bundle l
    (g.setWidth 64) (s.curB.thread l).delimFuel (s.curB.thread l).marktop = (u, .ok, [d]) ∧ d.tagw = g.setWidth 64) ∧
  (∃ (s u : State) (g : BitVec 12) (l off : Nat) (ds : List Delim) (x d : Delim) (dev : Bool), s.issues (.unmark g) ∧ OneLane s l ∧ quiet
    s ∧ s.memOk ∧ u.bare = s.bare ∧ s.chainTo s.cur.bundle l (g.setWidth 64) (s.curB.thread l).delimFuel (s.curB.thread l).marktop = (u,
    .ok, ds ++ [x, d]) ∧ d.tagw = g.setWidth 64 ∧ SteadyAccess u l x.at_ 8 .write off dev) ∧
  (∃ (s u : State) (g : BitVec 12) (l : Nat) (ds : List Delim), s.issues (.unmark g) ∧ OneLane s l ∧ u.bare = s.bare ∧ s.chainTo
    s.cur.bundle l (g.setWidth 64) (s.curB.thread l).delimFuel (s.curB.thread l).marktop = (u, .ok, ds) ∧ ((∀ d ∈ ds, d.tagw ≠ g.setWidth
    64))) :=
  ⟨⟨sliced, 0xFFF, 0, 0x20140, _, false, issues_of (by decide +kernel), ⟨by decide +kernel, by decide +kernel, by decide +kernel⟩,
      quiet_of (by decide +kernel), (by unfold State.memOk; decide +kernel), rfl, by decide +kernel, four_of
      (⟨by intro m bad r a o; with_unfolding_all rfl, unheld_of (by decide +kernel), ⟨by decide +kernel, by decide +kernel⟩, unseen_of (by
      decide +kernel), by decide +kernel⟩) (⟨by intro m bad r a o; with_unfolding_all rfl, unheld_of (by decide +kernel), ⟨by
      decide +kernel, by decide +kernel⟩, unseen_of (by decide +kernel), by decide +kernel⟩)
      (⟨by intro m bad r a o; with_unfolding_all rfl, unheld_of (by decide +kernel), ⟨by decide +kernel, by decide +kernel⟩, unseen_of (by
      decide +kernel), by decide +kernel⟩) (⟨by intro m bad r a o; with_unfolding_all rfl, unheld_of (by decide +kernel), ⟨by
      decide +kernel, by decide +kernel⟩, unseen_of (by decide +kernel), by decide +kernel⟩)⟩,
    ⟨marked, _, 5, 0, ⟨0x140, 0, 0x140, 5⟩, issues_of (by decide +kernel), ⟨by decide +kernel, by decide +kernel, by decide +kernel⟩, by
      decide +kernel, triple_of (by decide +kernel) (by decide +kernel), by decide +kernel⟩,
    ⟨marked2, _, 5, 0, 0x20160, [], ⟨0x160, 0x140, 0x140, 6⟩, ⟨0x140, 0, 0x140, 5⟩, false, issues_of (by decide +kernel), ⟨by
      decide +kernel, by decide +kernel, by decide +kernel⟩, quiet_of (by decide +kernel), (by unfold State.memOk; decide +kernel), by
      decide +kernel, triple_of (by decide +kernel) (by decide +kernel), by decide +kernel, ⟨by intro m bad r a o; with_unfolding_all rfl,
      unheld_of (by decide +kernel), ⟨by decide +kernel, by decide +kernel⟩, unseen_of (by decide +kernel), by decide +kernel⟩⟩,
    ⟨marked2, _, 7, 0, [⟨0x160, 0x140, 0x140, 6⟩, ⟨0x140, 0, 0x140, 5⟩], issues_of (by decide +kernel), ⟨by decide +kernel, by
      decide +kernel, by decide +kernel⟩, by decide +kernel, triple_of (by decide +kernel) (by decide +kernel), by decide +kernel⟩⟩

/-- Witnesses for `Obligations.SliceMoves`. -/
theorem test_SliceMoves :
  (∃ (s u : State) (d a : BitVec 6) (g : BitVec 12) (l : Nat) (p : CutPlan), s.issues (.cut d a g) ∧ OneLane s l ∧ s.cur.bundle <
    s.bundles.length ∧ s.laneTrap l ⟨[⟨a.toNat, 2, .int⟩], []⟩ = none ∧ s.cutPlan d a (g.setWidth 64) l = (u, .ok, some p) ∧ u.cur = s.cur
    ∧ (cutStores u l p).cur = s.cur) ∧
  (∃ (s u m : State) (a b : BitVec 6) (h : BitVec 2) (l : Nat) (p : GraftPlan), s.issues (.graft a b h) ∧ OneLane s l ∧ s.laneTrap l
    ⟨[⟨a.toNat, 2, .int⟩, ⟨b.toNat, 1, .any⟩], []⟩ = none ∧ s.graftPlan a l = (u, .ok, some p) ∧ u.cur = s.cur ∧ m = u.slicePut true
    s.cur.bundle l p.newlo (pieces8 p.image)) :=
  ⟨⟨callee, planned, 0, 2, 5, 0, cutting, issues_of (by decide +kernel), ⟨by decide +kernel, by decide +kernel, by decide +kernel⟩, by
      decide +kernel, by decide +kernel, ownPlan_of (by decide +kernel) (by decide +kernel) (by decide +kernel), by decide +kernel⟩,
    ⟨hasSlice, _, _, 12, 14, 0, 0, _, issues_of (by decide +kernel), ⟨by decide +kernel, by decide +kernel, by decide +kernel⟩, by
      decide +kernel, plan_of (by decide +kernel) (by decide +kernel), by decide +kernel, rfl⟩⟩

/-- Witnesses for `Obligations.SliceStates`. -/
theorem test_SliceStates :
  (∃ (s u : State) (i : Instr) (a : BitVec 6) (free : Bool) (l off : Nat) (buf : DWord) (dev : Bool), i = (if free then .slfree a else
    .slshare a) ∧ s.issues i ∧ OneLane s l ∧ quiet s ∧ s.memOk ∧ s.unshown ∧ s.linesClean ∧ s.laneTrap l ⟨[⟨a.toNat, 2, .int⟩], []⟩ = none
    ∧ u.bare = s.bare ∧ s.ownPlan free a l = (u, .ok, some buf) ∧ SteadyAccess u l (buf + 16) 8 .atomic off dev) ∧
  (∃ (s u : State) (i : Instr) (a : BitVec 6) (free : Bool) (l off : Nat) (buf : DWord) (dev : Bool), i = (if free then .slfree a else
    .slshare a) ∧ s.issues i ∧ OneLane s l ∧ quiet s ∧ s.memOk ∧ s.unshown ∧ s.linesClean ∧ s.laneTrap l ⟨[⟨a.toNat, 2, .int⟩], []⟩ = none
    ∧ u.bare = s.bare ∧ s.ownPlan free a l = (u, .ok, some buf) ∧ SteadyAccess u l (buf + 16) 8 .atomic off dev) ∧
  (∃ (s u w : State) (d a : BitVec 6) (l : Nat) (h : SliceHeader) (r : Option (List SliceFrame)), s.issues (.slinfo d a) ∧ OneLane s l ∧
    s.laneTrap l ⟨[⟨a.toNat, 2, .int⟩], dstRegs d.toNat 2 .w64⟩ = none ∧ u.bare = s.bare ∧ w.bare = s.bare ∧ s.readHeader s.cur.bundle l
    (s.pairV l a.toNat &&& 0x00FFFFFFFFFFFFFF) = (u, .ok, h) ∧ u.sliceFrames false s.cur.bundle l (s.pairV l a.toNat &&&
    0x00FFFFFFFFFFFFFF) h = (w, .ok, r)) :=
  ⟨⟨hasSlice, headed, .slshare 12, 12, false, 0, 0x10010, 0x20000, false, rfl, issues_of (by decide +kernel), ⟨by decide +kernel, by
      decide +kernel, by decide +kernel⟩, quiet_of (by decide +kernel), (by unfold State.memOk; decide +kernel), hidden_of (by
      decide +kernel) _, linesClean_of (by decide +kernel), by decide +kernel, by decide +kernel, ownPlan_of (by decide +kernel) (by
      decide +kernel) (by decide +kernel), ⟨by intro m bad r a o; with_unfolding_all rfl, unheld_of (by decide +kernel), ⟨by
      decide +kernel, by decide +kernel⟩, unseen_of (by decide +kernel), by decide +kernel⟩⟩,
    ⟨hasSlice, headed, .slfree 12, 12, true, 0, 0x10010, 0x20000, false, rfl, issues_of (by decide +kernel), ⟨by decide +kernel, by
      decide +kernel, by decide +kernel⟩, quiet_of (by decide +kernel), (by unfold State.memOk; decide +kernel), hidden_of (by
      decide +kernel) _, linesClean_of (by decide +kernel), by decide +kernel, by decide +kernel, ownPlan_of (by decide +kernel) (by
      decide +kernel) (by decide +kernel), ⟨by intro m bad r a o; with_unfolding_all rfl, unheld_of (by decide +kernel), ⟨by
      decide +kernel, by decide +kernel⟩, unseen_of (by decide +kernel), by decide +kernel⟩⟩,
    ⟨hasSlice, _, _, 14, 12, 0, _, _, issues_of (by decide +kernel), ⟨by decide +kernel, by decide +kernel, by decide +kernel⟩, by
      decide +kernel, by decide +kernel, by decide +kernel, ended_of (by decide +kernel), ended_of (by decide +kernel)⟩⟩

/-- Witnesses for `Obligations.SpecialWrites`. -/
theorem test_SpecialWrites :
  (∃ (s : State) (a : BitVec 6) (r : BitVec 12), s.issues (.swr a r) ∧ s.uniTrap [⟨a.toNat, if srWide r then 2 else 1, .int⟩] = none) ∧
  (∃ (s : State) (a : BitVec 6) (r : BitVec 12), s.issues (.swr a r) ∧ s.uniTrap [⟨a.toNat, if srWide r then 2 else 1, .int⟩] = none) :=
  ⟨⟨withS 10 63 one, 10, 0x016, issues_of (by decide +kernel), by decide +kernel⟩,
    ⟨one, 10, 0x080, issues_of (by decide +kernel), by decide +kernel⟩⟩

/-- Witnesses for `Obligations.SpecialReads`. -/
theorem test_SpecialReads :
  (∃ (s : State) (d : BitVec 6) (r : BitVec 12) (v : DWord), s.issues (.srd d r) ∧ (r.toNat, v) ∈ specialTable s ++ trapRegs s) ∧
  (∃ (s : State) (d : BitVec 6) (r : BitVec 12) (v : DWord), s.issues (.srd d r) ∧ (r.toNat, v) ∈ specialTable s ++ trapRegs s) ∧
  (∃ (s : State) (d : BitVec 6) (k x : Nat), k < 4 ∧ s.issues (.srd d (BitVec.ofNat 12 (8 + k))) ∧ s.curB.team = some x ∧ (s.launch
    (s.team x).launch).lvmap.length = 4) ∧
  (∃ (s : State) (d : BitVec 6) (x : Nat), s.curB.team = some x ∧ s.issues (.vstat d 0)) ∧
  (∃ (s : State) (d : BitVec 6) (x : Nat), s.curB.team = some x ∧ s.issues (.vstat d 1)) ∧
  (∃ (s : State) (d : BitVec 6) (x : Nat), s.curB.team = some x ∧ s.issues (.vstat d 2)) :=
  ⟨⟨one, 8, 0x001, _, issues_of (by decide +kernel), List.mem_append_left _ (List.mem_append_left _ (List.mem_append_left _
      (List.mem_append_left _ (List.mem_append_left _ (List.mem_append_left _ (List.Mem.tail _ (List.Mem.head _)))))))⟩,
    ⟨handling .ready false, 8, 0x030, _, issues_of (by decide +kernel), List.mem_append_right _ (List.Mem.head _)⟩,
    ⟨one, 62, 3, 0, by decide +kernel, issues_of (by decide +kernel), by decide +kernel⟩,
    ⟨one, 8, 0, by decide +kernel, issues_of (by decide +kernel)⟩,
    ⟨one, 8, 0, by decide +kernel, issues_of (by decide +kernel)⟩,
    ⟨one, 8, 0, by decide +kernel, issues_of (by decide +kernel)⟩⟩

/-- Witnesses for `Obligations.EncodingTraps`. -/
theorem test_EncodingTraps :
  (∃ (s : State) (i : Instr) (c : BitVec 8), (wordInfo i).event = false ∧ s.wordTrap i = some c) ∧
  (∃ (_s : State) (i : Instr), encDefect i = some .reservedFn) ∧
  (∃ (_s : State) (i : Instr), encDefect i = some .mbzSet) ∧
  (∃ (_s : State) (i : Instr), encDefect i = some .badRegister) ∧
  (∃ (s : State) (d a n : BitVec 6), encDefect (.ulane d a n) = none ∧ s.curB.w ≤ n.toNat) ∧
  (∃ (s : State) (i : Instr), encDefect i = none ∧ s.cur.pfx = none ∧ ((wordInfo i).cNeed = true ∨ (wordInfo i).maskNeed = true) ∧
    (wordInfo i).cEven = false) ∧
  (∃ (s : State) (i : Instr), encDefect i = none ∧ s.cur.pfx ≠ none ∧ ((wordInfo i).lane = false ∨ (wordInfo i).alone = true) ∧ (wordInfo
    i).cEven = false ∧ ((∀ d a n, i = .ulane d a n → n.toNat < s.curB.w))) ∧
  (∃ (s : State) (i : Instr) (a b : BitVec 6), i ∈ [Instr.tlbinvAll, .tlbinvAsid b, .tlbinvVa a b, .srd a 0x080, .swr a 0x080] ∧ encDefect
    i = none ∧ s.cur.pfx = none ∧ s.curCtx.priv = false) ∧
  (∃ (s : State) (i : Instr) (a b : BitVec 6), i ∈ [Instr.tlbinvAll, .tlbinvAsid b, .tlbinvVa a b, .srd a 0x080, .swr a 0x080] ∧ encDefect
    i = none ∧ s.cur.pfx = none ∧ s.curCtx.priv = false) :=
  ⟨⟨one, .bsync 0 0, _, by decide +kernel, rfl⟩,
    ⟨one, .bsync 0 0, by decide +kernel⟩,
    ⟨one, .sstat 14 10 2, by decide +kernel⟩,
    ⟨one, .uld64 5 2 2 1, by decide +kernel⟩,
    ⟨one, 8, 9, 63, by decide +kernel⟩,
    ⟨one, .mad 8 9 10 0 0, by decide +kernel⟩,
    ⟨pre 12 false one, .uadd 8 9 10 0, by decide +kernel, by decide +kernel, by decide +kernel, (by decide +kernel), fun _ _ _ h => nomatch
      h⟩,
    ⟨{ one with ctxs := one.ctxs.map (fun c => { c with priv := false }) }, .tlbinvVa 10 12, 10, 12, by decide +kernel⟩,
    ⟨{ one with ctxs := one.ctxs.map (fun c => { c with priv := false }) }, .swr 10 0x080, 10, 12, by decide +kernel⟩⟩

/-- Witnesses for `Obligations.TrapsTaken`. -/
theorem test_TrapsTaken :
  (∃ (s : State) (c : BitVec 8), handled s ∧ c ≠ 0x13 ∧ c ≠ 0x44) ∧
  (∃ (s : State) (c : BitVec 8), handled s ∧ c ≠ 0x13 ∧ c ≠ 0x44 ∧ s.handlerBundle s.curB.pid s.curB.core ≠ none) ∧
  (∃ (s : State) (n : BitVec 4), s.issues (.trap n) ∧ handled s) ∧
  (∃ s : State, s.issues .bkpt ∧ handled s) ∧
  (∃ s : State, handled s) :=
  ⟨⟨watched, 0x70, ⟨by decide +kernel, by decide +kernel, by decide +kernel, by decide +kernel⟩, by decide +kernel⟩,
    ⟨{ watched with bundles := watched.bundles ++ (handling .ready false).bundles }, 0x0D, ⟨by decide +kernel, by decide +kernel, by
      decide +kernel, by decide +kernel⟩, by decide +kernel⟩,
    ⟨watched, 7, issues_of (by decide +kernel), ⟨by decide +kernel, by decide +kernel, by decide +kernel, by decide +kernel⟩⟩,
    ⟨watched, issues_of (by decide +kernel), ⟨by decide +kernel, by decide +kernel, by decide +kernel, by decide +kernel⟩⟩,
    ⟨watched, ⟨by decide +kernel, by decide +kernel, by decide +kernel, by decide +kernel⟩⟩⟩

/-- Witnesses for `Obligations.TrapReturn`. -/
theorem test_TrapReturn :
  (∃ s : State, s.issues .rett ∧ ((∀ l ∈ s.issued, (s.curB.thread l).out = [])) ∧ s.unshown ∧ s.cur.bundle < s.bundles.length ∧ (openEvent
    s).bind TrapEvent.cmd = none) ∧
  (∃ (s : State) (b : Nat) (q : Handler) (e : TrapEvent) (es : List TrapEvent), (s.bundle b).live = true ∧ (s.bundle b).handler = some q ∧
    q.current = none ∧ q.queue = e :: es ∧ (s.ctx (s.bundle b).asid).hentry ≠ 0 ∧ nothingOut s) ∧
  (∃ (s : State) (b h : Nat), (s.bundle b).live = true ∧ (s.bundle b).stepping = true ∧ (s.bundle b).hold = true ∧ (s.bundle b).steps = 0
    ∧ s.handlerBundle (s.bundle b).pid (s.bundle b).core = some h ∧ h ≠ b) :=
  ⟨⟨handling (.parked .trap) false, issues_of (by decide +kernel), by decide +kernel, hidden_of (by decide +kernel) _, by decide +kernel⟩,
    ⟨(handling .ready false).modBundle 0 (fun b => { b with handler := some ⟨none, [anEvent]⟩ }), 0, _, _, _, by decide +kernel, rfl, by
      decide +kernel, rfl, by decide +kernel, nothingOut_of (by decide +kernel)⟩,
    ⟨(handling .ready true).modBundle 1 (fun b => { b with stepping := true }), 1, 0, by decide +kernel⟩⟩

/-- Witnesses for `Obligations.HandlerAccess`. -/
theorem test_HandlerAccess :
  (∃ (s : State) (d a c : BitVec 6) (b l : Nat), s.issues (.hlrd d a c) ∧ s.uniTrap [⟨a.toNat, 2, .any⟩] = none ∧ s.target s.cur.bundle
    (s.u32 a) = some (b, l) ∧ c.toNat < 10 ∧ c ≠ 6 ∧ c ≠ 7 ∧ ((c = 4 → (s.thread b l).stale = false))) ∧
  (∃ (s : State) (d a c : BitVec 6) (b l : Nat), s.issues (.hlrd d a c) ∧ s.uniTrap [⟨a.toNat, 2, .any⟩] = none ∧ s.target s.cur.bundle
    (s.u32 a) = some (b, l) ∧ c.toNat < 10 ∧ c ≠ 6 ∧ c ≠ 7 ∧ ((c = 4 → (s.thread b l).stale = false))) ∧
  (∃ (s : State) (d a c : BitVec 6) (b l : Nat), s.issues (.hlrd d a c) ∧ s.uniTrap [⟨a.toNat, 2, .any⟩] = none ∧ s.target s.cur.bundle
    (s.u32 a) = some (b, l) ∧ c.toNat < 10 ∧ c ≠ 6 ∧ c ≠ 7 ∧ ((c = 4 → (s.thread b l).stale = false))) ∧
  (∃ (s : State) (d a c : BitVec 6) (b l : Nat), s.issues (.hlrd d a c) ∧ s.uniTrap [⟨a.toNat, 2, .any⟩] = none ∧ s.target s.cur.bundle
    (s.u32 a) = some (b, l) ∧ c.toNat < 10 ∧ c ≠ 6 ∧ c ≠ 7 ∧ ((c = 4 → (s.thread b l).stale = false))) ∧
  (∃ (s : State) (d a c : BitVec 6) (b l : Nat), s.issues (.hlrd d a c) ∧ s.uniTrap [⟨a.toNat, 2, .any⟩] = none ∧ s.target s.cur.bundle
    (s.u32 a) = some (b, l) ∧ c.toNat < 10 ∧ c ≠ 6 ∧ c ≠ 7 ∧ ((c = 4 → (s.thread b l).stale = false))) ∧
  (∃ (s : State) (d a c : BitVec 6) (b l : Nat), s.issues (.hlrd d a c) ∧ s.uniTrap [⟨a.toNat, 2, .any⟩] = none ∧ s.target s.cur.bundle
    (s.u32 a) = some (b, l) ∧ c.toNat < 10 ∧ c ≠ 6 ∧ c ≠ 7 ∧ ((c = 4 → (s.thread b l).stale = false))) ∧
  (∃ (s : State) (d a c : BitVec 6), s.issues (.hlrd d a c) ∧ s.uniTrap [⟨a.toNat, 2, .any⟩] = none ∧ s.target s.cur.bundle (s.u32 a) =
    none) ∧
  (∃ (s : State) (d a b c : BitVec 6) (x l : Nat), Edit s d a b c x l ∧ c = 0 ∧ itemIndex s a < 64 ∧ (s.thread x l).inWindow (itemIndex s
    a) = true ∧ (s.u64 b).toNat / 2 ^ 32 < 10 ∧ (s.bundle x).late = [] ∧ (s.thread x l).isParked = true) ∧
  (∃ (s : State) (d a b c : BitVec 6) (x l : Nat), Edit s d a b c x l ∧ c = 0 ∧ itemIndex s a < 64 ∧ (s.thread x l).inWindow (itemIndex s
    a) = true ∧ (s.u64 b).toNat / 2 ^ 32 < 10 ∧ (s.bundle x).late = [] ∧ (s.thread x l).isParked = false) ∧
  (∃ (s : State) (d a b c : BitVec 6) (x l : Nat), Edit s d a b c x l ∧ c = 2 ∧ (s.u64 b).toNat % 4 = 0 ∧ (s.u64 b).toNat < 2 ^ 56 ∧
    (s.thread x l).isParked = true) ∧
  (∃ (s : State) (d a b c : BitVec 6) (x l : Nat), Edit s d a b c x l ∧ c = 3 ∧ (s.u64 b).getLsbD 0 = false ∧ (s.thread x l).isParked =
    true) ∧
  (∃ (s : State) (d a b c : BitVec 6) (x l : Nat), Edit s d a b c x l ∧ c = 3 ∧ (s.u64 b).getLsbD 0 = true ∧ (s.thread x l).st = .ready) ∧
  (∃ (s : State) (d a b c : BitVec 6) (x l : Nat), Edit s d a b c x l ∧ c = 1 ∧ itemIndex s a < 64 ∧ (s.u64 b).toNat / 2 ^ 32 < 10 ∧
    (s.bundle x).late = []) ∧
  (∃ (s : State) (d a b c : BitVec 6) (x l : Nat), Edit s d a b c x l ∧ c = 5 ∧ itemIndex s a < 7 ∧ ((s.bundle x).hold = true ∧ (s.bundle
    x).steps = 0)) ∧
  (∃ (s : State) (d a b c : BitVec 6) (x l : Nat), Edit s d a b c x l ∧ c = 5 ∧ itemIndex s a < 7 ∧ (¬ ((s.bundle x).hold = true ∧
    (s.bundle x).steps = 0))) ∧
  (∃ (s : State) (d a b c : BitVec 6) (x l : Nat), Edit s d a b c x l ∧ c = 8 ∧ itemIndex s a = 4 ∧ (s.thread x l).isParked = true) ∧
  (∃ (s : State) (d a b c : BitVec 6) (x l : Nat), Edit s d a b c x l ∧ c = 9) ∧
  (∃ (s : State) (d a b c : BitVec 6), s.issues (.hlwr d a b c) ∧ s.uniTrap [⟨a.toNat, 2, .any⟩, ⟨b.toNat, 2, .any⟩] = none ∧ s.target
    s.cur.bundle (s.u32 a) = none) ∧
  (∃ (s : State) (d a b c : BitVec 6), s.issues (.hlwr d a b c) ∧ s.uniTrap [⟨a.toNat, 2, .any⟩, ⟨b.toNat, 2, .any⟩] = none ∧ (∃ x l,
    s.target s.cur.bundle (s.u32 a) = some (x, l) ∧ (s.thread x l).ticket ≠ none)) :=
  ⟨⟨naming 63 0 0 (handling (.parked .trap) true), 8, 20, 0, 1, 0, issues_of (by decide +kernel), by decide +kernel⟩,
    ⟨naming 63 0 0 (handling (.parked .trap) true), 8, 20, 1, 1, 0, issues_of (by decide +kernel), by decide +kernel⟩,
    ⟨naming 3 0 0 (handling (.parked .trap) true), 8, 20, 4, 1, 0, issues_of (by decide +kernel), by decide +kernel⟩,
    ⟨naming 7 0 0 (handling (.parked .trap) true), 8, 20, 5, 1, 0, issues_of (by decide +kernel), by decide +kernel⟩,
    ⟨naming 6 0 0 (handling (.parked .trap) true), 8, 20, 8, 1, 0, issues_of (by decide +kernel), by decide +kernel⟩,
    ⟨naming 0 0 0 (handling (.parked .trap) true), 8, 20, 9, 1, 0, issues_of (by decide +kernel), by decide +kernel⟩,
    ⟨withS 20 0x200 (handling (.parked .trap) true), 8, 20, 3, issues_of (by decide +kernel), by decide +kernel⟩,
    ⟨naming 63 7 9 (handling (.parked .trap) true), 8, 20, 22, 0, 1, 0, ⟨issues_of (by decide +kernel), by decide +kernel, by
      decide +kernel, by decide +kernel⟩, by decide +kernel⟩,
    ⟨naming 63 7 9 (handling .ready false), 8, 20, 22, 0, 1, 0, ⟨issues_of (by decide +kernel), by decide +kernel, by decide +kernel, by
      decide +kernel⟩, by decide +kernel⟩,
    ⟨naming 0 0xFFFFFFFC 0xFFFFFF (handling (.parked .trap) true), 8, 20, 22, 2, 1, 0, ⟨issues_of (by decide +kernel), by decide +kernel,
      by decide +kernel, by decide +kernel⟩, by decide +kernel⟩,
    ⟨naming 0 0 0 (handling (.parked .trap) true), 8, 20, 22, 3, 1, 0, ⟨issues_of (by decide +kernel), by decide +kernel, by
      decide +kernel, by decide +kernel⟩, by decide +kernel⟩,
    ⟨naming 0 1 0 (handling .ready false), 8, 20, 22, 3, 1, 0, ⟨issues_of (by decide +kernel), by decide +kernel, by decide +kernel, by
      decide +kernel⟩, by decide +kernel⟩,
    ⟨naming 63 7 9 (handling (.parked .trap) true), 8, 20, 22, 1, 1, 0, ⟨issues_of (by decide +kernel), by decide +kernel, by
      decide +kernel, by decide +kernel⟩, by decide +kernel⟩,
    ⟨naming 6 1 0 (handling (.parked .trap) true), 8, 20, 22, 5, 1, 0, ⟨issues_of (by decide +kernel), by decide +kernel, by
      decide +kernel, by decide +kernel⟩, by decide +kernel⟩,
    ⟨naming 6 1 0 (handling .ready false), 8, 20, 22, 5, 1, 0, ⟨issues_of (by decide +kernel), by decide +kernel, by decide +kernel, by
      decide +kernel⟩, by decide +kernel⟩,
    ⟨naming 4 63 0 (handling (.parked .trap) true), 8, 20, 22, 8, 1, 0, ⟨issues_of (by decide +kernel), by decide +kernel, by
      decide +kernel, by decide +kernel⟩, by decide +kernel⟩,
    ⟨naming 0 0xFF01 0 (handling (.parked .trap) true), 8, 20, 22, 9, 1, 0, ⟨issues_of (by decide +kernel), by decide +kernel, by
      decide +kernel, by decide +kernel⟩, by decide +kernel⟩,
    ⟨withS 20 0x200 (handling (.parked .trap) true), 8, 20, 22, 0, issues_of (by decide +kernel), by decide +kernel⟩,
    ⟨naming 0 0 0 attached, 8, 20, 22, 8, issues_of (by decide +kernel), by decide +kernel, ⟨1, 0, by decide +kernel, by decide +kernel⟩⟩⟩

/-- Witnesses for `Obligations.Removals`. -/
theorem test_Removals :
  (∃ (s : State) (i : Instr) (us : List Use) (args : List DWord) (r : TlbReq), s.issues i ∧ removes s i = some (us, args, r) ∧ fencedAll s
    ∧ linesStill s r ∧ s.uniTrap (s.firstUses us) = none ∧ vaValid r.va = true ∧ unpinned s r) ∧
  (∃ (s : State) (i : Instr) (us : List Use) (args : List DWord) (r : TlbReq), s.issues i ∧ removes s i = some (us, args, r) ∧ fencedAll s
    ∧ linesStill s r ∧ s.uniTrap (s.firstUses us) = none ∧ vaValid r.va = true ∧ unpinned s r) ∧
  (∃ (s : State) (i : Instr) (us : List Use) (args : List DWord) (r : TlbReq), s.issues i ∧ removes s i = some (us, args, r) ∧ fencedAll s
    ∧ linesStill s r ∧ s.uniTrap (s.firstUses us) = none ∧ vaValid r.va = true ∧ unpinned s r) ∧
  (∃ (s : State) (i : Instr) (us : List Use) (args : List DWord) (r : TlbReq), s.issues i ∧ removes s i = some (us, args, r) ∧ fencedAll s
    ∧ linesStill s r ∧ s.uniTrap (s.firstUses us) = none ∧ vaValid r.va = true ∧ (¬ unpinned s r)) ∧
  (∃ (s : State) (i : Instr) (asid : BitVec 16) (va : DWord) (r : TlbReq), (i, r) ∈ [(Instr.tlbreqAll, (⟨0, 0, 0⟩ : TlbReq)), (.tlbreqAsid
    asid, ⟨1, asid, 0⟩), (.tlbreqVa asid va, ⟨2, asid, va⟩)] ∧ nothingOut s ∧ linesStill s r ∧ unpinned s r) ∧
  (∃ (s : State) (i : Instr) (asid : BitVec 16) (va : DWord) (r : TlbReq), (i, r) ∈ [(Instr.tlbreqAll, (⟨0, 0, 0⟩ : TlbReq)), (.tlbreqAsid
    asid, ⟨1, asid, 0⟩), (.tlbreqVa asid va, ⟨2, asid, va⟩)] ∧ nothingOut s ∧ linesStill s r ∧ (¬ unpinned s r)) ∧
  (∃ (s : State) (a : BitVec 6) (x : BitVec 3), s.issues (.icinv a x) ∧ s.uniTrap [⟨a.toNat, 2, .any⟩] = none ∧ fencedAll s ∧ s.addrTrap
    (s.u64 a) = (s, none) ∧ ((∀ b ∈ s.bundles, b.transl = none))) ∧
  (∃ (s : State) (x : BitVec 3), s.issues (.icinvAll x) ∧ fencedAll s ∧ ((∀ b ∈ s.bundles, b.transl = none))) :=
  ⟨⟨withS 12 1 data, .tlbinvAll, _, _, _, issues_of (by decide +kernel), rfl, fencedAll_of (by decide +kernel) (by decide +kernel),
      (by unfold linesStill; decide +kernel), by decide +kernel, by decide +kernel, (by unfold unpinned; decide +kernel)⟩,
    ⟨withS 12 1 data, .tlbinvAsid 12, _, _, _, issues_of (by decide +kernel), rfl, fencedAll_of (by decide +kernel) (by decide +kernel),
      (by unfold linesStill; decide +kernel), by decide +kernel, by decide +kernel, (by unfold unpinned; decide +kernel)⟩,
    ⟨withS 12 1 (lined .clean 0), .tlbinvVa 10 12, _, _, _, issues_of (by decide +kernel), rfl, fencedAll_of (by decide +kernel) (by
      decide +kernel), (by unfold linesStill; decide +kernel), by decide +kernel, by decide +kernel, (by unfold unpinned; decide +kernel)⟩,
    ⟨withS 12 1 (withCmd { command .queued copySpec [] with pins := [(2, 65536)] } data), .tlbinvVa 10 12, _, _, _, issues_of (by
      decide +kernel), rfl, fencedAll_of (by decide +kernel) (by decide +kernel), (by unfold linesStill; decide +kernel), by
      decide +kernel, by decide +kernel, (by unfold unpinned; decide +kernel)⟩,
    ⟨data, .tlbreqVa 1 0x20000, 1, 0x20000, _, List.Mem.tail _ (List.Mem.tail _ (List.Mem.head _)), nothingOut_of (by decide +kernel),
      (by unfold linesStill; decide +kernel), (by unfold unpinned; decide +kernel)⟩,
    ⟨withCmd { command .queued copySpec [] with pins := [(2, 65536)] } data, .tlbreqAll, 1, 0x20000, _, List.Mem.head _, nothingOut_of (by
      decide +kernel), (by unfold linesStill; decide +kernel), (by unfold unpinned; decide +kernel)⟩,
    ⟨data, 10, 3, issues_of (by decide +kernel), by decide +kernel, fencedAll_of (by decide +kernel) (by decide +kernel), pairIs_of (by
      decide +kernel) (by decide +kernel), by decide +kernel⟩,
    ⟨data, 2, issues_of (by decide +kernel), fencedAll_of (by decide +kernel) (by decide +kernel), by decide +kernel⟩⟩

/-- Witnesses for `Obligations.PageWalksAndFaults`. -/
theorem test_PageWalksAndFaults :
  (∃ (s : State) (k : BitVec 16) (va : DWord) (store : Bool) (size at_ : Nat) (pte new : DWord), (s.ctx k).destroyed = false ∧ vaValid va
    = true ∧ vaPrivate va = false ∧ s.pageRecOf k va = none ∧ ((∀ p < 128, ∃ es, s.walkFrom p k va walkLevels (s.ctx k).root.toNat [] =
    (s, .leaf size at_ pte, es))) ∧ unheld s at_ ∧ at_ + 8 ≤ lpddrEnd ∧ s.memOk ∧ new = pte ||| 0x40 ||| (if store then 0x80 else 0)) ∧
  (∃ (s : State) (k : BitVec 16) (va : DWord) (_store : Bool) (r : Nat), (s.pageRecOf k va ≠ none ∨ (∀ p < 128, ∃ es, s.walkFrom p k va
    walkLevels (s.ctx k).root.toNat [] = (s, .fail r, es)))) ∧
  (∃ (s : State) (k : BitVec 16) (va : DWord) (_store : Bool) (r : Nat), (s.pageRecOf k va ≠ none ∨ (∀ p < 128, ∃ es, s.walkFrom p k va
    walkLevels (s.ctx k).root.toNat [] = (s, .fail r, es)))) ∧
  (∃ (s m : State) (t : BitVec 32) (r : PageRec), t ≠ 0 ∧ s.intc.records.find? (fun x => x.ticket == t.toNat) = some r ∧ RingEntry.page
    r.asid t.toNat ∈ s.intc.waiting ∧ ((∀ e ∈ s.intc.waiting, ∀ k, e = .page k t.toNat → k = r.asid)) ∧ s.intc.isNext (.page r.asid
    t.toNat) = true ∧ s.intc.ringdesc.getD r.ring 0 ≠ 0 ∧ s.ringAppend (paOffset (s.intc.ringdesc.getD r.ring 0).toNat) 64 (pageEntry s r)
    false = (m, true) ∧ m.intc = s.intc) ∧
  (∃ (s : State) (ring : Nat) (t : BitVec 32) (r : PageRec), s.intc.records.find? (fun x => x.ticket == t.toNat && x.ring == ring &&
    x.posted) = some r ∧ s.intc.records.length ≤ 4096) ∧
  (∃ (s : State) (ring : Nat) (t : BitVec 32) (r : PageRec), s.intc.records.find? (fun x => x.ticket == t.toNat && x.ring == ring &&
    x.posted) = some r ∧ s.intc.records.length ≤ 4096 ∧ ((∀ b l, (s.thread b l).ticket = some t.toNat → (s.bundle b).live = true ∧
    (s.bundle b).handler = none ∧ (s.ctx (s.bundle b).asid).handler = true))) :=
  ⟨⟨tables, 1, 0x7FFFFFFF, true, 30, 0x32008, 0x4000000F, _, by decide +kernel, by decide +kernel, by decide +kernel, (by decide +kernel),
      walks_of (by decide +kernel), unheld_of (by decide +kernel), by decide +kernel, (by unfold State.memOk; decide +kernel), rfl⟩,
    ⟨faulted false, 1, 0x2FFFF, false, 0, Or.inl (by decide +kernel)⟩,
    ⟨tables, 1, 0x80000000, false, 0, Or.inr (walks_of (by decide +kernel))⟩,
    ⟨faulted false, _, 5, ⟨5, 23, 1, 2, 0, 1, 0x20000, 0x10040, false⟩, by decide +kernel, by decide +kernel, by decide +kernel, by
      decide +kernel, by decide +kernel, by decide +kernel, both_of (by decide +kernel), by decide +kernel⟩,
    ⟨attached, 23, 5, ⟨5, 23, 1, 2, 0, 1, 0x20000, 0x10040, true⟩, by decide +kernel⟩,
    ⟨attached, 23, 5, ⟨5, 23, 1, 2, 0, 1, 0x20000, 0x10040, true⟩, by decide +kernel, by decide +kernel, ticket_of (by decide +kernel)⟩⟩

/-- Witnesses for `Obligations.LaunchWords`. -/
theorem test_LaunchWords :
  (∃ (s u : State) (a : BitVec 6) (bs : List Byte), s.issues (.nlaunch a) ∧ s.uniTrap [⟨a.toNat, 2, .any⟩] = none ∧ (s.u64 a).toNat % 64 =
    0 ∧ fencedAll s ∧ u.bare = s.bare ∧ (s.fenceNow s.cur.bundle s.issued true).readBlock .read (s.u64 a) 8 = (u, .ok bs) ∧ (s.teamLaunch
    s.curTeam).depth < 10 ∧ s.host.journal = 0) ∧
  (∃ (s u : State) (a : BitVec 6) (bs : List Byte), s.issues (.nlaunch a) ∧ s.uniTrap [⟨a.toNat, 2, .any⟩] = none ∧ (s.u64 a).toNat % 64 =
    0 ∧ fencedAll s ∧ u.bare = s.bare ∧ (s.fenceNow s.cur.bundle s.issued true).readBlock .read (s.u64 a) 8 = (u, .ok bs) ∧ 10 ≤
    (s.teamLaunch s.curTeam).depth ∧ handled s) ∧
  (∃ (s : State) (a : BitVec 6) (off : Nat) (ver : Option Nat) (dev : Bool), s.issues (.sigw a) ∧ s.uniTrap (s.firstUses [⟨a.toNat, 2,
    .any⟩]) = none ∧ s.locateAs s.cur.bundle s.leader (s.argS 0 a.toNat) 8 0 true .atomic = (s, .mem off ver dev) ∧ fencedAll s ∧ unheld s
    off ∧ s.touched ((s.spot s.cur.bundle s.cur.lanes 0 false off 8 none).signal (s.curB.acquired s.cur.lanes 0)) true = [] ∧ off + 8 ≤
    lpddrEnd ∧ s.curCtx.inject.getLsbD 63 = false ∧ s.memOk ∧ noPackets s) :=
  ⟨⟨withS 10 0x20000 (withS 11 0 (launching 9)), _, 10, bytesOf 8 0x60000 ++ List.replicate 56 0, issues_of (by decide +kernel), by
      decide +kernel, by decide +kernel, fencedAll_of (by decide +kernel) (by decide +kernel), by decide +kernel, second_of (by
      decide +kernel), by decide +kernel⟩,
    ⟨withS 10 0x20000 (withS 11 0 (launching 10)), _, 10, bytesOf 8 0x60000 ++ List.replicate 56 0, issues_of (by decide +kernel), by
      decide +kernel, by decide +kernel, fencedAll_of (by decide +kernel) (by decide +kernel), by decide +kernel, second_of (by
      decide +kernel), by decide +kernel, ⟨by decide +kernel, by decide +kernel, by decide +kernel, by decide +kernel⟩⟩,
    ⟨data, 10, 0x10000, none, false, issues_of (by decide +kernel), by decide +kernel, pairIs_of (by decide +kernel) (by decide +kernel),
      fencedAll_of (by decide +kernel) (by decide +kernel), unheld_of (by decide +kernel), by decide +kernel, by decide +kernel, by
      decide +kernel, (by unfold State.memOk; decide +kernel), Or.inl (by decide +kernel)⟩⟩

/-- Witnesses for `Obligations.TeamsBeginAndEnd`. -/
theorem test_TeamsBeginAndEnd :
  (∃ (s : State) (p o : Nat) (plans : List TeamPlan), s.planPack p o = some plans ∧ ((∀ n ∈ s.placeOrder.takeWhile (fun n => n != (s.pack
    p).launch), s.placeFor n = none)) ∧ (s.pack p).members.Nodup) ∧
  (∃ (s : State) (x : Nat), (s.team x).st = .committing ∧ (s.team x).windows = [] ∧ s.memOk ∧ otherGoesOn s x ∧ nothingOut s ∧ ((∀ c ∈
    (s.team x).ver.cells, unheld s c.1)) ∧ ((s.team x).ver.cells.map (·.1)).Pairwise (· < ·) ∧ ((∀ c ∈ (s.team x).ver.cells, c.1 <
    lpddrEnd))) ∧
  (∃ (s : State) (x : Nat) (_cause : BitVec 8) (again : Prop), (s.team x).st.killable = true ∧ s.packTeams x = [x] ∧ ((∀ n, (s.launch
    n).parent ≠ some x)) ∧ otherGoesOn s x ∧ ((∀ b l, (s.bundle b).team = some x → (s.thread b l).graftHome = none)) ∧ ((again ↔
    s.restartable x = true ∧ (s.pack (s.team x).pack).early = false)) ∧ (¬ again)) ∧
  (∃ (s : State) (x : Nat) (_cause : BitVec 8) (again : Prop), (s.team x).st.killable = true ∧ s.packTeams x = [x] ∧ ((∀ n, (s.launch
    n).parent ≠ some x)) ∧ otherGoesOn s x ∧ ((∀ b l, (s.bundle b).team = some x → (s.thread b l).graftHome = none)) ∧ ((again ↔
    s.restartable x = true ∧ (s.pack (s.team x).pack).early = false)) ∧ (again ∧ (s.team x).count < s.relaunchLimit x)) ∧
  (∃ (s : State) (x : Nat) (_cause : BitVec 8) (again : Prop), (s.team x).st.killable = true ∧ s.packTeams x = [x] ∧ ((∀ n, (s.launch
    n).parent ≠ some x)) ∧ otherGoesOn s x ∧ ((∀ b l, (s.bundle b).team = some x → (s.thread b l).graftHome = none)) ∧ ((again ↔
    s.restartable x = true ∧ (s.pack (s.team x).pack).early = false)) ∧ (again ∧ s.relaunchLimit x ≤ (s.team x).count)) :=
  ⟨⟨unplaced, 0, 0, _, get_of (by decide +kernel), by decide +kernel⟩,
    ⟨(teams2 .committing 0 0).modTeam 0 (fun t => { t with windows := [], ver := ⟨.committing, [(0x10000, 7), (0x10001, 8)], false⟩ }), 0,
      by decide +kernel, by decide +kernel, (by unfold State.memOk; decide +kernel), ⟨1, by decide +kernel, by decide +kernel, by
      decide +kernel, by decide +kernel⟩, nothingOut_of (by decide +kernel), fun c _ => noLine_of (by decide +kernel) c.1, by
      decide +kernel⟩,
    ⟨teams2 .running 6 0x1C, 0, 0x60, False, by decide +kernel, by decide +kernel, noChild_of (by decide +kernel), ⟨1, by decide +kernel,
      by decide +kernel, by decide +kernel, by decide +kernel⟩, fun _ _ _ => grafts_of (by decide +kernel) _ _, by decide +kernel⟩,
    ⟨teams2 .running 6 0x1D, 0, 0x60, True, by decide +kernel, by decide +kernel, noChild_of (by decide +kernel), ⟨1, by decide +kernel,
      by decide +kernel, by decide +kernel, by decide +kernel⟩, fun _ _ _ => grafts_of (by decide +kernel) _ _, by decide +kernel,
      ⟨trivial, by decide +kernel⟩⟩,
    ⟨teams2 .running 7 0x1D, 0, 0x60, True, by decide +kernel, by decide +kernel, noChild_of (by decide +kernel), ⟨1, by decide +kernel,
      by decide +kernel, by decide +kernel, by decide +kernel⟩, fun _ _ _ => grafts_of (by decide +kernel) _ _, by decide +kernel,
      ⟨trivial, by decide +kernel⟩⟩⟩

/-- Witnesses for `Obligations.WhistleAndSave`. -/
theorem test_WhistleAndSave :
  (∃ (s : State) (k : BitVec 16) (x : Nat), alone s k x ∧ (s.partOf x).st = .resident ∧ s.saveSpace k [x] = true ∧ stopped s x) ∧
  (∃ (s : State) (k : BitVec 16) (x : Nat), alone s k x ∧ (s.partOf x).st = .resident ∧ s.saveSpace k [x] = true ∧ (¬ stopped s x)) ∧
  (∃ (s : State) (k : BitVec 16) (x : Nat), alone s k x ∧ (s.partOf x).st = .whistled ∧ (s.partOf x).left = 0) ∧
  (∃ (s : State) (k : BitVec 16) (x : Nat), alone s k x ∧ ((s.partOf x).st = .yielded ∨ (s.partOf x).st = .forced) ∧ s.saveReady x = true
    ∧ atRest s x ∧ s.kennelFree (s.partOf x).part = true ∧ s.fitsKennel x = true ∧ atRest s x) ∧
  (∃ (s : State) (k : BitVec 16) (x : Nat), alone s k x ∧ ((s.partOf x).st = .yielded ∨ (s.partOf x).st = .forced) ∧ s.saveReady x = true
    ∧ atRest s x ∧ (¬ (s.kennelFree (s.partOf x).part = true ∧ s.fitsKennel x = true)) ∧ s.freeImages k = []) :=
  ⟨⟨part0 .resident .exited, 1, 0, ⟨by decide +kernel, by decide +kernel⟩, by decide +kernel, by decide +kernel, stopped_of (by
      decide +kernel)⟩,
    ⟨part0 .resident .ready, 1, 0, ⟨by decide +kernel, by decide +kernel⟩, by decide +kernel, by decide +kernel, unstopped_of 0 (by
      decide +kernel) (by decide +kernel)⟩,
    ⟨part0 .whistled .ready, 1, 0, ⟨by decide +kernel, by decide +kernel⟩, by decide +kernel⟩,
    ⟨part0 .forced (.waiting .grow), 1, 0, ⟨by decide +kernel, by decide +kernel⟩, by decide +kernel, by decide +kernel, atRest_of (by
      decide +kernel) (by decide +kernel), by decide +kernel, by decide +kernel, atRest_of (by decide +kernel) (by decide +kernel)⟩,
    ⟨uncapped (part0 .yielded .exited), 1, 0, ⟨by decide +kernel, by decide +kernel⟩, by decide +kernel, by decide +kernel, atRest_of (by
      decide +kernel) (by decide +kernel), by decide +kernel⟩⟩

/-- Witnesses for `Obligations.SavedParts`. -/
theorem test_SavedParts :
  (∃ (s m : State) (k : BitVec 16) (x i : Nat), alone s k x ∧ (s.partOf x).st = .kennelled ∧ 1 ≤ s.imagesLeft k [x] ∧ (s.freeImages
    k).head? = some i ∧ s.saveBytes k ((s.ctx k).savebase + BitVec.ofNat 64 (i * 2 ^ 25)) (s.imageBytes x) = (m, none)) ∧
  (∃ (s : State) (k : BitVec 16) (x p : Nat), alone s k x ∧ unpacked s x ∧ (s.partOf x).st = .stored ∧ p < 8 ∧ s.kennelFree p = true ∧
    s.partMayUse x p = true ∧ s.fitsKennel x = true ∧ ((∀ y ∈ s.parts, y.part = p → y.st.saving = false))) ∧
  (∃ (s : State) (k : BitVec 16) (x p : Nat), alone s k x ∧ unpacked s x ∧ s.carrying = true ∧ p < 8 ∧ s.mayResume x p = true) ∧
  (∃ (s : State) (k : BitVec 16) (x : Nat), alone s k x ∧ (s.partOf x).st = .resuming) :=
  ⟨⟨kennelled, _, 1, 0, 0, ⟨by decide +kernel, by decide +kernel⟩, by decide +kernel, by decide +kernel, by decide +kernel,
      kennelled_save _ _ (by decide +kernel)⟩,
    ⟨part0 .stored .ready, 1, 0, 7, ⟨by decide +kernel, by decide +kernel⟩, (by unfold unpacked; decide +kernel), by decide +kernel⟩,
    ⟨part0 .stored .ready, 1, 0, 0, ⟨by decide +kernel, by decide +kernel⟩, (by unfold unpacked; decide +kernel), by decide +kernel⟩,
    ⟨part0 .resuming .ready, 1, 0, ⟨by decide +kernel, by decide +kernel⟩, by decide +kernel⟩⟩

/-- Witnesses for `Obligations.WorkPackets`. -/
theorem test_WorkPackets :
  (∃ (s : State) (qid v r : Nat) (q : Queue), Idle s ∧ Written s qid q v 1 ∧ v / 2 ^ 128 = 0 ∧ (part8 v 8).toNat % 64 = 0 ∧ s.virtRead
    q.asid (part8 v 8) 64 = (s, some r) ∧ unheld s (paOffset q.qcb.toNat + 48)) ∧
  (∃ (s : State) (qid v _r : Nat) (q : Queue), Idle s ∧ Written s qid q v 1 ∧ v / 2 ^ 128 = 0 ∧ (part8 v 8).toNat % 64 ≠ 0) ∧
  (∃ (s : State) (qid v : Nat) (q : Queue), Idle s ∧ Written s qid q v 4 ∧ v / 2 ^ 200 = 0 ∧ (part8 v 24).toNat < 2 ∧ HomeWord s q.asid
    (part8 v 8) ∧ s.memOk ∧ (part8 v 8).toNat % 8 = 0) ∧
  (∃ (s : State) (qid v : Nat) (q : Queue), Idle s ∧ Written s qid q v 4 ∧ v / 2 ^ 200 = 0 ∧ (part8 v 24).toNat < 2 ∧ HomeWord s q.asid
    (part8 v 8) ∧ s.memOk ∧ (part8 v 8).toNat % 8 = 0) ∧
  (∃ (s : State) (qid v : Nat) (q : Queue), Idle s ∧ Written s qid q v 5 ∧ v / 2 ^ 64 = 0) :=
  ⟨⟨queueing (bytesOf 8 1 ++ bytesOf 8 0x20000), 1, 0x20000 * 2 ^ 64 + 1, 0x60000, _, idle_of (by decide +kernel), ⟨rfl, by
      decide +kernel, by decide +kernel, by decide +kernel, by decide +kernel⟩, by decide +kernel, by decide +kernel, by decide +kernel,
      unheld_of (by decide +kernel)⟩,
    ⟨queueing (bytesOf 8 1 ++ bytesOf 8 0x20008), 1, 0x20008 * 2 ^ 64 + 1, 0, _, idle_of (by decide +kernel), ⟨rfl, by decide +kernel, by
      decide +kernel, by decide +kernel, by decide +kernel⟩, by decide +kernel⟩,
    ⟨queueing (bytesOf 8 4 ++ bytesOf 8 0x20008 ++ bytesOf 8 5 ++ bytesOf 8 0), 1, 0 * 2 ^ 192 + 5 * 2 ^ 128 + 0x20008 * 2 ^ 64 + 4,
      aQueue .active true [], idle_of (by decide +kernel), written_of (by decide +kernel), by decide +kernel, by decide +kernel, ⟨by
      decide +kernel, ⟨⟨128, 1, 2, 16, 0x10000, 0xFF⟩, by decide +kernel, by decide +kernel, by decide +kernel, by decide +kernel⟩, by
      decide +kernel, unheld_of (by decide +kernel)⟩, (by unfold State.memOk; decide +kernel), by decide +kernel⟩,
    ⟨queueing (bytesOf 8 4 ++ bytesOf 8 0x20008 ++ bytesOf 8 5 ++ bytesOf 8 1), 1, 1 * 2 ^ 192 + 5 * 2 ^ 128 + 0x20008 * 2 ^ 64 + 4,
      aQueue .active true [], idle_of (by decide +kernel), written_of (by decide +kernel), by decide +kernel, by decide +kernel, ⟨by
      decide +kernel, ⟨⟨128, 1, 2, 16, 0x10000, 0xFF⟩, by decide +kernel, by decide +kernel, by decide +kernel, by decide +kernel⟩, by
      decide +kernel, unheld_of (by decide +kernel)⟩, (by unfold State.memOk; decide +kernel), by decide +kernel⟩,
    ⟨queueing (bytesOf 8 5), 1, 5, aQueue .active true [], idle_of (by decide +kernel), written_of (by decide +kernel), by decide +kernel⟩⟩

/-- Witnesses for `Obligations.BarriersAndDoorbells`. -/
theorem test_BarriersAndDoorbells :
  (∃ (s : State) (i : Instr) (qid v : Nat) (q : Queue) (any : Bool) (deps : List DWord), i = (if any then .barrierOr qid else .barrierAnd
    qid) ∧ Idle s ∧ Written s qid q v (if any then 3 else 2) ∧ deps = ([16, 24, 32, 40, 48].map (part8 v)).filter (fun d => d != 0) ∧ v /
    2 ^ 448 = 0 ∧ part8 v 8 = 0 ∧ ((∀ d ∈ deps, HomeWord s q.asid d ∧ d.toNat % 8 = 0))) ∧
  (∃ (s : State) (i : Instr) (qid v : Nat) (q : Queue) (any : Bool) (deps : List DWord), i = (if any then .barrierOr qid else .barrierAnd
    qid) ∧ Idle s ∧ Written s qid q v (if any then 3 else 2) ∧ deps = ([16, 24, 32, 40, 48].map (part8 v)).filter (fun d => d != 0) ∧ v /
    2 ^ 448 = 0 ∧ part8 v 8 = 0 ∧ ((∀ d ∈ deps, HomeWord s q.asid d ∧ d.toNat % 8 = 0))) ∧
  (∃ (s : State) (q : Queue) (p : Packet) (any : Bool) (deps : List DWord), s.shepherding = true ∧ s.host.journal = 0 ∧ s.queues = [q] ∧
    q.st = .active ∧ q.packets = [p] ∧ p.ended = false ∧ p.kind = .barrier any deps ∧ p.done = 0 ∧ s.badmem = [] ∧ ((∀ d ∈ deps, HomeWord
    s q.asid d))) ∧
  (∃ (s : State) (q : Queue) (p : Packet) (any : Bool) (deps : List DWord), s.shepherding = true ∧ s.host.journal = 0 ∧ s.queues = [q] ∧
    q.st = .active ∧ q.packets = [p] ∧ p.ended = false ∧ p.kind = .barrier any deps ∧ p.done = 0 ∧ s.badmem = [] ∧ ((∀ d ∈ deps, HomeWord
    s q.asid d))) ∧
  (∃ (s : State) (_qid : Nat), Idle s) ∧
  (∃ (s t : State) (qid : Nat) (q : Queue), s.shepherding = true ∧ s.queue? qid = some q ∧ q.kick = true ∧ ((∀ x ∈ s.queues, x.kick = true
    → x.st ≠ .destroyed → x.prio < q.prio ∨ (x.prio = q.prio ∧ q.qid ≤ x.qid))) ∧ (t = { s with queues := s.queues.map (fun x => if x.qid
    = qid ∧ x.st ≠ .destroyed then { x with kick := false } else x) }) ∧ t.nextSlot { q with kick := false } = (t, none)) :=
  ⟨⟨queueing (bytesOf 8 2 ++ bytesOf 8 0 ++ bytesOf 8 0x20010), _, 1, 0x20010 * 2 ^ 128 + 2, aQueue .active true [], false, [0x20010],
      rfl, idle_of (by decide +kernel), written_of (by decide +kernel), by decide +kernel, by decide +kernel, by decide +kernel,
      forall_one ⟨⟨by decide +kernel, ⟨⟨128, 1, 2, 16, 0x10000, 0xFF⟩, by decide +kernel, by decide +kernel, by decide +kernel, by
      decide +kernel⟩, by decide +kernel, unheld_of (by decide +kernel)⟩, by decide +kernel⟩⟩,
    ⟨queueing (bytesOf 8 3 ++ bytesOf 8 0 ++ bytesOf 8 0x20010), _, 1, 0x20010 * 2 ^ 128 + 3, aQueue .active true [], true, [0x20010],
      rfl, idle_of (by decide +kernel), written_of (by decide +kernel), by decide +kernel, by decide +kernel, by decide +kernel,
      forall_one ⟨⟨by decide +kernel, ⟨⟨128, 1, 2, 16, 0x10000, 0xFF⟩, by decide +kernel, by decide +kernel, by decide +kernel, by
      decide +kernel⟩, by decide +kernel, unheld_of (by decide +kernel)⟩, by decide +kernel⟩⟩,
    ⟨{ data with queues := [aQueue .active false [⟨0, .barrier false [0x20010], false, 0, true, false⟩]] }, _, _, false, [0x20010], by
      decide +kernel, by decide +kernel, rfl, by decide +kernel, rfl, by decide +kernel, by decide +kernel, by decide +kernel, by
      decide +kernel, forall_one ⟨by decide +kernel, ⟨⟨128, 1, 2, 16, 0x10000, 0xFF⟩, by decide +kernel, by decide +kernel, by
      decide +kernel, by decide +kernel⟩, by decide +kernel, unheld_of (by decide +kernel)⟩⟩,
    ⟨{ data with queues := [aQueue .active false [⟨0, .barrier true [0x20010], false, 0, true, false⟩]] }, _, _, true, [0x20010], by
      decide +kernel, by decide +kernel, rfl, by decide +kernel, rfl, by decide +kernel, by decide +kernel, by decide +kernel, by
      decide +kernel, forall_one ⟨by decide +kernel, ⟨⟨128, 1, 2, 16, 0x10000, 0xFF⟩, by decide +kernel, by decide +kernel, by
      decide +kernel, by decide +kernel⟩, by decide +kernel, unheld_of (by decide +kernel)⟩⟩,
    ⟨queueing [], 4095, idle_of (by decide +kernel)⟩,
    ⟨queueing (bytesOf 8 (2 ^ 32)), _, 1, aQueue .active true [], by decide +kernel, by decide +kernel, by decide +kernel, by
      decide +kernel, rfl, by decide +kernel⟩⟩

/-- Witnesses for `Obligations.ContextCommands`. -/
theorem test_ContextCommands :
  (∃ (s : State) (e : MgmtEntry) (v : Nat), Command s e 1 0 ∧ e.arg % 64 = 0 ∧ block64 s (paOffset e.arg) ∧ v = recordAt s e (paOffset
    e.arg) ∧ contextOk v = true ∧ ((s.ctxs.filter (fun x => !x.destroyed)).map (·.vpool)).sum + (Context.parse v).vpool ≤ 4096 ∧ (s.ctx
    (Context.parse v).asid).destroyed = true) ∧
  (∃ (s : State) (e : MgmtEntry) (v : Nat), Command s e 1 0 ∧ e.arg % 64 = 0 ∧ block64 s (paOffset e.arg) ∧ v = recordAt s e (paOffset
    e.arg) ∧ contextOk v = true ∧ ((s.ctxs.filter (fun x => !x.destroyed)).map (·.vpool)).sum + (Context.parse v).vpool ≤ 4096 ∧ (s.ctx
    (Context.parse v).asid).destroyed = false) ∧
  (∃ (s : State) (e : MgmtEntry), Command s e 2 0 ∧ (s.ctx (argAsid e)).destroyed = false ∧ emptied s (argAsid e)) ∧
  (∃ (s : State) (e : MgmtEntry), Command s e 7 0 ∧ (s.ctx (argAsid e)).destroyed = false) ∧
  (∃ (s : State) (e : MgmtEntry) (a : Nat), Command s e 8 0 ∧ (s.ctx (argAsid e)).destroyed = false ∧ a = paOffset e.arg2 ∧ block64 s a ∧
    block64 s (a + 64)) ∧
  (∃ (s : State) (e : MgmtEntry) (i : Instr) (op : Nat), (i, op) ∈ [(Instr.destroyContext, 2), (.grant, 7), (.usage, 8)] ∧ Command s e op
    0 ∧ (s.ctx (argAsid e)).destroyed = true) ∧
  (∃ (s : State) (e : MgmtEntry) (i : Instr) (op : Nat), (i, op) ∈ [(Instr.destroyContext, 2), (.grant, 7), (.usage, 8)] ∧ Command s e op
    0 ∧ (s.ctx (argAsid e)).destroyed = true) ∧
  (∃ (s : State) (e : MgmtEntry) (i : Instr) (op : Nat), (i, op) ∈ [(Instr.destroyContext, 2), (.grant, 7), (.usage, 8)] ∧ Command s e op
    0 ∧ (s.ctx (argAsid e)).destroyed = true) :=
  ⟨⟨commanding 1 0 0x72000 0 (withMem 0x72000 (contextRecord 7 4096) data), entryOf 1 0 0x72000 0, _, ⟨idle_of (by decide +kernel), by
      decide +kernel, by decide +kernel, ⟨by decide +kernel, by decide +kernel, unheld_of (by decide +kernel)⟩, ⟨by decide +kernel, by
      decide +kernel, unheld_of (by decide +kernel)⟩, by unfold State.memOk; decide +kernel⟩, by decide +kernel, ⟨by decide +kernel, by
      decide +kernel, unheld_of (by decide +kernel)⟩, rfl, by decide +kernel⟩,
    ⟨commanding 1 0 0x72000 0 (withMem 0x72000 (contextRecord 1 0) data), entryOf 1 0 0x72000 0, _, ⟨idle_of (by decide +kernel), by
      decide +kernel, by decide +kernel, ⟨by decide +kernel, by decide +kernel, unheld_of (by decide +kernel)⟩, ⟨by decide +kernel, by
      decide +kernel, unheld_of (by decide +kernel)⟩, by unfold State.memOk; decide +kernel⟩, by decide +kernel, ⟨by decide +kernel, by
      decide +kernel, unheld_of (by decide +kernel)⟩, rfl, by decide +kernel⟩,
    ⟨commanding 2 0 2 0 (second data), entryOf 2 0 2 0, ⟨idle_of (by decide +kernel), by decide +kernel, by decide +kernel, ⟨by
      decide +kernel, by decide +kernel, unheld_of (by decide +kernel)⟩, ⟨by decide +kernel, by decide +kernel, unheld_of (by
      decide +kernel)⟩, by unfold State.memOk; decide +kernel⟩, by decide +kernel, ⟨by decide +kernel, by decide +kernel, by
      decide +kernel, by decide +kernel⟩⟩,
    ⟨commanding 7 0 1 0x1FF data, entryOf 7 0 1 0x1FF, ⟨idle_of (by decide +kernel), by decide +kernel, by decide +kernel, ⟨by
      decide +kernel, by decide +kernel, unheld_of (by decide +kernel)⟩, ⟨by decide +kernel, by decide +kernel, unheld_of (by
      decide +kernel)⟩, by unfold State.memOk; decide +kernel⟩, by decide +kernel⟩,
    ⟨commanding 8 0 1 0x73000 data, entryOf 8 0 1 0x73000, 0x73000, ⟨idle_of (by decide +kernel), by decide +kernel, by decide +kernel,
      ⟨by decide +kernel, by decide +kernel, unheld_of (by decide +kernel)⟩, ⟨by decide +kernel, by decide +kernel, unheld_of (by
      decide +kernel)⟩, by unfold State.memOk; decide +kernel⟩, by decide +kernel, by decide +kernel, ⟨by decide +kernel, by
      decide +kernel, unheld_of (by decide +kernel)⟩, ⟨by decide +kernel, by decide +kernel, unheld_of (by decide +kernel)⟩⟩,
    ⟨commanding 2 0 9 0 data, entryOf 2 0 9 0, .destroyContext, 2, by decide +kernel, ⟨idle_of (by decide +kernel), by decide +kernel, by
      decide +kernel, ⟨by decide +kernel, by decide +kernel, unheld_of (by decide +kernel)⟩, ⟨by decide +kernel, by decide +kernel,
      unheld_of (by decide +kernel)⟩, by unfold State.memOk; decide +kernel⟩, by decide +kernel⟩,
    ⟨commanding 7 0 9 0 data, entryOf 7 0 9 0, .grant, 7, by decide +kernel, ⟨idle_of (by decide +kernel), by decide +kernel, by
      decide +kernel, ⟨by decide +kernel, by decide +kernel, unheld_of (by decide +kernel)⟩, ⟨by decide +kernel, by decide +kernel,
      unheld_of (by decide +kernel)⟩, by unfold State.memOk; decide +kernel⟩, by decide +kernel⟩,
    ⟨commanding 8 0 9 0 data, entryOf 8 0 9 0, .usage, 8, by decide +kernel, ⟨idle_of (by decide +kernel), by decide +kernel, by
      decide +kernel, ⟨by decide +kernel, by decide +kernel, unheld_of (by decide +kernel)⟩, ⟨by decide +kernel, by decide +kernel,
      unheld_of (by decide +kernel)⟩, by unfold State.memOk; decide +kernel⟩, by decide +kernel⟩⟩

/-- Witnesses for `Obligations.QueueCommands`. -/
theorem test_QueueCommands :
  (∃ (s : State) (e : MgmtEntry) (v qid : Nat), Command s e 3 0 ∧ block64 s (paOffset e.arg) ∧ v = recordAt s e (paOffset e.arg) ∧ s.qcbOk
    e.arg v = true ∧ ((1 ≤ qid ∧ qid < 4096 ∧ s.queue? qid = none ∧ ∀ n, 1 ≤ n → n < qid → s.queue? n ≠ none))) ∧
  (∃ (s : State) (e : MgmtEntry) (i : Instr) (op : Nat) (ok : List QueueState) (st : QueueState) (code : Nat) (q : Queue), (i, op, ok, st,
    code) ∈ moves ∧ Command s e op 0 ∧ s.queue? e.arg = some q ∧ q.st ∈ ok ∧ block64 s (paOffset q.qcb.toNat)) ∧
  (∃ (s : State) (e : MgmtEntry) (i : Instr) (op : Nat) (ok : List QueueState) (st : QueueState) (code : Nat) (q : Queue), (i, op, ok, st,
    code) ∈ moves ∧ Command s e op 0 ∧ s.queue? e.arg = some q ∧ q.st ∈ ok ∧ block64 s (paOffset q.qcb.toNat)) ∧
  (∃ (s : State) (e : MgmtEntry) (flags : Nat) (q : Queue), Command s e 6 flags ∧ flags < 2 ∧ s.queue? e.arg = some q ∧ q.st ∈
    [QueueState.created, .active, .suspended, .fenced] ∧ block64 s (paOffset q.qcb.toNat)) ∧
  (∃ (s : State) (e : MgmtEntry) (i : Instr) (op : Nat) (ok : List QueueState), (i, op, ok) ∈ [(Instr.startQueue, 4, [QueueState.created,
    .suspended]), (.suspendQueue, 5, [.active]), (.destroyQueue, 6, [.created, .active, .suspended, .fenced])] ∧ Command s e op 0 ∧ ((∀ q,
    s.queue? e.arg = some q → q.st ∉ ok))) ∧
  (∃ (s : State) (e : MgmtEntry) (i : Instr) (op : Nat) (ok : List QueueState), (i, op, ok) ∈ [(Instr.startQueue, 4, [QueueState.created,
    .suspended]), (.suspendQueue, 5, [.active]), (.destroyQueue, 6, [.created, .active, .suspended, .fenced])] ∧ Command s e op 0 ∧ ((∀ q,
    s.queue? e.arg = some q → q.st ∉ ok))) ∧
  (∃ (s : State) (e : MgmtEntry) (i : Instr) (op : Nat) (ok : List QueueState), (i, op, ok) ∈ [(Instr.startQueue, 4, [QueueState.created,
    .suspended]), (.suspendQueue, 5, [.active]), (.destroyQueue, 6, [.created, .active, .suspended, .fenced])] ∧ Command s e op 0 ∧ ((∀ q,
    s.queue? e.arg = some q → q.st ∉ ok))) :=
  ⟨⟨commanding 3 0 0x74000 0 (withMem 0x74000 queueBlock data), entryOf 3 0 0x74000 0, _, 1, ⟨idle_of (by decide +kernel), by
      decide +kernel, by decide +kernel, ⟨by decide +kernel, by decide +kernel, unheld_of (by decide +kernel)⟩, ⟨by decide +kernel, by
      decide +kernel, unheld_of (by decide +kernel)⟩, by unfold State.memOk; decide +kernel⟩, ⟨by decide +kernel, by decide +kernel,
      unheld_of (by decide +kernel)⟩, rfl, by decide +kernel, ⟨by decide +kernel, by decide +kernel, by decide +kernel, fun n h1 h2 =>
      absurd h2 (by omega)⟩⟩,
    ⟨commanding 4 0 1 0 { data with queues := [aQueue .created false []] }, entryOf 4 0 1 0, _, _, _, _, _, _, List.Mem.head _, ⟨idle_of
      (by decide +kernel), by decide +kernel, by decide +kernel, ⟨by decide +kernel, by decide +kernel, unheld_of (by decide +kernel)⟩,
      ⟨by decide +kernel, by decide +kernel, unheld_of (by decide +kernel)⟩, by unfold State.memOk; decide +kernel⟩, rfl, by
      decide +kernel, ⟨by decide +kernel, by decide +kernel, unheld_of (by decide +kernel)⟩⟩,
    ⟨commanding 5 0 1 0 { data with queues := [aQueue .active false []] }, entryOf 5 0 1 0, _, _, _, _, _, _, List.Mem.tail _
      (List.Mem.head _), ⟨idle_of (by decide +kernel), by decide +kernel, by decide +kernel, ⟨by decide +kernel, by decide +kernel,
      unheld_of (by decide +kernel)⟩, ⟨by decide +kernel, by decide +kernel, unheld_of (by decide +kernel)⟩,
      by unfold State.memOk; decide +kernel⟩, rfl, by decide +kernel, ⟨by decide +kernel, by decide +kernel, unheld_of (by
      decide +kernel)⟩⟩,
    ⟨commanding 6 1 1 0 { data with queues := [aQueue .fenced false []] }, entryOf 6 1 1 0, 1, _, ⟨idle_of (by decide +kernel), by
      decide +kernel, by decide +kernel, ⟨by decide +kernel, by decide +kernel, unheld_of (by decide +kernel)⟩, ⟨by decide +kernel, by
      decide +kernel, unheld_of (by decide +kernel)⟩, by unfold State.memOk; decide +kernel⟩, by decide +kernel, rfl, by decide +kernel,
      ⟨by decide +kernel, by decide +kernel, unheld_of (by decide +kernel)⟩⟩,
    ⟨commanding 4 0 1 0 { data with queues := [aQueue .active false []] }, entryOf 4 0 1 0, .startQueue, 4, _, List.Mem.head _, ⟨idle_of
      (by decide +kernel), by decide +kernel, by decide +kernel, ⟨by decide +kernel, by decide +kernel, unheld_of (by decide +kernel)⟩,
      ⟨by decide +kernel, by decide +kernel, unheld_of (by decide +kernel)⟩, by unfold State.memOk; decide +kernel⟩, some_of rfl (by
      decide +kernel)⟩,
    ⟨commanding 5 0 1 0 { data with queues := [aQueue .fenced false []] }, entryOf 5 0 1 0, .suspendQueue, 5, _, List.Mem.tail _
      (List.Mem.head _), ⟨idle_of (by decide +kernel), by decide +kernel, by decide +kernel, ⟨by decide +kernel, by decide +kernel,
      unheld_of (by decide +kernel)⟩, ⟨by decide +kernel, by decide +kernel, unheld_of (by decide +kernel)⟩,
      by unfold State.memOk; decide +kernel⟩, some_of rfl (by decide +kernel)⟩,
    ⟨commanding 6 0 1 0 { data with queues := [aQueue .destroyed false []] }, entryOf 6 0 1 0, .destroyQueue, 6, _, List.Mem.tail _
      (List.Mem.tail _ (List.Mem.head _)), ⟨idle_of (by decide +kernel), by decide +kernel, by decide +kernel, ⟨by decide +kernel, by
      decide +kernel, unheld_of (by decide +kernel)⟩, ⟨by decide +kernel, by decide +kernel, unheld_of (by decide +kernel)⟩,
      by unfold State.memOk; decide +kernel⟩, none_of (by decide +kernel)⟩⟩

/-- Witnesses for `Obligations.ShepherdRoles`. -/
theorem test_ShepherdRoles :
  (∃ (s : State) (e : MgmtEntry) (x : Image), Command s e 9 0 ∧ x = Config.loadedImage s.ticks e.arg) ∧
  (∃ (s : State) (a : DWord), Idle s ∧ s.shep.update = some (a, 0) ∧ a.toNat + 2 < lpddrEnd ∧ unheld s (a.toNat + 2) ∧ s.memOk) ∧
  (∃ s : State, s.shep.dead = false ∧ s.shep.taking = false ∧ s.shep.update = none) ∧
  (∃ s : State, s.shep.dead = false ∧ s.shep.taking = false ∧ s.shep.update = none) ∧
  (∃ s : State, s.shep.dead = false ∧ s.shep.taking = true ∧ s.shep.held = [] ∧ s.host.halted = false ∧ s.host.journal = 0 ∧ ((∀ q ∈
    s.queues, q.st ≠ .draining ∧ ∀ p ∈ q.packets, p.ended = true))) :=
  ⟨⟨commanding 9 0 0x75000 0 data, entryOf 9 0 0x75000 0, _, ⟨idle_of (by decide +kernel), by decide +kernel, by decide +kernel, ⟨by
      decide +kernel, by decide +kernel, unheld_of (by decide +kernel)⟩, ⟨by decide +kernel, by decide +kernel, unheld_of (by
      decide +kernel)⟩, by unfold State.memOk; decide +kernel⟩, rfl⟩,
    ⟨{ data with shep := { data.shep with update := some (0x71000, 0), loaded := some 5 } }, 0x71000, idle_of (by decide +kernel), by
      decide +kernel, by decide +kernel, unheld_of (by decide +kernel), (by unfold State.memOk; decide +kernel)⟩,
    ⟨State.reset, by decide +kernel⟩,
    ⟨{ State.reset with shep := { State.reset.shep with standby := false } }, by decide +kernel⟩,
    ⟨{ queueing [] with shep := { State.reset.shep with taking := true } }, by decide +kernel⟩⟩

/-- Witnesses for `Obligations.Links`. -/
theorem test_Links :
  (∃ (s : State) (n : Nat), s.linkPresent n = true) ∧
  (∃ (s : State) (n : Nat), s.linkPresent n = true) ∧
  (∃ (s : State) (n : Nat) (lanes : BitVec 4) (node : BitVec 9), s.linkPresent n = true ∧ (s.link n).st = .training ∧ lanes ∈ [8#4, 4#4,
    2#4] ∧ (s.nodeset = false ∨ node = s.nodeid)) ∧
  (∃ (s : State) (n : Nat) (lanes : BitVec 4) (node : BitVec 9), s.linkPresent n = true ∧ (s.link n).st = .training ∧ lanes ∈ [8#4, 4#4,
    2#4] ∧ (s.nodeset = true ∧ node ≠ s.nodeid)) ∧
  (∃ (s : State) (n : Nat), s.linkPresent n = true ∧ (s.link n).st = .training) ∧
  (∃ (s : State) (n : Nat), s.linkPresent n = true ∧ (s.link n).st = .degraded ∧ (∀ m < 12, m ≠ n → s.linkUsable m = false)) ∧
  (∃ (s : State) (n : Nat), s.linkPresent n = true ∧ (s.link n).st = .degraded ∧ (∃ m < 12, m ≠ n ∧ s.linkUsable m = true)) ∧
  (∃ (s : State) (n : Nat) (lanes : BitVec 4), s.linkPresent n = true ∧ s.linkUsable n = true ∧ 2 ≤ lanes.toNat ∧ lanes.toNat < (s.link
    n).lanes) ∧
  (∃ (s : State) (n : Nat) (k : BitVec 32), s.linkPresent n = true ∧ s.linkUsable n = true ∧ (s.link n).retries + k.toNat ≤ (s.link
    n).thresh.toNat) ∧
  (∃ (s : State) (n : Nat), s.linkPresent n = true ∧ (s.link n).st = .fenced) ∧
  (∃ (s : State) (n : Nat), s.linkPresent n = true ∧ s.linkUsable n = true ∧ NothingOn s n) ∧
  (∃ (s : State) (n x : Nat) (pc : DWord), s.linkPresent n = true ∧ OneFails s (fun y => y.link == n && decide (2250000 ≤ (s.clk -
    y.clk).toNat)) x pc) ∧
  (∃ (s : State) (n x : Nat) (pc : DWord), s.linkPresent n = true ∧ s.linkUsable n = true ∧ OneFails s (fun y => y.link == n) x pc) ∧
  (∃ (s : State) (n : Nat) (lanes : BitVec 4), s.linkPresent n = true ∧ s.linkUsable n = true ∧ lanes.toNat < 2 ∧ lanes.toNat < (s.link
    n).lanes) ∧
  (∃ (s : State) (n : Nat) (k : BitVec 32), s.linkPresent n = true ∧ s.linkUsable n = true ∧ NothingOn s n ∧ (s.link n).thresh.toNat <
    (s.link n).retries + k.toNat) :=
  ⟨⟨linkIn .down 0 State.reset, 0, by decide +kernel⟩,
    ⟨linkIn .down 0 State.reset, 11, by decide +kernel⟩,
    ⟨linkIn .training 0 State.reset, 0, 2, 511, by decide +kernel⟩,
    ⟨{ linkIn .training 0 State.reset with nodeset := true }, 0, 8, 1, by decide +kernel⟩,
    ⟨linkIn .training 0 State.reset, 0, by decide +kernel⟩,
    ⟨linkIn .degraded 4 one, 0, by decide +kernel⟩,
    ⟨(linkIn .degraded 4 one).modLink 11 (fun l => { l with st := .up }), 0, by decide +kernel⟩,
    ⟨linkIn .up 8 one, 0, 2, by decide +kernel⟩,
    ⟨linkIn .up 8 one, 0, 24, by decide +kernel⟩,
    ⟨linkIn .fenced 0 one, 0, by decide +kernel⟩,
    ⟨linkIn .up 8 data, 0, by decide +kernel, by decide +kernel, nothingOn_of (by decide +kernel) (by decide +kernel) (by decide +kernel)
      (by decide +kernel) (by decide +kernel)⟩,
    ⟨{ onLink0 with clk := 2250000 }, 0, 0, 0x10040, by decide +kernel, ⟨⟨by decide +kernel, by decide +kernel, noChild_of (by
      decide +kernel), ⟨1, by decide +kernel, by decide +kernel, by decide +kernel, by decide +kernel⟩⟩, by decide +kernel, othersSound_of
      (by decide +kernel) (by decide +kernel), enginesOff_of (by decide +kernel), by decide +kernel, grafts_of (by decide +kernel)⟩⟩,
    ⟨onLink0, 0, 0, 0x10040, by decide +kernel, by decide +kernel, ⟨⟨by decide +kernel, by decide +kernel, noChild_of (by decide +kernel),
      ⟨1, by decide +kernel, by decide +kernel, by decide +kernel, by decide +kernel⟩⟩, by decide +kernel, othersSound_of (by
      decide +kernel) (by decide +kernel), enginesOff_of (by decide +kernel), by decide +kernel, grafts_of (by decide +kernel)⟩⟩,
    ⟨linkIn .degraded 2 one, 0, 1, by decide +kernel⟩,
    ⟨linkIn .up 8 one, 0, 25, by decide +kernel, by decide +kernel, nothingOn_of (by decide +kernel) (by decide +kernel) (by
      decide +kernel) (by decide +kernel) (by decide +kernel), by decide +kernel⟩⟩

/-- Witnesses for `Obligations.OutsideAccesses`. -/
theorem test_OutsideAccesses :
  (∃ (s : State) (kind : BitVec 2) (op ty : BitVec 4) (size : Nat) (pa : BitVec 64) (_v _c : BitVec 128), s.host.halted = false ∧ 5 ≤
    s.boot.stage ∧ outsideKind kind op ty size ∧ OutsideAccess s size pa.toNat) ∧
  (∃ (s : State) (kind : BitVec 2) (op ty : BitVec 4) (size : Nat) (pa : BitVec 64) (_v _c : BitVec 128), s.host.halted = false ∧ 5 ≤
    s.boot.stage ∧ outsideKind kind op ty size ∧ OutsideAccess s size pa.toNat) ∧
  (∃ (s : State) (node : BitVec 9) (kind : BitVec 2) (op ty : BitVec 4) (size : Nat) (pa : BitVec 64) (__v __c : BitVec 128),
    s.host.halted = false ∧ outsideKind kind op ty size ∧ OutsideAccess s size pa.toNat ∧ node ≠ s.nodeid ∧ ((∃ n < 12, s.linkUsable n =
    true)) ∧ ((∀ c ∈ s.ctxs, c.handler = false))) ∧
  (∃ (s : State) (_store : Bool) (bar : BitVec 3) (o : BitVec 64) (size : Nat) (_v : BitVec 128), 5 ≤ s.boot.stage ∧ (s.pcieRoot = true ∨
    (bar = 4 ∧ o.toNat < 2 ^ 39)) ∧ size ∈ [1, 2, 4, 8, 16] ∧ o.toNat % size = 0 ∧ o.toNat + size ≤ lpddrEnd ∧ unheld s o.toNat ∧
    nothingOut s ∧ s.touched (s.foreignSpot o.toNat size) true = [] ∧ s.memOk) ∧
  (∃ (s : State) (pa : BitVec 64) (_v _c : BitVec 128), s.host.halted = false ∧ 5 ≤ s.boot.stage ∧ s.isLocal pa.toNat = true ∧ pa.toNat <
    2 ^ 52 ∧ pa.toNat % 8 = 0 ∧ deviceBase ≤ paOffset pa.toNat) ∧
  (∃ (s : State) (o : BitVec 64) (_v : BitVec 128), s.pcieRoot = false ∧ o.toNat % 8 = 0 ∧ o.toNat < 65536) ∧
  (∃ (s : State) (o : BitVec 64) (_v : BitVec 128), s.pcieRoot = false ∧ o.toNat % 8 = 0 ∧ (∃ q, o.toNat < 32768 ∧ s.queue? (o.toNat / 8)
    = some q ∧ q.host = true)) :=
  ⟨⟨booted data, 2, 10, 4, 4, 0xBFFFFFFFFC, 1, 2, by decide +kernel, by decide +kernel, (by unfold outsideKind; decide +kernel), ⟨by
      decide +kernel, by decide +kernel, unheld_of (by decide +kernel), ⟨nothingOut_of (by decide +kernel), by decide +kernel⟩,
      by unfold State.memOk; decide +kernel⟩⟩,
    ⟨booted data, 0, 0, 0, 16, 0xBFFFFFFFF0, 1, 2, by decide +kernel, by decide +kernel, (by unfold outsideKind; decide +kernel), ⟨by
      decide +kernel, by decide +kernel, unheld_of (by decide +kernel), ⟨nothingOut_of (by decide +kernel), by decide +kernel⟩,
      by unfold State.memOk; decide +kernel⟩⟩,
    ⟨linkIn .up 8 data, 511, 1, 0, 0, 1, 0, 255, 0, by decide +kernel, (by unfold outsideKind; decide +kernel), ⟨by decide +kernel, by
      decide +kernel, unheld_of (by decide +kernel), ⟨nothingOut_of (by decide +kernel), by decide +kernel⟩,
      by unfold State.memOk; decide +kernel⟩, by decide +kernel, ⟨0, by decide +kernel, by decide +kernel⟩, by decide +kernel⟩,
    ⟨booted data, true, 4, 0x7FF8, 8, 1, by decide +kernel, Or.inr ⟨by decide +kernel, by decide +kernel⟩, by decide +kernel, by
      decide +kernel, by decide +kernel, unheld_of (by decide +kernel), nothingOut_of (by decide +kernel), by decide +kernel,
      (by unfold State.memOk; decide +kernel)⟩,
    ⟨booted data, 0x7C000000018, 1, 0, by decide +kernel⟩,
    ⟨{ data with host := { data.host with caps := 0 }, queues := [{ aQueue .active true [] with host := true }] }, 0xFFF8, 1, by
      decide +kernel⟩,
    ⟨{ data with host := { data.host with caps := 0 }, queues := [{ aQueue .active true [] with host := true }] }, 8, 1, by
      decide +kernel, by decide +kernel, ⟨_, by decide +kernel, rfl, rfl⟩⟩⟩

/-- Witnesses for `Obligations.RegisterWindows`. -/
theorem test_RegisterWindows :
  (∃ (_s : State) (o : BitVec 39) (_v : DWord), (o = 0x018 ∨ o = 0x020)) ∧
  (∃ (s : State) (n : Nat) (v : DWord), n < 12 ∧ s.linkPresent n = true ∧ v.getLsbD 1 = false ∧ v.getLsbD 2 = false ∧ v.getLsbD 0 = false) ∧
  (∃ (_s : State) (n : Nat) (_v : DWord), n < 8192) ∧
  (∃ (_s : State) (n : Nat) (_v : DWord), n < 128) :=
  ⟨⟨State.reset, 0x020, 1, by decide +kernel⟩,
    ⟨linkIn .up 8 data, 11, 0, by decide +kernel⟩,
    ⟨State.reset, 8191, 1, by decide +kernel⟩,
    ⟨State.reset, 127, 1, by decide +kernel⟩⟩

/-- Witnesses for `Obligations.EthernetPorts`. -/
theorem test_EthernetPorts :
  (∃ (s : State) (port n : Nat) (_v : BitVec 32), port < s.eth.length ∧ n < 128) ∧
  (∃ (s : State) (port work v : Nat) (status : BitVec 7) (_count _imm : BitVec 32), s.host.halted = false ∧ port < s.eth.length ∧
    (s.ethPort port).canWork work 0 = true ∧ WorkEntry s port work v ∧ donePlace s port work ∧ s.memOk ∧ (status ≠ 0 ∨ v / 2 ^ 120 % 256 <
    4) ∧ ((∀ i < sentBytes v, unheld s (paOffset (v % 2 ^ 64) + i)))) ∧
  (∃ (s : State) (port work v : Nat) (status : BitVec 7) (_count _imm : BitVec 32), s.host.halted = false ∧ port < s.eth.length ∧
    (s.ethPort port).canWork work 0 = true ∧ WorkEntry s port work v ∧ donePlace s port work ∧ s.memOk ∧ (status ≠ 0 ∨ v / 2 ^ 120 % 256 <
    4) ∧ ((∀ i < sentBytes v, unheld s (paOffset (v % 2 ^ 64) + i)))) ∧
  (∃ (s : State) (port work v : Nat) (qpn : BitVec 24) (frame : List (BitVec 8)) (_imm : BitVec 32), s.host.halted = false ∧ (s.ethPort
    port).up = true ∧ (s.ethPort port).canWork work 1 = true ∧ WorkEntry s port work v ∧ donePlace s port work ∧ s.memOk ∧ qpn.toNat = v /
    2 ^ 96 % 2 ^ 24 ∧ frame.length ≤ v / 2 ^ 64 % 2 ^ 32 ∧ paOffset (v % 2 ^ 64) + frame.length ≤ lpddrEnd ∧ ((∀ i < frame.length, unheld
    s (paOffset (v % 2 ^ 64) + i)))) :=
  ⟨⟨ported [], 1, 127, 5, by decide +kernel⟩,
    ⟨ported (bytesOf 8 0x20000 ++ bytesOf 4 64 ++ bytesOf 4 5 ++ bytesOf 8 0 ++ bytesOf 4 0 ++ bytesOf 4 1), 0, 0, _, 0, 64, 0, by
      decide +kernel, by decide +kernel, by decide +kernel, ⟨rfl, unheld_of (by decide +kernel)⟩, ⟨by decide +kernel, by decide +kernel,
      unheld_of (by decide +kernel)⟩, (by unfold State.memOk; decide +kernel), by decide +kernel, fun _ _ => noLine_of (by decide +kernel)
      _⟩,
    ⟨ported (bytesOf 8 0x20000 ++ bytesOf 4 64 ++ bytesOf 4 5 ++ bytesOf 8 0 ++ bytesOf 4 0 ++ bytesOf 4 1), 0, 0, _, 127, 0, 0, by
      decide +kernel, by decide +kernel, by decide +kernel, ⟨rfl, unheld_of (by decide +kernel)⟩, ⟨by decide +kernel, by decide +kernel,
      unheld_of (by decide +kernel)⟩, (by unfold State.memOk; decide +kernel), by decide +kernel, fun _ _ => noLine_of (by decide +kernel)
      _⟩,
    ⟨ported (bytesOf 8 0x20000 ++ bytesOf 4 64 ++ bytesOf 4 5 ++ bytesOf 8 0 ++ bytesOf 4 0 ++ bytesOf 4 1), 0, 1, _, 5, [1, 2], 0, by
      decide +kernel, by decide +kernel, by decide +kernel, ⟨rfl, unheld_of (by decide +kernel)⟩, ⟨by decide +kernel, by decide +kernel,
      unheld_of (by decide +kernel)⟩, (by unfold State.memOk; decide +kernel), by decide +kernel, by decide +kernel, by decide +kernel,
      two_of (unheld_of (by decide +kernel)) (unheld_of (by decide +kernel))⟩⟩

/-- Witnesses for `Obligations.BootHaltPower`. -/
theorem test_BootHaltPower :
  (∃ (s : State) (f g : FlashSlot), s.boot.stage = 0 ∧ s.boot.flash = [f, g] ∧ s.links.length = 12 ∧ s.boot.lpddr = false) ∧
  (∃ (s : State) (f g : FlashSlot), s.boot.stage = 0 ∧ s.boot.flash = [f, g] ∧ s.links.length = 12 ∧ s.boot.lpddr = true) ∧
  (∃ (_s : State) (v : DWord) (k n : Nat), k = v.toNat % 4 ∧ n = v.toNat / 4 % 128) ∧
  (∃ (s : State) (a buf : Nat) (body : List Byte), s.host.attest ≠ 0 ∧ s.shepherding = true ∧ 5 ≤ s.boot.stage ∧ a = paOffset
    s.host.attest.toNat ∧ buf = paOffset (ofBytes ((List.range 8).map (fun i => s.mem.read (a + 32 + i)))) ∧ buf % 128 = 0 ∧ buf + 192 ≤
    lpddrEnd ∧ a % 64 = 0 ∧ unheld s a ∧ unheld s buf ∧ unheld s (buf + 128) ∧ s.memOk ∧ body = (List.range 32).map (fun i => s.mem.read
    (a + i)) ++ bytesOf 32 s.shepDigest.toNat ++ bytesOf 32 s.boot.slotOf.sys.digest.toNat ++ bytesOf 8 s.host.caps.toNat ++ bytesOf 8
    (s.boot.shepsvn + 2 ^ 8 * s.boot.syssvn + 2 ^ 16 * s.boot.codesvn) ++ bytesOf 8 s.host.idreg.toNat ++ bytesOf 8 s.boot.stat.toNat) ∧
  (∃ s : State, s.host.halted = false) ∧
  (∃ (s : State) (die : Nat), die < s.power.mhz.length) :=
  ⟨⟨booting false, _, _, by decide +kernel, rfl, by decide +kernel⟩,
    ⟨booting true, _, _, by decide +kernel, rfl, by decide +kernel⟩,
    ⟨State.reset, 0x100, _, _, rfl, rfl⟩,
    ⟨withMem 0x80020 (bytesOf 8 0x90000) { booted data with host := { data.host with attest := 0x80000 } }, 0x80000, 0x90000, _, by
      decide +kernel, by decide +kernel, by decide +kernel, by decide +kernel, (by decide +kernel), by decide +kernel, by decide +kernel, by
      decide +kernel, unheld_of (by decide +kernel), unheld_of (by decide +kernel), unheld_of (by decide +kernel),
      (by unfold State.memOk; decide +kernel), rfl⟩,
    ⟨State.reset, by decide +kernel⟩,
    ⟨State.reset, 3, by decide +kernel⟩⟩

/-- Witnesses for `Obligations.MonitorArming`. -/
theorem test_MonitorArming :
  (∃ (s : State) (a : BitVec 6) (m : BitVec 3) (x : Monitor), s.issues (.harm a m) ∧ monHeld s m ∧ s.uniTrap [⟨a.toNat, 1, .int⟩] = none ∧
    x = (s.team s.curTeam).mon m.toNat ∧ x.st ≠ .unconfigured ∧ (s.u32 a).toNat ≤ 1) ∧
  (∃ (s : State) (a : BitVec 6) (m : BitVec 3) (x : Monitor), s.issues (.harm a m) ∧ monHeld s m ∧ s.uniTrap [⟨a.toNat, 1, .int⟩] = none ∧
    x = (s.team s.curTeam).mon m.toNat ∧ x.st ≠ .unconfigured ∧ (s.u32 a).toNat ≤ 1) ∧
  (∃ (s : State) (a : BitVec 6) (m : BitVec 3), s.issues (.harm a m) ∧ s.uniTrap [⟨a.toNat, 1, .int⟩] = none ∧ handled s ∧ (((s.team
    s.curTeam).mon m.toNat).st = .unconfigured ∨ 1 < (s.u32 a).toNat)) ∧
  (∃ (s : State) (a : BitVec 6) (m : BitVec 3), s.issues (.harm a m) ∧ s.uniTrap [⟨a.toNat, 1, .int⟩] = none ∧ handled s ∧ (((s.team
    s.curTeam).mon m.toNat).st = .unconfigured ∨ 1 < (s.u32 a).toNat)) :=
  ⟨⟨withS 12 1 (after (.harm 13 7) (armed 0 0)), 12, 7, _, issues_of (by decide +kernel), ⟨by decide +kernel, by decide +kernel⟩, by
      decide +kernel, rfl, by decide +kernel⟩,
    ⟨withS 12 0 (armed 0 0), 12, 7, _, issues_of (by decide +kernel), ⟨by decide +kernel, by decide +kernel⟩, by decide +kernel, rfl, by
      decide +kernel⟩,
    ⟨withS 12 1 watched, 12, 0, issues_of (by decide +kernel), by decide +kernel, ⟨by decide +kernel, by decide +kernel, by
      decide +kernel, by decide +kernel⟩, by decide +kernel⟩,
    ⟨withS 12 2 { armed 0 0 with ctxs := watched.ctxs }, 12, 7, issues_of (by decide +kernel), by decide +kernel, ⟨by decide +kernel, by
      decide +kernel, by decide +kernel, by decide +kernel⟩, by decide +kernel⟩⟩

/-- Witnesses for `Obligations.EncodingTrapsPark`. -/
theorem test_EncodingTrapsPark : ∃ (s : State) (i : Instr) (c : BitVec 8), i.encoded = true ∧ s.wordTrap i = some c ∧ s.others = [] ∧
  ((s.curCtx.handler = true ∧ s.curB.handler = none) ∨ (∀ x, s.versioned x = false)) :=
  ⟨watched, .bsync 0 0, 0x01, by decide +kernel, by decide +kernel, by decide +kernel, Or.inl ⟨by decide +kernel, by decide +kernel⟩⟩

/-- Witnesses for `Obligations.CreatedBundles`. -/
theorem test_CreatedBundles :
  (∃ (k : BitVec 16) (x part : Nat) (q : Place) (w p i : Nat) (t : Option Nat) (ts : List Thread) (h : Option Handler) (b : Bundle), b =
    newBundle k x part q w p i t ts h) ∧
  (∃ (b : Bundle) (n : Nat) (_v : BitVec 64), n < 7 ∧ b.m.length = 8) :=
  ⟨⟨1, 0, 0, ⟨0, 0, 0⟩, 16, 64, 0, none, [], none, _, rfl⟩,
    ⟨one.curB, 6, 5, by decide +kernel⟩⟩

/-- Witnesses for `Obligations.MemoryKept`. -/
theorem test_MemoryKept : ∃ (s : State), s.memOk ∧ (∃ t, step s = .next t) :=
  ⟨fetching .exit, (by unfold State.memOk; decide +kernel), next_of (by decide +kernel)⟩

/-- Witnesses for `Obligations.RetirementKept`. -/
theorem test_RetirementKept : ∃ (s : State), (∃ t, step s = .next t) :=
  ⟨fetching .exit, next_of (by decide +kernel)⟩

/-- Witnesses for `Obligations.DecodeEncode`. -/
theorem test_DecodeEncode : ∃ (i : Instr), i.encoded = true :=
  ⟨.coll 24 6, by decide +kernel⟩

/-- Witnesses for `Obligations.StepRunsInstruction`. -/
theorem test_StepRunsInstruction :
  (∃ (s p r v : State) (b : Nat) (rest : List Move) (w : Word) (i : Instr), s.agenda = .issue b :: rest ∧ p = { s.passTime with agenda :=
    rest } ∧ p.mayIssue b = true ∧ (p.selectSet b).cur.lanes ≠ 0 ∧ (p.selectSet b).fetch b (p.selectSet b).cur.pc = (r, .word w true) ∧
    decode w = .ok i ∧ isPrefixWord i = false ∧ v = { r with cur := { r.cur with plain := true } } ∧ v.cur.flag = none ∧ v.fallsInClause
    v.cur.pc = false ∧ headerOf w = none ∧ v.curB.flags = 0 ∧ v.bkptLanes = [] ∧ v.cur.lanes ≠ 0 ∧ v.fenceHolds i = false ∧ (∃ u, exec i v
    = .next u)) ∧
  (∃ (s p r v : State) (b : Nat) (rest : List Move) (w : Word) (i : Instr) (c : Clause), s.agenda = .issue b :: rest ∧ p = { s.passTime
    with agenda := rest } ∧ p.mayIssue b = true ∧ (p.selectSet b).cur.lanes ≠ 0 ∧ (p.selectSet b).fetch b (p.selectSet b).cur.pc = (r,
    .word w false) ∧ decode w = .ok i ∧ isPrefixWord i = false ∧ headerOf w = none ∧ r.clauseAt r.cur.bundle r.cur.pc = some c ∧ ((∀ l ∈
    r.issued, (r.curB.thread l).fell = true)) ∧ r.bkptLanes = [] ∧ r.cur.lanes ≠ 0 ∧ c.h.bad = false ∧ r.clauseDefect r.cur.bundle
    r.cur.pc c w = false ∧ v = { r with cur := { r.cur with flag := (if (wordInfo i).long then some (Clause.flagOf c (r.longBefore
    r.cur.bundle r.cur.pc c)) else none) } } ∧ ((∀ n, v.cur.flag = some n → v.curB.flags.getLsbD n = false)) ∧ v.fenceHolds i = false ∧ (∃
    u, exec i v = .next u)) ∧
  (∃ (s p v u x : State) (b : Nat) (rest : List Move) (i j : Instr), s.agenda = .issue b :: rest ∧ p = { s.passTime with agenda := rest }
    ∧ p.mayIssue b = true ∧ p.front b = .run i v ∧ isPrefixWord i = true ∧ exec i v = .next u ∧ u.cur.pfx.isSome = true ∧ u.frontSecond =
    .run j x ∧ (∃ y, exec j x = .next y)) :=
  ⟨⟨fetching (.add 8 9 10 0 0), _, _, _, 0, _, (encode (.add 8 9 10 0 0)).getD 0, _, rfl, rfl, by decide +kernel, by decide +kernel,
      fetched_of (by decide +kernel), rfl, by decide +kernel, rfl, by decide +kernel, by decide +kernel, by decide +kernel, by
      decide +kernel, by decide +kernel, by decide +kernel, by decide +kernel, next_of (by decide +kernel)⟩,
    ⟨clausal, _, _, _, 0, _, (encode (.div 8 9 10 0 0)).getD 0, _, _, rfl, rfl, by decide +kernel, by decide +kernel, fetched_of (by
      decide +kernel), rfl, by decide +kernel, by decide +kernel, get_of (by decide +kernel), by decide +kernel, by decide +kernel, by
      decide +kernel, by decide +kernel, by decide +kernel, rfl, by decide +kernel, by decide +kernel, next_of (by decide +kernel)⟩,
    ⟨prefixed, _, _, _, _, 0, _, .prefixWord 11 0 0 0 0 0, .mad 8 9 10 0 0, rfl, rfl, by decide +kernel, runs_of (by decide +kernel), by
      decide +kernel, after_of (by decide +kernel), by decide +kernel, runs_of (by decide +kernel), next_of (by decide +kernel)⟩⟩

/-! ### Words that the spec writes out: single steps, with results computed by hand from the rules -/

/-- Lane 0's register n after a word. -/
def gives (i : Instr) (s : State) (n : Nat) : Word := ((after i s).readV 0 0 n).val

/-- Lane 0's FSTAT after a word. -/
def flags (i : Instr) (s : State) : BitVec 6 := ((after i s).thread 0 0).fstat

/-- Two operands in v9 and v10. -/
def ab (a b : Word) : State := withV 9 a (withV 10 b one)

/-- A prefix with a rounding mode and SAT. -/
def mode (r : BitVec 3) (sat : Bool) (s : State) : State := { s with cur := { s.cur with pfx := some ⟨0, 0, false, false, r, sat⟩ } }

/-- A bundle of 16 threads, of which m1 marks lanes 1, 2 and 5, which hold 3, 4 and 7 in v9. -/
def sixteen : State :=
  let s := one.modBundle 0 (fun b => { b with threads := List.replicate 16 (b.thread 0), m := b.m.set 1 0x26 })
  let s := [(1, 3), (2, 4), (5, 7)].foldl (fun s x => s.modThread 0 x.1 (fun t => t.writeV 9 ⟨x.2, .int⟩)) s
  { s with cur := { s.cur with lanes := 0xFFFF, pfx := some ⟨0, 1, true, false, 0, false⟩ } }

/-- Lane l's register 8 after a word. -/
def lane (i : Instr) (s : State) (l : Nat) : Word := ((after i s).readV 0 l 8).val

/-- Two operands without a format, in v9 and v10. -/
def raws (a b : Word) : State := [(9, a), (10, b)].foldl (fun s x => s.modThread 0 0 (fun t => t.writeV x.1 ⟨x.2, .raw⟩)) one

/-- Lane register n of the thread, without a format. -/
def withR (n : Nat) (v : Word) (s : State) : State := s.modThread 0 0 (fun t => t.writeV n ⟨v, .raw⟩)

/-- R116: the example of saturation. -/
theorem test_add_saturates : gives (.add 8 9 10 0 0) (mode 0 true (ab 0x7FFFFFFF 1)) 8 = 0x7FFFFFFF ∧
    flags (.add 8 9 10 0 0) (mode 0 true (ab 0x7FFFFFFF 1)) = 0x20 ∧ gives (.add 8 9 10 0 0) (ab 0x7FFFFFFF 1) 8 = 0x80000000 := by
  decide +kernel

/-- R117, R120 to R124, R128, by hand. -/
theorem test_integer_words : gives (.sub 8 9 10 0 0) (ab 3 5) 8 = 0xFFFFFFFE ∧ gives (.mulh 8 9 10 0 0) (ab 0x80000000 2) 8 = 0xFFFFFFFF ∧
    gives (.mulh 8 9 10 1 0) (ab 0x80000000 2) 8 = 1 ∧ gives (.mad 8 9 10 0 0) (pre 9 false (ab 3 5)) 8 = 18 ∧
    gives (.minmax 8 9 10 0 0) (ab 0xFFFFFFFF 1) 8 = 0xFFFFFFFF ∧ gives (.bits 8 9 1 0) (ab 0x00010000 0) 8 = 15 ∧
    gives (.bits 8 9 2 0) (ab 1 0) 8 = 0x80000000 ∧ gives (.bfx 8 9 10 0 0) (ab 0x0000F000 0x8C) 8 = 0xFFFFFFFF ∧
    gives (.addi 8 9 0xFFF) (ab 0 0) 8 = 0xFFFFFFFF ∧ gives (.lih 8 0x00048) (withV 8 0xFFFE3456 one) 8 = 0x00123456 := by
  decide +kernel

/-- R119: its table. -/
theorem test_divide : gives (.div 8 9 10 0 0) (ab 7 0xFFFFFFFE) 8 = 0xFFFFFFFD ∧ gives (.rem 8 9 10 0 0) (ab 0xFFFFFFF9 2) 8 = 0xFFFFFFFF ∧
    gives (.div 8 9 10 0 0) (ab 0x80000000 0xFFFFFFFF) 8 = 0x80000000 ∧ gives (.div 8 9 10 1 0) (ab 0xFFFFFFFF 2) 8 = 0x7FFFFFFF ∧
    gives (.div 8 9 10 0 0) (ab 5 0) 8 = 0xFFFFFFFF ∧ gives (.rem 8 9 10 0 0) (ab 5 0) 8 = 5 ∧
    flags (.rem 8 9 10 0 0) (ab 5 0) = 2 := by
  decide +kernel

/-- R129 to R137, with F32 values: 1.5 × 2 + 0.25; the examples of `frnd`; a NaN in `fmul` of 0 and an infinity; 1 − 2. -/
theorem test_float_words : gives (.fma 8 9 10 0 0) (pre 11 false (withR 11 0x3E800000 (raws 0x3FC00000 0x40000000))) 8 = 0x40500000 ∧
    gives (.frnd 8 9 0 0) (raws 0x40200000 0) 8 = 0x40000000 ∧ flags (.frnd 8 9 0 0) (raws 0x40200000 0) = 0x10 ∧
    gives (.frnd 8 9 0 0) (mode 4 false (raws 0x40200000 0)) 8 = 0x40400000 ∧
    gives (.frnd 8 9 0 0) (mode 2 false (raws 0xBE800000 0)) 8 = 0xBF800000 ∧
    gives (.fmul 8 9 10 0 0) (raws 0 0x7F800000) 8 = 0x7FC00000 ∧ flags (.fmul 8 9 10 0 0) (raws 0 0x7F800000) = 1 ∧
    gives (.fsub 8 9 10 0 0) (raws 0x3F800000 0x40000000) 8 = 0xBF800000 := by
  decide +kernel

/-- R70, R133: the examples of `sfu.ex2`, and the reciprocal of 16. -/
theorem test_sfu : gives (.sfu 8 9 3 0) (raws 0xC0400000 0) 8 = 0x3E000000 ∧ gives (.sfu 8 9 3 0) (raws 0x3F000000 0) 8 = 0x3FB504F3 ∧
    flags (.sfu 8 9 3 0) (raws 0x3F000000 0) = 0x10 ∧ gives (.sfu 8 9 0 0) (raws 0x41800000 0) 8 = 0x3D800000 := by
  decide +kernel

/-- R64, R74: 3.0 and 0.75 as LG6 elements, and the example of `lgdot`. -/
theorem test_lg6 : gives (.cvt 8 16 0x12 0x18) (withR 16 0x40400000 (withR 17 0x3F400000 (withR 18 0x3F800000 (withR 19 0x3F800000
      (withR 20 0x3F800000 one))))) 8 &&& 0xFFF = 0x786 ∧
    gives (.lgdot 8 9 10 0) (withR 8 0x3F800000 (raws 0x10410786 0x1041019E)) 8 = 0x40A00000 := by
  decide +kernel

/-- The scores of key tile 1 of the worked example in spec/14 in v8 to v39, with the running maximum +0 in v0 and sum 30.5 in v1. -/
def scores : State := [(0, 0), (1, 0x41F40000), (9, 0x40000000), (16, 0xBF800000), (17, 0xBF800000), (18, 0xBF800000)].foldl
  (fun s x => s.modThread 0 0 (fun t => t.writeV x.1 ⟨x.2, .f32⟩))
  ((List.range 32).foldl (fun s k => s.modThread 0 0 (fun t => t.writeV (8 + k) ⟨0, .f32⟩)) one)

/-- R141, R142: the running sums and the probabilities of the example, with its two words decoded. -/
theorem test_softmax : decode 0x27008000 = .ok (.smxa 0 8 0) ∧ decode 0x283C8010 = .ok (.smxb 15 8 0 2 0) ∧
    [0, 1, 2].map (gives (.smxa 0 8 0) scores) = [0x40000000, 0x41800000, 0x3E800000] ∧
    (List.range 7).map (fun k => gives (.smxb 15 8 0 2 0) (after (.smxa 0 8 0) scores) (8 + k))
      = [0x18618018, 0x14518618, 0x18618614, 0x18618618, 0x18618618, 0x18618618, 0x10410618] := by
  decide +kernel

/-- R108, R109: the example of `red` and `scan`. -/
theorem test_red_scan : lane (.red 8 9 0 0) sixteen 1 = 14 ∧ lane (.red 8 9 0 0) sixteen 5 = 14 ∧ lane (.red 8 9 0 0) sixteen 0 = 0 ∧
    lane (.scan 8 9 1 0) sixteen 1 = 0 ∧ lane (.scan 8 9 1 0) sixteen 2 = 3 ∧ lane (.scan 8 9 1 0) sixteen 5 = 7 := by
  decide +kernel

/-- R106: lane 2 takes the value of lane 1 from `shfl.up` by 1, and lane 1 keeps its own, for lane 0 is not active. -/
theorem test_shuffle : ((after (.shfl 8 9 10 1 0) (sixteen.modBundle 0 (fun b => { b with
    threads := b.threads.map (fun t => t.writeV 10 ⟨1, .int⟩) }))).bundle 0).threads.map (fun t => (t.keyGet (t.key 8)).val)
      = [0, 3, 3, 0, 0, 7, 0, 0, 0, 0, 0, 0, 0, 0, 0, 0] := by
  decide +kernel


/-- R102, R145, R144, R26: a branch back by one word; `umulh`, `ucmp`, `uaddi`; `mlogic.andn`; `ulane`. -/
theorem test_uniform_and_branches : ((after (.br 7 1 0xFFFFF) one).thread 0 0).pc = 0x1003C ∧
    ((after (.br 7 0 0xFFFFF) one).thread 0 0).pc = 0x10044 ∧
    ((after (.umul 8 10 12 2) (withS 10 0x80000000 (withS 12 2 one))).readS 0 8).val = 0xFFFFFFFF ∧
    ((after (.ucmp 4 5 6 2 0) (withS 5 0xFFFFFFFF (withS 6 1 one))).readS 0 4).val = 1 ∧
    ((after (.uaddi 4 5 0xFFF) (withS 5 7 one)).readS 0 4).val = 6 ∧
    ((after (.mlogic 2 1 3 3) (one.modBundle 0 (fun b => { b with m := (b.m.set 1 0xF).set 3 0x5 }))).bundle 0).m.getD 2 0 = 0xA := by
  decide +kernel

/-- R166 to R169: sign and zero extension, the byte order of a store, an offset scaled by the size, and an atomic. -/
theorem test_memory_words : gives (.ld16s 8 10 0xFF 0) (withMem 0xFFFE [0xFE, 0xFF] (withV 10 0x10000 (withV 11 0 { one with
      tlb := [⟨0, 1, 1, 16, 0, 0xFF⟩, ⟨0, 1, 0, 16, 0, 0xFF⟩] }))) 8 = 0xFFFFFFFE ∧
    gives (.ld16z 8 10 1 0) (withMem 0x10002 [0xFE, 0xFF] data) 8 = 0x0000FFFE ∧
    gives (.ld8s 8 10 1 0) (withMem 0x10001 [0x80] data) 8 = 0xFFFFFF80 ∧
    (((after (.st32 8 10 2 0) (withV 8 0x01020304 data)).thread 0 0).out.head?.map (fun p => match p with
      | .store x => (x.pa, x.bytes)
      | .fence _ => (0, []))) = some (0x10008, [4, 3, 2, 1]) ∧
    (after (.atom 8 10 0 0 0) (withV 8 7 (withMem 0x10000 [0xFE, 0xFF, 0xFF, 0xFF] data))).mem = [(0x10000, 5)] ∧
    (after (.atom 8 10 5 0 0) (withV 8 1 (withMem 0x10000 [3] data))).mem = [(0x10000, 2)] := by
  decide +kernel

/-- A caller with a window of 16 registers and its frame's SP. -/
def caller : State := (withV 4 0x170 framed).modThread 0 0 (fun t => { t with n := 16 })

/-- R97 to R105: the example of `enter 16, 4`, with frames from 0. -/
def entered : State := after (.enter 4 16) (after (.call 7 1 4) caller)

theorem test_enter : entered.readV 0 0 6 = ⟨0x1F0, .w64⟩ ∧ (entered.readV 0 0 4).val = 0x1F0 ∧
    entered.mem.readBytes (0x20000 + 0x1B0) 32 = bytesOf 8 0x140 ++ bytesOf 8 0x170 ++ bytesOf 8 0x10044 ++ bytesOf 8 0x10110 := by
  decide +kernel

theorem test_ret : gives .ret entered 6 = 0x140 ∧ gives .ret entered 4 = 0x170 ∧ ((after .ret entered).thread 0 0).n = 16 := by
  decide +kernel

/-- R285: the example of `mark 5`, with frames from 0. -/
theorem test_mark : (after (.mark 5) (withV 4 0x160 sliced)).mem.readBytes (0x20000 + 0x160) 32 =
      bytesOf 8 0 ++ bytesOf 8 0x140 ++ bytesOf 8 5 ++ bytesOf 8 0 ∧ gives (.mark 5) (withV 4 0x160 sliced) 4 = 0x180 ∧
    ((after (.mark 5) (withV 4 0x160 sliced)).thread 0 0).marktop = 0x160 := by
  decide +kernel

/-- R279, R286: MAGIC, LEN, NFR and CTX of a slice, and the handle. -/
theorem test_cut : (after (.cut 0 2 5) callee).mem.readBytes 0x10004 12 = bytesOf 4 0x534C4943 ++ bytesOf 4 80 ++ bytesOf 2 1 ++ bytesOf 2 1 ∧
    gives (.cut 0 2 5) callee 0 = 0x20000 ∧ gives (.cut 0 2 5) callee 1 = 0x01000000 ∧ gives (.cut 0 2 5) callee 6 = 0x140 := by
  decide +kernel

/-- R91: the two written values of the example, as the event writes them. -/
theorem test_leash : ((after (.leashWrite 1 0x00020000) one).ctx 1).leash = 64 ∧ ((after (.leashWrite 1 0x0001FFFF) one).ctx 1).leash = 65536 := by
  decide +kernel

/-- R220, R224: the one thread of the team releases its barrier. -/
theorem test_bsync : ((after (.bsync 1 0) one).bar (.team 0 0)).gen = 1 ∧ ((after (.bsync 1 0) one).thread 0 0).pc = 0x10044 := by
  decide +kernel

/-- R349, R360: `trap 3` parks the thread with cause 0x73 and the PC of the word. -/
theorem test_trap : ((after (.trap 3) watched).thread 0 0).st = .parked .trap ∧ ((after (.trap 3) watched).thread 0 0).frec.w0.setWidth 8 = 0x73#8 ∧
    ((after (.trap 3) watched).thread 0 0).frec.pc = 0x10040 := by
  decide +kernel

/-! ### Terms that are not well formed, one for each check of the word (R29, R30, R42 to R48) -/

theorem test_ill_reserved_fn : (Instr.bsync 0 0).wellFormed = false ∧ (Instr.logic 8 9 10 7 0).wellFormed = false ∧
    (Instr.atom 8 10 8 0 0).wellFormed = false ∧ (Instr.trap 12).wellFormed = false ∧ (Instr.srd 8 0xFFF).wellFormed = false := by
  decide

theorem test_ill_mbz_set : (Instr.sstat 14 10 2).wellFormed = false ∧ (Instr.fence 0 0 1 3).wellFormed = false := by
  decide

theorem test_ill_bad_register : (Instr.uld64 5 2 2 1).wellFormed = false ∧ (Instr.mmpost 16 20).wellFormed = false ∧
    (Instr.hrd 13 2 0).wellFormed = false := by
  decide

theorem test_ill_event : Instr.boot.wellFormed = false ∧ (Instr.doorbell 1).wellFormed = false := by
  decide

end Sys2Proof.Tests
end

section
/-! Main memory stays in its canonical form (R1, R321). `State.memWrite` is the one function of the model that changes the list of
bytes, and `Laws.memWrite_wf` says that it keeps the form. So every function of the model that answers a state keeps it as well: one
lemma each, in the order of the model, named for the function under `State.memOk`, so that a proof reads as the chain of the calls that
the function makes. A function that takes another one asks that the other keeps the form. -/
namespace Sys2Proof.Machine

/-! ### What keeps the form, apart from the model's functions -/

/-- An outcome keeps main memory in its canonical form: where it goes on, it goes on from a state in that form. -/
def OutMemOk (o : Host.Outcome State Fault Refusal) : Prop := ∀ t, o = .next t → t.memOk

theorem OutMemOk.next {s : State} (h : s.memOk) : OutMemOk (.next s) := by
  rintro _ ⟨⟩
  exact h

/-- An answer of the front end carries a state in the canonical form. -/
def Front.MemOk : Front → Prop
  | .done s => s.memOk
  | .fails s => s.memOk
  | .run _ s => s.memOk

theorem Front.MemOk.of_done {f : Front} {s : State} (e : f = .done s) (h : f.MemOk) : s.memOk := by
  subst e
  exact h

theorem Front.MemOk.of_fails {f : Front} {s : State} (e : f = .fails s) (h : f.MemOk) : s.memOk := by
  subst e
  exact h

theorem Front.MemOk.of_run {f : Front} {i : Instr} {s : State} (e : f = .run i s) (h : f.MemOk) : s.memOk := by
  subst e
  exact h

theorem Front.MemOk.ite {f g : Front} {c : Prop} [Decidable c] (hf : f.MemOk) (hg : g.MemOk) : (if c then f else g).MemOk := by
  split <;> assumption

/-- What a function answers beside the state does not matter: its state, taken out of the pair by a match, is in the form. -/
theorem State.memOk.of_eq {α : Type} {p : State × α} {t : State} {x : α} (e : p = (t, x)) (h : p.1.memOk) : t.memOk := by
  subst e
  exact h

theorem State.memOk.fst {α : Type} {s : State} {x : α} (h : s.memOk) : (s, x).1.memOk := h

theorem State.memOk.ite {s t : State} {c : Prop} [Decidable c] (hs : s.memOk) (ht : t.memOk) : (if c then s else t).memOk := by
  split <;> assumption

theorem State.memOk.ite_fst {α : Type} {p q : State × α} {c : Prop} [Decidable c] (hp : p.1.memOk) (hq : q.1.memOk) :
    (if c then p else q).1.memOk := by
  split <;> assumption

theorem State.memOk.foldl {α : Type} {f : State → α → State} {l : List α} {s : State} (h : s.memOk)
    (hf : ∀ {s x}, s.memOk → (f s x).memOk) : (l.foldl f s).memOk := by
  induction l generalizing s with
  | nil => exact h
  | cons x l ih => exact ih (hf h)

theorem State.memOk.foldl_fst {α β : Type} {f : State × β → α → State × β} {l : List α} {p : State × β} (h : p.1.memOk)
    (hf : ∀ {p x}, p.1.memOk → (f p x).1.memOk) : (l.foldl f p).1.memOk := by
  induction l generalizing p with
  | nil => exact h
  | cons x l ih => exact ih (hf h)

/-- Every field but the memory may change. -/
theorem State.memOk.update {s : State} {clk aclk ctxs parts launches packs teams bundles cmds stamps grow tlb walks badmem outside
    translations icache intc queues shep links route nodeid nodeset eth boot host power cur agenda regwrites turn ticks}
    (h : s.memOk) :
    State.memOk ⟨s.mem, clk, aclk, ctxs, parts, launches, packs, teams, bundles, cmds, stamps, grow, tlb, walks, badmem, outside,
      translations, icache, intc, queues, shep, links, route, nodeid, nodeset, eth, boot, host, power, cur, agenda, regwrites, turn,
      ticks⟩ := h

theorem State.memOk.memWrite {s : State} {pa bs} (h : s.memOk) : (s.memWrite pa bs).memOk := Laws.memWrite_wf s pa bs h

/-! ### Access to the parts of the state -/

theorem State.memOk.modPart {s : State} {p f} (h : s.memOk) : (s.modPart p f).memOk := h

theorem State.memOk.modBundle {s : State} {b f} (h : s.memOk) : (s.modBundle b f).memOk := h

theorem State.memOk.modThread {s : State} {b l f} (h : s.memOk) : (s.modThread b l f).memOk := h.modBundle

theorem State.memOk.modCtx {s : State} {asid f} (h : s.memOk) : (s.modCtx asid f).memOk := h

theorem State.memOk.modTeam {s : State} {t f} (h : s.memOk) : (s.modTeam t f).memOk := h

theorem State.memOk.modPack {s : State} {p f} (h : s.memOk) : (s.modPack p f).memOk := h

theorem State.memOk.modLaunch {s : State} {n f} (h : s.memOk) : (s.modLaunch n f).memOk := h

theorem State.memOk.modCmd {s : State} {c f} (h : s.memOk) : (s.modCmd c f).memOk := h

theorem State.memOk.writeS {s : State} {ws} (h : s.memOk) : (s.writeS ws).memOk := h.modBundle

theorem State.memOk.writeM {s : State} {n v} (h : s.memOk) : (s.writeM n v).memOk := h.modBundle

theorem State.memOk.mapLanes {s : State} {f} (h : s.memOk) : (s.mapLanes f).memOk := h.modBundle

theorem State.memOk.advanceAll {s : State} (h : s.memOk) : s.advanceAll.memOk := h.mapLanes

/-! ### Physical memory, versions and stash copies -/

theorem State.memOk.containmentRecord {s : State} {t cause outcome mon pc} (h : s.memOk) :
    (s.containmentRecord t cause outcome mon pc).memOk := h

theorem State.memOk.versionPut {s : State} {t pa bs} (h : s.memOk) : (s.versionPut t pa bs).memOk := h.modTeam

theorem State.memOk.homePut {s : State} {ver pa bs} (h : s.memOk) : (s.homePut ver pa bs).memOk := by
  unfold State.homePut
  split
  · exact h.memWrite
  · exact .ite h.versionPut h.memWrite

theorem State.memOk.modWindow {s : State} {t w f} (h : s.memOk) : (s.modWindow t w f).memOk := h.modTeam

theorem State.memOk.modLine {s : State} {t w n f} (h : s.memOk) : (s.modLine t w n f).memOk := h.modWindow

theorem State.memOk.dropLine {s : State} {t w n} (h : s.memOk) : (s.dropLine t w n).memOk := h.modWindow

theorem State.memOk.syncSent {s : State} {t w l mask} (h : s.memOk) : (s.syncSent t w l mask).memOk := h

theorem State.memOk.sendBy {s : State} {put t w l mask} (h : s.memOk)
    (hput : ∀ {s' x y z}, s'.memOk → (put s' x y z).memOk) :
    (State.sendBy put s t w l mask).memOk := .ite h (h.foldl hput).syncSent

theorem State.memOk.recallBy {s : State} {put pa store skip} (h : s.memOk)
    (hput : ∀ {s' x y z}, s'.memOk → (put s' x y z).memOk) :
    (State.recallBy put s pa store skip).1.memOk :=
  (h.foldl fun h => h.sendBy hput).foldl fun h => .ite h.dropLine h.modLine

theorem State.memOk.publishBy {s : State} {put t} (h : s.memOk) (hput : ∀ {s' x y z}, s'.memOk → (put s' x y z).memOk) :
    (State.publishBy put s t).memOk := ((h.foldl fun h => h.recallBy hput).foldl fun h => h.memWrite).modTeam

theorem State.memOk.publishEarlyBy {s : State} {put t} (h : s.memOk)
    (hput : ∀ {s' x y z}, s'.memOk → (put s' x y z).memOk) :
    (State.publishEarlyBy put s t).memOk := .containmentRecord (.modPack (.update (h.publishBy hput).modTeam))

theorem State.memOk.writeHome {s : State} {n busy ver pa bs} (h : s.memOk) : (s.writeHome n busy ver pa bs).memOk := by
  induction n generalizing s busy ver pa bs with
  | zero => exact h.homePut
  | succ n ih =>
    unfold State.writeHome
    split
    · exact h.memWrite
    · exact .ite (h.publishEarlyBy ih).memWrite h.homePut

theorem State.memOk.homeWrite {s : State} {ver pa bs} (h : s.memOk) : (s.homeWrite ver pa bs).memOk := h.writeHome

theorem State.memOk.publishCells {s : State} {t} (h : s.memOk) : (s.publishCells t).memOk :=
  h.publishBy fun h => h.writeHome

theorem State.memOk.sendLine {s : State} {t w l mask} (h : s.memOk) : (s.sendLine t w l mask).memOk :=
  h.sendBy fun h => h.homeWrite

theorem State.memOk.recall {s : State} {pa store except} (h : s.memOk) : (s.recall pa store except).1.memOk :=
  h.recallBy fun h => h.homeWrite

theorem State.memOk.outsideRead {s : State} {ver pa n} (h : s.memOk) : (s.outsideRead ver pa n).1.memOk := h.recall

theorem State.memOk.outsideWrite {s : State} {ver pa bs} (h : s.memOk) : (s.outsideWrite ver pa bs).memOk :=
  h.recall.homeWrite

theorem State.memOk.physRead {s : State} {pa n} (h : s.memOk) : (s.physRead pa n).1.memOk := by
  unfold State.physRead
  dsimp only
  exact h.outsideRead

theorem State.memOk.physWrite {s : State} {pa n v} (h : s.memOk) : (s.physWrite pa n v).memOk := h.outsideWrite

theorem State.memOk.sendHome {s : State} {t w l mask next} (h : s.memOk) : (s.sendHome t w l mask next).memOk :=
  .ite h.recall.sendLine.dropLine h.recall.sendLine.modLine

theorem State.memOk.startWriting {s : State} {t w l link} (h : s.memOk) : (s.startWriting t w l link).memOk :=
  h.sendHome

theorem State.memOk.cleanLine {s : State} {t w l} (h : s.memOk) : (s.cleanLine t w l).memOk := h.sendHome

theorem State.memOk.windowStore {s : State} {pa bs} (h : s.memOk) : (s.windowStore pa bs).memOk := .ite (.update h) h

theorem State.memOk.recallRemote {s : State} {pa store} (h : s.memOk) : (s.recallRemote pa store).memOk := h.recall

theorem State.memOk.performOne {s : State} {place x} (h : s.memOk) : (s.performOne place x).memOk :=
  .ite (.ite h h.recallRemote) (.ite h.windowStore h.outsideWrite)

theorem State.memOk.inject {s : State} {asid va bs} (h : s.memOk) : (s.inject asid va bs).1.memOk := .ite_fst h.modCtx h

theorem State.memOk.ringAppend {s : State} {desc recBytes bs overwrite} (h : s.memOk) :
    (s.ringAppend desc recBytes bs overwrite).1.memOk := by
  unfold State.ringAppend
  dsimp only
  simp only [apply_ite Prod.fst]
  refine .ite ?_ (.ite ?_ (.physWrite (.foldl ?_ fun h => h.outsideWrite))) <;>
    exact h.physRead.physRead.physRead.physRead

theorem State.memOk.walkFrom {s : State} {place asid va ls table es} (h : s.memOk) :
    (s.walkFrom place asid va ls table es).1.memOk := by
  induction ls generalizing s table es with
  | nil => exact h
  | cons l ls ih =>
    unfold State.walkFrom
    split
    · exact ih h
    · dsimp only
      simp only [apply_ite Prod.fst]
      exact .ite h (.ite h (.ite h.physRead (.ite h.physRead (.ite h.physRead (ih h.physRead)))))

theorem State.memOk.tlbPut {s : State} {e} (h : s.memOk) : (s.tlbPut e).memOk := h

theorem State.memOk.walkFill {s : State} {place asid va store} (h : s.memOk) :
    (s.walkFill place asid va store).1.memOk := by
  unfold State.walkFill
  split
  next e => exact h.walkFrom.of_eq e
  next e =>
    have h := h.walkFrom.of_eq e
    exact .update (.tlbPut (.tlbPut (.ite h h.physWrite)))

theorem State.memOk.xlate {s : State} {place asid va k} (h : s.memOk) : (s.xlate place asid va k).1.memOk := by
  unfold State.xlate
  dsimp only
  split
  · dsimp only
    exact .ite h h.tlbPut
  · split
    · exact h
    · split <;> next e => exact h.walkFill.of_eq e

theorem State.memOk.virtLook {s : State} {asid va n} (h : s.memOk) : (s.virtLook asid va n).1.memOk := by
  unfold State.virtLook
  simp only [apply_ite Prod.fst]
  split
  · exact h
  · split
    next e =>
      have h := h.xlate.of_eq e
      simp only [apply_ite Prod.fst]
      exact .ite h (.ite h (.ite (.ite h h.physRead) h))
    next e => exact h.xlate.of_eq e

theorem State.memOk.virtRead {s : State} {asid va n} (h : s.memOk) : (s.virtRead asid va n).1.memOk := h.virtLook

theorem State.memOk.virtWrite {s : State} {asid va n v} (h : s.memOk) : (s.virtWrite asid va n v).1.memOk := by
  unfold State.virtWrite
  split
  · exact h
  · split
    next e =>
      have h := h.xlate.of_eq e
      exact .ite_fst h.physWrite h
    next e => exact h.xlate.of_eq e

/-! ### Shepherd's work inside a step: journal, queues, launches -/

theorem State.memOk.journal {s : State} {kind st qid asid type index} (h : s.memOk) :
    (s.journal kind st qid asid type index).memOk := by
  unfold State.journal
  exact .update (.ite h h.ringAppend)

theorem State.memOk.modQueue {s : State} {qid f} (h : s.memOk) : (s.modQueue qid f).memOk := h

theorem State.memOk.statusQueue {s : State} {q faultidx} (h : s.memOk) : (s.statusQueue q faultidx).memOk :=
  h.physWrite.physWrite

theorem State.memOk.publishQueue {s : State} {q faultidx} (h : s.memOk) : (s.publishQueue q faultidx).memOk :=
  h.physWrite.statusQueue

theorem State.memOk.signalDown {s : State} {asid addr} (h : s.memOk) : (s.signalDown asid addr).memOk := by
  unfold State.signalDown
  split
  · exact h
  · split
    next e => exact (h.virtRead.of_eq e).virtWrite
    next e => exact h.virtRead.of_eq e

theorem State.memOk.depSatisfied {s : State} {asid addr} (h : s.memOk) : (s.depSatisfied asid addr).1.memOk := by
  unfold State.depSatisfied
  dsimp only
  split <;> exact h.virtLook

theorem State.memOk.scanDeps {s : State} {asid ds} (h : s.memOk) : (s.scanDeps asid ds).1.memOk := by
  induction ds generalizing s with
  | nil => exact h
  | cons d ds ih => exact ih h.depSatisfied

theorem State.memOk.modPacket {s : State} {qid index f} (h : s.memOk) : (s.modPacket qid index f).memOk := h.modQueue

theorem State.memOk.endPacket {s : State} {q p type} (h : s.memOk) : (s.endPacket q p type).memOk := h.journal.modPacket

theorem State.memOk.packetStep {s : State} {q prev p} (h : s.memOk) : (s.packetStep q prev p).memOk := by
  unfold State.packetStep
  dsimp only
  split
  · exact h
  · split
    · exact .ite h h.modPacket.modLaunch
    · exact h.endPacket
    · refine .endPacket ?_
      split
      · exact h
      · split
        next e => exact (h.virtRead.of_eq e).virtWrite
        next e => exact h.virtRead.of_eq e
    · exact .ite h.scanDeps.modPacket.endPacket.signalDown h.scanDeps.modPacket

theorem State.memOk.queuePass {s : State} {qid} (h : s.memOk) : (s.queuePass qid).memOk := by
  unfold State.queuePass
  split
  · exact h
  · refine h.foldl fun h => ?_
    split
    · split
      · exact h.packetStep
      · exact h
    · exact h

theorem State.memOk.queueDrained {s : State} {qid} (h : s.memOk) : (s.queueDrained qid).memOk := by
  unfold State.queueDrained
  split
  · exact .ite (.update h.publishQueue.journal) h
  · exact h

theorem State.memOk.serviceQueues {s : State} (h : s.memOk) : s.serviceQueues.memOk :=
  (h.foldl fun h => h.foldl fun h => h.queuePass).foldl fun h => h.queueDrained

theorem State.memOk.drainKilled {s : State} {n} (h : s.memOk) : (s.drainKilled n).memOk :=
  h.foldl fun h => .ite (h.foldl fun h => (h.foldl fun h => h.performOne).modThread) h

theorem State.memOk.writeCompletion {s : State} {n} (h : s.memOk) : (s.writeCompletion n).memOk := by
  unfold State.writeCompletion
  dsimp only
  split
  · exact .modPacket (.modLaunch (.signalDown (.journal (.ite h.drainKilled h.drainKilled.virtWrite.virtWrite))))
  · exact .modLaunch (.signalDown (.journal (.ite h.drainKilled h.drainKilled.virtWrite.virtWrite)))

theorem State.memOk.completeLaunch {s : State} {n status} (h : s.memOk) : (s.completeLaunch n status).memOk :=
  .ite (.update h.modLaunch) h.modLaunch.writeCompletion.serviceQueues

theorem State.memOk.launchCheck {s : State} {n} (h : s.memOk) : (s.launchCheck n).memOk := .ite h.completeLaunch h

theorem State.memOk.graftUndone {s : State} {asid h} (hs : s.memOk) : (s.graftUndone asid h).memOk := by
  unfold State.graftUndone
  split
  · exact hs
  · dsimp only
    exact .ite hs (.ite hs.recall.inject hs.physRead.inject.outsideWrite)

theorem State.memOk.dropStash {s : State} {ts} (h : s.memOk) : (s.dropStash ts).memOk := h.foldl fun h => h.modTeam

theorem State.memOk.teardown {s : State} {t} (h : s.memOk) : (s.teardown t).memOk :=
  .modTeam (.update (h.dropStash.foldl fun h => h.graftUndone))

theorem State.memOk.abortLaunch {s : State} {fuel n} (h : s.memOk) : (State.abortLaunch fuel s n).memOk := by
  induction fuel generalizing s n with
  | zero => exact h
  | succ n ih =>
    exact .ite h ((h.dropStash.foldl fun h => h.teardown.modTeam).modLaunch.foldl ih).completeLaunch

theorem State.memOk.killPack {s : State} {t final record} (h : s.memOk)
    (hrecord : ∀ {s' x y z}, s'.memOk → (record s' x y z).memOk) : (s.killPack t final record).memOk := by
  refine .ite h (.ite (hrecord (.modLaunch (.modPack ?_))) (.launchCheck (hrecord (.modLaunch ?_)))) <;>
    exact ((h.dropStash.foldl fun h => h.teardown).foldl fun h => h.abortLaunch).modPack.foldl fun h => h.modTeam

theorem State.memOk.killTeam {s : State} {t cause final mon pc} (h : s.memOk) :
    (s.killTeam t cause final mon pc).memOk := h.killPack fun h => h.containmentRecord

/-! ### Traps and the checks that precede every word -/

theorem State.memOk.attachPage {s : State} {b l i tpc} (h : s.memOk) : (s.attachPage b l i tpc).memOk := by
  unfold State.attachPage
  dsimp only
  split <;> exact .modThread (.update h)

theorem State.memOk.queueEvent {s : State} {pid core e} (h : s.memOk) : (s.queueEvent pid core e).memOk := by
  unfold State.queueEvent
  split
  · exact h.modBundle
  · exact h

theorem State.memOk.killByTrap {s : State} {t tpc i} (h : s.memOk) : (s.killByTrap t tpc i).memOk :=
  .ite h (.ite h.killTeam h.killTeam)

theorem State.memOk.deliverTrap {s : State} {b tpc ts} (h : s.memOk) : (s.deliverTrap b tpc ts).memOk := by
  unfold State.deliverTrap
  dsimp only
  split
  · split
    · exact h.killByTrap
    · exact h
  · split
    · exact h.queueEvent
    · split
      · exact h.killByTrap
      · exact h

theorem State.memOk.noStops {s : State} (h : s.memOk) : s.noStops.memOk := .ite h (.update h)

theorem State.memOk.takeTraps {s : State} {b tpc set ts} (h : s.memOk) : (s.takeTraps b tpc set ts).memOk := by
  unfold State.takeTraps
  split
  · exact h
  · dsimp only
    exact .ite (h.modBundle.foldl fun h => h.attachPage) (h.modBundle.foldl fun h => h.attachPage).noStops.deliverTrap

theorem State.memOk.deliverStops {s : State} (h : s.memOk) : s.deliverStops.memOk := by
  unfold State.deliverStops
  split
  · exact h
  · refine .ite ?_ (.deliverTrap (.update ?_)) <;> exact (h.foldl fun h => h.modThread).foldl fun h => h.modThread

theorem State.memOk.trapIssued {s : State} {i} (h : s.memOk) : (s.trapIssued i).memOk := h.takeTraps

theorem State.memOk.releaseStaged {s : State} {pid core} (h : s.memOk) : (s.releaseStaged pid core).memOk := h

theorem State.memOk.stall {s : State} (h : s.memOk) : s.stall.memOk := h

theorem State.memOk.word {s : State} {i effect} (h : s.memOk) (heffect : ∀ {s'}, s'.memOk → (effect s').memOk) :
    OutMemOk (s.word i effect) := by
  unfold State.word
  split
  · exact .next h.trapIssued
  · split
    · exact .next h.stall
    · exact .next (heffect h)

theorem State.memOk.meetAll {s : State} {long links loads fate} (h : s.memOk) :
    (s.meetAll long links loads fate).memOk := h.modBundle.takeTraps

theorem State.memOk.laneWord {s : State} {o long f} (h : s.memOk) : (s.laneWord o long f).memOk := h.meetAll

theorem State.memOk.uniWord {s : State} {us effect} (h : s.memOk) (heffect : ∀ {s'}, s'.memOk → (effect s').memOk) :
    (s.uniWord us effect).memOk := by
  unfold State.uniWord
  split
  · exact h.trapIssued
  · exact heffect h

theorem State.memOk.uniWrites {s : State} {us ws} (h : s.memOk) : (s.uniWrites us ws).memOk :=
  h.uniWord fun h => h.writeS.advanceAll

theorem State.memOk.waitWord {s : State} {i args} (h : s.memOk) : (s.waitWord i args).memOk := h.mapLanes

theorem State.memOk.waitIssued {s : State} {w} (h : s.memOk) : (s.waitIssued w).memOk := h.mapLanes

/-! ### Links and the lines of the stash -/

theorem State.memOk.modLink {s : State} {n f} (h : s.memOk) : (s.modLink n f).memOk := h

theorem State.memOk.forLines {s : State} {t sel f} (h : s.memOk) (hf : ∀ {s' x y}, s'.memOk → (f s' x y).memOk) :
    (s.forLines t sel f).memOk := by
  unfold State.forLines
  refine h.foldl fun h => ?_
  split
  · split
    · exact .ite (hf h) h
    · exact h
  · exact h

theorem State.memOk.writeBack {s : State} {t w l} (h : s.memOk) : (s.writeBack t w l).memOk := by
  unfold State.writeBack
  split
  · exact h.startWriting
  · exact h.killTeam

theorem State.memOk.writeBackTeam {s : State} {t} (h : s.memOk) : (s.writeBackTeam t).memOk :=
  (h.forLines fun h => h.writeBack).forLines fun h => h.modLine

theorem State.memOk.writeOut {s : State} {t w l} (h : s.memOk) : (s.writeOut t w l).memOk := .ite h.cleanLine h.killTeam

theorem State.memOk.cleanTeam {s : State} {t} (h : s.memOk) : (s.cleanTeam t).memOk := h.forLines fun h => h.writeOut

/-! ### A thread's access to memory -/

theorem State.memOk.locateAs {s : State} {b l va size q direct k} (h : s.memOk) :
    (s.locateAs b l va size q direct k).1.memOk := by
  unfold State.locateAs
  dsimp only
  simp only [apply_ite Prod.fst]
  split
  · exact h
  · split
    · exact h
    · split
      · split
        · exact h
        · split <;> exact h
      · split
        next e => exact h.xlate.of_eq e
        next e => exact h.xlate.of_eq e
        next e =>
          have h := h.xlate.of_eq e
          simp only [apply_ite Prod.fst]
          split
          · exact h
          · split
            · exact h
            · split
              · exact h
              · simp only [apply_ite Prod.fst]
                split
                · exact h
                · split
                  · exact h
                  · split
                    · simp only [apply_ite Prod.fst]
                      exact .ite h h
                    · exact h

theorem State.memOk.locate {s : State} {b l va size q k} (h : s.memOk) : (s.locate b l va size q k).1.memOk :=
  h.locateAs

theorem State.memOk.startFill {s : State} {t w n pa} (h : s.memOk) : (s.startFill t w n pa).memOk := by
  unfold State.startFill
  split
  · exact h.modWindow
  · exact h

theorem State.memOk.beginFill {s : State} {p} (h : s.memOk) : (s.beginFill p).memOk := by
  unfold State.beginFill
  split
  · exact h.startFill
  · exact h

theorem State.memOk.watchWrite {s : State} {t core q va bs atomic} (h : s.memOk) :
    (s.watchWrite t core q va bs atomic).memOk := h.modTeam

theorem State.memOk.leaving {s : State} {b q va bs atomic} (h : s.memOk) : (s.leaving b q va bs atomic).1.memOk := by
  unfold State.leaving
  dsimp only
  split
  · exact h.inject.watchWrite
  · exact h.inject

theorem State.memOk.markRaces {s : State} {z} (h : s.memOk) : (s.markRaces z).memOk := h

theorem State.memOk.spoilLine {s : State} {t w n off v} (h : s.memOk) : (s.spoilLine t w n off v).memOk := by
  unfold State.spoilLine
  split
  · exact h
  · exact .modLine (.ite h.recall.homeWrite h)

theorem State.memOk.spoilAt {s : State} {tg i v} (h : s.memOk) : (s.spoilAt tg i v).memOk := by
  unfold State.spoilAt
  split
  · exact h.outsideWrite
  · exact h.spoilLine
  · exact h.modWindow
  · exact h

theorem State.memOk.spoil {s : State} {z tg} (h : s.memOk) : (s.spoil z tg).memOk := h.foldl fun h => h.spoilAt

theorem State.memOk.raceEffects {s : State} {z tg store} (h : s.memOk) : (s.raceEffects z tg store).memOk :=
  .ite (.ite h h.markRaces) (.spoil (.ite h h.markRaces))

theorem State.memOk.note {s : State} {z l store} (h : s.memOk) : (s.note z l store).memOk := h.modThread

theorem State.memOk.racedLoad {s : State} {z l tg bs} (h : s.memOk) : (s.racedLoad z l tg bs).1.memOk :=
  .ite_fst h.raceEffects.note h

theorem State.memOk.racedStore {s : State} {z tg} (h : s.memOk) : (s.racedStore z tg).1.memOk :=
  .ite_fst h.raceEffects h

theorem State.memOk.noteStore {s : State} {z l} (h : s.memOk) : (s.noteStore z l).memOk := .ite h.note h

theorem State.memOk.report {s : State} {lanes r} (h : s.memOk) : (s.report lanes r).memOk := by
  unfold State.report
  split
  · exact .update h
  · exact h

theorem State.memOk.settleThread {s : State} {b l} (h : s.memOk) : (s.settleThread b l).memOk := h.modThread

theorem State.memOk.notePerformed {s : State} {b l x fs} (h : s.memOk) : (s.notePerformed b l x fs).memOk :=
  .ite h h.modThread

theorem State.memOk.performStores {s : State} {b l test} (h : s.memOk) : (s.performStores b l test).memOk :=
  .ite h (h.modBundle.foldl fun h => h.performOne.notePerformed).settleThread

theorem State.memOk.bindLoads {s : State} {b l test} (h : s.memOk) : (s.bindLoads b l test).memOk := .ite h h.modBundle

theorem State.memOk.bindOwn {s : State} {b l q off size} (h : s.memOk) : (s.bindOwn b l q off size).memOk := h.bindLoads

theorem State.memOk.performSeen {s : State} {b test} (h : s.memOk) : (s.performSeen b test).memOk :=
  h.foldl fun h => h.foldl fun h => .ite h h.performStores

theorem State.memOk.releaseTouches {s : State} {b l early late} (h : s.memOk) :
    (s.releaseTouches b l early late).memOk := .ite h h.modThread

theorem State.memOk.acquireIn {s : State} {b l early late} (h : s.memOk) : (s.acquireIn b l early late).memOk :=
  h.bindLoads.modThread

theorem State.memOk.acquireThread {s : State} {b l set} (h : s.memOk) : (s.acquireThread b l set).memOk := h.acquireIn

theorem State.memOk.drainThread {s : State} {b l} (h : s.memOk) : (s.drainThread b l).memOk :=
  h.performStores.bindLoads.releaseTouches

theorem State.memOk.drainLanes {s : State} {b ls} (h : s.memOk) : (s.drainLanes b ls).memOk :=
  h.performSeen.foldl fun h => h.drainThread

theorem State.memOk.drainStream {s : State} {b ls q} (h : s.memOk) : (s.drainStream b ls q).memOk :=
  h.performSeen.foldl fun h => h.performStores.bindLoads.releaseTouches

theorem State.memOk.drainOwn {s : State} {b l stream off size} (h : s.memOk) : (s.drainOwn b l stream off size).memOk :=
  h.performStores

theorem State.memOk.settleSeen {s : State} {b off size} (h : s.memOk) : (s.settleSeen b off size).memOk := h.performSeen

theorem State.memOk.lineWrite {s : State} {t w n off bs} (h : s.memOk) : (s.lineWrite t w n off bs).memOk := h.modLine

theorem State.memOk.scratchWrite {s : State} {t w off bs} (h : s.memOk) : (s.scratchWrite t w off bs).memOk :=
  h.modWindow

theorem State.memOk.fillLine {s : State} {team w l} (h : s.memOk) : (s.fillLine team w l).memOk := h.recall.modLine

theorem State.memOk.fillNow {s : State} {t w n home} (h : s.memOk) : (s.fillNow t w n home).memOk := by
  unfold State.fillNow
  dsimp only
  split
  · split
    · exact .ite h.startFill.fillLine h.startFill
    · exact h.startFill
  · exact h.startFill

theorem State.memOk.seenBytes {s : State} {b l q off size ver} (h : s.memOk) :
    (s.seenBytes b l q off size ver).1.memOk := by
  unfold State.seenBytes
  dsimp only
  exact h.outsideRead

theorem State.memOk.memLoad {s : State} {z l tg va} (h : s.memOk) : (s.memLoad z l tg va).1.memOk := by
  unfold State.memLoad
  dsimp only
  exact h.bindOwn.report.seenBytes.racedLoad

theorem State.memOk.stashLoad {s : State} {z l tg bs} (h : s.memOk) : (s.stashLoad z l tg bs).1.memOk := by
  unfold State.stashLoad
  split
  · exact h.racedLoad
  · exact h

theorem State.memOk.pushRequest {s : State} {b q lanes va x} (h : s.memOk) : (s.pushRequest b q lanes va x).memOk :=
  h.foldl fun h => h.modThread

theorem State.memOk.loadFrom {s : State} {b l q lanes va size tg} (h : s.memOk) :
    (s.loadFrom b l q lanes va size tg).1.memOk := by
  unfold State.loadFrom
  dsimp only
  split
  · exact h.memLoad
  · exact h.stashLoad
  · exact h.stashLoad
  · exact h
  · exact h.recallRemote.pushRequest
  · exact h

theorem State.memOk.memStore {s : State} {z l tg va} (h : s.memOk) : (s.memStore z l tg va).1.memOk :=
  h.bindOwn.settleSeen.report.racedStore

theorem State.memOk.stashWrite {s : State} {tg bs} (h : s.memOk) : (s.stashWrite tg bs).memOk := by
  unfold State.stashWrite
  split
  · exact h.lineWrite
  · exact h.scratchWrite
  · exact h

theorem State.memOk.stashStore {s : State} {z l tg bs} (h : s.memOk) : (s.stashStore z l tg bs).memOk := by
  unfold State.stashStore
  split
  · exact h.racedStore.stashWrite.noteStore
  · exact h.stashWrite

theorem State.memOk.storeTo {s : State} {b l q lanes va bs tg} (h : s.memOk) :
    (s.storeTo b l q lanes va bs tg).memOk := by
  unfold State.storeTo
  dsimp only
  split
  · exact h.leaving.memStore.modThread
  · exact h.leaving.modThread
  · exact h.leaving.modThread
  · exact h.leaving.stashStore

theorem State.memOk.drainOwns {s : State} {b lanes own off size} (h : s.memOk) :
    (s.drainOwns b lanes own off size).memOk := h.foldl fun h => h.drainOwn.bindOwn

theorem State.memOk.loadNow {s : State} {b l q lanes own va size k} (h : s.memOk) :
    (s.loadNow b l q lanes own va size k).1.memOk := by
  unfold State.loadNow
  split
  next e => exact h.locate.of_eq e
  next e => exact h.locate.of_eq e
  next e => exact h.locate.of_eq e
  next e =>
    have h := h.locate.of_eq e
    refine .loadFrom ?_
    split
    · exact h.drainOwns
    · exact h

theorem State.memOk.putNow {s : State} {b l q lanes own va bs tg} (h : s.memOk) :
    (s.putNow b l q lanes own va bs tg).memOk := by
  unfold State.putNow
  split
  · exact h.drainOwns.memStore.leaving.outsideWrite.noteStore
  · exact h.drainThread.leaving.windowStore
  · exact h.storeTo

theorem State.memOk.storeNow {s : State} {b l q lanes own va bs k} (h : s.memOk) :
    (s.storeNow b l q lanes own va bs k).1.memOk := by
  unfold State.storeNow
  split
  next e => exact h.locate.of_eq e
  next e => exact h.locate.of_eq e
  next e => exact h.locate.of_eq e
  next e => exact (h.locate.of_eq e).putNow

theorem State.memOk.linkLost {s : State} {b pc} (h : s.memOk) : (s.linkLost b pc).memOk := by
  unfold State.linkLost
  split
  · exact h.killTeam
  · exact h

theorem State.memOk.locateAll {s : State} {b addr size q k ls} (h : s.memOk) :
    (s.locateAll b addr size q k ls).1.memOk := by
  induction ls generalizing s with
  | nil => exact h
  | cons l ls ih => exact ih h.locate

theorem State.memOk.revisit {s : State} {b l va size q k p} (h : s.memOk) : (s.revisit b l va size q k p).1.memOk := by
  unfold State.revisit
  split
  · exact h
  · simp only [apply_ite Prod.fst]
    split
    · exact h
    · split
      next e => exact (h.locate.of_eq e).fillNow
      · exact h.locate
  · exact h

theorem actAll_memOk {s : State} {again act ts} (h : s.memOk)
    (hagain : ∀ {s' x y}, s'.memOk → (again s' x y).1.memOk) (hact : ∀ {s' x y}, s'.memOk → (act s' x y).s.memOk) :
    (actAll again act s ts).1.memOk := by
  induction ts generalizing s with
  | nil => exact h
  | cons t ts ih =>
    unfold actAll
    split
    next e => exact ih (State.memOk.of_eq e (hagain h))
    next e => exact ih (hact (State.memOk.of_eq e (hagain h)))

theorem State.memOk.laneMem {s : State} {o long addr size q k act} (h : s.memOk)
    (hact : ∀ {s' x y}, s'.memOk → (act s' x y).s.memOk) :
    (s.laneMem o long addr size q k act).memOk :=
  .ite h.locateAll.linkLost (.ite (h.locateAll.foldl fun h => h.beginFill).stall
      (.meetAll (actAll_memOk h.locateAll (fun h => h.revisit) hact)))

theorem State.memOk.fenceThread {s : State} {b l f} (h : s.memOk) : (s.fenceThread b l f).memOk := by
  unfold State.fenceThread
  refine .releaseTouches (.modThread ?_)
  split
  · refine .acquireIn (.bindLoads (.performSeen ?_))
    split
    · exact .ite h.writeBackTeam h
    · exact h
  · refine .bindLoads (.performSeen ?_)
    split
    · exact .ite h.writeBackTeam h
    · exact h

theorem State.memOk.fenceNow {s : State} {b ls wide} (h : s.memOk) : (s.fenceNow b ls wide).memOk := by
  unfold State.fenceNow
  dsimp only
  split
  · exact .ite (h.drainLanes.foldl fun h => h.acquireThread).cleanTeam (h.drainLanes.foldl fun h => h.acquireThread)
  · exact h.drainLanes.foldl fun h => h.acquireThread

/-! ### The operand forms of lane and uniform words -/

theorem State.memOk.lane2 {s : State} {d a b wide acc t long f} (h : s.memOk) :
    (s.lane2 d a b wide acc t long f).memOk := h.laneWord

theorem State.memOk.lane1 {s : State} {d a wide acc t long f} (h : s.memOk) : (s.lane1 d a wide acc t long f).memOk :=
  h.laneWord

theorem State.memOk.lane3 {s : State} {d a b wide acc t f} (h : s.memOk) : (s.lane3 d a b wide acc t f).memOk :=
  h.laneWord

theorem State.memOk.uni2 {s : State} {d a b wide acc t o} (h : s.memOk) : (s.uni2 d a b wide acc t o).memOk :=
  h.uniWrites

theorem State.memOk.uni1 {s : State} {d a wide acc t o} (h : s.memOk) : (s.uni1 d a wide acc t o).memOk := h.uniWrites

/-! ### Floating-point words -/

theorem State.memOk.float2 {s : State} {d a b f g} (h : s.memOk) : (s.float2 d a b f g).memOk := h.lane2

theorem State.memOk.laneMask {s : State} {m o f} (h : s.memOk) : (s.laneMask m o f).memOk := h.writeM.meetAll

/-! ### Cross-lane words -/

theorem State.memOk.setEmpty {s : State} (h : s.memOk) : s.setEmpty.memOk := h.modBundle

/-! ### The words that reach memory -/

theorem State.memOk.laneLoad {s : State} {d a off q size sign} (h : s.memOk) : (s.laneLoad d a off q size sign).memOk :=
  h.laneMem fun h => h.loadFrom

theorem State.memOk.laneStore {s : State} {d a off q size} (h : s.memOk) : (s.laneStore d a off q size).memOk :=
  h.laneMem fun h => h.storeTo

theorem State.memOk.uniNow {s : State} {a r ok} (h : s.memOk) (hok : ∀ {x s'}, s'.memOk → (ok x s').memOk) :
    (s.uniNow a r ok).memOk := by
  unfold State.uniNow
  split
  · exact hok h
  · exact h.trapIssued
  · exact h.beginFill.stall
  · exact h.linkLost

theorem State.memOk.uniLoad {s : State} {d a off q size} (h : s.memOk) : (s.uniLoad d a off q size).memOk :=
  h.uniWord fun h => h.loadNow.uniNow fun h => .advanceAll (.ite h.writeS h.modBundle)

theorem State.memOk.uniStore {s : State} {d a off q size} (h : s.memOk) : (s.uniStore d a off q size).memOk :=
  h.uniWord fun h => h.storeNow.uniNow fun h => h.advanceAll

theorem State.memOk.takeExclusive {s : State} {t w n} (h : s.memOk) : (s.takeExclusive t w n).memOk := by
  unfold State.takeExclusive
  split
  · split
    · exact .ite h h.recall.modLine
    · exact h
  · exact h

theorem State.memOk.stashAtom {s : State} {z l tg bs write} (h : s.memOk)
    (hwrite : ∀ {s' x}, s'.memOk → (write s' x).1.memOk) :
    (s.stashAtom z l tg bs write).1.memOk := by
  unfold State.stashAtom
  split
  · exact .noteStore (.stashWrite (hwrite h.racedStore))
  · exact .stashWrite (hwrite h)

theorem State.memOk.atomAt {s : State} {b l q va size new tg} (h : s.memOk) :
    (s.atomAt b l q va size new tg).1.memOk := by
  unfold State.atomAt
  dsimp only
  split
  · exact h.drainOwn.memStore.outsideRead.leaving.outsideWrite.noteStore
  · exact h.takeExclusive.stashAtom fun h => h.leaving
  · exact h.stashAtom fun h => h.leaving
  · exact h.recallRemote.leaving
  · exact h

theorem State.memOk.laneAtomic {s : State} {d a p t q ret} (h : s.memOk) : (s.laneAtomic d a p t q ret).memOk := by
  unfold State.laneAtomic
  refine h.laneMem fun h => ?_
  dsimp only
  split
  · exact h.atomAt.pushRequest
  · exact h.atomAt

theorem State.memOk.markRead {s : State} {b ls} (h : s.memOk) : (s.markRead b ls).memOk := h.foldl fun h => h.modThread

theorem execPrefetch_memOk {s : State} {a o q} (h : s.memOk) : OutMemOk (execPrefetch a o q s) := by
  unfold execPrefetch
  refine h.word fun h => .meetAll (h.foldl fun h => ?_)
  split
  · exact h.startFill
  · exact h

theorem State.memOk.fenceIssued {s : State} {f} (h : s.memOk) : (s.fenceIssued f).memOk :=
  (h.foldl fun h => h.fenceThread).advanceAll

theorem execMemoryAccessPerformed_memOk {s : State} {bundle lane item} (h : s.memOk) :
    OutMemOk (execMemoryAccessPerformed bundle lane item s) := by
  unfold execMemoryAccessPerformed
  refine .next ?_
  split
  · split
    · exact h.performStores
    · exact h
  · exact h.settleThread

theorem State.memOk.readBlock {s : State} {k va n} (h : s.memOk) : (s.readBlock k va n).1.memOk := by
  induction n generalizing s va with
  | zero => exact h
  | succ n ih =>
    unfold State.readBlock
    split
    next e =>
      have h := h.loadNow.of_eq e
      split
      next e => exact State.memOk.of_eq e (ih h)
      · exact ih h
    · exact h.loadNow

/-! ### Conservation monitors -/

theorem State.memOk.modMon {s : State} {t i f} (h : s.memOk) : (s.modMon t i f).memOk := h.modTeam

theorem State.memOk.checkMonitor {s : State} {ts level i} (h : s.memOk) : (s.checkMonitor ts level i).1.memOk := by
  unfold State.checkMonitor
  dsimp only
  split
  · exact h
  · exact h.foldl fun h => h.modMon

theorem State.memOk.checkAll {s : State} {ts level is} (h : s.memOk) : (s.checkAll ts level is).1.memOk := by
  induction is generalizing s with
  | nil => exact h
  | cons i is ih => exact ih h.checkMonitor

theorem State.memOk.refuseMonitor {s : State} (h : s.memOk) : s.refuseMonitor.memOk := h.trapIssued

theorem execHcfg_memOk {s : State} {a m} (h : s.memOk) : OutMemOk (execHcfg a m s) := by
  unfold execHcfg
  refine h.word fun h => h.uniWord fun h => ?_
  dsimp only
  split
  · exact h.uniNow fun h => h
  · refine h.readBlock.uniNow fun h => ?_
    split
    · exact h.refuseMonitor
    · exact .ite h.refuseMonitor h.modMon.advanceAll

theorem execHchk_memOk {s : State} {d m} (h : s.memOk) : OutMemOk (execHchk d m s) := by
  unfold execHchk
  refine h.word fun h => ?_
  dsimp only
  split
  · exact h.refuseMonitor
  · split
    · exact h.checkMonitor.writeS.advanceAll
    · exact .ite h.checkMonitor.writeS.advanceAll.takeTraps h.checkMonitor.writeS.advanceAll.killTeam

/-! ### Barriers -/

theorem State.memOk.modBar {s : State} {r f} (h : s.memOk) : (s.modBar r f).memOk := by
  unfold State.modBar
  split
  · exact h.modTeam
  · exact h.modBundle
  · exact h.modPack

theorem State.memOk.stageTeams {s : State} {r} (h : s.memOk) : (s.stageTeams r).memOk :=
  .ite (h.foldl fun h => .ite h.modBar h) h

theorem State.memOk.checkpoint {s : State} {r pc} (h : s.memOk) : (s.checkpoint r pc).1.memOk := by
  unfold State.checkpoint
  split
  · exact h
  · split
    next e => exact h.checkAll.of_eq e
    next e =>
      have h := h.checkAll.of_eq e
      exact .ite_fst h.modBar h.killTeam

theorem State.memOk.deliverPayload {s : State} {r} (h : s.memOk) : (s.deliverPayload r).memOk := by
  unfold State.deliverPayload
  dsimp only
  split
  · exact h
  · refine h.foldl fun h => ?_
    split
    · exact h.modBundle
    · exact h

theorem State.memOk.parkDrift {s : State} {b ls} (h : s.memOk) : (s.parkDrift b ls).memOk :=
  h.foldl fun h => h.takeTraps

theorem State.memOk.wakeBundle {s : State} {r old new vs b} (h : s.memOk) : (s.wakeBundle r old new vs b).memOk := by
  unfold State.wakeBundle
  refine .parkDrift (.foldl (.foldl (.modBundle ?_) fun h => h.acquireThread) fun h => h.fenceThread)
  split
  · exact h.modBundle
  · exact h

theorem State.memOk.releaseBar {s : State} {r pc} (h : s.memOk) : (s.releaseBar r pc).memOk := by
  unfold State.releaseBar
  split
  next e => exact h.checkpoint.of_eq e
  next e => exact (h.checkpoint.of_eq e).deliverPayload.modBar.foldl fun h => h.wakeBundle

theorem State.memOk.settleBar {s : State} {r pc} (h : s.memOk) : (s.settleBar r pc).memOk :=
  .ite h.stageTeams.releaseBar h.stageTeams

theorem State.memOk.settleBars {s : State} {b} (h : s.memOk) : (s.settleBars b).memOk := h.foldl fun h => h.settleBar

theorem State.memOk.exitLanes {s : State} {b ls} (h : s.memOk) : (s.exitLanes b ls).memOk :=
  .ite h (h.fenceNow.foldl fun h => h.modThread).settleBars

theorem State.memOk.arriveLanes {s : State} {r b ls} (h : s.memOk) : (s.arriveLanes r b ls).memOk := by
  unfold State.arriveLanes
  split
  · exact h
  · dsimp only
    exact .ite (.ite (h.fenceNow.modBar.foldl fun h => h.modThread) (h.fenceNow.modBar.foldl fun h => h.modThread).modBar)
        h.fenceNow.modBar.modBar

theorem State.memOk.waitLane {s : State} {r b l g} (h : s.memOk) : (s.waitLane r b l g).memOk :=
  .ite h.modThread h.modThread.acquireThread

theorem State.memOk.waitLanes {s : State} {r b ls} (h : s.memOk) : (s.waitLanes r b ls).memOk :=
  (h.foldl fun h => h.waitLane).parkDrift

theorem State.memOk.barWord {s : State} {l n us effect} (h : s.memOk)
    (heffect : ∀ {s' x}, s'.memOk → (effect s' x).memOk) :
    (s.barWord l n us effect).memOk := .ite h.trapIssued (h.uniWord heffect)

/-! ### The frame engine -/

theorem State.memOk.engineStore {s : State} {b l va bs} (h : s.memOk) : (s.engineStore b l va bs).1.memOk := h.storeNow

theorem State.memOk.engineLoad {s : State} {b l va n} (h : s.memOk) : (s.engineLoad b l va n).1.memOk := h.loadNow

theorem State.memOk.engineStoreAll {s : State} {b l va ps} (h : s.memOk) : (s.engineStoreAll b l va ps).1.memOk := by
  induction ps generalizing s va with
  | nil => exact h
  | cons p ps ih =>
    unfold State.engineStoreAll
    split
    next e => exact ih (h.engineStore.of_eq e)
    · exact h.engineStore

theorem State.memOk.storeSlot {s : State} {b l f j r} (h : s.memOk) : (s.storeSlot b l f j r).1.memOk := by
  unfold State.storeSlot
  dsimp only
  split
  next e =>
    have h := h.engineStore.of_eq e
    split
    · exact h.loadNow.engineStore
    · exact h.loadNow
  · exact h.engineStore

theorem State.memOk.loadSlot {s : State} {b l f j} (h : s.memOk) : (s.loadSlot b l f j).1.memOk := by
  unfold State.loadSlot
  split
  next e =>
    have h := h.engineLoad.of_eq e
    split <;> next e => exact h.engineLoad.of_eq e
  next e => exact h.engineLoad.of_eq e

theorem State.memOk.resolveBound {s : State} {b l i} (h : s.memOk) : (s.resolveBound b l i).memOk := h.modThread

theorem State.memOk.saveRing {s : State} {b l i} (h : s.memOk) : (s.saveRing b l i).1.memOk := by
  unfold State.saveRing
  simp only [apply_ite Prod.fst]
  split
  · exact h
  · split
    · exact h.resolveBound
    · exact h.resolveBound.storeSlot

theorem State.memOk.spillOne {s : State} {b l} (h : s.memOk) : (s.spillOne b l).1.memOk := by
  unfold State.spillOne
  dsimp only
  split
  next e => exact (State.memOk.of_eq e (.ite_fst h.saveRing h)).modThread
  · simp only [apply_ite Prod.fst]
    exact .ite h.saveRing h

theorem State.memOk.saveRings {s : State} {b l is} (h : s.memOk) : (s.saveRings b l is).1.memOk := by
  induction is generalizing s with
  | nil => exact h
  | cons i is ih =>
    unfold State.saveRings
    split
    · split
      next e => exact ih (h.saveRing.of_eq e)
      · exact h.saveRing
    · exact ih h

theorem State.memOk.spillTo {s : State} {b l lo n} (h : s.memOk) : (s.spillTo b l lo n).1.memOk := by
  induction n generalizing s with
  | zero => exact h
  | succ n ih =>
    unfold State.spillTo
    split
    · exact h
    · split
      next e => exact ih (h.spillOne.of_eq e)
      · exact h.spillOne

theorem State.memOk.fillValues {s : State} {b l is} (h : s.memOk) : (s.fillValues b l is).1.memOk := by
  induction is generalizing s with
  | nil => exact h
  | cons i is ih =>
    unfold State.fillValues
    split
    · exact ih h
    · split
      next e => exact ih (h.loadSlot.of_eq e)
      next e => exact h.loadSlot.of_eq e

theorem State.memOk.readLink {s : State} {b l a} (h : s.memOk) : (s.readLink b l a).1.memOk := by
  unfold State.readLink
  split
  next e =>
    have h := h.engineLoad.of_eq e
    split <;> next e => exact h.engineLoad.of_eq e
  next e => exact h.engineLoad.of_eq e

theorem State.memOk.readDelim {s : State} {b l a} (h : s.memOk) : (s.readDelim b l a).1.memOk := by
  unfold State.readDelim
  split
  next e => exact (h.readLink.of_eq e).engineLoad
  · exact h.readLink

theorem State.memOk.dropMarks {s : State} {b l f n a} (h : s.memOk) : (s.dropMarks b l f n a).1.memOk := by
  induction n generalizing s a with
  | zero => exact h
  | succ n ih =>
    unfold State.dropMarks
    split
    · exact h
    · split
      next e =>
        have h := h.readLink.of_eq e
        exact .ite_fst (ih h) h
      next e => exact h.readLink.of_eq e

theorem State.memOk.chainTo {s : State} {b l tag n a} (h : s.memOk) : (s.chainTo b l tag n a).1.memOk := by
  induction n generalizing s a with
  | zero => exact h
  | succ n ih =>
    unfold State.chainTo
    split
    · exact h
    · split
      next e =>
        have h := h.readDelim.of_eq e
        exact .ite_fst h (ih h)
      next e => exact h.readDelim.of_eq e

/-! ### Fetching an instruction word -/

theorem State.memOk.fetchBytes {s : State} {pa} (h : s.memOk) : (s.fetchBytes pa).1.memOk :=
  .ite_fst h (.ite_fst h.physRead h)

theorem State.memOk.fetch {s : State} {b va} (h : s.memOk) : (s.fetch b va).1.memOk := by
  unfold State.fetch
  dsimp only
  split
  · exact h
  · simp only [apply_ite Prod.fst]
    split
    · exact h
    · split
      next e => exact h.xlate.of_eq e
      next e => exact h.xlate.of_eq e
      next e =>
        have h := h.xlate.of_eq e
        exact .ite_fst h (.ite_fst h (.update h.fetchBytes))

theorem State.memOk.withdraw {s : State} {gone} (h : s.memOk) : (s.withdraw gone).memOk := .ite h (.update h)

theorem State.memOk.awaitReread {s : State} {bundle lane} (h : s.memOk) : (s.awaitReread bundle lane).memOk := by
  unfold State.awaitReread
  dsimp only
  split
  · exact h
  · split
    · split
      next e => exact (h.locate.of_eq e).takeTraps
      next e => exact (h.locate.of_eq e).linkLost
      next e => exact (h.locate.of_eq e).beginFill
      next e =>
        have h := h.locate.of_eq e
        refine .update (.deliverStops (.ite ?_ (.modBundle ?_))) <;> exact .loadFrom (.markRead (.update h))
    · exact h

/-! ### Control flow, allocation of registers, the leash -/

theorem State.memOk.branchLanes {s : State} {take target} (h : s.memOk) : (s.branchLanes take target).memOk :=
  h.mapLanes

theorem State.memOk.jumpLanes {s : State} {a call} (h : s.memOk) : (s.jumpLanes a call).memOk := h.meetAll.mapLanes

theorem State.memOk.engineAll {s : State} {f ls} (h : s.memOk) (hf : ∀ {s' x}, s'.memOk → (f s' x).1.memOk) :
    (State.engineAll f s ls).1.memOk := by
  induction ls generalizing s with
  | nil => exact h
  | cons l ls ih => exact ih (hf h)

theorem State.memOk.engineEnd {s : State} {wait traps rs done} (h : s.memOk)
    (hwait : ∀ {s'}, s'.memOk → (wait s').memOk) (hdone : ∀ {s' x}, s'.memOk → (done s' x).memOk) :
    (s.engineEnd wait traps rs done).memOk := by
  unfold State.engineEnd
  split
  · exact h.linkLost
  · split
    · refine hwait (h.foldl fun h => ?_)
      split
      · exact h.beginFill
      · exact h
    · exact (h.foldl hdone).takeTraps

theorem State.memOk.enterAct {s : State} {b n o d} (h : s.memOk) : (State.enterAct b n o s d).1.memOk := by
  unfold State.enterAct
  dsimp only
  split
  next e =>
    have h := h.spillTo.of_eq e
    split
    next e => exact (h.fillValues.of_eq e).engineStoreAll
    next e => exact h.fillValues.of_eq e
  next e => exact h.spillTo.of_eq e

theorem State.memOk.enterAll {s : State} {b n o good} (h : s.memOk) : (State.enterAll b n o s good).1.memOk :=
  .foldl_fst h fun h => h.enterAct

theorem State.memOk.contest {s : State} {b l keys f} (h : s.memOk) : (s.contest b l keys f).memOk := h.modBundle

theorem State.memOk.reframe {s : State} {b l f} (h : s.memOk) : (s.reframe b l f).memOk := h.contest

theorem execEnter_memOk {s : State} {o n} (h : s.memOk) : OutMemOk (execEnter o n s) := by
  unfold execEnter
  refine h.word fun h => h.enterAll.engineEnd (fun h => h.stall) fun h => ?_
  split
  · exact h.reframe
  · exact h

theorem State.memOk.backAct {s : State} {b l} (h : s.memOk) : (State.backAct b s l).1.memOk := h.fillValues

theorem State.memOk.backAll {s : State} {b ls} (h : s.memOk) : (State.backAll b s ls).1.memOk :=
  .foldl_fst h fun h => h.backAct

theorem State.memOk.retAct {s : State} {b d} (h : s.memOk) : (State.retAct b s d).1.memOk := by
  unfold State.retAct
  dsimp only
  split
  next e => exact (h.dropMarks.of_eq e).fillValues
  next e => exact h.dropMarks.of_eq e

theorem State.memOk.retAll {s : State} {b deep} (h : s.memOk) : (State.retAll b s deep).1.memOk :=
  .foldl_fst h fun h => h.retAct

theorem execRet_memOk {s : State} (h : s.memOk) : OutMemOk (execRet s) := by
  refine h.word fun h => .ite ?_ (.exitLanes ?_) <;>
  · refine h.backAll.retAll.engineEnd (fun h => h.stall) fun h => .ite h ?_
    split
    · exact h.modThread
    · split
      · exact h.reframe
      · exact h

theorem State.memOk.growBundle {s : State} {b n} (h : s.memOk) : (s.growBundle b n).memOk := h.modBundle

theorem execRshrink_memOk {s : State} {n} (h : s.memOk) : OutMemOk (execRshrink n s) := by
  unfold execRshrink
  refine h.word fun h => ?_
  dsimp only
  split
  · exact h.trapIssued
  · split
    · exact .ite ((h.engineAll fun h => h.spillTo).engineEnd (fun h => h.stall) fun h => h)
          (h.engineAll fun h => h.spillTo).trapIssued
    · exact .ite ((h.engineAll fun h => h.spillTo).engineEnd (fun h => h.stall) fun h => h)
          ((h.engineAll fun h => h.spillTo).engineEnd (fun h => h.stall) fun h => h).modBundle.advanceAll

theorem execRgrowGrant_memOk {s : State} {place sub} (h : s.memOk) : OutMemOk (execRgrowGrant place sub s) := by
  unfold execRgrowGrant
  refine .next ?_
  split
  · exact h
  · dsimp only
    exact .ite (.takeTraps (.update h)) (.ite (.foldl (.growBundle (.update h)) fun h => h.modThread) h)

theorem State.memOk.rotate {s : State} {b} (h : s.memOk) : (s.rotate b).memOk := .ite h.modBundle h

theorem State.memOk.endTurn {s : State} {b} (h : s.memOk) : (s.endTurn b).memOk := .ite h.modBundle h

/-! ### The stash words and events -/

theorem State.memOk.drainTeam {s : State} {t} (h : s.memOk) : (s.drainTeam t).memOk := h.foldl fun h => h.drainLanes

theorem State.memOk.smap {s : State} {d us mode va n q} (h : s.memOk) : (s.smap d us mode va n q).memOk := by
  unfold State.smap
  refine h.uniWord fun h => ?_
  split
  · exact h.trapIssued
  · exact h.writeS.advanceAll
  · exact h.drainTeam.modTeam.writeS.advanceAll

theorem State.memOk.cleanRange {s : State} {t w base n} (h : s.memOk) : (s.cleanRange t w base n).memOk :=
  h.forLines fun h => .ite h.writeOut h

theorem execSunmap_memOk {s : State} {a} (h : s.memOk) : OutMemOk (execSunmap a s) := by
  unfold execSunmap
  refine h.word fun h => h.uniWord fun h => ?_
  dsimp only
  split
  · exact h.trapIssued
  · exact .ite h.waitWord h.cleanRange.modTeam.advanceAll

theorem execStashFillArrives_memOk {s : State} {team window line} (h : s.memOk) :
    OutMemOk (execStashFillArrives team window line s) := by
  unfold execStashFillArrives
  refine .next ?_
  split
  · exact .ite h.fillLine h
  · exact h

theorem execStashRecall_memOk {s : State} {team window line store} (h : s.memOk) :
    OutMemOk (execStashRecall team window line store s) := by
  unfold execStashRecall
  refine .next ?_
  split
  · exact .ite h h.recall
  · exact h

theorem execStashWritebackAck_memOk {s : State} {team window line} (h : s.memOk) :
    OutMemOk (execStashWritebackAck team window line s) := by
  unfold execStashWritebackAck
  refine .next ?_
  split
  · split
    · exact h
    · dsimp only
      split
      · split
        · exact h.modLine.writeBack
        · exact h.modLine
      · exact h.modLine
  · exact h

theorem execStashWritebackTimeout_memOk {s : State} {team window line} (h : s.memOk) :
    OutMemOk (execStashWritebackTimeout team window line s) := by
  unfold execStashWritebackTimeout
  refine .next ?_
  split
  · exact .ite h.writeBack h
  · exact h

theorem execUncorrectableError_memOk {s : State} {team window line} (h : s.memOk) :
    OutMemOk (execUncorrectableError team window line s) := by
  unfold execUncorrectableError
  refine .next ?_
  split
  · exact .update h
  · split
    · exact h.killTeam
    · split
      · exact h
      · split
        · exact h.killTeam
        · split
          · exact .ite h.dropLine (.ite h h.killTeam)
          · exact h

/-! ### Engine commands -/

theorem State.memOk.observe {s : State} {b regs ls} (h : s.memOk) : (s.observe b regs ls).memOk :=
  .ite h ((h.foldl fun h => h.acquireThread).foldl fun h => h.modCmd).modBundle

theorem State.memOk.wakeToken {s : State} {b} (h : s.memOk) : (s.wakeToken b).memOk :=
  .ite h (h.foldl fun h => h.modThread).observe

theorem State.memOk.stampAt {s : State} {c field now} (h : s.memOk) : (s.stampAt c field now).memOk :=
  .ite h (.update h)

theorem State.memOk.stampCmd {s : State} {c field} (h : s.memOk) : (s.stampCmd c field).memOk := h.stampAt

theorem State.memOk.virtStore {s : State} {asid va ps} (h : s.memOk) : (s.virtStore asid va ps).1.memOk := by
  induction ps generalizing s va with
  | nil => exact h
  | cons p ps ih =>
    unfold State.virtStore
    split
    next e => exact ih (h.virtWrite.of_eq e)
    next e => exact h.virtWrite.of_eq e

theorem State.memOk.virtFields {s : State} {asid fs} (h : s.memOk) : (s.virtFields asid fs).1.memOk := by
  induction fs generalizing s with
  | nil => exact h
  | cons f fs ih =>
    unfold State.virtFields
    split
    next e =>
      have h := h.virtRead.of_eq e
      split
      next e => exact State.memOk.of_eq e (ih h)
      · exact ih h
    next e => exact h.virtRead.of_eq e

theorem State.memOk.stampDrop {s : State} {asid d} (h : s.memOk) : (s.stampDrop asid d).memOk := by
  unfold State.stampDrop
  split
  next e => exact (h.virtRead.of_eq e).virtWrite
  next e => exact h.virtRead.of_eq e

theorem State.memOk.stampRing {s : State} {asid bs} (h : s.memOk) : (s.stampRing asid bs).memOk := by
  unfold State.stampRing
  dsimp only
  split
  · exact h
  · split
    next e =>
      have h := h.virtFields.of_eq e
      split
      · exact h
      · split
        · exact h.stampDrop
        · split
          next e => exact (h.virtStore.of_eq e).virtWrite
          next e => exact (h.virtStore.of_eq e).stampDrop
    next e => exact h.virtFields.of_eq e

theorem State.memOk.retireStamp {s : State} {c} (h : s.memOk) : (s.retireStamp c).memOk :=
  .ite h (.stampRing (.update h))

theorem State.memOk.finishCmd {s : State} {i} (h : s.memOk) : (s.finishCmd i).memOk := by
  unfold State.finishCmd
  split
  · exact h
  · dsimp only
    exact .ite h.modCmd.retireStamp h.modCmd.modBundle.retireStamp.wakeToken

theorem State.memOk.requestLine {s : State} {k place t a} (h : s.memOk) : (s.requestLine k place t a).1.memOk := by
  unfold State.requestLine
  dsimp only
  split
  · exact h
  · simp only [apply_ite Prod.fst]
    split
    · exact h
    · split
      · exact h
      · split
        next e => exact h.xlate.of_eq e
        next e => exact h.xlate.of_eq e
        next e =>
          have h := h.xlate.of_eq e
          exact .ite_fst h (.ite_fst h (.ite_fst h (.ite_fst h h.startFill)))

theorem State.memOk.requestLines {s : State} {k place t as} (h : s.memOk) : (s.requestLines k place t as).1.memOk := by
  induction as generalizing s with
  | nil => exact h
  | cons a as ih =>
    unfold State.requestLines
    split
    next e => exact ih (h.requestLine.of_eq e)
    · exact h.requestLine

theorem State.memOk.refetch {s : State} {c t w a} (h : s.memOk) : (s.refetch c t w a).memOk := by
  unfold State.refetch
  dsimp only
  split
  · exact h
  · exact .ite h.fillNow.killTeam h.fillNow

theorem State.memOk.stashPlace {s : State} {c t a} (h : s.memOk) : (s.stashPlace c t a).1.memOk := by
  unfold State.stashPlace
  split
  · exact h
  · dsimp only
    exact .ite_fst h h.refetch

theorem State.memOk.stashGet {s : State} {c t a n} (h : s.memOk) : (s.stashGet c t a n).1.memOk := by
  unfold State.stashGet
  split <;> next e => exact h.stashPlace.of_eq e

theorem State.memOk.engineRace {s : State} {z tg store} (h : s.memOk) : (s.engineRace z tg store).1.memOk :=
  .ite_fst h h.raceEffects

theorem State.memOk.stashRace {s : State} {c tg size store} (h : s.memOk) : (s.stashRace c tg size store).1.memOk := by
  unfold State.stashRace
  split
  · exact h.engineRace
  · exact h

theorem State.memOk.sideGet {s : State} {c t a n} (h : s.memOk) : (s.sideGet c t a n).1.memOk := by
  unfold State.sideGet
  split
  next e => exact (h.stashPlace.of_eq e).stashRace
  next e => exact h.stashPlace.of_eq e

theorem State.memOk.sidePut {s : State} {c t a bs} (h : s.memOk) : (s.sidePut c t a bs).memOk := by
  unfold State.sidePut
  split
  next e => exact (h.stashPlace.of_eq e).stashRace.stashWrite
  next e => exact h.stashPlace.of_eq e

theorem State.memOk.engineAccess {s : State} {c a off size store} (h : s.memOk) :
    (s.engineAccess c a off size store).1.memOk := .engineRace (.ite h.settleSeen h)

theorem State.memOk.globalGet {s : State} {c a n} (h : s.memOk) : (s.globalGet c a n).1.memOk := by
  unfold State.globalGet
  split
  · exact h
  · simp only [apply_ite Prod.fst]
    exact .ite h.recallRemote (.ite h h.engineAccess.outsideRead)

theorem State.memOk.globalPut {s : State} {c a bs} (h : s.memOk) : (s.globalPut c a bs).1.memOk := by
  unfold State.globalPut
  split
  · exact h
  · simp only [apply_ite Prod.fst]
    exact .ite h.recallRemote (.ite h.windowStore h.engineAccess.outsideWrite)

theorem State.memOk.pinPages {s : State} {place asid k q ps} (h : s.memOk) : (s.pinPages place asid k q ps).1.memOk := by
  induction ps generalizing s with
  | nil => exact h
  | cons p ps ih =>
    unfold State.pinPages
    dsimp only
    split
    next e => exact h.xlate.of_eq e
    next e => exact h.xlate.of_eq e
    next e =>
      have h := h.xlate.of_eq e
      split
      · exact h
      · split
        next e => exact State.memOk.of_eq e (ih h)
        · exact ih h

theorem State.memOk.pinGlobals {s : State} {place asid q gs} (h : s.memOk) : (s.pinGlobals place asid q gs).1.memOk := by
  induction gs generalizing s with
  | nil => exact h
  | cons g gs ih =>
    unfold State.pinGlobals
    split
    next e =>
      have h := h.pinPages.of_eq e
      split
      next e => exact State.memOk.of_eq e (ih h)
      · exact ih h
    · exact h.pinPages

theorem State.memOk.readyPosting {s : State} {b} (h : s.memOk) : (s.readyPosting b).memOk := by
  unfold State.readyPosting
  split
  · exact h
  · dsimp only
    split
    · exact .modBundle (.ite h.stampCmd h)
    · exact h.modBundle
    · exact h

theorem State.memOk.post {s : State} {c} (h : s.memOk) : (s.post c).memOk := by
  unfold State.post
  split
  next e => exact (h.pinGlobals.of_eq e).trapIssued
  next e =>
    have h := h.pinGlobals.of_eq e
    split
    next e => exact (h.requestLines.of_eq e).trapIssued
    next e => exact (h.requestLines.of_eq e).linkLost
    next e =>
      have h := h.requestLines.of_eq e
      exact .readyPosting (.waitIssued (.modBundle (.ite h.stampCmd h)))

theorem State.memOk.posting {s : State} {us effect} (h : s.memOk) (heffect : ∀ {s'}, s'.memOk → (effect s').memOk) :
    (s.posting us effect).memOk := h.uniWord fun h => .ite h.stall (heffect h)

theorem State.memOk.operandBytes {s : State} {c rs} (h : s.memOk) : (s.operandBytes c rs).1.memOk :=
  .foldl_fst h fun h => h.foldl_fst fun h => h.stashGet

theorem State.memOk.startCmd {s : State} {i} (h : s.memOk) : (s.startCmd i).memOk := h.modCmd

theorem State.memOk.acceptCmd {s : State} {p pins} (h : s.memOk) : (s.acceptCmd p pins).memOk := by
  unfold State.acceptCmd
  dsimp only
  split
  -- A copy writes its start stamp, and where it moves nothing it ends at once; a collective starts.
  on_goal 1 => refine .ite (.finishCmd (.ite (.stampCmd ?stamped) (.stampCmd ?stamped))) ?stamped
  on_goal 1 => refine .ite (.stampCmd ?accepted) ?accepted
  on_goal 3 => refine .startCmd ?_
  all_goals
    refine .foldl (.modBundle (.modCtx (.update ?_))) fun h => h.modThread
    split
    · exact h.operandBytes
    · dsimp only
      split
      · exact h
      · exact h.drainStream

theorem State.memOk.postingTrap {s : State} {b p i} (h : s.memOk) : (s.postingTrap b p i).memOk := h.modBundle.takeTraps

theorem execEngineCommandQueued_memOk {s : State} {bundle} (h : s.memOk) :
    OutMemOk (execEngineCommandQueued bundle s) := by
  unfold execEngineCommandQueued
  refine .next ?_
  split
  · exact h
  · split
    next e => exact (h.requestLines.of_eq e).postingTrap
    next e => exact (h.requestLines.of_eq e).linkLost
    next e =>
      have h := h.requestLines.of_eq e
      dsimp only
      split
      · exact h.readyPosting
      · split
        next e => exact (h.readyPosting.pinGlobals.of_eq e).postingTrap
        next e => exact (h.readyPosting.pinGlobals.of_eq e).acceptCmd

theorem execCpy_memOk {s : State} {d a} (h : s.memOk) : OutMemOk (execCpy d a s) := by
  unfold execCpy
  refine h.word fun h => h.posting fun h => ?_
  dsimp only
  split
  · exact h.uniNow fun h => h
  · refine h.readBlock.uniNow fun h => ?_
    split
    · exact h.trapIssued
    · split
      · exact h.trapIssued
      · exact h.post

theorem State.memOk.copyGet {s : State} {c x far row off} (h : s.memOk) : (s.copyGet c x far row off).1.memOk := by
  unfold State.copyGet
  dsimp only
  split
  · exact h.sideGet
  · split
    · split
      · exact h.sideGet
      · exact h
    · exact h.globalGet

theorem State.memOk.copyPut {s : State} {c x far row off bs} (h : s.memOk) : (s.copyPut c x far row off bs).1.memOk := by
  unfold State.copyPut
  dsimp only
  split
  · exact h.sidePut
  · split
    · split
      · exact h.sidePut
      · exact h
    · exact h.globalPut

theorem State.memOk.beatGet {s : State} {c x row off n} (h : s.memOk) : (s.beatGet c x row off n).1.memOk := by
  induction n generalizing s off with
  | zero => exact h
  | succ n ih => exact ih h.copyGet

theorem State.memOk.beatPut {s : State} {c x row off bs n} (h : s.memOk) : (s.beatPut c x row off bs n).1.memOk := by
  induction n generalizing s off bs with
  | zero => exact h
  | succ n ih => exact ih h.copyPut

theorem State.memOk.copyBeat {s : State} {i c x beat} (h : s.memOk) : (s.copyBeat i c x beat).memOk :=
  .ite h (.modCmd (.beatPut (.ite h.beatGet.inject h.beatGet.inject.watchWrite)))

theorem State.memOk.copyBeats {s : State} {i c x bs} (h : s.memOk) : (s.copyBeats i c x bs).1.memOk := by
  induction bs generalizing s with
  | nil => exact h
  | cons b bs ih =>
    unfold State.copyBeats
    dsimp only
    split
    · exact h.copyBeat
    · exact ih h.copyBeat

theorem State.memOk.reportBeat {s : State} {i c hit after} (h : s.memOk) : (s.reportBeat i c hit after).memOk :=
  h.queueEvent

theorem State.memOk.pauseCopy {s : State} {i c x hit rest} (h : s.memOk) : (s.pauseCopy i c x hit rest).memOk := by
  unfold State.pauseCopy
  refine (h.foldl fun h => h.copyBeat).modCmd.reportBeat.foldl fun h => ?_
  dsimp only
  split
  · exact h.reportBeat
  · exact h

theorem execCopyStart_memOk {s : State} {cmd} (h : s.memOk) : OutMemOk (execCopyStart cmd s) := by
  unfold execCopyStart
  refine .next ?_
  split
  · split
    · exact .ite h.startCmd h
    · exact h
  · exact h

theorem State.memOk.copyEnd {s : State} {i c x} (h : s.memOk) : (s.copyEnd i c x).memOk := .ite h h.stampCmd.finishCmd

theorem execCopyDone_memOk {s : State} {cmd} (h : s.memOk) : OutMemOk (execCopyDone cmd s) := by
  unfold execCopyDone
  refine .next ?_
  split
  · split
    · split
      · exact h
      · split
        · exact h.killTeam
        · dsimp only
          split
          · split
            next e => exact (h.copyBeats.of_eq e).pauseCopy
            next e => exact (h.copyBeats.of_eq e).copyEnd
          · exact (h.foldl fun h => h.copyBeat).copyEnd
    · exact h
  · exact h

theorem execMmpost_memOk {s : State} {d a} (h : s.memOk) : OutMemOk (execMmpost d a s) := by
  unfold execMmpost
  refine h.word fun h => h.posting fun h => ?_
  dsimp only
  split
  · exact h.trapIssued
  · split
    · exact h.trapIssued
    · split
      · exact h.trapIssued
      · split
        · exact h.trapIssued
        · exact h.post

theorem execMatrixTurn_memOk {s : State} {cmd} (h : s.memOk) : OutMemOk (execMatrixTurn cmd s) := by
  unfold execMatrixTurn
  refine .next ?_
  split
  · split
    · dsimp only
      exact .ite h h.modCmd.stampCmd
    · exact h
  · exact h

theorem execMatrixDone_memOk {s : State} {cmd} (h : s.memOk) : OutMemOk (execMatrixDone cmd s) := by
  unfold execMatrixDone
  refine .next ?_
  split
  · split
    · exact .ite h (.ite h.stampAt.finishCmd h.operandBytes.modBundle.modCmd.stampAt.finishCmd)
    · exact h
  · exact h

theorem State.memOk.readTable {s : State} {va n} (h : s.memOk) : (s.readTable va n).1.memOk := by
  induction n generalizing s va with
  | zero => exact h
  | succ n ih =>
    unfold State.readTable
    split
    next e =>
      have h := h.loadNow.of_eq e
      split
      next e => exact State.memOk.of_eq e (ih h)
      · exact ih h
    · exact h.loadNow

theorem execColl_memOk {s : State} {d a} (h : s.memOk) : OutMemOk (execColl d a s) := by
  unfold execColl
  refine h.word fun h => h.posting fun h => ?_
  dsimp only
  split
  · exact h.uniNow fun h => h
  · refine h.readBlock.uniNow fun h => ?_
    split
    · exact h.trapIssued
    · exact h.readTable.uniNow fun h => .ite h.trapIssued
          (.ite h.trapIssued (.ite h.trapIssued (.ite h.trapIssued (.ite h.trapIssued (.ite h.trapIssued h.post)))))

theorem State.memOk.collSend {s : State} {c x} (h : s.memOk) : (s.collSend c x).1.memOk :=
  .foldl_fst h fun h => h.globalGet

theorem State.memOk.collRecv {s : State} {c x ok send} (h : s.memOk) : (s.collRecv c x ok send).1.memOk :=
  .foldl_fst h fun h => h.globalPut

theorem State.memOk.endColl {s : State} {i result flags} (h : s.memOk) : (s.endColl i result flags).memOk := by
  unfold State.endColl
  split
  · split
    · exact .ite h (.finishCmd (.modCmd (.collRecv (.ite_fst h.collSend h))))
    · exact h
  · exact h

theorem execCollectiveDone_memOk {s : State} {cmd result flags} (h : s.memOk) :
    OutMemOk (execCollectiveDone cmd result flags s) := by
  unfold execCollectiveDone
  refine .next ?_
  split
  · split
    · exact h.endColl
    · exact h
  · exact h

/-! ### Long-latency ends, Span links, requests of other nodes -/

theorem State.memOk.reportLanes {s : State} {b lanes r} (h : s.memOk) : (s.reportLanes b lanes r).memOk := by
  unfold State.reportLanes
  split
  · exact h.foldl fun h => h.modThread
  · exact h

theorem State.memOk.readLate {s : State} {b pc y} (h : s.memOk) : (s.readLate b pc y).1.memOk := by
  unfold State.readLate
  dsimp only
  exact h.reportLanes.seenBytes.racedLoad

theorem State.memOk.reload {s : State} {b pc ys} (h : s.memOk) : (s.reload b pc ys).1.memOk := by
  induction ys generalizing s with
  | nil => exact h
  | cons y ys ih => exact .ite_fst (ih h.readLate) (ih h)

theorem State.memOk.answer {s : State} {b o} (h : s.memOk) : (s.answer b o).memOk :=
  .ite h (h.modBundle.foldl fun h => h.settleThread)

theorem execCompletionFlagClear_memOk {s : State} {bundle op} (h : s.memOk) :
    OutMemOk (execCompletionFlagClear bundle op s) := by
  unfold execCompletionFlagClear
  refine .next ?_
  dsimp only
  split
  · exact h.reload.answer.modBundle
  · exact h

theorem State.memOk.noteForeign {s : State} {z store} (h : s.memOk) : (s.noteForeign z store).memOk := h

theorem State.memOk.foreign {s : State} {x off} (h : s.memOk) : (s.foreign x off).memOk := by
  unfold State.foreign
  dsimp only
  exact .ite h.raceEffects.noteForeign.outsideRead (.ite h.raceEffects.noteForeign.outsideWrite
      h.raceEffects.noteForeign.outsideRead.outsideWrite)

theorem State.memOk.reportAtomic {s : State} {node pa off size} (h : s.memOk) :
    (s.reportAtomic node pa off size).memOk := by
  unfold State.reportAtomic
  refine h.foldl fun h => ?_
  split
  · exact h.modBundle
  · exact h

theorem State.memOk.failHandler {s : State} {b fails} (h : s.memOk) : (s.failHandler b fails).memOk := by
  unfold State.failHandler
  split
  · exact h
  · dsimp only
    split
    · exact h.modBundle.killTeam
    · exact h.modBundle

theorem State.memOk.failCopies {s : State} {fails} (h : s.memOk) : (s.failCopies fails).memOk := by
  unfold State.failCopies
  refine h.foldl fun h => ?_
  split
  · exact .ite h.killTeam h
  · exact h

theorem State.memOk.failRequests {s : State} {fails} (h : s.memOk) : (s.failRequests fails).memOk := by
  unfold State.failRequests
  refine .foldl (h.foldl fun h => ?_) fun h => .ite h.failHandler h
  split
  · exact h.killTeam
  · exact h

theorem State.memOk.failColls {s : State} {fails} (h : s.memOk) : (s.failColls fails).memOk := by
  unfold State.failColls
  refine h.foldl fun h => ?_
  split
  · split
    · exact .ite h.endColl h
    · exact h
  · exact h

theorem State.memOk.fenceLink {s : State} {n} (h : s.memOk) : (s.fenceLink n).memOk :=
  .ite h.failRequests.failCopies.modLink.failColls h

theorem State.memOk.enableLink {s : State} {n} (h : s.memOk) : (s.enableLink n).memOk := .ite h.modLink h

theorem State.memOk.resetLink {s : State} {n} (h : s.memOk) : (s.resetLink n).memOk := .ite h.modLink h

theorem State.memOk.moveTraffic {s : State} {n} (h : s.memOk) : (s.moveTraffic n).memOk := h

theorem State.memOk.retrainLink {s : State} {n} (h : s.memOk) : (s.retrainLink n).memOk := .ite h.moveTraffic.modLink h

theorem State.memOk.setRoutes {s : State} (h : s.memOk) : s.setRoutes.memOk := by
  unfold State.setRoutes
  exact .update h

theorem execLinkTrained_memOk {s : State} {link lanes node} (h : s.memOk) :
    OutMemOk (execLinkTrained link lanes node s) := by
  unfold execLinkTrained
  exact .next (.ite h (.ite h.modLink (.setRoutes (.ite (.update h.modLink) h.modLink))))

theorem execFlitRetry_memOk {s : State} {link count} (h : s.memOk) : OutMemOk (execFlitRetry link count s) := by
  unfold execFlitRetry
  refine .next ?_
  split
  · exact h
  · dsimp only
    exact .ite h.modLink.fenceLink h.modLink

/-! ### Delimiters and slices -/

theorem State.memOk.planAll {s : State} {α : Type} {f : State → Nat → State × EngineEnd × Option α} {ls} (h : s.memOk)
    (hf : ∀ {s' x}, s'.memOk → (f s' x).1.memOk) : (State.planAll f s ls).1.memOk := by
  induction ls generalizing s with
  | nil => exact h
  | cons l ls ih => exact ih (hf h)

theorem State.memOk.sliceWord {s : State} {α : Type} {wait o} {plan : State → Nat → State × EngineEnd × Option α}
    {done} (h : s.memOk) (hwait : ∀ {s'}, s'.memOk → (wait s').memOk) (hplan : ∀ {s' x}, s'.memOk → (plan s' x).1.memOk)
    (hdone : ∀ {s' x y}, s'.memOk → (done s' x y).memOk) : (s.sliceWord wait o plan done).memOk := by
  unfold State.sliceWord
  refine (h.planAll hplan).engineEnd hwait fun h => ?_
  split
  · exact hdone h
  · exact h

theorem stopPlan_memOk {α : Type} {s : State} {i} (h : s.memOk) : (stopPlan (α := α) s i).1.memOk := h

theorem State.memOk.pieceLoad {s : State} {engine b l size va n} (h : s.memOk) :
    (s.pieceLoad engine b l size va n).1.memOk := by
  induction n generalizing s va with
  | zero => exact h
  | succ n ih =>
    unfold State.pieceLoad
    split
    next e => exact ih (h.loadNow.of_eq e)
    next e => exact h.loadNow.of_eq e

theorem State.memOk.sliceLoad {s : State} {engine b l va n} (h : s.memOk) : (s.sliceLoad engine b l va n).1.memOk :=
  h.pieceLoad

theorem State.memOk.headLoad {s : State} {engine b l va} (h : s.memOk) : (s.headLoad engine b l va).1.memOk :=
  .ite_fst h.sliceLoad h.pieceLoad

theorem State.memOk.sliceReach {s : State} {engine b l va n} (h : s.memOk) : (s.sliceReach engine b l va n).1.memOk := by
  induction n generalizing s va with
  | zero => exact h
  | succ n ih =>
    unfold State.sliceReach
    split
    next e => exact h.locate.of_eq e
    next e => exact h.locate.of_eq e
    next e => exact h.locate.of_eq e
    next e => exact ih (h.locate.of_eq e)

theorem State.memOk.slicePut {s : State} {engine b l va ps} (h : s.memOk) : (s.slicePut engine b l va ps).memOk := by
  induction ps generalizing s va with
  | nil => exact h
  | cons p ps ih => exact ih h.storeNow

theorem State.memOk.scatter {s : State} {b l va n} (h : s.memOk) : (s.scatter b l va n).memOk := by
  induction n generalizing s va with
  | zero => exact h
  | succ n ih =>
    unfold State.scatter
    refine ih ?_
    split
    · exact h.locate.drainOwns.inject.outsideWrite
    · exact h.locate.recallRemote.inject
    · exact h.locate.inject.stashWrite
    · exact h.locate.inject.stashWrite
    · exact h.locate

theorem State.memOk.markPlan {s : State} {l} (h : s.memOk) : (s.markPlan l).1.memOk := by
  unfold State.markPlan
  dsimp only
  split
  · exact stopPlan_memOk h
  · split <;> next e => exact h.sliceReach.of_eq e

theorem State.memOk.unmarkPlan {s : State} {tag l} (h : s.memOk) : (s.unmarkPlan tag l).1.memOk := by
  unfold State.unmarkPlan
  dsimp only
  split
  next e =>
    have h := h.chainTo.of_eq e
    split
    · simp only [apply_ite Prod.fst]
      split
      · exact stopPlan_memOk h
      · split
        · exact h
        · split <;> next e => exact h.sliceReach.of_eq e
    · exact stopPlan_memOk h
  next e => exact h.chainTo.of_eq e

theorem execUnmark_memOk {s : State} {t} (h : s.memOk) : OutMemOk (execUnmark t s) := by
  unfold execUnmark
  refine h.word fun h => h.sliceWord (fun h => h.stall) (fun h => h.unmarkPlan) fun h => .modThread ?_
  split
  · exact h.slicePut
  · exact h.modThread

theorem State.memOk.readHeader {s : State} {b l buf} (h : s.memOk) : (s.readHeader b l buf).1.memOk :=
  .ite_fst h h.sliceLoad

theorem State.memOk.readCap {s : State} {b l x} (h : s.memOk) : (s.readCap b l x).1.memOk := by
  unfold State.readCap
  split
  · exact h
  · split
    next e => exact (h.sliceLoad.of_eq e).sliceLoad
    next e => exact h.sliceLoad.of_eq e

theorem State.memOk.sliceWalk {s : State} {engine b l buf h n fp} (hs : s.memOk) :
    (s.sliceWalk engine b l buf h n fp).1.memOk := by
  induction n generalizing s fp with
  | zero => exact hs
  | succ n ih =>
    unfold State.sliceWalk
    split
    · exact hs
    · split
      next e =>
        have hs := hs.headLoad.of_eq e
        exact .ite_fst hs (ih hs)
      next e => exact hs.headLoad.of_eq e

theorem State.memOk.sliceFrames {s : State} {engine b l buf h} (hs : s.memOk) :
    (s.sliceFrames engine b l buf h).1.memOk := by
  unfold State.sliceFrames
  split
  · exact hs
  · split <;> next e => exact hs.sliceWalk.of_eq e

theorem State.memOk.openSlice {s : State} {l buf} (h : s.memOk) : (s.openSlice l buf).1.memOk := by
  unfold State.openSlice
  dsimp only
  split
  next e =>
    have h := h.readHeader.of_eq e
    split
    next e =>
      have h := h.sliceFrames.of_eq e
      exact .ite_fst h h
    next e => exact h.sliceFrames.of_eq e
    next e => exact h.sliceFrames.of_eq e
  next e => exact h.readHeader.of_eq e

theorem State.memOk.syncAtomic {s : State} {b l buf fence home f} (h : s.memOk) :
    (s.syncAtomic b l buf fence home f).memOk := .atomAt (.locate (.ite h.fenceNow h))

theorem State.memOk.syncReach {s : State} {b l buf} (h : s.memOk) : (s.syncReach b l buf).1.memOk := by
  unfold State.syncReach
  split <;> next e => exact h.locate.of_eq e

theorem State.memOk.reachEach {s : State} {b l ps} (h : s.memOk) : (s.reachEach b l ps).1.memOk := by
  induction ps generalizing s with
  | nil => exact h
  | cons p ps ih =>
    unfold State.reachEach
    split
    next e => exact ih (h.sliceReach.of_eq e)
    · exact h.sliceReach

theorem State.memOk.cutMarktop {s : State} {b l f above prev} (h : s.memOk) :
    (s.cutMarktop b l f above prev).1.memOk := by
  unfold State.cutMarktop
  split
  · exact h
  · exact h.dropMarks

theorem State.memOk.cutMoves {s : State} {l buf h d tag ds dl fs f1 lo hi} (hs : s.memOk) :
    (s.cutMoves l buf h d tag ds dl fs f1 lo hi).1.memOk := by
  unfold State.cutMoves
  dsimp only
  split
  next e =>
    have hs := hs.cutMarktop.of_eq e
    split
    next e =>
      have hs := hs.saveRings.of_eq e
      split
      next e =>
        have hs := hs.sliceLoad.of_eq e
        split
        next e =>
          have hs := hs.sliceReach.of_eq e
          split
          next e =>
            have hs := hs.reachEach.of_eq e
            split
            next e => exact hs.fillValues.of_eq e
            next e =>
              have hs := hs.fillValues.of_eq e
              dsimp only
              split <;> exact hs.scatter
          next e =>
            have hs := hs.reachEach.of_eq e
            dsimp only
            split <;> exact hs.scatter
        next e =>
          have hs := hs.sliceReach.of_eq e
          dsimp only
          split <;> exact hs.scatter
      next e =>
        have hs := hs.sliceLoad.of_eq e
        dsimp only
        split <;> exact hs.scatter
    next e => exact hs.saveRings.of_eq e
  next e =>
    have hs := hs.cutMarktop.of_eq e
    dsimp only
    split <;> exact hs.scatter

theorem State.memOk.cutPlan {s : State} {d a tag l} (h : s.memOk) : (s.cutPlan d a tag l).1.memOk := by
  unfold State.cutPlan
  dsimp only
  split
  next e =>
    have h := h.readCap.of_eq e
    split
    next e =>
      have h := h.chainTo.of_eq e
      split
      · exact stopPlan_memOk h
      · simp only [apply_ite Prod.fst]
        split
        · exact stopPlan_memOk h
        · split
          · exact stopPlan_memOk h
          · simp only [apply_ite Prod.fst]
            split
            · exact stopPlan_memOk h
            · split
              · exact stopPlan_memOk h
              · split
                · exact stopPlan_memOk h
                · simp only [apply_ite Prod.fst]
                  exact .ite (stopPlan_memOk h) (.ite (stopPlan_memOk h) h.cutMoves)
    next e => exact h.chainTo.of_eq e
  next e => exact h.readCap.of_eq e

theorem State.memOk.graftMoves {s : State} {l buf newlo h fs} (hs : s.memOk) :
    (s.graftMoves l buf newlo h fs).1.memOk := by
  unfold State.graftMoves
  dsimp only
  split
  next e =>
    have hs := hs.spillTo.of_eq e
    split
    next e =>
      have hs := hs.sliceLoad.of_eq e
      split
      next e =>
        have hs := hs.sliceReach.of_eq e
        split <;> next e => exact hs.fillValues.of_eq e
      next e => exact hs.sliceReach.of_eq e
    next e => exact hs.sliceLoad.of_eq e
  next e => exact hs.spillTo.of_eq e

theorem State.memOk.graftBegin {s : State} {b l buf} (h : s.memOk) : (s.graftBegin b l buf).memOk :=
  .ite h (.update h.syncAtomic)

theorem State.memOk.graftEnd {s : State} {b l buf} (h : s.memOk) : (s.graftEnd b l buf).memOk := by
  unfold State.graftEnd
  split
  · exact h
  · exact .update h.syncAtomic

theorem State.memOk.abandonWord {s : State} {b l} (h : s.memOk) : (s.abandonWord b l).memOk := by
  unfold State.abandonWord
  split
  · exact h.syncAtomic
  · exact h

theorem State.memOk.graftChecks {s : State} {a l} (h : s.memOk) : (s.graftChecks a l).1.memOk := by
  unfold State.graftChecks
  dsimp only
  split
  next e =>
    have h := h.openSlice.of_eq e
    split
    · exact stopPlan_memOk h
    · split
      · exact stopPlan_memOk h
      · split
        next e =>
          have h := h.syncReach.of_eq e
          split
          · exact stopPlan_memOk h
          · split
            · exact stopPlan_memOk h
            · split
              next e => exact h.graftMoves.of_eq e
              next e => exact (h.graftMoves.of_eq e).graftBegin.scatter
              next e => exact (h.graftMoves.of_eq e).scatter
        next e => exact h.syncReach.of_eq e
  next e => exact h.openSlice.of_eq e

theorem State.memOk.graftPlan {s : State} {a l} (h : s.memOk) : (s.graftPlan a l).1.memOk := by
  unfold State.graftPlan
  split
  next e => exact (h.graftChecks.of_eq e).graftEnd
  · exact h.graftChecks

theorem State.memOk.ownPlan {s : State} {free a l} (h : s.memOk) : (s.ownPlan free a l).1.memOk := by
  unfold State.ownPlan
  dsimp only
  split
  next e =>
    have h := h.openSlice.of_eq e
    split
    next e =>
      have h := h.syncReach.of_eq e
      exact .ite_fst (stopPlan_memOk h) (.ite_fst (stopPlan_memOk h) (.ite_fst (stopPlan_memOk h) h))
    next e => exact h.syncReach.of_eq e
  next e => exact h.openSlice.of_eq e

theorem State.memOk.infoPlan {s : State} {a l} (h : s.memOk) : (s.infoPlan a l).1.memOk := by
  unfold State.infoPlan
  dsimp only
  split
  next e =>
    have h := h.readHeader.of_eq e
    split <;> next e => exact h.sliceFrames.of_eq e
  next e => exact h.readHeader.of_eq e

/-! ### Special registers -/

theorem State.memOk.setFstat {s : State} {b lanes v} (h : s.memOk) : (s.setFstat b lanes v).memOk := h.modBundle

theorem State.memOk.setBstat {s : State} {b v} (h : s.memOk) : (s.setBstat b v).memOk := h.modBundle

theorem State.memOk.setTagmode {s : State} {asid v} (h : s.memOk) : (s.setTagmode asid v).memOk := h.modCtx

theorem State.memOk.setLeash {s : State} {asid v} (h : s.memOk) : (s.setLeash asid v).memOk := h.modCtx

theorem State.memOk.setStream {s : State} {asid n v} (h : s.memOk) : (s.setStream asid n v).memOk := h.modCtx

theorem State.memOk.setHentry {s : State} {asid v} (h : s.memOk) : (s.setHentry asid v).memOk := h.modCtx

theorem State.memOk.setInject {s : State} {asid v} (h : s.memOk) : (s.setInject asid v).memOk := h.modCtx

theorem State.memOk.setDebug {s : State} {place asid r v} (h : s.memOk) : (s.setDebug place asid r v).memOk :=
  .ite h.modCtx.modCtx h.modCtx

theorem State.memOk.setSpecial {s : State} {r v} (h : s.memOk) : (s.setSpecial r v).memOk :=
  .ite h.setBstat (.ite h.setFstat (.ite h.setTagmode (.ite h.setLeash
      (.ite h.setStream (.ite h.setHentry (.ite h.setDebug (.ite h.setInject h)))))))

/-! ### Program traps and the handler bundle -/

theorem State.memOk.handlerPark {s : State} {b l} (h : s.memOk) : (s.handlerPark b l).memOk := by
  unfold State.handlerPark
  dsimp only
  split
  · exact h.abandonWord.modThread.modBundle
  · exact .update h.abandonWord.modThread
  · exact h.abandonWord.modThread

theorem State.memOk.hlState {s : State} {b l park} (h : s.memOk) : (s.hlState b l park).1.memOk :=
  .ite_fst h (.ite_fst h.handlerPark (.ite_fst h.modThread h))

theorem State.memOk.hlBarThr {s : State} {b l r lv n v} (h : s.memOk) : (s.hlBarThr b l r lv n v).1.memOk :=
  .ite_fst h (.ite_fst h (.ite_fst h h.modThread.settleBar))

theorem State.memOk.hlVreg {s : State} {b l idx v} (h : s.memOk) : (s.hlVreg b l idx v).1.memOk :=
  .ite_fst h (.ite_fst h (.ite_fst h h.modBundle))

theorem State.memOk.hlHeld {s : State} {b idx uniform v} (h : s.memOk) : (s.hlHeld b idx uniform v).1.memOk :=
  .ite_fst h (.ite_fst h (.ite_fst h (.ite_fst h.modBundle h.modBundle)))

theorem State.memOk.hlPc {s : State} {b l v} (h : s.memOk) : (s.hlPc b l v).1.memOk :=
  .ite_fst h (.ite_fst h h.modThread)

theorem State.memOk.hlMisc {s : State} {b l idx v} (h : s.memOk) : (s.hlMisc b l idx v).1.memOk :=
  .ite_fst h (.ite_fst h (.ite_fst h h.modThread))

theorem State.memOk.hlEdit {s : State} {hb w cls idx v} (h : s.memOk) :
    (s.hlEdit hb w cls idx v).1.memOk := by
  unfold State.hlEdit
  split
  · exact h
  · refine .ite_fst h (.ite_fst h.hlVreg (.ite_fst h.hlHeld (.ite_fst h.hlPc (.ite_fst h.hlState (.ite_fst h.hlHeld
      (.ite_fst (.ite_fst ?_ h) (.ite_fst h.hlMisc (.ite_fst h.modBundle (.ite_fst h h)))))))))
    split
    · exact h.hlBarThr
    · exact h

theorem State.memOk.acquireStaged {s : State} {pid core} (h : s.memOk) : (s.acquireStaged pid core).memOk :=
  h.foldl fun h => h.acquireThread

theorem execRett_memOk {s : State} (h : s.memOk) : OutMemOk (execRett s) := by
  unfold execRett
  refine h.word fun h => .modBundle ?_
  dsimp only
  split
  · exact .ite h.drainLanes.acquireStaged.releaseStaged h.drainLanes.acquireStaged.releaseStaged.modCmd
  · exact h.drainLanes.acquireStaged.releaseStaged

theorem execHandlerEventStart_memOk {s : State} {bundle} (h : s.memOk) : OutMemOk (execHandlerEventStart bundle s) := by
  unfold execHandlerEventStart
  refine .next ?_
  dsimp only
  split
  · split
    · split
      · refine .takeTraps (.modBundle ?_)
        split
        · exact h.drainLanes
        · exact h
      · refine .modBundle ?_
        split
        · exact h.drainLanes
        · exact h
    · exact h
  · exact h

theorem State.memOk.dropCode {s : State} {sc line} (h : s.memOk) : (s.dropCode sc line).memOk := .withdraw (.update h)

theorem State.memOk.addrTrap {s : State} {va} (h : s.memOk) : (s.addrTrap va).1.memOk := by
  unfold State.addrTrap
  split <;> next e => exact h.locate.of_eq e

theorem execIcinv_memOk {s : State} {a xs} (h : s.memOk) : OutMemOk (execIcinv a xs s) := by
  unfold execIcinv
  refine h.word fun h => h.uniWord fun h => ?_
  dsimp only
  split
  next e => exact (h.addrTrap.of_eq e).trapIssued
  next e => exact (h.addrTrap.of_eq e).fenceNow.dropCode.advanceAll

/-! ### Walks, page faults and their resumption -/

theorem State.memOk.tlbDrain {s : State} {r removed b} (h : s.memOk) : (s.tlbDrain r removed b).memOk :=
  h.foldl fun h => h.performStores.bindLoads

theorem State.memOk.tlbLines {s : State} {r removed t} (h : s.memOk) : (s.tlbLines r removed t).memOk :=
  (h.forLines fun h => .ite h.writeOut h).modTeam

theorem State.memOk.tlbRemove {s : State} {r} (h : s.memOk) : (s.tlbRemove r).memOk :=
  .foldl (.foldl (.update h) fun h => h.tlbDrain) fun h => h.tlbLines

theorem State.memOk.tlbinv {s : State} {i args r} (h : s.memOk) : (s.tlbinv i args r).memOk :=
  .ite h.fenceNow.waitWord h.fenceNow.tlbRemove.advanceAll

theorem State.memOk.tlbRequest {s : State} {r} (h : s.memOk) : (s.tlbRequest r).memOk :=
  .ite (.update h) (.update h.tlbRemove)

theorem State.memOk.ringPut {s : State} {ring bs} (h : s.memOk) : (s.ringPut ring bs).1.memOk := by
  unfold State.ringPut
  dsimp only
  simp only [apply_ite Prod.fst]
  split
  · exact h
  · split
    next e => exact .update (h.ringAppend.of_eq e)
    next e => exact h.ringAppend.of_eq e

theorem State.memOk.deliverEntry {s : State} {e} (h : s.memOk) : (s.deliverEntry e).memOk := by
  unfold State.deliverEntry
  dsimp only
  split
  · split
    · exact .update h
    · split
      next he => exact .update (h.ringPut.of_eq he)
      next he => exact h.ringPut.of_eq he
  · split
    next he => exact .update (h.ringPut.of_eq he)
    next he => exact h.ringPut.of_eq he

theorem execPageFaultRecordPost_memOk {s : State} {ticket} (h : s.memOk) :
    OutMemOk (execPageFaultRecordPost ticket s) := by
  unfold execPageFaultRecordPost
  refine .next ?_
  split
  · exact h.foldl fun h => .ite h.deliverEntry h
  · split
    · exact .ite h.deliverEntry h
    · exact h

theorem State.memOk.takeRecord {s t : State} {ring ticket} (h : s.memOk)
    (e : s.takeRecord ring ticket = some t) : t.memOk := by
  unfold State.takeRecord at e
  split at e
  · obtain rfl := Option.some.inj e
    exact h
  · nomatch e

theorem State.memOk.resumeReplay {s : State} {ring ticket} (h : s.memOk) : (s.resumeReplay ring ticket).memOk := by
  unfold State.resumeReplay
  split
  · exact h
  next e => exact .update (h.takeRecord e)

theorem State.memOk.resumeDeliver {s : State} {ring ticket} (h : s.memOk) : (s.resumeDeliver ring ticket).memOk := by
  unfold State.resumeDeliver
  split
  · exact h
  next e => exact (h.takeRecord e).foldl fun h => h.foldl fun h => .ite h (h.foldl fun h => h.modThread).deliverTrap

/-! ### Launches, teams and their ends -/

theorem State.memOk.readShares {s : State} {asid va n} (h : s.memOk) : (s.readShares asid va n).1.memOk := by
  induction n generalizing s va with
  | zero => exact h
  | succ n ih =>
    unfold State.readShares
    split
    next e =>
      have h := h.virtRead.of_eq e
      split
      next e => exact State.memOk.of_eq e (ih h)
      · exact ih h
    next e => exact h.virtRead.of_eq e

theorem State.memOk.virtBytes {s : State} {asid va n} (h : s.memOk) : (s.virtBytes asid va n).1.memOk := by
  induction n generalizing s va with
  | zero => exact h
  | succ n ih =>
    unfold State.virtBytes
    split
    next e =>
      have h := h.virtRead.of_eq e
      split
      next e => exact State.memOk.of_eq e (ih h)
      · exact ih h
    next e => exact h.virtRead.of_eq e

theorem State.memOk.keyTable {s : State} {pa n} (h : s.memOk) : (s.keyTable pa n).1.memOk := by
  induction n generalizing s pa with
  | zero => exact h
  | succ n ih =>
    unfold State.keyTable
    dsimp only
    simp only [apply_ite Prod.fst]
    exact .ite h.physRead (ih h.physRead)

theorem State.memOk.signatureOk {s : State} {asid code o} (h : s.memOk) : (s.signatureOk asid code o).1.memOk := by
  unfold State.signatureOk
  simp only [apply_ite Prod.fst]
  split
  · exact h
  · split
    · exact h
    · split
      next e => exact h.virtBytes.of_eq e
      next e =>
        have h := h.virtBytes.of_eq e
        split
        next e => exact h.virtBytes.of_eq e
        next e =>
          have h := h.virtBytes.of_eq e
          split
          · dsimp only
            exact .ite h h.keyTable
          · dsimp only
            exact .ite h h.keyTable

theorem State.memOk.pagePlain {s : State} {asid va} (h : s.memOk) : (s.pagePlain asid va).1.memOk := by
  unfold State.pagePlain
  split
  · exact h
  · split <;> next e => exact h.xlate.of_eq e

theorem State.memOk.readObject {s : State} {asid r} (h : s.memOk) : (s.readObject asid r).1.memOk := by
  unfold State.readObject
  simp only [apply_ite Prod.fst]
  split
  · exact h
  · split
    next e => exact h.virtRead.of_eq e
    next e =>
      have h := h.virtRead.of_eq e
      simp only [apply_ite Prod.fst]
      split
      · exact h
      · split
        next e => exact h.readShares.of_eq e
        next e =>
          have h := h.readShares.of_eq e
          simp only [apply_ite Prod.fst]
          split
          · exact h
          · split
            next e => exact h.pagePlain.of_eq e
            next e =>
              have h := h.pagePlain.of_eq e
              simp only [apply_ite Prod.fst]
              split
              · exact h
              · split <;> next e => exact h.signatureOk.of_eq e

theorem State.memOk.validateMap {s : State} {n} (h : s.memOk) : (s.validateMap n).memOk := by
  unfold State.validateMap
  dsimp only
  split
  next e => exact (h.readObject.of_eq e).completeLaunch
  next e =>
    have h := h.readObject.of_eq e
    split
    · exact h.completeLaunch
    · split
      · exact h.modLaunch.completeLaunch
      · exact h.modLaunch

theorem State.memOk.makePack {s : State} {n} (h : s.memOk) : (s.makePack n).memOk := .modLaunch (.update h)

theorem State.memOk.advanceLaunch {s : State} {n} (h : s.memOk) : (s.advanceLaunch n).memOk :=
  .ite (.makePack (.ite h.validateMap h)) (.ite h.validateMap h)

theorem State.memOk.advanceLaunches {s : State} (h : s.memOk) : s.advanceLaunches.memOk :=
  h.foldl fun h => .ite h h.advanceLaunch

theorem State.memOk.needPart {s : State} {asid p} (h : s.memOk) : (s.needPart asid p).1.memOk := by
  unfold State.needPart
  split
  · exact h
  · exact .update h

theorem State.memOk.startTeam {s : State} {plan} (h : s.memOk) : (s.startTeam plan).memOk :=
  .modTeam (.update h.needPart)

theorem State.memOk.zeroShares {s : State} {l} (h : s.memOk) : (s.zeroShares l).memOk :=
  .ite h ((h.foldl fun h => h.virtWrite).foldl fun h => h.virtWrite)

theorem State.memOk.commitPack {s : State} {pack origin plans} (h : s.memOk) : (s.commitPack pack origin plans).memOk :=
  .foldl (.modPack (.ite h.zeroShares.modLaunch h)) fun h => h.startTeam

theorem execTeamPlaced_memOk {s : State} {pack origin} (h : s.memOk) : OutMemOk (execTeamPlaced pack origin s) := by
  unfold execTeamPlaced
  refine .next ?_
  split
  · exact h
  · dsimp only
    exact .ite h h.commitPack

theorem State.memOk.enterCommit {s : State} {t} (h : s.memOk) : (s.enterCommit t).memOk := by
  unfold State.enterCommit
  split
  next e => exact (h.checkAll.of_eq e).modTeam
  next e => exact (h.checkAll.of_eq e).killTeam

theorem execTeamPublish_memOk {s : State} {team} (h : s.memOk) : OutMemOk (execTeamPublish team s) := by
  unfold execTeamPublish
  refine .next ?_
  split
  · exact h
  · dsimp only
    exact .ite h.drainTeam.cleanTeam h.drainTeam.cleanTeam.publishCells.modTeam.launchCheck

theorem State.memOk.acceptLaunch {s : State} {l qid type index} (h : s.memOk) :
    (s.acceptLaunch l qid type index).memOk := .update h.journal

theorem execNlaunch_memOk {s : State} {a} (h : s.memOk) : OutMemOk (execNlaunch a s) := by
  unfold execNlaunch
  refine h.word fun h => h.uniWord fun h => ?_
  dsimp only
  exact .ite (h.uniNow fun h => h) (h.fenceNow.readBlock.uniNow fun h => .ite h.trapIssued h.acceptLaunch.advanceAll)

/-! ### Contexts, whistles, saves and restores -/

theorem State.memOk.createContext {s : State} {pa} (h : s.memOk) : (s.createContext pa).1.memOk := by
  unfold State.createContext
  dsimp only
  simp only [apply_ite Prod.fst]
  exact .ite h.physRead (.ite h.physRead (.update h.physRead))

theorem State.memOk.dropHandlers {s : State} {pid} (h : s.memOk) : (s.dropHandlers pid).memOk := h

theorem State.memOk.destroyContext {s : State} {asid index} (h : s.memOk) : (s.destroyContext asid index).memOk :=
  .journal (.modCtx (.withdraw (.update (((h.foldl fun h => .ite h.abortLaunch h).foldl fun h => .update
      h.journal.statusQueue).foldl fun h => .ite h.dropHandlers h))))

theorem State.memOk.setParts {s : State} {ps st} (h : s.memOk) : (s.setParts ps st).memOk := h.foldl fun h => h.modPart

theorem State.memOk.settlePart {s : State} {pid} (h : s.memOk) : (s.settlePart pid).memOk :=
  .ite h.setParts (.ite h.dropHandlers.modPart h)

theorem State.memOk.saveBytes {s : State} {asid va n} (h : s.memOk) : (s.saveBytes asid va n).1.memOk := by
  induction n generalizing s va with
  | zero => exact h
  | succ n ih =>
    unfold State.saveBytes
    split
    · exact h
    · split
      next e => exact h.xlate.of_eq e
      next e => exact h.xlate.of_eq e
      next e =>
        have h := h.xlate.of_eq e
        exact .ite_fst h (ih (.ite h.physWrite h))

theorem State.memOk.faultPart {s : State} {pid cause} (h : s.memOk) : (s.faultPart pid cause).memOk :=
  h.modPart.dropHandlers.foldl fun h => h.killPack fun h => h.foldl fun h => h.containmentRecord

theorem State.memOk.storeImage {s : State} {pid image} (h : s.memOk) : (s.storeImage pid image).memOk := by
  -- Unfolded as a function: to compare `s.storeImage pid image` with its body the kernel would evaluate `saveBytes`.
  generalize e : State.storeImage = f
  delta State.storeImage at e
  subst e
  beta_reduce
  extract_lets
  split
  next e => exact (h.saveBytes.of_eq e).faultPart
  next e => exact (h.saveBytes.of_eq e).modPart

theorem State.memOk.storeImages {s : State} {ps} (h : s.memOk) : (s.storeImages ps).memOk := by
  unfold State.storeImages
  refine h.foldl fun h => ?_
  split
  · exact h.storeImage
  · exact h

theorem State.memOk.raiseWhistle {s : State} {part} (h : s.memOk) : (s.raiseWhistle part).memOk := by
  unfold State.raiseWhistle
  dsimp only
  exact .ite (h.foldl fun h => h.modPart).settlePart h

theorem execWhistleRaise_memOk {s : State} {asid part} (h : s.memOk) : OutMemOk (execWhistleRaise asid part s) := by
  unfold execWhistleRaise
  exact .next (.ite h.raiseWhistle h)

theorem State.memOk.stopBundle {s : State} {b} (h : s.memOk) : (s.stopBundle b).memOk :=
  .modBundle (.update (h.foldl fun h => h.abandonWord).drainLanes)

theorem State.memOk.hintEntry {s : State} {b h} (hs : s.memOk) : (s.hintEntry b h).1.memOk := by
  unfold State.hintEntry
  dsimp only
  split
  · exact hs
  · split <;> exact hs.virtLook.virtLook

theorem State.memOk.spillYields {s : State} {b} (h : s.memOk) : (s.spillYields b).1.memOk := by
  unfold State.spillYields
  refine .foldl_fst h fun h => ?_
  split
  next e => exact h.hintEntry.of_eq e
  next e =>
    have h := h.hintEntry.of_eq e
    dsimp only
    split
    next e => exact (h.spillTo.of_eq e).beginFill
    next e => exact h.spillTo.of_eq e

theorem State.memOk.saveYielded {s : State} {b l h} (hs : s.memOk) : (s.saveYielded b l h).1.memOk := by
  unfold State.saveYielded
  dsimp only
  split
  next e => exact hs.modThread.hintEntry.of_eq e
  next e =>
    have hs := hs.modThread.hintEntry.of_eq e
    split
    next e => exact (hs.spillTo.of_eq e).modThread
    · exact hs

theorem State.memOk.saveHints {s : State} {b} (h : s.memOk) : (s.saveHints b).memOk :=
  .ite (.modBundle (.foldl_fst h fun h => h.saveYielded)) (.foldl_fst h fun h => h.saveYielded)

theorem State.memOk.emptyStash {s : State} {t} (h : s.memOk) : (s.emptyStash t).memOk := h.cleanTeam.modTeam

theorem State.memOk.packEngines {s : State} {pid} (h : s.memOk) : (s.packEngines pid).memOk := .update h.modPart

theorem State.memOk.savePart {s : State} {pid} (h : s.memOk) : (s.savePart pid).memOk :=
  .foldl (.packEngines (.foldl (.foldl (.update h) fun h => h.saveHints) fun h => h.emptyStash)) fun h => h.modBundle

theorem State.memOk.placeImages {s : State} {ps} (h : s.memOk) : (s.placeImages ps).memOk :=
  .ite (h.foldl fun h => h.modPart) (h.foldl fun h => h.modPart).storeImages

theorem execContextSaveDone_memOk {s : State} {asid part} (h : s.memOk) : OutMemOk (execContextSaveDone asid part s) := by
  unfold execContextSaveDone
  refine .next ?_
  dsimp only
  exact .ite (.ite (.placeImages (.foldl (.foldl_fst (.fst (h.foldl fun h => h.stopBundle)) fun h => h.spillYields)
      fun h => h.savePart)) (.foldl_fst (.fst (h.foldl fun h => h.stopBundle)) fun h => h.spillYields)) h

theorem State.memOk.unpackEngines {s : State} {pid} (h : s.memOk) : (s.unpackEngines pid).memOk :=
  .update h.modCtx.modPart

theorem State.memOk.refreshWatch {s : State} {asid place} (h : s.memOk) : (s.refreshWatch asid place).memOk := h.modCtx

theorem State.memOk.restorePart {s : State} {pid} (h : s.memOk) : (s.restorePart pid).memOk :=
  .refreshWatch (.modPart (.unpackEngines (.foldl (.foldl (.update h) fun h => h.modTeam) fun h => h.modPack)))

/-! ### Queues and the management words of Shepherd -/

theorem State.memOk.service {s : State} (h : s.memOk) : s.service.memOk := .ite h.serviceQueues h

theorem State.memOk.sigAtom {s : State} {va tg} (h : s.memOk) : (s.sigAtom va tg).memOk := by
  unfold State.sigAtom
  dsimp only
  split
  · exact h.memStore.outsideRead.inject.outsideWrite.noteStore
  · exact h.takeExclusive.stashAtom fun h => h.inject
  · exact h.stashAtom fun h => h.inject
  · exact h.recallRemote.inject
  · exact h

theorem execSigw_memOk {s : State} {a} (h : s.memOk) : OutMemOk (execSigw a s) := by
  unfold execSigw
  refine h.word fun h => h.uniWord fun h => ?_
  dsimp only
  split
  next e => exact (h.locateAs.of_eq e).trapIssued
  next e => exact (h.locateAs.of_eq e).linkLost
  next e => exact (h.locateAs.of_eq e).startFill.waitWord
  next e => exact (h.locateAs.of_eq e).fenceNow.sigAtom.service.advanceAll

theorem State.memOk.fenceQueue {s : State} {q reason} (h : s.memOk) : (s.fenceQueue q reason).memOk :=
  .update h.journal.publishQueue.modQueue

theorem State.memOk.queueRead {s : State} {asid va} (h : s.memOk) : (s.queueRead asid va).1.memOk := h.virtLook

theorem State.memOk.acceptPacket {s : State} {q type kind hdr} (h : s.memOk) :
    (s.acceptPacket q type kind hdr).memOk := by
  unfold State.acceptPacket
  dsimp only
  split
  · refine .physWrite (.modQueue ?_)
    split
    · exact h
    · exact h.journal
  · refine .modQueue ?_
    split
    · exact h
    · exact h.journal

theorem State.memOk.lastDone {s : State} {qid index done} (h : s.memOk) : (s.lastDone qid index done).memOk :=
  h.modPacket

theorem State.memOk.takeLaunch {s : State} {q v} (h : s.memOk) : (s.takeLaunch q v).memOk := by
  unfold State.takeLaunch
  dsimp only
  split
  · exact h.fenceQueue
  · split
    · exact h.fenceQueue
    · split
      next e => exact (h.queueRead.of_eq e).fenceQueue
      next e =>
        have h := h.queueRead.of_eq e
        exact .ite h.fenceQueue h.physRead.acceptLaunch.acceptPacket

theorem State.memOk.takeBarrier {s : State} {q type v} (h : s.memOk) : (s.takeBarrier q type v).memOk :=
  .ite h.fenceQueue (.ite h.fenceQueue h.acceptPacket.lastDone)

theorem State.memOk.takeSignal {s : State} {q v} (h : s.memOk) : (s.takeSignal q v).memOk :=
  .ite h.fenceQueue (.ite h.fenceQueue h.acceptPacket)

theorem State.memOk.takeNop {s : State} {q v} (h : s.memOk) : (s.takeNop q v).memOk := .ite h.fenceQueue h.acceptPacket

theorem State.memOk.nextSlot {s : State} {q} (h : s.memOk) : (s.nextSlot q).1.memOk := by
  unfold State.nextSlot
  split
  · exact h
  · split
    next e => exact (h.queueRead.of_eq e).fenceQueue
    next e =>
      have h := h.queueRead.of_eq e
      exact .ite_fst h h

theorem State.memOk.takeSlot {s : State} {q v} (h : s.memOk) : (s.takeSlot q v).memOk :=
  .ite h.fenceQueue (.ite h.takeLaunch (.ite h.takeSignal (.ite h.takeNop h.takeBarrier)))

theorem State.memOk.acceptSlots {s : State} {qid n} (h : s.memOk) : (s.acceptSlots qid n).memOk := by
  induction n generalizing s with
  | zero => exact h
  | succ n ih =>
    unfold State.acceptSlots
    split
    · exact h
    · split
      next e => exact h.nextSlot.of_eq e
      next e => exact ih (h.nextSlot.of_eq e).takeSlot.service

theorem State.memOk.ringDoorbell {s : State} {qid} (h : s.memOk) : (s.ringDoorbell qid).memOk := h.modQueue.service

theorem execKickService_memOk {s : State} {qid} (h : s.memOk) : OutMemOk (execKickService qid s) := by
  unfold execKickService
  refine .next ?_
  split
  · exact .ite h.modQueue.acceptSlots h
  · exact h

theorem State.memOk.acceptOf {s : State} {qid type} (h : s.memOk) : (s.acceptOf qid type).memOk := by
  unfold State.acceptOf
  split
  · exact h
  · split
    next e =>
      have h := h.nextSlot.of_eq e
      exact .ite h.takeSlot.service h
    next e => exact h.nextSlot.of_eq e

theorem State.memOk.mgmtHead {s : State} (h : s.memOk) : s.mgmtHead.1.memOk := by
  unfold State.mgmtHead
  simp only [apply_ite Prod.fst]
  exact .ite h (.ite h.physRead.physRead.physRead.physRead h.physRead.physRead.physRead.physRead.physRead)

theorem State.memOk.mgmtDone {s : State} {addr done result} (h : s.memOk) : (s.mgmtDone addr done result).memOk :=
  h.physWrite.signalDown.service

theorem State.memOk.mgmt {s : State} {op f} (h : s.memOk) (hf : ∀ {s' x}, s'.memOk → (f s' x).1.memOk) :
    (s.mgmt op f).memOk := by
  unfold State.mgmt
  split
  next e => exact h.mgmtHead.of_eq e
  next e =>
    have h := h.mgmtHead.of_eq e
    dsimp only
    split
    · exact h
    · split
      · exact .mgmtDone (.ite_fst (.fst h.journal.physWrite) (hf h.journal.physWrite))
      · simp only [apply_ite Prod.fst]
        exact .ite h.journal.physWrite (hf h.journal.physWrite)

theorem execCreateContext_memOk {s : State} (h : s.memOk) : OutMemOk (execCreateContext s) := by
  unfold execCreateContext
  refine .next (h.mgmt fun h => ?_)
  split
  next e => exact (h.createContext.of_eq e).journal
  next e => exact h.createContext.of_eq e

theorem execCreateQueue_memOk {s : State} (h : s.memOk) : OutMemOk (execCreateQueue s) := by
  refine .next (h.mgmt fun h => ?_)
  split
  next e =>
    have h := h.physRead.of_eq e
    refine .ite_fst h ?_
    split
    · exact h
    · exact .update h.journal.physWrite.publishQueue

theorem State.memOk.moveQueue {s : State} {e ok op st publish f} (h : s.memOk) :
    (s.moveQueue e ok op st publish f).1.memOk := by
  unfold State.moveQueue
  dsimp only
  split
  · exact h
  · simp only [apply_ite Prod.fst]
    exact .ite h (.modQueue (.ite h.journal.publishQueue h.journal.statusQueue))

theorem State.memOk.dropPacks {s : State} {n} (h : s.memOk) : (s.dropPacks n).memOk :=
  (h.foldl fun h => h.foldl fun h => h.modTeam).modLaunch

theorem State.memOk.destroyLaunch {s : State} {n abort} (h : s.memOk) : (s.destroyLaunch n abort).memOk :=
  .ite h.abortLaunch (.ite (.ite h.dropPacks.launchCheck h) (.ite h h.dropPacks.completeLaunch))

theorem State.memOk.destroyPacket {s : State} {q p abort} (h : s.memOk) : (s.destroyPacket q p abort).memOk := by
  unfold State.destroyPacket
  split
  · exact h
  · split
    · exact h.destroyLaunch
    · exact h.endPacket.signalDown
    · exact h.endPacket
    · exact h.endPacket

theorem execDestroyQueue_memOk {s : State} (h : s.memOk) : OutMemOk (execDestroyQueue s) := by
  unfold execDestroyQueue
  refine .next (h.mgmt fun h => ?_)
  dsimp only
  split
  next e =>
    have h := h.moveQueue.of_eq e
    refine .queueDrained ?_
    split
    · refine h.foldl fun h => ?_
      split
      · exact h.destroyPacket
      · exact h
    · exact h
  · exact h.moveQueue

theorem execRoleExchange_memOk {s : State} (h : s.memOk) : OutMemOk (execRoleExchange s) := by
  unfold execRoleExchange
  refine .next ?_
  split
  · exact h
  · split
    · exact h
    · dsimp only
      exact .ite (.mgmtDone (.journal (.update h))) (.mgmtDone (.update h))

theorem execShepherdTakeover_memOk {s : State} (h : s.memOk) : OutMemOk (execShepherdTakeover s) := by
  unfold execShepherdTakeover
  refine .next ?_
  split
  · exact h
  · split
    · exact .service (.foldl (.journal (.update h)) fun h => h.writeCompletion)
    · dsimp only
      split
      · exact .ite (.update (.mgmtDone (.update h))) (.update (.mgmtDone (.update h)))
      · exact .ite (.update h) (.update h)

/-! ### Boot, attestation, debug halt -/

theorem State.memOk.runBoot {s : State} (h : s.memOk) : s.runBoot.memOk :=
  .ite (.foldl (.update h) fun h => .ite h.enableLink h) (.update h)

theorem State.memOk.recoverBundle {s : State} (h : s.memOk) : s.recoverBundle.memOk := .ite (.runBoot (.update h)) h

theorem State.memOk.stage6 {s : State} (h : s.memOk) : s.stage6.memOk := .ite (.update h) h

theorem execAttest_memOk {s : State} (h : s.memOk) : OutMemOk (execAttest s) := by
  unfold execAttest
  dsimp only
  exact .next (.ite h (.update h.physRead.physRead.physWrite.physWrite))

theorem State.memOk.halt {s : State} (h : s.memOk) : s.halt.memOk := .ite h (.update h)

theorem State.memOk.unhalt {s : State} (h : s.memOk) : s.unhalt.memOk := h

/-! ### The level words -/

theorem State.memOk.levelValue {s : State} {dst f} (h : s.memOk) : (s.levelValue dst f).memOk := h.meetAll

theorem State.memOk.fallThrough {s : State} {b l k isBar} (h : s.memOk) : (s.fallThrough b l k isBar).memOk :=
  .ite h.modBundle.modThread.fenceThread h.modBundle.modThread

theorem State.memOk.levelLane {s : State} {isBar k target l} (h : s.memOk) : (s.levelLane isBar k target l).memOk :=
  .ite h.modThread (.ite h.fallThrough (.ite (.modThread (.ite h h.arriveLanes.modThread))
      (.ite (.fenceThread (.acquireThread (.modThread (.modBundle (.ite h h.arriveLanes.modThread)))))
      (.acquireThread (.modThread (.modBundle (.ite h h.arriveLanes.modThread)))))))

theorem State.memOk.levelEnd {s : State} {isBar k o} (h : s.memOk) : (s.levelEnd isBar k o).memOk :=
  .ite h.trapIssued (h.foldl fun h => h.levelLane).parkDrift.settleBar

/-! ### Ethernet ports, device windows, the PCIe port -/

theorem State.memOk.modRing {s : State} {port ring f} (h : s.memOk) : (s.modRing port ring f).memOk := h

theorem State.memOk.ethDoorbell {s : State} {port ring v} (h : s.memOk) : (s.ethDoorbell port ring v).memOk :=
  .ite h.modRing h

theorem State.memOk.ethComplete {s : State} {port cq index qpn status count imm} (h : s.memOk) :
    (s.ethComplete port cq index qpn status count imm).memOk := h.physWrite.modRing

theorem State.memOk.ethRead {s : State} {addr n} (h : s.memOk) : (s.ethRead addr n).memOk :=
  h.foldl fun h => h.outsideRead

theorem execEthCompletion_memOk {s : State} {port work status count imm} (h : s.memOk) :
    OutMemOk (execEthCompletion port work status count imm s) := by
  unfold execEthCompletion
  refine .next ?_
  dsimp only
  exact .ite h (.ite (h.physRead.ethRead.foldl fun h => h.outsideWrite).modRing.ethComplete
      (h.physRead.ethRead.foldl fun h => h.outsideWrite).modRing)

theorem execEthFrameReceive_memOk {s : State} {port work qpn frame imm} (h : s.memOk) :
    OutMemOk (execEthFrameReceive port work qpn frame imm s) := by
  unfold execEthFrameReceive
  refine .next ?_
  dsimp only
  exact .ite h (.ite h.physRead (h.physRead.foldl fun h => h.outsideWrite).modRing.ethComplete)

theorem State.memOk.writePort {s : State} {port o v} (h : s.memOk) : (s.writePort port o v).memOk :=
  .ite h.modRing (.ite h.ethDoorbell h)

theorem State.memOk.writeHost {s : State} {o v} (h : s.memOk) : (s.writeHost o v).memOk :=
  .ite (.stage6 (.update h)) (.ite (.stage6 (.update h))
      (.ite (.update h) (.ite (.update h) (.ite (.ite h.halt h.unhalt) (.ite (.update h) (.ite (.update h) h))))))

theorem State.memOk.writeIntc {s : State} {o v} (h : s.memOk) : (s.writeIntc o v).memOk := by
  unfold State.writeIntc
  split
  · exact .update h
  · split
    · dsimp only
      exact .ite h.resumeDeliver h.resumeReplay
    · split
      · dsimp only
        exact .ite h h.tlbRequest
      · exact .ite (.update h) h

theorem State.memOk.writeLink {s : State} {n v} (h : s.memOk) : (s.writeLink n v).memOk := by
  unfold State.writeLink
  split
  · exact h
  · extract_lets _ set reset retrained
    have hset : set.memOk := h.modLink
    have hreset : reset.memOk := .ite hset.resetLink hset
    have hretrained : retrained.memOk := .ite hreset.retrainLink hreset
    exact .ite hretrained.enableLink hretrained

theorem State.memOk.writeRegister {s : State} {o v} (h : s.memOk) : (s.writeRegister o v).memOk :=
  .ite h (.ite h.writeHost (.ite h.ringDoorbell (.ite h.writeIntc
      (.ite (.update h) (.ite h.writePort (.ite (.update h) (.ite h.writeLink h)))))))

theorem State.memOk.flushRegisters {s : State} (h : s.memOk) : s.flushRegisters.memOk :=
  .foldl (.update h) fun h => h.writeRegister

theorem State.memOk.pcieMemory {s : State} {store o size v} (h : s.memOk) : (s.pcieMemory store o size v).memOk :=
  .ite h.foreign h

theorem State.memOk.bar0 {s : State} {o size v} (h : s.memOk) : (s.bar0 o size v).memOk :=
  .recoverBundle (.ite h.writeHost h)

/-! ### Every instruction and event -/

theorem exec_memOk {s : State} {i} (h : s.memOk) : OutMemOk (exec i s) := by
  unfold exec
  cases i with
  | add | sub | mul | minmax => exact h.word fun h => .ite h.lane2 h.lane2
  | mulh | div | rem | bfx | fminmax | fdiv | lgmul => exact h.word fun h => h.lane2
  | mad => exact h.word fun h => .ite h.lane3 h.lane3
  | absneg | fabsneg => exact h.word fun h => .ite h.lane1 h.lane1
  | logic => exact h.word fun h => .ite h.lane1 h.lane2
  | shift | mov | li | fclass | cvt | lgdot | fscl | smxa | smxb | shfl => exact h.word fun h => h.laneWord
  | bits | lih | addi | frnd | sfu | sfd | tagset | tagget => exact h.word fun h => h.lane1
  | bfi | fma => exact h.word fun h => h.lane3
  | cmp => exact h.word fun h => h.laneMask
  | sel => exact h.word fun h => .update (.laneWord (.update h))
  | movs => exact h.word fun h => h.meetAll
  | fadd | fsub | fmul => exact h.word fun h => h.float2
  | ballot | elect => exact h.word fun h => h.writeM.meetAll
  | red | scan => exact h.word fun h => .laneWord (.ite h h.setEmpty)
  | lvidx | lvext | lvshare | lvcarry => exact h.word fun h => h.levelValue
  | lvred => exact h.word fun h => h.mapLanes.meetAll
  | lvbar | lvend => exact h.word fun h => h.levelEnd
  | lvlead | mlogic => exact h.word fun h => h.writeM.advanceAll
  | br | brw => exact h.word fun h => h.branchLanes
  | call => exact h.word fun h => h.mapLanes.takeTraps
  | jmp | callr => exact h.word fun h => h.jumpLanes
  | ret => exact execRet_memOk h
  | enter => exact execEnter_memOk h
  | exit => exact h.word fun h => h.exitLanes
  | yield => exact h.word fun h => .ite h.waitIssued h.advanceAll
  | nop => exact h.word fun h => h.advanceAll
  | mark => exact h.word fun h => h.sliceWord (fun h => h.stall) (fun h => h.markPlan) fun h => h.slicePut.contest
  | cut =>
    exact h.word fun h => h.sliceWord (fun h => h.waitWord) (fun h => h.cutPlan) fun h =>
        (h.slicePut.slicePut.foldl fun h => h.slicePut).reframe.modBundle
  | graft =>
    exact h.word fun h => h.sliceWord (fun h => h.waitWord) (fun h => h.graftPlan) fun h => h.slicePut.syncAtomic.contest
  | unmark => exact execUnmark_memOk h
  | slshare | slfree =>
    exact h.word fun h => h.sliceWord (fun h => h.waitWord) (fun h => h.ownPlan) fun h => h.syncAtomic.modThread
  | slinfo => exact h.word fun h => h.sliceWord (fun h => h.waitWord) (fun h => h.infoPlan) fun h => h.modBundle
  | ld8s | ld8z | ld16s | ld16z | ld32 | ld64 | ld128 => exact h.word fun h => h.laneLoad
  | st8 | st16 | st32 | st64 | st128 => exact h.word fun h => h.laneStore
  | atom | atomr => exact h.word fun h => h.laneAtomic
  | prefetch => exact execPrefetch_memOk h
  | await => exact h.word fun h => h.markRead.laneMem fun h => h.loadFrom
  | fence => exact h.word fun h => .ite (h.foldl fun h => h.acquireThread).advanceAll h.fenceIssued
  | xfence => exact h.word fun h => h.fenceIssued
  | prefixWord => exact h.word .update
  | uadd | usub | umul | uminmax => exact h.word fun h => .ite h.uni2 h.uni2
  | ulogic => exact h.word fun h => .ite h.uni1 h.uni2
  | ushift | ucmp | umov | uli | ulih | mpopc | mtos | mfirst => exact h.word fun h => h.uniWrites
  | ubits | uaddi => exact h.word fun h => h.uni1
  | stom => exact h.word fun h => h.uniWord fun h => h.writeM.advanceAll
  | ulane => exact h.word fun h => .ite h.trapIssued (.ite h.trapIssued h.writeS.advanceAll)
  | uld32 | uld64 => exact h.word fun h => h.uniLoad
  | ust32 | ust64 => exact h.word fun h => h.uniStore
  | rgrow => exact h.word fun h => .ite h.trapIssued (.ite h.growBundle.advanceAll (.update h.waitIssued))
  | rgrowTry => exact h.word fun h => .advanceAll (.writeS (.ite h.growBundle h))
  | rshrink => exact execRshrink_memOk h
  | cpy => exact execCpy_memOk h
  | mmpost => exact execMmpost_memOk h
  | mmfence => exact h.word fun h => .ite h.advanceAll h.waitWord
  | twait => exact h.word fun h => .ite h.waitIssued h.observe.advanceAll
  | coll => exact execColl_memOk h
  | stamp => exact h.word fun h => h.stampRing.advanceAll
  | smapRw | smapRo | smapScratch => exact h.word fun h => h.smap
  | sunmap => exact execSunmap_memOk h
  | sflush => exact h.word fun h => h.uniWord fun h => (h.foldl fun h => .ite h h.cleanRange).advanceAll
  | sinv => exact h.word fun h => h.uniWord fun h => .ite h.trapIssued h.modTeam.advanceAll
  | sstat | hlrd => exact h.word fun h => h.uniWord fun h => h.writeS.advanceAll
  | binit => exact h.word fun h => h.barWord fun h => .ite h.trapIssued h.modBar.advanceAll
  | barrive => exact h.word fun h => h.barWord fun h => .ite h.trapIssued h.arriveLanes.writeS.advanceAll.settleBar
  | bwait => exact h.word fun h => h.barWord fun h => h.waitLanes
  | bsync =>
    exact h.word fun h => h.barWord fun h => .ite h.trapIssued
        (h.arriveLanes.foldl fun h => h.modThread).waitLanes.settleBar
  | bpay => exact h.word fun h => h.barWord fun h => h.modBar.modBundle.advanceAll
  | hcfg => exact execHcfg_memOk h
  | href => exact h.word fun h => h.uniWord fun h => .ite h.refuseMonitor h.modMon.advanceAll
  | hrd => exact h.word fun h => h.uniWord fun h => .ite h.refuseMonitor h.writeS.advanceAll
  | harm =>
    exact h.word fun h => h.uniWord fun h => .ite h.refuseMonitor
        (.ite h.modMon.advanceAll (.ite h.advanceAll h.modMon.advanceAll))
  | hchk => exact execHchk_memOk h
  | vstat | srd => exact h.word fun h => h.writeS.advanceAll
  | nlaunch => exact execNlaunch_memOk h
  | sigw => exact execSigw_memOk h
  | trap | bkpt => exact h.word fun h => h.trapIssued
  | rett => exact execRett_memOk h
  | swr => exact h.word fun h => h.uniWord fun h => h.setSpecial.advanceAll
  | icinv => exact execIcinv_memOk h
  | icinvAll => exact h.word fun h => h.fenceNow.dropCode.advanceAll
  | tlbinvAll => exact h.word fun h => h.tlbinv
  | tlbinvAsid => exact h.word fun h => h.uniWord fun h => h.tlbinv
  | tlbinvVa => exact h.word fun h => h.uniWord fun h => .ite h.tlbinv h.trapIssued
  | hlwr => exact h.word fun h => h.uniWord fun h => h.hlEdit.writeS.advanceAll
  | fstatWrite => exact .next h.setFstat
  | bstatWrite => exact .next h.setBstat
  | tagmodeWrite => exact .next h.setTagmode
  | leashWrite => exact .next h.setLeash
  | streamcfgWrite => exact .next h.setStream
  | hentryWrite => exact .next h.setHentry
  | injectWrite => exact .next h.setInject
  | completionFlagClear => exact execCompletionFlagClear_memOk h
  | leashRotate => exact .next h.rotate
  | leashTurnEnd => exact .next h.endTurn
  | rgrowGrant => exact execRgrowGrant_memOk h
  | memoryAccessPerformed => exact execMemoryAccessPerformed_memOk h
  | awaitReread => exact .next h.awaitReread
  | stashFillArrives => exact execStashFillArrives_memOk h
  | stashRecall => exact execStashRecall_memOk h
  | stashWritebackAck => exact execStashWritebackAck_memOk h
  | stashWritebackTimeout => exact execStashWritebackTimeout_memOk h
  | uncorrectableError => exact execUncorrectableError_memOk h
  | engineCommandQueued => exact execEngineCommandQueued_memOk h
  | copyStart => exact execCopyStart_memOk h
  | copyDone => exact execCopyDone_memOk h
  | matrixTurn => exact execMatrixTurn_memOk h
  | matrixDone => exact execMatrixDone_memOk h
  | collectiveDone => exact execCollectiveDone_memOk h
  | teamPlaced => exact execTeamPlaced_memOk h
  | teamPublish => exact execTeamPublish_memOk h
  | teamKill => exact .next h.killTeam
  | pageWalkComplete => exact .next (.ite h h.walkFill)
  | pageFaultRecordPost => exact execPageFaultRecordPost_memOk h
  | resumeReplay => exact .next h.resumeReplay
  | resumeDeliver => exact .next h.resumeDeliver
  | tlbreqAll | tlbreqAsid | tlbreqVa => exact .next h.tlbRequest
  | handlerEventStart => exact execHandlerEventStart_memOk h
  | step => exact .next (.ite h.modBundle.queueEvent h)
  | whistleRaise => exact execWhistleRaise_memOk h
  | whistleDeadline => exact .next (.ite h.setParts h)
  | contextSaveDone => exact execContextSaveDone_memOk h
  | kennelEvict => exact .next (.ite h.storeImages h)
  | kennelStage | contextResume => exact .next (.ite (h.foldl fun h => h.modPart) h)
  | restoreDone => exact .next (.ite ((h.foldl fun h => h.restorePart).foldl fun h => .ite h.killTeam h) h)
  | doorbell => exact .next h.ringDoorbell
  | kickService => exact execKickService_memOk h
  | launch | barrierAnd | barrierOr | signal | nopPacket => exact .next h.acceptOf
  | signalRescan => exact .next h.service
  | createContext => exact execCreateContext_memOk h
  | destroyContext => exact .next (h.mgmt fun h => .ite_fst h h.destroyContext)
  | createQueue => exact execCreateQueue_memOk h
  | startQueue | suspendQueue => exact .next (h.mgmt fun h => h.moveQueue)
  | destroyQueue => exact execDestroyQueue_memOk h
  | grant => exact .next (h.mgmt fun h => .ite_fst h h.modCtx)
  | usage => exact .next (h.mgmt fun h => .ite_fst h (h.foldl fun h => h.physWrite.physWrite))
  | loadUpdate => exact .next (h.mgmt fun h => .ite_fst h (.update h))
  | roleExchange => exact execRoleExchange_memOk h
  | shepherdTakeover => exact execShepherdTakeover_memOk h
  | linkEnable => exact .next h.enableLink
  | linkReset => exact .next h.resetLink
  | linkRetrain => exact .next h.retrainLink
  | linkTrained => exact execLinkTrained_memOk h
  | trainingTimeout => exact .next (.ite h.modLink h)
  | laneFail => exact .next (.ite h (.ite h.fenceLink h.modLink))
  | flitRetry => exact execFlitRetry_memOk h
  | linkFence => exact .next h.fenceLink
  | remoteTimeout => exact .next (.ite h.failRequests.failCopies.failColls h)
  | remoteRequest => exact .next (.ite h (.ite (.ite h.foreign.reportAtomic h.foreign) (.ite h.windowStore h)))
  | ethDoorbell => exact .next h.ethDoorbell
  | ethCompletion => exact execEthCompletion_memOk h
  | ethFrameReceive => exact execEthFrameReceive_memOk h
  | boot => exact .next (.ite h h.runBoot)
  | fusereq | sitterExpiry | powerSample | thermalLimit | ethLinkChange => exact .next (.update h)
  | attest => exact execAttest_memOk h
  | debugHalt => exact .next h.halt
  | debugResume => exact .next h.unhalt
  | registerWrite => exact .next h.writeRegister
  | illegalOpcode => exact .next h.trapIssued
  | pcieHostAccess =>
    exact .next (.ite h.pcieMemory (.ite (.ite h.bar0 h) (.ite (.ite h.ringDoorbell h) (.ite h.pcieMemory h))))
  | systemCoreAccess => exact .next (.ite h (.ite h.foreign (.ite h.windowStore h)))

/-! ### The front end -/

theorem State.memOk.selectSet {s : State} {b} (h : s.memOk) : (s.selectSet b).memOk := .update h.endTurn

theorem State.memOk.takeBreakpoints {s : State} {uniform} (h : s.memOk) : (s.takeBreakpoints uniform).memOk := by
  unfold State.takeBreakpoints
  split
  · exact h
  · exact .update h.mapLanes

theorem State.memOk.unissue {s : State} (h : s.memOk) : s.unissue.memOk := .update h.mapLanes

theorem State.memOk.badClause {s : State} {x} (h : s.memOk) : (s.badClause x).memOk := .trapIssued (.update h)

theorem State.memOk.fetchFails {s : State} {x} (h : s.memOk) : (s.fetchFails x).memOk := by
  unfold State.fetchFails
  split
  · exact h.trapIssued
  · exact h.linkLost
  · exact h

theorem State.memOk.ready {s : State} {c w} (h : s.memOk) : (s.ready c w).MemOk := by
  unfold State.ready
  dsimp only
  split
  · exact h
  · exact h.badClause
  · exact h.trapIssued
  · exact h.trapIssued
  · exact .ite h.unissue.deliverStops h.update

theorem State.memOk.consider {s : State} {bad c w} (h : s.memOk) : (s.consider bad c w).MemOk := by
  refine .ite h.takeBreakpoints.update (.ite h.takeBreakpoints.badClause ?_)
  split
  · exact h.takeBreakpoints.ready
  · exact .ite h.takeBreakpoints.badClause (.ite h.takeBreakpoints.badClause h.takeBreakpoints.ready)

theorem State.memOk.frontPlain {s : State} {w} (h : s.memOk) : (s.frontPlain w).MemOk := by
  unfold State.frontPlain
  dsimp only
  split
  · exact .badClause (.update h)
  · split
    · exact State.memOk.consider (.update h)
    · split
      · exact .unissue (.update h)
      · exact State.memOk.consider (.update h)

theorem State.memOk.frontHeader {s : State} {h} (hs : s.memOk) : (s.frontHeader h).MemOk := by
  unfold State.frontHeader
  split
  · exact hs.badClause
  · split
    · exact hs.unissue
    · dsimp only
      split
      next e => exact (State.memOk.of_eq e (.fetch (.update hs.mapLanes))).consider
      next e => exact (State.memOk.of_eq e (.fetch (.update hs.mapLanes))).fetchFails

theorem State.memOk.frontNative {s : State} {w} (h : s.memOk) : (s.frontNative w).MemOk := by
  unfold State.frontNative
  split
  · exact h.consider
  · split
    · exact h.unissue
    · exact h.consider

theorem State.memOk.front {s : State} {b} (h : s.memOk) : (s.front b).MemOk := by
  unfold State.front
  dsimp only
  split
  · exact h.selectSet
  · split
    next e => exact (h.selectSet.fetch.of_eq e).frontPlain
    next e =>
      have h := h.selectSet.fetch.of_eq e
      split
      · exact h.frontHeader
      · exact h.frontNative
    next e => exact (h.selectSet.fetch.of_eq e).fetchFails

theorem State.memOk.frontSecond {s : State} (h : s.memOk) : s.frontSecond.MemOk := by
  refine .ite h.trapIssued ?_
  split
  next e =>
    have h := h.fetch.of_eq e
    refine .ite h.badClause ?_
    split
    · exact h.ready
    · exact .ite h.badClause h.ready
  next e => exact (h.fetch.of_eq e).fetchFails.deliverStops

theorem State.memOk.swapIn {s : State} {b} (h : s.memOk) : (s.swapIn b).memOk := by
  unfold State.swapIn
  dsimp only
  split
  · exact h
  · exact .ite h (.ite h.modBundle h.withdraw)

theorem State.memOk.afterIssue {s : State} {i others} (h : s.memOk) : (s.afterIssue i others).memOk := by
  unfold State.afterIssue
  split
  · exact h.unissue.deliverStops
  · split
    · exact h
    · refine .ite (.swapIn ?_) ?_ <;>
        exact .modBundle (.rotate (.modBundle (.ite h.deliverStops.mapLanes h.deliverStops.mapLanes.observe)))

theorem State.memOk.relatch {s : State} {b l i set args} (h : s.memOk) : (s.relatch b l i set args).memOk :=
  .mapLanes (.update h)

theorem State.memOk.afterAgain {s : State} (h : s.memOk) : s.afterAgain.memOk := h.deliverStops.mapLanes

/-! ### What a step does around an instruction -/

theorem State.memOk.passTime {s : State} (h : s.memOk) : s.passTime.memOk := h

theorem State.memOk.settleBundles {s : State} (h : s.memOk) : s.settleBundles.memOk := h

theorem State.memOk.settleTokens {s : State} (h : s.memOk) : s.settleTokens.memOk := h.foldl fun h => .ite h.wakeToken h

theorem State.memOk.settleTeam {s : State} {t} (h : s.memOk) : (s.settleTeam t).memOk :=
  .ite (.ite (.ite h.enterCommit h.modTeam) (.ite h h.modTeam)) (.ite h.enterCommit h)

theorem State.memOk.settleVersion {s : State} {t} (h : s.memOk) : (s.settleVersion t).memOk :=
  .ite h.drainTeam.cleanTeam.modTeam h

theorem State.memOk.agedLines {s : State} {t} (h : s.memOk) : (s.agedLines t).memOk := h.forLines fun h => h.writeBack

theorem State.memOk.overdueReads {s : State} {b} (h : s.memOk) : (s.overdueReads b).memOk :=
  .ite h (h.foldl fun h => .ite h.awaitReread h)

theorem State.memOk.deadlines {s : State} (h : s.memOk) : s.deadlines.memOk := by
  unfold State.deadlines
  exact (((h.foldl fun h => h.agedLines).foldl fun h => .ite h.raiseWhistle h).foldl fun h => h.overdueReads).failRequests

theorem State.memOk.showStore {s : State} {b l i} (h : s.memOk) : (s.showStore b l i).memOk := by
  unfold State.showStore
  split
  · exact .ite h.modThread h
  · exact h

theorem State.memOk.showStores {s : State} (h : s.memOk) : s.showStores.memOk :=
  h.foldl fun h => h.foldl fun h => h.foldl fun h => h.showStore

theorem State.memOk.translate {s : State} (h : s.memOk) : s.translate.memOk := h

theorem State.memOk.settleReports {s : State} {b} (h : s.memOk) : (s.settleReports b).memOk :=
  h.foldl fun h => (h.foldl fun h => h.modThread).takeTraps

theorem State.memOk.settle {s : State} (h : s.memOk) : s.settle.memOk :=
  (((((h.flushRegisters.foldl fun h => h.settleVersion).settleBundles.settleTokens.foldl fun h => h.settleReports).foldl
      fun h => h.readyPosting).foldl fun h => h.settleTeam).advanceLaunches.foldl fun h =>
      h.settlePart).deadlines.showStores.translate.settleBundles

theorem State.memOk.nextMove {s : State} (h : s.memOk) : s.nextMove.1.memOk := by
  unfold State.nextMove
  split <;> exact .update h

/-! ### One step -/

theorem issue_memOk {s : State} {b} (h : s.memOk) : OutMemOk (issue b s) := by
  unfold issue
  split
  · exact .next h
  · split
    next e => exact .next (h.front.of_done e)
    next e => exact .next (h.front.of_fails e).afterIssue
    next e =>
      have h := h.front.of_run e
      dsimp only
      split
      next e =>
        have h := exec_memOk h _ e
        split
        · split
          next e => exact .next (h.frontSecond.of_done e)
          next e => exact .next (h.frontSecond.of_fails e).afterIssue
          next e =>
            have h := h.frontSecond.of_run e
            split
            next e => exact .next (exec_memOk h _ e).afterIssue
            · exact exec_memOk h
        · exact .next h.afterIssue
      · exact exec_memOk h

theorem again_memOk {s : State} {b l} (h : s.memOk) : OutMemOk (again b l s) := by
  unfold again
  split
  · split
    · exact .next h
    · split
      next e => exact .next (.ite h (exec_memOk h.relatch _ e).afterAgain)
      · exact exec_memOk h.relatch
  · exact .next h

theorem act_memOk {s : State} {m} (h : s.memOk) : OutMemOk (act m s) := by
  unfold act
  split
  · exact issue_memOk h
  · exact again_memOk h
  · split
    · exact exec_memOk h
    · exact .next h

theorem step_memOk {s : State} (h : s.memOk) : OutMemOk (step s) := by
  unfold step
  split
  next e => exact .next (h.passTime.nextMove.of_eq e).settle
  next e =>
    have h := h.passTime.nextMove.of_eq e
    split
    next e => exact .next (act_memOk h _ e).settle
    · exact act_memOk h
end Sys2Proof.Machine

namespace Sys2Proof.Claims
open Sys2Proof.Machine

/-- Settles O56: a step is time passing, the next move and what follows it, and each of them keeps the form. -/
theorem memoryKept : Obligations.MemoryKept := fun _ t h e => step_memOk h t e

end Sys2Proof.Claims
end

section
/-! Instruction words (R28, R42, R45): the lemma of each row, put together, and what follows of words and their instructions. -/
namespace Sys2Proof.Laws
open Sys2Proof.Machine

/-- The row of the opcode map that the word of an instruction selects reads that instruction back, whichever instruction it is. -/
theorem decodeAt_encode (i : Instr) : Encoding.Statement i :=
  Instr.casesOn (motive := Encoding.Statement) i
    Encoding.add Encoding.sub Encoding.mul Encoding.mulh Encoding.mad Encoding.div Encoding.rem Encoding.minmax Encoding.absneg
    Encoding.logic Encoding.shift Encoding.bits Encoding.bfx Encoding.bfi Encoding.cmp Encoding.sel Encoding.mov Encoding.movs
    Encoding.li Encoding.lih Encoding.addi Encoding.fadd Encoding.fsub Encoding.fmul Encoding.fma Encoding.fminmax Encoding.fabsneg
    Encoding.fclass Encoding.frnd Encoding.cvt Encoding.fdiv Encoding.sfu Encoding.sfd Encoding.lgmul Encoding.lgdot Encoding.fscl
    Encoding.smxa Encoding.smxb Encoding.tagset Encoding.tagget Encoding.shfl Encoding.ballot Encoding.red Encoding.scan
    Encoding.elect Encoding.lvidx Encoding.lvext Encoding.lvred Encoding.lvbar Encoding.lvend Encoding.lvshare Encoding.lvcarry
    Encoding.lvlead Encoding.br Encoding.call Encoding.jmp Encoding.callr Encoding.ret Encoding.enter Encoding.exit Encoding.brw
    Encoding.yield Encoding.nop Encoding.mark Encoding.cut Encoding.graft Encoding.unmark Encoding.slshare Encoding.slfree
    Encoding.slinfo Encoding.ld8s Encoding.ld8z Encoding.ld16s Encoding.ld16z Encoding.ld32 Encoding.ld64 Encoding.ld128
    Encoding.st8 Encoding.st16 Encoding.st32 Encoding.st64 Encoding.st128 Encoding.atom Encoding.atomr Encoding.prefetch
    Encoding.await Encoding.fence Encoding.xfence Encoding.prefixWord Encoding.uadd Encoding.usub Encoding.umul Encoding.uminmax
    Encoding.ulogic Encoding.ushift Encoding.ubits Encoding.ucmp Encoding.umov Encoding.uli Encoding.ulih Encoding.uaddi
    Encoding.mlogic Encoding.mpopc Encoding.mtos Encoding.stom Encoding.mfirst Encoding.ulane Encoding.uld32 Encoding.uld64
    Encoding.ust32 Encoding.ust64 Encoding.rgrow Encoding.rgrowTry Encoding.rshrink Encoding.cpy Encoding.mmpost Encoding.mmfence
    Encoding.twait Encoding.coll Encoding.stamp Encoding.smapRw Encoding.smapRo Encoding.smapScratch Encoding.sunmap Encoding.sflush
    Encoding.sinv Encoding.sstat Encoding.binit Encoding.barrive Encoding.bwait Encoding.bsync Encoding.bpay Encoding.hcfg
    Encoding.href Encoding.hrd Encoding.harm Encoding.hchk Encoding.vstat Encoding.nlaunch Encoding.sigw Encoding.trap Encoding.bkpt
    Encoding.rett Encoding.srd Encoding.swr Encoding.icinv Encoding.icinvAll Encoding.tlbinvAll Encoding.tlbinvAsid
    Encoding.tlbinvVa Encoding.hlrd Encoding.hlwr Encoding.fstatWrite Encoding.bstatWrite Encoding.tagmodeWrite Encoding.leashWrite
    Encoding.streamcfgWrite Encoding.hentryWrite Encoding.injectWrite Encoding.completionFlagClear Encoding.leashRotate
    Encoding.leashTurnEnd Encoding.rgrowGrant Encoding.memoryAccessPerformed Encoding.awaitReread Encoding.stashFillArrives
    Encoding.stashRecall Encoding.stashWritebackAck Encoding.stashWritebackTimeout Encoding.uncorrectableError
    Encoding.engineCommandQueued Encoding.copyStart Encoding.copyDone Encoding.matrixTurn Encoding.matrixDone
    Encoding.collectiveDone Encoding.teamPlaced Encoding.teamPublish Encoding.teamKill Encoding.pageWalkComplete
    Encoding.pageFaultRecordPost Encoding.resumeReplay Encoding.resumeDeliver Encoding.tlbreqAll Encoding.tlbreqAsid
    Encoding.tlbreqVa Encoding.handlerEventStart Encoding.step Encoding.whistleRaise Encoding.whistleDeadline
    Encoding.contextSaveDone Encoding.kennelEvict Encoding.kennelStage Encoding.contextResume Encoding.restoreDone Encoding.doorbell
    Encoding.kickService Encoding.launch Encoding.barrierAnd Encoding.barrierOr Encoding.signal Encoding.nopPacket
    Encoding.signalRescan Encoding.createContext Encoding.destroyContext Encoding.createQueue Encoding.startQueue
    Encoding.suspendQueue Encoding.destroyQueue Encoding.grant Encoding.usage Encoding.loadUpdate Encoding.roleExchange
    Encoding.shepherdTakeover Encoding.linkEnable Encoding.linkReset Encoding.linkRetrain Encoding.linkTrained
    Encoding.trainingTimeout Encoding.laneFail Encoding.flitRetry Encoding.linkFence Encoding.remoteTimeout Encoding.remoteRequest
    Encoding.ethDoorbell Encoding.ethCompletion Encoding.ethFrameReceive Encoding.boot Encoding.fusereq Encoding.attest
    Encoding.debugHalt Encoding.debugResume Encoding.sitterExpiry Encoding.powerSample Encoding.thermalLimit Encoding.registerWrite
    Encoding.illegalOpcode Encoding.pcieHostAccess Encoding.systemCoreAccess Encoding.ethLinkChange
/-- A word holds exactly the instructions that `encode` gives a word. -/
theorem encode_isSome (i : Instr) : (encode i).isSome = i.encoded := by
  cases i <;> rfl

/-- The word of an instruction decodes to it. -/
theorem decode_of_encode {i : Instr} {w : Word} (h : encode i = some w) : decode w = .ok i := by
  simp [decode, decodeAt_encode i w h]

/-- The rows that no word encodes are the events of the device. -/
theorem wordInfo_event (i : Instr) : (wordInfo i).event = !i.encoded := by
  cases i <;> rfl

end Sys2Proof.Laws

namespace Sys2Proof.Claims
open Sys2Proof.Machine

/-- Settles O58: the row that a word selects reads back the instruction from which the word was made. -/
theorem decodeEncode : Obligations.DecodeEncode := by
  intro i hi
  obtain ⟨w, hw⟩ := Option.isSome_iff_exists.mp ((Laws.encode_isSome i).trans hi)
  exact ⟨w, hw, Laws.decode_of_encode hw⟩

/-- Settles O60: each instruction has the word that the spec writes for it, and words decode to their instructions. -/
theorem decodedWords : Obligations.DecodedWords := by
  intro x hx
  have h : encode x.2 = some x.1 := by
    revert x
    decide
  exact Laws.decode_of_encode h

/-- Settles O53, row by row. -/
theorem longLatencyWords : Obligations.LongLatencyWords := by
  intro i
  cases i <;> rfl

end Sys2Proof.Claims
end

section
/-! The encoding traps (R47 to R49): what every word does before its own effect, and the order of the causes of R48. -/
namespace Sys2Proof.Laws
open Sys2Proof.Machine

/-- The meaning of every word begins with the checks of R48 and the stall of R78. -/
theorem exec_eq_word (s : State) {i : Instr} (h : i.encoded = true) : ∃ f, exec i s = s.word i f := by
  cases i <;> cases h <;> constructor <;> apply Eq.refl

/-- A word that a cause of R48 applies to takes that trap. -/
theorem exec_wordTrap {s : State} {i : Instr} {c : BitVec 8} (hi : i.encoded = true) (h : s.wordTrap i = some c) :
    exec i s = .next (s.trapIssued (TrapInfo.of c)) := by
  obtain ⟨f, hf⟩ := exec_eq_word s hi
  rw [hf, State.word, h]

/-- Only `ulane` names a lane, which may be beyond W (R111). -/
theorem laneBeyond_eq_false {w : Nat} {i : Instr} (h : ∀ d a n, i = .ulane d a n → n.toNat < w) : laneBeyond w i = false := by
  unfold laneBeyond
  split
  next d a n => simpa using h d a n rfl
  · rfl

/-- A word that passes the checks of its own fields and of its fourth operand, and whose PREFIX, or the lack of one, is a defect (R33). -/
theorem wordTrap_badPrefix {s : State} {i : Instr} (hd : encDefect i = none) (hl : laneBeyond s.curB.w i = false)
    (hc : (wordInfo i).cEven = false) (hp : badPrefix (wordInfo i) (isPrefixWord i) s.cur.pfx = true) :
    s.wordTrap i = some causeBadPrefix := by
  simp [State.wordTrap, hd, hl, hc, hp]

/-- A privileged word that needs no PREFIX and has none, in a context that is not privileged (R317, R333). -/
theorem wordTrap_privileged {s : State} {i : Instr} (hd : encDefect i = none) (hl : laneBeyond s.curB.w i = false)
    (hc : (wordInfo i).c = false) (hp : badPrefix (wordInfo i) (isPrefixWord i) s.cur.pfx = false) (hi : privilegedWord i = true)
    (hs : s.curCtx.priv = false) : s.wordTrap i = some causePrivileged := by
  simp [State.wordTrap, hd, hl, hc, hp, hi, hs]

end Sys2Proof.Laws

namespace Sys2Proof.Claims
open Sys2Proof.Machine

/-- Settles O31: every word begins with its checks, and these stand in the order of R48. -/
theorem encodingTraps : Obligations.EncodingTraps := by
  refine ⟨?_, ?_, ?_, ?_, ?_, ?_, ?_, ?_⟩
  case refine_1 =>
    intro s i c he h
    exact Laws.exec_wordTrap (by simpa [Laws.wordInfo_event] using he) h
  case refine_2 =>
    intro s i h
    simp [State.wordTrap, h, causeReservedFn]
  case refine_3 =>
    intro s i h
    simp [State.wordTrap, h, causeMbzSet]
  case refine_4 =>
    intro s i h
    simp [State.wordTrap, h, causeBadRegister]
  case refine_5 =>
    intro s d a n hd hn
    simp [State.wordTrap, hd, laneBeyond, hn, causeReservedFn]
  case refine_6 =>
    intro s i hd hp hn hc
    have hu : ∀ d a n, i ≠ .ulane d a n := by
      rintro d a n rfl
      rcases hn with ⟨⟨⟩⟩ | ⟨⟨⟩⟩
    have hl := Laws.laneBeyond_eq_false (w := s.curB.w) fun d a n h => absurd h (hu d a n)
    exact Laws.wordTrap_badPrefix hd hl hc (by simpa [badPrefix, hp] using hn)
  case refine_7 =>
    intro s i hd hp hn hc hu
    obtain ⟨p, hp⟩ := Option.ne_none_iff_exists'.mp hp
    refine Laws.wordTrap_badPrefix hd (Laws.laneBeyond_eq_false hu) hc ?_
    rw [hp]
    rcases hn with h | h <;> simp [badPrefix, h]
  case refine_8 =>
    intro s i a b hi hd hp hs
    have hw : i.encoded = true ∧ privilegedWord i = true ∧ laneBeyond s.curB.w i = false ∧ (wordInfo i).c = false ∧
        badPrefix (wordInfo i) (isPrefixWord i) none = false := by
      simp only [List.mem_cons, List.not_mem_nil, or_false] at hi
      rcases hi with rfl | rfl | rfl | rfl | rfl <;> exact ⟨rfl, rfl, rfl, rfl, rfl⟩
    obtain ⟨he, hv, hl, hc, hb⟩ := hw
    exact Laws.exec_wordTrap he (Laws.wordTrap_privileged hd hl hc (by rw [hp, hb]) hv hs)

end Sys2Proof.Claims
end

section
/-! The trap of an issued set (R49, R349 to R353): every lane parks with the one cause, and the handler has one event. -/
namespace Sys2Proof.Laws
open Sys2Proof.Machine Sys2Proof.Claims

/-- The causes of R48, and HANDLER_USE: none of them is a page that is absent. -/
theorem wordTrap_ne_page {s : State} {i : Instr} {c : BitVec 8} (h : s.wordTrap i = some c) : c ≠ causePage := by
  rintro rfl
  simp only [State.wordTrap] at h
  split at h
  · cases h
  · cases h
  · cases h
  · repeat' split at h
    all_goals cases h

/-- The lanes of the issued set. -/
theorem mem_issued {s : State} {l : Nat} : l ∈ s.issued ↔ l < s.curB.threads.length ∧ s.cur.lanes.getLsbD l = true := by
  simp [State.issued, lanesIn]

/-- The lanes of the issued set, picked from all lanes that a set can hold. -/
theorem filter_issued (s : State) : (List.range 64).filter (· ∈ s.issued) = s.issued := by
  refine List.Perm.eq_of_pairwise' (r := (· < ·)) ?_ ?_ ?_
  · exact List.pairwise_lt_range.filter _
  · exact List.pairwise_lt_range.filter _
  · refine (List.perm_ext_iff_of_nodup (List.nodup_range.filter _) (List.nodup_range.filter _)).mpr fun l => ?_
    have hl : l ∈ s.issued → l < 64 := fun h => BitVec.lt_of_getLsbD (mem_issued.mp h).2
    rw [List.mem_filter, List.mem_range, decide_eq_true_eq, and_iff_right_of_imp hl]
    rfl

/-- One trap for all of a list of lanes, looked up by its lane. -/
theorem find_sameTrap (ls : List Nat) (i : TrapInfo) (l : Nat) :
    (ls.map (fun l => (l, i))).find? (fun t => t.1 == l) = if l ∈ ls then some (l, i) else none := by
  induction ls with
  | nil => rfl
  | cons k ls ih =>
    by_cases h : k = l
    · simp [h]
    · simp [h, ih, Ne.symm h]

/-- A trap of the whole issued set parks that set, in a handler bundle too (R353). -/
theorem trapSet_issued (s : State) (b : Nat) (i : TrapInfo) :
    s.trapSet b s.issued i (s.issued.map (fun l => (l, i))) = s.issued.map (fun l => (l, i)) := by
  unfold State.trapSet
  split
  · conv => rhs; rw [← filter_issued s, ← List.filterMap_eq_map, ← List.filterMap_eq_filter, List.filterMap_filterMap]
    apply List.filterMap_congr
    intro l _
    rw [find_sameTrap]
    by_cases h : l ∈ s.issued <;> simp [h, Option.guard]
  · rfl

/-- A thread that a trap without address and register parks (R349, R350). -/
theorem trap_of (s : State) (c : BitVec 8) (th : Thread) : th.trap (TrapInfo.of c) s.cur.trapPc = parkedBy s c th := by
  simp [Thread.trap, TrapInfo.record, TrapInfo.of, parkedBy, BitVec.ofNat_toNat]

/-- The threads of the bundle at issue, each changed by its lane: nothing else of that bundle changes. -/
theorem curB_mapLanes (s : State) (f : Nat → Thread → Thread) :
    (s.mapLanes f).curB = { s.curB with threads := s.curB.threads.mapIdx f } := by
  by_cases hb : s.cur.bundle < s.bundles.length
  · exact curB_modBundle s _ hb
  · rw [State.mapLanes, modBundle_absent s _ _ hb, curB_absent s hb]
    rfl

/-- A lane that is READY after lanes have parked was READY before. -/
theorem isReady_of_park {s : State} {p : Nat → Bool} {c : BitVec 8} {l : Nat}
    (h : ((s.mapLanes (fun l th => if p l then parkedBy s c th else th)).thread s.cur.bundle l).isReady = true) :
    (s.thread s.cur.bundle l).isReady = true := by
  change ((s.mapLanes _).curB.thread l).isReady = true at h
  change (s.curB.thread l).isReady = true
  rw [curB_mapLanes] at h
  simp only [Bundle.thread, List.getD_eq_getElem?_getD, List.getElem?_mapIdx] at h ⊢
  cases hl : s.curB.threads[l]? with
  | none => simpa [hl] using h
  | some th =>
    cases hp : p l with
    | false => simpa [hl, hp] using h
    | true => simp [hl, hp, parkedBy, Thread.isReady] at h

/-- Where no other lane parks with the issue, none does after lanes have parked. -/
theorem others_mapLanes_park {s : State} (h : s.others = []) (p : Nat → Bool) (c : BitVec 8) :
    (s.mapLanes (fun l th => if p l then parkedBy s c th else th)).others = [] := by
  unfold State.others at h ⊢
  obtain ⟨hs, hr⟩ := List.append_eq_nil_iff.mp h
  refine List.append_eq_nil_iff.mpr ⟨hs, ?_⟩
  rw [List.filter_eq_nil_iff] at hr ⊢
  exact fun r hm hready => hr r hm (isReady_of_park hready)

/-- The state after lanes have parked with their traps. -/
def parkTraps (s : State) (b : Nat) (pc : DWord) (ts : List (Nat × TrapInfo)) : State :=
  s.modBundle b (fun x => { x with threads := x.threads.mapIdx (fun l th => match ts.find? (fun t => t.1 == l) with
    | some t => th.trap t.2 pc
    | none => th) })

/-- Traps none of which waits for a page make one event (R350). -/
theorem takeTraps_noPage {s : State} {b : Nat} {pc : DWord} {set : List Nat} {t : Nat × TrapInfo} {ts : List (Nat × TrapInfo)}
    (hs : s.trapSet b set t.2 (t :: ts) = t :: ts) (hc : ∀ x ∈ t :: ts, x.2.cause ≠ causePage) :
    s.takeTraps b pc set (t :: ts) =
      (parkTraps s b pc (t :: ts)).noStops.deliverTrap b pc ((parkTraps s b pc (t :: ts)).eventLanes b (t :: ts)) := by
  have hp : (t :: ts).filter (fun x => x.2.cause == causePage) = [] := by
    simpa using hc
  have hn : (t :: ts).filter (fun x => x.2.cause != causePage) = t :: ts := by
    simpa using hc
  change (let ts' := s.trapSet b set t.2 (t :: ts)
    let u := (ts'.filter (fun x => x.2.cause == causePage)).foldl (fun s x => s.attachPage b x.1 x.2 pc) (parkTraps s b pc ts')
    let hs := ts'.filter (fun x => x.2.cause != causePage)
    if hs.isEmpty then u else u.noStops.deliverTrap b pc (u.eventLanes b hs)) = _
  simp only [hs, hp, hn]
  rfl

/-- The lanes of the issued set, parked with one cause. -/
def parkIssued (s : State) (c : BitVec 8) : State := s.mapLanes (fun l th => if s.cur.lanes.getLsbD l then parkedBy s c th else th)

/-- Traps of one cause for the whole issued set park that set. -/
theorem parkTraps_issued (s : State) (c : BitVec 8) :
    parkTraps s s.cur.bundle s.cur.trapPc (s.issued.map (fun l => (l, TrapInfo.of c))) = parkIssued s c := by
  refine modBundle_congr s _ _ _ (congrArg (fun ts => { s.curB with threads := ts }) ?_)
  refine List.mapIdx_eq_mapIdx_iff.mpr fun l hl => ?_
  rw [find_sameTrap]
  by_cases h : s.cur.lanes.getLsbD l = true
  · rw [if_pos (mem_issued.mpr ⟨hl, h⟩), if_pos h]
    exact trap_of s c _
  · rw [if_neg (fun hm => h (mem_issued.mp hm).2), if_neg h]

/-- A trap of the issued set parks it, and goes to the handler (R350). -/
theorem trapIssued_of {s : State} {c : BitVec 8} (hc : c ≠ causePage) (ho : s.others = []) (hi : s.issued ≠ []) :
    s.trapIssued (TrapInfo.of c) =
      (parkIssued s c).deliverTrap s.cur.bundle s.cur.trapPc (s.issued.map (fun l => (l, TrapInfo.of c))) := by
  have hp := parkTraps_issued s c
  have hs := trapSet_issued s s.cur.bundle (TrapInfo.of c)
  have ho' : (parkIssued s c).others = [] := others_mapLanes_park ho _ c
  obtain ⟨l, ls, hl⟩ := List.exists_cons_of_ne_nil hi
  unfold State.trapIssued
  rw [hl, List.map_cons] at hp hs ⊢
  rw [← hl] at hs ⊢
  rw [takeTraps_noPage hs (by simp [TrapInfo.of, hc]), hp]
  simp [State.noStops, State.eventLanes, ho']

/-- A trap of a team whose version is not kept has no effect but on its lanes (R314). -/
theorem killByTrap_unversioned {s : State} {x : Nat} (h : s.versioned x = false) (pc : DWord) (i : TrapInfo) :
    s.killByTrap x pc i = s := by
  simp [State.killByTrap, h]

/-- A handler bundle is one. -/
theorem handlerBundle_isSome {s : State} {pid core h : Nat} (e : s.handlerBundle pid core = some h) :
    (s.bundle h).handler.isSome = true := by
  have hf := List.find?_some e
  simp only [Bool.and_eq_true] at hf
  obtain ⟨⟨⟨-, hs⟩, -⟩, -⟩ := hf
  exact hs

/-- A trap that a handler takes, or of a team whose version is not kept, changes nothing but the queue of a handler bundle (R351, R353). -/
theorem deliverTrap_queues {s : State} {b : Nat}
    (hs : ((s.ctx (s.bundle b).asid).handler = true ∧ (s.bundle b).handler = none) ∨
      ∀ x, s.versioned x = false) (pc : DWord) (ts : List (Nat × TrapInfo)) :
    s.deliverTrap b pc ts = s ∨ ∃ (h : Nat) (g : Option Handler → Option Handler), h ≠ b ∧
      s.deliverTrap b pc ts = s.modBundle h (fun x => { x with handler := g x.handler }) := by
  simp only [State.deliverTrap]
  split
  next q hq =>
    left
    have hv : ∀ x, s.versioned x = false := by simpa [hq] using hs
    split
    · exact killByTrap_unversioned (hv _) _ _
    · rfl
  next hq =>
    by_cases hc : (s.ctx (s.bundle b).asid).handler = true
    · simp only [hc, if_true, State.queueEvent]
      split
      next h e =>
        refine .inr ⟨h, _, ?_, rfl⟩
        rintro rfl
        simpa [hq] using handlerBundle_isSome e
      · exact .inl rfl
    · left
      have hv : ∀ x, s.versioned x = false := by simpa [hc] using hs
      rw [if_neg hc]
      split
      · exact killByTrap_unversioned (hv _) _ _
      · rfl

end Sys2Proof.Laws

namespace Sys2Proof.Claims
open Sys2Proof.Machine

/-- The issued set parks with one cause, and nothing else changes but the queue of a handler bundle (R49). -/
structure SetParks (s t : State) (c : BitVec 8) : Prop where
  threads : t.curB.threads = s.curB.threads.mapIdx (fun l th => if s.cur.lanes.getLsbD l then parkedBy s c th else th)
  frame : { t.curB with threads := s.curB.threads } = s.curB
  rest : { t with bundles := s.bundles } = s
  others : ∀ b, b ≠ s.cur.bundle → { t.bundle b with handler := (s.bundle b).handler } = s.bundle b

/-- The issued set parked. -/
theorem setParks_parkIssued (s : State) (c : BitVec 8) : SetParks s (Laws.parkIssued s c) c := by
  have hc : (Laws.parkIssued s c).curB = _ := Laws.curB_mapLanes s _
  refine ⟨by rw [hc], by rw [hc], rfl, fun b hb => ?_⟩
  rw [Laws.parkIssued, State.mapLanes, Laws.bundle_modBundle_ne s _ _ _ hb]

/-- A handler bundle's queue changes beside. -/
theorem SetParks.queue {s t : State} {c : BitVec 8} (h : SetParks s t c) {k : Nat} (hk : k ≠ t.cur.bundle)
    (g : Option Handler → Option Handler) : SetParks s (t.modBundle k (fun x => { x with handler := g x.handler })) c := by
  have hc : (t.modBundle k (fun x => { x with handler := g x.handler })).curB = t.curB :=
    Laws.bundle_modBundle_ne t k _ _ hk.symm
  refine ⟨by rw [hc, h.threads], by rw [hc, h.frame], h.rest, fun b hne => ?_⟩
  by_cases hbk : b = k
  · subst hbk
    rw [Laws.bundle_modBundle]
    split <;> exact h.others b hne
  · rw [Laws.bundle_modBundle_ne t k b _ hbk]
    exact h.others b hne

/-- An issue without lanes parks none. -/
theorem setParks_self {s : State} {c : BitVec 8} (h : s.issued = []) : SetParks s s c := by
  refine ⟨?_, rfl, rfl, fun _ _ => rfl⟩
  refine Eq.symm (List.ext_getElem (by simp) fun l h1 h2 => ?_)
  have hl : ¬ s.cur.lanes.getLsbD l = true := fun hl => by
    simpa [h] using Laws.mem_issued.mpr ⟨h2, hl⟩
  rw [List.getElem_mapIdx, if_neg hl]

/-- THE TRAP OF THE ISSUED SET, where a handler takes it or no team keeps versions. -/
theorem setParks_trapIssued {s : State} {c : BitVec 8} (hc : c ≠ causePage) (ho : s.others = [])
    (hs : (s.curCtx.handler = true ∧ s.curB.handler = none) ∨ ∀ x, s.versioned x = false) :
    SetParks s (s.trapIssued (TrapInfo.of c)) c := by
  by_cases hi : s.issued = []
  · simpa [State.trapIssued, hi] using setParks_self hi
  · rw [Laws.trapIssued_of hc ho hi]
    have hb : (Laws.parkIssued s c).bundle s.cur.bundle = _ := Laws.curB_mapLanes s _
    have hp := setParks_parkIssued s c
    rcases Laws.deliverTrap_queues (s := Laws.parkIssued s c) (b := s.cur.bundle) (by rw [hb]; exact hs) s.cur.trapPc
      (s.issued.map (fun l => (l, TrapInfo.of c))) with e | ⟨k, g, hk, e⟩
    · rw [e]
      exact hp
    · rw [e]
      exact hp.queue hk g

/-- Settles O52: the encoding traps park the issued set by the one rule of traps of a whole set. -/
theorem encodingTrapsPark : Obligations.EncodingTrapsPark := by
  intro s i c hi hc ho hs
  obtain ⟨hthreads, hframe, hrest, hothers⟩ := setParks_trapIssued (Laws.wordTrap_ne_page hc) ho hs
  exact ⟨_, Laws.exec_wordTrap hi hc, hthreads, hframe, hrest, hothers⟩

end Sys2Proof.Claims
end

section
/-! The step of a bundle (R31, R34, R35, R40, R89): from the agenda through the front end to the word that executes. -/
namespace Sys2Proof.Laws
open Sys2Proof.Machine

/-- A step of a bundle that the agenda names (R89). -/
theorem step_issue {s p t : State} {b : Nat} {rest : List Move} (ha : s.agenda = .issue b :: rest)
    (hp : p = { s.passTime with agenda := rest }) (hi : issue b p = .next t) : step s = .next t.settle := by
  have hn : s.passTime.nextMove = (p, some (.issue b)) := by
    have ha' : s.passTime.agenda = .issue b :: rest := ha
    simp only [State.nextMove, ha', hp]
  simp only [step, hn, act, hi]

/-- A word alone executes, and then comes what follows an issue (R31, R89). -/
theorem issue_word {p v u : State} {b : Nat} {i : Instr} (hm : p.mayIssue b = true) (hf : p.front b = .run i v)
    (hi : isPrefixWord i = false) (he : exec i v = .next u) : issue b p = .next (u.afterIssue (some i) v.othersReady) := by
  simp [issue, hm, hf, hi, he]

/-- A PREFIX and the word behind it issue as one (R31). -/
theorem issue_prefixed {p v u x y : State} {b : Nat} {i j : Instr} (hm : p.mayIssue b = true) (hf : p.front b = .run i v)
    (hi : isPrefixWord i = true) (he : exec i v = .next u) (hu : u.cur.pfx.isSome = true) (hs : u.frontSecond = .run j x)
    (hj : exec j x = .next y) : issue b p = .next (y.afterIssue (some j) v.othersReady) := by
  simp [issue, hm, hf, hi, he, hu, hs, hj]

/-- A word of a plain-form page at the PC of the set (R40). -/
theorem front_plain {p r : State} {b : Nat} {w : Word} (hl : (p.selectSet b).cur.lanes ≠ 0)
    (hf : (p.selectSet b).fetch b (p.selectSet b).cur.pc = (r, .word w true)) : p.front b = r.frontPlain w := by
  rw [State.front, if_neg (by simpa using hl), hf]

/-- A word of a native-form page, no header, at the PC of the set (R34). -/
theorem front_native {p r : State} {b : Nat} {w : Word} (hl : (p.selectSet b).cur.lanes ≠ 0)
    (hf : (p.selectSet b).fetch b (p.selectSet b).cur.pc = (r, .word w false)) (hh : headerOf w = none) :
    p.front b = r.frontNative w := by
  rw [State.front, if_neg (by simpa using hl), hf]
  simp only [hh]

/-- A plain-form word that does not follow native words (R40). -/
theorem frontPlain_consider {r v : State} {w : Word} (hv : v = { r with cur := { r.cur with plain := true } }) (hh : headerOf w = none)
    (hf : v.fallsInClause v.cur.pc = false) (hflags : v.curB.flags = 0) : r.frontPlain w = v.consider false none w := by
  subst hv
  simp [State.frontPlain, hh, hf, hflags]

/-- A word of a clause into which the whole set falls (R34). -/
theorem frontNative_consider {r : State} {w : Word} {c : Clause} (hc : r.clauseAt r.cur.bundle r.cur.pc = some c)
    (hf : ∀ l ∈ r.issued, (r.curB.thread l).fell = true) : r.frontNative w = r.consider false (some c) w := by
  have ha : r.issued.any (fun l => !(r.curB.thread l).fell) = false := by
    simpa using hf
  simp only [State.frontNative, hc, ha, Bool.false_and]
  rfl

/-- No breakpoint stops a lane (R364). -/
theorem takeBreakpoints_none {s : State} (h : s.bkptLanes = []) (uniform : Bool) : s.takeBreakpoints uniform = s := by
  simp [State.takeBreakpoints, h]

/-- A word outside clauses at which no lane stops. -/
theorem consider_plain {s : State} {w : Word} (hb : s.bkptLanes = []) (hl : s.cur.lanes ≠ 0) :
    s.consider false none w = s.ready none w := by
  simp only [State.consider, takeBreakpoints_none hb]
  rw [if_neg (by simpa using hl)]
  rfl

/-- A word of a clause without defects at which no lane stops (R39). -/
theorem consider_clause {s : State} {w : Word} {c : Clause} (hb : s.bkptLanes = []) (hl : s.cur.lanes ≠ 0) (hbad : c.h.bad = false)
    (hd : s.clauseDefect s.cur.bundle s.cur.pc c w = false) : s.consider false (some c) w = s.ready (some c) w := by
  simp only [State.consider, takeBreakpoints_none hb, hbad, hd, Bool.and_false]
  rw [if_neg (by simpa using hl)]
  rfl

/-- The completion flag that a word sets (R35): a long-latency word of a clause has one. -/
def flagAt (s : State) (i : Instr) (c : Option Clause) : Option Nat :=
  c.bind (fun c => if (wordInfo i).long then some (c.flagOf (s.longBefore s.cur.bundle s.cur.pc c)) else none)

/-- A word whose completion flag is clear and that no fence holds executes with that flag in the latch (R35, R152). -/
theorem ready_run {s : State} {c : Option Clause} {w : Word} {i : Instr} (hd : decode w = .ok i)
    (hf : ∀ n, flagAt s i c = some n → s.curB.flags.getLsbD n = false) (hh : s.fenceHolds i = false) :
    s.ready c w = .run i { s with cur := { s.cur with flag := flagAt s i c } } := by
  cases c with
  | none => simp [State.ready, flagAt, hd, hh]
  | some c =>
    by_cases hl : (wordInfo i).long = true
    · have hc := hf (c.flagOf (s.longBefore s.cur.bundle s.cur.pc c)) (by simp [flagAt, hl])
      simp [State.ready, flagAt, hd, hh, hl, hc]
    · simp [State.ready, flagAt, hd, hh, hl]

end Sys2Proof.Laws

namespace Sys2Proof.Claims
open Sys2Proof.Machine

/-- Settles O59: the front end answers the decoded instruction at the latch, and the step executes what it answers. -/
theorem stepRunsInstruction : Obligations.StepRunsInstruction := by
  refine ⟨?_, ?_, ?_⟩
  case refine_1 =>
    intro s p r v u b rest w i ha hp hm hl hf hd hi hv hflag hfall hh hflags hbk hlanes hfence he
    have hready := Laws.ready_run (c := none) hd (fun _ h => nomatch h) hfence
    have hfront : p.front b = .run i v := by
      rw [Laws.front_plain hl hf, Laws.frontPlain_consider hv hh hfall hflags, Laws.consider_plain hbk hlanes, hready, Laws.flagAt,
        Option.bind_none, ← hflag]
    exact Laws.step_issue ha hp (Laws.issue_word hm hfront hi he)
  case refine_2 =>
    intro s p r v u b rest w i c ha hp hm hl hf hd hi hh hc hfell hbk hlanes hbad hdef hv hflag hfence he
    have hfront : p.front b = .run i v := by
      rw [Laws.front_native hl hf hh, Laws.frontNative_consider hc hfell, Laws.consider_clause hbk hlanes hbad hdef]
      subst hv
      exact Laws.ready_run hd hflag hfence
    exact Laws.step_issue ha hp (Laws.issue_word hm hfront hi he)
  case refine_3 =>
    intro s p v u x y b rest i j ha hp hm hf hi he hu hs hj
    exact Laws.step_issue ha hp (Laws.issue_prefixed hm hf hi he hu hs hj)

end Sys2Proof.Claims
end

section
/-! Retirement (R85), and bundles at creation (R87). -/
namespace Sys2Proof.Laws
open Sys2Proof.Machine

/-- Retirement leaves no bundle due to retire: it takes each that is, and looks at nothing else that it changes. -/
theorem noneOver_settleBundles (s : State) : s.settleBundles.noneOver := by
  intro i
  change s.bundleOver i (s.settleBundles.bundle i) = false
  simp only [State.settleBundles, State.bundle, List.getD_eq_getElem?_getD, List.getElem?_mapIdx]
  cases s.bundles[i]? with
  | none => rfl
  | some b =>
    simp only [Option.map_some, Option.getD_some]
    split
    next h =>
      have hl : b.live = false := by simpa using h
      simp [State.bundleOver, hl]
    · split
      · rfl
      next h => simpa using h

/-- A step that goes on ends with what follows at once. -/
theorem step_settles {s t : State} (h : step s = .next t) : ∃ u : State, t = u.settle := by
  unfold step at h
  split at h
  next u _ => exact ⟨u, (Host.Outcome.next.inj h).symm⟩
  · split at h
    next u _ => exact ⟨u, (Host.Outcome.next.inj h).symm⟩
    next hn => exact absurd h (hn t)

/-- A mask register but m7 that is written, where the bundle has all of them (R87). -/
theorem getElem?_writeM {b : Bundle} {n : Nat} (hn : n < 7) (hm : b.m.length = 8) (v : BitVec 64) (k : Nat) :
    (b.writeM n v).m[k]? = if k = n then some v else b.m[k]? := by
  rw [Bundle.writeM, if_pos hn]
  change (b.m.set n v)[k]? = _
  by_cases h : k = n
  · subst h
    rw [List.getElem?_set_self (by omega), if_pos rfl]
  · rw [List.getElem?_set_ne (Ne.symm h), if_neg h]

/-- A write of a mask register changes nothing else of the bundle. -/
theorem writeM_frame (b : Bundle) (n : Nat) (v : BitVec 64) : { b.writeM n v with m := b.m } = b := by
  unfold Bundle.writeM
  split <;> rfl

end Sys2Proof.Laws

namespace Sys2Proof.Claims
open Sys2Proof.Machine

/-- Settles O57: a step ends with the retirement of every bundle that is due. -/
theorem retirementKept : Obligations.RetirementKept := by
  intro s t h
  obtain ⟨u, rfl⟩ := Laws.step_settles h
  exact Laws.noneOver_settleBundles _

/-- Settles O54. -/
theorem createdBundles : Obligations.CreatedBundles := by
  refine ⟨?_, fun b v => rfl, fun b n v hn hm => ?_⟩
  · rintro k x part q w p i t ts h _ rfl
    refine ⟨fun n hn => List.getElem?_replicate_of_lt hn, List.length_replicate, ?_, rfl, rfl, rfl, rfl, rfl⟩
    change ∀ n < 7, newMasks[n]? = some 0
    decide
  · have hk := Laws.getElem?_writeM hn hm v
    exact ⟨by rw [hk, if_pos rfl], fun k h => by rw [hk, if_neg h], Laws.writeM_frame b n v⟩

end Sys2Proof.Claims
end

section
/-! Mask words (R95, R107, R110, R125, R196) and uniform words (R110, R111, R145 to R147). -/
namespace Sys2Proof.Laws
open Sys2Proof.Machine Sys2Proof.Claims

/-- An instruction word that issues has its effect. -/
theorem exec_issues {s : State} {i : Instr} {f : State → State} (he : exec i s = s.word i f) (hi : s.issues i) : exec i s = .next (f s) :=
  he.trans (word_issues hi f)

/-- A word at issue whose step is known. -/
theorem exec_issues_eq {s t : State} {i : Instr} {f : State → State} (he : exec i s = s.word i f) (hi : s.issues i) (ht : f s = t) :
    exec i s = .next t := ht ▸ exec_issues he hi

/-- A word without operands passes every check of its lanes. -/
theorem lanesPass_nil (s : State) : s.lanesPass ⟨[], []⟩ := by
  intro l _ _
  simp [State.laneTrap, Thread.windowTrap, touchTrap, Thread.pendingDst, formatTrap, expandUses, LaneOp.dests]

/-- An active lane is one of the issued set (R94). -/
theorem issued_of_isActive {s : State} {l : Nat} (h : s.isActive l = true) : s.cur.lanes.getLsbD l = true := by
  unfold State.isActive State.activeMask at h
  split at h
  · split at h
    · rw [BitVec.getLsbD_and, Bool.and_eq_true] at h
      exact h.1
    · exact h
  · exact h

/-- The bit of one lane. -/
theorem getLsbD_laneBit {l k : Nat} (hk : k < 64) : (laneBit l).getLsbD k = decide (k = l) := by
  simp only [laneBit, BitVec.getLsbD_shiftLeft, BitVec.getLsbD_one, hk]
  by_cases h : k = l
  · simp [h]
  · simp [h]
    omega

/-- A mask that a word writes beside its lanes, which pass it and write no register. -/
theorem laneVote_done {s : State} {o : LaneOp} (h : s.lanesPass o) (ho : o.dst = []) (m : Nat) (v : BitVec 64) :
    MaskStep s ((s.writeM m v).meetAll false [] [] (s.laneFate o (fun _ => .done [] 0))) m v (s.maskThreads (fun _ => 0)) := by
  rw [← meet_flags h ho (fun _ => 0)]
  exact writeM_meetAll (laneFate_noTrap h _ (fun _ _ _ => Fate.noConfusion)) (laneFate_none ho (fun _ => 0))

/-- CMP (R125): the bits of the issued set. -/
theorem execCmp_done {s : State} {m c : BitVec 3} {a b : BitVec 6} {f : BitVec 3} {h : BitVec 2} (hi : s.issues (.cmp m c a b f h))
    {o : LaneOp} (ho : o = (let wide := f == 2 || f == 3 || f == 5
      let acc : Accept := if f == 4 then .f32 else if f == 5 then .f64 else .int
      ⟨[src a wide acc, src b wide acc], []⟩)) (hp : s.lanesPass o) :
    ∃ t, exec (.cmp m c a b f h) s = .next t ∧
      MaskStep s t m.toNat (s.maskResult (s.readM m.toNat) (fun l => (s.compareLane c.toNat f.toNat a b l).1))
        (s.maskThreads (fun l => (s.compareLane c.toNat f.toNat a b l).2)) := by
  subst ho
  refine ⟨_, exec_issues (by rfl) hi, ?_⟩
  exact laneMask_done hp rfl _ _

/-- BALLOT (R107): all 64 bits. -/
theorem execBallot_done {s : State} {m : BitVec 3} {a : BitVec 6} {h : BitVec 1} (hi : s.issues (.ballot m a h))
    (hp : s.lanesPass ⟨[⟨a.toNat, 1, .any⟩], []⟩) :
    ∃ t v, exec (.ballot m a h) s = .next t ∧ MaskStep s t m.toNat v (s.maskThreads (fun _ => 0)) ∧
      ∀ l < 64, (s.cur.lanes.getLsbD l = true → l < s.curB.threads.length) → v.getLsbD l =
        if ¬ (l < s.curB.w ∧ s.cur.lanes.getLsbD l = true) then false
        else if s.isActive l then s.v32 l a != 0
        else !s.zeroing && (s.readM m.toNat).getLsbD l := by
  refine ⟨_, ?v, exec_issues (by rfl) hi, ?mask, ?bits⟩
  case mask => exact laneVote_done hp rfl _ _
  intro l hl hlane
  rw [setBits_get _ _ _ _ hl, if_pos (List.mem_range.mpr hl)]
  by_cases hw : l < s.curB.w
  · by_cases hc : s.cur.lanes.getLsbD l = true
    · by_cases ha : s.isActive l = true
      · have ht : s.laneTrap l ⟨[src a false .any], []⟩ = none := hp l (mem_issued.mpr ⟨hlane hc, hc⟩) ha
        simp [hw, hc, ha, ht]
      · cases hz : s.zeroing <;> simp [hw, hc, ha]
    · simp [hc]
  · simp [hw]

/-- ELECT (R107): the lowest active lane below W. -/
theorem execElect_done {s : State} {m : BitVec 3} (hi : s.issues (.elect m)) :
    ∃ t v, exec (.elect m) s = .next t ∧ MaskStep s t m.toNat v (s.maskThreads (fun _ => 0)) ∧
      ∀ l < 64, v.getLsbD l = decide (l < s.curB.w ∧ s.isActive l = true ∧ ∀ k < l, s.isActive k = false) := by
  refine ⟨_, ?v, exec_issues (by rfl) hi, ?mask, ?bits⟩
  case mask => exact laneVote_done (lanesPass_nil s) rfl _ _
  intro l hl
  split
  next k hk =>
    obtain ⟨ha, hw, hlow⟩ := List.find?_range_eq_some.mp hk
    rw [getLsbD_laneBit hl, decide_eq_decide]
    constructor
    · rintro rfl
      exact ⟨List.mem_range.mp hw, ha, fun j hj => by simpa using hlow j hj⟩
    · rintro ⟨-, hl', hlow'⟩
      rcases Nat.lt_trichotomy l k with h | h | h
      · exact absurd hl' (by simpa using hlow l h)
      · exact h
      · exact absurd ha (by simp [hlow' k h])
  next hn =>
    have hno := List.find?_range_eq_none.mp hn
    refine (BitVec.getLsbD_zero).trans (decide_eq_false ?_).symm
    rintro ⟨hw, ha, -⟩
    exact absurd ha (by simpa using hno l hw)

/-- LVLEAD (R196): the bits of the issued set. -/
theorem execLvlead_done {s : State} {m : BitVec 3} {k : BitVec 2} (hi : s.issues (.lvlead m k)) :
    ∃ t v, exec (.lvlead m k) s = .next t ∧ MaskStep s t m.toNat v s.passed ∧
      ∀ l < 64, v.getLsbD l = if l ∈ s.issued then s.leads s.cur.bundle l k.toNat else (s.readM m.toNat).getLsbD l :=
  by
  refine ⟨_, ?v, exec_issues (by rfl) hi, ?mask, ?bits⟩
  case mask => exact writeM_advance s _ _
  exact fun l hl => setBits_get _ _ _ l hl

/-- MLOGIC (R110). -/
theorem execMlogic_done {s : State} {d a b : BitVec 3} {f : BitVec 6} (hi : s.issues (.mlogic d a b f)) :
    ∃ t, exec (.mlogic d a b f) s = .next t ∧
      MaskStep s t d.toNat (maskOp f.toNat (s.readM a.toNat) (s.readM b.toNat)) s.passed := by
  refine ⟨_, exec_issues (by rfl) hi, ?_⟩
  exact writeM_advance s _ _

/-- STOM (R110). -/
theorem execStom_done {s : State} {d : BitVec 3} {a : BitVec 6} (hi : s.issues (.stom d a)) (hu : s.uniTrap [⟨a.toNat, 2, .any⟩] = none) :
    ∃ t, exec (.stom d a) s = .next t ∧ MaskStep s t d.toNat (s.u64 a) s.passed := by
  refine ⟨_, exec_issues (by rfl) hi, ?_⟩
  have hs : s.uniTrap [src a true .any] = none := hu
  rw [State.uniWord, hs]
  exact writeM_advance s _ _

/-! ### Uniform words -/

/-- A uniform word whose effect is the writes of its row. -/
theorem uniWrites_step {s : State} {i : Instr} {f : State → State} {us : List Use} {ws : List (Nat × Reg)} (hi : s.issues i)
    (he : exec i s = s.word i f) (hf : f s = s.uniWrites us ws) (hu : s.uniTrap us = none) : ∃ t, exec i s = .next t ∧ UniStep s t ws :=
  ⟨_, by rw [he, word_issues hi, hf], uniWrites_done hu ws⟩

/-- ULANE (R111). -/
theorem execUlane_done {s : State} {d a n : BitVec 6} (hi : s.issues (.ulane d a n))
    (ht : s.tagCheck = true → (s.laneRegister n.toNat a).tag ≠ .empty ∧ (s.laneRegister n.toNat a).tag ≠ .pend) :
    ∃ t, exec (.ulane d a n) s = .next t ∧ UniStep s t [(d.toNat, (s.laneRegister n.toNat a).moved)] := by
  refine ⟨_, exec_issues (by rfl) hi, ?_⟩
  have he : (s.tagCheck && (s.laneRegister n.toNat a).tag == .empty) = false := by
    simpa using fun h => (ht h).1
  have hp : (s.tagCheck && (s.laneRegister n.toNat a).tag == .pend) = false := by
    simpa using fun h => (ht h).2
  simp only [he, hp]
  exact writeS_advance s _

end Sys2Proof.Laws

namespace Sys2Proof.Claims
open Sys2Proof.Machine

/-- Settles O4: each word writes the bits of its rule, and its lanes pass it. -/
theorem maskWords : Obligations.MaskWords := by
  refine ⟨?_, ?_, ?_, ?_, ?_, ?_⟩
  case refine_1 => exact fun s m c a b f h hi hp => Laws.execCmp_done hi rfl hp
  case refine_2 => exact fun s m a h hi hp => Laws.execBallot_done hi hp
  case refine_3 => exact fun s m hi => Laws.execElect_done hi
  case refine_4 => exact fun s m k hi => Laws.execLvlead_done hi
  case refine_5 => exact fun s d a b f hi => Laws.execMlogic_done hi
  case refine_6 => exact fun s d a hi hu => Laws.execStom_done hi hu

/-- A uniform word of two forms, each with its row. -/
theorem uniWrites_ite {s x y : State} {c : Prop} [Decidable c] {p q : List Use × List (Nat × Reg)} (hx : x = s.uniWrites p.1 p.2)
    (hy : y = s.uniWrites q.1 q.2) : (if c then x else y) = s.uniWrites (if c then p else q).1 (if c then p else q).2 := by
  split <;> assumption

/-- A source that is a pair by a test. -/
theorem src_decide (r : BitVec 6) (c : Prop) [Decidable c] (acc : Accept) : src r (decide c) acc = ⟨r.toNat, if c then 2 else 1, acc⟩ := by
  simp [src]

/-- The row of a uniform word is what the word does. -/
theorem uniformRow_exec {s : State} {i : Instr} {r : List Use × List (Nat × Reg)} (h : uniformRow s i = some r) :
    ∃ f : State → State, exec i s = s.word i f ∧ f s = s.uniWrites r.1 r.2 := by
  unfold uniformRow at h
  split at h <;> cases h
  case h_6 d a b f =>
    refine ⟨_, by rfl, ?_⟩
    by_cases hf : f ≥ 4 <;> simp only [hf, decide_true, decide_false, if_true, if_false] <;> rfl
  case h_8 d a b c t =>
    refine ⟨_, by rfl, ?_⟩
    simp only [src_decide]
  case h_9 d a f =>
    refine ⟨_, by rfl, ?_⟩
    by_cases hf : (f == 1) = true <;> simp only [hf, if_true] <;> rfl
  case h_1 | h_2 | h_3 | h_4 | h_5 =>
    refine ⟨_, by rfl, ?_⟩
    exact uniWrites_ite rfl rfl
  all_goals
    refine ⟨_, by rfl, ?_⟩
    rfl

/-- Settles O5: the row of each word, and the register of a lane. -/
theorem uniformWords : Obligations.UniformWords := by
  refine ⟨fun s i us ws hr hi hu => ?_, fun s d a n hi _ ht => Laws.execUlane_done hi ht⟩
  obtain ⟨f, he, hf⟩ := uniformRow_exec hr
  exact Laws.uniWrites_step hi he hf hu

end Sys2Proof.Claims
end

section
/-! Control flow (R102, R103, R105): lanes that branch, jump and call, and those that cannot. -/
namespace Sys2Proof.Laws
open Sys2Proof.Machine Sys2Proof.Claims

/-! ### Changes of the bundle at issue -/

/-- A change that leaves its bundle as it was changes nothing. -/
theorem modBundle_self {s : State} {b : Nat} {f : Bundle → Bundle} (h : f (s.bundle b) = s.bundle b) : s.modBundle b f = s := by
  rw [modBundle_congr s b f id h]
  simp [State.modBundle]

/-- Two changes of one bundle are one change. -/
theorem modBundle_modBundle (s : State) (b : Nat) (f g : Bundle → Bundle) :
    (s.modBundle b f).modBundle b g = s.modBundle b (g ∘ f) := by
  simp [State.modBundle, List.modify_modify_eq]

/-- A lane that the bundle at issue has. -/
theorem curB_thread {s : State} {l : Nat} (h : l < s.curB.threads.length) : s.curB.thread l = s.curB.threads[l] := by
  simp [Bundle.thread, List.getD_eq_getElem?_getD, h]

/-- A change of the lanes depends only on what it makes of each. -/
theorem mapLanes_congr {s : State} {f g : Nat → Thread → Thread}
    (h : ∀ l < s.curB.threads.length, f l (s.curB.thread l) = g l (s.curB.thread l)) : s.mapLanes f = s.mapLanes g := by
  refine modBundle_congr s _ _ _ (congrArg (fun ts => { s.curB with threads := ts }) ?_)
  refine List.mapIdx_eq_mapIdx_iff.mpr fun l hl => ?_
  have h := h l hl
  rwa [curB_thread hl] at h

/-- A list of which nothing changes. -/
theorem mapIdx_id {α : Type} (ts : List α) : ts.mapIdx (fun _ t => t) = ts := List.mapIdx_eq_iff.mpr fun _ => by simp

/-- A change that leaves every lane as it was changes nothing. -/
theorem mapLanes_self {s : State} {f : Nat → Thread → Thread} (h : ∀ l < s.curB.threads.length, f l (s.curB.thread l) = s.curB.thread l) :
    s.mapLanes f = s := by
  rw [mapLanes_congr (g := fun _ t => t) h]
  exact modBundle_self (congrArg (fun ts => { s.curB with threads := ts }) (mapIdx_id s.curB.threads))

/-- Two changes of the lanes are one change. -/
theorem mapLanes_mapLanes (s : State) (f g : Nat → Thread → Thread) : (s.mapLanes f).mapLanes g = s.mapLanes (fun l t => g l (f l t)) := by
  refine (modBundle_modBundle s s.cur.bundle _ _).trans ?_
  simp [State.mapLanes, Function.comp_def, List.mapIdx_mapIdx]

/-- Threads changed by their lanes, those of the issued set alone. -/
theorem mapLanes_laneStep {s : State} {f next : Nat → Thread → Thread} (h : ∀ l < s.curB.threads.length,
    f l (s.curB.thread l) = if s.cur.lanes.getLsbD l then next l (s.curB.thread l) else s.curB.thread l) : LaneStep s (s.mapLanes f) next := by
  rw [mapLanes_congr (g := fun l t => if s.cur.lanes.getLsbD l then next l t else t) h]
  exact mapLanes_step s next

/-- A word of no register write, none of whose lanes traps: its lanes pass it, and nothing else happens. -/
theorem meetAll_now {s : State} {fate : Nat → Fate} (ht : ∀ l ∈ s.issued, ∀ i, fate l ≠ .trap i)
    (hw : ∀ l ws fl, fate l = .done ws fl → ws = []) :
    s.meetAll false [] [] fate = s.mapLanes (fun l t => t.meet s.cur.pc true (fate l)) := by
  rw [meetAll_pass ht]
  refine modBundle_congr s _ _ _ ?_
  simp [contest_none hw]

/-- A word of no register write, each of whose lanes traps with one cause, changes nothing but by the trap. -/
theorem meetAll_trapIssued {s : State} {fate : Nat → Fate} {i : TrapInfo} (ht : ∀ l ∈ s.issued, fate l = .trap i)
    (hn : ∀ l, s.cur.lanes.getLsbD l = false → fate l = .none) (hw : ∀ l ws fl, fate l = .done ws fl → ws = []) :
    s.meetAll false [] [] fate = s.trapIssued i := by
  have hm : s.curB.threads.mapIdx (fun l t => t.meet s.cur.pc true (fate l)) = s.curB.threads := by
    rw [← mapIdx_id s.curB.threads, List.mapIdx_mapIdx]
    refine List.mapIdx_eq_mapIdx_iff.mpr fun l hl => ?_
    cases hc : s.cur.lanes.getLsbD l with
    | false => simp [hn l hc, Thread.meet]
    | true => simp [ht l (mem_issued.mpr ⟨hl, hc⟩), Thread.meet]
  have hs : s.modBundle s.cur.bundle (fun b => { b.contest fate with
      threads := (b.contest fate).threads.mapIdx (fun l t => t.meet s.cur.pc true (fate l)) }) = s := by
    refine modBundle_self ?_
    rw [contest_none hw]
    exact congrArg (fun ts => { s.curB with threads := ts }) hm
  refine (congrArg (State.takeTraps _ _ _ _) ?_).trans
    (congrArg (fun t : State => t.takeTraps t.cur.bundle t.cur.trapPc t.issued (s.issued.map (fun l => (l, i)))) hs)
  rw [← List.filterMap_eq_map]
  exact List.filterMap_congr fun l hl => by rw [ht l hl]; rfl

/-! ### Branches -/

/-- The issued lanes of a test branch, and the others go on (R102). -/
theorem branchLanes_step (s : State) (take : Nat → Bool) (target : DWord) :
    LaneStep s (s.branchLanes take target) (fun l th => if take l then th.goto target else th.advance s.cur.pc) :=
  mapLanes_laneStep fun l _ => by cases s.cur.lanes.getLsbD l <;> rfl

/-- The mask and the sense of a branch select a lane (R102). -/
theorem selects_iff {s : State} {m : BitVec 3} {x : BitVec 1} {l : Nat} :
    s.selects m x l = true ↔ (s.readM m.toNat).getLsbD l = (x == 1) := by
  simp [State.selects]

/-- No uniform register is written. -/
theorem writeS_nil (s : State) : s.writeS [] = s := modBundle_self rfl

/-! ### Jumps -/

/-- How a lane of `jmp` or `callr` ends (R103). -/
def jumpFate (s : State) (a : BitVec 6) (call : Bool) : Nat → Fate :=
  s.laneFate ⟨[src a true .int], []⟩ (fun l =>
    let t := s.v64 l a
    if t.toNat % 4 != 0 then .trap { TrapInfo.of causeMisaligned with addr := t, reg := regField false a.toNat }
    else if !vaValid t then .trap { TrapInfo.of causeOutOfRange with addr := t, reg := regField false a.toNat }
    else if call && !(s.curB.thread l).entered then .trap windowRange
    else .done [] 0)

/-- The lanes of `jmp` and `callr` meet their fates, and those that pass go to their own addresses. -/
theorem jumpLanes_eq (s : State) (a : BitVec 6) (call : Bool) :
    s.jumpLanes a call = (s.meetAll false [] [] (jumpFate s a call)).mapLanes (fun l t =>
      if s.isActive l && jumpFate s a call l == .done [] 0 && t.isReady then
        (if call then t.callStep (s.cur.pc + 4) else t).goto (s.v64 l a)
      else t) := rfl

/-- A lane that passes a jump writes no register, raises no flag, and has a frame to call from. -/
theorem jumpFate_done {s : State} {a : BitVec 6} {call : Bool} {l : Nat} {ws : List (Nat × Reg)} {fl : BitVec 6}
    (h : jumpFate s a call l = .done ws fl) :
    ws = [] ∧ (s.isActive l = true → call = true → (s.curB.thread l).entered = true) := by
  unfold jumpFate State.laneFate at h
  split at h
  · cases h
  · split at h
    next ha => 
      cases h
      exact ⟨by split <;> rfl, fun hc => by simp [hc] at ha⟩
    · split at h
      · cases h
      · dsimp only at h
        split at h
        · cases h
        · split at h
          · cases h
          · split at h
            · cases h
            next he =>
              cases h
              exact ⟨rfl, fun _ hc => by simpa [hc] using he⟩

/-- The lanes of `jmp` and `callr` that pass their checks (R103). -/
theorem jumpFate_pass {s : State} {a : BitVec 6} {call : Bool} (hp : s.lanesPass ⟨[⟨a.toNat, 2, .int⟩], []⟩)
    (hv : ∀ l ∈ s.issued, s.isActive l = true → (s.v64 l a).toNat % 4 = 0 ∧ vaValid (s.v64 l a) = true ∧
      (call = true → (s.curB.thread l).entered = true)) {l : Nat} (hl : l ∈ s.issued) : jumpFate s a call l = .done [] 0 := by
  refine (laneFate_pass (o := ⟨[src a true .int], []⟩) hp hl _).trans ?_
  by_cases ha : s.isActive l = true
  · obtain ⟨hal, hva, hen⟩ := hv l hl ha
    cases call <;> simp_all
  · simp [ha, State.inactiveWrites]

/-- The lanes of `jmp` and `callr` go to their own addresses. -/
theorem jumpLanes_step {s : State} {a : BitVec 6} {call : Bool} (hp : s.lanesPass ⟨[⟨a.toNat, 2, .int⟩], []⟩)
    (hr : ∀ l ∈ s.issued, (s.curB.thread l).isReady = true)
    (hv : ∀ l ∈ s.issued, s.isActive l = true → (s.v64 l a).toNat % 4 = 0 ∧ vaValid (s.v64 l a) = true ∧
      (call = true → (s.curB.thread l).entered = true)) :
    LaneStep s (s.jumpLanes a call) (fun l th => if s.isActive l then
      (if call then th.callStep (s.cur.pc + 4) else th).goto (s.v64 l a) else th.advance s.cur.pc) := by
  rw [jumpLanes_eq, meetAll_now (fun l hl i => by rw [jumpFate_pass hp hv hl]; exact Fate.noConfusion) (fun _ _ _ h => (jumpFate_done h).1),
    mapLanes_mapLanes]
  refine mapLanes_laneStep fun l hl => ?_
  cases hc : s.cur.lanes.getLsbD l with
  | false =>
    have ha : s.isActive l = false := Bool.eq_false_iff.mpr fun ha => by simp [issued_of_isActive ha] at hc
    simp [jumpFate, laneFate_other hc, ha, Thread.meet]
  | true =>
    have hi := mem_issued.mpr ⟨hl, hc⟩
    have hready := hr l hi
    rw [jumpFate_pass hp hv hi]
    simp only [Thread.isReady] at hready
    cases s.isActive l <;> cases call <;>
      simp [Thread.meet, Thread.writes, Thread.isReady, hready, Thread.goto, Thread.advance, Thread.callStep]

/-- A `callr` all of whose lanes have a frame that is not entered (R103). -/
theorem jumpFate_unentered {s : State} {a : BitVec 6} (hp : s.lanesPass ⟨[⟨a.toNat, 2, .int⟩], []⟩) {l : Nat} (hl : l ∈ s.issued)
    (hc : s.isActive l = true ∧ (s.v64 l a).toNat % 4 = 0 ∧ vaValid (s.v64 l a) = true ∧ (s.curB.thread l).entered = false) :
    jumpFate s a true l = .trap windowRange := by
  obtain ⟨ha, hal, hva, hen⟩ := hc
  refine (laneFate_pass (o := ⟨[src a true .int], []⟩) hp hl _).trans ?_
  simp [ha, hal, hva, hen]

/-- An active lane whose frame is not entered does not pass a `callr`, whether the bundle has it or not. -/
theorem jumpFate_true_ne_done {s : State} {a : BitVec 6} {l : Nat} (hn : ∀ l ∈ s.issued, (s.curB.thread l).entered = false)
    (ha : s.isActive l = true) : jumpFate s a true l ≠ .done [] 0 := by
  intro h
  have he := (jumpFate_done h).2 ha rfl
  by_cases hl : l < s.curB.threads.length
  · simp [hn l (mem_issued.mpr ⟨hl, issued_of_isActive ha⟩)] at he
  · simp [Bundle.thread, List.getD_eq_getElem?_getD, hl, Thread.absent] at he

/-- A `callr` that no lane can make is WINDOW_RANGE in each (R102, R103). -/
theorem jumpLanes_trap {s : State} {a : BitVec 6} (hp : s.lanesPass ⟨[⟨a.toNat, 2, .int⟩], []⟩)
    (hc : ∀ l ∈ s.issued, s.isActive l = true ∧ (s.v64 l a).toNat % 4 = 0 ∧ vaValid (s.v64 l a) = true ∧
      (s.curB.thread l).entered = false) : s.jumpLanes a true = s.trapIssued windowRange := by
  rw [jumpLanes_eq, meetAll_trapIssued (fun l hl => jumpFate_unentered hp hl (hc l hl)) (fun l hl => laneFate_other hl _)
    (fun _ _ _ h => (jumpFate_done h).1)]
  refine mapLanes_self fun l _ => if_neg fun h => ?_
  simp only [Bool.and_eq_true, beq_iff_eq] at h
  obtain ⟨⟨ha, hf⟩, -⟩ := h
  refine jumpFate_true_ne_done (fun l hl => ?_) ha hf
  obtain ⟨-, -, -, he⟩ := hc l hl
  exact he

/-! ### Calls -/

/-- The lanes that a `call` selects and whose frame is not entered (R102). -/
def badCalls (s : State) (m : BitVec 3) (x : BitVec 1) : List Nat :=
  s.issued.filter (fun l => s.selects m x l && !(s.curB.thread l).entered)

/-- The lanes that a `call` does not stop. -/
def callLanes (s : State) (m : BitVec 3) (x : BitVec 1) (target : DWord) : State :=
  s.mapLanes (fun l t =>
    if !s.cur.lanes.getLsbD l || (badCalls s m x).contains l then t
    else if s.selects m x l then (t.callStep (s.cur.pc + 4)).goto target
    else t.advance s.cur.pc)

/-- CALL (R102): the lanes that can call do, and the others trap. -/
theorem exec_call {s : State} {m : BitVec 3} {x : BitVec 1} {o : BitVec 20} (hi : s.issues (.call m x o)) :
    exec (.call m x o) s = .next ((callLanes s m x (s.branchTarget o)).takeTraps s.cur.bundle s.cur.trapPc s.issued
      ((badCalls s m x).map (fun l => (l, windowRange)))) :=
  exec_issues (by rfl) hi

/-- Lanes whose frames are entered call (R102). -/
theorem callLanes_step {s : State} {m : BitVec 3} {x : BitVec 1} (h : badCalls s m x = []) (target : DWord) :
    LaneStep s (callLanes s m x target) (fun l th => if s.selects m x l then (th.callStep (s.cur.pc + 4)).goto target
      else th.advance s.cur.pc) :=
  mapLanes_laneStep fun l _ => by cases hc : s.cur.lanes.getLsbD l <;> simp [h]

end Sys2Proof.Laws

namespace Sys2Proof.Claims
open Sys2Proof.Machine

/-- Settles O7: each lane goes where the test of the word sends it. -/
theorem branches : Obligations.Branches := by
  refine ⟨?_, ?_, ?_, ?_⟩
  case refine_1 =>
    intro s m x o hi
    refine ⟨_, Laws.exec_issues (by rfl) hi, ?_⟩
    simp only [← Laws.selects_iff]
    exact Laws.branchLanes_step s _ _
  case refine_2 =>
    intro s m x o hi
    refine ⟨_, Laws.exec_issues (by rfl) hi, ?_⟩
    simp only [← Laws.selects_iff, ← Bool.and_eq_true]
    exact Laws.branchLanes_step s _ _
  case refine_3 =>
    intro s a hi hp hr hv
    refine ⟨_, Laws.exec_issues (by rfl) hi, ?_⟩
    refine Laws.jumpLanes_step (call := false) hp hr fun l hl ha => ?_
    obtain ⟨hal, hva⟩ := hv l hl ha
    exact ⟨hal, hva, nofun⟩
  case refine_4 =>
    intro s hi
    refine ⟨_, Laws.exec_issues (by rfl) hi, ?_⟩
    have h := Laws.writeS_advance s []
    rwa [Laws.writeS_nil] at h

/-- Settles O8: a lane calls where its frame is entered, and the word is WINDOW_RANGE where no lane can. -/
theorem calls : Obligations.Calls := by
  refine ⟨?_, ?_, ?_, ?_⟩
  case refine_1 =>
    intro s m x o hi he
    have hb : Laws.badCalls s m x = [] := by
      refine List.filter_eq_nil_iff.mpr fun l hl h => ?_
      simp only [Bool.and_eq_true, Bool.not_eq_true', Laws.selects_iff] at h
      simp [he l hl h.1] at h
    refine ⟨_, Laws.exec_call hi, ?_⟩
    rw [hb]
    simp only [← Laws.selects_iff]
    exact Laws.callLanes_step hb _
  case refine_2 =>
    intro s a hi hp hr hv
    refine ⟨_, Laws.exec_issues (by rfl) hi, ?_⟩
    refine Laws.jumpLanes_step (call := true) hp hr fun l hl ha => ?_
    obtain ⟨hal, hva, he⟩ := hv l hl ha
    exact ⟨hal, hva, fun _ => he⟩
  case refine_3 =>
    intro s m x o hi hc
    have hb : Laws.badCalls s m x = s.issued := by
      refine List.filter_eq_self.mpr fun l hl => ?_
      simp [Laws.selects_iff.mpr (hc l hl).1, (hc l hl).2]
    have hs : Laws.callLanes s m x (s.branchTarget o) = s := by
      refine Laws.mapLanes_self fun l hl => if_pos ?_
      rw [hb]
      cases h : s.cur.lanes.getLsbD l
      · rfl
      · simpa using Laws.mem_issued.mpr ⟨hl, h⟩
    rw [Laws.exec_call hi, hb, hs]
    rfl
  case refine_4 =>
    intro s a hi hp hc
    exact (Laws.exec_issues (f := fun s => s.jumpLanes a true) rfl hi).trans (congrArg _ (Laws.jumpLanes_trap hp hc))

end Sys2Proof.Claims
end

section
/-! The allocation of registers (R112): words that grow and shrink a bundle, and the grant of a request. -/
namespace Sys2Proof.Laws
open Sys2Proof.Machine Sys2Proof.Claims

/-! ### A ring of another length -/

/-- Writes of ring registers change nothing else of a thread. -/
theorem foldl_ringSet (rs : List (Nat × Reg)) (t : Thread) :
    { rs.foldl (fun (u : Thread) r => u.ringSet r.1 r.2) t with ring := t.ring } = t := by
  induction rs generalizing t with
  | nil => rfl
  | cons r rs ih => exact congrArg (fun u : Thread => { u with ring := t.ring }) (ih (t.ringSet r.1 r.2))

/-- A thread's ring of another length is the only change. -/
theorem resize_frame (t : Thread) (n : Nat) : { t.resize n with ring := t.ring } = t :=
  congrArg (fun u : Thread => { u with ring := t.ring }) (foldl_ringSet _ _)

@[simp] theorem resize_st (t : Thread) (n : Nat) : (t.resize n).st = t.st := (congrArg Thread.st (resize_frame t n) : _)

@[simp] theorem resize_pc (t : Thread) (n : Nat) : (t.resize n).pc = t.pc := (congrArg Thread.pc (resize_frame t n) : _)

@[simp] theorem resize_parkAsked (t : Thread) (n : Nat) : (t.resize n).parkAsked = t.parkAsked :=
  (congrArg Thread.parkAsked (resize_frame t n) : _)

@[simp] theorem resize_isExited (t : Thread) (n : Nat) : (t.resize n).isExited = t.isExited := by
  simp [Thread.isExited]

/-- Whether a lane is EXITED does not depend on the length of its ring. -/
theorem isExited_bundleResize (x : Bundle) (p l : Nat) : ((x.resize p).thread l).isExited = (x.thread l).isExited := by
  simp only [Bundle.thread, Bundle.resize, List.getD_eq_getElem?_getD, List.getElem?_map]
  cases x.threads[l]? <;> simp

/-! ### The word at issue changes its bundle's allocation -/

/-- A bundle with `p` registers for each lane, its threads changed by `f` and its outstanding words by `g`. -/
def resized (x : Bundle) (p : Nat) (f : Thread → Thread) (g : LateOp → LateOp) : Bundle :=
  { x with p := p, threads := x.threads.map (fun t => f (t.resize (p - 8))), late := x.late.map g }

/-- A word that resizes its bundle and advances. -/
theorem resized_advance {s : State} {F : Bundle → Bundle} {p : Nat} {f : Thread → Thread} {g : LateOp → LateOp}
    (hb : s.cur.bundle < s.bundles.length) (hF : F s.curB = resized s.curB p f g) :
    ResizeStep s (s.modBundle s.cur.bundle F).advanceAll p f g := by
  have hc : (s.modBundle s.cur.bundle F).curB = resized s.curB p f g := (curB_modBundle s F hb).trans hF
  have e : (s.modBundle s.cur.bundle F).advanceAll.curB = { resized s.curB p f g with
      threads := (resized s.curB p f g).threads.mapIdx (fun l t => if s.cur.lanes.getLsbD l && t.isReady then t.advance s.cur.pc else t) } := by
    rw [State.advanceAll, curB_mapLanes, hc]
    rfl
  refine ⟨⟨rfl, fun i hi => ?_⟩, ?_, ?_, ?_, ?_⟩
  · exact (bundle_modBundle_ne _ _ _ _ hi).trans (bundle_modBundle_ne _ _ _ _ hi)
  · rw [e]; rfl
  · rw [e]
    exact List.ext_getElem (by simp [resized]) fun l _ _ => by simp [resized]
  · rw [e]; rfl
  · rw [e]; rfl

/-- A growth at once (R112). -/
theorem growBundle_advance {s : State} (hb : s.cur.bundle < s.bundles.length) (k : Nat) :
    ResizeStep s (s.growBundle s.cur.bundle k).advanceAll (s.curB.p + k) id id :=
  resized_advance hb (by simp [resized, Bundle.resize])

/-- A growth at once needs free registers, room below 256 and an empty queue (R112). -/
theorem mayGrow_iff {s : State} {k : Nat} : mayGrow s k ↔ (s.curB.p + k ≤ 256 ∧
    (!s.grow.any (fun g => g.place == s.curB.coreNo && g.sub == s.curB.sub) && decide (s.curB.w * k ≤ s.freeRegs s.curB.coreNo s.curB.sub)) = true) := by
  simp [mayGrow]

/-- RGROW (R112): a request above 256, one that is granted at once, and one that waits. -/
theorem exec_rgrow {s : State} {n : BitVec 6} (hi : s.issues (.rgrow n)) : exec (.rgrow n) s = .next
    (if s.curB.p + n.toNat * 8 > 256 then s.trapIssued windowRange
    else if !s.grow.any (fun g => g.place == s.curB.coreNo && g.sub == s.curB.sub)
        && s.curB.w * (n.toNat * 8) ≤ s.freeRegs s.curB.coreNo s.curB.sub then
      (s.growBundle s.cur.bundle (n.toNat * 8)).advanceAll
    else
      { s.waitIssued .grow with grow := s.grow ++ [⟨s.curB.coreNo, s.curB.sub, s.cur.bundle, s.cur.lanes, n.toNat * 8⟩] }) :=
  exec_issues (by rfl) hi

/-- RGROW_TRY (R112): where it grows, and where it does not. -/
theorem exec_rgrowTry {s : State} {d n : BitVec 6} (hi : s.issues (.rgrowTry d n)) (ok : Bool) (hok : ok = true ↔ mayGrow s (n.toNat * 8)) :
    exec (.rgrowTry d n) s = .next
      (((if ok then s.growBundle s.cur.bundle (n.toNat * 8) else s).writeS (put d (if ok then 1 else 0) .int)).advanceAll) := by
  have e : (s.curB.p + n.toNat * 8 ≤ 256 && !s.grow.any (fun g => g.place == s.curB.coreNo && g.sub == s.curB.sub)
      && s.curB.w * (n.toNat * 8) ≤ s.freeRegs s.curB.coreNo s.curB.sub) = ok := by
    rw [Bool.eq_iff_iff, hok, mayGrow_iff, Bool.and_assoc, Bool.and_eq_true, decide_eq_true_eq]
  subst e
  exact exec_issues (by rfl) hi

/-- Marks of races apart, a race on a uniform register changes nothing. -/
theorem plain_clashS (x : Bundle) (n : Nat) :
    { x.clashS n with late := (x.clashS n).late.map LateOp.plain } = { x with late := x.late.map LateOp.plain } := by
  obtain ⟨hl, hf⟩ := clashS_late x n
  rw [hl]
  exact congrArg (fun y : Bundle => { y with late := x.late.map LateOp.plain }) hf

/-- A growth and the write of a uniform register, marks of races apart, in either order (R37, R112). -/
theorem calm_growBundle_writeS (s : State) (k n : Nat) (r : Reg) :
    (((s.growBundle s.cur.bundle k).writeS [(n, r)]).advanceAll).calm s.cur.bundle =
      (((s.modBundle s.cur.bundle (fun b => { b with s := b.s.set n r })).calm s.cur.bundle).growBundle s.cur.bundle k).advanceAll := by
  simp only [State.calm, State.advanceAll, State.mapLanes, State.writeS, State.growBundle, modBundle_modBundle, modBundle_cur]
  refine modBundle_congr s _ _ _ ?_
  have h := plain_clashS { s.curB.resize (s.curB.p + k) with s := s.curB.s.set n r } n
  exact congrArg (fun x : Bundle => { x with
    threads := x.threads.mapIdx (fun l (t : Thread) => if s.cur.lanes.getLsbD l && t.isReady then t.advance s.cur.pc else t) }) h

/-- The frame engine that has nothing to do. -/
theorem engineAll_ok {s : State} {f : State → Nat → State × EngineEnd} {ls : List Nat} (h : ∀ l ∈ ls, f s l = (s, .ok)) :
    State.engineAll f s ls = (s, ls.map (fun l => (l, .ok))) := by
  induction ls with
  | nil => rfl
  | cons l ls ih =>
    rw [State.engineAll, h l List.mem_cons_self]
    dsimp only
    rw [ih fun k hk => h k (List.mem_cons_of_mem l hk)]
    rfl

/-- A word of the frame engine all of whose lanes it has served. -/
theorem engineEnd_ok {s : State} {rs : List (Nat × EngineEnd)} (h : ∀ r ∈ rs, r.2 = .ok) (wait : State → State) (done : State → Nat → State) :
    s.engineEnd wait [] rs done = (rs.map (·.1)).foldl done s := by
  have hok : rs.filter (fun r => r.2 == .ok) = rs := List.filter_eq_self.mpr fun r hr => by simp [h r hr]
  unfold State.engineEnd
  rw [if_neg ?lost, if_neg ?wait]
  case lost =>
    rw [Bool.not_eq_true, List.any_eq_false]
    intro r hr
    simp [h r hr]
  case wait =>
    rw [Bool.not_eq_true, List.any_eq_false]
    intro r hr
    rw [h r hr]
    exact Bool.false_ne_true
  refine (congrArg (State.takeTraps _ _ _ _) (?_ : _ = [])).trans (by rw [takeTraps_nil, hok])
  refine List.filterMap_eq_nil_iff.mpr fun l _ => List.find?_eq_none.mpr fun x hx => ?_
  obtain ⟨r, hr, e⟩ := List.mem_filterMap.mp hx
  rw [h r hr] at e
  cases e

/-! ### RSHRINK -/

/-- The threads of a bundle that have not ended. -/
def liveLanes (x : Bundle) : List Nat := (indices x.threads).filter (fun l => !(x.thread l).isExited)

theorem mem_liveLanes {x : Bundle} {l : Nat} : l ∈ liveLanes x ↔ l < x.threads.length ∧ (x.thread l).isExited = false := by
  simp [liveLanes, indices]

/-- A bundle that cannot shrink by `k`: fewer than 16 registers would be left, or fewer than a window needs (R112). -/
theorem tooFar_iff {x : Bundle} {k : Nat} :
    (decide (x.p < k + 16) || (liveLanes x).any (fun l => decide ((x.thread l).n > x.p - k - 8))) = true ↔
      x.p < k + 16 ∨ ∃ l < x.threads.length, (x.thread l).isExited = false ∧ x.p - k - 8 < (x.thread l).n := by
  simp [mem_liveLanes, and_assoc]

/-- The words of a bundle that shrinks, without the windows of its EXITED threads (R112). -/
theorem dropWindows_resize (s : State) (p : Nat) : (s.curB.resize p).dropWindows = resized s.curB p Thread.dropWindow (keptLate s) := by
  have hk : (fun o : LateOp => { o with lanes := o.lanes.filter (fun w => w.key < 8 || !((s.curB.resize p).thread w.lane).isExited) }) =
      keptLate s := by
    funext o
    simp only [isExited_bundleResize, keptLate]
  unfold Bundle.dropWindows
  rw [hk]
  simp [Bundle.resize, resized]

/-- RSHRINK (R112) below what a bundle or a window needs. -/
theorem execRshrink_range {s : State} {n : BitVec 6} (hi : s.issues (.rshrink n)) (h : s.curB.p < n.toNat * 8 + 16 ∨
    (∃ l < s.curB.threads.length, (s.curB.thread l).isExited = false ∧ s.curB.p - n.toNat * 8 - 8 < (s.curB.thread l).n)) :
    exec (.rshrink n) s = .next (s.trapIssued (TrapInfo.of 0x51)) := by
  refine exec_issues_eq (by rfl) hi ?_
  exact if_pos (tooFar_iff.mpr h)

/-- A thread that has nothing to spill. -/
theorem spillTo_zero (s : State) (b l lo : Nat) : s.spillTo b l lo 0 = (s, .ok) := rfl

/-- RSHRINK (R112) where every thread's registers fit in what is left. -/
theorem execRshrink_fits {s : State} {n : BitVec 6} (hi : s.issues (.rshrink n)) (hp : n.toNat * 8 + 16 ≤ s.curB.p)
    (hlive : s.curB.live = true) (hstall : s.cur.stalled = false)
    (hfit : ∀ l < s.curB.threads.length, (s.curB.thread l).isExited = false → (s.curB.thread l).n ≤ s.curB.p - n.toNat * 8 - 8 ∧
      (s.curB.thread l).base + (s.curB.thread l).n ≤ (s.curB.thread l).lo + (s.curB.p - n.toNat * 8 - 8)) :
    exec (.rshrink n) s = .next (s.modBundle s.cur.bundle (fun y => (y.resize (y.p - n.toNat * 8)).dropWindows)).advanceAll := by
  refine exec_issues_eq (by rfl) hi ?_
  refine (if_neg ?_).trans ?_
  · intro h
    rcases tooFar_iff.mp h with h | ⟨l, hl, hx, hn⟩
    · omega
    · obtain ⟨hwin, -⟩ := hfit l hl hx
      omega
  dsimp only
  rw [show (indices s.curB.threads).filter (fun l => !(s.curB.thread l).isExited) = liveLanes s.curB from rfl, engineAll_ok ?act]
  case act =>
    intro l hl
    obtain ⟨hlt, hx⟩ := mem_liveLanes.mp hl
    obtain ⟨-, hring⟩ := hfit l hlt hx
    have hn : (s.thread s.cur.bundle l).base + (s.thread s.cur.bundle l).n - (s.curB.p - n.toNat * 8 - 8)
        - (s.thread s.cur.bundle l).lo = 0 := by
      change (s.thread s.cur.bundle l).base + (s.thread s.cur.bundle l).n ≤ (s.thread s.cur.bundle l).lo + _ at hring
      omega
    rw [hn, spillTo_zero]
  have hok : ∀ r ∈ (liveLanes s.curB).map (fun l => (l, EngineEnd.ok)), r.2 = .ok := by
    simp
  split
  next i hi =>
    obtain ⟨r, hr, e⟩ := List.exists_of_findSome?_eq_some hi
    rw [hok r hr] at e
    cases e
  · dsimp only
    rw [engineEnd_ok hok]
    rw [List.foldl_fixed, if_neg]
    have hl : (s.bundle s.cur.bundle).live = true := hlive
    simp [hstall, hl]

/-! ### Lanes that change in turn -/

/-- Lanes of a bundle that change in turn. -/
theorem foldl_modThread (s : State) (b : Nat) (g : Nat → Thread → Thread) (ls : List Nat) :
    ls.foldl (fun s l => s.modThread b l (g l)) s = s.modBundle b (fun x => ls.foldl (fun x l => x.modThread l (g l)) x) := by
  induction ls generalizing s with
  | nil => exact (modBundle_self rfl).symm
  | cons l ls ih => rw [List.foldl_cons, ih, State.modThread, modBundle_modBundle]; rfl

/-- Lanes of a bundle that change in turn change each by its own number. -/
theorem foldl_bundleModThread (g : Nat → Thread → Thread) {ls : List Nat} (hn : ls.Nodup) (x : Bundle) :
    ls.foldl (fun x l => x.modThread l (g l)) x = { x with threads := x.threads.mapIdx (fun l t => if l ∈ ls then g l t else t) } := by
  induction ls generalizing x with
  | nil =>
    simp only [List.not_mem_nil, if_false]
    exact (congrArg (fun ts => { x with threads := ts }) (mapIdx_id x.threads)).symm
  | cons l ls ih =>
    obtain ⟨hl, hn⟩ := List.nodup_cons.mp hn
    rw [List.foldl_cons, ih hn]
    have h : (x.threads.modify l (g l)).mapIdx (fun k t => if k ∈ ls then g k t else t) =
        x.threads.mapIdx (fun k t => if k ∈ l :: ls then g k t else t) := by
      refine List.ext_getElem (by simp) fun k _ _ => ?_
      simp only [List.getElem_mapIdx, List.getElem_modify, List.mem_cons]
      by_cases h : l = k
      · subst h
        simp [hl]
      · simp [h, Ne.symm h]
    exact congrArg (fun ts => { x with threads := ts }) h

/-- Lanes of a bundle that change in turn, as one change. -/
theorem foldl_modThread_mapIdx (s : State) (b : Nat) (g : Nat → Thread → Thread) {ls : List Nat} (hn : ls.Nodup) :
    ls.foldl (fun s l => s.modThread b l (g l)) s =
      s.modBundle b (fun x => { x with threads := x.threads.mapIdx (fun l t => if l ∈ ls then g l t else t) }) := by
  rw [foldl_modThread]
  exact modBundle_congr s b _ _ (foldl_bundleModThread g hn _)

/-! ### RGROW_GRANT -/

/-- The lanes that wait for a request (R112). -/
def growLanes (s : State) (g : GrowReq) : List Nat :=
  (lanesIn g.lanes (s.bundle g.bundle).threads.length).filter (fun l => ((s.bundle g.bundle).thread l).st == .waiting .grow)

theorem nodup_growLanes (s : State) (g : GrowReq) : (growLanes s g).Nodup := (List.nodup_range.filter _).filter _

/-- A lane waits for a request (R112): a lane that the bundle does not have waits for none. -/
theorem mem_growLanes {s : State} {g : GrowReq} {l : Nat} :
    l ∈ growLanes s g ↔ g.lanes.getLsbD l = true ∧ (s.thread g.bundle l).st = .waiting .grow := by
  have hl : ((s.bundle g.bundle).thread l).st = .waiting .grow → l < (s.bundle g.bundle).threads.length := by
    intro h
    by_contra hl
    simp [Bundle.thread, List.getD_eq_getElem?_getD, hl, Thread.absent] at h
  simp only [growLanes, lanesIn, List.mem_filter, List.mem_range, beq_iff_eq, State.thread]
  exact ⟨fun ⟨⟨_, hb⟩, hst⟩ => ⟨hb, hst⟩, fun ⟨hb, hst⟩ => ⟨⟨hl hst, hb⟩, hst⟩⟩

/-- The threads of a bundle whose request is granted (R112). -/
def granted (s : State) (g : GrowReq) (l : Nat) (t : Thread) : Thread :=
  let t := t.resize ((s.bundle g.bundle).p + g.n - 8)
  if l ∈ growLanes s g then (t.advance t.pc).wake else t

/-- Threads whose rings grow, and of which those that wait go on. -/
theorem mapIdx_granted (s : State) (g : GrowReq) (ts : List Thread) :
    (ts.map (fun t => t.resize ((s.bundle g.bundle).p + g.n - 8))).mapIdx (fun l t => if l ∈ growLanes s g then (t.advance t.pc).wake else t) =
      ts.mapIdx (granted s g) :=
  List.ext_getElem (by simp) fun l _ _ => by simp [granted]

/-- The state after a request has been granted (R112): the bundle has grown, and its waiting lanes go on. -/
def grantState (s : State) (g : GrowReq) : State :=
  ({ s with grow := s.grow.erase g } : State).modBundle g.bundle (fun x => { x with
    p := x.p + g.n, threads := x.threads.mapIdx (granted s g) })

/-- The bundle that a grant lets grow. -/
theorem bundle_grantState {s : State} {g : GrowReq} (hb : g.bundle < s.bundles.length) :
    (grantState s g).bundle g.bundle = { s.bundle g.bundle with
      p := (s.bundle g.bundle).p + g.n, threads := (s.bundle g.bundle).threads.mapIdx (granted s g) } :=
  (bundle_modBundle _ g.bundle _).trans (if_pos hb)

/-- RGROW_GRANT (R112) where registers are free: the bundle grows, and the waiting lanes go on. -/
theorem exec_rgrowGrant {s : State} {place sub : Nat} {g : GrowReq}
    (hg : s.grow.find? (fun g => g.place == place && g.sub == sub) = some g) (hp : (s.bundle g.bundle).p + g.n ≤ 256)
    (hfree : (s.bundle g.bundle).w * g.n ≤ s.freeRegs place sub) :
    exec (.rgrowGrant place sub) s = .next (grantState s g) := by
  change execRgrowGrant place sub s = _
  unfold execRgrowGrant
  rw [hg]
  dsimp only
  rw [if_neg (by omega), if_pos hfree]
  change Host.Outcome.next ((growLanes s g).foldl _ _) = _
  rw [foldl_modThread_mapIdx _ _ (fun _ t => (t.advance t.pc).wake) (nodup_growLanes s g), State.growBundle, modBundle_modBundle]
  refine congrArg _ (modBundle_congr _ _ _ _ ?_)
  exact congrArg (fun ts => { s.bundle g.bundle with p := (s.bundle g.bundle).p + g.n, threads := ts }) (mapIdx_granted s g _)

/-- The PC and the state of a lane after a grant (R112); a lane that its bundle does not have is as it was. -/
theorem thread_grantState {s : State} {g : GrowReq} (hb : g.bundle < s.bundles.length) (l : Nat) :
    ((grantState s g).thread g.bundle l).pc = (granted s g l (s.thread g.bundle l)).pc ∧
      ((grantState s g).thread g.bundle l).st = (granted s g l (s.thread g.bundle l)).st := by
  unfold State.thread
  rw [bundle_grantState hb]
  by_cases hl : l < (s.bundle g.bundle).threads.length
  · simp [Bundle.thread, List.getD_eq_getElem?_getD, hl]
  · have ha : (s.bundle g.bundle).thread l = Thread.absent := by
      simp [Bundle.thread, List.getD_eq_getElem?_getD, hl]
    have hn : l ∉ growLanes s g := by
      rw [mem_growLanes, State.thread, ha]
      simp [Thread.absent]
    rw [ha]
    simp [granted, hn, Bundle.thread, List.getD_eq_getElem?_getD, hl]

/-- A waiting lane goes on past its word with the grant, or parks where a handler has asked for it (R85, R112). -/
theorem granted_waiting {s : State} {g : GrowReq} {l : Nat} (h : l ∈ growLanes s g) (t : Thread) (ht : t.st = .waiting .grow) :
    (granted s g l t).pc = t.pc + 4 ∧ (granted s g l t).st = if t.parkAsked then .parked .handler else .ready := by
  cases hp : t.parkAsked <;> simp [granted, h, Thread.wake, Thread.isWaiting, ht, hp]

/-- The other lanes stay where they are. -/
theorem granted_other {s : State} {g : GrowReq} {l : Nat} (h : l ∉ growLanes s g) (t : Thread) :
    (granted s g l t).pc = t.pc ∧ (granted s g l t).st = t.st := by
  simp [granted, h]

end Sys2Proof.Laws

namespace Sys2Proof.Claims
open Sys2Proof.Machine

/-- Settles O11: each word grows or shrinks its bundle, waits, or is refused, and a grant lets the waiting lanes go on. -/
theorem registerAllocation : Obligations.RegisterAllocation := by
  refine ⟨?_, ?_, ?_, ?_, ?_, ?_, ?_, ?_⟩
  case refine_1 =>
    intro s n hi hg hb
    obtain ⟨hp, hfree⟩ := Laws.mayGrow_iff.mp hg
    refine ⟨_, Laws.exec_rgrow hi, ?_⟩
    rw [if_neg (by omega), if_pos hfree]
    exact Laws.growBundle_advance hb _
  case refine_2 =>
    intro s n hi hp hg
    refine ⟨_, Laws.exec_rgrow hi, ?_⟩
    rw [if_neg (by omega), if_neg fun hfree => hg (Laws.mayGrow_iff.mpr ⟨hp, hfree⟩)]
    exact ⟨rfl, Laws.mapLanes_step _ _⟩
  case refine_3 =>
    intro s n hi hp
    rw [Laws.exec_rgrow hi, if_pos (by omega)]
    rfl
  case refine_4 =>
    intro s d n hi hg
    refine ⟨_, Laws.exec_rgrowTry hi false (by simpa using hg), ?_⟩
    exact Laws.writeS_advance s _
  case refine_5 =>
    intro s d n hi hg hb
    refine ⟨_, Laws.exec_rgrowTry hi true (by simpa using hg), ?_⟩
    rw [if_pos rfl, if_pos rfl, put, Laws.calm_growBundle_writeS]
    have hu : ((s.modBundle s.cur.bundle (fun b => { b with s := b.s.set d.toNat ⟨1, .int⟩ })).calm s.cur.bundle).curB.p = s.curB.p := by
      rw [State.calm, Laws.modBundle_modBundle, Laws.curB_modBundle s _ hb]
      rfl
    rw [← hu]
    exact Laws.growBundle_advance (by simpa [State.calm, State.modBundle] using hb) _
  case refine_6 =>
    intro s n hi h
    exact Laws.execRshrink_range hi h
  case refine_7 =>
    intro s n hi hp hb hlive hstall hfit
    exact ⟨_, Laws.execRshrink_fits hi hp hlive hstall hfit, Laws.resized_advance hb (Laws.dropWindows_resize s _)⟩
  case refine_8 =>
    intro s place sub g hg hp hfree hb
    refine ⟨_, Laws.exec_rgrowGrant hg hp hfree, rfl, ?_, Laws.sameBut_modBundle _ _ _, ?_, ?_⟩
    case refine_1 => rw [Laws.bundle_grantState hb]
    case refine_2 =>
      intro l hl hst
      obtain ⟨hpc, hs⟩ := Laws.thread_grantState hb l
      obtain ⟨hpc', hs'⟩ := Laws.granted_waiting (Laws.mem_growLanes.mpr ⟨hl, hst⟩) _ hst
      exact ⟨hpc.trans hpc', hs.trans hs'⟩
    case refine_3 =>
      intro l hl
      obtain ⟨hpc, hs⟩ := Laws.thread_grantState hb l
      obtain ⟨hpc', hs'⟩ := Laws.granted_other (mt Laws.mem_growLanes.mp hl) (s.thread g.bundle l)
      exact ⟨hpc.trans hpc', hs.trans hs'⟩

end Sys2Proof.Claims
end

section
/-! Frames (R104, R105): words of the frame engine whose lanes it has served. -/
namespace Sys2Proof.Laws
open Sys2Proof.Machine Sys2Proof.Claims

/-! ### Changes of threads -/

/-- A bundle whose threads alone have changed, each by its lane. -/
theorem modBundle_threadsStep (s : State) (b : Nat) (f : Nat → Thread → Thread) :
    ThreadsStep b s (s.modBundle b (fun x => { x with threads := x.threads.mapIdx f })) f := by
  refine ⟨sameBut_modBundle _ _ _, ?_, ?_⟩
  · rw [bundle_modBundle]
    split
    · rfl
    next hb =>
      have ha : s.bundle b = Bundle.absent := by simp [State.bundle, List.getD_eq_getElem?_getD, hb]
      rw [ha]
      rfl
  · rw [bundle_modBundle]
    split <;> rfl

/-- One thread has changed, and nothing else. -/
theorem modThread_threadsStep (s : State) (b l : Nat) (f : Thread → Thread) :
    ThreadsStep b s (s.modThread b l f) (fun k t => if k = l then f t else t) := by
  have e : s.modThread b l f = s.modBundle b (fun x => { x with threads := x.threads.mapIdx (fun k t => if k = l then f t else t) }) := by
    refine (foldl_modThread_mapIdx s b (fun _ => f) (List.nodup_singleton l)).trans ?_
    simp only [List.mem_singleton]
  rw [e]
  exact modBundle_threadsStep s b _

/-- Lanes that `done` completes in turn, where what a view shows of each completion is a change of its thread. -/
theorem foldl_threadsStep {b : Nat} {view : State → State} {done : State → Nat → State} {f : Nat → Thread → Thread} {ls : List Nat}
    (hv : ∀ s l, view (done s l) = (view s).modThread b l (f l)) (hn : ls.Nodup) (ho : ∀ l, l ∉ ls → ∀ t, f l t = t) (s : State) :
    ThreadsStep b (view s) (view (ls.foldl done s)) f := by
  rw [← List.foldl_hom view (g₂ := fun s l => s.modThread b l (f l)) fun s l => (hv s l).symm, foldl_modThread_mapIdx _ _ f hn]
  have hf : (fun l t => if l ∈ ls then f l t else t) = f := by
    funext l t
    split
    · rfl
    next hl => exact (ho l hl t).symm
  rw [hf]
  exact modBundle_threadsStep _ b f

/-- A thread that changes into itself. -/
theorem modThread_self (s : State) (b l : Nat) : s.modThread b l (fun t => t) = s :=
  modBundle_self (congrArg (fun ts => { s.bundle b with threads := ts }) (List.modify_id _ _))

/-- Marks that a word makes on outstanding writes of registers. -/
theorem clashKeys_like (l : Nat) (keys : List Nat) (x : Bundle) : likeLate x (keys.foldl (fun x k => x.clashV l k) x) := by
  induction keys generalizing x with
  | nil => exact ⟨rfl, rfl⟩
  | cons k keys ih => exact likeLate.trans (clashV_late x l k) (ih _)

/-- Marks of races apart, a new frame changes its thread alone (R37, R98). -/
theorem calm_reframe (s : State) (b l : Nat) (f : Thread → Thread) : (s.reframe b l f).calm b = (s.calm b).modThread b l f := by
  simp only [State.calm, State.reframe, State.contest, State.modThread, modBundle_modBundle]
  refine modBundle_congr s b _ _ ?_
  obtain ⟨hl, hf⟩ := clashKeys_like l [4, 5, 6, 7] ((s.bundle b).modThread l f)
  dsimp only [Function.comp_apply]
  rw [hl]
  exact congrArg (fun x : Bundle => { x with late := (s.bundle b).late.map LateOp.plain }) hf

/-! ### Tables by lane -/

/-- No entry has a key that none is named by. -/
theorem lookupKey_none {α : Type} {k : Nat} {rs : List (Nat × α)} (h : k ∉ rs.map (·.1)) : lookupKey k rs = none := by
  induction rs with
  | nil => rfl
  | cons r rs ih =>
    rw [List.map_cons, List.mem_cons, not_or] at h
    obtain ⟨hr, hrs⟩ := h
    rw [lookupKey, if_neg hr, ih hrs]

/-- An engine that serves lanes in turn answers once for each, in their order. -/
theorem foldl_answers {α β : Type} {act : State → α → State × (Nat × β)} {key : α → Nat} (h : ∀ s d, (act s d).2.1 = key d)
    (ds : List α) (s : State) (rs : List (Nat × β)) :
    (ds.foldl (fun acc d => let r := act acc.1 d; (r.1, acc.2 ++ [r.2])) (s, rs)).2.map (·.1) = rs.map (·.1) ++ ds.map key := by
  induction ds generalizing s rs with
  | nil => simp
  | cons d ds ih =>
    rw [List.foldl_cons, ih]
    simp [h]

/-- The lanes of a word of the frame engine, all of which it has served. -/
theorem engineEnd_served {β : Type} {s : State} {rs : List (Nat × EngineEnd × β)} (h : ∀ r ∈ rs, r.2.1 = .ok) (wait : State → State)
    (done : State → Nat → State) : s.engineEnd wait [] (rs.map (fun r => (r.1, r.2.1))) done = (rs.map (·.1)).foldl done s := by
  rw [engineEnd_ok ?ok]
  case ok =>
    intro r hr
    obtain ⟨x, hx, rfl⟩ := List.mem_map.mp hr
    exact h x hx
  simp [Function.comp_def]

/-! ### ENTER -/

/-- What the frame engine answers at `enter` is about its lane. -/
theorem enterAct_lane (b n o : Nat) (s : State) (d : Nat × Frame) : (State.enterAct b n o s d).2.1 = d.1 := by
  unfold State.enterAct
  dsimp only
  split
  · split <;> rfl
  · rfl

/-- The frame engine answers for the lanes of which `enter` makes frames. -/
theorem enterAll_lanes {b n o : Nat} {s m : State} {good : List (Nat × Frame)} {rs : List (Nat × EngineEnd × List (Nat × Reg))}
    (h : State.enterAll b n o s good = (m, rs)) : rs.map (·.1) = good.map (·.1) := by
  have e := foldl_answers (enterAct_lane b n o) good s []
  change (State.enterAll b n o s good).2.map (·.1) = _ at e
  rw [h] at e
  exact e

/-- `enter` makes one frame for a lane. -/
theorem nodup_enterGood (s : State) (n o : Nat) : ((s.enterGood n o).map (·.1)).Nodup := by
  rw [State.enterGood, List.map_filterMap]
  refine List.Nodup.filterMap (fun l k a ha hb => ?_) (List.nodup_range.filter _)
  split at ha
  · cases ha
  · split at hb
    · cases hb
    · cases ha
      cases hb
      rfl

/-- A lane's completion of `enter` (R104). -/
def enterDone (s : State) (n o : Nat) (rs : List (Nat × EngineEnd × List (Nat × Reg))) (u : State) (l : Nat) : State :=
  match lookupKey l (s.enterGood n o), lookupKey l rs with
  | some f, some r => u.reframe s.cur.bundle l (fun t => t.enterOpen n o f r.2 s.cur.pc)
  | _, _ => u

/-- ENTER (R104) of lanes that pass its checks and that the frame engine has served. -/
theorem execEnter_served {s m : State} {o n : BitVec 6} {rs : List (Nat × EngineEnd × List (Nat × Reg))} (hi : s.issues (.enter o n))
    (hc : ∀ l ∈ s.issued, ∃ a, s.enterCheck l n.toNat o.toNat = .inr a)
    (hm : State.enterAll s.cur.bundle n.toNat o.toNat s (s.enterGood n.toNat o.toNat) = (m, rs)) (hok : ∀ r ∈ rs, r.2.1 = .ok) :
    exec (.enter o n) s = .next ((rs.map (·.1)).foldl (enterDone s n.toNat o.toNat rs) m) := by
  refine exec_issues_eq (by rfl) hi ?_
  dsimp only
  rw [hm, List.filterMap_eq_nil_iff.mpr ?traps]
  case traps =>
    intro l hl
    obtain ⟨a, ha⟩ := hc l hl
    rw [ha]
  exact engineEnd_served hok _ _

/-! ### RET -/

/-- What the frame engine answers at a return before `enter` is about its lane. -/
theorem backAct_lane (b : Nat) (s : State) (l : Nat) : (State.backAct b s l).2.1 = l := rfl

/-- The frame engine answers for the lanes that return before `enter`. -/
theorem backAll_lanes {b : Nat} {s m : State} {ls : List Nat} {rs : List (Nat × EngineEnd × List (Nat × Reg))}
    (h : State.backAll b s ls = (m, rs)) : rs.map (·.1) = ls := by
  have e := foldl_answers (backAct_lane b) ls s []
  change (State.backAll b s ls).2.map (·.1) = _ at e
  rw [h] at e
  simpa using e

/-- What the frame engine answers at a return by a header is about its lane. -/
theorem retAct_lane (b : Nat) (s : State) (d : Nat × Frame) : (State.retAct b s d).2.1 = d.1 := by
  unfold State.retAct
  dsimp only
  split <;> rfl

/-- A lane's completion of `ret` before `enter` (R105). -/
def backDone (b : Nat) (rs : List (Nat × EngineEnd × List (Nat × Reg))) (u : State) (l : Nat) : State :=
  match lookupKey l rs with
  | some r => u.modThread b l (fun t => t.retUnentered r.2)
  | none => u

/-- Where no lane exits, a return is over with its frames. -/
theorem exitLanes_nil (s : State) (b : Nat) : (if s.cur.stalled then s else s.exitLanes b []) = s := by
  split <;> rfl

/-- RET (R105) before `enter`, of lanes that the frame engine has served. -/
theorem execRet_unentered {s m : State} {rs : List (Nat × EngineEnd × List (Nat × Reg))} (hi : s.issues .ret)
    (hu : ∀ l ∈ s.issued, (s.curB.thread l).entered = false) (hm : State.backAll s.cur.bundle s s.issued = (m, rs))
    (hok : ∀ r ∈ rs, r.2.1 = .ok) : exec .ret s = .next ((rs.map (·.1)).foldl (backDone s.cur.bundle rs) m) := by
  have hheads : s.issued.filterMap (fun l => (s.retHead s.cur.bundle l).map (fun h => (l, h))) = [] := by
    refine List.filterMap_eq_nil_iff.mpr fun l hl => ?_
    have hl : (s.thread s.cur.bundle l).entered = false := hu l hl
    simp [State.retHead, hl]
  have hplain : s.issued.filter (fun l => !(s.thread s.cur.bundle l).entered) = s.issued :=
    List.filter_eq_self.mpr fun l hl => by
      have hl : (s.thread s.cur.bundle l).entered = false := hu l hl
      simp [hl]
  refine exec_issues_eq (by rfl) hi ?_
  dsimp only
  rw [hheads, hplain, hm]
  refine (exitLanes_nil _ _).trans ?_
  refine (congrArg (fun es => State.engineEnd m State.stall [] es _) (List.append_nil _)).trans ?_
  refine (engineEnd_served hok _ _).trans (congrArg (fun done => (rs.map (·.1)).foldl done m) ?_)
  funext u l
  unfold backDone
  rw [if_neg (by simp)]
  cases lookupKey l rs <;> rfl

/-- RET (R105) of one entered lane that the frame engine has served. -/
theorem execRet_entered {s : State} {l : Nat} {h : Frame} (hi : s.issues .ret) (hl : s.issued = [l])
    (hh : s.retHead s.cur.bundle l = some h) (hr : h.rpc ≠ 0) (hok : (State.retAct s.cur.bundle s (l, h)).2.2.1 = .ok) :
    exec .ret s = .next ((State.retAct s.cur.bundle s (l, h)).1.reframe s.cur.bundle l (fun t =>
      { t.retEntered h (State.retAct s.cur.bundle s (l, h)).2.2.2.1 with marktop := (State.retAct s.cur.bundle s (l, h)).2.2.2.2 })) := by
  have hheads : s.issued.filterMap (fun l => (s.retHead s.cur.bundle l).map (fun h => (l, h))) = [(l, h)] := by
    simp [hl, hh]
  have he : (s.thread s.cur.bundle l).entered = true := by
    by_contra he
    simp [State.retHead, he] at hh
  have hplain : s.issued.filter (fun l => !(s.thread s.cur.bundle l).entered) = [] := by
    simp [hl, he]
  have hdeep : [(l, h)].filter (fun h => h.2.rpc != 0) = [(l, h)] := List.filter_eq_self.mpr (by simpa using hr)
  have hexits : [(l, h)].filter (fun h => h.2.rpc == 0) = [] := List.filter_eq_nil_iff.mpr (by simpa using hr)
  have hback : State.backAll s.cur.bundle s [] = (s, []) := rfl
  have hret : State.retAll s.cur.bundle s [(l, h)] =
    ((State.retAct s.cur.bundle s (l, h)).1, [(State.retAct s.cur.bundle s (l, h)).2]) := rfl
  have hk := retAct_lane s.cur.bundle s (l, h)
  refine exec_issues_eq (by rfl) hi ?_
  dsimp only
  rw [hheads, hplain, hdeep, hexits, hback]
  dsimp only
  rw [hret]
  generalize State.retAct s.cur.bundle s (l, h) = a at hok hk ⊢
  obtain ⟨m, k, e, filled, top⟩ := a
  subst hok hk
  refine (exitLanes_nil _ _).trans ?_
  refine (engineEnd_ok (by simp) _ _).trans ?_
  simp [lookupKey]

end Sys2Proof.Laws
end

section
/-! The end of threads (R85, R105): a fence of lanes that have nothing outstanding, and barriers of which no generation is open. -/
namespace Sys2Proof.Laws
open Sys2Proof.Machine Sys2Proof.Claims

/-! ### What is kept of the order of accesses -/

/-- A thread without what it keeps of the order of accesses. -/
def bareThread (t : Thread) : Thread := { t with recent := [], acq := [] }

/-- A bundle without what it keeps of the order of accesses. -/
def bareBundle (x : Bundle) : Bundle :=
  { x with threads := x.threads.map bareThread, late := x.late.map (fun o => { o with loads := [] }) }

/-- A state is bare where its bundles are. -/
theorem bare_eq (s : State) : s.bare = { s with outside := [], bundles := s.bundles.map bareBundle } := rfl

/-- The bundles of a bare state. -/
theorem bundle_bare (s : State) (b : Nat) : s.bare.bundle b = bareBundle (s.bundle b) := by
  simp only [bare_eq, State.bundle, List.getD_eq_getElem?_getD, List.getElem?_map]
  cases s.bundles[b]? <;> rfl

/-- The threads of a bare state. -/
theorem thread_bare (s : State) (b l : Nat) : s.bare.thread b l = bareThread (s.thread b l) := by
  unfold State.thread
  rw [bundle_bare]
  simp only [bareBundle, Bundle.thread, List.getD_eq_getElem?_getD, List.getElem?_map]
  cases (s.bundle b).threads[l]? <;> rfl

/-- States that are alike but for the order of accesses have the same outstanding stores and fences. -/
theorem out_of_bare {s u : State} (h : u.bare = s.bare) (b l : Nat) : (u.thread b l).out = (s.thread b l).out := by
  have h := congrArg (fun v : State => (v.thread b l).out) h
  simpa [thread_bare, bareThread] using h

/-- A view of a list's elements that a change of one does not touch. -/
theorem map_modify_of_eq {α β : Type} {g : α → β} {f : α → α} (h : ∀ x, g (f x) = g x) (i : Nat) (xs : List α) :
    (xs.modify i f).map g = xs.map g := by
  refine List.ext_getElem (by simp) fun k _ _ => ?_
  simp only [List.getElem_map, List.getElem_modify]
  split
  · exact h _
  · rfl

/-- A change that keeps the bundle but for the order of accesses. -/
theorem bare_modBundle {f : Bundle → Bundle} (h : ∀ x, bareBundle (f x) = bareBundle x) (s : State) (b : Nat) :
    (s.modBundle b f).bare = s.bare :=
  congrArg (fun bs => { s with outside := [], bundles := bs }) (map_modify_of_eq h b s.bundles)

/-- A change that keeps the thread but for the order of accesses. -/
theorem bare_modThread {f : Thread → Thread} (h : ∀ t, bareThread (f t) = bareThread t) (s : State) (b l : Nat) :
    (s.modThread b l f).bare = s.bare :=
  bare_modBundle (fun x => congrArg (fun ts => { bareBundle x with threads := ts }) (map_modify_of_eq h l x.threads)) s b

/-- A change that does not look at the order of accesses. -/
theorem bare_modBundle_comm {f : Bundle → Bundle} (h : ∀ x, bareBundle (f x) = f (bareBundle x)) (s : State) (b : Nat) :
    (s.modBundle b f).bare = s.bare.modBundle b f := by
  have e : (s.bundles.modify b f).map bareBundle = (s.bundles.map bareBundle).modify b f := by
    refine List.ext_getElem (by simp) fun k _ _ => ?_
    simp only [List.getElem_map, List.getElem_modify]
    split
    · exact h _
    · rfl
  exact congrArg (fun bs => { s with outside := [], bundles := bs }) e

/-- Steps that keep the state but for the order of accesses. -/
theorem bare_foldl {α : Type} {s : State} {f : State → α → State} {xs : List α}
    (h : ∀ u : State, u.bare = s.bare → ∀ x ∈ xs, (f u x).bare = s.bare) {u : State} (hu : u.bare = s.bare) : (xs.foldl f u).bare = s.bare :=
  List.foldlRecOn xs f (motive := fun v : State => v.bare = s.bare) hu h

/-- Loads that take their values. -/
theorem bare_bindLoads (s : State) (b l : Nat) (test : LateLoad → Bool) : (s.bindLoads b l test).bare = s.bare := by
  unfold State.bindLoads
  split
  · rfl
  · exact bare_modBundle (fun x => by simp [bareBundle]) s b

/-- An acquire. -/
theorem bare_acquireThread (s : State) (b l : Nat) (set : BitVec 16) : (s.acquireThread b l set).bare = s.bare :=
  (bare_modThread (f := fun t => t.acquireAt s.ticks set) (fun _ => rfl) _ b l).trans (bare_bindLoads s b l _)

/-- A release. -/
theorem bare_releaseTouches (s : State) (b l : Nat) (early late : BitVec 16) : (s.releaseTouches b l early late).bare = s.bare := by
  unfold State.releaseTouches
  split
  · rfl
  · exact bare_modThread (f := fun t => { t with recent := t.recent.map (Touch.releasedAt s.ticks early late) }) (fun _ => rfl) s b l

/-! ### Nothing outstanding -/

/-- No store is performed where the test selects none (R157). -/
theorem chooseStores_none {test : PStore → Bool} {ps : List Pending} (h : ∀ x, Pending.store x ∈ ps → test x = false) (rest : List Pending) :
    (chooseStores test ps ([], rest)).1 = [] := by
  induction ps generalizing rest with
  | nil => rfl
  | cons p ps ih =>
    have ih := ih fun x hx => h x (List.mem_cons_of_mem p hx)
    cases p with
    | fence f => exact ih _
    | store x =>
      rw [chooseStores, h x List.mem_cons_self]
      exact ih _

/-- Where the test selects no store of a thread, none is performed. -/
theorem performStores_none {s : State} {b l : Nat} {test : PStore → Bool} (h : ∀ x ∈ (s.thread b l).stores, test x = false) :
    s.performStores b l test = s := by
  have hno (x : PStore) (hx : Pending.store x ∈ (s.thread b l).out.reverse) : test x = false :=
    h x (List.mem_filterMap.mpr ⟨.store x, List.mem_reverse.mp hx, rfl⟩)
  exact if_pos (by rw [chooseStores_none hno]; rfl)

/-- A bundle that sees no outstanding store waits for none (R158). -/
theorem performSeen_none {s : State} (h : s.unshown) (test : PStore → Bool) : s.performSeen s.cur.bundle test = s := by
  unfold State.performSeen
  refine List.foldl_fixed' (fun b => ?_) _
  refine List.foldl_fixed' (fun l => ?_) _
  split
  · rfl
  · exact performStores_none fun x hx => by rw [h b l x hx]; rfl

/-- A thread of which no store is outstanding performs none. -/
theorem bare_drainThread {s : State} {b l : Nat} (h : (s.thread b l).out = []) : (s.drainThread b l).bare = s.bare := by
  unfold State.drainThread
  rw [performStores_none fun x hx => by simp [Thread.stores, h] at hx]
  exact (bare_releaseTouches _ b l _ _).trans (bare_bindLoads s b l _)

/-- No line of a team whose lines are as their homes is written back. -/
theorem cleanTeam_clean {s : State} {t : Nat} (h : ∀ w ∈ (s.team t).windows, ∀ l ∈ w.lines, l.st = .clean ∨ l.st = .filling) :
    s.cleanTeam t = s := by
  unfold State.cleanTeam State.forLines
  rw [List.flatMap_eq_nil_iff.mpr fun w hw => ?lines]
  · rfl
  case lines =>
    rw [List.map_eq_nil_iff, List.filter_eq_nil_iff]
    intro l hl
    rcases h w hw l hl with h | h <;> simp [Line.unsaved, h]

/-- A fence of lanes that have nothing outstanding keeps the state but for the order of accesses (R152, R159). -/
theorem bare_fenceNow {s : State} {ls : List Nat} (ho : ∀ l ∈ ls, (s.thread s.cur.bundle l).out = []) (hu : s.unshown) (hc : s.linesClean)
    (wide : Bool) : (s.fenceNow s.cur.bundle ls wide).bare = s.bare := by
  have hd : (s.drainLanes s.cur.bundle ls).bare = s.bare := by
    unfold State.drainLanes
    rw [performSeen_none hu]
    exact bare_foldl (fun u h l hl => (bare_drainThread ((out_of_bare h _ l).trans (ho l hl))).trans h) rfl
  have ha : (ls.foldl (fun s' l => s'.acquireThread s.cur.bundle l 0xFFFF) (s.drainLanes s.cur.bundle ls)).bare = s.bare :=
    bare_foldl (fun u h l _ => (bare_acquireThread u _ l _).trans h) hd
  unfold State.fenceNow
  generalize ls.foldl (fun s' l => s'.acquireThread s.cur.bundle l 0xFFFF) (s.drainLanes s.cur.bundle ls) = v at ha
  dsimp only
  cases ht : (v.bundle s.cur.bundle).team with
  | none => exact ha
  | some t =>
    have hteam : s.curB.team = some t := by
      have e := congrArg (fun u : State => (u.bundle s.cur.bundle).team) ha
      simp only [bundle_bare] at e
      exact e.symm.trans ht
    have hw : (v.team t).windows = (s.team t).windows := by
      have e := congrArg (fun u : State => (u.team t).windows) ha
      exact e
    dsimp only
    rw [cleanTeam_clean fun w hm => hc t hteam w (hw ▸ hm)]
    split <;> exact ha

/-! ### Barriers of which no generation is open -/

/-- What barriers read of a bundle. -/
def barPart (x : Bundle) : Option Nat × List Barrier × List (BitVec 24) := (x.team, x.lbars, x.threads.map (·.arrived))

/-- What barriers read: teams, packs and launches, and of each bundle its team, its own barriers and where its threads have arrived. -/
structure SameBars (s u : State) : Prop where
  teams : u.teams = s.teams
  packs : u.packs = s.packs
  launches : u.launches = s.launches
  bundles : u.bundles.map barPart = s.bundles.map barPart

section
variable {s u : State}

theorem SameBars.trans {v : State} (h : SameBars s u) (g : SameBars u v) : SameBars s v :=
  ⟨g.teams.trans h.teams, g.packs.trans h.packs, g.launches.trans h.launches, g.bundles.trans h.bundles⟩

theorem SameBars.symm (h : SameBars s u) : SameBars u s := ⟨h.teams.symm, h.packs.symm, h.launches.symm, h.bundles.symm⟩

/-- What barriers read of one bundle. -/
theorem SameBars.part (h : SameBars s u) (b : Nat) : barPart (u.bundle b) = barPart (s.bundle b) := by
  have e (v : State) : barPart (v.bundle b) = (v.bundles.map barPart).getD b (barPart Bundle.absent) := by
    simp [State.bundle, List.getD_eq_getElem?_getD, Option.getD_map]
  rw [e, e, h.bundles]

theorem SameBars.team (h : SameBars s u) (b : Nat) : (u.bundle b).team = (s.bundle b).team := congrArg (·.1) (h.part b)

theorem SameBars.lbars (h : SameBars s u) (b : Nat) : (u.bundle b).lbars = (s.bundle b).lbars := congrArg (·.2.1) (h.part b)

theorem SameBars.width (h : SameBars s u) (b : Nat) : (u.bundle b).threads.length = (s.bundle b).threads.length := by
  simpa [barPart] using congrArg (fun p => p.2.2.length) (h.part b)

theorem SameBars.arrived (h : SameBars s u) (b l : Nat) : (u.thread b l).arrived = (s.thread b l).arrived := by
  have e (v : State) : (v.thread b l).arrived = (barPart (v.bundle b)).2.2.getD l Thread.absent.arrived := by
    simp [State.thread, Bundle.thread, barPart, List.getD_eq_getElem?_getD, Option.getD_map]
  rw [e, e, h.part]

theorem SameBars.barTeams (h : SameBars s u) (r : BarRef) : u.barTeams r = s.barTeams r := by
  cases r with
  | team t n => rfl
  | lane b k => simp only [State.barTeams, h.team]
  | pack p n i => simp [State.barTeams, State.pack, State.launch, State.teamLaunch, State.team, h.teams, h.packs, h.launches]

theorem SameBars.bar (h : SameBars s u) (r : BarRef) : u.bar r = s.bar r := by
  cases r <;> simp only [State.bar, State.team, State.pack, h.teams, h.packs, h.lbars, h.width, h.barTeams]

theorem SameBars.bundleLaunch (h : SameBars s u) (b : Nat) : u.bundleLaunch b = s.bundleLaunch b := by
  simp only [State.bundleLaunch, State.teamLaunch, State.launch, State.team, h.team, h.teams, h.launches]

theorem SameBars.levelBar (h : SameBars s u) (b k : Nat) : u.levelBar b k = s.levelBar b k := by
  simp only [State.levelBar, State.team, h.team, h.teams, h.bundleLaunch]

theorem SameBars.barsOf (h : SameBars s u) (b : Nat) : u.barsOf b = s.barsOf b := by
  simp only [State.barsOf, State.team, h.team, h.teams, h.bundleLaunch, h.levelBar]

theorem SameBars.idle (h : SameBars s u) {r : BarRef} (hr : barIdle s r) : barIdle u r := by
  obtain ⟨hc, ha⟩ := hr
  exact ⟨by rw [h.bar, hc], fun b l => by rw [h.arrived, ha]⟩

end

/-- The order of accesses is nothing that barriers read. -/
theorem sameBars_bare (s : State) : SameBars s s.bare :=
  ⟨rfl, rfl, rfl, by simp [bare_eq, barPart, bareBundle, bareThread, Function.comp_def]⟩

/-- No thread of a team has arrived at an idle barrier. -/
theorem teamThreads_idle {s : State} {r : BarRef} (h : barIdle s r) {t : Nat} {x : Thread} (hx : x ∈ s.teamThreads t) :
    x.arrived.getLsbD r.bit = false := by
  obtain ⟨y, hy, hx⟩ := List.mem_flatMap.mp hx
  obtain ⟨b, hb, rfl⟩ := List.getElem_of_mem (List.mem_filter.mp hy).1
  obtain ⟨l, hl, rfl⟩ := List.getElem_of_mem hx
  obtain ⟨-, ha⟩ := h
  simpa [State.thread, State.bundle, Bundle.thread, List.getD_eq_getElem?_getD, hb, hl] using ha b l

/-- An idle barrier neither counts a team nor completes (R221, R225). -/
theorem settleBar_idle {s : State} {r : BarRef} (h : barIdle s r) (pc : DWord) : s.settleBar r pc = s := by
  have hstage (t : Nat) : s.teamStage t r.bit = false := by
    rw [State.teamStage, List.any_eq_false.mpr fun x hx => by simp [teamThreads_idle h hx]]
    rfl
  have hs : s.stageTeams r = s := by
    unfold State.stageTeams
    split
    · exact List.foldl_fixed' (fun t => by simp [hstage]) _
    · rfl
  obtain ⟨hc, -⟩ := h
  unfold State.settleBar
  rw [hs]
  exact if_neg (by simp [State.barComplete, hc])

/-- Where the barriers that count a bundle's threads are idle, none completes. -/
theorem settleBars_idle {s : State} {b : Nat} (h : ∀ r ∈ s.barsOf b, barIdle s r) : s.settleBars b = s :=
  List.foldlRecOn (s.barsOf b) _ (motive := fun u => u = s) rfl fun u hu r hr => by subst hu; exact settleBar_idle (h r hr) _

/-! ### EXIT -/

/-- A thread at its end (R85, R105). -/
def ended (t : Thread) : Thread := { t with st := .exited, pwait := none, marktop := 0 }

/-- Threads that end. -/
def endLanes (ls : List Nat) (x : Bundle) : Bundle := { x with threads := x.threads.mapIdx (fun l t => if l ∈ ls then ended t else t) }

/-- The end of threads does not look at the order of accesses. -/
theorem bareBundle_endLanes (ls : List Nat) (x : Bundle) : bareBundle (endLanes ls x) = endLanes ls (bareBundle x) := by
  have e : (x.threads.mapIdx (fun l t => if l ∈ ls then ended t else t)).map bareThread =
      (x.threads.map bareThread).mapIdx (fun l t => if l ∈ ls then ended t else t) := by
    refine List.ext_getElem (by simp) fun l _ _ => ?_
    simp only [List.getElem_map, List.getElem_mapIdx]
    split <;> rfl
  exact congrArg (fun ts => { bareBundle x with threads := ts }) e

/-- The end of threads is nothing that barriers read but by their count. -/
theorem sameBars_endLanes (s : State) (b : Nat) (ls : List Nat) : SameBars s (s.modBundle b (endLanes ls)) := by
  refine ⟨rfl, rfl, rfl, map_modify_of_eq (fun x => ?_) b s.bundles⟩
  have e : (x.threads.mapIdx (fun l t => if l ∈ ls then ended t else t)).map (·.arrived) = x.threads.map (·.arrived) := by
    refine List.ext_getElem (by simp) fun l _ _ => ?_
    simp only [List.getElem_map, List.getElem_mapIdx]
    split <;> rfl
  exact congrArg (fun as => (x.team, x.lbars, as)) e

/-- Lanes that end with nothing outstanding, where no barrier of theirs is open (R105). -/
theorem bare_exitLanes {s : State} {ls : List Nat} (hn : ls.Nodup) (ho : ∀ l ∈ ls, (s.thread s.cur.bundle l).out = []) (hu : s.unshown)
    (hc : s.linesClean) (hi : ∀ r ∈ s.barsOf s.cur.bundle, barIdle s r) :
    (s.exitLanes s.cur.bundle ls).bare = s.bare.modBundle s.cur.bundle (endLanes ls) := by
  unfold State.exitLanes
  split
  next he =>
    rw [List.isEmpty_iff.mp he]
    refine (modBundle_self ?_).symm
    simp only [endLanes, List.not_mem_nil, if_false]
    exact congrArg (fun ts => { s.bare.bundle s.cur.bundle with threads := ts }) (mapIdx_id _)
  · have hb := bare_fenceNow ho hu hc true
    dsimp only
    generalize s.fenceNow s.cur.bundle ls true = v at hb
    change (State.settleBars (ls.foldl (fun u l => u.modThread s.cur.bundle l ended) v) s.cur.bundle).bare = _
    rw [foldl_modThread_mapIdx v s.cur.bundle (fun _ => ended) hn]
    change ((v.modBundle s.cur.bundle (endLanes ls)).settleBars s.cur.bundle).bare = _
    have hv : SameBars s (v.modBundle s.cur.bundle (endLanes ls)) :=
      ((hb ▸ sameBars_bare s : SameBars s v.bare).trans (sameBars_bare v).symm).trans (sameBars_endLanes v _ ls)
    rw [settleBars_idle fun r hr => hv.idle (hi r (hv.barsOf _ ▸ hr)), bare_modBundle_comm (bareBundle_endLanes ls), hb]

/-- EXIT (R105) of threads that have nothing outstanding, where no barrier of theirs is open. -/
theorem execExit_step {s : State} (hi : s.issues .exit) (ho : ∀ l ∈ s.issued, (s.curB.thread l).out = []) (hu : s.unshown)
    (hc : s.linesClean) (hr : ∀ r ∈ s.barsOf s.cur.bundle, barIdle s r) :
    ∃ t, exec .exit s = .next t ∧ LaneStep s.bare t.bare (fun _ => ended) := by
  refine ⟨_, exec_issues (by rfl) hi, ?_⟩
  have hn : s.issued.Nodup := List.nodup_range.filter _
  rw [bare_exitLanes hn ho hu hc hr]
  have hlen : s.bare.curB.threads.length = s.curB.threads.length :=
    (sameBars_bare s).width s.cur.bundle
  refine mapLanes_laneStep (s := s.bare) fun l hl => ?_
  have hm : l ∈ s.issued ↔ s.bare.cur.lanes.getLsbD l = true := by
    rw [mem_issued]
    exact and_iff_right (hlen ▸ hl)
  simp only [hm]

end Sys2Proof.Laws

namespace Sys2Proof.Claims
open Sys2Proof.Machine

/-- Settles O9: each word of a frame completes as the frame engine has served it, and `exit` leaves its barriers as they are. -/
theorem frames : Obligations.Frames := by
  refine ⟨?_, ?_, ?_, ?_⟩
  case refine_1 =>
    intro s m rs o n hi hc hm hok
    refine ⟨_, Laws.execEnter_served hi hc hm hok, ?_⟩
    refine Laws.foldl_threadsStep (view := fun u => u.calm s.cur.bundle) (fun u l => ?_) ?_ (fun l hl t => ?_) m
    · unfold Laws.enterDone
      cases lookupKey l (s.enterGood n.toNat o.toNat) with
      | none => exact (Laws.modThread_self _ _ _).symm
      | some f =>
        cases lookupKey l rs with
        | none => exact (Laws.modThread_self _ _ _).symm
        | some r => exact Laws.calm_reframe u _ l _
    · rw [Laws.enterAll_lanes hm]
      exact Laws.nodup_enterGood s _ _
    · rw [Laws.lookupKey_none hl]
      cases lookupKey l (s.enterGood n.toNat o.toNat) <;> rfl
  case refine_2 =>
    intro s m rs hi hu hm hok
    refine ⟨_, Laws.execRet_unentered hi hu hm hok, ?_⟩
    refine Laws.foldl_threadsStep (view := fun u => u) (fun u l => ?_) ?_ (fun l hl t => ?_) m
    · unfold Laws.backDone
      cases lookupKey l rs with
      | none => exact (Laws.modThread_self _ _ _).symm
      | some r => rfl
    · rw [Laws.backAll_lanes hm]
      exact List.nodup_range.filter _
    · rw [Laws.lookupKey_none hl]
  case refine_3 =>
    intro s l h hi hl hh hr hok
    refine ⟨_, Laws.execRet_entered hi hl hh hr hok, ?_⟩
    rw [Laws.calm_reframe]
    exact Laws.modThread_threadsStep _ _ _ _
  case refine_4 =>
    intro s hi ho hu hc hr
    exact Laws.execExit_step hi ho hu hc hr

end Sys2Proof.Claims
end

section
/-! Integer and floating-point words on lanes (R115 to R144), and the words across lanes (R106, R108, R109, R111, R126). -/
namespace Sys2Proof.Laws
open Sys2Proof.Machine Sys2Proof.Claims

/-- The word of a row: what `laneWord` makes of its operands and values. -/
def rowWord (r : LaneRow) (s : State) : State := s.laneWord r.op r.long r.val

/-- A word at issue that is the word of its row does what the row says, where no check stops a lane. -/
theorem rowWord_step {s : State} {i : Instr} {f : State → State} {r : LaneRow} (hi : s.issues i) (he : exec i s = s.word i f)
    (hf : f s = rowWord r s) (hp : s.lanesPass r.op) : ∃ t, exec i s = .next t ∧ r.done s t :=
  ⟨_, exec_issues_eq he hi hf, laneWord_done hp⟩

/-- A state is the one of its row where it is the one of each of the row's two forms. -/
theorem rowWord_forms {s x : State} {c : Prop} [Decidable c] {p q r : LaneRow} (h : (if c then some p else some q) = some r)
    (hp : c → x = rowWord p s) (hq : ¬ c → x = rowWord q s) : x = rowWord r s := by
  split at h <;> cases h
  next hc => exact hp hc
  next hc => exact hq hc

/-- A word of two forms, each with its row. -/
theorem rowWord_ite {s x y : State} {c : Prop} [Decidable c] {p q r : LaneRow} (h : (if c then some p else some q) = some r)
    (hx : x = rowWord p s) (hy : y = rowWord q s) : (if c then x else y) = rowWord r s :=
  rowWord_forms h (fun hc => (if_pos hc).trans hx) (fun hc => (if_neg hc).trans hy)

/-- The high word of a product, signed or unsigned (R117). -/
theorem mulHigh_ite (u : Bool) (a b : Word) :
    mulHigh u a b = if u then BitVec.ofInt 32 ((a.toNat * b.toNat : Int) / 2 ^ 32) else BitVec.ofInt 32 (a.toInt * b.toInt / 2 ^ 32) := by
  cases u <;> rfl

/-- The row of an integer word is what the word does. -/
theorem integerRow_exec {s : State} {i : Instr} {r : LaneRow} (h : integerRow s i = some r) :
    ∃ f : State → State, exec i s = s.word i f ∧ f s = rowWord r s := by
  unfold integerRow at h
  split at h
  -- add, sub, mul, mad, minmax, absneg (a row of 32 bits and a row of 64 bits), logic (a row of one source and a row of two)
  case h_1 | h_2 | h_4 | h_6 | h_9 | h_10 | h_11 =>
    refine ⟨_, by rfl, ?_⟩
    exact rowWord_ite h rfl rfl
  -- mulh
  case h_5 =>
    cases h
    refine ⟨_, by rfl, ?_⟩
    simp only [mulHigh_ite]
    rfl
  -- shift, mov: the width chooses among the operands of the one word
  case h_12 | h_16 =>
    refine ⟨_, by rfl, rowWord_forms h (fun hf => ?_) (fun hf => ?_)⟩
    · simp only [hf, decide_true]
      rfl
    · simp only [hf, decide_false]
      rfl
  case h_21 => cases h
  -- the other words have one row each
  all_goals
    cases h
    refine ⟨_, by rfl, ?_⟩
    rfl

/-- The row of a floating-point word is what the word does. -/
theorem floatRow_exec {s : State} {i : Instr} {r : LaneRow} (h : floatRow s i = some r) :
    ∃ f : State → State, exec i s = s.word i f ∧ f s = rowWord r s := by
  unfold floatRow at h
  split at h
  -- fabsneg
  case h_7 =>
    refine ⟨_, by rfl, ?_⟩
    exact rowWord_ite h rfl rfl
  case h_18 => cases h
  -- the other words have one row each
  all_goals
    cases h
    refine ⟨_, by rfl, ?_⟩
    rfl

/-! ### Words across lanes -/

/-- SEL (R126): the word of its row, on a state in which every issued lane is active. -/
theorem execSel_done {s : State} {d a b : BitVec 6} {f : BitVec 3} {h : BitVec 2} (hi : s.issues (.sel d a b f h))
    (hp : (unmasked s).lanesPass (selectRow s d a b (f == 1)).op) :
    ∃ t, exec (.sel d a b f h) s = .next { t with cur := s.cur } ∧ (selectRow s d a b (f == 1)).done (unmasked s) t := by
  refine ⟨rowWord (selectRow s d a b (f == 1)) (unmasked s), ?_, laneWord_done hp⟩
  refine exec_issues_eq (by rfl) hi ?_
  cases hf : f == 1 <;> rfl

/-- MOVS (R111): the uniform register, whose check has passed, in each active lane. -/
theorem execMovs_done {s : State} {d a : BitVec 6} {h : BitVec 1} (hi : s.issues (.movs d a h))
    (hu : s.uniTrap [⟨a.toNat, 1, .any⟩] = none) (hp : s.lanesPass (broadcastRow s d a).op) :
    ∃ t, exec (.movs d a h) s = .next t ∧ (broadcastRow s d a).done s t := by
  refine rowWord_step hi (by rfl) ?_ hp
  have hs : s.uniTrap [src a false .any] = none := hu
  simp only [hs]
  rfl

/-- One result. -/
theorem putN_one (r : Nat) (v : Reg) : putN r [v] = [(r, v)] := rfl

/-- SHFL (R106). -/
theorem execShfl_done {s : State} {d a b : BitVec 6} {f : BitVec 3} {h : BitVec 2} (hi : s.issues (.shfl d a b f h))
    (hp : s.lanesPass (shuffleRow s d a b f).op) : ∃ t, exec (.shfl d a b f h) s = .next t ∧ (shuffleRow s d a b f).done s t := by
  refine rowWord_step hi (by rfl) ?_ hp
  simp only [putN_one]
  rfl

/-- A state in which a reduction without an active lane has set BSTAT.EMPTY (R88). -/
def emptied (s : State) : State := if s.issued.any s.isActive then s else s.setEmpty

/-- BSTAT.EMPTY set is one bit of the bundle, where there is one. -/
theorem setEmpty_curB (s : State) : ∃ e : Bool, s.setEmpty.curB = { s.curB with bempty := e } := by
  by_cases hb : s.cur.bundle < s.bundles.length
  · exact ⟨true, curB_modBundle s _ hb⟩
  · exact ⟨s.curB.bempty, by rw [State.setEmpty, modBundle_absent s _ _ hb]⟩

/-- BSTAT.EMPTY set leaves the issued set. -/
theorem setEmpty_issued (s : State) : s.setEmpty.issued = s.issued := by
  obtain ⟨e, he⟩ := setEmpty_curB s
  rw [State.issued, State.issued, he]
  rfl

/-- BSTAT.EMPTY set leaves the active lanes. -/
theorem setEmpty_isActive (s : State) (l : Nat) : s.setEmpty.isActive l = s.isActive l := by
  obtain ⟨e, he⟩ := setEmpty_curB s
  rw [State.isActive, State.isActive, State.activeMask, State.activeMask, he]
  rfl

/-- Where no lane is active none can fail a check, and BSTAT.EMPTY set makes none active. -/
theorem lanesPass_setEmpty {s : State} (h : ∀ l ∈ s.issued, s.isActive l = false) (o : LaneOp) : s.setEmpty.lanesPass o := by
  intro l hl ha
  rw [setEmpty_issued] at hl
  rw [setEmpty_isActive, h l hl] at ha
  exact absurd ha Bool.false_ne_true

/-- A reduction that is the word of its row on the state that `emptied` gives. -/
theorem emptied_done {s : State} {i : Instr} {f : State → State} {r : LaneRow} (hi : s.issues i) (he : exec i s = s.word i f)
    (hf : f s = rowWord r (emptied s)) (hp : s.lanesPass r.op) :
    ∃ t, exec i s = .next t ∧ ((∃ l ∈ s.issued, s.isActive l = true) → r.done s t) ∧
      ((∀ l ∈ s.issued, s.isActive l = false) → r.done s.setEmpty t) := by
  refine ⟨_, exec_issues_eq he hi hf, fun hact => ?_, fun hnone => ?_⟩
  · have ha : s.issued.any s.isActive = true := List.any_eq_true.mpr hact
    rw [emptied, if_pos ha]
    exact laneWord_done hp
  · have ha : ¬ s.issued.any s.isActive = true := by simpa using hnone
    rw [emptied, if_neg ha]
    exact laneWord_done (lanesPass_setEmpty hnone _)

/-- RED (R108). -/
theorem execRed_emptied (d a : BitVec 6) (f : BitVec 3) (h : BitVec 1) (s : State) :
    ∃ g : State → State, exec (.red d a f h) s = s.word (.red d a f h) g ∧ g s = rowWord (reduceRow s d a f) (emptied s) :=
  ⟨_, by rfl, by rfl⟩

/-- SCAN (R109). -/
theorem execScan_emptied (d a : BitVec 6) (f : BitVec 3) (h : BitVec 1) (s : State) :
    ∃ g : State → State, exec (.scan d a f h) s = s.word (.scan d a f h) g ∧ g s = rowWord (scanRow s d a f) (emptied s) :=
  ⟨_, by rfl, by rfl⟩

end Sys2Proof.Laws

namespace Sys2Proof.Claims
open Sys2Proof.Machine

/-- Settles O1: each word is the word of its row. -/
theorem integerLanes : Obligations.IntegerLanes := by
  intro s i r hr hi hp
  obtain ⟨f, he, hf⟩ := Laws.integerRow_exec hr
  exact Laws.rowWord_step hi he hf hp

/-- Settles O2: each word is the word of its row. -/
theorem floatLanes : Obligations.FloatLanes := by
  intro s i r hr hi hp
  obtain ⟨f, he, hf⟩ := Laws.floatRow_exec hr
  exact Laws.rowWord_step hi he hf hp

/-- Settles O3: `sel` sees every issued lane as active, and a reduction without an active lane first sets BSTAT.EMPTY. -/
theorem laneExchange : Obligations.LaneExchange := by
  refine ⟨?sel, ?movs, ?shfl, ?reductions⟩
  case sel => exact fun s d a b f h hi hp => Laws.execSel_done hi hp
  case movs => exact fun s d a h hi hu hp => Laws.execMovs_done hi hu hp
  case shfl => exact fun s d a b f h hi hp => Laws.execShfl_done hi hp
  case reductions =>
    rintro s _ _ ⟨d, a, f, h, ⟨rfl, rfl⟩ | ⟨rfl, rfl⟩⟩ hi hp
    · obtain ⟨g, he, hg⟩ := Laws.execRed_emptied d a f h s
      exact Laws.emptied_done hi he hg hp
    · obtain ⟨g, he, hg⟩ := Laws.execScan_emptied d a f h s
      exact Laws.emptied_done hi he hg hp

end Sys2Proof.Claims
end

section
/-! Accesses at home (R241) of bytes that no stash line holds, and the accesses of agents outside the partitions (R148, R402, R408). -/
namespace Sys2Proof.Laws
open Sys2Proof.Machine Sys2Proof.Claims

/-! ### Bytes at home -/

/-- No stash line holds a copy of the line (R239). -/
theorem holders_unheld {s : State} {off : Nat} (h : unheld s off) (skip : Nat → Window → Bool) : s.holders off skip = [] := by
  refine List.flatMap_eq_nil_iff.mpr fun t ht => List.flatMap_eq_nil_iff.mpr fun w hw => ?_
  rw [List.map_eq_nil_iff, List.filter_eq_nil_iff]
  intro l hl
  have ht : s.team t ∈ s.teams := by
    have ht : t < s.teams.length := List.mem_range.mp ht
    simp [State.team, List.getD_eq_getElem?_getD, ht]
  rcases h _ ht w (List.mem_filter.mp hw).1 l hl with h | h <;> simp [h]

/-- A line that no stash line holds is recalled from none (R241). -/
theorem recall_unheld {s : State} {off : Nat} (h : unheld s off) (store : Bool) (except : Option (Nat × Nat)) :
    s.recall off store except = (s, false) := by
  simp [State.recall, State.recallBy, holders_unheld h]

/-- An outside load of such a line reads its bytes at home, and changes nothing. -/
theorem outsideRead_unheld {s : State} {off : Nat} (h : unheld s off) (ver : Option Nat) (n : Nat) :
    s.outsideRead ver off n = (s, s.homeBytes ver off n) := by
  rw [State.outsideRead, recall_unheld h]

/-- An outside store of such a line changes its bytes at home. -/
theorem outsideWrite_unheld {s : State} {off : Nat} (h : unheld s off) (ver : Option Nat) (bs : List Byte) :
    s.outsideWrite ver off bs = s.homeWrite ver off bs := by
  rw [State.outsideWrite, recall_unheld h]

/-- A write of committed memory at home. -/
theorem homeWrite_none (s : State) (off : Nat) (bs : List Byte) : s.homeWrite none off bs = s.memWrite off bs := rfl

/-- A write of bytes of main memory. -/
theorem memWrite_inside {s : State} {off : Nat} {bs : List Byte} (h : off + bs.length ≤ lpddrEnd) :
    s.memWrite off bs = { s with
      mem := s.mem.writeBytes off bs
      badmem := s.badmem.filter (fun k => !(off ≤ 8 * k && 8 * k + 8 ≤ off + bs.length)) } := if_pos h

/-- Memory after a write of several bytes, address by address. -/
theorem read_writeBytes {m : Memory} (h : m.wf = true) (x : Nat) (bs : List Byte) (a : Nat) :
    (m.writeBytes x bs).read a = if x ≤ a ∧ a < x + bs.length then bs.getD (a - x) 0 else m.read a := by
  split
  next hin =>
    obtain ⟨i, rfl⟩ := Nat.exists_eq_add_of_le hin.1
    have hi : i < bs.length := by omega
    rw [read_writeBytes_same h x bs i hi]
    simp [List.getD_eq_getElem?_getD, hi]
  next hout => exact read_writeBytes_other h bs (by omega)

/-- The bytes of committed memory. -/
theorem homeBytes_none (s : State) (off n : Nat) : s.homeBytes none off n = s.mem.readBytes off n := by
  induction n generalizing off with
  | zero => rfl
  | succ n ih =>
    rw [Memory.readBytes, ← ih]
    simp [State.homeBytes, State.homeByte, List.range_succ_eq_map, Nat.add_assoc, Nat.add_comm 1]

@[simp] theorem length_bytesOf (n v : Nat) : (bytesOf n v).length = n := by
  induction n generalizing v with
  | zero => rfl
  | succ n ih => simp [bytesOf, ih]

/-- The value of the bytes of a number. -/
theorem ofBytes_bytesOf (n v : Nat) : ofBytes (bytesOf n v) = v % 256 ^ n := by
  induction n generalizing v with
  | zero => simp [bytesOf, ofBytes, Nat.mod_one]
  | succ n ih =>
    rw [bytesOf, ofBytes, ih, Nat.pow_succ', Nat.mod_mul]
    simp

/-! ### Accesses that race none -/

/-- Bytes of which none is undefined (R154). -/
@[simp] theorem mixBytes_zero (tick place : Nat) (bs : List Byte) : mixBytes tick place 0 bs = bs := by
  simp [mixBytes, List.mapIdx_eq_iff]

/-- No range, no byte. -/
theorem rangeMask_nil (off size : Nat) : rangeMask [] off size = 0 :=
  List.foldl_fixed' (fun i => if_neg (by simp)) _

/-- An access that races none has no undefined byte (R154). -/
theorem raceMask_none {s : State} {z : Spot} {store : Bool} (hr : s.racing z = []) (ht : s.touched z store = []) :
    s.raceMask z store = 0 := by
  rw [State.raceMask, hr, ht]
  exact rangeMask_nil _ _

/-- A load that races no access performed makes no byte undefined (R154). -/
theorem spoil_none {s : State} {z : Spot} (ht : s.touched z false = []) (tg : Target) : s.spoil z tg = s := by
  have hno : (List.range z.size).filter (0 : BitVec 16).getLsbD = [] := List.filter_eq_nil_iff.mpr fun i _ => by simp
  simp only [State.spoil, ht, rangeMask_nil, hno, List.foldl_nil]

/-- An access that races none makes no byte undefined (R154). -/
theorem raceEffects_none {s : State} {z : Spot} {store : Bool} (hr : s.racing z = []) (ht : store = false → s.touched z false = [])
    (tg : Target) : s.raceEffects z tg store = s := by
  cases store with
  | true => simp [State.raceEffects, hr]
  | false => simp [State.raceEffects, hr, spoil_none (ht rfl)]

/-! ### Accesses of agents outside the partitions -/

/-- Where nothing is outstanding no store races. -/
theorem racing_nothingOut {s : State} (h : nothingOut s) (z : Spot) : s.racing z = [] := by
  refine List.flatMap_eq_nil_iff.mpr fun b _ => List.flatMap_eq_nil_iff.mpr fun l _ => ?_
  simp [Thread.stores, h b l]

/-- An agent of no lane that races nothing with a store races nothing with a load (R154). -/
theorem touched_load {s : State} {z : Spot} (hz : z.lanes = 0) (h : s.touched z true = []) : s.touched z false = [] := by
  have races (b : Nat) (x : Touch) (hx : x.races b z false = true) : x.races b z true = true := by
    simp only [Touch.races, Touch.before, hz] at hx ⊢
    simp_all
  have meets (c : Cmd) (i : Nat) (hc : s.cmdMeets c z false i = true) : s.cmdMeets c z true i = true := by
    simp only [State.cmdMeets, Bool.or_eq_true, Bool.and_eq_true, List.any_eq_true] at hc ⊢
    rcases hc with ⟨g, hg, ⟨he, -⟩, ha⟩ | ⟨hw, g, hg, ⟨he, -⟩, ha⟩
    · exact .inl ⟨g, hg, ⟨he, by simp⟩, ha⟩
    · exact .inr ⟨hw, g, hg, ⟨he, by simp⟩, ha⟩
  simp only [State.touched, List.append_eq_nil_iff, List.flatMap_eq_nil_iff, List.map_eq_nil_iff, List.filter_eq_nil_iff, State.cmdTouched,
    List.filterMap_eq_nil_iff, ite_eq_right_iff, reduceCtorEq, imp_false, List.any_eq_true, not_exists, not_and] at h ⊢
  obtain ⟨⟨hb, ho⟩, hc⟩ := h
  exact ⟨⟨fun b hm t ht x hx hr => hb b hm t ht x hx (races b x hr), fun x hx hr => ho x hx (races _ x hr)⟩,
    fun i hi c hm hr => hc i hi c hm (meets c _ hr)⟩

/-- Where an agent outside the partitions may access memory with no effect on others: the conditions of `OutsideAccess` on a place. -/
structure ForeignPlace (s : State) (off size : Nat) : Prop where
  home : unheld s off
  out : nothingOut s
  alone : s.touched (s.foreignSpot off size) true = []
  inside : off + size ≤ lpddrEnd
  mem : s.memOk

/-- A state in which memory alone has changed, and the accesses that agents outside have made. -/
abbrev outsideOnly (s t : State) : Prop := { t with mem := s.mem, badmem := s.badmem, outside := s.outside } = s

/-- A store at home of bytes that no stash line holds, by an agent outside whose access is kept. -/
theorem outsideWrite_stores {s : State} {off : Nat} {bs : List Byte} (hh : unheld s off) (hm : s.memOk)
    (hi : off + bs.length ≤ lpddrEnd) (z : Spot) :
    ((s.noteForeign z true).outsideWrite none off bs).mem.read = stores [(off, bs)] s.mem.read ∧
      outsideOnly s ((s.noteForeign z true).outsideWrite none off bs) := by
  have hn : unheld (s.noteForeign z true) off := hh
  rw [outsideWrite_unheld hn, homeWrite_none, memWrite_inside hi]
  exact ⟨funext fun a => read_writeBytes hm off bs a, rfl⟩

/-- An access of an agent outside the partitions (R148, R169, R241). -/
theorem foreign_stores {s : State} {x : Foreign} {pa : Nat} (hp : ForeignPlace s (paOffset pa) x.size)
    (hk : x.kind = 0 ∨ x.kind = 1 ∨ x.kind = 2) :
    (s.foreign x (paOffset pa)).mem.read = stores (outsideStores s x.kind x.op x.ty x.size pa x.value x.compare) s.mem.read ∧
      outsideOnly s (s.foreign x (paOffset pa)) := by
  obtain ⟨hh, ho, ha, hi, hm⟩ := hp
  have hr := racing_nothingOut ho (s.foreignSpot (paOffset pa) x.size)
  have hl : s.touched (s.foreignSpot (paOffset pa) x.size) false = [] := touched_load rfl ha
  have he (store : Bool) : s.raceEffects (s.foreignSpot (paOffset pa) x.size) (.mem (paOffset pa) none false) store = s :=
    raceEffects_none hr (fun _ => hl) _
  have hz (store : Bool) : s.raceMask (s.foreignSpot (paOffset pa) x.size) store = 0 := by
    cases store
    · exact raceMask_none hr hl
    · exact raceMask_none hr ha
  have hn (store : Bool) : unheld (s.noteForeign (s.foreignSpot (paOffset pa) x.size) store) (paOffset pa) := hh
  rcases hk with hk | hk | hk
  · simp only [State.foreign, hk, he, outsideRead_unheld (hn _)]
    exact ⟨rfl, rfl⟩
  · simp only [State.foreign, outsideStores, hk, he, hz, mixBytes_zero, BitVec.reduceBEq, BitVec.reduceBNe, Bool.false_eq_true, if_true, if_false]
    refine outsideWrite_stores hh hm ?_ _
    rwa [length_bytesOf]
  · simp only [State.foreign, outsideStores, hk, he, hz, mixBytes_zero, outsideRead_unheld (hn _), homeBytes_none, BitVec.reduceBEq,
      BitVec.reduceBNe, BitVec.reduceEq, Bool.false_eq_true, if_true, if_false]
    refine outsideWrite_stores hh hm ?_ _
    rwa [length_bytesOf]

/-- An access of R148 and R169 passes the check of its form. -/
theorem foreign_ok {kind : BitVec 2} {op ty : BitVec 4} {size pa : Nat} (v c : BitVec 128) (hk : outsideKind kind op ty size)
    (hf : size ∈ [1, 2, 4, 8, 16] ∧ pa % size = 0) : Foreign.ok ⟨kind, op, ty, size, v, c⟩ pa = true := by
  obtain ⟨hs, ha⟩ := hf
  rcases hk with rfl | rfl | ⟨rfl, ho, ht, hz⟩
  · simp [Foreign.ok, hs, ha]
  · simp [Foreign.ok, hs, ha]
  · have hsize : size = atomSize ty := by simpa [atomSize] using hz
    have ho : op ≤ 10 := ho
    have ht : ty ≤ 4 := ht
    simp only [Foreign.ok, List.contains_iff_mem.mpr hs, ha, ho, ht, ← hsize, beq_self_eq_true]
    rfl

/-- The place of an access of an agent outside (R321). -/
theorem foreignPlace {s : State} {size pa : Nat} (h : OutsideAccess s size pa) : ForeignPlace s (paOffset pa) size := by
  obtain ⟨-, ⟨-, -, hi⟩, hh, ⟨ho, ha⟩, hm⟩ := h
  exact ⟨hh, ho, ha, hi, hm⟩

/-- Such an access is in main memory. -/
theorem offset_inside {s : State} {size pa : Nat} (h : OutsideAccess s size pa) : paOffset pa < lpddrEnd := by
  obtain ⟨⟨hs, -⟩, ⟨-, -, hi⟩, -⟩ := h
  simp only [List.mem_cons, List.not_mem_nil, or_false] at hs
  omega

/-- The kind of such an access is one of three. -/
theorem outsideKind_cases {kind : BitVec 2} {op ty : BitVec 4} {size : Nat} (h : outsideKind kind op ty size) :
    kind = 0 ∨ kind = 1 ∨ kind = 2 := h.imp_right (Or.imp_right And.left)

/-- SYSTEM_CORE_ACCESS of main memory is made at home. -/
theorem execSystemCoreAccess_memory {s : State} {kind : BitVec 2} {op ty : BitVec 4} {size : Nat} {pa : BitVec 64} (v c : BitVec 128)
    (hh : s.host.halted = false) (hb : 5 ≤ s.boot.stage) (hk : outsideKind kind op ty size) (ha : OutsideAccess s size pa.toNat) :
    exec (.systemCoreAccess kind op ty size pa v c) s = .next (s.foreign ⟨kind, op, ty, size, v, c⟩ (paOffset pa.toNat)) := by
  have hin := offset_inside ha
  obtain ⟨hf, ⟨hl, hlt, -⟩, -⟩ := ha
  have hstart : s.boot.started = true := decide_eq_true hb
  have hlt := Nat.not_le.mpr hlt
  change execSystemCoreAccess kind op ty size pa v c s = _
  simp only [execSystemCoreAccess, hh, hstart, foreign_ok v c hk hf, hl, hin, hlt, if_true]
  rfl

/-- REMOTE_REQUEST to main memory is made at home, and no watchpoint reports it where no context has a handler. -/
theorem execRemoteRequest_memory {s : State} {node : BitVec 9} {kind : BitVec 2} {op ty : BitVec 4} {size : Nat} {pa : BitVec 64}
    (v c : BitVec 128) (hh : s.host.halted = false) (hk : outsideKind kind op ty size) (ha : OutsideAccess s size pa.toNat)
    (hn : node ≠ s.nodeid) (hl : ∃ n < 12, s.linkUsable n = true) (hc : ∀ c ∈ s.ctxs, c.handler = false) :
    exec (.remoteRequest node kind op ty size pa v c) s = .next (s.foreign ⟨kind, op, ty, size, v, c⟩ (paOffset pa.toNat)) := by
  have hin := offset_inside ha
  have hplace := foreignPlace ha
  obtain ⟨hf, ⟨hloc, hlt, -⟩, -⟩ := ha
  have hlink : (List.range 12).any s.linkUsable = true := by simpa using hl
  have hctx : (s.foreign ⟨kind, op, ty, size, v, c⟩ (paOffset pa.toNat)).ctxs = s.ctxs := by
    obtain ⟨-, he⟩ := foreign_stores (x := ⟨kind, op, ty, size, v, c⟩) hplace (outsideKind_cases hk)
    have h := congrArg (fun u : State => u.ctxs) he
    exact h
  have hnone : (s.foreign ⟨kind, op, ty, size, v, c⟩ (paOffset pa.toNat)).ctxs.filter (fun c => !c.destroyed && c.handler) = [] := by
    rw [hctx]
    exact List.filter_eq_nil_iff.mpr fun c hm => by simp [hc c hm]
  have hlt := Nat.not_le.mpr hlt
  change execRemoteRequest node kind op ty size pa v c s = _
  simp only [execRemoteRequest, hh, foreign_ok v c hk hf, hloc, hin, hlt, beq_false_of_ne hn, hlink, State.reportAtomic, hnone,
    if_true, List.foldl_nil, ite_self]
  rfl

/-- PCIE_HOST_ACCESS through BAR4, or at a root port, is made at home. -/
theorem execPcieHostAccess_memory {s : State} {store : Bool} {bar : BitVec 3} {o : BitVec 64} {size : Nat} (v : BitVec 128)
    (hb : 5 ≤ s.boot.stage) (hp : s.pcieRoot = true ∨ (bar = 4 ∧ o.toNat < 2 ^ 39))
    (hf : size ∈ [1, 2, 4, 8, 16] ∧ o.toNat % size = 0) (hi : o.toNat < lpddrEnd) :
    exec (.pcieHostAccess store bar o size v) s = .next (s.foreign ⟨if store then 1 else 0, 0, 0, size, v, 0⟩ o.toNat) := by
  have hk : outsideKind (if store then 1 else 0) 0 0 size := by cases store <;> simp [outsideKind]
  have hm : s.pcieMemory store o.toNat size v = s.foreign ⟨if store then 1 else 0, 0, 0, size, v, 0⟩ o.toNat := by
    rw [State.pcieMemory, foreign_ok v 0 hk hf]
    exact if_pos (by simp [hb, hi])
  change execPcieHostAccess store bar o size v s = _
  simp only [execPcieHostAccess, hm]
  rcases hp with hr | ⟨rfl, ho⟩
  · simp [hr]
  · simp only [ho, decide_true]
    cases s.pcieRoot <;> rfl

/-- Eight bytes of a value are its low 64 bits. -/
theorem dwordOf_bytesOf (v : BitVec 128) : dwordOf (bytesOf 8 v.toNat) = v.setWidth 64 := by
  refine BitVec.eq_of_toNat_eq ?_
  rw [dwordOf, ofBytes_bytesOf, BitVec.toNat_ofNat, BitVec.toNat_setWidth]
  exact Nat.mod_mod _ _

/-- SYSTEM_CORE_ACCESS that stores 8 bytes in the device windows: the register is written as the step ends (R398). -/
theorem execSystemCoreAccess_window {s : State} {pa : BitVec 64} (v c : BitVec 128) (hh : s.host.halted = false) (hb : 5 ≤ s.boot.stage)
    (hl : s.isLocal pa.toNat = true) (hlt : pa.toNat < 2 ^ 52) (ha : pa.toNat % 8 = 0) (hd : deviceBase ≤ paOffset pa.toNat) :
    exec (.systemCoreAccess 1 0 0 8 pa v c) s = .next { s with
      regwrites := s.regwrites ++ [(BitVec.ofNat 39 (paOffset pa.toNat - deviceBase), v.setWidth 64)] } := by
  have hstart : s.boot.started = true := decide_eq_true hb
  have hok : Foreign.ok ⟨1, 0, 0, 8, v, c⟩ pa.toNat = true := foreign_ok v c (.inr (.inl rfl)) ⟨by simp, ha⟩
  have hout : ¬ paOffset pa.toNat < lpddrEnd := by
    simp only [deviceBase, lpddrEnd] at hd ⊢
    omega
  have hlt := Nat.not_le.mpr hlt
  change execSystemCoreAccess 1 0 0 8 pa v c s = _
  simp only [execSystemCoreAccess, hh, hstart, hok, hl, hlt, hout, State.paDevice, hd, State.windowStore, dwordOf_bytesOf, length_bytesOf,
    if_true]
  rfl

/-- A write of the host register window puts no device into recovery, nor takes one out of it (R409). -/
theorem writeHost_failed (s : State) (o : Nat) (v : DWord) : (s.writeHost o v).boot.failed = s.boot.failed := by
  have stage6 (u : State) : u.stage6.boot.failed = u.boot.failed := by
    unfold State.stage6
    split <;> rfl
  have fuse (b : Boot) : (b.fuse v).failed = b.failed := by
    unfold Boot.fuse
    dsimp only
    split
    · rfl
    · split <;> rfl
  have halt : s.halt.boot.failed = s.boot.failed := by
    unfold State.halt
    split <;> rfl
  unfold State.writeHost
  split_ifs
  exacts [stage6 _, stage6 _, rfl, rfl, halt, rfl, fuse _, rfl, rfl]

/-- PCIE_HOST_ACCESS that stores 8 bytes in BAR0 of a device that is not in recovery is a register write (R399, R408). -/
theorem execPcieHostAccess_bar0 {s : State} {o : BitVec 64} (v : BitVec 128) (hr : s.pcieRoot = false) (ha : o.toNat % 8 = 0)
    (ho : o.toNat < 65536) (hf : s.boot.failed < 2) :
    exec (.pcieHostAccess true 0 o 8 v) s = exec (.registerWrite (o.setWidth 39) (v.setWidth 64)) s := by
  have hnat : (o.setWidth 39).toNat = o.toNat := by
    rw [BitVec.toNat_setWidth]
    omega
  have hrec (u : State) (hu : u.boot.failed = s.boot.failed) : u.recoverBundle = u := by
    have : u.boot.recovery = false := by simpa [Boot.recovery, hu] using hf
    simp [State.recoverBundle, this]
  have hbar : s.bar0 o.toNat 8 (v.setWidth 64) = s.writeHost o.toNat (v.setWidth 64) := by
    simp [State.bar0, ha, ho, hrec _ (writeHost_failed s _ _)]
  have hreg : s.writeRegister o.toNat (v.setWidth 64) = s.writeHost o.toNat (v.setWidth 64) := by
    simp [State.writeRegister, ha, ho]
  change execPcieHostAccess true 0 o 8 v s = execRegisterWrite (o.setWidth 39) (v.setWidth 64) s
  simp [execPcieHostAccess, execRegisterWrite, hr, hbar, hreg, hnat]

/-- PCIE_HOST_ACCESS that stores 8 bytes in BAR2 at a HOST queue rings its doorbell (R408). -/
theorem execPcieHostAccess_bar2 {s : State} {o : BitVec 64} (v : BitVec 128) (hr : s.pcieRoot = false) (ha : o.toNat % 8 = 0)
    {q : Queue} (ho : o.toNat < 32768) (hq : s.queue? (o.toNat / 8) = some q) (hh : q.host = true) :
    exec (.pcieHostAccess true 2 o 8 v) s = exec (.doorbell (o.toNat / 8)) s := by
  change execPcieHostAccess true 2 o 8 v s = execDoorbell (o.toNat / 8) s
  simp [execPcieHostAccess, execDoorbell, hr, ha, ho, hq, hh]

end Sys2Proof.Laws

namespace Sys2Proof.Claims
open Sys2Proof.Machine

/-- Settles O47: an access of main memory is made at home, and a store to a window is the register write that it names. -/
theorem outsideAccesses : Obligations.OutsideAccesses := by
  refine ⟨?core, ?node, ?pcie, ?window, ?bars⟩
  case core =>
    intro s kind op ty size pa v c hh hb hk ha
    exact ⟨_, Laws.execSystemCoreAccess_memory v c hh hb hk ha,
      Laws.foreign_stores (x := ⟨kind, op, ty, size, v, c⟩) (Laws.foreignPlace ha) (Laws.outsideKind_cases hk)⟩
  case node =>
    intro s node kind op ty size pa v c hh hk ha hn hl hc
    exact ⟨_, Laws.execRemoteRequest_memory v c hh hk ha hn hl hc,
      Laws.foreign_stores (x := ⟨kind, op, ty, size, v, c⟩) (Laws.foreignPlace ha) (Laws.outsideKind_cases hk)⟩
  case pcie =>
    intro s store bar o size v hb hp hs ha hi hh ho ht hm
    have hsize : 0 < size := Nat.pos_of_ne_zero (by rintro rfl; simp at hs)
    refine ⟨_, Laws.execPcieHostAccess_memory v hb hp ⟨hs, ha⟩ (by omega), ?_⟩
    have hoff : paOffset o.toNat = o.toNat := Nat.mod_eq_of_lt (by simp only [lpddrEnd] at hi; omega)
    have h := Laws.foreign_stores (s := s) (x := ⟨if store then 1 else 0, 0, 0, size, v, 0⟩) (pa := o.toNat)
      (by rw [hoff]; exact ⟨hh, ho, ht, hi, hm⟩) (by cases store <;> simp)
    rw [hoff] at h
    convert h using 3
    cases store <;> simp [outsideStores, hoff]
  case window =>
    intro s pa v c hh hb hl hlt ha hd
    exact Laws.execSystemCoreAccess_window v c hh hb hl hlt ha hd
  case bars =>
    intro s o v hr ha
    exact ⟨fun ho hf => Laws.execPcieHostAccess_bar0 v hr ha ho hf, fun q ho hq hh => Laws.execPcieHostAccess_bar2 v hr ha ho hq hh⟩

end Sys2Proof.Claims
end

section
/-! Fences (R152, R172, R173), and outstanding stores that are performed (R152, R164, R310). -/
namespace Sys2Proof.Laws
open Sys2Proof.Machine Sys2Proof.Claims

/-! ### What changes of threads keep -/

/-- What a change of a thread keeps of its bundle, it keeps of every bundle. -/
theorem bundle_modThread_view {α : Type} {φ : Bundle → α} {l : Nat} {f : Thread → Thread} (h : ∀ x : Bundle, φ (x.modThread l f) = φ x)
    (s : State) (b c : Nat) : φ ((s.modThread b l f).bundle c) = φ (s.bundle c) := by
  by_cases hc : c = b
  · subst hc
    rw [State.modThread, bundle_modBundle]
    split
    · exact h _
    · rfl
  · rw [State.modThread, bundle_modBundle_ne _ _ _ _ hc]

/-- What a change of a thread keeps of it, it keeps of every thread. -/
theorem thread_modThread_view {α : Type} {φ : Thread → α} {f : Thread → Thread} (h : ∀ t, φ (f t) = φ t) (s : State) (b l c k : Nat) :
    φ ((s.modThread b l f).thread c k) = φ (s.thread c k) := by
  refine bundle_modThread_view (φ := fun x => φ (x.thread k)) (fun x => ?_) s b c
  simp only [Bundle.thread, Bundle.modThread, List.getD_eq_getElem?_getD, List.getElem?_modify]
  cases hx : x.threads[k]? with
  | none => rfl
  | some t =>
    by_cases e : l = k
    · simp [e, h]
    · simp [e]

/-- A thread after a change of one is as it was, or is what the change makes of it. -/
theorem thread_modThread_cases (s : State) (b l : Nat) (f : Thread → Thread) (c k : Nat) :
    (s.modThread b l f).thread c k = s.thread c k ∨ (s.modThread b l f).thread c k = f (s.thread c k) := by
  by_cases hc : c = b
  · subst hc
    rw [State.thread, State.modThread, bundle_modBundle]
    split
    · simp only [State.thread, Bundle.thread, Bundle.modThread, List.getD_eq_getElem?_getD, List.getElem?_modify]
      cases (s.bundle c).threads[k]? with
      | none => exact .inl rfl
      | some t =>
        by_cases e : l = k
        · exact .inr (by simp [e])
        · exact .inl (by simp [e])
    · exact .inl rfl
  · exact .inl (by rw [State.thread, State.modThread, bundle_modBundle_ne _ _ _ _ hc, State.thread])

/-- Another thread than the one that changes. -/
theorem thread_modThread_ne (s : State) (b : Nat) {l k : Nat} (f : Thread → Thread) (h : k ≠ l) (c : Nat) :
    (s.modThread b l f).thread c k = s.thread c k := by
  refine bundle_modThread_view (φ := fun x => x.thread k) (fun x => ?_) s b c
  simp [Bundle.thread, Bundle.modThread, List.getD_eq_getElem?_getD, Ne.symm h]

/-- A change of a thread depends only on what it makes of that thread. -/
theorem modThread_congr {s : State} {b l : Nat} {f g : Thread → Thread} (h : f (s.thread b l) = g (s.thread b l)) :
    s.modThread b l f = s.modThread b l g := by
  refine modBundle_congr s b _ _ (congrArg (fun ts => { s.bundle b with threads := ts }) (List.ext_getElem? fun k => ?_))
  rw [List.getElem?_modify, List.getElem?_modify]
  by_cases e : l = k
  · subst e
    cases hx : (s.bundle b).threads[l]? with
    | none => rfl
    | some t =>
      have ht : s.thread b l = t := by simp [State.thread, Bundle.thread, List.getD_eq_getElem?_getD, hx]
      rw [ht] at h
      simpa using h
  · simp [e]

/-- A view of a list's elements and a change of one that do not interfere. -/
theorem map_modify_comm {α : Type} {g f : α → α} (h : ∀ x, g (f x) = f (g x)) (i : Nat) (xs : List α) :
    (xs.modify i f).map g = (xs.map g).modify i f := by
  refine List.ext_getElem (by simp) fun k _ _ => ?_
  simp only [List.getElem_map, List.getElem_modify]
  split
  · exact h _
  · rfl

/-- A change of a thread that does not look at the order of accesses. -/
theorem bare_modThread_comm {f : Thread → Thread} (h : ∀ t, bareThread (f t) = f (bareThread t)) (s : State) (b l : Nat) :
    (s.modThread b l f).bare = s.bare.modThread b l f :=
  bare_modBundle_comm (fun x => congrArg (fun ts => { bareBundle x with threads := ts }) (map_modify_comm h l x.threads)) s b

/-- A change of lanes that does not look at the order of accesses. -/
theorem bare_mapLanes {f : Nat → Thread → Thread} (h : ∀ l t, bareThread (f l t) = f l (bareThread t)) (s : State) :
    (s.mapLanes f).bare = s.bare.mapLanes f := by
  have e (ts : List Thread) : (ts.mapIdx f).map bareThread = (ts.map bareThread).mapIdx f := List.ext_getElem (by simp) (by simp [h])
  exact bare_modBundle_comm (fun x => congrArg (fun ts => { bareBundle x with threads := ts }) (e x.threads)) s _

/-- The issued lanes that are READY pass the word, whatever the order of accesses. -/
theorem bare_advanceAll (s : State) : s.advanceAll.bare = s.bare.advanceAll :=
  bare_mapLanes (fun l t => by
    change bareThread (if s.cur.lanes.getLsbD l && t.isReady then _ else _) = if s.cur.lanes.getLsbD l && t.isReady then _ else _
    split <;> rfl) s

/-- A word that its issued set passes, and nothing else. -/
theorem advanceAll_step (s : State) : UniStep s s.advanceAll [] := by
  have h := writeS_advance s []
  rwa [writeS_nil] at h

/-- Lanes that `act` changes in turn, each its own thread as long as the thread is as it was, where `P` lasts. -/
theorem foldl_bareLanes {s : State} {b : Nat} {act : State → Nat → State} {g : Nat → Thread → Thread} {P : State → Prop} {ls : List Nat}
    (h : ∀ u : State, P u → ∀ l ∈ ls, u.bare.thread b l = s.bare.thread b l → (act u l).bare = u.bare.modThread b l (g l) ∧ P (act u l))
    (hn : ls.Nodup) (hs : P s) :
    (ls.foldl act s).bare = s.bare.modBundle b (fun x => { x with threads := x.threads.mapIdx (fun l t => if l ∈ ls then g l t else t) }) ∧
      P (ls.foldl act s) := by
  suffices ∀ u : State, P u → (∀ l ∈ ls, u.bare.thread b l = s.bare.thread b l) →
      (ls.foldl act u).bare = ls.foldl (fun u l => u.modThread b l (g l)) u.bare ∧ P (ls.foldl act u) by
    rw [← foldl_modThread_mapIdx _ _ _ hn]
    exact this s hs fun _ _ => rfl
  induction ls with
  | nil => exact fun u hu _ => ⟨rfl, hu⟩
  | cons l ls ih =>
    intro u hu ht
    obtain ⟨hl, hn⟩ := List.nodup_cons.mp hn
    obtain ⟨hb, hp⟩ := h u hu l List.mem_cons_self (ht l List.mem_cons_self)
    rw [List.foldl_cons, List.foldl_cons, ← hb]
    refine ih (fun u hu k hk => h u hu k (List.mem_cons_of_mem l hk)) hn _ hp fun k hk => ?_
    rw [hb, thread_modThread_ne _ _ _ (by rintro rfl; exact hl hk), ht k (List.mem_cons_of_mem l hk)]

/-! ### Fences -/

/-- Whether a bundle is shown an outstanding store does not depend on the order of accesses. -/
theorem unshown_bare {s : State} : s.bare.unshown ↔ s.unshown := by
  have hs (c l : Nat) : (s.bare.thread c l).stores = (s.thread c l).stores := by rw [thread_bare]; rfl
  have hw (c : Nat) (x : PStore) : s.bare.shows s.bare.cur.bundle c x = s.shows s.cur.bundle c x := by
    simp only [State.shows, bundle_bare]
    rfl
  simp only [State.unshown, hs, hw]

/-- A change of a thread that keeps its outstanding stores shows none. -/
theorem unshown_modThread {s : State} {b l : Nat} {f : Thread → Thread} (h : ∀ t, (f t).stores = t.stores) (hu : s.unshown) :
    (s.modThread b l f).unshown := by
  intro c k x hx
  rw [thread_modThread_view h] at hx
  have hc := hu c k x hx
  unfold State.shows at hc ⊢
  simp only [bundle_modThread_view (φ := Bundle.part) (fun _ => rfl), bundle_modThread_view (φ := Bundle.core) (fun _ => rfl)]
  exact hc

/-- Stores stay in a list that drops its completed fences (R152). -/
theorem settleFences_stores {ps : List Pending} (h : ∀ p ∈ ps, ∃ x, p = .store x) (w : Bool) (seen : BitVec 16) :
    settleFences w seen ps = ps := by
  induction ps generalizing seen with
  | nil => rfl
  | cons p ps ih =>
    obtain ⟨x, rfl⟩ := h p List.mem_cons_self
    rw [settleFences, ih fun p hp => h p (List.mem_cons_of_mem _ hp)]

/-- A fence behind stores stays where it orders one of them earlier (R152). -/
theorem settleFences_fence {ps : List Pending} (h : ∀ p ∈ ps, ∃ x, p = .store x) {f : FenceMark} (hf : f.wide = false) (w : Bool)
    (seen : BitVec 16) : settleFences w seen (ps ++ [.fence f]) =
      if f.early &&& (seen ||| streamsOut ps) = 0 then ps else ps ++ [.fence f] := by
  induction ps generalizing seen with
  | nil => simp [settleFences, streamsOut, hf]
  | cons p ps ih =>
    obtain ⟨x, rfl⟩ := h p List.mem_cons_self
    rw [List.cons_append, settleFences, ih (fun p hp => h p (List.mem_cons_of_mem _ hp)), streamsOut, BitVec.or_assoc]
    split <;> rfl

/-- What a fence that is not wide does to a thread that has no fence outstanding. -/
theorem settleFences_fenced {t : Thread} (h : ∀ p ∈ t.out, ∃ x, p = .store x) {f : FenceMark} (hf : f.wide = false) (w : Bool) :
    { t with out := settleFences w 0 (t.out ++ [.fence f]) } = fenced t f := by
  have hz : (0 : BitVec 16) ||| streamsOut t.out = streamsOut t.out := BitVec.zero_or
  rw [settleFences_fence h hf, hz, fenced]
  split <;> rfl

/-- A fence is no store. -/
theorem stores_fenced (f : FenceMark) (t : Thread) : (fenced t f).stores = t.stores := by
  unfold fenced
  split
  · rfl
  · simp [withOut, Thread.stores]

theorem bareThread_fenced (f : FenceMark) (t : Thread) : bareThread (fenced t f) = fenced (bareThread t) f := by
  unfold fenced
  change _ = if f.early &&& streamsOut t.out = 0 then _ else _
  split <;> rfl

/-- A fence that is not wide waits for no write-back (R172). -/
theorem fenceThread_narrow {f : FenceMark} (hf : f.wide = false) (s : State) (b l : Nat) : s.fenceThread b l f =
    (let u := (s.performSeen b (fun _ => true)).bindLoads b l (fun y => f.early.getLsbD y.stream)
     let v := if f.loads then u.acquireIn b l f.early f.late else u
     (v.modThread b l (fun t => { t with out := settleFences (v.bundleWriting b) 0 (t.out ++ [.fence f]) })).releaseTouches b l
       f.early f.late) := by
  unfold State.fenceThread
  rw [hf]
  cases (s.bundle b).team <;> rfl

/-- A fence that is not wide, of a thread that has no fence outstanding (R152, R172). -/
theorem bare_fenceThread {s : State} {l : Nat} {f : FenceMark} (hu : s.unshown) (hf : f.wide = false)
    (h : ∀ p ∈ (s.thread s.cur.bundle l).out, ∃ x, p = .store x) :
    (s.fenceThread s.cur.bundle l f).bare = s.bare.modThread s.cur.bundle l (fun t => fenced t f) := by
  rw [fenceThread_narrow hf, performSeen_none hu]
  dsimp only
  generalize hu' : s.bindLoads s.cur.bundle l (fun y => f.early.getLsbD y.stream) = u
  generalize hv : (if f.loads then u.acquireIn s.cur.bundle l f.early f.late else u) = v
  have hb : v.bare = s.bare := by
    subst hv hu'
    split
    · exact (bare_modThread (f := fun t => t.acquireAt _ _) (fun _ => rfl) _ _ l).trans
        ((bare_bindLoads _ _ l _).trans (bare_bindLoads s _ l _))
    · exact bare_bindLoads s _ l _
  rw [bare_releaseTouches, modThread_congr (g := fun t => fenced t f) (settleFences_fenced (by rwa [out_of_bare hb]) hf _),
    bare_modThread_comm (bareThread_fenced f), hb]

/-- A fence word that is not wide, of issued lanes that are READY and have no fence outstanding (R172, R173). -/
theorem fenceIssued_step {s : State} {f : FenceMark} (hu : s.unshown) (hf : f.wide = false)
    (h : ∀ j ∈ s.issued, (s.curB.thread j).isReady = true ∧ ∀ p ∈ (s.curB.thread j).out, ∃ x, p = .store x) :
    LaneStep s.bare (s.fenceIssued f).bare (fun _ th => (fenced th f).advance s.cur.pc) := by
  have hstep (u : State) (hP : u.unshown ∧ u.cur = s.cur) (l : Nat) (hl : l ∈ s.issued)
      (ht : u.bare.thread s.cur.bundle l = s.bare.thread s.cur.bundle l) :
      (u.fenceThread u.cur.bundle l f).bare = u.bare.modThread s.cur.bundle l (fun t => fenced t f) ∧
        (u.fenceThread u.cur.bundle l f).unshown ∧ (u.fenceThread u.cur.bundle l f).cur = s.cur := by
    obtain ⟨hu, hc⟩ := hP
    have hcur : u.cur.bundle = s.cur.bundle := by rw [hc]
    have hout : ∀ p ∈ (u.thread u.cur.bundle l).out, ∃ x, p = .store x := by
      have e := congrArg Thread.out ht
      rw [thread_bare, thread_bare] at e
      obtain ⟨-, hs⟩ := h l hl
      rw [hcur]
      intro p hp
      exact hs p (e ▸ hp)
    have hb := bare_fenceThread hu hf hout
    refine ⟨by rw [hb, hcur], unshown_bare.mp ?_, ?_⟩
    · rw [hb]
      exact unshown_modThread (stores_fenced f) (unshown_bare.mpr hu)
    · have e := congrArg State.cur hb
      exact e.trans hc
  obtain ⟨hb, -⟩ := foldl_bareLanes (g := fun _ t => fenced t f) hstep (List.nodup_range.filter _) ⟨hu, rfl⟩
  replace hb : _ = s.bare.mapLanes (fun l t => if l ∈ s.issued then fenced t f else t) := hb
  rw [State.fenceIssued, bare_advanceAll, hb, State.advanceAll, mapLanes_mapLanes]
  have hready (l : Nat) (hl : l < s.bare.curB.threads.length) (hi : s.cur.lanes.getLsbD l = true) :
      l ∈ s.issued ∧ (s.bare.curB.thread l).isReady = true := by
    have hlen : s.bare.curB.threads.length = s.curB.threads.length := (sameBars_bare s).width s.cur.bundle
    have hm : l ∈ s.issued := mem_issued.mpr ⟨hlen ▸ hl, hi⟩
    obtain ⟨hr, -⟩ := h l hm
    have e : s.bare.curB.thread l = bareThread (s.curB.thread l) := thread_bare s s.cur.bundle l
    exact ⟨hm, by rw [e]; exact hr⟩
  refine mapLanes_laneStep fun l hl => ?_
  change (if s.cur.lanes.getLsbD l && _ then _ else _) = if s.cur.lanes.getLsbD l then _ else _
  cases hi : s.cur.lanes.getLsbD l with
  | false => simp [mem_issued, hi]
  | true =>
    obtain ⟨hm, hr⟩ := hready l hl hi
    have hr : (fenced (s.bare.curB.thread l) f).isReady = true := by
      unfold fenced
      split <;> exact hr
    simp [hm, hr]
    rfl

/-- A scope below PARTITION waits for no write-back (R172). -/
theorem scope_narrow {sc : BitVec 4} (h : sc.toNat < 3) : decide (sc ≥ 3) = false :=
  decide_eq_false fun hs => absurd (BitVec.le_def.mp hs) (by simpa using h)

/-- An acquire fence is over at once (R172). -/
theorem execFence_acquire {s : State} {sc : BitVec 4} {l : BitVec 1} {q : BitVec 4} (hi : s.issues (.fence sc 1 l q)) :
    ∃ t, exec (.fence sc 1 l q) s = .next t ∧ UniStep s.bare t.bare [] := by
  refine ⟨_, exec_issues (by rfl) hi, ?_⟩
  have hb : (s.issued.foldl (fun u l' => u.acquireThread u.cur.bundle l' (streamSet (l == 1) q)) s).bare = s.bare :=
    bare_foldl (fun u h k _ => (bare_acquireThread u _ k _).trans h) rfl
  change UniStep s.bare (State.advanceAll _).bare []
  rw [bare_advanceAll, hb]
  exact advanceAll_step _

/-! ### Stores that are performed -/

/-- Entries that a test selects none of, and that no chosen store follows, stay (R157). -/
theorem chooseStores_stay {test : PStore → Bool} {xs : List PStore} {ps : List Pending}
    (h : ∀ y, Pending.store y ∈ ps → test y = false ∧ ∀ x ∈ xs, x.follows y = false) (rest : List Pending) :
    chooseStores test ps (xs, rest) = (xs, ps.reverse ++ rest) := by
  induction ps generalizing rest with
  | nil => rfl
  | cons p ps ih =>
    have ih := ih fun y hy => h y (List.mem_cons_of_mem p hy)
    cases p with
    | fence f => simp [chooseStores, ih]
    | store y =>
      obtain ⟨ht, hx⟩ := h y List.mem_cons_self
      have hany : xs.any (fun x => x.follows y) = false := by simpa using hx
      simp [chooseStores, ih, ht, hany]

/-- The stores of a list are chosen part by part. -/
theorem chooseStores_append (test : PStore → Bool) (ps qs : List Pending) (acc : List PStore × List Pending) :
    chooseStores test (ps ++ qs) acc = chooseStores test qs (chooseStores test ps acc) := by
  induction ps generalizing acc with
  | nil => rfl
  | cons p ps ih =>
    obtain ⟨xs, rest⟩ := acc
    cases p with
    | fence f => exact ih _
    | store y =>
      simp only [List.cons_append, chooseStores]
      split <;> exact ih _

/-- The stores of a list. -/
def storesOf (ps : List Pending) : List PStore := ps.filterMap (fun p => match p with
  | .store x => some x
  | .fence _ => none)

theorem stores_eq (t : Thread) : t.stores = storesOf t.out := rfl

theorem mem_storesOf {ps : List Pending} {x : PStore} : x ∈ storesOf ps ↔ .store x ∈ ps := by
  rw [storesOf, List.mem_filterMap]
  constructor
  · rintro ⟨p, hp, he⟩
    cases p with
    | fence f => cases he
    | store y =>
      cases he
      exact hp
  · exact fun h => ⟨_, h, rfl⟩

/-- A store that is found first follows none of those that stand before it (R157). -/
theorem follows_before {t : Thread} {x : PStore} {ps qs : List Pending} (hfind : t.stores.find? (fun y => y == x || x.follows y) = some x)
    (hout : t.out = ps ++ .store x :: qs) (hps : .store x ∉ ps) (y : PStore) (hy : .store y ∈ ps) : x.follows y = false := by
  have hstores : t.stores = storesOf ps ++ storesOf (.store x :: qs) := by
    rw [stores_eq, hout, storesOf, List.filterMap_append]
    rfl
  rw [hstores, List.find?_append] at hfind
  cases hz : (storesOf ps).find? (fun y => y == x || x.follows y) with
  | some z =>
    rw [hz] at hfind
    cases hfind
    exact absurd (mem_storesOf.mp (List.mem_of_find?_eq_some hz)) hps
  | none =>
    have hnot := List.find?_eq_none.mp hz y (mem_storesOf.mpr hy)
    simp only [Bool.or_eq_true, not_or, Bool.not_eq_true] at hnot
    exact hnot.2

/-- A store that no earlier one of its stream goes before is chosen alone (R157). -/
theorem chooseStores_first {t : Thread} {x : PStore} (h : firstOf t x) (hx : .store x ∈ t.out) :
    chooseStores (fun z => z == x) t.out.reverse ([], []) = ([x], t.out.erase (.store x)) := by
  obtain ⟨hcount, hfind⟩ := h
  obtain ⟨ps, qs, hps, hout, herase⟩ := List.exists_erase_eq hx
  have hqs : .store x ∉ qs := by
    rw [hout, List.count_append, List.count_cons_self] at hcount
    exact List.count_eq_zero.mp (by omega)
  have hbefore := follows_before hfind hout hps
  have hne {ps : List Pending} (h : .store x ∉ ps) (y : PStore) (hy : .store y ∈ ps.reverse) : (y == x) = false :=
    beq_false_of_ne (by rintro rfl; exact h (List.mem_reverse.mp hy))
  rw [herase, hout, List.reverse_append, List.reverse_cons, chooseStores_append, chooseStores_append,
    chooseStores_stay fun y hy => ⟨hne hqs y hy, by simp⟩]
  simp only [chooseStores, beq_self_eq_true, Bool.true_or, if_true]
  rw [chooseStores_stay fun y hy => ⟨hne hps y hy, by simpa using hbefore y (List.mem_reverse.mp hy)⟩]
  simp

/-- A performed store is kept among the accesses that may still race, and nothing else changes. -/
theorem bare_notePerformed (s : State) (b l : Nat) (x : PStore) (fs : List FenceMark) : (s.notePerformed b l x fs).bare = s.bare := by
  unfold State.notePerformed
  split
  · rfl
  · exact bare_modThread (f := fun t => { t with recent := keepTouch _ t.recent }) (fun _ => rfl) s b l

/-- A thread that has no fence outstanding lets none go. -/
theorem settleThread_stores {s : State} {b l : Nat} (h : ∀ p ∈ (s.thread b l).out, ∃ x, p = .store x) : s.settleThread b l = s := by
  refine (modThread_congr (g := fun t => t) ?_).trans (modThread_self s b l)
  rw [settleFences_stores h]

/-- A thread without one of its outstanding stores. -/
def unlisted (x : PStore) (t : Thread) : Thread := { t with out := t.out.erase (.store x) }

/-- One store that is chosen alone is performed (R152). -/
theorem performStores_one {s : State} {b l : Nat} {test : PStore → Bool} {x : PStore}
    (h : chooseStores test (s.thread b l).out.reverse ([], []) = ([x], (s.thread b l).out.erase (.store x))) (hb : x.bytes ≠ []) :
    s.performStores b l test =
      (((s.modThread b l (unlisted x)).performOne l x).notePerformed b l x (laterFences x (s.thread b l).out)).settleThread b l := by
  have hans (y : Bundle) : y.answered l [x] = y := by simp [Bundle.answered, hb]
  have hgone : s.modBundle b (fun y => (y.modThread l (fun t => { t with out := (s.thread b l).out.erase (.store x) })).answered l [x]) =
      s.modThread b l (unlisted x) := by
    simp only [hans]
    exact modThread_congr rfl
  rw [← hgone]
  unfold State.performStores
  simp only [h]
  rfl

/-- A store of main memory is performed alone: its bytes reach home as in the state `m`, and it leaves its thread's list (R152). -/
theorem execMemoryAccessPerformed_first {s m : State} {b l n : Nat} {x : PStore} (hn : (s.thread b l).out[n]? = some (.store x))
    (ho : ∀ p ∈ (s.thread b l).out, ∃ y, p = .store y) (hf : firstOf (s.thread b l) x) (hl : x.link = none) (hm : x.mix = 0)
    (hi : x.pa + x.bytes.length ≤ lpddrEnd) (hb : x.bytes ≠ []) (hh : unheld s x.pa)
    (hv : (s.modThread b l (unlisted x)).homeWrite x.ver x.pa x.bytes = m.modThread b l (unlisted x)) (hk : m.bundles = s.bundles) :
    ∃ t, exec (.memoryAccessPerformed b l n) s = .next t ∧ t.bare = m.bare.modThread b l (unlisted x) := by
  obtain ⟨-, hfind⟩ := id hf
  have hone : (s.modThread b l (unlisted x)).performOne l x = m.modThread b l (unlisted x) := by
    have hlow : ¬ x.pa ≥ lpddrEnd := by
      have := List.length_pos_of_ne_nil hb
      omega
    have hu : unheld (s.modThread b l (unlisted x)) x.pa := hh
    rw [State.performOne, hl, if_neg (by simp), if_neg hlow, hm, mixBytes_zero, outsideWrite_unheld hu, hv]
  refine ⟨_, (rfl : _ = execMemoryAccessPerformed b l n s), ?_⟩
  simp only [hn, hfind]
  rw [performStores_one (chooseStores_first hf (List.mem_of_getElem? hn)) hb, hone, settleThread_stores, bare_notePerformed]
  · exact bare_modThread_comm (f := unlisted x) (fun _ => rfl) m b l
  · have hth : m.thread b l = s.thread b l := by simp only [State.thread, State.bundle, hk]
    intro p hp
    rw [out_of_bare (bare_notePerformed _ _ _ _ _)] at hp
    rcases thread_modThread_cases m b l (unlisted x) b l with e | e
    · exact ho p (hth ▸ e ▸ hp)
    · exact ho p (hth ▸ List.mem_of_mem_erase (e ▸ hp : p ∈ (unlisted x (m.thread b l)).out))

/-- A store has left its thread's list, and nothing else has changed. -/
theorem unlisted_threadsStep {m t : State} {b l : Nat} {x : PStore} (h : t.bare = m.bare.modThread b l (unlisted x)) :
    ThreadsStep b m.bare t.bare (fun k th => if k = l then { th with out := th.out.erase (.store x) } else th) :=
  h ▸ modThread_threadsStep m.bare b l (unlisted x)

/-- A store of committed memory is performed (R152, R164). -/
theorem execMemoryAccessPerformed_committed {s : State} {b l n : Nat} {x : PStore} (hn : (s.thread b l).out[n]? = some (.store x))
    (ho : ∀ p ∈ (s.thread b l).out, ∃ y, p = .store y) (hf : firstOf (s.thread b l) x) (hl : x.link = none) (hver : x.ver = none)
    (hm : x.mix = 0) (hi : x.pa + x.bytes.length ≤ lpddrEnd) (hb : x.bytes ≠ []) (hh : unheld s x.pa) (hw : s.memOk) :
    ∃ t, exec (.memoryAccessPerformed b l n) s = .next t ∧
      (∀ a, t.mem.read a = if x.pa ≤ a ∧ a < x.pa + x.bytes.length then x.bytes.getD (a - x.pa) 0 else s.mem.read a) ∧
      ThreadsStep b (s.withMem t).bare t.bare (fun k th => if k = l then { th with out := th.out.erase (.store x) } else th) := by
  have hput (u : State) : u.memWrite x.pa x.bytes = _ := memWrite_inside hi
  have hv : (s.modThread b l (unlisted x)).homeWrite x.ver x.pa x.bytes = (s.memWrite x.pa x.bytes).modThread b l (unlisted x) := by
    rw [hver, homeWrite_none, hput, hput]
    rfl
  obtain ⟨t, ht, hbare⟩ := execMemoryAccessPerformed_first hn ho hf hl hm hi hb hh hv (by rw [hput])
  have hmem : t.mem = (s.memWrite x.pa x.bytes).mem := (congrArg (fun u : State => u.mem) hbare :)
  have hbad : t.badmem = (s.memWrite x.pa x.bytes).badmem := (congrArg (fun u : State => u.badmem) hbare :)
  refine ⟨t, ht, fun a => ?_, ?_⟩
  · rw [hmem, hput]
    exact read_writeBytes hw x.pa x.bytes a
  · have hwith : s.withMem t = s.memWrite x.pa x.bytes := by
      rw [State.withMem, hmem, hbad, hput]
    rw [hwith]
    exact unlisted_threadsStep hbare

/-- A byte of a version after one is put in (R310). -/
theorem cellAt_cellPut (m : List Host.Cell) (a : Nat) (v : Byte) (y : Nat) :
    cellAt (cellPut m a v) y = if y = a then some v else cellAt m y := by
  induction m with
  | nil =>
    simp only [cellPut, cellAt]
    split
    · rfl
    · simp
  | cons c m ih =>
    obtain ⟨k, w⟩ := c
    simp only [cellPut]
    split
    next hlt =>
      simp only [cellAt]
      grind
    · split
      next he =>
        subst he
        simp only [cellAt]
        grind
      next hge =>
        simp only [cellAt, ih]
        grind

/-- The bytes of a version after several are put in (R310). -/
theorem cellAt_puts (m : List Host.Cell) (pa : Nat) (bs : List Byte) (y : Nat) :
    cellAt ((bs.zip (List.range bs.length)).foldl (fun c b => cellPut c (pa + b.2) b.1) m) y =
      if pa ≤ y ∧ y < pa + bs.length then some (bs.getD (y - pa) 0) else cellAt m y := by
  induction bs using List.reverseRecOn with
  | nil => simp
  | append_singleton bs b ih =>
    have hzip : (bs ++ [b]).zip (List.range (bs ++ [b]).length) = bs.zip (List.range bs.length) ++ [(b, bs.length)] := by
      simp [List.range_succ, List.zip_append]
    rw [hzip, List.foldl_append, List.foldl_cons, List.foldl_nil, cellAt_cellPut, ih]
    simp only [List.length_append, List.length_singleton, List.getD_eq_getElem?_getD, List.getElem?_append]
    grind

/-- A write into a version that takes it (R310). -/
theorem homeWrite_version {s : State} {v pa : Nat} (ho : (s.team v).verOpen = true) (hf : s.versionFull v pa = false) (bs : List Byte) :
    s.homeWrite (some v) pa bs = s.versionPut v pa bs := by
  simp [State.homeWrite, State.writeHome, hf, State.homePut, ho]

/-- A store of a version is performed (R152, R310). -/
theorem execMemoryAccessPerformed_version {s : State} {b l n v : Nat} {x : PStore} (hn : (s.thread b l).out[n]? = some (.store x))
    (ho : ∀ p ∈ (s.thread b l).out, ∃ y, p = .store y) (hf : firstOf (s.thread b l) x) (hl : x.link = none) (hver : x.ver = some v)
    (hm : x.mix = 0) (hi : x.pa + x.bytes.length ≤ lpddrEnd) (hb : x.bytes ≠ []) (hh : unheld s x.pa) (ht : v < s.teams.length)
    (hopen : (s.team v).verOpen = true) (hroom : s.versionFull v x.pa = false) :
    ∃ t, exec (.memoryAccessPerformed b l n) s = .next t ∧ t.mem = s.mem ∧
      (∀ a, t.homeByte (some v) a =
        if x.pa ≤ a ∧ a < x.pa + x.bytes.length then x.bytes.getD (a - x.pa) 0 else s.homeByte (some v) a) ∧
      (∀ u, u ≠ v → t.team u = s.team u) ∧
      ThreadsStep b (State.bare { s with teams := t.teams }) t.bare
        (fun k th => if k = l then { th with out := th.out.erase (.store x) } else th) := by
  have hv : (s.modThread b l (unlisted x)).homeWrite x.ver x.pa x.bytes = (s.versionPut v x.pa x.bytes).modThread b l (unlisted x) := by
    rw [hver]
    exact homeWrite_version (s := s.modThread b l (unlisted x)) hopen hroom _
  obtain ⟨t, hexec, hbare⟩ := execMemoryAccessPerformed_first hn ho hf hl hm hi hb hh hv rfl
  have hmem : t.mem = s.mem := (congrArg (fun u : State => u.mem) hbare :)
  have hteams : t.teams = (s.versionPut v x.pa x.bytes).teams := (congrArg (fun u : State => u.teams) hbare :)
  have hteam (u : Nat) : t.team u = (s.versionPut v x.pa x.bytes).team u := by simp only [State.team, hteams]
  refine ⟨t, hexec, hmem, fun a => ?_, fun u hu => ?_, unlisted_threadsStep ?_⟩
  · have hcells : (t.team v).ver.cells =
        (x.bytes.zip (List.range x.bytes.length)).foldl (fun c b => cellPut c (x.pa + b.2) b.1) (s.team v).ver.cells := by
      rw [hteam, State.versionPut, team_modTeam, if_pos ht]
    simp only [State.homeByte, hcells, cellAt_puts, hmem]
    split <;> rfl
  · rw [hteam, State.versionPut, team_modTeam_ne _ _ _ _ hu]
  · rw [hteams]
    exact hbare

end Sys2Proof.Laws

namespace Sys2Proof.Claims
open Sys2Proof.Machine

/-- Settles O14: a fence stays behind the stores that it orders, and a store that none goes before is performed alone. -/
theorem storeOrder : Obligations.StoreOrder := by
  refine ⟨?acquire, ?fence, ?xfence, ?committed, ?version⟩
  case acquire => exact fun s sc l q hi => Laws.execFence_acquire hi
  case fence =>
    intro s sc k l q hi hk hsc hu ho
    have hwide : decide (sc ≥ 3) = false := Laws.scope_narrow hsc
    refine ⟨_, Laws.exec_issues (by rfl) hi, ?_⟩
    have hk : (k == 1) = false := beq_false_of_ne hk
    have hset : streamSet (l == 1) q = if l = 1 then 0xFFFF else 1#16 <<< q.toNat := by simp only [streamSet, beq_iff_eq]
    dsimp only
    rw [hk, hwide, hset]
    exact Laws.fenceIssued_step (f := ⟨_, _, k = 0, false⟩) hu rfl ho
  case xfence =>
    intro s sc b c hi hsc hu ho
    have hwide : decide (sc ≥ 3) = false := Laws.scope_narrow hsc
    refine ⟨_, Laws.exec_issues (by rfl) hi, ?_⟩
    rw [hwide]
    exact Laws.fenceIssued_step hu rfl ho
  case committed =>
    intro s b l n x hn ho hf hl hv hm hi hb hh hw
    exact Laws.execMemoryAccessPerformed_committed hn ho hf hl hv hm hi hb hh hw
  case version =>
    intro s b l n v x hn ho hf hl hv hm hi hb hh ht hopen hroom _
    exact Laws.execMemoryAccessPerformed_version hn ho hf hl hv hm hi hb hh ht hopen hroom

end Sys2Proof.Claims
end

section
/-! What the accesses of threads keep of the state by which accesses are judged (R153 to R159), and where an access goes (R165). -/
namespace Sys2Proof.Laws
open Sys2Proof.Machine Sys2Proof.Claims

/-! ### States that accesses of one size tell apart by their stores alone -/

/-- A thread without its outstanding accesses, what it keeps of the order of accesses, and when it has read for an `await`. -/
def quietThread (t : Thread) : Thread := { t with out := [], recent := [], acq := [], readAt := 0 }

/-- A bundle whose threads are so. -/
def quietBundle (x : Bundle) : Bundle :=
  { x with threads := x.threads.map quietThread, late := x.late.map (fun o => { o with loads := [] }) }

/-- The word at issue has the same lanes and registers in two states. -/
structure SameLanes (s u : State) : Prop where
  cur : u.cur = s.cur
  ctxs : u.ctxs = s.ctxs
  ticks : u.ticks = s.ticks
  bundle : ∀ c, quietBundle (u.bundle c) = quietBundle (s.bundle c)

/-- A field of a bundle that does not bear on the order of accesses. -/
theorem SameLanes.field {s u : State} (h : SameLanes s u) {α : Type} {φ : Bundle → α} (hφ : ∀ x, φ (quietBundle x) = φ x) (c : Nat) :
    φ (u.bundle c) = φ (s.bundle c) := by
  rw [← hφ, h.bundle, hφ]

/-- A field of a thread that does not bear on the order of accesses. -/
theorem SameLanes.threadField {s u : State} (h : SameLanes s u) {α : Type} {φ : Thread → α} (hφ : ∀ t, φ (quietThread t) = φ t) (c k : Nat) :
    φ (u.thread c k) = φ (s.thread c k) := by
  refine h.field (φ := fun x => φ (x.thread k)) (fun x => ?_) c
  simp only [quietBundle, Bundle.thread, List.getD_eq_getElem?_getD, List.getElem?_map]
  cases x.threads[k]? with
  | none => rfl
  | some t => exact hφ t

theorem SameLanes.width {s u : State} (h : SameLanes s u) (c : Nat) : (u.bundle c).threads.length = (s.bundle c).threads.length :=
  h.field (φ := fun x => x.threads.length) (fun x => by simp [quietBundle]) c

/-- State `u` after accesses of `size` bytes that start in state `s`: memory has changed, threads have more stores outstanding that nobody
else is shown, and more performed accesses that may race; all of these are of that size. -/
structure Alike (size : Nat) (s u : State) : Prop where
  rest : { u with bundles := s.bundles, mem := s.mem, badmem := s.badmem } = s
  bundles : u.bundles.map quietBundle = s.bundles.map quietBundle
  acq : ∀ c k, (u.thread c k).acq = (s.thread c k).acq
  recent : ∀ c k, ∀ x ∈ (u.thread c k).recent, x ∈ (s.thread c k).recent ∨ x.size = size
  stores : ∀ c k, ∀ x ∈ (u.thread c k).stores, x ∈ (s.thread c k).stores ∨ (x.bytes.length = size ∧ x.vis = 0)

theorem Alike.refl (size : Nat) (s : State) : Alike size s s := ⟨rfl, rfl, fun _ _ => rfl, fun _ _ _ => .inl, fun _ _ _ => .inl⟩

/-- What an access changes of a thread, as `Alike` allows. -/
structure AlikeThread (size : Nat) (f : Thread → Thread) : Prop where
  quiet : ∀ t, quietThread (f t) = quietThread t
  acq : ∀ t, (f t).acq = t.acq
  recent : ∀ t, ∀ x ∈ (f t).recent, x ∈ t.recent ∨ x.size = size
  stores : ∀ t, ∀ x ∈ (f t).stores, x ∈ t.stores ∨ (x.bytes.length = size ∧ x.vis = 0)

section
variable {size : Nat} {s u : State}

theorem Alike.modThread (h : Alike size s u) {f : Thread → Thread} (hf : AlikeThread size f) (b l : Nat) :
    Alike size s (u.modThread b l f) := by
  refine ⟨h.rest, ?_, fun c k => ?_, fun c k x hx => ?_, fun c k x hx => ?_⟩
  · refine (map_modify_of_eq (fun x => ?_) b u.bundles).trans h.bundles
    exact congrArg (fun ts => { quietBundle x with threads := ts }) (map_modify_of_eq hf.quiet l x.threads)
  · rw [thread_modThread_view hf.acq, h.acq]
  · rcases thread_modThread_cases u b l f c k with e | e <;> rw [e] at hx
    · exact h.recent c k x hx
    · exact (hf.recent _ x hx).elim (h.recent c k x) .inr
  · rcases thread_modThread_cases u b l f c k with e | e <;> rw [e] at hx
    · exact h.stores c k x hx
    · exact (hf.stores _ x hx).elim (h.stores c k x) .inr

theorem Alike.bindLoads (h : Alike size s u) (b l : Nat) (test : LateLoad → Bool) : Alike size s (u.bindLoads b l test) := by
  unfold State.bindLoads
  split
  · exact h
  · have ht (f : List LateOp → List LateOp) (c k : Nat) : (u.modBundle b (fun x => { x with late := f x.late })).thread c k = u.thread c k := by
      by_cases hc : c = b
      · subst hc
        rw [State.thread, bundle_modBundle]
        split <;> rfl
      · rw [State.thread, bundle_modBundle_ne _ _ _ _ hc, State.thread]
    refine ⟨h.rest, ?_, fun c k => ?_, fun c k => ?_, fun c k => ?_⟩
    · refine (map_modify_of_eq (fun x => ?_) b u.bundles).trans h.bundles
      simp [quietBundle]
    · rw [ht (fun os => os.map _), h.acq]
    · rw [ht (fun os => os.map _)]
      exact h.recent c k
    · rw [ht (fun os => os.map _)]
      exact h.stores c k

theorem Alike.withMemory (h : Alike size s u) (m : Memory) (k : List Nat) : Alike size s { u with mem := m, badmem := k } :=
  ⟨h.rest, h.bundles, h.acq, h.recent, h.stores⟩

/-- The later state, from the earlier one. -/
theorem Alike.eq (h : Alike size s u) : u = { s with bundles := u.bundles, mem := u.mem, badmem := u.badmem } :=
  congrArg (fun v : State => { v with bundles := u.bundles, mem := u.mem, badmem := u.badmem }) h.rest

/-- What accesses do not change of a state. -/
theorem Alike.const (h : Alike size s u) {α : Type} {φ : State → α}
    (hφ : ∀ v bs m k, φ { v with bundles := bs, mem := m, badmem := k } = φ v) : φ u = φ s := by
  rw [← hφ u s.bundles s.mem s.badmem, h.rest]

theorem Alike.cur (h : Alike size s u) : u.cur = s.cur := h.const (φ := State.cur) (fun _ _ _ _ => rfl)

theorem Alike.teams (h : Alike size s u) : u.teams = s.teams := h.const (φ := State.teams) (fun _ _ _ _ => rfl)

/-- The bundles, but for what accesses change of them. -/
theorem Alike.bundle (h : Alike size s u) (c : Nat) : quietBundle (u.bundle c) = quietBundle (s.bundle c) := by
  have e (v : State) : quietBundle (v.bundle c) = (v.bundles.map quietBundle).getD c (quietBundle Bundle.absent) := by
    simp [State.bundle, List.getD_eq_getElem?_getD, Option.getD_map]
  rw [e, e, h.bundles]

/-- Lanes and their registers are as before. -/
theorem Alike.lanes (h : Alike size s u) : SameLanes s u :=
  ⟨h.cur, h.const (φ := State.ctxs) (fun _ _ _ _ => rfl), h.const (φ := State.ticks) (fun _ _ _ _ => rfl), h.bundle⟩

/-- A field of a bundle that accesses do not change. -/
theorem Alike.field (h : Alike size s u) {α : Type} {φ : Bundle → α} (hφ : ∀ x, φ (quietBundle x) = φ x) (c : Nat) :
    φ (u.bundle c) = φ (s.bundle c) := h.lanes.field hφ c

/-- A field of a thread that accesses do not change. -/
theorem Alike.threadField (h : Alike size s u) {α : Type} {φ : Thread → α} (hφ : ∀ t, φ (quietThread t) = φ t) (c k : Nat) :
    φ (u.thread c k) = φ (s.thread c k) := h.lanes.threadField hφ c k

theorem Alike.width (h : Alike size s u) (c : Nat) : (u.bundle c).threads.length = (s.bundle c).threads.length := h.lanes.width c

/-- An access races as it would have raced before. -/
theorem Alike.spot (h : Alike size s u) (b : Nat) (lanes : BitVec 64) (q : Nat) (dev : Bool) (off n : Nat) (ver : Option Nat) :
    u.spot b lanes q dev off n ver = s.spot b lanes q dev off n ver := by
  have hctx : u.streamCfg b q = s.streamCfg b q := by
    have hc : u.ctxs = s.ctxs := h.const (φ := State.ctxs) (fun _ _ _ _ => rfl)
    simp only [State.streamCfg, State.ctx, hc, h.field (φ := Bundle.asid) (fun _ => rfl)]
  have hacq : (u.bundle b).acquired lanes q = (s.bundle b).acquired lanes q := by
    have ha (k : Nat) : ((u.bundle b).thread k).acq = ((s.bundle b).thread k).acq := h.acq b k
    simp only [Bundle.acquired, h.width, ha]
  rw [State.spot, State.spot, hctx, hacq]

theorem Alike.unheld (h : Alike size s u) {off : Nat} (hh : unheld s off) : Claims.unheld u off := by
  unfold Claims.unheld
  rw [h.teams]
  exact hh

/-- A bundle is shown what it was shown before. -/
theorem Alike.shows (h : Alike size s u) (b c : Nat) (x : PStore) : u.shows b c x = s.shows b c x := by
  simp only [State.shows, h.field (φ := Bundle.part) (fun _ => rfl), h.field (φ := Bundle.core) (fun _ => rfl)]

theorem Alike.unseen (h : Alike size s u) {b off n : Nat} (hn : unseen s b off n) : Claims.unseen u b off n := by
  intro c l x hx hs
  rw [h.shows] at hs
  rcases h.stores c l x hx with hx | ⟨-, hv⟩
  · exact hn c l x hx hs
  · simp [State.shows, hv] at hs

/-- A store of the size of an access does not race it (R154). -/
theorem Alike.racing (h : Alike size s u) {z : Spot} (hz : z.size = size) (hr : s.racing z = []) : u.racing z = [] := by
  have e (v : State) : v.racing z = [] ↔ ∀ c < v.bundles.length, ∀ k < (v.bundle c).threads.length, ∀ x ∈ (v.thread c k).stores,
      ¬ (x.races z && !z.owns c k x.stream) = true := by
    simp only [State.racing, indices, List.flatMap_eq_nil_iff, List.mem_range, List.map_eq_nil_iff, List.filter_eq_nil_iff]
  have hlen : u.bundles.length = s.bundles.length := by simpa using congrArg List.length h.bundles
  rw [e] at hr ⊢
  intro c hc k hk x hx
  rcases h.stores c k x hx with hx | ⟨hl, -⟩
  · exact hr c (hlen ▸ hc) k (h.width c ▸ hk) x hx
  · simp [PStore.races, hl, hz]

/-- Commands race an access as before. -/
theorem Alike.cmdTouched (h : Alike size s u) (z : Spot) (store : Bool) : u.cmdTouched z store = s.cmdTouched z store := by
  have hopen (c : Cmd) : u.cmdOpen c = s.cmdOpen c := by
    simp only [State.cmdOpen, h.field (φ := Bundle.live) (fun _ => rfl)]
  have hother : { s with bundles := u.bundles, mem := u.mem, badmem := u.badmem }.cmdTouched z store =
      (let open_ := s.cmds.filter (fun c => u.cmdOpen c && s.cmdVer c == z.ver)
       (List.range z.size).filterMap (fun i => if open_.any (fun c => s.cmdMeets c z store (z.off + i)) then some (z.off + i, 1) else none)) := rfl
  rw [h.eq, hother]
  simp only [hopen]
  rfl

/-- A performed access of the size of another one does not race it (R154). -/
theorem Alike.touched (h : Alike size s u) {z : Spot} (hz : z.size = size) {store : Bool} (ht : s.touched z store = []) :
    u.touched z store = [] := by
  have e (v : State) : v.touched z store = [] ↔ ((∀ c < v.bundles.length, ∀ k < (v.bundle c).threads.length,
      ∀ x ∈ (v.thread c k).recent, ¬ x.races c z store = true) ∧
      (v.outside.filter (fun x => x.races v.bundles.length z store)) = []) ∧ v.cmdTouched z store = [] := by
    have et (c : Nat) : (∀ t ∈ (v.bundle c).threads, ∀ x ∈ t.recent, ¬ x.races c z store = true) ↔
        ∀ k < (v.bundle c).threads.length, ∀ x ∈ (v.thread c k).recent, ¬ x.races c z store = true := by
      refine List.forall_mem_iff_getElem.trans (forall₂_congr fun k hk => ?_)
      rw [State.thread, Bundle.thread, List.getD_eq_getElem _ _ hk]
    simp only [State.touched, indices, List.append_eq_nil_iff, List.flatMap_eq_nil_iff, List.mem_range, List.map_eq_nil_iff,
      List.filter_eq_nil_iff, et]
  have hlen : u.bundles.length = s.bundles.length := by simpa using congrArg List.length h.bundles
  have hout : u.outside = s.outside := h.const (φ := State.outside) (fun _ _ _ _ => rfl)
  rw [e, hlen, hout, h.cmdTouched]
  rw [e] at ht
  obtain ⟨⟨hr, ho⟩, hc⟩ := ht
  refine ⟨⟨fun c hb k hk x hx => ?_, ho⟩, hc⟩
  rcases h.recent c k x hx with hx | hx
  · exact hr c hb k (h.width c ▸ hk) x hx
  · simp [Touch.races, hx, hz]

end

end Sys2Proof.Laws
end

section
/-! Loads, stores and atomics of main memory that race none (R152 to R158, R169). -/
namespace Sys2Proof.Laws
open Sys2Proof.Machine Sys2Proof.Claims

/-! ### What a load sees -/

/-- Two states have the same memory, teams and outstanding stores. -/
structure SameStores (s u : State) : Prop where
  mem : u.mem = s.mem
  teams : u.teams = s.teams
  count : u.bundles.length = s.bundles.length
  part : ∀ c, (u.bundle c).part = (s.bundle c).part
  core : ∀ c, (u.bundle c).core = (s.bundle c).core
  out : ∀ c, (u.bundle c).threads.map (·.out) = (s.bundle c).threads.map (·.out)

/-- A bare state has the same. -/
theorem SameStores.bare (s : State) : SameStores s s.bare := by
  refine ⟨rfl, rfl, by simp [bare_eq], fun c => ?_, fun c => ?_, fun c => ?_⟩ <;> rw [bundle_bare]
  · rfl
  · rfl
  · simp [bareBundle, bareThread]

/-- A thread that changes, but for its outstanding stores. -/
theorem SameStores.modThread {s : State} {f : Thread → Thread} (h : ∀ t, (f t).out = t.out) (b l : Nat) : SameStores s (s.modThread b l f) := by
  refine ⟨rfl, rfl, ?_, fun c => ?_, fun c => ?_, fun c => ?_⟩
  · simp [State.modThread, State.modBundle]
  · exact bundle_modThread_view (φ := Bundle.part) (fun _ => rfl) s b c
  · exact bundle_modThread_view (φ := Bundle.core) (fun _ => rfl) s b c
  · exact bundle_modThread_view (φ := fun x => x.threads.map (·.out)) (fun x => map_modify_of_eq h l x.threads) s b c

theorem SameStores.trans {s u v : State} (h : SameStores s u) (g : SameStores u v) : SameStores s v :=
  ⟨g.mem.trans h.mem, g.teams.trans h.teams, g.count.trans h.count, fun c => (g.part c).trans (h.part c),
    fun c => (g.core c).trans (h.core c), fun c => (g.out c).trans (h.out c)⟩

/-- A thread's outstanding stores. -/
theorem SameStores.thread {s u : State} (h : SameStores s u) (c k : Nat) : (u.thread c k).out = (s.thread c k).out := by
  have e (v : State) : (v.thread c k).out = ((v.bundle c).threads.map (·.out)).getD k [] := by
    simp only [State.thread, Bundle.thread, List.getD_eq_getElem?_getD, List.getElem?_map]
    cases (v.bundle c).threads[k]? <;> rfl
  rw [e, e, h.out]

/-- What a lane sees depends on memory, teams and outstanding stores alone (R157, R158, R164). -/
theorem SameStores.seenByte {s u : State} (h : SameStores s u) (b l q : Nat) (ver : Option Nat) :
    seenByte u b l q ver = seenByte s b l q ver := by
  have hshows (c : Nat) (x : PStore) : u.shows b c x = s.shows b c x := by
    simp only [State.shows, h.part, h.core]
  have hshown (a : Nat) : u.shownByte b ver a = s.shownByte b ver a := by
    have e (v : State) (hv : ∀ c x, v.shows b c x = s.shows b c x) : v.shownByte b ver a =
        (List.range v.bundles.length).findSome? (fun c => ((v.bundle c).threads.map (·.out)).findSome? (fun ps => (storesOf ps).findSome?
          (fun x => if s.shows b c x && x.ver == ver && x.pa ≤ a && a < x.pa + x.bytes.length then x.bytes[a - x.pa]? else none))) := by
      simp only [State.shownByte, indices, List.findSome?_map, hv]
      rfl
    rw [e u hshows, e s fun _ _ => rfl, h.count]
    simp only [h.out]
  funext a
  have hown : (u.thread b l).ownByte q ver a = (s.thread b l).ownByte q ver a := by
    simp only [Thread.ownByte, stores_eq, h.thread]
  have hhome : u.homeByte ver a = s.homeByte ver a := by
    simp only [State.homeByte, State.team, h.mem, h.teams]
  rw [Claims.seenByte, Claims.seenByte, hown, hshown, hhome]

/-- What lanes see in states that are bare alike. -/
theorem seenByte_congr {s u : State} (h : u.bare = s.bare) : seenByte u = seenByte s := by
  funext b l q ver
  rw [← (SameStores.bare u).seenByte, h, (SameStores.bare s).seenByte]

/-! ### Stores that the bundle has seen -/

/-- No store is performed that the bundle has seen, where the test selects none of them (R157). -/
theorem performSeen_unselected {s : State} {b : Nat} {test : PStore → Bool}
    (h : ∀ c l, ∀ x ∈ (s.thread c l).stores, s.shows b c x = true → test x = false) : s.performSeen b test = s := by
  unfold State.performSeen
  refine List.foldl_fixed' (fun c => ?_) _
  refine List.foldl_fixed' (fun l => ?_) _
  split
  · rfl
  · refine performStores_none fun x hx => ?_
    cases hs : s.shows b c x with
    | false => rfl
    | true => exact h c l x hx hs

/-- A range that no store seen meets waits for none. -/
theorem settleSeen_unseen {s : State} {b off n : Nat} (h : unseen s b off n) : s.settleSeen b off n = s := performSeen_unselected h

/-! ### An access that races none -/

/-- Loads that take their values. -/
theorem Alike.bindOwn {size : Nat} {s u : State} (h : Alike size s u) (b l : Nat) (q : Option Nat) (off n : Nat) :
    Alike size s (u.bindOwn b l q off n) := h.bindLoads b l _

theorem bare_bindOwn (s : State) (b l : Nat) (q : Option Nat) (off n : Nat) : (s.bindOwn b l q off n).bare = s.bare := bare_bindLoads s b l _

/-- An access of a size that is kept. -/
theorem Alike.note {s u : State} {z : Spot} (h : Alike z.size s u) (l : Nat) (store : Bool) : Alike z.size s (u.note z l store) := by
  refine h.modThread (f := fun t => { t with recent := keepTouch (z.touch store none 0) t.recent })
    ⟨fun _ => rfl, fun _ => rfl, fun t x hx => ?_, fun _ _ hx => .inl hx⟩ z.b l
  rcases List.mem_append.mp hx with hx | hx
  · exact .inl (List.mem_filter.mp hx).1
  · exact .inr (by rw [List.mem_singleton.mp hx]; rfl)

theorem bare_note (s : State) (z : Spot) (l : Nat) (store : Bool) : (s.note z l store).bare = s.bare :=
  bare_modThread (f := fun t => { t with recent := keepTouch (z.touch store none 0) t.recent }) (fun _ => rfl) s z.b l

theorem Alike.noteStore {s u : State} {z : Spot} (h : Alike z.size s u) (l : Nat) : Alike z.size s (u.noteStore z l) := by
  unfold State.noteStore
  split
  · exact h.note l true
  · exact h

theorem bare_noteStore (s : State) (z : Spot) (l : Nat) : (s.noteStore z l).bare = s.bare := by
  unfold State.noteStore
  split
  · exact bare_note s z l true
  · rfl

/-- An access that races none is not reported (R155). -/
theorem report_alone {s : State} {z : Spot} (hr : s.racing z = []) (lanes : BitVec 64) (va pc : DWord) :
    s.report lanes (s.sizeReport z va pc) = s := by
  have hn : s.sizeReport z va pc = none := by simp [State.sizeReport, hr]
  rw [hn]
  rfl

/-- A load of main memory that races none gives what the lane sees (R157, R158). -/
theorem memLoad_alone {u : State} {z : Spot} (hh : unheld u z.off) (hr : u.racing z = []) (ht : u.touched z false = []) (l : Nat) (tg : Target)
    (va : DWord) : (u.memLoad z l tg va).2 = (List.range z.size).map (fun i => seenByte u z.b l z.q z.ver (z.off + i)) ∧
      (u.memLoad z l tg va).1.bare = u.bare ∧ ∀ s, Alike z.size s u → Alike z.size s (u.memLoad z l tg va).1 := by
  have ha := (Alike.refl z.size u).bindOwn z.b l (some z.q) z.off z.size
  have hb := bare_bindOwn u z.b l (some z.q) z.off z.size
  have hs (s : State) (h : Alike z.size s u) := h.bindOwn z.b l (some z.q) z.off z.size
  unfold State.memLoad
  rw [← seenByte_congr hb]
  generalize u.bindOwn z.b l (some z.q) z.off z.size = m at ha hb hs
  replace hr := ha.racing rfl hr
  replace ht := ha.touched rfl ht
  have hbytes : ((m.homeBytes z.ver z.off z.size).mapIdx (fun i x =>
      (((m.thread z.b l).ownByte z.q z.ver (z.off + i)).orElse (fun _ => m.shownByte z.b z.ver (z.off + i))).getD x)) =
      (List.range z.size).map (fun i => seenByte m z.b l z.q z.ver (z.off + i)) := by
    refine List.ext_getElem (by simp [State.homeBytes]) fun i _ _ => ?_
    simp [State.homeBytes, Claims.seenByte]
  simp only [report_alone hr, State.seenBytes, outsideRead_unheld (ha.unheld hh), hbytes, State.racedLoad]
  split
  · rw [raceEffects_none hr (fun _ => ht), raceMask_none hr ht]
    exact ⟨mixBytes_zero _ _ _, (bare_note m z l false).trans hb, fun s h => (hs s h).note l false⟩
  · exact ⟨rfl, hb, hs⟩

/-- A store to main memory that is about to be made and races none (R154, R157). -/
theorem memStore_alone {u : State} {z : Spot} (hn : unseen u z.b z.off z.size) (hr : u.racing z = []) (ht : u.touched z true = []) (l : Nat)
    (tg : Target) (va : DWord) : u.memStore z l tg va = (u.bindOwn z.b l (some z.q) z.off z.size, 0) := by
  have ha := (Alike.refl z.size u).bindOwn z.b l (some z.q) z.off z.size
  unfold State.memStore
  generalize u.bindOwn z.b l (some z.q) z.off z.size = m at ha
  replace hr := ha.racing rfl hr
  replace ht := ha.touched rfl ht
  dsimp only
  rw [settleSeen_unseen (ha.unseen hn), report_alone hr, State.racedStore]
  split
  · rw [raceEffects_none hr (fun h => by cases h), raceMask_none hr ht]
  · rfl

/-- A change that leaves a team as it was changes nothing. -/
theorem modTeam_self {s : State} {t : Nat} {f : Team → Team} (h : f (s.team t) = s.team t) : s.modTeam t f = s := by
  have e : s.teams.modify t f = s.teams := by
    refine List.ext_getElem (by simp) fun i _ hi => ?_
    rw [List.getElem_modify]
    split
    next he =>
      subst he
      simpa [State.team, List.getD_eq_getElem?_getD, hi] using h
    next => rfl
  exact congrArg (fun ts => { s with teams := ts }) e

/-- Monitors that are not armed see nothing (R297). -/
theorem watchWrite_unarmed {u : State} {t : Nat} (h : ∀ m ∈ (u.team t).mons, m.st ≠ .armed) (core q : Nat) (va : DWord) (bs : List Byte)
    (atomic : Bool) : u.watchWrite t core q va bs atomic = u := by
  refine modTeam_self ?_
  have hsee : (u.team t).mons.map (fun m => m.see core q va bs atomic) = (u.team t).mons := by
    conv => rhs; rw [← List.map_id (u.team t).mons]
    exact List.map_congr_left fun m hm => by simp [Monitor.see, h m hm]
  rw [hsee]

/-- No injection that is not armed (R317). -/
theorem inject_unarmed {u : State} {asid : BitVec 16} (h : (u.ctx asid).inject.getLsbD 63 = false) (va : DWord) (bs : List Byte) :
    u.inject asid va bs = (u, bs) := by
  unfold State.inject
  simp only [h, Bool.false_and, Bool.false_eq_true, if_false]

/-- What leaves a bundle that is quiet is what it stores (R297, R317). -/
theorem leaving_quiet {u : State} (h : quiet u) (q : Nat) (va : DWord) (bs : List Byte) (atomic : Bool) :
    u.leaving u.cur.bundle q va bs atomic = (u, bs) := by
  obtain ⟨hi, hm⟩ := h
  unfold State.leaving
  dsimp only
  rw [inject_unarmed (u := u) (asid := (u.bundle u.cur.bundle).asid) hi]
  dsimp only
  cases ht : (u.bundle u.cur.bundle).team with
  | none => rfl
  | some t => exact congrArg (fun v => (v, bs)) (watchWrite_unarmed (hm t ht) _ q va bs atomic)

/-- Accesses leave the bundle quiet. -/
theorem Alike.quiet {size : Nat} {s u : State} (h : Alike size s u) (hq : quiet s) : Claims.quiet u := by
  obtain ⟨hi, hm⟩ := hq
  have hctx : u.ctxs = s.ctxs := h.const (φ := State.ctxs) (fun _ _ _ _ => rfl)
  refine ⟨?_, ?_⟩
  · have e : u.curCtx = s.curCtx := by
      simp only [State.curCtx, State.ctx, State.curB, hctx, h.cur, h.field (φ := Bundle.asid) (fun _ => rfl)]
    rwa [e]
  · simpa only [State.curB, State.team, h.cur, h.teams, h.field (φ := Bundle.team) (fun _ => rfl)] using hm

/-- A store to main memory that races none is outstanding in its thread (R152), and does nothing else. -/
theorem storeTo_alone {s u : State} {l q off : Nat} {lanes : BitVec 64} {bs : List Byte} {ver : Option Nat} {dev : Bool}
    (ha : Alike bs.length s u) (hq : quiet s) (hn : unseen s s.cur.bundle off bs.length)
    (hr : s.racing (s.spot s.cur.bundle lanes q dev off bs.length ver) = [])
    (ht : s.touched (s.spot s.cur.bundle lanes q dev off bs.length ver) true = []) (va : DWord) :
    (u.storeTo s.cur.bundle l q lanes va bs (.mem off ver dev)).bare =
        u.bare.modThread s.cur.bundle l (fun th => withOut th (newStore s q va off bs ver dev)) ∧
      Alike bs.length s (u.storeTo s.cur.bundle l q lanes va bs (.mem off ver dev)) := by
  have hl := leaving_quiet (ha.quiet hq) q va bs false
  rw [ha.cur] at hl
  have hst := memStore_alone (u := u) (z := s.spot s.cur.bundle lanes q dev off bs.length ver) (ha.unseen hn) (ha.racing rfl hr)
    (ha.touched rfl ht) l (.mem off ver dev) va
  have hb := ha.bindOwn s.cur.bundle l (some q) off bs.length
  have hpush : u.storeTo s.cur.bundle l q lanes va bs (.mem off ver dev) = (u.bindOwn s.cur.bundle l (some q) off bs.length).modThread
      s.cur.bundle l (fun th => withOut th (newStore s q va off bs ver dev)) := by
    unfold State.storeTo
    rw [hl]
    dsimp only
    rw [ha.spot, hst]
    rw [newStore, show s.cur.pc = (u.bindOwn s.cur.bundle l (some q) off bs.length).cur.pc by rw [hb.cur]]
    rfl
  rw [hpush]
  refine ⟨?_, hb.modThread (f := fun th => withOut th (newStore s q va off bs ver dev))
    ⟨fun _ => rfl, fun _ => rfl, fun _ _ => .inl, fun t x hx => ?_⟩ _ _⟩
  · rw [bare_modThread_comm (f := fun th => withOut th (newStore s q va off bs ver dev)) (fun _ => rfl), bare_bindOwn]
  · rw [stores_eq, mem_storesOf] at hx
    rcases List.mem_append.mp hx with hx | hx
    · exact .inl (by rwa [stores_eq, mem_storesOf])
    · rw [newStore, List.mem_singleton, Pending.store.injEq] at hx
      exact .inr (by simp [hx])

/-- A store at home of committed memory that no stash line holds. -/
theorem outsideWrite_committed {u : State} {off : Nat} {bs : List Byte} (hh : unheld u off) (hi : off + bs.length ≤ lpddrEnd) :
    ∃ k, u.outsideWrite none off bs = { u with mem := u.mem.writeBytes off bs, badmem := k } :=
  ⟨_, by rw [outsideWrite_unheld hh, homeWrite_none, memWrite_inside hi]⟩

/-- An atomic on committed memory that races none gives the old value and leaves the new one (R169). -/
theorem atomAt_alone {s u : State} {l q off size : Nat} {dev : Bool} (ha : Alike size s u) (hq : quiet s)
    (ho : (u.thread s.cur.bundle l).out = []) (hh : unheld s off) (hn : unseen s s.cur.bundle off size)
    (hr : s.racing (s.spot s.cur.bundle (laneBit l) q dev off size none) = [])
    (ht : s.touched (s.spot s.cur.bundle (laneBit l) q dev off size none) true = []) (hi : off + size ≤ lpddrEnd) (va : DWord)
    (new : Nat → Nat) : ∃ t k, u.atomAt s.cur.bundle l q va size new (.mem off none dev) = (t, ofBytes (u.mem.readBytes off size), none) ∧
      t.bare = State.bare { u with mem := u.mem.writeBytes off (bytesOf size (new (ofBytes (u.mem.readBytes off size)))), badmem := k } ∧
      Alike size s t := by
  have hdrain : u.drainOwn s.cur.bundle l (some q) off size = u := performStores_none fun x hx => by simp [Thread.stores, ho] at hx
  have hst (tg : Target) : u.memStore (s.spot s.cur.bundle (laneBit l) q dev off size none) l tg va =
      (u.bindOwn s.cur.bundle l (some q) off size, 0) := memStore_alone (ha.unseen hn) (ha.racing rfl hr) (ha.touched rfl ht) l tg va
  have hb := ha.bindOwn s.cur.bundle l (some q) off size
  have hbare := bare_bindOwn u s.cur.bundle l (some q) off size
  have hmem : (u.bindOwn s.cur.bundle l (some q) off size).mem = u.mem := (congrArg State.mem hbare :)
  unfold State.atomAt
  dsimp only
  rw [hdrain, ha.spot, hst]
  generalize u.bindOwn s.cur.bundle l (some q) off size = m at hb hbare hmem
  have hl (bs : List Byte) := leaving_quiet (hb.quiet hq) q va bs true
  rw [hb.cur] at hl
  simp only [outsideRead_unheld (hb.unheld hh), homeBytes_none, hl, hmem]
  rw [mixBytes_zero, mixBytes_zero]
  generalize hn : bytesOf size (new (ofBytes (u.mem.readBytes off size))) = bs
  obtain ⟨k, hk⟩ := outsideWrite_committed (hb.unheld hh) (bs := bs) (by simpa [← hn] using hi)
  rw [hk, hmem]
  refine ⟨_, k, rfl, (bare_noteStore _ _ l).trans ?_,
    Alike.noteStore (z := s.spot s.cur.bundle (laneBit l) q dev off size none) (hb.withMemory _ _) l⟩
  exact congrArg (fun v : State => { v with mem := u.mem.writeBytes off bs, badmem := k }) hbare

end Sys2Proof.Laws
end

section
/-! Lane words that access main memory (R165 to R167, R169): their lanes in turn, and how they end. -/
namespace Sys2Proof.Laws
open Sys2Proof.Machine Sys2Proof.Claims

/-! ### Where an access goes (R165) -/

/-- A stop of a watchpoint is a trap (R367). -/
theorem watchStop_mem {s : State} {b l size q off : Nat} {va : DWord} {reads writes dev : Bool} {ver : Option Nat} {t : Target}
    (h : s.watchStop b l va size q reads writes t = .mem off ver dev) :
    t = .mem off ver dev ∧ ((s.thread b l).skip = true ∨ s.watchHit b va size reads writes = none) := by
  unfold State.watchStop at h
  split at h
  next hs => exact ⟨h, .inl hs⟩
  next =>
    split at h
    · cases h
    next hw => exact ⟨h, .inr hw⟩

/-- Where an access of an address that no window holds goes by its physical address (R165, R321). -/
def placeOf (m : State) (b l : Nat) (reads direct : Bool) (pa : Nat) (leaf : DWord) : Target :=
  if !m.isLocal pa then (match m.routeOf pa with
    | some i => .remote pa i
    | none => .unreachable)
  else if m.paDevice pa then (if reads && (m.thread b l).deviceStore then Target.busy else .device pa)
  else .mem (paOffset pa) (m.verOf b direct) (leafDevice leaf)

/-- An access goes to main memory of this device, where state `t` is left by its translation (R165). -/
structure GoesTo (s t : State) (b l : Nat) (va : DWord) (size q : Nat) (k : Access) (off : Nat) (ver : Option Nat) (dev : Bool) : Prop where
  aligned : va.toNat % size = 0
  valid : vaValid va = true
  shared : vaPrivate va = false
  page : ∃ pa leaf, s.xlate (s.bundle b).coreNo (s.bundle b).asid va k = (t, .ok pa leaf) ∧ t.paExists pa = true ∧ t.isLocal pa = true ∧
    t.paDevice pa = false ∧ off = paOffset pa ∧ dev = leafDevice leaf
  version : ver = t.verOf b (s.streamDirect b q)
  window : ∀ x, (t.bundle b).team = some x → (t.team x).windowAt va = none
  watch : (t.thread b l).skip = true ∨ t.watchHit b va size (!(k == .write || k == .engineWrite)) k.isStore = none

theorem locate_mem {s t : State} {b l size q off : Nat} {va : DWord} {k : Access} {ver : Option Nat} {dev : Bool}
    (h : s.locate b l va size q k = (t, .mem off ver dev)) : GoesTo s t b l va size q k off ver dev := by
  unfold State.locate State.locateAs at h
  dsimp only at h
  split at h
  · cases h
  next hal =>
  split at h
  · cases h
  next hva =>
  split at h
  · split at h
    · cases h
    · split at h
      · cases h
      next =>
        rw [Prod.mk.injEq] at h
        cases (watchStop_mem h.2).1
  next hpr =>
  split at h
  · cases h
  · cases h
  next m pa leaf hx =>
  split at h
  · cases h
  next hex =>
  have hgo (hw : ∀ x, (m.bundle b).team = some x → (m.team x).windowAt va = none)
      (hm : (m, m.watchStop b l va size q (!(k == .write || k == .engineWrite)) k.isStore
        (placeOf m b l (!(k == .write || k == .engineWrite)) (s.streamDirect b q) pa leaf)) = (t, .mem off ver dev)) :
      GoesTo s t b l va size q k off ver dev := by
    rw [Prod.mk.injEq] at hm
    obtain ⟨rfl, hm⟩ := hm
    obtain ⟨hm, hwatch⟩ := watchStop_mem hm
    unfold placeOf at hm
    split at hm
    · split at hm <;> cases hm
    next hl =>
    split at hm
    · split at hm <;> cases hm
    next hd =>
    cases hm
    exact ⟨by simpa using hal, by simpa using hva, by simpa using hpr,
      ⟨pa, leaf, hx, by simpa using hex, by simpa using hl, by simpa using hd, rfl, rfl⟩, rfl, hw, hwatch⟩
  split at h
  next hn => exact hgo (fun x hx => by rw [hn] at hx; cases hx) h
  next x hteam =>
  split at h
  next hn => exact hgo (fun y hy => by rw [hteam] at hy; cases hy; exact hn) h
  next w hw =>
  split at h
  · cases h
  split at h
  · cases h
  have hno {v : State} {y : Target}
      (hm : (v, v.watchStop b l va size q (!(k == .write || k == .engineWrite)) k.isStore y) = (t, .mem off ver dev)) :
      y = .mem off ver dev := by
    rw [Prod.mk.injEq] at hm
    exact (watchStop_mem hm.2).1
  split at h
  · split at h
    · cases hno h
    · cases hno h
  · have hy := hno h
    split at hy <;> cases hy

/-- An access of which these hold goes there. -/
theorem GoesTo.locate {s t : State} {b l size q off : Nat} {va : DWord} {k : Access} {ver : Option Nat} {dev : Bool}
    (h : GoesTo s t b l va size q k off ver dev) : s.locate b l va size q k = (t, .mem off ver dev) := by
  obtain ⟨hal, hva, hpr, ⟨pa, leaf, hx, hex, hl, hd, rfl, rfl⟩, rfl, hw, hwatch⟩ := h
  have hstop (y : Target) : t.watchStop b l va size q (!(k == .write || k == .engineWrite)) k.isStore y = y := by
    unfold State.watchStop
    rcases hwatch with hs | hs
    · rw [if_pos hs]
    · rw [hs]
      exact ite_self y
  unfold State.locate State.locateAs
  simp only [hal, hva, hpr, hx, hex, hl, hd, bne_self_eq_false, Bool.not_true, Bool.false_eq_true, if_false, hstop]
  cases hteam : (t.bundle b).team with
  | none => rfl
  | some x =>
    dsimp only
    rw [hw x hteam]

/-- A version in which a bundle's accesses act is one that takes writes (R311). -/
theorem verNow_verOf (s : State) (b : Nat) (direct : Bool) : s.verNow (s.verOf b direct) = s.verOf b direct := by
  unfold State.verOf
  cases (s.bundle b).team with
  | none => rfl
  | some t =>
    dsimp only
    split
    next h => simp_all [State.verNow]
    next => rfl

/-- What a walk found is cached (R326). -/
theorem walkFill_tlbIn {s m : State} {place r : Nat} {asid : BitVec 16} {va : DWord} {store : Bool} {e : TlbEntry}
    (h : s.walkFill place asid va store = (m, some e, r)) : m.tlbIn place asid va = some e := by
  unfold State.walkFill at h
  split at h
  · cases h
  · simp only [Prod.mk.injEq, Option.some.injEq] at h
    obtain ⟨rfl, rfl, -⟩ := h
    simp [State.tlbIn, State.tlbPut]

/-- A translation for a load that changes nothing is one that is cached (R326). -/
theorem xlate_cached {s : State} {place pa : Nat} {asid : BitVec 16} {va leaf : DWord}
    (h : s.xlate place asid va .read = (s, .ok pa leaf)) : ∃ e, s.tlbFind place asid va = some e ∧
      (e.place ≠ place → (s.tlbPut { e with place := place }).tlb = s.tlb) ∧ leafAllows e.leaf .read = true ∧
      pa = e.frame + va.toNat % 2 ^ e.size ∧ leaf = e.leaf := by
  unfold State.xlate at h
  dsimp only at h
  have hs : Access.isStore .read = false := rfl
  rw [hs] at h
  cases hf : s.tlbFind place asid va with
  | some e =>
    simp only [hf, Bool.false_and, Bool.false_eq_true, if_false, Prod.mk.injEq] at h
    obtain ⟨hp, hok⟩ := h
    split at hok
    next ha =>
      cases hok
      refine ⟨e, rfl, fun hne => ?_, ha, rfl, rfl⟩
      rw [if_neg (by simpa using hne)] at hp
      exact congrArg State.tlb hp
    next => cases hok
  | none =>
    simp only [hf] at h
    split at h
    · cases h
    · split at h
      next m e r hw =>
        rw [Prod.mk.injEq] at h
        obtain ⟨rfl, -⟩ := h
        rw [State.tlbFind, walkFill_tlbIn hw] at hf
        cases hf
      next => cases h

/-- It is cached still where only bundles and memory have changed. -/
theorem xlate_of_cached {s u : State} {place pa : Nat} {asid : BitVec 16} {va leaf : DWord} (ht : u.tlb = s.tlb)
    (h : s.xlate place asid va .read = (s, .ok pa leaf)) : u.xlate place asid va .read = (u, .ok pa leaf) := by
  obtain ⟨e, hf, hp, ha, rfl, rfl⟩ := xlate_cached h
  have hfu : u.tlbFind place asid va = some e := by
    simpa only [State.tlbFind, State.tlbIn, ht] using hf
  unfold State.xlate
  have hs : Access.isStore .read = false := rfl
  simp only [hfu, hs, Bool.false_and, Bool.false_eq_true, if_false, ha, if_true]
  split
  · rfl
  next hne =>
    have hu : (u.tlbPut { e with place := place }).tlb = u.tlb := by
      simp only [State.tlbPut, ht]
      exact hp (by simpa using hne)
    exact congrArg (fun c => ({ u with tlb := c }, Xl.ok _ e.leaf)) hu

/-- A load goes where it would have gone before other accesses. -/
theorem Alike.locate {n : Nat} {s u : State} (h : Alike n s u) {b l size q off : Nat} {va : DWord} {ver : Option Nat} {dev : Bool}
    (hl : s.locate b l va size q .read = (s, .mem off ver dev)) : u.locate b l va size q .read = (u, .mem off ver dev) := by
  obtain ⟨hal, hva, hpr, ⟨pa, leaf, hx, hplace⟩, hver, hw, hwatch⟩ := locate_mem hl
  have hteam := h.field (φ := Bundle.team) (fun _ => rfl) b
  have hasid := h.field (φ := Bundle.asid) (fun _ => rfl) b
  have hbidx := h.field (φ := Bundle.bidx) (fun _ => rfl) b
  have hcore := h.field (φ := Bundle.coreNo) (fun _ => rfl) b
  have hskip := h.threadField (φ := Thread.skip) (fun _ => rfl) b l
  have hctxs := h.const (φ := State.ctxs) (fun _ _ _ _ => rfl)
  refine GoesTo.locate ⟨hal, hva, hpr, ⟨pa, leaf, ?_, ?_⟩, ?_, ?_, ?_⟩
  · rw [hcore, hasid]
    exact xlate_of_cached (h.const (φ := State.tlb) (fun _ _ _ _ => rfl)) hx
  · rwa [h.eq]
  · rw [hver]
    have hvers := h.const (φ := State.versioned) (fun _ _ _ _ => rfl)
    have hteams := h.const (φ := State.team) (fun _ _ _ _ => rfl)
    have hstream : u.streamDirect b q = s.streamDirect b q := by
      simp only [State.streamDirect, State.streamCfg, State.ctx, hasid, hctxs]
    rw [hstream, State.verOf, State.verOf, hteam, hvers, hteams]
  · simpa only [hteam, State.team, h.teams] using hw
  · rw [hskip]
    refine hwatch.imp_right fun hn => ?_
    simpa only [State.watchHit, State.watchSelects, State.ctx, State.team, hteam, hasid, hbidx, hctxs, h.teams] using hn

/-- The version of an access is the same when its lane acts (R311). -/
theorem Alike.revisit {n : Nat} {s u : State} (h : Alike n s u) {b l size q off : Nat} {va : DWord} {k : Access} {ver : Option Nat}
    {dev : Bool} (hl : s.locate b l va size q k = (s, .mem off ver dev)) :
    u.revisit b l va size q k (.mem off ver dev) = (u, .mem off ver dev) := by
  have hver : u.verNow ver = ver := by
    rw [(locate_mem hl).version, h.const (φ := State.verNow) (fun _ _ _ _ => rfl), verNow_verOf]
  rw [State.revisit, hver]

/-! ### Lanes that act in turn -/

/-- What lanes do in turn to a value, and the fate of each. -/
def inTurn {σ α : Type} (step : σ → Nat → σ) (out : σ → Nat → α) : σ → List Nat → σ × List (Nat × α)
  | x, [] => (x, [])
  | x, l :: ls =>
    let r := inTurn step out (step x l) ls
    (r.1, (l, out x l) :: r.2)

/-- What a lane access does that goes to main memory and faults nowhere: the relation `R` of states to values goes on to hold, and the lane
has the fate `out`. -/
structure Acts {σ : Type} (R : State → σ → Prop) (step : σ → Nat → σ) (out : σ → Nat → Fate) (x : σ) (l : Nat) (r : LaneAct) : Prop where
  next : R r.s (step x l)
  fate : r.fate = out x l
  link : r.link = none

/-- Lanes that act in turn (R167, R169). -/
theorem actAll_inTurn {σ : Type} {R : State → σ → Prop} {step : σ → Nat → σ} {out : σ → Nat → Fate}
    {again : State → Nat → Target → State × Target} {act : State → Nat → Target → LaneAct} {tg : Nat → Target} {ls : List Nat}
    (htg : ∀ l ∈ ls, ∀ i, tg l ≠ .trap i) (hagain : ∀ l ∈ ls, ∀ u x, R u x → again u l (tg l) = (u, tg l))
    (hact : ∀ l ∈ ls, ∀ u x, R u x → Acts R step out x l (act u l (tg l))) {u : State} {x : σ} (h : R u x) :
    ∃ v rs, actAll again act u (ls.map (fun l => (l, tg l))) = (v, rs) ∧ R v (inTurn step out x ls).1 ∧
      rs.map (fun r => (r.1, r.2.fate)) = (inTurn step out x ls).2 ∧ rs.filterMap (fun r => r.2.link) = [] := by
  induction ls generalizing u x with
  | nil => exact ⟨u, [], rfl, h, rfl, rfl⟩
  | cons l ls ih =>
    obtain ⟨hnext, hfate, hlink⟩ := hact l List.mem_cons_self u x h
    obtain ⟨v, rs, hv, hr, hf, hl⟩ := ih (fun k hk => htg k (List.mem_cons_of_mem l hk)) (fun k hk => hagain k (List.mem_cons_of_mem l hk))
      (fun k hk => hact k (List.mem_cons_of_mem l hk)) hnext
    refine ⟨v, (l, act u l (tg l)) :: rs, ?_, hr, ?_, ?_⟩
    · rw [List.map_cons, actAll, hagain l List.mem_cons_self u x h]
      split
      next i he => exact absurd (congrArg Prod.snd he) (htg l List.mem_cons_self i)
      next he =>
        cases he
        dsimp only
        rw [hv]
    · simp [inTurn, hfate, hf]
    · simp [hlink, hl]

end Sys2Proof.Laws
end

section
/-! How the lanes of a word end (R94, R113), in a state without what it keeps of the order of accesses. -/
namespace Sys2Proof.Laws
open Sys2Proof.Machine Sys2Proof.Claims

/-! ### What the order of accesses does not bear on -/

theorem quietBundle_bare (x : Bundle) : quietBundle (bareBundle x) = quietBundle x := by
  simp [quietBundle, bareBundle, quietThread, bareThread]

theorem SameLanes.bare (s : State) : SameLanes s s.bare :=
  ⟨rfl, rfl, rfl, fun c => by rw [bundle_bare, quietBundle_bare]⟩

section
variable {s u : State}

theorem SameLanes.issued (h : SameLanes s u) : u.issued = s.issued := by
  simp only [State.issued, State.curB, h.cur, h.width]

theorem SameLanes.isActive (h : SameLanes s u) (l : Nat) : u.isActive l = s.isActive l := by
  have hm := h.field (φ := Bundle.m) (fun _ => rfl)
  simp only [State.isActive, State.activeMask, State.curB, h.cur, hm]

theorem SameLanes.zeroing (h : SameLanes s u) : u.zeroing = s.zeroing := by
  simp only [State.zeroing, h.cur]

/-- Registers read the same. -/
theorem SameLanes.readV (h : SameLanes s u) (b l n : Nat) : u.readV b l n = s.readV b l n := by
  have hk : (u.thread b l).key = (s.thread b l).key := h.threadField (fun _ => rfl) b l
  have hb : (u.thread b l).boundAt = (s.thread b l).boundAt := h.threadField (fun _ => rfl) b l
  have hg : (u.thread b l).keyGet = (s.thread b l).keyGet := h.threadField (fun _ => rfl) b l
  have hl : (u.bundle b).lateFor = (s.bundle b).lateFor := h.field (fun x => by
    funext l k
    simp [Bundle.lateFor, quietBundle, List.foldl_map]) b
  simp only [State.readV, hk, hb, hg, hl, h.ticks]

/-- Lanes fail the same checks. -/
theorem SameLanes.laneTrap (h : SameLanes s u) (l : Nat) (o : LaneOp) : u.laneTrap l o = s.laneTrap l o := by
  have hw : (u.curB.thread l).windowTrap = (s.curB.thread l).windowTrap := by
    rw [State.curB, State.curB, h.cur]
    exact h.threadField (φ := Thread.windowTrap) (fun _ => rfl) s.cur.bundle l
  have hp : (u.curB.thread l).pendingDst = (s.curB.thread l).pendingDst := by
    rw [State.curB, State.curB, h.cur]
    exact h.threadField (φ := Thread.pendingDst) (fun _ => rfl) s.cur.bundle l
  have hc : u.tagCheck = s.tagCheck := by
    simp only [State.tagCheck, State.curCtx, State.ctx, State.curB, h.cur, h.ctxs, h.field (φ := Bundle.asid) (fun _ => rfl)]
  simp only [State.laneTrap, hw, hp, hc, h.readV, h.cur]

theorem SameLanes.lanesPass (h : SameLanes s u) {o : LaneOp} (hp : s.lanesPass o) : u.lanesPass o := fun l hl ha =>
  (h.laneTrap l o).trans (hp l (h.issued ▸ hl) (h.isActive l ▸ ha))

theorem SameLanes.laneFate (h : SameLanes s u) (o : LaneOp) (f : Nat → Fate) : u.laneFate o f = s.laneFate o f := by
  funext l
  simp only [State.laneFate, h.cur, h.isActive, h.zeroing, h.laneTrap]

end

/-! ### Lanes that meet their fates -/

/-- A register write does not look at the order of accesses. -/
theorem bareThread_writeV (t : Thread) (n : Nat) (r : Reg) : bareThread (t.writeV n r) = (bareThread t).writeV n r := by
  have hset (t : Thread) (k : Nat) : bareThread (t.keySet k r) = (bareThread t).keySet k r := by
    unfold Thread.keySet
    split <;> rfl
  have hkey (k : Nat) : bareThread (t.writeKey k r) = (bareThread t).writeKey k r := by
    unfold Thread.writeKey
    have hb : (bareThread t).bound = t.bound := rfl
    rw [hb]
    split
    · exact hset t k
    · dsimp only
      split
      · rfl
      · exact hset _ k
  unfold Thread.writeV
  have hw : (bareThread t).inWindow n = t.inWindow n := rfl
  rw [hw]
  split
  · exact hkey _
  · rfl

/-- How a lane ends does not either. -/
theorem bareThread_meet (t : Thread) (pc : DWord) (now : Bool) (f : Fate) : bareThread (t.meet pc now f) = (bareThread t).meet pc now f := by
  have hws (ws : List (Nat × Reg)) : bareThread (t.writes ws) = (bareThread t).writes ws :=
    (List.foldl_hom bareThread fun t w => (bareThread_writeV t w.1 w.2).symm).symm
  cases f with
  | done ws fl =>
    cases now with
    | false => rfl
    | true => exact congrArg (fun y : Thread => { y with fstat := t.fstat ||| fl, pc := pc + 4, fell := true }) (hws ws)
  | none => rfl
  | stay st => rfl
  | trap i => rfl

theorem lateOf_bare (t : Thread) (l : Nat) (f : Fate) : lateOf (bareThread t) l f = lateOf t l f := by
  cases f <;> rfl

/-- Nor do the marks of races for a register. -/
theorem bareBundle_clashV (x : Bundle) (l k : Nat) : bareBundle (x.clashV l k) = (bareBundle x).clashV l k := by
  unfold Bundle.clashV
  have he : (bareBundle x).late.isEmpty = x.late.isEmpty := by simp [bareBundle]
  rw [he]
  split
  · rfl
  · simp [bareBundle]

theorem thread_bareBundle (x : Bundle) (l : Nat) : (bareBundle x).thread l = bareThread (x.thread l) := by
  simp only [bareBundle, Bundle.thread, List.getD_eq_getElem?_getD, List.getElem?_map]
  cases x.threads[l]? <;> rfl

theorem bareBundle_contest (x : Bundle) (fate : Nat → Fate) : bareBundle (x.contest fate) = (bareBundle x).contest fate := by
  unfold Bundle.contest
  have he : (bareBundle x).late.isEmpty = x.late.isEmpty := by simp [bareBundle]
  have hn : (bareBundle x).threads.length = x.threads.length := by simp [bareBundle]
  rw [he, hn]
  split
  · rfl
  · refine (List.foldl_hom bareBundle fun y l => ?_).symm
    split
    · refine List.foldl_hom bareBundle fun z w => ?_
      rw [bareBundle_clashV, thread_bareBundle]
      rfl
    · rfl

/-- A change of a bundle, where `g` is what it is without the order of accesses. -/
theorem bare_modBundle_map {f g : Bundle → Bundle} (h : ∀ x, bareBundle (f x) = g (bareBundle x)) (s : State) (b : Nat) :
    (s.modBundle b f).bare = s.bare.modBundle b g := by
  have e : (s.bundles.modify b f).map bareBundle = (s.bundles.map bareBundle).modify b g := by
    refine List.ext_getElem (by simp) fun k _ _ => ?_
    simp only [List.getElem_map, List.getElem_modify]
    split
    · exact h _
    · rfl
  exact congrArg (fun bs => { s with outside := [], bundles := bs }) e

/-- Lanes of which none traps meet their fates. -/
theorem bare_meetAll {v : State} {fate : Nat → Fate} (ht : ∀ l ∈ v.issued, ∀ i, fate l ≠ .trap i) (long : Bool) (loads : List LateLoad) :
    (v.meetAll long [] loads fate).bare = v.bare.meetAll long [] [] fate := by
  have hi : v.bare.issued = v.issued := (SameLanes.bare v).issued
  have hl : v.bare.issued.flatMap (fun l => lateOf (v.bare.curB.thread l) l (fate l)) =
      v.issued.flatMap (fun l => lateOf (v.curB.thread l) l (fate l)) := by
    rw [hi]
    refine List.flatMap_congr fun l _ => ?_
    rw [← lateOf_bare (v.curB.thread l)]
    exact congrArg (fun t => lateOf t l (fate l)) (thread_bare v v.cur.bundle l)
  rw [meetAll_pass ht, meetAll_pass (hi ▸ ht), hl]
  refine bare_modBundle_map (fun x => ?_) v v.cur.bundle
  generalize v.issued.flatMap (fun l => lateOf (v.curB.thread l) l (fate l)) = ws
  have hlanes (y : Bundle) (now : Bool) : bareBundle { y with threads := y.threads.mapIdx (fun l t => t.meet v.cur.pc now (fate l)) } =
      { bareBundle y with threads := (bareBundle y).threads.mapIdx (fun l t => t.meet v.cur.pc now (fate l)) } := by
    have hm : (y.threads.mapIdx (fun l t => t.meet v.cur.pc now (fate l))).map bareThread =
        (y.threads.map bareThread).mapIdx (fun l t => t.meet v.cur.pc now (fate l)) :=
      List.ext_getElem (by simp) fun k _ _ => by simp [bareThread_meet]
    exact congrArg (fun ts => { bareBundle y with threads := ts }) hm
  have hadd (y : Bundle) (o : LateOp) : bareBundle (y.addLate o) = (bareBundle y).addLate { o with loads := [] } := by
    simp [bareBundle, Bundle.addLate]
  have hcur : v.bare.cur = v.cur := rfl
  rw [hcur]
  dsimp only
  cases long && !v.cur.plain with
  | false =>
    simp only [Bool.false_and, Bool.false_eq_true, if_false, ← bareBundle_contest]
    exact hlanes _ true
  | true =>
    simp only [Bool.true_and, if_true]
    split
    · exact (hadd _ _).trans (congrArg (fun y : Bundle => y.addLate ⟨v.cur.trapPc, v.cur.flag, ws, [], [], []⟩) (hlanes x false))
    · exact hlanes x false

/-- How a word ends depends on the fates of its own lanes alone. -/
theorem meetAll_congr {s : State} {fate fate' : Nat → Fate} (h : ∀ l < s.curB.threads.length, fate l = fate' l) (long : Bool)
    (ht : ∀ l ∈ s.issued, ∀ i, fate l ≠ .trap i) (loads : List LateLoad) : s.meetAll long [] loads fate = s.meetAll long [] loads fate' := by
  have hi (l : Nat) (hl : l ∈ s.issued) : fate l = fate' l := h l (mem_issued.mp hl).1
  rw [meetAll_pass ht, meetAll_pass (fun l hl i => hi l hl ▸ ht l hl i)]
  have hw : s.issued.flatMap (fun l => lateOf (s.curB.thread l) l (fate l)) = s.issued.flatMap (fun l => lateOf (s.curB.thread l) l (fate' l)) :=
    List.flatMap_congr fun l hl => by rw [hi l hl]
  have hc : s.curB.contest fate = s.curB.contest fate' := by
    unfold Bundle.contest
    split
    · rfl
    · exact List.foldl_ext _ _ _ fun y l hl => by rw [h l (List.mem_range.mp hl)]
  have ht' : (s.curB.contest fate').threads = s.curB.threads := (congrArg Bundle.threads (contest_like s.curB fate').2 :)
  have hm (now : Bool) : s.curB.threads.mapIdx (fun l t => t.meet s.cur.pc now (fate l)) =
      s.curB.threads.mapIdx (fun l t => t.meet s.cur.pc now (fate' l)) :=
    List.mapIdx_eq_mapIdx_iff.mpr fun l hl => by rw [h l hl]
  rw [hw]
  refine modBundle_congr s _ _ _ ?_
  unfold State.curB at hc ht' hm
  dsimp only
  cases long && !s.cur.plain with
  | false =>
    simp only [Bool.false_and, Bool.false_eq_true, if_false, hc, ht', Bool.not_false, hm]
  | true =>
    simp only [if_true, Bool.not_true, hm]

/-- THE LANES OF A WORD that acts on memory before its lanes end: they do what its row says, in the state `x` that it has left but for the
order of accesses. -/
theorem meetAll_row {v x : State} {r : LaneRow} {fate : Nat → Fate} (hx : v.bare = x) (hp : x.lanesPass r.op)
    (hf : ∀ l < x.curB.threads.length, fate l = x.laneFate r.op (fun l => .done (r.val l).1 (r.val l).2) l) (loads : List LateLoad) :
    r.done x (v.meetAll r.long [] loads fate).bare := by
  have ht : ∀ l ∈ x.issued, ∀ i, fate l ≠ .trap i := fun l hl i => by
    rw [hf l (mem_issued.mp hl).1, laneFate_pass hp hl]
    split <;> exact Fate.noConfusion
  have hi : v.issued = x.issued := by rw [← hx, (SameLanes.bare v).issued]
  rw [bare_meetAll (hi ▸ ht), hx, meetAll_congr hf r.long ht]
  exact laneWord_done hp

/-! ### A word whose lanes access main memory -/

theorem lookupKey_map {α β : Type} (g : α → β) (k : Nat) (rs : List (Nat × α)) :
    lookupKey k (rs.map (fun r => (r.1, g r.2))) = (lookupKey k rs).map g := by
  induction rs with
  | nil => rfl
  | cons r rs ih =>
    simp only [List.map_cons, lookupKey, ih]
    split <;> rfl

/-- Lanes that act in turn each have their fate. -/
theorem keys_inTurn {σ α : Type} (step : σ → Nat → σ) (out : σ → Nat → α) (x : σ) (ls : List Nat) :
    (inTurn step out x ls).2.map (·.1) = ls := by
  induction ls generalizing x with
  | nil => rfl
  | cons l ls ih => simp [inTurn, ih]

/-- The fate of a lane is what `out` gives it. -/
theorem out_of_mem_inTurn {σ α : Type} {step : σ → Nat → σ} {out : σ → Nat → α} {x : σ} {ls : List Nat} {r : Nat × α}
    (h : r ∈ (inTurn step out x ls).2) : ∃ y, r.2 = out y r.1 := by
  induction ls generalizing x with
  | nil => cases h
  | cons l ls ih =>
    rcases List.mem_cons.mp h with rfl | h
    · exact ⟨x, rfl⟩
    · exact ih h

theorem lookupKey_mem {α : Type} {k : Nat} {v : α} {rs : List (Nat × α)} (h : lookupKey k rs = some v) : (k, v) ∈ rs := by
  induction rs with
  | nil => cases h
  | cons r rs ih =>
    rw [lookupKey] at h
    split at h
    next hk =>
      cases h
      exact hk ▸ List.mem_cons_self
    next => exact List.mem_cons_of_mem r (ih h)

/-- A fate that is no trap names no register. -/
theorem named_of_noTrap {f : Fate} (h : ∀ i, f ≠ .trap i) (r : BitVec 8) : f.named r = f := by
  cases f with
  | trap i => exact absurd rfl (h i)
  | none => rfl
  | done ws fl => rfl
  | stay st => rfl

/-- Lanes whose accesses are located without effect. -/
theorem locateAll_located {s : State} {b : Nat} {addr : Nat → DWord} {size q : Nat} {k : Access} {tg : Nat → Target} {ls : List Nat}
    (h : ∀ l ∈ ls, s.locate b l (addr l) size q k = (s, tg l)) : s.locateAll b addr size q k ls = (s, ls.map (fun l => (l, tg l))) := by
  induction ls with
  | nil => rfl
  | cons l ls ih =>
    rw [State.locateAll, h l List.mem_cons_self]
    dsimp only
    rw [ih fun k hk => h k (List.mem_cons_of_mem l hk)]
    rfl

/-- The issued lanes that are active (R94). -/
def activeLanes (s : State) : List Nat := s.issued.filter (fun l => s.isActive l)

theorem mem_activeLanes {s : State} {l : Nat} : l ∈ activeLanes s ↔ l ∈ s.issued ∧ s.isActive l = true := List.mem_filter

/-- A word whose active lanes access main memory (R165): they act in turn, and then every lane meets its fate. -/
theorem laneMem_inTurn {σ : Type} {R : State → σ → Prop} {step : σ → Nat → σ} {out : σ → Nat → Fate} {s : State} {o : LaneOp}
    {addr : Nat → DWord} {size q n : Nat} {k : Access} {off : Nat → Nat} {ver : Option Nat} {dev : Nat → Bool}
    {act : State → Nat → Target → LaneAct} (ho : s.lanesPass o)
    (hl : ∀ l ∈ activeLanes s, s.locate s.cur.bundle l (addr l) size q k = (s, .mem (off l) ver (dev l)))
    (hR : ∀ u x, R u x → Alike n s u)
    (hact : ∀ l ∈ activeLanes s, ∀ u x, R u x → Acts R step out x l (act u l (.mem (off l) ver (dev l))))
    (hout : ∀ x l i, out x l ≠ .trap i) {x : σ} (h : R s x) (long : Bool) :
    ∃ v loads, s.laneMem o long addr size q k act = v.meetAll long [] loads
        (s.laneFate o (fun l => (lookupKey l (inTurn step out x (activeLanes s)).2).getD (.stay .ready))) ∧
      R v (inTurn step out x (activeLanes s)).1 := by
  have hpre : s.issued.filter (fun l => s.laneFate o (fun _ => .stay .ready) l == .stay .ready) = activeLanes s := by
    refine List.filter_congr fun l hl => ?_
    rw [laneFate_pass ho hl]
    split <;> simp_all
  obtain ⟨v, rs, hv, hr, hf, hlink⟩ := actAll_inTurn (ls := activeLanes s) (tg := fun l => .mem (off l) ver (dev l))
    (again := fun m l t => m.revisit s.cur.bundle l (addr l) size q k t) (act := act) (fun _ _ _ => Target.noConfusion)
    (fun l hm u y hu => (hR u y hu).revisit (hl l hm)) hact h
  refine ⟨v, rs.filterMap (fun r => r.2.load), ?_, hr⟩
  have hun : ((activeLanes s).map (fun l => (l, Target.mem (off l) ver (dev l)))).any (fun t => t.2.isUnreachable) = false := by
    simp [Target.isUnreachable]
  have hfill : ((activeLanes s).map (fun l => (l, Target.mem (off l) ver (dev l)))).any (fun t => t.2.isFill) = false := by
    simp [Target.isFill]
  unfold State.laneMem
  dsimp only
  rw [hpre, locateAll_located hl]
  simp only [hun, hfill, hv, hlink, Bool.false_eq_true, if_false]
  congr 1
  funext l
  have hlook : lookupKey l (inTurn step out x (activeLanes s)).2 = (lookupKey l rs).map (·.fate) := by
    rw [← hf]
    exact lookupKey_map (fun r : LaneAct => r.fate) l rs
  cases hk : lookupKey l rs with
  | none => simp only [State.laneFate, hlook, hk, Option.map_none, Option.getD_none]
  | some r =>
    have hmem : (l, r.fate) ∈ (inTurn step out x (activeLanes s)).2 := lookupKey_mem (by rw [hlook, hk]; rfl)
    obtain ⟨y, hy⟩ := out_of_mem_inTurn hmem
    have hact : l ∈ activeLanes s := by
      rw [← keys_inTurn step out x (activeLanes s)]
      exact List.mem_map_of_mem hmem
    obtain ⟨hli, hla⟩ := mem_activeLanes.mp hact
    dsimp only at hy ⊢
    rw [laneFate_pass ho hli, if_pos hla, hlook, hk]
    simp only [Option.map_some, Option.getD_some, hy]
    exact named_of_noTrap (hout y l) _

end Sys2Proof.Laws
end

section
/-! The bytes that words of memory move (R6, R166, R167). -/
namespace Sys2Proof.Laws
open Sys2Proof.Machine Sys2Proof.Claims

/-! ### Bytes as registers -/

/-- The lowest byte of a number of bytes (R6). -/
theorem ofNat_ofBytes_cons (n : Nat) (x : Byte) (bs : List Byte) :
    BitVec.ofNat (n + 8) (ofBytes (x :: bs)) = BitVec.ofNat n (ofBytes bs) ++ x := by
  refine BitVec.eq_of_toNat_eq ?_
  rw [BitVec.toNat_append, ← Nat.shiftLeft_add_eq_or_of_lt x.isLt, ofBytes, BitVec.toNat_ofNat, BitVec.toNat_ofNat, Nat.shiftLeft_eq,
    Nat.pow_add, Nat.mul_comm (2 ^ n)]
  rw [Nat.mod_mul, Nat.add_mul_mod_self_left, Nat.mod_eq_of_lt x.isLt, Nat.add_mul_div_left _ _ (by decide),
    Nat.div_eq_of_lt x.isLt, Nat.zero_add, Nat.add_comm, Nat.mul_comm]

theorem ofNat_ofBytes_one (x : Byte) (n : Nat) : BitVec.ofNat n (ofBytes [x]) = x.setWidth n := by
  simp [ofBytes, BitVec.ofNat_toNat]

theorem ofNat_ofBytes_two (x y : Byte) : BitVec.ofNat 16 (ofBytes [x, y]) = y ++ x := by
  rw [ofNat_ofBytes_cons 8, ofNat_ofBytes_one, BitVec.setWidth_eq]

theorem ofNat_ofBytes_two_wide (x y : Byte) : BitVec.ofNat 32 (ofBytes [x, y]) = (y ++ x).setWidth 32 := by
  have hlt : ofBytes [x, y] < 2 ^ 16 := by
    have := x.isLt
    have := y.isLt
    simp only [ofBytes]
    omega
  rw [← ofNat_ofBytes_two, BitVec.setWidth_ofNat_of_le_of_lt (by decide) hlt]

/-- The four lowest bytes, as a register has them. -/
theorem ofNat_ofBytes_four (x y z w : Byte) (bs : List Byte) :
    BitVec.ofNat 32 (ofBytes (x :: y :: z :: w :: bs)) = w ++ z ++ y ++ x := by
  have hw : BitVec.ofNat 8 (ofBytes (w :: bs)) = w := by
    refine BitVec.eq_of_toNat_eq ?_
    rw [BitVec.toNat_ofNat, ofBytes, Nat.add_mul_mod_self_left, Nat.mod_eq_of_lt w.isLt]
  rw [ofNat_ofBytes_cons 24, ofNat_ofBytes_cons 16, ofNat_ofBytes_cons 8, hw]

/-- The number of the bytes after the first ones. -/
theorem ofBytes_drop (k : Nat) (bs : List Byte) : ofBytes bs / 256 ^ k = ofBytes (bs.drop k) := by
  induction k generalizing bs with
  | zero => simp
  | succ k ih =>
    cases bs with
    | nil => simp [ofBytes]
    | cons b bs =>
      rw [Nat.pow_succ', ← Nat.div_div_eq_div_mul, ofBytes, Nat.add_mul_div_left _ _ (by decide), Nat.div_eq_of_lt b.isLt, Nat.zero_add,
        ih, List.drop_succ_cons]

/-- A register from the bytes of several (R166). -/
theorem ofNat_ofBytes_word (h : Nat → Byte) {i m : Nat} (hi : i < m) :
    BitVec.ofNat 32 (ofBytes ((List.range (4 * m)).map h) / 2 ^ (32 * i)) = (wordFrom h (4 * i)).val := by
  have hp : 2 ^ (32 * i) = 256 ^ (4 * i) := by
    rw [show 256 = 2 ^ 8 from rfl, ← Nat.pow_mul]
    congr 1
    omega
  have hd : ((List.range (4 * m)).map h).drop (4 * i) = (List.range (4 * m - 4 * i)).map (fun k => h (4 * i + k)) :=
    List.ext_getElem (by simp) fun k _ _ => by simp
  obtain ⟨r, hr⟩ : ∃ r, 4 * m - 4 * i = r + 4 := ⟨4 * (m - i - 1), by omega⟩
  rw [hp, ofBytes_drop, hd, hr]
  simp only [List.range_succ_eq_map, List.map_cons, List.map_map, Nat.succ_eq_add_one]
  rw [ofNat_ofBytes_four]
  rfl

/-- The sizes of loads and stores (R166, R167). -/
def memSize (n : Nat) : Prop := n = 1 ∨ n = 2 ∨ n = 4 ∨ n = 8 ∨ n = 16

/-- The registers of a load's bytes (R166). -/
theorem loadRegs_loaded (f : MemForm) (hz : memSize f.size) (g : Nat → Byte) (a : Nat) :
    loadRegs f.sign ((List.range f.size).map (fun i => g (a + i))) = f.loaded g a := by
  have words {m : Nat} (hm : f.size = 4 * m) (h1 : f.size ≠ 1) (h2 : f.size ≠ 2) :
      loadRegs f.sign ((List.range f.size).map (fun i => g (a + i))) = f.loaded g a := by
    have hl : ((List.range f.size).map (fun i => g (a + i))).length = f.size := by simp
    unfold loadRegs
    dsimp only
    rw [hl, MemForm.loaded, if_neg h1, if_neg h2]
    split
    · contradiction
    · contradiction
    · rw [hm, Nat.mul_div_cancel_left m (by decide)]
      refine List.map_congr_left fun i hi => ?_
      rw [ofNat_ofBytes_word _ (List.mem_range.mp hi)]
      rfl
  rcases hz with h | h | h | h | h
  · rw [h]
    cases hs : f.sign <;> simp [loadRegs, MemForm.loaded, h, hs, ofNat_ofBytes_one, List.range_succ]
  · rw [h]
    cases hs : f.sign <;> simp [loadRegs, MemForm.loaded, h, hs, ofNat_ofBytes_two, ofNat_ofBytes_two_wide, List.range_succ]
  · exact words (m := 1) h (by omega) (by omega)
  · exact words (m := 2) h (by omega) (by omega)
  · exact words (m := 4) h (by omega) (by omega)

/-! ### Registers as bytes -/

/-- The bytes of a register, the lowest first (R6). -/
theorem bytesOf_word (n : Nat) (v : Word) : bytesOf n v.toNat = (List.range n).map (fun i => (v >>> (8 * i)).setWidth 8) := by
  have hb (n k : Nat) : bytesOf n k = (List.range n).map (fun i => BitVec.ofNat 8 (k / 256 ^ i)) := by
    induction n generalizing k with
    | zero => rfl
    | succ n ih =>
      rw [bytesOf, ih, List.range_succ_eq_map]
      simp [Nat.div_div_eq_div_mul, Nat.pow_succ']
  rw [hb]
  refine List.map_congr_left fun i _ => ?_
  rw [show 256 = 2 ^ 8 from rfl, ← Nat.pow_mul, ← Nat.shiftRight_eq_div_pow, ← BitVec.toNat_ushiftRight, BitVec.ofNat_toNat]

/-- The bytes of several registers. -/
theorem bytesOf_words (r : Nat → Word) (m : Nat) : (List.range m).flatMap (fun i => bytesOf 4 (r i).toNat) =
    (List.range (4 * m)).map (fun i => (r (i / 4) >>> (8 * (i % 4))).setWidth 8) := by
  induction m with
  | zero => rfl
  | succ m ih =>
    rw [List.range_succ, List.flatMap_append, ih, Nat.mul_succ, List.range_add, List.map_append, List.flatMap_singleton, bytesOf_word,
      List.map_map]
    congr 1
    refine List.map_congr_left fun i hi => ?_
    have hi : i < 4 := List.mem_range.mp hi
    rw [Function.comp_apply, Nat.mul_add_div (by decide), Nat.div_eq_of_lt hi, Nat.mul_add_mod, Nat.mod_eq_of_lt hi, Nat.add_zero]

/-- The bytes that a lane stores (R167). -/
theorem storeBytes_stored (f : MemForm) (hz : memSize f.size) (s : State) (l : Nat) : s.storeBytes l f.d f.size = f.stored s l := by
  have words {m : Nat} (hm : f.size = 4 * m) (h4 : ¬ f.size < 4) : s.storeBytes l f.d f.size = f.stored s l := by
    rw [State.storeBytes, if_neg h4, MemForm.stored, hm, Nat.mul_div_cancel_left m (by decide),
      bytesOf_words (fun i => (s.vAt l f.d i).val)]
  have narrow (h4 : f.size < 4) : s.storeBytes l f.d f.size = f.stored s l := by
    rw [State.storeBytes, if_pos h4, MemForm.stored, bytesOf_word]
    refine List.map_congr_left fun i hi => ?_
    have hi : i < 4 := (List.mem_range.mp hi).trans h4
    rw [Nat.div_eq_of_lt hi, Nat.mod_eq_of_lt hi]
    rfl
  rcases hz with h | h | h | h | h
  · exact narrow (by omega)
  · exact narrow (by omega)
  · exact words (m := 1) h (by omega)
  · exact words (m := 2) h (by omega)
  · exact words (m := 4) h (by omega)

theorem length_stored (f : MemForm) (s : State) (l : Nat) : (f.stored s l).length = f.size := by
  simp [MemForm.stored]

end Sys2Proof.Laws
end

section
/-! Lane loads, stores and atomics of main memory (R166, R167, R169). -/
namespace Sys2Proof.Laws
open Sys2Proof.Machine Sys2Proof.Claims

/-! ### Fates that do not depend on other lanes -/

/-- The fate of a lane that it has whatever the others have done. -/
theorem lookupKey_inTurn {σ α : Type} {step : σ → Nat → σ} {out : σ → Nat → α} {g : Nat → α} (h : ∀ x l, out x l = g l) {x : σ} {l : Nat}
    {ls : List Nat} (hl : l ∈ ls) : lookupKey l (inTurn step out x ls).2 = some (g l) := by
  induction ls generalizing x with
  | nil => cases hl
  | cons k ls ih =>
    rw [inTurn, lookupKey]
    split
    next e => rw [h, e]
    next e => exact ih (List.mem_of_ne_of_mem e hl)

/-- The fate of an active lane by the row of its word. -/
def rowFate (r : LaneRow) (l : Nat) : Fate := .done (r.val l).1 (r.val l).2

/-- The fates of a word whose active lanes have those of a table. -/
theorem laneFate_lookup {s : State} {o : LaneOp} (hp : s.lanesPass o) {rs : List (Nat × Fate)} {g : Nat → Fate}
    (h : ∀ l ∈ activeLanes s, lookupKey l rs = some (g l)) {l : Nat} (hl : l < s.curB.threads.length) :
    s.laneFate o (fun l => (lookupKey l rs).getD (.stay .ready)) l = s.laneFate o g l := by
  cases hc : s.cur.lanes.getLsbD l with
  | false => rw [laneFate_other hc, laneFate_other hc]
  | true =>
    have hi : l ∈ s.issued := mem_issued.mpr ⟨hl, hc⟩
    rw [laneFate_pass hp hi, laneFate_pass hp hi]
    split
    next ha => rw [h l (mem_activeLanes.mpr ⟨hi, ha⟩), Option.getD_some]
    next => rfl

/-- A word whose active lanes have the fates of its row, in the state that they have left but for the order of accesses. -/
theorem meetAll_lookup {s v x : State} {r : LaneRow} {rs : List (Nat × Fate)} (hx : v.bare = x) (hs : SameLanes s x) (hp : s.lanesPass r.op)
    (h : ∀ l ∈ activeLanes s, lookupKey l rs = some (rowFate r l)) (loads : List LateLoad) :
    r.done x (v.meetAll r.long [] loads (s.laneFate r.op (fun l => (lookupKey l rs).getD (.stay .ready)))).bare := by
  refine meetAll_row hx (hs.lanesPass hp) (fun l hl => ?_) loads
  rw [hs.laneFate]
  exact laneFate_lookup hp h (by rwa [State.curB, hs.width, hs.cur] at hl)

/-- A lane that has no result passes its word. -/
theorem meet_plain (t : Thread) (pc : DWord) : t.meet pc true (.done [] 0) = t.advance pc := by
  simp [Thread.meet, Thread.writes]

/-- An inactive lane of a word without destinations writes nothing. -/
theorem inactiveWrites_nil {s : State} {o : LaneOp} (ho : o.dst = []) : s.inactiveWrites o = [] := by
  simp [State.inactiveWrites, ho]

/-- A word whose active lanes have no result: its issued lanes pass it. -/
theorem bare_meetAll_plain {s v : State} {o : LaneOp} {rs : List (Nat × Fate)} (hs : SameLanes s v) (hp : s.lanesPass o) (ho : o.dst = [])
    (h : ∀ l ∈ activeLanes s, lookupKey l rs = some (.done [] 0)) (loads : List LateLoad) :
    (v.meetAll false [] loads (s.laneFate o (fun l => (lookupKey l rs).getD (.stay .ready)))).bare =
      v.bare.mapLanes (fun l t => if s.cur.lanes.getLsbD l then t.advance s.cur.pc else t) := by
  have hfate (l : Nat) (hl : l < v.curB.threads.length) :
      s.laneFate o (fun l => (lookupKey l rs).getD (.stay .ready)) l = v.laneFate o (fun _ => .done [] 0) l := by
    rw [hs.laneFate]
    exact laneFate_lookup hp (g := fun _ => .done [] 0) h (by rwa [State.curB, hs.width, hs.cur] at hl)
  have ht : ∀ l ∈ v.issued, ∀ i, v.laneFate o (fun _ => .done [] 0) l ≠ .trap i :=
    laneFate_noTrap (hs.lanesPass hp) _ (fun _ _ _ => Fate.noConfusion)
  rw [meetAll_congr hfate false (fun l hl => hfate l (mem_issued.mp hl).1 ▸ ht l hl), bare_meetAll ht,
    meetAll_now ((SameLanes.bare v).issued ▸ ht) (fun l ws fl => laneFate_none ho (fun _ => 0) l ws fl)]
  refine mapLanes_congr fun l hl => ?_
  have hl : l < v.curB.threads.length := by rwa [State.curB, (SameLanes.bare v).width] at hl
  change (v.bare.curB.thread l).meet v.cur.pc true _ = _
  rw [← hs.cur]
  cases hc : v.cur.lanes.getLsbD l with
  | false =>
    rw [laneFate_other hc]
    rfl
  | true =>
    rw [laneFate_pass (hs.lanesPass hp) (mem_issued.mpr ⟨hl, hc⟩), inactiveWrites_nil ho, ite_self]
    exact meet_plain _ _

/-! ### Lane loads (R166) -/

/-- A load of main memory that races none, after other accesses of its size that leave what it sees. -/
theorem loadFrom_alone {s u : State} {b l q size off : Nat} {lanes : BitVec 64} {ver : Option Nat} {dev : Bool} (ha : Alike size s u)
    (hb : u.bare = s.bare) (hh : unheld s off) (hr : s.racing (s.spot b lanes q dev off size ver) = [])
    (ht : s.touched (s.spot b lanes q dev off size ver) false = []) (va : DWord) :
    ∃ m, u.loadFrom b l q lanes va size (.mem off ver dev) =
        (m, ⟨(List.range size).map (fun i => seenByte s b l q ver (off + i)), none⟩) ∧ m.bare = s.bare ∧ Alike size s m := by
  obtain ⟨hbytes, hbare, halike⟩ := memLoad_alone (z := s.spot b lanes q dev off size ver) (ha.unheld hh) (ha.racing rfl hr)
    (ha.touched rfl ht) l (.mem off ver dev) va
  refine ⟨_, ?_, hbare.trans hb, halike s ha⟩
  rw [seenByte_congr hb] at hbytes
  rw [State.loadFrom, ha.spot]
  exact Prod.ext rfl (congrArg (fun bs => Loaded.mk bs none) hbytes)

/-- Loads have been made by lanes that started in `s`. -/
def loadsOf (size : Nat) (s u : State) (_ : Unit) : Prop := u.bare = s.bare ∧ Alike size s u

/-- What a lane's load does (R166). -/
def loadAct (s : State) (f : MemForm) (u : State) (l : Nat) (t : Target) : LaneAct :=
  let r := u.loadFrom s.cur.bundle l f.q.toNat (laneBit l) (f.va s l) f.size t
  ⟨r.1, .done (putN f.d.toNat (loadRegs f.sign r.2.bytes)) 0, r.2.link, s.lateLoad l f.d f.q.toNat (f.va s l) f.size f.sign t⟩

/-- The row of a lane load (R166): each active lane gets what it sees (R157, R158). -/
def loadRow (s : State) (f : MemForm) (off : Nat → Nat) (ver : Option Nat) : LaneRow :=
  ⟨⟨[⟨f.a.toNat, 2, .any⟩], dstRegs f.d.toNat f.regs .raw⟩, true, fun l =>
    (fromReg f.d (f.loaded (seenByte s s.cur.bundle l f.q.toNat ver) (off l)), 0)⟩

/-- A load or store moves a register even where it moves less than one. -/
theorem regs_eq {f : MemForm} (hz : memSize f.size) : f.regs = max 1 (f.size / 4) := by
  unfold MemForm.regs
  rcases hz with h | h | h | h | h <;> rw [h] <;> rfl

theorem laneLoad_eq (s : State) {f : MemForm} (hz : memSize f.size) : s.laneLoad f.d f.a f.off f.q f.size f.sign =
    s.laneMem ⟨[⟨f.a.toNat, 2, .any⟩], dstRegs f.d.toNat f.regs .raw⟩ true (f.va s) f.size f.q.toNat .read (loadAct s f) := by
  rw [regs_eq hz]
  rfl

/-- A lane load of main memory gives each active lane what it sees (R157, R158). -/
theorem laneLoad_done {s : State} {f : MemForm} {off : Nat → Nat} {ver : Option Nat} {dev : Nat → Bool} (hz : memSize f.size)
    (hp : s.lanesPass ⟨[⟨f.a.toNat, 2, .any⟩], dstRegs f.d.toNat f.regs .raw⟩)
    (ha : ∀ l ∈ s.issued, s.isActive l = true → PlainAccess s l (laneBit l) (f.va s l) f.size f.q.toNat .read (off l) ver (dev l)) :
    (loadRow s f off ver).done s.bare (s.laneLoad f.d f.a f.off f.q f.size f.sign).bare := by
  have hplace (l : Nat) (hl : l ∈ activeLanes s) := ha l (mem_activeLanes.mp hl).1 (mem_activeLanes.mp hl).2
  have hacts (l : Nat) (hl : l ∈ activeLanes s) (u : State) (x : Unit) (h : loadsOf f.size s u x) :
      Acts (loadsOf f.size s) (fun _ _ => ()) (fun _ => rowFate (loadRow s f off ver)) x l
        (loadAct s f u l (.mem (off l) ver (dev l))) := by
    obtain ⟨-, hh, ⟨hr, ht⟩, -, -⟩ := hplace l hl
    obtain ⟨m, hm, hb, hal⟩ := loadFrom_alone (l := l) h.2 h.1 hh hr ht (f.va s l)
    unfold loadAct
    rw [hm]
    refine ⟨⟨hb, hal⟩, ?_, rfl⟩
    dsimp only
    rw [loadRegs_loaded f hz (seenByte s s.cur.bundle l f.q.toNat ver)]
    rfl
  obtain ⟨v, loads, hv, hbare, -⟩ := laneMem_inTurn hp (fun l hl => (hplace l hl).place) (fun _ _ h => h.2) hacts
    (fun _ _ _ => Fate.noConfusion) (x := ()) ⟨rfl, Alike.refl _ _⟩ true
  rw [laneLoad_eq s hz, hv]
  exact meetAll_lookup hbare (SameLanes.bare s) hp (fun k hk =>
    lookupKey_inTurn (g := rowFate (loadRow s f off ver)) (fun _ _ => rfl) hk) loads

/-! ### Lane stores (R167) -/

/-- What a lane's store does (R167). -/
def storeAct (s : State) (f : MemForm) (u : State) (l : Nat) (t : Target) : LaneAct :=
  ⟨u.storeTo s.cur.bundle l f.q.toNat (laneBit l) (f.va s l) (s.storeBytes l f.d f.size) t, .done [] 0, none, none⟩

theorem laneStore_eq (s : State) {f : MemForm} (hz : memSize f.size) : s.laneStore f.d f.a f.off f.q f.size =
    s.laneMem ⟨[⟨f.a.toNat, 2, .any⟩, ⟨f.d.toNat, f.regs, .any⟩], []⟩ false (f.va s) f.size f.q.toNat .write (storeAct s f) := by
  rw [regs_eq hz]
  rfl

/-- A thread whose store is outstanding. -/
def laneStored (s : State) (f : MemForm) (off : Nat → Nat) (ver : Option Nat) (dev : Nat → Bool) (l : Nat) (th : Thread) : Thread :=
  withOut th (newStore s f.q.toNat (f.va s l) (off l) (f.stored s l) ver (dev l))

/-- The state but for the order of accesses after lanes have made accesses. -/
def bareAfter (size : Nat) (s u x : State) : Prop := u.bare = x ∧ Alike size s u

theorem inTurn_fst {σ α : Type} (step : σ → Nat → σ) (out : σ → Nat → α) (x : σ) (ls : List Nat) :
    (inTurn step out x ls).1 = ls.foldl step x := by
  induction ls generalizing x with
  | nil => rfl
  | cons l ls ih => exact ih _

theorem nodup_activeLanes (s : State) : (activeLanes s).Nodup := (List.nodup_range.filter _).filter _

theorem SameLanes.trans {s u v : State} (h : SameLanes s u) (g : SameLanes u v) : SameLanes s v :=
  ⟨g.cur.trans h.cur, g.ctxs.trans h.ctxs, g.ticks.trans h.ticks, fun c => (g.bundle c).trans (h.bundle c)⟩

/-- A lane store to main memory is outstanding in each active lane, and does nothing else (R152). -/
theorem laneStore_step {s : State} {f : MemForm} {off : Nat → Nat} {ver : Option Nat} {dev : Nat → Bool} (hz : memSize f.size)
    (hp : s.lanesPass ⟨[⟨f.a.toNat, 2, .any⟩, ⟨f.d.toNat, f.regs, .any⟩], []⟩) (hq : quiet s)
    (ha : ∀ l ∈ s.issued, s.isActive l = true → PlainAccess s l (laneBit l) (f.va s l) f.size f.q.toNat .write (off l) ver (dev l)) :
    LaneStep s.bare (s.laneStore f.d f.a f.off f.q f.size).bare (fun l th =>
      (if s.isActive l then laneStored s f off ver dev l th else th).advance s.cur.pc) := by
  have hplace (l : Nat) (hl : l ∈ activeLanes s) := ha l (mem_activeLanes.mp hl).1 (mem_activeLanes.mp hl).2
  have hacts (l : Nat) (hl : l ∈ activeLanes s) (u x : State) (h : bareAfter f.size s u x) :
      Acts (bareAfter f.size s) (fun x l => x.modThread s.cur.bundle l (laneStored s f off ver dev l)) (fun _ _ => .done [] 0) x l
        (storeAct s f u l (.mem (off l) ver (dev l))) := by
    obtain ⟨-, -, ⟨hr, ht⟩, hn, -⟩ := hplace l hl
    obtain ⟨rfl, hal⟩ := h
    have hlen := length_stored f s l
    obtain ⟨hb, hal⟩ := storeTo_alone (l := l) (bs := f.stored s l) (by rwa [hlen]) hq (by rw [hlen]; exact hn rfl) (by rwa [hlen])
      (by rwa [hlen]) (f.va s l)
    rw [hlen] at hal
    unfold storeAct
    rw [storeBytes_stored f hz]
    exact ⟨⟨hb, hal⟩, rfl, rfl⟩
  obtain ⟨v, loads, hv, hbare, hal⟩ := laneMem_inTurn hp (fun l hl => (hplace l hl).place) (fun _ _ h => h.2) hacts
    (fun _ _ _ => Fate.noConfusion) (x := s.bare) ⟨rfl, Alike.refl _ _⟩ false
  have hs := hal.lanes
  rw [inTurn_fst, foldl_modThread_mapIdx _ _ _ (nodup_activeLanes s)] at hbare
  rw [laneStore_eq s hz, hv, bare_meetAll_plain hs hp rfl (fun k hk => lookupKey_inTurn (fun _ _ => rfl) hk), hbare]
  change LaneStep s.bare ((s.bare.mapLanes (fun l t => if l ∈ activeLanes s then laneStored s f off ver dev l t else t)).mapLanes _) _
  rw [mapLanes_mapLanes]
  refine mapLanes_laneStep fun l hl => ?_
  have hl : l < s.curB.threads.length := by rwa [State.curB, (SameLanes.bare s).width] at hl
  change (if s.cur.lanes.getLsbD l then _ else _) = if s.cur.lanes.getLsbD l then _ else _
  cases hc : s.cur.lanes.getLsbD l with
  | false => simp [mem_activeLanes, mem_issued, hc]
  | true => simp [mem_activeLanes, mem_issued, hc, hl]

end Sys2Proof.Laws
end

section
/-! Lane atomics on committed memory (R169), and loads, stores and atomics together. -/
namespace Sys2Proof.Laws
open Sys2Proof.Machine Sys2Proof.Claims

/-! ### Lane atomics (R169) -/

/-- The size of an atomic. -/
def atomicSize (ty : BitVec 4) : Nat := if ty = 2 ∨ ty = 3 then 8 else 4

theorem atomSize_eq (ty : BitVec 4) : atomSize ty = atomicSize ty := by
  simp [atomSize, atomicSize]

/-- The new value of a lane's atomic. -/
def atomicNew (s : State) (d : BitVec 6) (p ty : BitVec 4) (l old : Nat) : Nat :=
  atomNew p.toNat ty.toNat old (atomicValue s ty l d) (atomicValue s ty l s.regC)

/-- What a lane's atomic does. -/
def atomicAct (s : State) (d a : BitVec 6) (p ty q : BitVec 4) (ret : Bool) (u : State) (l : Nat) (tg : Target) : LaneAct :=
  let r := u.atomAt s.cur.bundle l q.toNat (s.v64 l a) (atomicSize ty) (atomicNew s d p ty l) tg
  ⟨match r.2.2 with
    | some sent => r.1.pushRequest s.cur.bundle q.toNat (laneBit l) (s.v64 l a) sent
    | none => r.1,
    .done (if ret then atomicResult d ty r.2.1 else []) 0, if ret then r.2.2 else none, none⟩

/-- An atomic is of 8 bytes for types 2 and 3 alone. -/
theorem atomicType (ty : BitVec 4) : ty = 2#4 ∨ ty = 3#4 ∨ ty ≠ 2#4 ∧ ty ≠ 3#4 := by
  by_cases h2 : ty = 2#4
  · exact .inl h2
  · by_cases h3 : ty = 3#4
    · exact .inr (.inl h3)
    · exact .inr (.inr ⟨h2, h3⟩)

/-- The operands of an atomic, as its word has them. -/
theorem atomicOp_eq (s : State) (d a : BitVec 6) (p ty : BitVec 4) (ret : Bool) :
    (⟨[src a true .any] ++ (if p == 7 then [src s.regC (atomSize ty == 8) (if ret then atomAcc ty else .any)] else []) ++
        [src d (atomSize ty == 8) (if ret then atomAcc ty else .any)],
      if ret then dst d (atomSize ty == 8) (atomTag ty) else []⟩ : LaneOp) = atomicOp s d a p ty ret := by
  rcases atomicType ty with rfl | rfl | ⟨h2, h3⟩
  · cases ret <;> simp [atomicOp, src, dst, atomAcc, atomTag, atomSize]
  · cases ret <;> simp [atomicOp, src, dst, atomAcc, atomTag, atomSize]
  · cases ret <;> simp [atomicOp, src, dst, atomAcc, atomTag, atomSize, h2, h3]

/-- What `atomr` gives a lane, as its word has it. -/
theorem atomicResult_eq (d : BitVec 6) (ty : BitVec 4) (old : Nat) :
    (if atomSize ty == 8 then out64 (BitVec.ofNat 64 old) else out32 (BitVec.ofNat 32 old) : Out).writes d (atomSize ty == 8) (atomTag ty) =
      atomicResult d ty old := by
  rcases atomicType ty with rfl | rfl | ⟨h2, h3⟩
  · simp [atomicResult, atomSize, atomTag, Out.writes, out64, put2]
  · simp [atomicResult, atomSize, atomTag, Out.writes, out64, put2]
  · simp [atomicResult, atomSize, atomTag, Out.writes, out32, put, h2, h3]

theorem atomicValue_eq (s : State) (ty : BitVec 4) (l : Nat) (r : BitVec 6) :
    (if atomSize ty == 8 then (s.v64 l r).toNat else (s.v32 l r).toNat) = atomicValue s ty l r := by
  rcases atomicType ty with rfl | rfl | ⟨h2, h3⟩
  · simp [atomicValue, atomSize]
  · simp [atomicValue, atomSize]
  · simp [atomicValue, atomSize, h2, h3]

theorem laneAtomic_eq (s : State) (d a : BitVec 6) (p ty q : BitVec 4) (ret : Bool) : s.laneAtomic d a p ty q ret =
    s.laneMem (atomicOp s d a p ty ret) ret (fun l => s.v64 l a) (atomicSize ty) q.toNat .atomic (atomicAct s d a p ty q ret) := by
  have haddr : s.laneAddr a 0 0 = fun l => s.v64 l a := by
    funext l
    simp [State.laneAddr, State.v64]
  unfold State.laneAtomic
  dsimp only
  rw [atomicOp_eq, haddr]
  simp only [atomicResult_eq, atomicValue_eq]
  simp only [atomSize_eq]
  rfl

/-- Memory after a lane's atomic. -/
def atomicStep (s : State) (d : BitVec 6) (p ty : BitVec 4) (off : Nat → Nat) (m : Memory) (l : Nat) : Memory :=
  m.writeBytes (off l) (bytesOf (atomicSize ty) (atomicNew s d p ty l (ofBytes (m.readBytes (off l) (atomicSize ty)))))

/-- How a lane's atomic ends. -/
def atomicFate (d : BitVec 6) (ty : BitVec 4) (ret : Bool) (old : Nat) : Fate := .done (if ret then atomicResult d ty old else []) 0

/-- The lanes in turn are those of `atomics`. -/
theorem inTurn_atomics (s : State) (d : BitVec 6) (p ty : BitVec 4) (ret : Bool) (off : Nat → Nat) (ls : List Nat) (m : Memory) :
    inTurn (atomicStep s d p ty off) (fun m l => atomicFate d ty ret (ofBytes (m.readBytes (off l) (atomicSize ty)))) m ls =
      ((atomics (atomicSize ty) off (atomicNew s d p ty) ls m).1,
        (atomics (atomicSize ty) off (atomicNew s d p ty) ls m).2.map (fun r => (r.1, atomicFate d ty ret r.2))) := by
  induction ls generalizing m with
  | nil => rfl
  | cons l ls ih =>
    rw [inTurn, ih]
    rfl

theorem keys_atomics (size : Nat) (off : Nat → Nat) (new : Nat → Nat → Nat) (ls : List Nat) (m : Memory) :
    (atomics size off new ls m).2.map (·.1) = ls := by
  induction ls generalizing m with
  | nil => rfl
  | cons l ls ih => simp [atomics, ih]

theorem lookupKey_some {α : Type} {k : Nat} {rs : List (Nat × α)} (h : k ∈ rs.map (·.1)) : ∃ v, lookupKey k rs = some v := by
  induction rs with
  | nil => cases h
  | cons r rs ih =>
    rw [lookupKey]
    split
    · exact ⟨r.2, rfl⟩
    next hne => exact ih (List.mem_of_ne_of_mem hne h)

/-- Lanes that started in `s` have left memory `m` but for the order of accesses. -/
def memoryOf (size : Nat) (s u : State) (m : Memory) : Prop :=
  (∃ k, u.bare = State.bare { s with mem := m, badmem := k }) ∧ Alike size s u

/-- The row of an atomic (R169). -/
def atomicRow (s : State) (d a : BitVec 6) (p ty : BitVec 4) (ret : Bool) (off : Nat → Nat) : LaneRow :=
  ⟨atomicOp s d a p ty ret, ret, fun l =>
    (if ret then atomicResult d ty ((lookupKey l (atomicRun s d p ty off).2).getD 0) else [], 0)⟩

/-- A word leaves what is not a bundle as its row does. -/
theorem rowDone_badmem {r : LaneRow} {x t : State} (h : r.done x t) : t.badmem = x.badmem := by
  unfold LaneRow.done at h
  split at h
  · exact (congrArg State.badmem h.same.rest :)
  · exact (congrArg State.badmem h.same.rest :)

/-- An atomic on committed memory: the active lanes act on it in turn (R169). -/
theorem laneAtomic_done {s : State} {d a : BitVec 6} {p ty q : BitVec 4} {ret : Bool} {off : Nat → Nat} {dev : Nat → Bool}
    (hp : s.lanesPass (atomicOp s d a p ty ret)) (hq : quiet s)
    (ha : ∀ l ∈ s.issued, s.isActive l = true → (s.curB.thread l).out = [] ∧
      PlainAccess s l (laneBit l) (s.v64 l a) (atomicSize ty) q.toNat .atomic (off l) none (dev l)) :
    (atomicRow s d a p ty ret off).done
      (State.bare { s with mem := (atomicRun s d p ty off).1, badmem := (s.laneAtomic d a p ty q ret).badmem })
      (s.laneAtomic d a p ty q ret).bare := by
  have hplace (l : Nat) (hl : l ∈ activeLanes s) := ha l (mem_activeLanes.mp hl).1 (mem_activeLanes.mp hl).2
  have hacts (l : Nat) (hl : l ∈ activeLanes s) (u : State) (m : Memory) (h : memoryOf (atomicSize ty) s u m) :
      Acts (memoryOf (atomicSize ty) s) (atomicStep s d p ty off)
        (fun m l => atomicFate d ty ret (ofBytes (m.readBytes (off l) (atomicSize ty)))) m l
        (atomicAct s d a p ty q ret u l (.mem (off l) none (dev l))) := by
    obtain ⟨hout, -, hh, ⟨hr, ht⟩, hn, hi⟩ := hplace l hl
    obtain ⟨⟨k, hb⟩, hal⟩ := h
    have hmem : u.mem = m := (congrArg State.mem hb :)
    obtain ⟨t, k', hat, hbt, halt⟩ := atomAt_alone hal hq ((out_of_bare hb s.cur.bundle l).trans hout) hh (hn rfl) hr ht hi (s.v64 l a)
      (atomicNew s d p ty l)
    rw [hmem] at hat hbt
    unfold atomicAct
    rw [hat]
    refine ⟨⟨⟨k', hbt.trans ?_⟩, halt⟩, rfl, ?_⟩
    · exact congrArg (fun v : State => { v with mem := atomicStep s d p ty off m l, badmem := k' }) hb
    · cases ret <;> rfl
  obtain ⟨v, loads, hv, ⟨k, hbare⟩, -⟩ := laneMem_inTurn hp (fun l hl => (hplace l hl).2.place) (fun _ _ h => h.2) hacts
    (fun _ _ _ => Fate.noConfusion) (x := s.mem) ⟨⟨s.badmem, rfl⟩, Alike.refl _ _⟩ ret
  rw [inTurn_atomics] at hv hbare
  have hlanes : SameLanes s (State.bare { s with mem := (atomicRun s d p ty off).1, badmem := k }) :=
    SameLanes.trans (u := { s with mem := (atomicRun s d p ty off).1, badmem := k }) ⟨rfl, rfl, rfl, fun _ => rfl⟩ (SameLanes.bare _)
  have hdone : (atomicRow s d a p ty ret off).done (State.bare { s with mem := (atomicRun s d p ty off).1, badmem := k })
      (s.laneAtomic d a p ty q ret).bare := by
    rw [laneAtomic_eq, hv]
    refine meetAll_lookup (r := atomicRow s d a p ty ret off) hbare hlanes hp (fun l hl => ?_) loads
    obtain ⟨old, ho⟩ := lookupKey_some (k := l) (rs := (atomicRun s d p ty off).2) (by rw [atomicRun, keys_atomics]; exact hl)
    have hval : rowFate (atomicRow s d a p ty ret off) l = atomicFate d ty ret old := by
      unfold rowFate atomicRow atomicFate
      dsimp only
      rw [ho, Option.getD_some]
    rw [lookupKey_map (atomicFate d ty ret), hval]
    exact congrArg (Option.map (atomicFate d ty ret)) ho
  have hk := rowDone_badmem hdone
  rwa [show (s.laneAtomic d a p ty q ret).badmem = k from hk]

/-! ### The words -/

/-- The lane loads, each with its effect (R166). -/
theorem exec_loadForm {i : Instr} {f : MemForm} (h : loadForm i = some f) : memSize f.size ∧
    ∀ s : State, exec i s = s.word i (fun s => s.laneLoad f.d f.a f.off f.q f.size f.sign) := by
  unfold loadForm at h
  split at h <;> cases h
  · exact ⟨.inl rfl, fun _ => rfl⟩
  · exact ⟨.inl rfl, fun _ => rfl⟩
  · exact ⟨.inr (.inl rfl), fun _ => rfl⟩
  · exact ⟨.inr (.inl rfl), fun _ => rfl⟩
  · exact ⟨.inr (.inr (.inl rfl)), fun _ => rfl⟩
  · exact ⟨.inr (.inr (.inr (.inl rfl))), fun _ => rfl⟩
  · exact ⟨.inr (.inr (.inr (.inr rfl))), fun _ => rfl⟩

/-- The lane stores, each with its effect (R167). -/
theorem exec_storeForm {i : Instr} {f : MemForm} (h : storeForm i = some f) : memSize f.size ∧
    ∀ s : State, exec i s = s.word i (fun s => s.laneStore f.d f.a f.off f.q f.size) := by
  unfold storeForm at h
  split at h <;> cases h
  · exact ⟨.inl rfl, fun _ => rfl⟩
  · exact ⟨.inr (.inl rfl), fun _ => rfl⟩
  · exact ⟨.inr (.inr (.inl rfl)), fun _ => rfl⟩
  · exact ⟨.inr (.inr (.inr (.inl rfl))), fun _ => rfl⟩
  · exact ⟨.inr (.inr (.inr (.inr rfl))), fun _ => rfl⟩

end Sys2Proof.Laws

namespace Sys2Proof.Claims
open Sys2Proof.Machine

/-- Settles O12: the active lanes act in turn, each on a state that differs from the first by accesses of the word's own size, which race
none of it (R154). -/
theorem laneMemory : Obligations.LaneMemory := by
  unfold Obligations.LaneMemory
  refine ⟨fun s i f off ver dev hf hi hp ha => ?_, fun s i f off ver dev hf hi hp hq ha => ?_,
    fun s i d a p ty q ret off dev hf hi hp hq ha => ?_⟩
  · obtain ⟨hz, he⟩ := Laws.exec_loadForm hf
    exact ⟨_, Laws.exec_issues (he s) hi, Laws.laneLoad_done hz hp ha⟩
  · obtain ⟨hz, he⟩ := Laws.exec_storeForm hf
    exact ⟨_, Laws.exec_issues (he s) hi, Laws.laneStore_step hz hp hq ha⟩
  · have he : exec i s = s.word i (fun s => s.laneAtomic d a p ty q ret) := by
      subst hf
      cases ret <;> rfl
    exact ⟨_, Laws.exec_issues he hi, Laws.laneAtomic_done hp hq ha⟩

end Sys2Proof.Claims
end

section
/-! Uniform loads and stores of main memory (R168). -/
namespace Sys2Proof.Laws
open Sys2Proof.Machine Sys2Proof.Claims

/-! ### Accesses that are performed at once -/

/-- Lanes of which no store is outstanding perform none before an access (R157). -/
theorem drainOwns_alone {s : State} {lanes : BitVec 64} {b : Nat} (ho : ∀ l ∈ lanesIn lanes (s.bundle b).threads.length, (s.thread b l).out = [])
    (q : Option Nat) (off n size : Nat) : (s.drainOwns b lanes q off n).bare = s.bare ∧ Alike size s (s.drainOwns b lanes q off n) := by
  refine List.foldlRecOn _ _ (motive := fun u : State => u.bare = s.bare ∧ Alike size s u) ⟨rfl, Alike.refl size s⟩ fun u h l hl => ?_
  obtain ⟨hb, ha⟩ := h
  have hd : u.drainOwn b l q off n = u := performStores_none fun x hx => by
    simp [Thread.stores, (out_of_bare hb b l).trans (ho l hl)] at hx
  rw [hd]
  exact ⟨(bare_bindOwn u b l q off n).trans hb, ha.bindOwn b l q off n⟩

/-- A uniform load of main memory that races none gives what its lane sees (R157, R158, R168). -/
theorem loadNow_alone {s : State} {l q size off : Nat} {va : DWord} {dev : Bool} (ho : ∀ l ∈ s.issued, (s.curB.thread l).out = [])
    (ha : PlainAccess s l s.cur.lanes va size q .read off none dev) (own : Option Nat) :
    ∃ m, s.loadNow s.cur.bundle l q s.cur.lanes own va size .read =
        (m, .ok ((List.range size).map (fun i => seenByte s s.cur.bundle l q none (off + i)))) ∧ m.bare = s.bare ∧ m.cur = s.cur := by
  obtain ⟨hplace, hh, ⟨hr, ht⟩, -, -⟩ := ha
  obtain ⟨hb, hal⟩ := drainOwns_alone (lanes := s.cur.lanes) ho own off size size
  obtain ⟨m, hm, hbm, halm⟩ := loadFrom_alone (l := l) hal hb hh hr ht va
  refine ⟨m, ?_, hbm, halm.cur⟩
  unfold State.loadNow
  rw [hplace]
  dsimp only
  rw [hm]

/-- A uniform store of main memory that races none changes committed memory at its bytes (R168). -/
theorem storeNow_alone {s : State} {l q off : Nat} {va : DWord} {bs : List Byte} {dev : Bool} (hq : quiet s)
    (ho : ∀ l ∈ s.issued, (s.curB.thread l).out = []) (ha : PlainAccess s l s.cur.lanes va bs.length q .write off none dev) (own : Option Nat) :
    ∃ m k, s.storeNow s.cur.bundle l q s.cur.lanes own va bs .write = (m, .ok []) ∧
      m.bare = State.bare { s with mem := s.mem.writeBytes off bs, badmem := k } := by
  obtain ⟨hplace, hh, ⟨hr, ht⟩, hn, hi⟩ := ha
  obtain ⟨hb, hal⟩ := drainOwns_alone (lanes := s.cur.lanes) ho own off bs.length bs.length
  generalize hu : s.drainOwns s.cur.bundle s.cur.lanes own off bs.length = u at hb hal
  have hst (tg : Target) : u.memStore (s.spot s.cur.bundle s.cur.lanes q dev off bs.length none) l tg va =
      (u.bindOwn s.cur.bundle l (some q) off bs.length, 0) := memStore_alone (hal.unseen (hn rfl)) (hal.racing rfl hr) (hal.touched rfl ht) l tg va
  have hbind := hal.bindOwn s.cur.bundle l (some q) off bs.length
  have hbare := (bare_bindOwn u s.cur.bundle l (some q) off bs.length).trans hb
  unfold State.storeNow
  rw [hplace]
  unfold State.putNow
  dsimp only
  rw [hu, hst]
  generalize u.bindOwn s.cur.bundle l (some q) off bs.length = m at hbind hbare
  have hl := leaving_quiet (hbind.quiet hq) q va bs false
  rw [hbind.cur] at hl
  have hmem : m.mem = s.mem := (congrArg State.mem hbare :)
  obtain ⟨k, hk⟩ := outsideWrite_committed (hbind.unheld hh) hi
  dsimp only
  rw [hl, mixBytes_zero, hk, hmem]
  refine ⟨_, k, rfl, (bare_noteStore _ _ l).trans ?_⟩
  exact congrArg (fun v : State => { v with mem := s.mem.writeBytes off bs, badmem := k }) hbare

/-! ### Uniform loads (R168) -/

/-- A uniform register write does not look at the order of accesses. -/
theorem bare_writeS (s : State) (ws : List (Nat × Reg)) : (s.writeS ws).bare = s.bare.writeS ws := by
  have hclash (x : Bundle) (n : Nat) : bareBundle (x.clashS n) = (bareBundle x).clashS n := by
    unfold Bundle.clashS
    have he : (bareBundle x).late.isEmpty = x.late.isEmpty := by simp [bareBundle]
    rw [he]
    split
    · rfl
    · simp [bareBundle]
  refine bare_modBundle_comm (f := fun x => x.writeS ws) (fun x => ?_) s s.cur.bundle
  exact (List.foldl_hom bareBundle fun y w => (hclash { y with s := y.s.set w.1 w.2 } w.1).symm).symm

/-- The outstanding word of a uniform load (R37). -/
def uniLateOp (x : State) (ws : List (Nat × Reg)) : LateOp :=
  ⟨x.cur.trapPc, x.cur.flag, [], ws.map (fun w => ⟨0, w.1, w.2, false⟩), [], []⟩

/-- A uniform load of native code: its writes and its flag are outstanding, and its set goes on (R37). -/
theorem addLate_advance {x : State} (hb : x.cur.bundle < x.bundles.length) (ws : List (Nat × Reg)) :
    UniLate x (x.modBundle x.cur.bundle (fun y => y.addLate (uniLateOp x ws))).advanceAll ws := by
  have e : (x.modBundle x.cur.bundle (fun y => y.addLate (uniLateOp x ws))).advanceAll.curB =
      { x.curB.addLate (uniLateOp x ws) with threads := x.passed } := by
    unfold State.advanceAll State.mapLanes
    rw [curB_modBundle _ _ (by simpa [State.modBundle] using hb), curB_modBundle _ _ hb]
    rfl
  exact ⟨⟨rfl, fun i hi => (bundle_modBundle_ne _ _ _ _ hi).trans (bundle_modBundle_ne _ _ _ _ hi)⟩, congrArg Bundle.threads e,
    congrArg Bundle.late e, congrArg Bundle.flags e,
    congrArg (fun y : Bundle => { y with threads := x.curB.threads, late := x.curB.late, flags := x.curB.flags }) e⟩

/-- A uniform load of main memory (R168). -/
theorem uniLoad_done {s : State} {f : MemForm} {off : Nat} {dev : Bool} (hz : f.size = 4 ∨ f.size = 8) (hs : f.sign = false)
    (hb : s.cur.bundle < s.bundles.length) (ho : ∀ l ∈ s.issued, (s.curB.thread l).out = [])
    (ha : PlainAccess s s.leader s.cur.lanes (f.uva s) f.size f.q.toNat .read off none dev) (hu : s.uniTrap [⟨f.a.toNat, 2, .any⟩] = none) :
    (s.cur.plain = true → UniStep s.bare (s.uniLoad f.d f.a f.off f.q f.size).bare
      (fromReg f.d (f.loaded (seenByte s s.cur.bundle s.leader f.q.toNat none) off))) ∧
    (s.cur.plain = false → UniLate s.bare (s.uniLoad f.d f.a f.off f.q f.size).bare
      (fromReg f.d (f.loaded (seenByte s s.cur.bundle s.leader f.q.toNat none) off))) := by
  have hplace := ha.place
  obtain ⟨m, hm, hbare, hcur⟩ := loadNow_alone ho ha (some f.q.toNat)
  have hregs : loadRegs false ((List.range f.size).map (fun i => seenByte s s.cur.bundle s.leader f.q.toNat none (off + i))) =
      f.loaded (seenByte s s.cur.bundle s.leader f.q.toNat none) off := by
    rw [← hs]
    exact loadRegs_loaded f (by unfold memSize; omega) _ off
  unfold State.uniLoad State.uniWord
  have hu : s.uniTrap [src f.a true .any] = none := hu
  have hva : s.uniAddr f.a f.off f.size = f.uva s := rfl
  rw [hu]
  dsimp only
  rw [hva, hplace, hm]
  simp only [State.uniNow, hregs, hcur]
  refine ⟨fun hp => ?_, fun hp => ?_⟩
  · rw [hp, if_pos rfl, bare_advanceAll, bare_writeS, hbare]
    exact writeS_advance s.bare _
  · have hlate (op : LateOp) (hl : op.loads = []) : (m.modBundle s.cur.bundle (fun x => x.addLate op)).bare =
        s.bare.modBundle s.cur.bundle (fun x => x.addLate op) := by
      rw [← hbare]
      obtain ⟨pc, flag, lanes, unis, links, loads⟩ := op
      cases hl
      exact bare_modBundle_comm (fun x => by simp [bareBundle, Bundle.addLate]) m _
    rw [hp, if_neg (by decide), bare_advanceAll, hlate _ rfl]
    exact addLate_advance (x := s.bare) (by simpa [bare_eq] using hb) _

/-! ### Uniform stores (R168) -/

/-- A uniform store of main memory (R168). -/
theorem uniStore_done {s : State} {f : MemForm} {off : Nat} {dev : Bool} (hz : f.size = 4 ∨ f.size = 8) (hq : quiet s)
    (ho : ∀ l ∈ s.issued, (s.curB.thread l).out = [])
    (ha : PlainAccess s s.leader s.cur.lanes (f.uva s) f.size f.q.toNat .write off none dev)
    (hu : s.uniTrap [⟨f.a.toNat, 2, .any⟩, ⟨f.d.toNat, f.size / 4, .any⟩] = none) :
    UniStep (s.withMem (s.uniStore f.d f.a f.off f.q f.size)).bare (s.uniStore f.d f.a f.off f.q f.size).bare [] ∧
      (s.memOk → ∀ a, (s.uniStore f.d f.a f.off f.q f.size).mem.read a =
        if off ≤ a ∧ a < off + f.size then (f.ustored s).getD (a - off) 0 else s.mem.read a) := by
  have hlen : (f.ustored s).length = f.size := by simp [MemForm.ustored]
  have hbytes : (List.range (f.size / 4)).flatMap (fun i => bytesOf 4 (s.readS s.cur.bundle (f.d.toNat + i)).val.toNat) = f.ustored s := by
    obtain ⟨m, hm⟩ : ∃ m, f.size = 4 * m := hz.elim (fun h => ⟨1, h⟩) (fun h => ⟨2, h⟩)
    rw [MemForm.ustored, hm, Nat.mul_div_cancel_left m (by decide), bytesOf_words (fun i => (s.readS s.cur.bundle (f.d.toNat + i)).val)]
  obtain ⟨m, k, hm, hbare⟩ := storeNow_alone (bs := f.ustored s) hq ho (by rwa [hlen]) (some f.q.toNat)
  have ht : s.uniStore f.d f.a f.off f.q f.size = m.advanceAll := by
    unfold State.uniStore State.uniWord
    have hu : s.uniTrap [src f.a true .any, srcN f.d (f.size / 4) .any] = none := hu
    have hva : s.uniAddr f.a f.off f.size = f.uva s := rfl
    rw [hu]
    dsimp only
    rw [hbytes, hva, hm]
    rfl
  rw [ht]
  have hmem : m.advanceAll.mem = s.mem.writeBytes off (f.ustored s) := (congrArg State.mem hbare :)
  have hbad : m.advanceAll.badmem = k := (congrArg State.badmem hbare :)
  refine ⟨?_, fun hok a => ?_⟩
  · rw [bare_advanceAll, hbare, State.withMem, hmem, hbad]
    exact advanceAll_step _
  · rw [hmem, read_writeBytes hok, hlen]

/-- The uniform loads and stores, each with its effect (R168). -/
theorem exec_uniMemForm {i : Instr} {f : MemForm} {store : Bool} (h : uniMemForm i = some (f, store)) : (f.size = 4 ∨ f.size = 8) ∧
    f.sign = false ∧ ∀ s : State, exec i s = s.word i (fun s => if store then s.uniStore f.d f.a f.off f.q f.size
      else s.uniLoad f.d f.a f.off f.q f.size) := by
  unfold uniMemForm at h
  split at h <;> cases h
  · exact ⟨.inl rfl, rfl, fun _ => rfl⟩
  · exact ⟨.inr rfl, rfl, fun _ => rfl⟩
  · exact ⟨.inl rfl, rfl, fun _ => rfl⟩
  · exact ⟨.inr rfl, rfl, fun _ => rfl⟩

end Sys2Proof.Laws
namespace Sys2Proof.Claims
open Sys2Proof.Machine

/-- Settles O13: the access is made at once, by lanes that have nothing outstanding. -/
theorem uniformMemory : Obligations.UniformMemory := by
  unfold Obligations.UniformMemory
  intro s i f store off dev hf hi hb ho hq ha hu
  obtain ⟨hz, hs, he⟩ := Laws.exec_uniMemForm hf
  have ho (l : Nat) (hl : l ∈ s.issued) := ho l (List.mem_cons_of_mem _ hl)
  refine ⟨_, Laws.exec_issues (he s) hi, ?_⟩
  cases store with
  | false =>
    obtain ⟨hplain, hnative⟩ := Laws.uniLoad_done hz hs hb ho ha hu
    exact ⟨fun _ => hplain, fun _ => hnative, nofun⟩
  | true => exact ⟨nofun, nofun, fun _ => Laws.uniStore_done hz hq ho ha hu⟩

end Sys2Proof.Claims
end

section
/-! `await` and `prefetch` (R170, R171), and the end of long-latency words (R35, R37). -/
namespace Sys2Proof.Laws
open Sys2Proof.Machine Sys2Proof.Claims

/-! ### await (R170) -/

/-- Lanes that note their reading. -/
theorem Alike.markRead {n : Nat} {s u : State} (h : Alike n s u) (b : Nat) (ls : List Nat) : Alike n s (u.markRead b ls) :=
  List.foldlRecOn ls _ (motive := Alike n s) h fun v hv l _ =>
    hv.modThread (f := fun t => { t with readAt := v.bundleClocks b }) ⟨fun _ => rfl, fun _ => rfl, fun _ _ => .inl, fun _ _ => .inl⟩ b l

theorem SameStores.markRead (s : State) (b : Nat) (ls : List Nat) : SameStores s (s.markRead b ls) :=
  List.foldlRecOn ls _ (motive := SameStores s) ⟨rfl, rfl, rfl, fun _ => rfl, fun _ => rfl, fun _ => rfl⟩ fun v hv l _ =>
    hv.trans (SameStores.modThread (f := fun t => { t with readAt := v.bundleClocks b }) (fun _ => rfl) b l)

/-- What lanes see does not depend on when they have read. -/
theorem seenByte_markRead (s : State) (b : Nat) (ls : List Nat) : seenByte (s.markRead b ls) = seenByte s := by
  funext c l q ver
  exact (SameStores.markRead s b ls).seenByte c l q ver

/-- The word that a load of four bytes gives (R6). -/
theorem ofNat_ofBytes_wordFrom (g : Nat → Byte) (a : Nat) :
    BitVec.ofNat 32 (ofBytes ((List.range 4).map (fun i => g (a + i)))) = (wordFrom g a).val :=
  ofNat_ofBytes_four (g a) (g (a + 1)) (g (a + 2)) (g (a + 3)) []

/-- A load for an `await` of a word of main memory, by lanes that have noted their reading. -/
theorem loadFrom_marked {s u : State} {b l q off : Nat} {ls : List Nat} {ver : Option Nat} {dev : Bool} (ha : Alike 4 (s.markRead b ls) u)
    (hb : u.bare = (s.markRead b ls).bare) (hh : unheld s off) (hr : s.racing (s.spot b (laneBit l) q dev off 4 ver) = [])
    (ht : s.touched (s.spot b (laneBit l) q dev off 4 ver) false = []) (va : DWord) :
    ∃ m r, u.loadFrom b l q (laneBit l) va 4 (.mem off ver dev) = (m, r) ∧ r.link = none ∧
      BitVec.ofNat 32 (ofBytes r.bytes) = (wordFrom (seenByte s b l q ver) off).val ∧ m.bare = (s.markRead b ls).bare ∧
      Alike 4 (s.markRead b ls) m := by
  have hs := (Alike.refl 4 s).markRead b ls
  obtain ⟨m, hm, hbm, ham⟩ := loadFrom_alone (l := l) ha hb (hs.unheld hh) (by rw [hs.spot]; exact hs.racing rfl hr)
    (by rw [hs.spot]; exact hs.touched rfl ht) va
  refine ⟨m, _, hm, rfl, ?_, hbm, ham⟩
  rw [← seenByte_markRead s b ls]
  exact ofNat_ofBytes_wordFrom _ off

/-- How a lane's `await` ends, where it reads `w`. -/
def awaitFate (d : BitVec 6) (v w : Word) : Fate := if w != v then .done (put d w .raw) 0 else .stay (.parked .await)

/-- What a lane's `await` does. -/
def awaitAct (s : State) (d : BitVec 6) (q : BitVec 4) (va : Nat → DWord) (u : State) (l : Nat) (t : Target) : LaneAct :=
  let r := u.loadFrom s.cur.bundle l q.toNat (laneBit l) (va l) 4 t
  ⟨r.1, awaitFate d (s.v32 l d) (BitVec.ofNat 32 (ofBytes r.2.bytes)), r.2.link, none⟩

/-- The operands of `await`. -/
def awaitOp (d a : BitVec 6) : LaneOp := ⟨[⟨a.toNat, 2, .any⟩, ⟨d.toNat, 1, .any⟩], dstRegs d.toNat 1 .raw⟩

/-- The word that a lane's `await` reads. -/
def awaited (s : State) (q : BitVec 4) (off : Nat → Nat) (ver : Option Nat) (l : Nat) : Word :=
  (wordFrom (seenByte s s.cur.bundle l q.toNat ver) (off l)).val

/-- How a lane's `await` ends. -/
def awaitOut (s : State) (d : BitVec 6) (q : BitVec 4) (off : Nat → Nat) (ver : Option Nat) (l : Nat) : Fate :=
  awaitFate d (s.v32 l d) (awaited s q off ver l)

/-- An `await` whose lanes have noted their reading. -/
def awaitWord (s : State) (d a : BitVec 6) (o : BitVec 8) (q : BitVec 4) : State :=
  (s.markRead s.cur.bundle s.issued).laneMem (awaitOp d a) true (MemForm.va ⟨d, a, o, q, 4, false⟩ s) 4 q.toNat .read
    (awaitAct s d q (MemForm.va ⟨d, a, o, q, 4, false⟩ s))

theorem execAwait_eq {s : State} {d a : BitVec 6} {o : BitVec 8} {q : BitVec 4} (hi : s.issues (.await d a o q)) :
    exec (.await d a o q) s = .next (awaitWord s d a o q) := by
  have he : exec (.await d a o q) s = execAwait d a o q s := rfl
  have hva : s.laneAddr a o 4 = MemForm.va ⟨d, a, o, q, 4, false⟩ s := rfl
  rw [he]
  unfold execAwait
  rw [word_issues hi]
  dsimp only
  rw [hva]
  rfl

/-- The fates of the active lanes of an `await`. -/
def awaitFates (s : State) (d : BitVec 6) (q : BitVec 4) (off : Nat → Nat) (ver : Option Nat) : List (Nat × Fate) :=
  (inTurn (fun _ _ => ()) (fun _ => awaitOut s d q off ver) () (activeLanes (s.markRead s.cur.bundle s.issued))).2

/-- The lanes of an `await` that race no other access have read their words. -/
theorem await_lanes {s : State} {d a : BitVec 6} {o : BitVec 8} {q : BitVec 4} {off : Nat → Nat} {ver : Option Nat} {dev : Nat → Bool}
    (hp : s.lanesPass (awaitOp d a)) (ha : ∀ l ∈ s.issued, s.isActive l = true →
      PlainAccess s l (laneBit l) (MemForm.va ⟨d, a, o, q, 4, false⟩ s l) 4 q.toNat .read (off l) ver (dev l)) :
    ∃ (v : State) (loads : List LateLoad), v.bare = (s.markRead s.cur.bundle s.issued).bare ∧ awaitWord s d a o q =
      v.meetAll true [] loads ((s.markRead s.cur.bundle s.issued).laneFate (awaitOp d a)
        (fun l => (lookupKey l (awaitFates s d q off ver)).getD (.stay .ready))) := by
  have hs := (Alike.refl 4 s).markRead s.cur.bundle s.issued
  have hplace (l : Nat) (hl : l ∈ activeLanes (s.markRead s.cur.bundle s.issued)) := by
    obtain ⟨hi, hc⟩ := mem_activeLanes.mp hl
    exact ha l (hs.lanes.issued ▸ hi) (hs.lanes.isActive l ▸ hc)
  obtain ⟨v, loads, hv, hb, -⟩ := laneMem_inTurn (R := loadsOf 4 (s.markRead s.cur.bundle s.issued)) (step := fun _ _ => ())
    (out := fun _ => awaitOut s d q off ver) (act := awaitAct s d q (MemForm.va ⟨d, a, o, q, 4, false⟩ s))
    (hs.lanes.lanesPass hp) (fun l hl => by rw [hs.cur]; exact hs.locate (hplace l hl).place) (fun _ _ h => h.2) (fun l hl u _ h => by
      obtain ⟨-, hh, ⟨hr, ht⟩, -, -⟩ := hplace l hl
      obtain ⟨m, r, hm, hlink, hw, hbm, ham⟩ := loadFrom_marked h.2 h.1 hh hr ht (MemForm.va ⟨d, a, o, q, 4, false⟩ s l)
      unfold awaitAct
      rw [hm]
      exact ⟨⟨hbm, ham⟩, congrArg (awaitFate d (s.v32 l d)) hw, hlink⟩)
    (fun _ l i => by unfold awaitOut awaitFate; split <;> exact Fate.noConfusion) (x := ()) ⟨rfl, Alike.refl _ _⟩ true
  exact ⟨v, loads, hb, hv⟩

theorem lookupKey_awaitFates {s : State} {d : BitVec 6} {q : BitVec 4} {off : Nat → Nat} {ver : Option Nat} {l : Nat}
    (hl : l ∈ activeLanes (s.markRead s.cur.bundle s.issued)) : lookupKey l (awaitFates s d q off ver) = some (awaitOut s d q off ver l) :=
  lookupKey_inTurn (g := awaitOut s d q off ver) (fun _ _ => rfl) hl

/-- `await` completes in lanes whose words differ from their registers. -/
theorem await_done {s : State} {d a : BitVec 6} {o : BitVec 8} {q : BitVec 4} {off : Nat → Nat} {ver : Option Nat} {dev : Nat → Bool}
    (hp : s.lanesPass (awaitOp d a)) (ha : ∀ l ∈ s.issued, s.isActive l = true →
      PlainAccess s l (laneBit l) (MemForm.va ⟨d, a, o, q, 4, false⟩ s l) 4 q.toNat .read (off l) ver (dev l))
    (hw : ∀ l ∈ s.issued, s.isActive l = true → awaited s q off ver l ≠ s.v32 l d) :
    LaneRow.done ⟨awaitOp d a, true, fun l => ([(d.toNat, wordFrom (seenByte s s.cur.bundle l q.toNat ver) (off l))], 0)⟩
      (s.markRead s.cur.bundle s.issued).bare (awaitWord s d a o q).bare := by
  have hs := ((Alike.refl 4 s).markRead s.cur.bundle s.issued).lanes
  obtain ⟨v, loads, hb, hv⟩ := await_lanes hp ha
  rw [hv]
  refine meetAll_lookup (r := ⟨awaitOp d a, true, fun l =>
    ([(d.toNat, wordFrom (seenByte s s.cur.bundle l q.toNat ver) (off l))], 0)⟩) hb (SameLanes.bare _) (hs.lanesPass hp) (fun l hl => ?_) loads
  rw [lookupKey_awaitFates hl]
  obtain ⟨hi, hc⟩ := mem_activeLanes.mp hl
  have hne := hw l (hs.issued ▸ hi) (hs.isActive l ▸ hc)
  rw [awaitOut, awaitFate, if_pos (by simpa using hne)]
  rfl

/-- A word of no register write, none of whose lanes traps, and which is long-latency perhaps. -/
theorem meetAll_noWrites {s : State} {fate : Nat → Fate} (hn : ∀ l ws fl, fate l ≠ .done ws fl) (ht : ∀ l i, fate l ≠ .trap i)
    (long : Bool) : s.meetAll long [] [] fate = s.mapLanes (fun l t => t.meet s.cur.pc true (fate l)) := by
  have hl (t : Thread) (l : Nat) : lateOf t l (fate l) = [] := by
    unfold lateOf
    split
    next ws fl h => exact absurd h (hn l ws fl)
    next => rfl
  have hm (t : Thread) (l : Nat) (now : Bool) : t.meet s.cur.pc now (fate l) = t.meet s.cur.pc true (fate l) := by
    unfold Thread.meet
    split
    next ws fl h => exact absurd h (hn l ws fl)
    next => rfl
    next => rfl
  rw [meetAll_pass (fun l _ => ht l)]
  refine modBundle_congr s _ _ _ ?_
  simp only [contest_none (fun l ws fl h => absurd h (hn l ws fl)), ite_self, hl, hm]
  simp

/-- The fate of lanes that all park at an `await`. -/
def parkFate (s : State) (l : Nat) : Fate := if s.cur.lanes.getLsbD l then .stay (.parked .await) else .none

theorem SameLanes.of_bare {s u : State} (h : u.bare = s.bare) : SameLanes s u := by
  refine ⟨(congrArg State.cur h :), (congrArg State.ctxs h :), (congrArg State.ticks h :), fun c => ?_⟩
  rw [← (SameLanes.bare u).bundle, h, (SameLanes.bare s).bundle]

/-- `await` parks the lanes where every lane's word is the same. -/
theorem await_parked {s : State} {d a : BitVec 6} {o : BitVec 8} {q : BitVec 4} {off : Nat → Nat} {ver : Option Nat} {dev : Nat → Bool}
    (hp : s.lanesPass (awaitOp d a)) (ha : ∀ l ∈ s.issued, s.isActive l = true →
      PlainAccess s l (laneBit l) (MemForm.va ⟨d, a, o, q, 4, false⟩ s l) 4 q.toNat .read (off l) ver (dev l))
    (hw : ∀ l ∈ s.issued, s.isActive l = true ∧ awaited s q off ver l = s.v32 l d) :
    LaneStep (s.markRead s.cur.bundle s.issued).bare (awaitWord s d a o q).bare (fun _ th => { th with st := .parked .await }) := by
  have hs := ((Alike.refl 4 s).markRead s.cur.bundle s.issued).lanes
  obtain ⟨v, loads, hb, hv⟩ := await_lanes hp ha
  rw [hv]
  have hlook (k : Nat) (hk : k ∈ activeLanes (s.markRead s.cur.bundle s.issued)) :=
    lookupKey_awaitFates (d := d) (q := q) (off := off) (ver := ver) hk
  generalize s.markRead s.cur.bundle s.issued = m at hs hb hlook
  have hmv := SameLanes.of_bare hb
  have hfate (l : Nat) (hl : l < v.curB.threads.length) := by
    have hl : l < m.curB.threads.length := by rwa [State.curB, hmv.width, hmv.cur] at hl
    refine (laneFate_lookup (hs.lanesPass hp) hlook hl).trans (?_ : _ = parkFate m l)
    unfold parkFate
    cases hc : m.cur.lanes.getLsbD l with
    | false => exact laneFate_other hc _
    | true =>
      have hi : l ∈ m.issued := mem_issued.mpr ⟨hl, hc⟩
      obtain ⟨hact, hsame⟩ := hw l (hs.issued ▸ hi)
      rw [laneFate_pass (hs.lanesPass hp) hi, if_pos (hs.isActive l ▸ hact), awaitOut, awaitFate, hsame, bne_self_eq_false]
      rfl
  have hn (l : Nat) (ws : List (Nat × Reg)) (fl : BitVec 6) : parkFate m l ≠ .done ws fl := by
    unfold parkFate
    split <;> exact Fate.noConfusion
  have ht (l : Nat) (i : TrapInfo) : parkFate m l ≠ .trap i := by
    unfold parkFate
    split <;> exact Fate.noConfusion
  rw [meetAll_congr hfate true (fun l hl i => hfate l (mem_issued.mp hl).1 ▸ ht l i), bare_meetAll (fun l _ => ht l), hb,
    meetAll_noWrites hn ht]
  refine mapLanes_laneStep fun l _ => ?_
  change (m.bare.curB.thread l).meet _ _ (parkFate m l) = if m.cur.lanes.getLsbD l then _ else _
  unfold parkFate
  split <;> rfl

end Sys2Proof.Laws
end

section
/-! `prefetch` (R171), the re-read of `await` (R170), and the end of a long-latency word (R35, R37). -/
namespace Sys2Proof.Laws
open Sys2Proof.Machine Sys2Proof.Claims

/-! ### prefetch (R171) -/

/-- A fill that begins changes windows alone (R239). -/
theorem startFill_teams (s : State) (t w n pa : Nat) : ∃ ts, s.startFill t w n pa = { s with teams := ts } := by
  unfold State.startFill
  split
  · exact ⟨_, rfl⟩
  · exact ⟨s.teams, rfl⟩

theorem prefetched_teams (s : State) (a : BitVec 6) (o : BitVec 8) (q : BitVec 4) : ∃ ts, prefetched s a o q = { s with teams := ts } := by
  unfold prefetched
  refine List.foldlRecOn _ _ (motive := fun u : State => ∃ ts, u = { s with teams := ts }) ⟨s.teams, rfl⟩ fun u hu l _ => ?_
  obtain ⟨ts, rfl⟩ := hu
  split
  next x w n pa _ =>
    obtain ⟨ts', h⟩ := startFill_teams { s with teams := ts } x w n pa
    exact ⟨ts', h⟩
  next => exact ⟨ts, rfl⟩

/-- `prefetch` begins its fills, and its lanes pass it. -/
theorem execPrefetch_step {s : State} {a : BitVec 6} {o : BitVec 8} {q : BitVec 4} (hi : s.issues (.prefetch a o q))
    (hp : s.lanesPass ⟨[⟨a.toNat, 2, .any⟩], []⟩) :
    ∃ t, exec (.prefetch a o q) s = .next t ∧ LaneStep (prefetched s a o q) t (fun _ th => th.advance s.cur.pc) := by
  refine ⟨_, exec_issues (by rfl) hi, ?_⟩
  dsimp only
  have hop : (⟨[src a true .any], []⟩ : LaneOp) = ⟨[⟨a.toNat, 2, .any⟩], []⟩ := rfl
  rw [hop]
  have hfilter : s.issued.filter (fun l => s.isActive l && s.laneFate ⟨[⟨a.toNat, 2, .any⟩], []⟩ (fun _ => .done [] 0) l == .done [] 0) =
      s.issued.filter (fun l => s.isActive l) := by
    refine List.filter_congr fun l hl => ?_
    rw [laneFate_pass hp hl]
    cases s.isActive l <;> simp
  have haddr (l : Nat) : s.laneAddr a o 1 l = s.v64 l a + o.signExtend 64 := by
    simp [State.laneAddr, State.v64]
  rw [hfilter]
  simp only [haddr]
  change LaneStep _ ((prefetched s a o q).meetAll false [] [] (s.laneFate ⟨[⟨a.toNat, 2, .any⟩], []⟩ (fun _ => .done [] 0))) _
  obtain ⟨ts, hts⟩ := prefetched_teams s a o q
  rw [hts, meetAll_now (s := { s with teams := ts }) (laneFate_noTrap hp _ fun _ _ _ => Fate.noConfusion)
    (fun l ws fl => laneFate_none rfl (fun _ => 0) l ws fl)]
  refine mapLanes_laneStep fun l hl => ?_
  change (s.curB.thread l).meet s.cur.pc true _ = if s.cur.lanes.getLsbD l then _ else _
  cases hc : s.cur.lanes.getLsbD l with
  | false =>
    rw [laneFate_other hc]
    rfl
  | true =>
    rw [laneFate_pass hp (mem_issued.mpr ⟨hl, hc⟩), inactiveWrites_nil rfl, ite_self]
    exact meet_plain _ _

/-! ### The re-read of a parked await (R170) -/

/-- A lane that has read another word than its register's goes on past its `await`. -/
def awoken (d : BitVec 6) (v : Word) (pc : DWord) (t : Thread) : Thread :=
  ({ t.writeV d.toNat ⟨v, .raw⟩ with st := .ready } : Thread).goto pc

theorem bareThread_awoken (d : BitVec 6) (v : Word) (pc : DWord) (t : Thread) :
    bareThread (awoken d v pc t) = awoken d v pc (bareThread t) :=
  congrArg (fun y : Thread => ({ y with st := .ready } : Thread).goto pc) (bareThread_writeV t d.toNat ⟨v, .raw⟩)

/-- A register write that no outstanding word contests. -/
theorem writeLane_awoken {x : Bundle} (h : x.late = []) (l : Nat) (d : BitVec 6) (v : Word) (pc : DWord) :
    (x.writeLane l [(d.toNat, ⟨v, .raw⟩)]).modThread l (fun t => ({ t with st := .ready } : Thread).goto pc) = x.modThread l (awoken d v pc) := by
  have hc : ((x.modThread l (fun t => t.writeV d.toNat ⟨v, .raw⟩)).clashV l ((x.thread l).key d.toNat)) =
      x.modThread l (fun t => t.writeV d.toNat ⟨v, .raw⟩) := by
    unfold Bundle.clashV
    rw [if_pos]
    simp [Bundle.modThread, h]
  unfold Bundle.writeLane
  rw [List.foldl_cons, List.foldl_nil, hc]
  exact congrArg (fun ts => { x with threads := ts }) (List.modify_modify_eq _ _ _ _)

/-- The latch at which a lane reads again. -/
def rereadCur (b l : Nat) (pc : DWord) : Issue := { Issue.reset with bundle := b, pc := pc, trapPc := pc, lanes := laneBit l }

/-- The end of a re-read, once it has its bytes. -/
def rereadEnd (s : State) (b l : Nat) (pc : DWord) (d : BitVec 6) (x : State × Loaded) : State :=
  let v : Word := BitVec.ofNat 32 (ofBytes x.2.bytes)
  { (if v == (x.1.readV b l d.toNat).val then x.1
      else x.1.modBundle b (fun y => (y.writeLane l [(d.toNat, ⟨v, .raw⟩)]).modThread l
        (fun t => ({ t with st := .ready } : Thread).goto (pc + 4)))).deliverStops with cur := s.cur }

theorem awaitReread_eq {s : State} {b l off : Nat} {pc : DWord} {d a : BitVec 6} {o : BitVec 8} {q : BitVec 4} {ver : Option Nat} {dev : Bool}
    (hst : (s.thread b l).st = .parked .await) (hres : (s.bundle b).resident = true) (hat : s.standing b l = some (pc, .await d a o q))
    (hl : s.locate b l (pairOf (s.readV b l) a.toNat + o.signExtend 64 * 4) 4 q.toNat .read = (s, .mem off ver dev)) :
    s.awaitReread b l = rereadEnd s b l pc d ((State.markRead { s with cur := rereadCur b l pc } b [l]).loadFrom b l q.toNat (laneBit l)
      (pairOf (s.readV b l) a.toNat + o.signExtend 64 * 4) 4 (.mem off ver dev)) := by
  unfold State.awaitReread
  dsimp only
  rw [if_neg (by simp [hst, hres]), hat]
  dsimp only
  rw [hl]
  rfl

/-- A lane that reads its word again (R170). -/
theorem awaitReread_mem {s : State} {b l off : Nat} {pc : DWord} {d a : BitVec 6} {o : BitVec 8} {q : BitVec 4} {ver : Option Nat} {dev : Bool}
    (hst : (s.thread b l).st = .parked .await) (hres : (s.bundle b).resident = true) (hat : s.standing b l = some (pc, .await d a o q))
    (hl : s.locate b l (pairOf (s.readV b l) a.toNat + o.signExtend 64 * 4) 4 q.toNat .read = (s, .mem off ver dev)) (hh : unheld s off)
    (hr : s.racing (s.spot b (laneBit l) q.toNat dev off 4 ver) = [])
    (ht : s.touched (s.spot b (laneBit l) q.toNat dev off 4 ver) false = []) :
    ∃ m : State, m.bare = State.bare { s.markRead b [l] with cur := rereadCur b l pc } ∧ s.awaitReread b l =
      (if (wordFrom (seenByte s b l q.toNat ver) off).val == (s.readV b l d.toNat).val then { m with cur := s.cur }
        else { m.modBundle b (fun x => (x.writeLane l [(d.toNat, ⟨(wordFrom (seenByte s b l q.toNat ver) off).val, .raw⟩)]).modThread l
          (fun t => ({ t with st := .ready } : Thread).goto (pc + 4))) with cur := s.cur }) := by
  have hs := (Alike.refl 4 { s with cur := rereadCur b l pc }).markRead b [l]
  obtain ⟨m, r, hm, -, hw, hbare, ham⟩ := loadFrom_marked (s := { s with cur := rereadCur b l pc }) (u := State.markRead { s with
    cur := rereadCur b l pc } b [l]) (Alike.refl 4 _) rfl hh hr ht (pairOf (s.readV b l) a.toNat + o.signExtend 64 * 4)
  refine ⟨m, hbare, ?_⟩
  have hreg : (m.readV b l d.toNat).val = (s.readV b l d.toNat).val := congrArg Reg.val ((hs.lanes.trans ham.lanes).readV b l d.toNat)
  have hcur : m.cur = rereadCur b l pc := ham.cur.trans hs.cur
  have hw : BitVec.ofNat 32 (ofBytes r.bytes) = (wordFrom (seenByte s b l q.toNat ver) off).val := hw
  have hstops (u : State) (hu : u.cur = rereadCur b l pc) : u.deliverStops = u := if_pos (by rw [hu]; rfl)
  rw [awaitReread_eq hst hres hat hl]
  refine (congrArg (rereadEnd s b l pc d) hm).trans ?_
  unfold rereadEnd
  dsimp only
  rw [hw, hreg]
  split
  · rw [hstops m hcur]
  · rw [hstops _ (by exact hcur)]

/-- A parked `await` that reads the same word again, and one that reads another. -/
theorem execAwaitReread_mem {s : State} {b l off : Nat} {pc : DWord} {d a : BitVec 6} {o : BitVec 8} {q : BitVec 4} {ver : Option Nat}
    {dev : Bool} {v : Word} (hst : (s.thread b l).st = .parked .await) (hres : (s.bundle b).resident = true)
    (hat : s.standing b l = some (pc, .await d a o q))
    (hl : s.locate b l (pairOf (s.readV b l) a.toNat + o.signExtend 64 * 4) 4 q.toNat .read = (s, .mem off ver dev)) (hh : unheld s off)
    (hr : s.racing (s.spot b (laneBit l) q.toNat dev off 4 ver) = [])
    (ht : s.touched (s.spot b (laneBit l) q.toNat dev off 4 ver) false = []) (hv : v = (wordFrom (seenByte s b l q.toNat ver) off).val) :
    (v = (s.readV b l d.toNat).val → (s.awaitReread b l).bare = (s.markRead b [l]).bare) ∧
    (v ≠ (s.readV b l d.toNat).val → (s.bundle b).late = [] →
      ThreadsStep b (s.markRead b [l]).bare (s.awaitReread b l).bare (fun k th => if k = l then awoken d v (pc + 4) th else th)) := by
  obtain ⟨m, hbare, hm⟩ := awaitReread_mem hst hres hat hl hh hr ht
  rw [← hv] at hm
  have hback : State.bare { m with cur := s.cur } = (s.markRead b [l]).bare := (congrArg (fun u : State => { u with cur := s.cur }) hbare :)
  refine ⟨fun he => ?_, fun hne hlate => ?_⟩
  · rw [hm, he, beq_self_eq_true, if_pos rfl, hback]
  · have hml : (m.bundle b).late = [] := by
      have e := congrArg (fun u : State => (u.bundle b).late.length) hback
      simp only [bundle_bare, bareBundle, List.length_map] at e
      refine List.eq_nil_of_length_eq_zero (e.trans ?_)
      have hk := bundle_modThread_view (φ := Bundle.late) (l := l) (f := fun t => { t with readAt := s.bundleClocks b }) (fun _ => rfl) s b b
      exact (congrArg List.length hk).trans (congrArg List.length hlate)
    have hw : s.awaitReread b l = State.modThread { m with cur := s.cur } b l (awoken d v (pc + 4)) := by
      rw [hm, if_neg (by simpa using hne)]
      refine congrArg (fun u : State => { u with cur := s.cur }) (modBundle_congr m b _ (fun x => x.modThread l (awoken d v (pc + 4))) ?_)
      exact writeLane_awoken hml l d v (pc + 4)
    rw [hw, bare_modThread_comm (bareThread_awoken d v (pc + 4)), hback]
    exact modThread_threadsStep _ b l _

/-! ### The end of a long-latency word (R35, R37) -/

/-- A bundle that is live exists. -/
theorem bundle_lt_of_live {s : State} {b : Nat} (h : (s.bundle b).live = true) : b < s.bundles.length := by
  by_contra hb
  simp [State.bundle, List.getD_eq_getElem?_getD, hb, Bundle.absent] at h

/-- Answered requests change threads alone. -/
theorem answer_frame (m : State) (b : Nat) (o : LateOp) :
    { (m.answer b o).bundle b with threads := [] } = { m.bundle b with threads := [] } := by
  unfold State.answer
  split
  · rfl
  · dsimp only
    refine List.foldlRecOn _ _ (motive := fun u : State => { u.bundle b with threads := [] } = { m.bundle b with threads := [] }) ?_
      fun u hu l _ => ?_
    · rw [bundle_modBundle]
      split <;> rfl
    · refine Eq.trans ?_ hu
      exact bundle_modThread_view (φ := fun x => { x with threads := [] }) (l := l)
        (f := fun t => { t with out := settleFences (u.bundleWriting b) 0 t.out }) (fun _ => rfl) u b b

/-- Writes of registers of threads in a list, by their lanes. -/
theorem foldl_modify_mapIdx {β : Type} (lane : β → Nat) (g : β → Thread → Thread) (ws : List β) (ts : List Thread) :
    ws.foldl (fun ts w => ts.modify (lane w) (g w)) ts =
      ts.mapIdx (fun l t => (ws.filter (fun w => lane w == l)).foldl (fun u w => g w u) t) := by
  induction ws generalizing ts with
  | nil => simp [mapIdx_id]
  | cons w ws ih =>
    rw [List.foldl_cons, ih]
    refine List.ext_getElem (by simp) fun l _ hl => ?_
    simp only [List.getElem_mapIdx, List.getElem_modify, List.filter_cons, beq_iff_eq]
    split <;> rfl

/-- Writes that each change a register of a thread. -/
theorem foldl_lanes {f : Bundle → LateWrite → Bundle} {g : LateWrite → Thread → Thread} {ws : List LateWrite}
    (h : ∀ w ∈ ws, ∀ y : Bundle, f y w = { y with threads := y.threads.modify w.lane (g w) }) (y : Bundle) :
    ws.foldl f y = { y with threads := ws.foldl (fun ts w => ts.modify w.lane (g w)) y.threads } := by
  induction ws generalizing y with
  | nil => rfl
  | cons w ws ih => rw [List.foldl_cons, List.foldl_cons, h w List.mem_cons_self, ih fun v hv => h v (List.mem_cons_of_mem w hv)]

/-- Writes that each change a uniform register. -/
theorem foldl_unis {f : Bundle → LateWrite → Bundle} {ws : List LateWrite}
    (h : ∀ w ∈ ws, ∀ y : Bundle, f y w = { y with s := y.s.set w.key w.reg }) (y : Bundle) :
    ws.foldl f y = { y with s := ws.foldl (fun r w => r.set w.key w.reg) y.s } := by
  induction ws generalizing y with
  | nil => rfl
  | cons w ws ih => rw [List.foldl_cons, List.foldl_cons, h w List.mem_cons_self, ih fun v hv => h v (List.mem_cons_of_mem w hv)]

/-- The writes of a word that ends, none of which another word contests (R37). -/
theorem land_calm {x : Bundle} {n tick : Nat} {o : LateOp} (vs : List (Nat × Nat × Reg)) (hn : x.late[n]? = some o)
    (hl : ∀ w ∈ o.lanes, w.clash = false) (hu : ∀ w ∈ o.unis, w.clash = false) : x.land tick n vs = { x with
      late := x.late.eraseIdx n
      flags := clearFlag x.flags o.flag
      s := o.unis.foldl (fun r w => r.set w.key w.reg) x.s
      threads := x.threads.mapIdx (fun l th => (o.lanes.filter (fun w => w.lane == l)).foldl (fun u w => u.writeKey w.key (landed vs w)) th) } := by
  unfold Bundle.land
  rw [hn]
  dsimp only
  rw [foldl_unis fun w hw y => ?uni, foldl_lanes (g := fun w t => t.writeKey w.key (landed vs w)) fun w hw y => ?lane]
  · rw [foldl_modify_mapIdx (·.lane) (fun w t => t.writeKey w.key (landed vs w))]
  case lane =>
    unfold landed Bundle.landLane
    cases vs.find? (fun v => v.1 == w.lane && v.2.1 == w.key) with
    | none => simp [hl w hw, Bundle.modThread]
    | some v => simp [hl w hw, Bundle.modThread]
  case uni => simp [Bundle.landUni, hu w hw]

/-- A completion flag that clears (R35). -/
theorem clearFlag_getLsbD (f : BitVec 12) (n : Option Nat) (k : Nat) :
    (clearFlag f n).getLsbD k = (f.getLsbD k && !decide (n = some k)) := by
  cases n with
  | none => simp [clearFlag]
  | some j =>
    by_cases hk : k < 12
    · by_cases he : j = k
      · simp [clearFlag, he, hk]
      · have hbit : k < j ∨ ¬ k - j = 0 := by omega
        simp [clearFlag, he, hk, hbit]
    · simp [clearFlag, BitVec.getLsbD_of_ge _ _ (Nat.le_of_not_lt hk)]

/-- A long-latency word ends: it writes its registers, clears its flag and leaves the list. -/
theorem execCompletionFlagClear_done {s m : State} {b n : Nat} {o : LateOp} {vs : List (Nat × Nat × Reg)} (hlive : (s.bundle b).live = true)
    (hn : (s.bundle b).late[n]? = some o) (hre : s.reload b o.pc o.loads = (m, vs))
    (hm : m.bundle b = { s.bundle b with threads := (m.bundle b).threads }) (hl : ∀ w ∈ o.lanes, w.clash = false)
    (hu : ∀ w ∈ o.unis, w.clash = false) :
    ∃ t, exec (.completionFlagClear b n) s = .next t ∧ SameBut b (m.answer b o) t ∧
      (t.bundle b).late = (s.bundle b).late.eraseIdx n ∧
      (t.bundle b).s = o.unis.foldl (fun r w => r.set w.key w.reg) (s.bundle b).s ∧
      (t.bundle b).threads = ((m.answer b o).bundle b).threads.mapIdx (fun l th =>
        (o.lanes.filter (fun w => w.lane == l)).foldl (fun u w => u.writeKey w.key (landed vs w)) th) ∧
      (∀ k, (t.bundle b).flags.getLsbD k = ((s.bundle b).flags.getLsbD k && !decide (o.flag = some k))) := by
  have hframe : { (m.answer b o).bundle b with threads := [] } = { s.bundle b with threads := [] } := by
    rw [answer_frame, hm]
  have hlate : ((m.answer b o).bundle b).late = (s.bundle b).late := (congrArg Bundle.late hframe :)
  have hs : ((m.answer b o).bundle b).s = (s.bundle b).s := (congrArg Bundle.s hframe :)
  have hflags : ((m.answer b o).bundle b).flags = (s.bundle b).flags := (congrArg Bundle.flags hframe :)
  have halive : ((m.answer b o).bundle b).live = true := (congrArg Bundle.live hframe :).trans hlive
  have hland := land_calm (tick := m.ticks) vs (hlate ▸ hn) hl hu
  have hexec : exec (.completionFlagClear b n) s = .next ((m.answer b o).modBundle b (fun x => x.land m.ticks n vs)) := by
    change execCompletionFlagClear b n s = _
    unfold execCompletionFlagClear
    dsimp only
    rw [hlive, hn]
    dsimp only
    rw [hre]
  have hb : ((m.answer b o).modBundle b (fun x => x.land m.ticks n vs)).bundle b = ((m.answer b o).bundle b).land m.ticks n vs := by
    rw [bundle_modBundle, if_pos (bundle_lt_of_live halive)]
  refine ⟨_, hexec, sameBut_modBundle _ _ _, ?_, ?_, ?_, fun k => ?_⟩
  · rw [hb, hland, hlate]
  · rw [hb, hland, hs]
  · rw [hb, hland]
  · rw [hb, hland, hflags, clearFlag_getLsbD]

end Sys2Proof.Laws

namespace Sys2Proof.Claims
open Sys2Proof.Machine

/-- Settles O15: the lanes of an `await` read as those of a load do, a fill changes windows alone, and the end of a word is its writes in
their order. -/
theorem awaitAndLateWords : Obligations.AwaitAndLateWords := by
  unfold Obligations.AwaitAndLateWords
  refine ⟨fun s d a o q off ver dev hi hp ha => ⟨fun hw => ?_, fun hw => ?_⟩, fun s a o q hi hp => Laws.execPrefetch_step hi hp,
    fun s b l pc d a o q off ver dev v hst hres hat _ hl hh hr ht hv => ?_,
    fun s m b n o vs hlive hn hre hm hl hu => Laws.execCompletionFlagClear_done hlive hn hre hm hl hu⟩
  · exact ⟨_, Laws.execAwait_eq hi, Laws.await_done hp ha hw⟩
  · exact ⟨_, Laws.execAwait_eq hi, Laws.await_parked hp ha hw⟩
  · obtain ⟨hsame, hother⟩ := Laws.execAwaitReread_mem hst hres hat hl hh hr ht hv
    exact ⟨fun he => ⟨_, rfl, hsame he⟩, fun hne => ⟨_, rfl, hother hne⟩⟩

end Sys2Proof.Claims
end

section
/-! Teams begin and end (R208, R213). A placement itself adds bundles and leaves those that exist as they are; but the first placement of
a launch zeroes its global share area (R180), and that may publish the version of another team early (R311), whose bundles then hold
direct stores where they held versioned ones. -/
namespace Sys2Proof.Laws
open Sys2Proof.Machine

/-! ### What a placement does with the bundles that exist -/

/-- A team that starts adds its bundles behind those that exist. -/
theorem startTeam_bundles (s : State) (plan : TeamPlan) : ∃ bs, (s.startTeam plan).bundles = s.bundles ++ bs := by
  have hpart (k : BitVec 16) (p : Nat) : (s.needPart k p).1.bundles = s.bundles := by
    unfold State.needPart
    split <;> rfl
  simp only [State.startTeam, State.modTeam, hpart, List.append_assoc]
  exact ⟨_, rfl⟩

/-- A team that starts leaves the bundles that exist as they are. -/
theorem startTeam_bundle_of_lt {s : State} {b : Nat} (plan : TeamPlan) (h : b < s.bundles.length) :
    (s.startTeam plan).bundle b = s.bundle b := by
  obtain ⟨bs, hbs⟩ := startTeam_bundles s plan
  rw [State.bundle, hbs, List.getD_append _ _ _ _ h, ← State.bundle]

/-- Teams that start leave the bundles that exist as they are. -/
theorem startTeams_bundle_of_lt (plans : List TeamPlan) {s : State} {b : Nat} (h : b < s.bundles.length) :
    (plans.foldl State.startTeam s).bundle b = s.bundle b := by
  induction plans generalizing s with
  | nil => rfl
  | cons plan plans ih =>
    have hlt : b < (s.startTeam plan).bundles.length := by
      obtain ⟨bs, hbs⟩ := startTeam_bundles s plan
      rw [hbs, List.length_append]
      omega
    rw [List.foldl_cons, ih hlt, startTeam_bundle_of_lt plan h]

/-- The first placement of a launch leaves each bundle as the zeroing of the launch's global share area has left it. -/
theorem commitPack_bundle_of_lt {s : State} {p b : Nat} (o : Nat) (plans : List TeamPlan)
    (hst : (s.launch (s.pack p).launch).st = .reserving)
    (hb : b < (s.zeroShares (s.launch (s.pack p).launch)).bundles.length) :
    (s.commitPack p o plans).bundle b = (s.zeroShares (s.launch (s.pack p).launch)).bundle b := by
  unfold State.commitPack
  simp only [hst, beq_self_eq_true, if_true]
  exact startTeams_bundle_of_lt plans hb

/-- A pack that fits is placed where no launch before its own can place one. -/
theorem execTeamPlaced_of_plan {s : State} {p o : Nat} {plans : List TeamPlan} (hplan : s.planPack p o = some plans)
    (hbefore : ∀ n ∈ s.placeOrder.takeWhile (fun n => n != (s.pack p).launch), s.placeFor n = none) :
    exec (.teamPlaced p o) s = .next (s.commitPack p o plans) := by
  have hnone : (s.placeOrder.takeWhile (fun n => n != (s.pack p).launch)).any (fun n => (s.placeFor n).isSome) = false :=
    List.any_eq_false.mpr fun n hn => by simp [hbefore n hn]
  change execTeamPlaced p o s = _
  unfold execTeamPlaced
  simp [hplan, hnone]

/-! ### A launch whose share area another team holds in its stash -/

/-- A launch that waits for its first place, with a global share area of 4 bytes at 0x20000. -/
def sharingLaunch : Launch :=
  let l := startLaunch 1
  { l with st := .reserving, lrec := { l.lrec with shares := 0x20000, sharesz := 4 } }

/-- A versioned store of the team 0 that is outstanding. -/
def versionedStore : PStore := ⟨0, 0x20080, 0x10080, [5], some 0, false, false, false, 0, 0, none, 0x10040⟩

/-- The team 0 of a versioned kernel RUNS in a context with VPOOL 0 (R335). Its stash has a dirty line of the page at 0x20000, whose home
is at 0x10000, and its thread has a versioned store outstanding. The pack 1, of a second launch of the context whose share area lies in that
line, waits for a place. -/
def sharedLineState : State :=
  let s := State.reset.startTeamAt
  let s : State := { s with
    ctxs := s.ctxs.map (fun c => { c with nslot := 2, vpool := 0 })
    launches := s.launches.map (fun l => { l with obj := l.obj.map (fun o => { o with kflags := 0x81 }) }) ++ [sharingLaunch]
    tlb := [⟨packagePlace, 1, 2, 16, 0x10000, 0xFF⟩] }
  let s := s.modTeam 0 (fun x => { x with
    windows := x.windows ++ [⟨1, 0x20000, 0x1000, .rw, 0, false, [⟨0, .dirty, true, 0x10000, false, 1, 1, 0, 0, false, none⟩], []⟩]
    ver := ⟨.open, [], false⟩ })
  (s.modThread 0 0 (fun th => { th with out := [.store versionedStore] })).makePack 1

/-- The plan of the pack that waits: the team 1 goes beside the team 0. -/
def sharingPlan : TeamPlan := ⟨1, 0, 0, [], [⟨0, 0, 1⟩]⟩

theorem sharedLine_plan : sharedLineState.planPack 1 0 = some [sharingPlan] := by decide +kernel

/-- The launch that RUNS comes first in the order of placement, and has no pack to place. -/
theorem sharedLine_order :
    ∀ n ∈ sharedLineState.placeOrder.takeWhile (fun n => n != (sharedLineState.pack 1).launch), sharedLineState.placeFor n = none := by
  decide +kernel

/-- The dirty byte that the zeroing recalls finds no room in the version pool, so the version of the team 0 is published early (R311): its
outstanding store, which acted in the version, is a direct one from then on. -/
theorem sharedLine_stores :
    ((sharedLineState.bundle 0).thread 0).stores = [versionedStore] ∧
      (((sharedLineState.zeroShares (sharedLineState.launch 1)).bundle 0).thread 0).stores = [{ versionedStore with ver := none }] := by
  decide +kernel

/-- The placement changes the bundle of the team 0. -/
theorem sharedLine_bundle_ne (o : Nat) (plans : List TeamPlan) :
    (sharedLineState.commitPack 1 o plans).bundle 0 ≠ sharedLineState.bundle 0 := by
  have hpack : (sharedLineState.pack 1).launch = 1 := by decide +kernel
  have hst : (sharedLineState.launch 1).st = .reserving := by decide +kernel
  have hlt : 0 < (sharedLineState.zeroShares (sharedLineState.launch 1)).bundles.length := by decide +kernel
  rw [commitPack_bundle_of_lt o plans (by rw [hpack, hst]) (by rw [hpack]; exact hlt), hpack]
  intro hsame
  obtain ⟨hbefore, hafter⟩ := sharedLine_stores
  rw [hsame, hbefore] at hafter
  exact absurd hafter (by decide)

end Sys2Proof.Laws

namespace Sys2Proof.Claims
open Sys2Proof.Machine

/-- Refutes O38, in its clause that no other bundle changes when a pack is placed: zeroing the global share area of the pack's launch (R180)
recalls a dirty stash line of a team in whose context no version line is free, that team's version is published early (R311), and the store
that its thread has outstanding is a direct one afterwards. -/
theorem not_teamsBeginAndEnd : ¬ Obligations.TeamsBeginAndEnd := by
  unfold Obligations.TeamsBeginAndEnd
  rintro ⟨hplaced, -, -⟩
  obtain ⟨t, hexec, -, hbundles, -⟩ :=
    hplaced Laws.sharedLineState 1 0 [Laws.sharingPlan] Laws.sharedLine_plan Laws.sharedLine_order (by decide +kernel)
  rw [Laws.execTeamPlaced_of_plan Laws.sharedLine_plan Laws.sharedLine_order] at hexec
  rw [← Host.Outcome.next.inj hexec] at hbundles
  exact Laws.sharedLine_bundle_ne 0 [Laws.sharingPlan] (hbundles 0 (by decide +kernel))

end Sys2Proof.Claims
end

section
/-! Barriers (R218 to R223, R227): what a barrier rests on, one barrier that changes, and the word that names it. -/
namespace Sys2Proof.Laws
open Sys2Proof.Machine Sys2Proof.Claims

/-! ### What barriers rest on -/

/-- What barriers rest on: teams and packs, and of each bundle its team, its own barriers and its width. -/
structure SameBarriers (s u : State) : Prop where
  teams : u.teams = s.teams
  packs : u.packs = s.packs
  launches : u.launches = s.launches
  bundles : u.bundles.map (fun x => (x.team, x.lbars, x.threads.length)) = s.bundles.map (fun x => (x.team, x.lbars, x.threads.length))

section
variable {s u : State}

theorem SameBarriers.refl (s : State) : SameBarriers s s := ⟨rfl, rfl, rfl, rfl⟩

theorem SameBarriers.trans {v : State} (h : SameBarriers s u) (g : SameBarriers u v) : SameBarriers s v :=
  ⟨g.teams.trans h.teams, g.packs.trans h.packs, g.launches.trans h.launches, g.bundles.trans h.bundles⟩

theorem SameBarriers.symm (h : SameBarriers s u) : SameBarriers u s := ⟨h.teams.symm, h.packs.symm, h.launches.symm, h.bundles.symm⟩

/-- What barriers rest on of one bundle. -/
theorem SameBarriers.part (h : SameBarriers s u) (b : Nat) : (u.bundle b).team = (s.bundle b).team ∧ (u.bundle b).lbars = (s.bundle b).lbars ∧
    (u.bundle b).threads.length = (s.bundle b).threads.length := by
  have e (v : State) : ((v.bundle b).team, (v.bundle b).lbars, (v.bundle b).threads.length) =
      (v.bundles.map (fun x => (x.team, x.lbars, x.threads.length))).getD b (Bundle.absent.team, Bundle.absent.lbars, 0) := by
    simp only [State.bundle, List.getD_eq_getElem?_getD, List.getElem?_map]
    cases v.bundles[b]? <;> rfl
  have h : (_, _, _) = (_, _, _) := (e u).trans (h.bundles ▸ (e s).symm)
  simpa only [Prod.mk.injEq] using h

theorem SameBarriers.barTeams (h : SameBarriers s u) (r : BarRef) : u.barTeams r = s.barTeams r := by
  cases r with
  | team t n => rfl
  | lane b k => simp only [State.barTeams, (h.part b).1]
  | pack p n i => simp [State.barTeams, State.pack, State.launch, State.teamLaunch, State.team, h.teams, h.packs, h.launches]

theorem SameBarriers.bar (h : SameBarriers s u) (r : BarRef) : u.bar r = s.bar r := by
  cases r with
  | team t n => simp only [State.bar, State.team, h.teams]
  | lane b k =>
    obtain ⟨-, hlbars, hwidth⟩ := h.part b
    simp only [State.bar, hlbars, hwidth]
  | pack p n i => simp only [State.bar, State.pack, h.packs, h.barTeams]

end

/-- A change of a bundle that keeps what barriers rest on. -/
theorem sameBarriers_modBundle {f : Bundle → Bundle}
    (h : ∀ x, (f x).team = x.team ∧ (f x).lbars = x.lbars ∧ (f x).threads.length = x.threads.length) (s : State) (b : Nat) :
    SameBarriers s (s.modBundle b f) := by
  refine ⟨rfl, rfl, rfl, map_modify_of_eq (fun x => ?_) b s.bundles⟩
  obtain ⟨hteam, hlbars, hwidth⟩ := h x
  rw [hteam, hlbars, hwidth]

theorem sameBarriers_modThread (s : State) (b l : Nat) (f : Thread → Thread) : SameBarriers s (s.modThread b l f) :=
  sameBarriers_modBundle (f := fun x => x.modThread l f) (fun x => ⟨rfl, rfl, by simp [Bundle.modThread]⟩) s b

theorem sameBarriers_mapLanes (s : State) (f : Nat → Thread → Thread) : SameBarriers s (s.mapLanes f) :=
  sameBarriers_modBundle (f := fun x => { x with threads := x.threads.mapIdx f }) (fun x => ⟨rfl, rfl, by simp⟩) s _

/-- The order of accesses is nothing that barriers rest on. -/
theorem sameBarriers_bare (s : State) : SameBarriers s s.bare :=
  ⟨rfl, rfl, rfl, by simp [bare_eq, bareBundle, Function.comp_def]⟩

/-- States that are alike, but for the order of accesses, in what barriers rest on. -/
theorem SameBarriers.of_bare {s u : State} (h : SameBarriers s.bare u.bare) : SameBarriers s u :=
  ((sameBarriers_bare s).trans h).trans (sameBarriers_bare u).symm

/-- A write of uniform registers is nothing that barriers rest on. -/
theorem sameBarriers_writeS (s : State) (ws : List (Nat × Reg)) : SameBarriers s (s.writeS ws) := by
  refine sameBarriers_modBundle (fun x => ?_) s _
  obtain ⟨-, h, -⟩ := bundleWriteS_like x ws
  have hteam := congrArg Bundle.team h
  have hlbars := congrArg Bundle.lbars h
  have hwidth := congrArg (fun y : Bundle => y.threads.length) h
  exact ⟨hteam, hlbars, hwidth⟩

/-! ### One barrier that changes -/

/-- A program barrier that its team or its pack has (R218, R222). -/
def barHeld (s : State) : BarRef → Prop
  | .team t k => t < s.teams.length ∧ k < (s.team t).bars.length
  | .pack p _ _ => p < s.packs.length
  | .lane _ _ => False

@[simp] theorem modBar_cur (s : State) (r : BarRef) (f : Barrier → Barrier) : (s.modBar r f).cur = s.cur := by cases r <;> rfl

theorem modBar_bundles {s : State} {r : BarRef} (hr : barHeld s r) (f : Barrier → Barrier) : (s.modBar r f).bundles = s.bundles := by
  cases r with
  | lane b k => exact hr.elim
  | _ => rfl

/-- A change of a barrier of a team or a pack changes teams and packs alone. -/
theorem withBars_modBar {s t : State} {r : BarRef} {f : Barrier → Barrier} (hr : barHeld s r) (ht : t.teams = (s.modBar r f).teams)
    (hp : t.packs = (s.modBar r f).packs) : withBars s t = s.modBar r f := by
  unfold withBars
  rw [ht, hp]
  cases r with
  | lane b k => exact hr.elim
  | team t k => rfl
  | pack p n i => rfl

/-- A pack after a change of one, in a view that the change keeps. -/
theorem pack_modPack_view {α : Type} {φ : Pack → α} {p : Nat} {f : Pack → Pack} (h : ∀ x, φ (f x) = φ x) (s : State) (c : Nat) :
    φ ((s.modPack p f).pack c) = φ (s.pack c) := by
  simp only [State.pack, State.modPack, List.getD_eq_getElem?_getD, List.getElem?_modify]
  cases s.packs[c]? with
  | none => rfl
  | some x => by_cases e : p = c <;> simp [e, h]

/-- A team after a change of one, in a view that the change keeps. -/
theorem team_modTeam_view {α : Type} {φ : Team → α} {t : Nat} {f : Team → Team} (h : ∀ x, φ (f x) = φ x) (s : State) (c : Nat) :
    φ ((s.modTeam t f).team c) = φ (s.team c) := by
  simp only [State.team, State.modTeam, List.getD_eq_getElem?_getD, List.getElem?_modify]
  cases s.teams[c]? with
  | none => rfl
  | some x => by_cases e : t = c <;> simp [e, h]

/-- What does not depend on the barriers of a team or a pack, in a state of which a barrier changes. -/
theorem modBar_view {α β : Type} {φ : Team → α} {ψ : Pack → β} (hφ : ∀ x bars, φ { x with bars := bars } = φ x)
    (hψ : ∀ x bars, ψ { x with bars := bars } = ψ x) (s : State) {r : BarRef} (f : Barrier → Barrier) :
    (∀ c, φ ((s.modBar r f).team c) = φ (s.team c)) ∧ ∀ c, ψ ((s.modBar r f).pack c) = ψ (s.pack c) := by
  cases r with
  | lane b k => exact ⟨fun _ => rfl, fun _ => rfl⟩
  | team t n => exact ⟨team_modTeam_view (fun x => hφ x _) s, fun _ => rfl⟩
  | pack p n i => exact ⟨fun _ => rfl, pack_modPack_view (fun x => hψ x _) s⟩

/-- The teams that a barrier counts do not depend on barriers. -/
theorem barTeams_modBar {s : State} {r : BarRef} (hr : barHeld s r) (f : Barrier → Barrier) (r' : BarRef) :
    (s.modBar r f).barTeams r' = s.barTeams r' := by
  have hteam := (modBar_view (φ := fun x => (x.launch, x.index)) (ψ := fun x => (x.launch, x.members)) (fun _ _ => rfl) (fun _ _ => rfl) s
    (r := r) f)
  simp only [Prod.mk.injEq] at hteam
  obtain ⟨hteam, hpack⟩ := hteam
  have hlaunch (c : Nat) : (s.modBar r f).launch c = s.launch c := by cases r <;> rfl
  cases r' with
  | team t n => rfl
  | lane b k =>
    cases r with
    | lane b k => exact hr.elim
    | _ => rfl
  | pack p n i => simp only [State.barTeams, State.teamLaunch, hlaunch, hteam, hpack]

/-- A barrier of a pack in a list of which one is replaced. -/
theorem find?_replaced (bars : List PackBar) (n i : Nat) (v : Barrier) (n' i' : Nat) :
    (bars.filter (fun y : PackBar => !(y.num == n && y.inst == i)) ++ [(⟨n, i, v⟩ : PackBar)]).find? (fun y => y.num == n' && y.inst == i') =
      if n = n' ∧ i = i' then some ⟨n, i, v⟩ else bars.find? (fun y => y.num == n' && y.inst == i') := by
  induction bars with
  | nil => simp [List.find?_singleton]
  | cons y ys ih =>
    by_cases hy : y.num = n ∧ y.inst = i
    · rw [List.filter_cons_of_neg (by simp [hy]), ih]
      split
      · rfl
      next hne => rw [List.find?_cons_of_neg (by simpa [hy] using hne)]
    · rw [List.filter_cons_of_pos (by simpa using not_and_or.mp hy), List.cons_append, List.find?_cons, List.find?_cons, ih]
      split
      next hm =>
        simp only [Bool.and_eq_true, beq_iff_eq] at hm
        rw [if_neg (by rintro ⟨rfl, rfl⟩; exact hy hm)]
      · rfl

/-- One barrier changes, and no other. -/
theorem barNow_modBar {s : State} {r : BarRef} (hr : barHeld s r) (f : Barrier → Barrier) : BarNow s (s.modBar r f) r (f (s.bar r)) := by
  cases r with
  | lane b k => exact hr.elim
  | team t n =>
    have ⟨ht, hn⟩ := hr
    have hbars (t' : Nat) : ((s.modBar (.team t n) f).team t').bars =
        if t' = t then (s.team t).bars.modify n f else (s.team t').bars := by
      by_cases e : t' = t
      · subst e
        rw [if_pos rfl, State.modBar, team_modTeam, if_pos ht]
      · rw [if_neg e, State.modBar, team_modTeam_ne _ _ _ _ e]
    refine ⟨?_, fun r' hne => ?_, map_modify_of_eq (f := fun x : Team => { x with bars := x.bars.modify n f }) (fun _ => rfl) t s.teams, rfl⟩
    · simp [State.bar, hbars, List.getD_eq_getElem?_getD, hn]
    · cases r' with
      | lane b k => rfl
      | team t' n' =>
        simp only [State.bar, hbars]
        split
        next e =>
          subst e
          have hnn : n ≠ n' := fun e => hne (by rw [e])
          simp [List.getD_eq_getElem?_getD, List.getElem?_modify_ne _ _ hnn]
        · rfl
      | pack p n' i =>
        simp only [State.bar, barTeams_modBar hr]
        rfl
  | pack p n i =>
    have hbars (p' : Nat) : ((s.modBar (.pack p n i) f).pack p').bars = if p' = p then
        (s.pack p).bars.filter (fun y => !(y.num == n && y.inst == i)) ++ [⟨n, i, f (s.bar (.pack p n i))⟩] else (s.pack p').bars := by
      have hp : p < s.packs.length := hr
      by_cases e : p = p'
      · subst e
        simp [State.modBar, State.modPack, State.pack, List.getD_eq_getElem?_getD, hp]
      · simp [State.modBar, State.modPack, State.pack, List.getD_eq_getElem?_getD, e, Ne.symm e]
    refine ⟨?_, fun r' hne => ?_, rfl, map_modify_of_eq (f := fun x : Pack => { x with
      bars := x.bars.filter (fun y => !(y.num == n && y.inst == i)) ++ [⟨n, i, f (s.bar (.pack p n i))⟩] }) (fun _ => rfl) p s.packs⟩
    · rw [State.bar, hbars, if_pos rfl, find?_replaced, if_pos ⟨rfl, rfl⟩]
      rfl
    · cases r' with
      | team t n' => rfl
      | lane b k => rfl
      | pack p' n' i' =>
        simp only [State.bar, hbars, barTeams_modBar hr]
        split
        next e =>
          subst e
          rw [find?_replaced, if_neg fun ⟨hn, hi⟩ => hne (by rw [hn, hi])]
        · rfl

/-- Where one barrier has changed, and then nothing that barriers rest on. -/
theorem barNow_sameBarriers {s u t : State} {r : BarRef} {b : Barrier} (h : BarNow s u r b) (hs : SameBarriers u t) : BarNow s t r b :=
  ⟨(hs.bar r).trans h.bar, fun r' hr => (hs.bar r').trans (h.others r' hr), by rw [hs.teams, h.teams], by rw [hs.packs, h.packs]⟩

/-- Where nothing that barriers rest on has changed, and then one barrier. -/
theorem sameBarriers_barNow {s u t : State} {r : BarRef} {b : Barrier} (h : BarNow u t r b) (hs : SameBarriers s u) : BarNow s t r b :=
  ⟨h.bar, fun r' hr => (h.others r' hr).trans (hs.bar r'), by rw [h.teams, hs.teams], by rw [h.packs, hs.packs]⟩

/-! ### The barrier that a word names -/

section
variable {s : State} {l : BitVec 2} {n : BitVec 4} {r : BarRef}

theorem barHeld_of_progBar (h : ProgBar s l n r) : barHeld s r := by
  cases r <;> exact h.held

/-- The number that a word names, and its level. -/
theorem progBar_num (h : ProgBar s l n r) : r.num = n.toNat ∧ r.isPack = decide (l = 2) := by
  rw [h.named, State.progBar]
  by_cases e : l = 2
  · simp [e, BarRef.num, BarRef.isPack]
  · rw [if_neg (by simpa using e), decide_eq_false e]
    exact ⟨rfl, rfl⟩

/-- A barrier word names no barrier of the mapper's, and its sources pass their checks: it has its effect (R222). -/
theorem exec_barWord {i : Instr} {us : List Use} {f : State → BarRef → State} (he : exec i s = s.word i (fun s => s.barWord l n us f))
    (hi : s.issues i) (hr : ProgBar s l n r) (hu : s.uniTrap us = none) : exec i s = .next (f s r) := by
  have hm : mapperBarrier l n = false := by
    have ha := hr.allowed
    simpa [mapperBarrier, BitVec.lt_def] using ha
  refine exec_issues_eq he hi ?_
  rw [State.barWord, hm, State.uniWord, hu, hr.named]
  rfl

end

end Sys2Proof.Laws
end

section
/-! Waits at a program barrier, and its payload (R224, R227). -/
namespace Sys2Proof.Laws
open Sys2Proof.Machine Sys2Proof.Claims

/-! ### Waits (R224) -/

/-- A generation is pending where it is ahead of the open one by less than half of all generations. -/
theorem genPending_iff {g cur : Word} : genPending g cur = true ↔ (g - cur).toNat < 2 ^ 31 := by
  have h := BitVec.msb_eq_decide (g - cur)
  rw [BitVec.msb_eq_getLsbD_last] at h
  rw [genPending, h]
  simp

/-- A barrier without a generation whose check tripped parks no lane (R300). -/
theorem waitLanes_noDrift {s : State} {r : BarRef} (h : (s.bar r).drift = []) (b : Nat) (ls : List (Nat × Word)) :
    s.waitLanes r b ls = ls.foldl (fun s x => s.waitLane r b x.1 x.2) s := by
  unfold State.waitLanes
  rw [List.filterMap_eq_nil_iff.mpr fun x _ => by simp [Barrier.tripped, h, lookupKey]]
  rfl

/-- A thread that waits at a barrier on a generation (R224). -/
def waitsAt (r : BarRef) (g : Word) (t : Thread) : Thread := { t with st := .waiting (.barrier r.isPack r.num g) }

/-- Issued lanes that wait on a generation that is open or to come (R224). -/
theorem foldl_waitLane_pending {s : State} {r : BarRef} {g : Word} (h : genPending g (s.bar r).gen = true) :
    s.issued.foldl (fun u l => u.waitLane r s.cur.bundle l g) s =
      s.mapLanes (fun l t => if s.cur.lanes.getLsbD l then waitsAt r g t else t) := by
  refine foldLanes s _ (fun _ => waitsAt r g) fun ts l _ hts _ => ?_
  have hbar : (withThreads s ts).bar r = s.bar r := by
    rw [withThreads, modBundle_congr s _ _ (fun x => if x.threads.length = ts.length then { x with threads := ts } else x)
      (if_pos hts.symm).symm]
    refine (sameBarriers_modBundle (fun x => ?_) s _).bar r
    split
    next h => exact ⟨rfl, rfl, h.symm⟩
    · exact ⟨rfl, rfl, rfl⟩
  unfold State.waitLane
  rw [hbar, if_pos h]
  rfl

/-- The wait of a thread does not look at the order of accesses. -/
theorem bareThread_passBarrier (r : BarRef) (t : Thread) : bareThread (t.passBarrier r) = (bareThread t).passBarrier r := by
  unfold Thread.passBarrier Thread.wake
  change bareThread (if t.isWaiting then if t.parkAsked then _ else _ else _) = if t.isWaiting then if t.parkAsked then _ else _ else _
  split
  · split <;> rfl
  · rfl

/-- A READY thread that passes a barrier (R224): its record clears where it names the barrier. -/
theorem passBarrier_ready {t : Thread} (h : t.st = .ready) (r : BarRef) : t.passBarrier r =
    { t with pc := t.pc + 4, fell := true, pwait := t.pwait.filter (fun w => !(w.pack == r.isPack && w.num == r.num)) } := by
  have hp : (if t.pendingAt r then none else t.pwait) = t.pwait.filter (fun w => !(w.pack == r.isPack && w.num == r.num)) := by
    unfold Thread.pendingAt
    cases t.pwait with
    | none => rfl
    | some w =>
      rw [Option.filter_some]
      dsimp only
      by_cases hw : (w.pack == r.isPack && w.num == r.num) = true
      · rw [if_pos hw, if_neg (by rw [hw]; decide)]
      · rw [if_neg hw, if_pos (by rw [Bool.eq_false_iff.mpr hw]; rfl)]
  unfold Thread.passBarrier
  rw [hp]
  simp [Thread.wake, Thread.isWaiting, Thread.advance, h]

/-- The issued lanes, in a state without the order of accesses. -/
theorem mapLanes_issued (s : State) (f : Nat → Thread → Thread) : s.bare.mapLanes (fun l t => if l ∈ s.issued then f l t else t) =
    s.bare.mapLanes (fun l t => if s.cur.lanes.getLsbD l then f l t else t) := by
  have hlen : s.bare.curB.threads.length = s.curB.threads.length := (sameBars_bare s).width s.cur.bundle
  refine mapLanes_congr fun l hl => ?_
  simp only [mem_issued, hlen ▸ hl, true_and]

/-- The issued lanes of a state, changed without the order of accesses. -/
theorem laneStep_issued {s : State} {f next : Nat → Thread → Thread}
    (h : ∀ l ∈ s.issued, f l (bareThread (s.curB.thread l)) = next l (bareThread (s.curB.thread l))) :
    LaneStep s.bare (s.bare.mapLanes (fun l t => if l ∈ s.issued then f l t else t)) next := by
  rw [mapLanes_issued]
  refine mapLanes_laneStep (s := s.bare) fun l hl => ?_
  have hlen : s.bare.curB.threads.length = s.curB.threads.length := (sameBars_bare s).width s.cur.bundle
  have e : s.bare.curB.thread l = bareThread (s.curB.thread l) := thread_bare s s.cur.bundle l
  change _ = if s.cur.lanes.getLsbD l then _ else _
  split
  next hi => rw [e, h l (mem_issued.mpr ⟨hlen ▸ hl, hi⟩)]
  · rfl

/-- No lane is issued twice. -/
theorem nodup_issued (s : State) : s.issued.Nodup := List.nodup_range.filter _

/-- Issued lanes that pass a generation that has been released (R224). -/
theorem foldl_waitLane_released {s : State} {r : BarRef} {g : Word} (h : genPending g (s.bar r).gen = false) :
    (s.issued.foldl (fun u l => u.waitLane r s.cur.bundle l g) s).bare =
      s.bare.mapLanes (fun l t => if l ∈ s.issued then t.passBarrier r else t) := by
  refine (foldl_bareLanes (g := fun _ t => t.passBarrier r) (P := fun u => u.bar r = s.bar r) (fun u hu l _ _ => ?_)
    (nodup_issued s) rfl).1
  have e : u.waitLane r s.cur.bundle l g = (u.modThread s.cur.bundle l (fun t => t.passBarrier r)).acquireThread s.cur.bundle l 0xFFFF := by
    rw [State.waitLane, hu, if_neg (by simp [h])]
  have hb : (u.waitLane r s.cur.bundle l g).bare = u.bare.modThread s.cur.bundle l (fun t => t.passBarrier r) := by
    rw [e, bare_acquireThread, bare_modThread_comm (bareThread_passBarrier r)]
  have hs : SameBarriers u (u.waitLane r s.cur.bundle l g) := .of_bare (hb ▸ sameBarriers_modThread u.bare _ l _)
  exact ⟨hb, (hs.bar r).trans hu⟩

/-- BWAIT (R224). -/
theorem execBwait_step {s : State} {a : BitVec 6} {l : BitVec 2} {n : BitVec 4} {r : BarRef} (hi : s.issues (.bwait a l n))
    (hr : ProgBar s l n r) (hu : s.uniTrap [⟨a.toNat, 1, .int⟩] = none) (hready : ∀ j ∈ s.issued, (s.curB.thread j).st = .ready)
    (hd : (s.bar r).drift = []) : ∃ t, exec (.bwait a l n) s = .next t ∧
      ((s.u32 a - (s.bar r).gen).toNat < 2 ^ 31 → LaneStep s t (fun _ th =>
        { th with st := .waiting (.barrier (decide (l = 2)) n.toNat (s.u32 a)) })) ∧
      ((s.u32 a - (s.bar r).gen).toNat ≥ 2 ^ 31 → LaneStep s.bare t.bare (fun _ th => { th with
        pc := th.pc + 4, fell := true, pwait := th.pwait.filter (fun w => !(w.pack == decide (l = 2) && w.num == n.toNat)) })) := by
  obtain ⟨hnum, hpack⟩ := progBar_num hr
  refine ⟨_, exec_barWord rfl hi hr hu, ?_⟩
  dsimp only
  rw [waitLanes_noDrift hd, List.foldl_map]
  refine ⟨fun hg => ?_, fun hg => ?_⟩
  · rw [foldl_waitLane_pending (genPending_iff.mpr hg), ← hpack, ← hnum]
    exact mapLanes_step s (fun _ => waitsAt r (s.u32 a))
  · have hg : genPending (s.u32 a) (s.bar r).gen = false := Bool.eq_false_iff.mpr fun h => absurd (genPending_iff.mp h) (by omega)
    rw [foldl_waitLane_released hg, ← hpack, ← hnum]
    exact laneStep_issued fun j hj => passBarrier_ready (t := bareThread (s.curB.thread j)) (hready j hj) r

/-! ### Payloads (R227) -/

/-- A contribution to the payload of a barrier (R227). -/
def payBar (op : Nat) (v : DWord) (x : Barrier) : Barrier :=
  match x.payop with
  | none => { x with payop := some op, payload := v }
  | some o => { x with payload := combinePay o x.payload v, mixed := x.mixed || o != op }

/-- A uniform pair with a tag. -/
def tagPair (x : Bundle) (reg : Nat) (t : Tag) : Bundle :=
  { x with s := (x.s.modify reg (fun y => { y with tag := t })).modify (reg + 1) (fun y => { y with tag := t }) }

/-- A delivery is that of a barrier. -/
def deliversTo (r : BarRef) (e : Delivery) : Bool := e.pack == r.isPack && e.num == r.num

/-- A bundle that waits for the payload of a barrier at a pair (R227): an earlier delivery's pair is RAW. -/
def payBundle (r : BarRef) (d : Nat) (x : Bundle) : Bundle :=
  let y := (x.deliver.filter (deliversTo r)).foldl (fun y e => tagPair y e.reg .raw) x
  { tagPair y d .pend with deliver := y.deliver.filter (fun e => !deliversTo r e) ++ [⟨r.isPack, r.num, d⟩] }

/-- A bundle that waits for the payload of a barrier at a pair, and did not before. -/
def firstPay (r : BarRef) (d : Nat) (x : Bundle) : Bundle :=
  { x with s := pairPend x.s d, deliver := x.deliver ++ [⟨r.isPack, r.num, d⟩] }

/-- A bundle that waits for no payload of the barrier yet. -/
theorem payBundle_first {r : BarRef} {x : Bundle} (h : ∀ e ∈ x.deliver, deliversTo r e = false) (d : Nat) :
    payBundle r d x = firstPay r d x := by
  have hs : (x.s.modify d (fun y => { y with tag := .pend })).modify (d + 1) (fun y => { y with tag := .pend }) = pairPend x.s d := by
    refine List.ext_getElem (by simp [pairPend]) fun i _ _ => ?_
    simp only [pairPend, List.getElem_modify, List.getElem_mapIdx, eq_comm (a := i)]
    by_cases h1 : d + 1 = i
    · subst h1
      simp
    · by_cases h2 : d = i <;> simp [h1, h2]
  have hnone : x.deliver.filter (deliversTo r) = [] := List.filter_eq_nil_iff.mpr fun e he => by simp [h e he]
  have hall : x.deliver.filter (fun e => !deliversTo r e) = x.deliver := List.filter_eq_self.mpr fun e he => by simp [h e he]
  rw [payBundle, hnone, List.foldl_nil, hall, tagPair, hs, firstPay]

/-- BPAY (R227). -/
theorem exec_bpay {s : State} {d a : BitVec 6} {p : BitVec 3} {l : BitVec 2} {n : BitVec 4} {r : BarRef} (hi : s.issues (.bpay d a p l n))
    (hr : ProgBar s l n r) (hu : s.uniTrap [⟨a.toNat, 2, .int⟩] = none) : exec (.bpay d a p l n) s =
      .next ((s.modBar r (payBar p.toNat (s.u64 a))).modBundle s.cur.bundle (payBundle r d.toNat)).advanceAll := by
  rw [← modBar_cur s r (payBar p.toNat (s.u64 a))]
  exact exec_barWord rfl hi hr hu

/-- The bundle at issue changes, and its issued lanes pass the word. -/
theorem advance_modBundle {v : State} {f : Bundle → Bundle} (hb : v.cur.bundle < v.bundles.length) (hf : ∀ x, (f x).threads = x.threads) :
    SameBut v.cur.bundle v (v.modBundle v.cur.bundle f).advanceAll ∧
      (v.modBundle v.cur.bundle f).advanceAll.curB = { f v.curB with threads := v.passed } := by
  refine ⟨⟨rfl, fun i hi => (bundle_modBundle_ne _ _ _ _ hi).trans (bundle_modBundle_ne _ _ _ _ hi)⟩, ?_⟩
  unfold State.advanceAll State.mapLanes
  rw [curB_modBundle _ _ (by simpa [State.modBundle] using hb), curB_modBundle _ _ hb, hf]
  rfl

/-- BPAY (R227): one barrier takes the contribution, and its bundle waits for the payload. -/
theorem execBpay_step {s : State} {d a : BitVec 6} {p : BitVec 3} {l : BitVec 2} {n : BitVec 4} {r : BarRef}
    (hi : s.issues (.bpay d a p l n)) (hr : ProgBar s l n r) (hu : s.uniTrap [⟨a.toNat, 2, .int⟩] = none)
    (hb : s.cur.bundle < s.bundles.length) (hd : ∀ e ∈ s.curB.deliver, ¬ (e.pack = decide (l = 2) ∧ e.num = n.toNat)) :
    ∃ t, exec (.bpay d a p l n) s = .next t ∧ SameBut s.cur.bundle (withBars s t) t ∧
      t.curB.s = pairPend s.curB.s d.toNat ∧ t.curB.deliver = s.curB.deliver ++ [⟨decide (l = 2), n.toNat, d.toNat⟩] ∧
      t.curB.threads = s.passed ∧ BarNow s t r (payBar p.toNat (s.u64 a) (s.bar r)) := by
  obtain ⟨hnum, hpack⟩ := progBar_num hr
  have hheld := barHeld_of_progBar hr
  refine ⟨_, exec_bpay hi hr hu, ?_⟩
  have hbundles := modBar_bundles hheld (payBar p.toNat (s.u64 a))
  have hwith {t : State} := withBars_modBar (t := t) (f := payBar p.toNat (s.u64 a)) hheld
  have hnow := barNow_modBar hheld (payBar p.toNat (s.u64 a))
  have hcur := modBar_cur s r (payBar p.toNat (s.u64 a))
  generalize s.modBar r (payBar p.toNat (s.u64 a)) = v at *
  have hcurB : v.curB = s.curB := by simp only [State.curB, State.bundle, hbundles, hcur]
  have hpassed : v.passed = s.passed := by simp only [State.passed, hcurB, hcur]
  have hfirst : payBundle r d.toNat (v.bundle v.cur.bundle) = firstPay r d.toNat (v.bundle v.cur.bundle) := by
    refine payBundle_first (fun e he => ?_) d.toNat
    have h := hd e (hcurB ▸ he)
    simpa [deliversTo, hnum, hpack] using h
  rw [← hcur, modBundle_congr v _ _ _ hfirst, hwith (t := (v.modBundle v.cur.bundle (firstPay r d.toNat)).advanceAll) rfl rfl,
    ← hnum, ← hpack, ← hcurB, ← hpassed]
  obtain ⟨hsame, ht⟩ := advance_modBundle (v := v) (f := firstPay r d.toNat) (by rwa [hcur, hbundles]) fun _ => rfl
  refine ⟨hsame, ?_, ?_, ?_, barNow_sameBarriers hnow ?_⟩
  · rw [ht, firstPay]
  · rw [ht, firstPay]
  · rw [ht]
  · exact (sameBarriers_modBundle (f := firstPay r d.toNat) (fun _ => ⟨rfl, rfl, rfl⟩) v _).trans (sameBarriers_mapLanes _ _)

end Sys2Proof.Laws

namespace Sys2Proof.Claims
open Sys2Proof.Machine

/-- Settles O24: a wait is on a generation that is pending, and a contribution is one change of one barrier. -/
theorem barrierWaitAndPay : Obligations.BarrierWaitAndPay := by
  refine ⟨?_, ?_⟩
  case refine_1 =>
    intro s a l n r hi hr hu hready hd
    exact Laws.execBwait_step hi hr hu hready hd
  case refine_2 =>
    intro s d a p l n r hi hr hu hb hd
    have h := Laws.execBpay_step hi hr hu hb hd
    have hne (o : Nat) : (o != p.toNat) = decide (o ≠ p.toNat) := by rw [Bool.eq_iff_iff, bne_iff_ne, decide_eq_true_iff]
    simp only [Laws.payBar, hne] at h
    exact h

end Sys2Proof.Claims
end

section
/-! `binit`, and arrivals at a team barrier in ALL mode that do not complete its generation (R220 to R224). -/
namespace Sys2Proof.Laws
open Sys2Proof.Machine Sys2Proof.Claims

/-! ### BINIT (R223) -/

/-- The issue of a barrier word names a legal barrier (R222): a pack barrier below 4. -/
theorem barLegal_pack {l : BitVec 2} {n : BitVec 4} (h : barLegal l n = true) (hl : l = 2) : n.toNat < 4 := by
  subst hl
  have h : n ≤ 3 := by simpa [barLegal] using h
  exact Nat.lt_succ_of_le (BitVec.le_def.mp h)

/-- A word that issues has no defect (R48). -/
theorem encDefect_of_issues {s : State} {i : Instr} (h : s.issues i) : encDefect i = none := by
  have h := h.1
  unfold State.wordTrap at h
  split at h
  · cases h
  · cases h
  · cases h
  · assumption

/-- The members of a program barrier (R220): the teams of the pack, or the created threads of the team. -/
def barMembers (s : State) : BarRef → Nat
  | .pack p _ _ => (s.pack p).members.length
  | _ => (s.teamLaunch s.curTeam).teamThreads

/-- A barrier with another mode and count (R223). -/
def countBar (v members : Nat) (x : Barrier) : Barrier :=
  if v = 0 then { x with all := true, expected := members } else { x with all := false, expected := v }

/-- BINIT (R223). -/
theorem exec_binit {s : State} {a : BitVec 6} {l : BitVec 2} {n : BitVec 4} {r : BarRef} (hi : s.issues (.binit a l n))
    (hr : ProgBar s l n r) (hu : s.uniTrap [⟨a.toNat, 1, .int⟩] = none) : exec (.binit a l n) s =
      .next (if (s.bar r).counting || (s.u32 a).toNat > 65536 then s.trapIssued (TrapInfo.of causeBarrierUse)
        else (s.modBar r (countBar (s.u32 a).toNat (barMembers s r))).advanceAll) := by
  refine (exec_barWord rfl hi hr hu).trans (congrArg _ ?_)
  have hheld := barHeld_of_progBar hr
  obtain ⟨hnum, hpack⟩ := progBar_num hr
  cases r with
  | lane b k => exact hheld.elim
  | team t k => rfl
  | pack p k i =>
    have hdefect : (if !(barLegal l n) then some EncFault.reservedFn else none) = none := encDefect_of_issues hi
    have hlegal : barLegal l n = true := by simpa using hdefect
    have hk : k < 4 := by
      have hl : l = 2 := by simpa [BarRef.isPack] using hpack
      have hn : k = n.toNat := hnum
      exact hn ▸ barLegal_pack hlegal hl
    have hteams : s.barTeams (.pack p k i) = (s.pack p).members := if_pos hk
    dsimp only
    rw [hteams]
    rfl

/-- BINIT of a barrier that is not open (R223). -/
theorem execBinit_step {s : State} {a : BitVec 6} {l : BitVec 2} {n : BitVec 4} {r : BarRef} (hi : s.issues (.binit a l n))
    (hr : ProgBar s l n r) (hu : s.uniTrap [⟨a.toNat, 1, .int⟩] = none) (hc : (s.bar r).counting = false)
    (hv : (s.u32 a).toNat ≤ 65536) : ∃ t, exec (.binit a l n) s = .next t ∧ UniStep (withBars s t) t [] ∧
      BarNow s t r (countBar (s.u32 a).toNat (barMembers s r) (s.bar r)) := by
  have hheld := barHeld_of_progBar hr
  refine ⟨_, exec_binit hi hr hu, ?_⟩
  rw [hc, if_neg (by simpa using hv)]
  refine ⟨?_, barNow_sameBarriers (barNow_modBar hheld _) (sameBarriers_mapLanes _ _)⟩
  refine (congrArg (fun u => UniStep u _ []) ?_).mpr (advanceAll_step (s.modBar r (countBar (s.u32 a).toNat (barMembers s r))))
  exact withBars_modBar hheld rfl rfl

/-! ### What the order of accesses is not -/

@[simp] theorem bare_cur (s : State) : s.bare.cur = s.cur := rfl

@[simp] theorem bareThread_pc (t : Thread) : (bareThread t).pc = t.pc := rfl

@[simp] theorem bareThread_st (t : Thread) : (bareThread t).st = t.st := rfl

@[simp] theorem bareThread_pwait (t : Thread) : (bareThread t).pwait = t.pwait := rfl

@[simp] theorem bareThread_arrived (t : Thread) : (bareThread t).arrived = t.arrived := rfl

@[simp] theorem bareThread_parkAsked (t : Thread) : (bareThread t).parkAsked = t.parkAsked := rfl

/-! ### Arrivals (R224) -/

/-- A barrier whose open generation has an arrival, by the word at `pc` (R221). -/
def opened (pc : DWord) (x : Barrier) : Barrier := { x with counting := true, word := pc }

/-- Two changes of one team barrier are one change. -/
theorem modBar_modBar_team (s : State) (t n : Nat) (f g : Barrier → Barrier) :
    (s.modBar (.team t n) f).modBar (.team t n) g = s.modBar (.team t n) (g ∘ f) := by
  simp [State.modBar, State.modTeam, List.modify_modify_eq, Function.comp_def]

/-- Lanes that arrive at a team barrier in ALL mode (R224): each is ARRIVED, and the barrier counts. -/
theorem arriveLanes_team {s : State} {t n b : Nat} {ls : List Nat} (hr : barHeld (s.fenceNow b ls false) (.team t n))
    (ha : ((s.fenceNow b ls false).bar (.team t n)).all = true) (hl : ls ≠ []) (hn : ls.Nodup) :
    s.arriveLanes (.team t n) b ls = ((s.fenceNow b ls false).modBar (.team t n) (opened s.cur.pc)).modBundle b (fun x =>
      { x with threads := x.threads.mapIdx (fun l th => if l ∈ ls then arrivedAt th n else th) }) := by
  have hall : (((s.fenceNow b ls false).modBar (.team t n) (fun x => { x with word := s.cur.pc })).bar (.team t n)).all = true := by
    rw [(barNow_modBar hr _).bar, ha]
  have hteam : s.arriveLanes (.team t n) b ls = if ls.isEmpty then s else
      let v := (s.fenceNow b ls false).modBar (.team t n) (fun x => { x with word := s.cur.pc })
      if (v.bar (.team t n)).all then
        (ls.foldl (fun u l => u.modThread b l (fun th => arrivedAt th n)) v).modBar (.team t n) (fun x => { x with counting := true })
      else v.modBar (.team t n) (fun x => { x with counting := true, arrcnt := x.arrcnt + 1 }) := rfl
  rw [hteam, if_neg (by simpa using hl)]
  dsimp only
  rw [hall, if_pos rfl, foldl_modThread_mapIdx _ b (fun _ th => arrivedAt th n) hn]
  exact congrArg (fun u : State => u.modBundle b _) (modBar_modBar_team _ t n _ _)

/-- The state, without the order of accesses, once issued lanes have arrived at team barrier `n` (R224): the barrier counts, the word has
written `ws`, and each lane is what `f` makes of it. -/
def arrival (s : State) (n : Nat) (ws : List (Nat × Reg)) (f : Thread → Thread) : State :=
  ((s.bare.modBar (.team s.curTeam n) (opened s.cur.pc)).writeS ws).mapLanes (fun l t => if l ∈ s.issued then f t else t)

section
variable {s : State} {n : Nat} {ws : List (Nat × Reg)} {f : Thread → Thread}

@[simp] theorem arrival_cur : (arrival s n ws f).cur = s.cur := rfl

@[simp] theorem arrival_mem : (arrival s n ws f).mem = s.mem := rfl

@[simp] theorem arrival_teams : (arrival s n ws f).teams = (s.modBar (.team s.curTeam n) (opened s.cur.pc)).teams := rfl

/-- A write of uniform registers changes no thread. -/
theorem bundleWriteS_threads (x : Bundle) (ws : List (Nat × Reg)) : (x.writeS ws).threads = x.threads := by
  obtain ⟨-, h, -⟩ := bundleWriteS_like x ws
  have e := congrArg Bundle.threads h
  exact e

/-- The bundle at issue with the registers that the word writes. -/
theorem curB_opened (hb : s.cur.bundle < s.bundles.length) (n : Nat) (ws : List (Nat × Reg)) :
    ((s.bare.modBar (.team s.curTeam n) (opened s.cur.pc)).writeS ws).curB = (bareBundle s.curB).writeS ws := by
  have hv : (s.bare.modBar (.team s.curTeam n) (opened s.cur.pc)).curB = bareBundle s.curB := bundle_bare s s.cur.bundle
  have hlen : s.cur.bundle < s.bare.bundles.length := by simpa [bare_eq] using hb
  rw [← hv]
  exact curB_modBundle _ _ hlen

/-- The bundle at issue once its lanes have arrived. -/
theorem arrival_curB (hb : s.cur.bundle < s.bundles.length) : (arrival s n ws f).curB = { (bareBundle s.curB).writeS ws with
    threads := (bareBundle s.curB).threads.mapIdx (fun l t => if l ∈ s.issued then f t else t) } := by
  have hlen : s.cur.bundle < ((s.bare.modBar (.team s.curTeam n) (opened s.cur.pc)).writeS ws).bundles.length := by
    have hlen : s.cur.bundle < s.bare.bundles.length := by simpa [bare_eq] using hb
    exact hlen.trans_eq (List.length_modify _ _ _).symm
  unfold arrival State.mapLanes
  rw [curB_modBundle _ _ hlen, curB_opened hb, bundleWriteS_threads]

/-- The threads of the bundle at issue once its lanes have arrived. -/
theorem threads_arrival (hb : s.cur.bundle < s.bundles.length) : (arrival s n ws f).curB.threads =
    s.bare.curB.threads.mapIdx (fun k th => if s.cur.lanes.getLsbD k then f th else th) := by
  have e : s.bare.curB = bareBundle s.curB := bundle_bare s s.cur.bundle
  rw [arrival_curB hb, e]
  refine List.mapIdx_eq_mapIdx_iff.mpr fun k hk => ?_
  have hk : k < s.curB.threads.length := by simpa [bareBundle] using hk
  simp only [mem_issued, hk, true_and]

/-- The uniform registers once lanes have arrived. -/
theorem regs_arrival (hb : s.cur.bundle < s.bundles.length) :
    (arrival s n ws f).curB.s = ws.foldl (fun r w => r.set w.1 w.2) s.curB.s := by
  obtain ⟨h, -, -⟩ := bundleWriteS_like (bareBundle s.curB) ws
  rw [arrival_curB hb]
  exact h

/-- The other bundles. -/
theorem arrival_bundle_ne {c : Nat} (hc : c ≠ s.cur.bundle) : (arrival s n ws f).bundle c = bareBundle (s.bundle c) :=
  ((bundle_modBundle_ne _ _ _ _ hc).trans (bundle_modBundle_ne _ _ _ _ hc)).trans (bundle_bare s c)

/-- Each thread once the issued lanes have arrived. -/
theorem thread_arrival (hb : s.cur.bundle < s.bundles.length) (b l : Nat) : (arrival s n ws f).thread b l =
    if b = s.cur.bundle ∧ l ∈ s.issued then f (bareThread (s.thread b l)) else bareThread (s.thread b l) := by
  by_cases hc : b = s.cur.bundle
  · subst hc
    have e : (arrival s n ws f).thread s.cur.bundle l = (arrival s n ws f).curB.thread l := rfl
    rw [e, arrival_curB hb, ← thread_bare]
    unfold State.thread
    rw [bundle_bare]
    by_cases hl : l < (bareBundle (s.bundle s.cur.bundle)).threads.length
    · simp [Bundle.thread, List.getD_eq_getElem?_getD, hl, State.curB]
    · have hi : l ∉ s.issued := fun h => hl (by simpa [bareBundle, State.curB] using (mem_issued.mp h).1)
      simp [Bundle.thread, List.getD_eq_getElem?_getD, hl, hi, State.curB]
  · rw [if_neg (by simp [hc]), ← thread_bare]
    unfold State.thread
    rw [arrival_bundle_ne hc, bundle_bare]

/-- One barrier counts, and no other has changed. -/
theorem barNow_arrival (hr : barHeld s (.team s.curTeam n)) :
    BarNow s (arrival s n ws f) (.team s.curTeam n) (opened s.cur.pc (s.bar (.team s.curTeam n))) := by
  have hs := sameBarriers_bare s
  have h := barNow_modBar (s := s.bare) (r := .team s.curTeam n) hr (opened s.cur.pc)
  rw [hs.bar] at h
  exact sameBarriers_barNow (barNow_sameBarriers h ((sameBarriers_writeS _ ws).trans (sameBarriers_mapLanes _ _))) hs

/-- What arrivals leave unchanged. -/
theorem sameBut_arrival (hr : barHeld s (.team s.curTeam n)) :
    SameBut s.cur.bundle (withBars s.bare (arrival s n ws f)) (arrival s n ws f) := by
  have e : withBars s.bare (arrival s n ws f) = s.bare.modBar (.team s.curTeam n) (opened s.cur.pc) := withBars_modBar hr rfl rfl
  rw [e]
  exact ⟨rfl, fun c hc => (bundle_modBundle_ne _ _ _ _ hc).trans (bundle_modBundle_ne _ _ _ _ hc)⟩

end

section
variable {s : State} {l : BitVec 2} {n : BitVec 4}

theorem progBar_of_arrival (h : Arrival s l n) : ProgBar s l n (.team s.curTeam n.toNat) := by
  refine ⟨?_, fun _ => h.number, h.team⟩
  rw [State.progBar, h.level]
  rfl

/-- The bundle of an arrival exists. -/
theorem bundle_of_arrival (h : Arrival s l n) : s.cur.bundle < s.bundles.length := by
  obtain ⟨hteam, -, -⟩ := h.bundle
  by_contra hb
  rw [curB_absent s hb] at hteam
  cases hteam

/-- No issued lane has arrived already (R224). -/
theorem hasArrived_of_arrival (h : Arrival s l n) : s.issued.any (s.hasArrived (.team s.curTeam n.toNat) s.cur.bundle) = false := by
  refine List.any_eq_false.mpr fun j hj => ?_
  have hf := h.fresh j hj
  simp only [State.hasArrived, h.mode, BarRef.bit, Bool.true_and, Bool.not_eq_true]
  exact hf

/-- A release fence of the lanes that arrive is over at once (R229). -/
theorem bare_fence_of_arrival (h : Arrival s l n) : (s.fenceNow s.cur.bundle s.issued false).bare = s.bare := by
  obtain ⟨hout, hshown, hclean⟩ := h.quiet
  obtain ⟨hteam, -, -⟩ := h.bundle
  exact bare_fenceNow (fun j _ => hout _ j hteam) hshown hclean false

/-- Lanes that arrive at a team barrier in ALL mode (R224). -/
theorem bare_arriveLanes (h : Arrival s l n) : (s.arriveLanes (.team s.curTeam n.toNat) s.cur.bundle s.issued).bare =
    arrival s n.toNat [] (fun t => arrivedAt t n.toNat) := by
  obtain ⟨-, -, hissued⟩ := h.bundle
  have hb := bare_fence_of_arrival h
  have hs : SameBarriers s (s.fenceNow s.cur.bundle s.issued false) := .of_bare (hb ▸ .refl _)
  have hheld : barHeld (s.fenceNow s.cur.bundle s.issued false) (.team s.curTeam n.toNat) := by
    simpa only [barHeld, State.team, hs.teams] using h.team
  rw [arriveLanes_team hheld ((congrArg Barrier.all (hs.bar _)).trans h.mode) hissued (nodup_issued s)]
  generalize s.fenceNow s.cur.bundle s.issued false = v at hb
  have hcur : v.cur = s.cur := by simpa using congrArg State.cur hb
  have hlanes (l : Nat) (th : Thread) : bareThread (if l ∈ s.issued then arrivedAt th n.toNat else th) =
      if l ∈ s.issued then arrivedAt (bareThread th) n.toNat else bareThread th := by
    split <;> rfl
  rw [← hcur]
  refine (bare_mapLanes hlanes (v.modBar (.team s.curTeam n.toNat) (opened v.cur.pc))).trans ?_
  rw [arrival, writeS_nil, ← hb, hcur]
  rfl

end

end Sys2Proof.Laws
end

section
/-! `barrive` and `bsync` at a team barrier in ALL mode (R220, R221, R224): the generation that stays open, and the one that is released. -/
namespace Sys2Proof.Laws
open Sys2Proof.Machine Sys2Proof.Claims

/-! ### Counting (R220) -/

/-- A thread of a team: a lane of a bundle of the team. -/
theorem mem_teamThreads {s : State} {t : Nat} {x : Thread} :
    x ∈ s.teamThreads t ↔ ∃ b l, (s.bundle b).team = some t ∧ l < (s.bundle b).threads.length ∧ s.thread b l = x := by
  have hget {b : Nat} (hb : b < s.bundles.length) : s.bundle b = s.bundles[b] := by simp [State.bundle, List.getD_eq_getElem?_getD, hb]
  have hthread {b l : Nat} (hl : l < (s.bundle b).threads.length) : s.thread b l = (s.bundle b).threads[l] := by
    simp [State.thread, Bundle.thread, List.getD_eq_getElem?_getD, hl]
  simp only [State.teamThreads, List.mem_flatMap, List.mem_filter, beq_iff_eq]
  constructor
  · rintro ⟨y, ⟨hy, ht⟩, hx⟩
    obtain ⟨b, hb, rfl⟩ := List.getElem_of_mem hy
    rw [← hget hb] at ht hx
    obtain ⟨l, hl, rfl⟩ := List.getElem_of_mem hx
    exact ⟨b, l, ht, hl, hthread hl⟩
  · rintro ⟨b, l, ht, hl, rfl⟩
    have hb : b < s.bundles.length := by
      by_contra hb
      simp [State.bundle, List.getD_eq_getElem?_getD, hb, Bundle.absent] at ht
    exact ⟨s.bundle b, ⟨hget hb ▸ List.getElem_mem hb, ht⟩, hthread hl ▸ List.getElem_mem hl⟩

/-- An open generation of a team barrier in ALL mode completes where every thread of the team is counted (R221). -/
theorem barComplete_team {s : State} {t n : Nat} (hc : (s.bar (.team t n)).counting = true) (ha : (s.bar (.team t n)).all = true) :
    s.barComplete (.team t n) = true ↔ ∀ x ∈ s.teamThreads t, x.counted n = true := by
  have hcount : s.barCounted (.team t n) = (((s.teamThreads t).filter (·.counted n)).length, (s.teamThreads t).length) := by
    simp [State.barCounted, State.barThreads, State.barTeams, BarRef.isPack, BarRef.bit]
  simp [State.barComplete, hc, ha, hcount, List.length_filter_eq_length_iff]

section
variable {s u : State} {l : BitVec 2} {n : BitVec 4} {ws : List (Nat × Reg)} {f : Thread → Thread}

/-- Once the issued lanes have arrived, the barrier is open, and no other has changed. -/
theorem barNow_arrived (h : Arrival s l n) (hu : u.bare = arrival s n.toNat ws f) :
    BarNow s u (.team s.curTeam n.toNat) (opened s.cur.pc (s.bar (.team s.curTeam n.toNat))) :=
  barNow_sameBarriers (barNow_arrival (barHeld_of_progBar (progBar_of_arrival h))) (hu ▸ (sameBarriers_bare u).symm)

/-- The teams and the widths of bundles do not change as lanes arrive. -/
theorem bundle_arrived (hu : u.bare = arrival s n.toNat ws f) (b : Nat) :
    (u.bundle b).team = (s.bundle b).team ∧ (u.bundle b).threads.length = (s.bundle b).threads.length := by
  have hs : SameBarriers (s.bare.modBar (.team s.curTeam n.toNat) (opened s.cur.pc)) u.bare :=
    hu ▸ (sameBarriers_writeS _ ws).trans (sameBarriers_mapLanes _ _)
  obtain ⟨hteam, -, hwidth⟩ := (sameBarriers_bare u).part b
  obtain ⟨hteam', -, hwidth'⟩ := hs.part b
  obtain ⟨hteam'', -, hwidth''⟩ := (sameBarriers_bare s).part b
  exact ⟨hteam.symm.trans (hteam'.trans hteam''), hwidth.symm.trans (hwidth'.trans hwidth'')⟩

/-- Each thread once the issued lanes have arrived. -/
theorem thread_arrived (h : Arrival s l n) (hu : u.bare = arrival s n.toNat ws f) (b k : Nat) : bareThread (u.thread b k) =
    if b = s.cur.bundle ∧ k ∈ s.issued then f (bareThread (s.thread b k)) else bareThread (s.thread b k) := by
  rw [← thread_bare, hu, thread_arrival (bundle_of_arrival h)]

/-- The lanes that arrive complete the generation where every thread of the team is then counted (R221). -/
theorem barComplete_arrived (h : Arrival s l n) (hu : u.bare = arrival s n.toNat ws f)
    (hf : ∀ t, (f t).arrived.getLsbD n.toNat = true) : u.barComplete (.team s.curTeam n.toNat) = true ↔ allCounted s n.toNat := by
  have hbar := (barNow_arrived h hu).bar
  have hcounted (b k : Nat) : (u.thread b k).counted n.toNat = true ↔ countedAfter s n.toNat b k := by
    have e := thread_arrived h hu b k
    have hview (t : Thread) : (bareThread t).counted n.toNat = t.counted n.toNat := rfl
    rw [← hview, e, countedAfter]
    split
    next hk => simp [Thread.counted, hf, hk]
    next hk =>
      rw [hview]
      simp [Thread.counted, hk, or_assoc]
  rw [barComplete_team (by rw [hbar]; rfl) (by rw [hbar]; exact h.mode), allCounted]
  simp only [mem_teamThreads]
  constructor
  · intro hall b ht k hk
    obtain ⟨hteam, hwidth⟩ := bundle_arrived hu b
    exact (hcounted b k).mp (hall _ ⟨b, k, hteam.trans ht, hwidth ▸ hk, rfl⟩)
  · rintro hall _ ⟨b, k, ht, hk, rfl⟩
    obtain ⟨hteam, hwidth⟩ := bundle_arrived hu b
    exact (hcounted b k).mpr (hall b (hteam ▸ ht) k (hwidth ▸ hk))

/-- A generation that does not complete stays open (R221). -/
theorem settleBar_arrived_open (h : Arrival s l n) (hu : u.bare = arrival s n.toNat ws f)
    (hf : ∀ t, (f t).arrived.getLsbD n.toNat = true) (hc : ¬ allCounted s n.toNat) (pc : DWord) :
    u.settleBar (.team s.curTeam n.toNat) pc = u :=
  if_neg fun hn => hc ((barComplete_arrived h hu hf).mp hn)

/-- A generation that completes is released (R221). -/
theorem settleBar_arrived_released (h : Arrival s l n) (hu : u.bare = arrival s n.toNat ws f)
    (hf : ∀ t, (f t).arrived.getLsbD n.toNat = true) (hc : allCounted s n.toNat) (pc : DWord) :
    u.settleBar (.team s.curTeam n.toNat) pc = u.releaseBar (.team s.curTeam n.toNat) pc :=
  if_pos ((barComplete_arrived h hu hf).mpr hc)

/-! ### The words as arrivals -/

/-- A thread that has arrived and goes on (R224). -/
def arrivedPast (pc : DWord) (n : Nat) (t : Thread) : Thread := (arrivedAt t n).advance pc

/-- A thread that has arrived and waits for the generation (R224). -/
def arrivedWaiting (g : Word) (n : Nat) (t : Thread) : Thread :=
  { arrivedAt t n with pwait := some ⟨false, n, g⟩, st := .waiting (.barrier false n g) }

@[simp] theorem arrivedAt_st (t : Thread) (n : Nat) : (arrivedAt t n).st = t.st := rfl

@[simp] theorem arrivedPast_st (pc : DWord) (n : Nat) (t : Thread) : (arrivedPast pc n t).st = t.st := rfl

@[simp] theorem arrivedPast_pc (pc : DWord) (n : Nat) (t : Thread) : (arrivedPast pc n t).pc = pc + 4 := rfl

@[simp] theorem arrivedWaiting_pc (g : Word) (n : Nat) (t : Thread) : (arrivedWaiting g n t).pc = t.pc := rfl

/-- A thread that has arrived is ARRIVED (R219). -/
theorem arrived_arrivedAt {n : Nat} (hn : n < 24) (t : Thread) : (arrivedAt t n).arrived.getLsbD n = true := by
  simp [arrivedAt, hn]

/-- What a word does next with its lanes, once they have arrived. -/
theorem mapLanes_arrival {n : Nat} {f g : Thread → Thread} {G : Nat → Thread → Thread} (hb : s.cur.bundle < s.bundles.length)
    (h : ∀ k < s.curB.threads.length, G k (if k ∈ s.issued then f (bareThread (s.curB.thread k)) else bareThread (s.curB.thread k)) =
      if k ∈ s.issued then g (bareThread (s.curB.thread k)) else bareThread (s.curB.thread k)) :
    (arrival s n ws f).mapLanes G = arrival s n ws g := by
  have hv := congrArg Bundle.threads (curB_opened hb n ws)
  rw [bundleWriteS_threads] at hv
  unfold arrival
  rw [mapLanes_mapLanes]
  refine mapLanes_congr fun k hk => ?_
  have e : ((s.bare.modBar (.team s.curTeam n) (opened s.cur.pc)).writeS ws).curB.thread k = bareThread (s.curB.thread k) := by
    refine (congrArg (fun ts => List.getD ts k Thread.absent) hv).trans ?_
    have e := thread_bare s s.cur.bundle k
    rwa [State.thread, bundle_bare] at e
  rw [hv] at hk
  rw [e]
  exact h k (by simpa [bareBundle] using hk)

/-- The lanes of a bundle, each changed by its number. -/
def mapThreads (F : Nat → Thread → Thread) (x : Bundle) : Bundle := { x with threads := x.threads.mapIdx F }

/-- A write of uniform registers does not look at lanes. -/
theorem writeS_mapThreads (F : Nat → Thread → Thread) (x : Bundle) (ws : List (Nat × Reg)) :
    (mapThreads F x).writeS ws = mapThreads F (x.writeS ws) := by
  refine List.foldl_hom (mapThreads F) fun y w => ?_
  cases hl : y.late.isEmpty <;> simp [Bundle.clashS, mapThreads, hl]

/-- The register that a word writes, once its lanes have arrived. -/
theorem writeS_arrival (s : State) (n : Nat) (f : Thread → Thread) (ws : List (Nat × Reg)) :
    (arrival s n [] f).writeS ws = arrival s n ws f := by
  unfold arrival
  rw [writeS_nil]
  refine (modBundle_modBundle _ _ _ _).trans (Eq.trans ?_ (modBundle_modBundle _ _ _ _).symm)
  exact congrArg _ (funext fun x => writeS_mapThreads _ x ws)

/-- A uniform word without sources passes its checks. -/
theorem uniTrap_nil (s : State) : s.uniTrap [] = none := by
  simp [State.uniTrap, tagTrap, touchTrap, formatTrap, expandUses]

/-- BARRIVE (R224): the issued lanes arrive, the register takes the generation, the lanes go on, and then the barrier settles. -/
theorem exec_barrive {d : BitVec 6} (hi : s.issues (.barrive d l n)) (h : Arrival s l n) : ∃ u : State, exec (.barrive d l n) s =
      .next (u.settleBar (.team s.curTeam n.toNat) s.cur.pc) ∧
    u.bare = arrival s n.toNat (put d (s.bar (.team s.curTeam n.toNat)).gen .int) (arrivedPast s.cur.pc n.toNat) := by
  refine ⟨_, (exec_barWord rfl hi (progBar_of_arrival h) (uniTrap_nil s)).trans (congrArg _ (if_neg ?_)), ?_⟩
  · rw [hasArrived_of_arrival h]
    decide
  · rw [bare_advanceAll, bare_writeS, bare_arriveLanes h, writeS_arrival]
    refine mapLanes_arrival (bundle_of_arrival h) fun k hk => ?_
    change (if s.cur.lanes.getLsbD k && _ then _ else _) = _
    by_cases hi : k ∈ s.issued
    · have hready : (arrivedAt (bareThread (s.curB.thread k)) n.toNat).isReady = true := by
        rw [Thread.isReady, arrivedAt_st, bareThread_st, h.ready k hi]
        rfl
      rw [if_pos hi, if_pos hi, hready, (mem_issued.mp hi).2]
      rfl
    · have hl : s.cur.lanes.getLsbD k = false := by
        rw [mem_issued, not_and] at hi
        simpa using hi hk
      rw [if_neg hi, if_neg hi, hl]
      rfl

/-- The word at issue stays as its lanes arrive. -/
theorem cur_arrived (hu : u.bare = arrival s n.toNat ws f) : u.cur = s.cur :=
  (congrArg State.cur hu).trans arrival_cur

/-- The issued lanes stay as they arrive. -/
theorem issued_arrived (hu : u.bare = arrival s n.toNat ws f) : u.issued = s.issued := by
  obtain ⟨-, hwidth⟩ := bundle_arrived hu s.cur.bundle
  simp only [State.issued, State.curB, cur_arrived hu, hwidth]

/-- A thread that has arrived, with its pending-wait record (R219, R224). -/
def arrivedRecord (g : Word) (n : Nat) (t : Thread) : Thread := { arrivedAt t n with pwait := some ⟨false, n, g⟩ }

/-- Lanes that have arrived take their pending-wait records (R224). -/
theorem bare_foldl_record (h : Arrival s l n) (hu : u.bare = arrival s n.toNat [] (fun t => arrivedAt t n.toNat)) (g : Word) :
    (s.issued.foldl (fun v i => v.modThread s.cur.bundle i (fun t => { t with pwait := some ⟨false, n.toNat, g⟩ })) u).bare =
      arrival s n.toNat [] (arrivedRecord g n.toNat) := by
  rw [foldl_modThread_mapIdx u _ (fun _ t => { t with pwait := some ⟨false, n.toNat, g⟩ }) (nodup_issued s), ← cur_arrived hu]
  refine (bare_mapLanes (f := fun i t => if i ∈ s.issued then { t with pwait := some ⟨false, n.toNat, g⟩ } else t) (fun i t => ?_) u).trans ?_
  · split <;> rfl
  · rw [hu]
    refine mapLanes_arrival (bundle_of_arrival h) fun k hk => ?_
    split <;> rfl

/-- Lanes that have taken their pending-wait records wait (R224). -/
theorem bare_waitLanes_record (h : Arrival s l n) {g : Word} (hg : g = (s.bar (.team s.curTeam n.toNat)).gen)
    (hu : u.bare = arrival s n.toNat [] (arrivedRecord g n.toNat)) :
    (u.waitLanes (.team s.curTeam n.toNat) s.cur.bundle (u.issued.map (fun i =>
      (i, ((u.thread s.cur.bundle i).pwait.map (·.gen)).getD g)))).bare = arrival s n.toNat [] (arrivedWaiting g n.toNat) := by
  have hbar := (barNow_arrived h hu).bar
  obtain ⟨-, hdrift, -⟩ := h.plain
  have hls : u.issued.map (fun i => (i, ((u.thread s.cur.bundle i).pwait.map (·.gen)).getD g)) = u.issued.map (fun i => (i, g)) := by
    refine List.map_congr_left fun i hi => ?_
    have e := congrArg Thread.pwait (thread_arrived h hu s.cur.bundle i)
    rw [if_pos ⟨rfl, issued_arrived hu ▸ hi⟩] at e
    have e : (u.thread s.cur.bundle i).pwait = some ⟨false, n.toNat, g⟩ := e
    rw [e]
    rfl
  have hp : genPending g (u.bar (.team s.curTeam n.toNat)).gen = true := by
    rw [hbar, hg]
    exact genPending_iff.mpr (by simp [opened])
  rw [hls, waitLanes_noDrift (by rw [hbar]; exact hdrift), List.foldl_map, ← cur_arrived hu, foldl_waitLane_pending hp]
  refine (bare_mapLanes (fun i t => ?_) u).trans ?_
  · split <;> rfl
  · rw [hu, cur_arrived hu]
    refine mapLanes_arrival (bundle_of_arrival h) fun k hk => ?_
    by_cases hi : k ∈ s.issued
    · rw [if_pos hi, if_pos hi, if_pos (mem_issued.mp hi).2]
      rfl
    · rw [if_neg hi, if_neg hi, if_neg fun hl => hi (mem_issued.mpr ⟨hk, hl⟩)]

/-- BSYNC (R224): the issued lanes arrive and wait for the generation, and then the barrier settles. -/
theorem exec_bsync (hi : s.issues (.bsync l n)) (h : Arrival s l n) : ∃ u : State, exec (.bsync l n) s =
      .next (u.settleBar (.team s.curTeam n.toNat) s.cur.pc) ∧
    u.bare = arrival s n.toNat [] (arrivedWaiting (s.bar (.team s.curTeam n.toNat)).gen n.toNat) := by
  have hothers : s.issued.filter (fun i => !(s.thread s.cur.bundle i).pendingAt (.team s.curTeam n.toNat)) = s.issued := by
    refine List.filter_eq_self.mpr fun k hk => ?_
    have hp : (s.thread s.cur.bundle k).pwait = none := h.records k hk
    simp [Thread.pendingAt, hp]
  have hrecord := bare_foldl_record h (bare_arriveLanes h) (s.bar (.team s.curTeam n.toNat)).gen
  have hcur := cur_arrived hrecord
  refine ⟨_, (exec_barWord rfl hi (progBar_of_arrival h) (uniTrap_nil s)).trans (congrArg _ ?_), bare_waitLanes_record h rfl hrecord⟩
  dsimp only
  rw [hothers, hasArrived_of_arrival h, if_neg (by decide)]
  exact congrArg (State.settleBar _ _) (congrArg Issue.pc hcur)

end

end Sys2Proof.Laws
end

section
/-! The release of a generation of a team barrier (R224), where no payload was given and no monitor is armed. -/
namespace Sys2Proof.Laws
open Sys2Proof.Machine Sys2Proof.Claims

/-! ### Threads that a release lets go -/

/-- A thread of which a program barrier has released the generation before `new` (R224). -/
def releasedThread (r : BarRef) (new : Word) (t : Thread) : Thread :=
  if t.waitsReleased r new none then Thread.passBarrier { t with arrived := t.arrived &&& ~~~(1#24 <<< r.bit) } r
  else { t with arrived := t.arrived &&& ~~~(1#24 <<< r.bit) }

/-- The threads of a bundle of which a program barrier has released a generation. -/
def releasedBundle (r : BarRef) (new : Word) (x : Bundle) : Bundle := { x with threads := x.threads.map (releasedThread r new) }

/-- A thread that a program barrier lets go waits at no level. -/
theorem atLvbar_of_waitsReleased {t : Thread} {r : BarRef} {new : Word} (h : t.waitsReleased r new none = true) : t.atLvbar = false := by
  unfold Thread.waitsReleased at h
  unfold Thread.atLvbar
  split at h
  next hst => rw [hst]
  · simp at h
  · cases h

/-- A release does not look at the order of accesses. -/
theorem bareThread_releasedThread (r : BarRef) (new : Word) (t : Thread) :
    bareThread (releasedThread r new t) = releasedThread r new (bareThread t) := by
  unfold releasedThread
  change _ = if t.waitsReleased r new none then _ else _
  split
  · exact bareThread_passBarrier r _
  · rfl

/-- The release of the waiters of a program barrier in one bundle (R224). -/
theorem bare_wakeBundle {s : State} {r : BarRef} (hlevel : r.levelOf = none) (hd : (s.bar r).drift = []) (old new : Word) (b : Nat) :
    (s.wakeBundle r old new [] b).bare = s.bare.modBundle b (releasedBundle r new) := by
  unfold State.wakeBundle
  rw [hlevel]
  dsimp only
  generalize hw : (indices (s.bundle b).threads).filter (fun l => (s.thread b l).waitsReleased r new none) = woken
  have hfenced : woken.filter (fun l => (s.thread b l).atLvbar) = [] := by
    refine List.filter_eq_nil_iff.mpr fun l hl => ?_
    subst hw
    rw [atLvbar_of_waitsReleased (List.mem_filter.mp hl).2]
    decide
  have hdrift : woken.filterMap (fun l => ((s.bar r).tripped ((s.thread b l).waitGen old)).map (fun m => (l, m))) = [] :=
    List.filterMap_eq_nil_iff.mpr fun l _ => by simp [Barrier.tripped, hd, lookupKey]
  rw [hfenced, hdrift]
  refine (bare_foldl (f := fun u l => u.acquireThread b l 0xFFFF) (fun u hu l _ => (bare_acquireThread u b l _).trans hu) rfl).trans ?_
  rw [modBundle_congr s b _ (releasedBundle r new) ?_, bare_modBundle_comm fun x => ?_]
  · simp [bareBundle, releasedBundle, bareThread_releasedThread, Function.comp_def]
  · have hthreads : (s.bundle b).threads.mapIdx (fun l x =>
        if woken.contains l then Thread.passBarrier { x with arrived := x.arrived &&& ~~~(1#24 <<< r.bit) } r
        else { x with arrived := x.arrived &&& ~~~(1#24 <<< r.bit) }) = (s.bundle b).threads.map (releasedThread r new) := by
      refine List.ext_getElem (by simp) fun l hl _ => ?_
      have hl : l < (s.bundle b).threads.length := by simpa using hl
      have ht : s.thread b l = (s.bundle b).threads[l] := by simp [State.thread, Bundle.thread, List.getD_eq_getElem?_getD, hl]
      have hmem : woken.contains l = ((s.bundle b).threads[l]).waitsReleased r new none := by
        rw [← hw, ← ht]
        simp [indices, hl]
      rw [List.getElem_mapIdx, List.getElem_map, hmem, releasedThread]
    exact congrArg (fun ts => { s.bundle b with threads := ts }) hthreads

/-! ### The release of a team barrier -/

/-- A barrier of which a generation has been released (R224). -/
def closed (x : Barrier) : Barrier :=
  { x with gen := x.gen + 1, counting := false, arrcnt := 0, payop := none, payload := 0, mixed := false, teams := [] }

/-- A check of monitors none of which is armed changes nothing (R300, R301). -/
theorem checkAll_unarmed {s : State} {ts : List Nat} {level : Nat} (h : ∀ t ∈ ts, ∀ i, ((s.team t).mon i).st ≠ .armed) (is : List Nat) :
    s.checkAll ts level is = (s, none) := by
  have hmon (i : Nat) : s.checkMonitor ts level i = (s, none) := by
    have hf : ts.filter (fun t => ((s.team t).mon i).st == .armed && ((s.team t).mon i).level == level) = [] :=
      List.filter_eq_nil_iff.mpr fun t ht => by simp [h t ht i]
    unfold State.checkMonitor
    rw [hf]
  induction is with
  | nil => rfl
  | cons i is ih =>
    rw [State.checkAll, hmon]
    dsimp only
    rw [ih]

/-- A monitor of a team none of whose monitors is armed. -/
theorem mon_unarmed {x : Team} (h : ∀ m ∈ x.mons, m.st ≠ .armed) (i : Nat) : (x.mon i).st ≠ .armed := by
  unfold Team.mon
  rw [List.getD_eq_getElem?_getD]
  by_cases hi : i < x.mons.length
  · simpa [hi] using h _ (List.getElem_mem hi)
  · simp [hi, Monitor.fresh]

/-- A release of a team barrier without payload, whose team has no armed monitor (R224). -/
theorem releaseBar_team {s : State} {t n : Nat} (hn : n < 12) (hp : (s.bar (.team t n)).payop = none)
    (hm : ∀ m ∈ (s.team t).mons, m.st ≠ .armed) (pc : DWord) : s.releaseBar (.team t n) pc =
      (s.barBundles (.team t n)).foldl (fun u b =>
        u.wakeBundle (.team t n) (s.bar (.team t n)).gen ((s.bar (.team t n)).gen + 1) [] b) (s.modBar (.team t n) closed) := by
  have hcheck : s.checkpoint (.team t n) pc = (s, true) := by
    unfold State.checkpoint
    have hteams : ∀ c ∈ s.checkTeams (.team t n), ∀ i, ((s.team c).mon i).st ≠ .armed := by
      intro c hc
      have hc : c = t := by simpa [State.checkTeams, State.barTeams] using (List.mem_filter.mp hc).1
      exact hc ▸ mon_unarmed hm
    split
    · rfl
    · rw [checkAll_unarmed hteams]
  have hpay : s.deliverPayload (.team t n) = s := by
    unfold State.deliverPayload
    exact if_pos (by simp [hp])
  have hlevel : (BarRef.team t n).levelOf = none := if_neg (by omega)
  unfold State.releaseBar
  rw [hcheck]
  dsimp only
  rw [hlevel, hpay]
  rfl

/-- The bundles whose threads a team barrier counts are the team's (R220). -/
theorem mem_barBundles_team {s : State} {t n b : Nat} : b ∈ s.barBundles (.team t n) ↔ (s.bundle b).team = some t := by
  have hb : (s.bundle b).team = some t → b < s.bundles.length := by
    intro h
    by_contra hb
    simp [State.bundle, List.getD_eq_getElem?_getD, hb, Bundle.absent] at h
  simp only [State.barBundles, indices, List.mem_filter, List.mem_range, State.barTeams]
  constructor
  · rintro ⟨-, h⟩
    split at h
    next c hc => simpa [hc] using h
    · cases h
  · intro h
    exact ⟨hb h, by simp [h]⟩

/-- Bundles that change in turn, as one change. -/
theorem foldl_modBundle (F : Bundle → Bundle) {bs : List Nat} (hn : bs.Nodup) (s : State) : bs.foldl (fun u b => u.modBundle b F) s =
    { s with bundles := s.bundles.mapIdx (fun b x => if b ∈ bs then F x else x) } := by
  induction bs generalizing s with
  | nil => simp [mapIdx_id]
  | cons b bs ih =>
    obtain ⟨hb, hn⟩ := List.nodup_cons.mp hn
    rw [List.foldl_cons, ih hn]
    have hbundles : (s.bundles.modify b F).mapIdx (fun k x => if k ∈ bs then F x else x) =
        s.bundles.mapIdx (fun k x => if k ∈ b :: bs then F x else x) := by
      refine List.ext_getElem (by simp) fun k _ _ => ?_
      simp only [List.getElem_mapIdx, List.getElem_modify, List.mem_cons]
      by_cases h : b = k
      · subst h
        simp [hb]
      · simp [h, Ne.symm h]
    exact congrArg (fun xs => { s with bundles := xs }) hbundles

/-- Steps that act on what is kept beside the order of accesses, where `P` lasts. -/
theorem bare_foldl_map {α : Type} {act g : State → α → State} {P : State → Prop}
    (h : ∀ u : State, P u → ∀ x, (act u x).bare = g u.bare x ∧ P (act u x)) (xs : List α) {s : State} (hs : P s) :
    (xs.foldl act s).bare = xs.foldl g s.bare := by
  induction xs generalizing s with
  | nil => rfl
  | cons x xs ih =>
    obtain ⟨hx, hp⟩ := h s hs x
    rw [List.foldl_cons, List.foldl_cons, ih hp, hx]

/-- The state, without the order of accesses, of which team barrier `n` of team `t` has released its generation (R224). -/
def release (s : State) (t n : Nat) : State := { s.modBar (.team t n) closed with
  bundles := s.bundles.map (fun x => if x.team = some t then releasedBundle (.team t n) ((s.bar (.team t n)).gen + 1) x else x) }

@[simp] theorem release_cur (s : State) (t n : Nat) : (release s t n).cur = s.cur := rfl

@[simp] theorem release_mem (s : State) (t n : Nat) : (release s t n).mem = s.mem := rfl

/-- A release of a team barrier without payload and without monitors (R224). -/
theorem bare_releaseBar {s : State} {t n : Nat} (hn : n < 12) (hr : barHeld s (.team t n)) (hp : (s.bar (.team t n)).payop = none)
    (hd : (s.bar (.team t n)).drift = []) (hm : ∀ m ∈ (s.team t).mons, m.st ≠ .armed) (pc : DWord) :
    (s.releaseBar (.team t n) pc).bare = release s.bare t n := by
  have hlevel : (BarRef.team t n).levelOf = none := if_neg (by omega)
  have hnodup : (s.barBundles (.team t n)).Nodup := List.nodup_range.filter _
  have hstep (u : State) (hu : (u.bar (.team t n)).drift = []) (b : Nat) :
      (u.wakeBundle (.team t n) (s.bar (.team t n)).gen ((s.bar (.team t n)).gen + 1) [] b).bare =
          u.bare.modBundle b (releasedBundle (.team t n) ((s.bar (.team t n)).gen + 1)) ∧
        ((u.wakeBundle (.team t n) (s.bar (.team t n)).gen ((s.bar (.team t n)).gen + 1) [] b).bar (.team t n)).drift = [] := by
    have hb := bare_wakeBundle hlevel hu (s.bar (.team t n)).gen ((s.bar (.team t n)).gen + 1) b
    have hs : SameBarriers u (u.wakeBundle (.team t n) (s.bar (.team t n)).gen ((s.bar (.team t n)).gen + 1) [] b) :=
      .of_bare (hb ▸ sameBarriers_modBundle (f := releasedBundle (.team t n) ((s.bar (.team t n)).gen + 1))
        (fun x => ⟨rfl, rfl, by simp [releasedBundle]⟩) u.bare b)
    exact ⟨hb, by rw [hs.bar, hu]⟩
  have hopen : ((s.modBar (.team t n) closed).bar (.team t n)).drift = [] := by
    rw [(barNow_modBar hr closed).bar]
    exact hd
  rw [releaseBar_team hn hp hm, bare_foldl_map (P := fun u => (u.bar (.team t n)).drift = [])
    (g := fun u b => u.modBundle b (releasedBundle (.team t n) ((s.bar (.team t n)).gen + 1))) hstep _ hopen, foldl_modBundle _ hnodup]
  have hbundles : s.bare.bundles.mapIdx (fun b x => if b ∈ s.barBundles (.team t n) then
        releasedBundle (.team t n) ((s.bar (.team t n)).gen + 1) x else x) =
      s.bare.bundles.map (fun x => if x.team = some t then releasedBundle (.team t n) ((s.bar (.team t n)).gen + 1) x else x) := by
    refine List.ext_getElem (by simp) fun b hb _ => ?_
    have hb : b < s.bare.bundles.length := by simpa using hb
    have hteam : s.bare.bundles[b].team = (s.bundle b).team := by
      have e : s.bare.bundle b = s.bare.bundles[b] := by simp [State.bundle, List.getD_eq_getElem?_getD, hb]
      rw [← e, bundle_bare]
      rfl
    rw [List.getElem_mapIdx, List.getElem_map, hteam]
    simp only [mem_barBundles_team]
  exact congrArg (fun xs => { s.bare.modBar (.team t n) closed with bundles := xs }) hbundles

end Sys2Proof.Laws
end

section
/-! Arrivals that complete a generation of a team barrier, and those that do not (R221, R224). -/
namespace Sys2Proof.Laws
open Sys2Proof.Machine Sys2Proof.Claims

/-! ### Threads at a release -/

/-- A thread that goes on stays ARRIVED. -/
theorem arrived_passBarrier (t : Thread) (r : BarRef) : (t.passBarrier r).arrived = t.arrived := by
  have hwake (x : Thread) : x.wake.arrived = x.arrived := by
    unfold Thread.wake
    split
    · split <;> rfl
    · rfl
  exact hwake _

/-- A release clears the ARRIVED bit of its barrier (R221). -/
theorem arrived_releasedThread (r : BarRef) (new : Word) (t : Thread) : (releasedThread r new t).arrived.getLsbD r.bit = false := by
  have hbit : (t.arrived &&& ~~~(1#24 <<< r.bit)).getLsbD r.bit = false := by
    by_cases h : r.bit < 24
    · simp [h]
    · exact BitVec.getLsbD_of_ge _ _ (by omega)
  unfold releasedThread
  split
  · rw [arrived_passBarrier]
    exact hbit
  · exact hbit

/-- The generation that a release ends is not pending after it. -/
theorem genPending_succ (g : Word) : genPending g (g + 1) = false := by
  refine Bool.eq_false_iff.mpr fun h => ?_
  have h := genPending_iff.mp h
  have e : g - (g + 1) = -1 := by ring
  rw [e] at h
  exact absurd h (by decide)

/-- A thread that waits for the generation goes on (R224), and parks where a handler has asked for it (R85). -/
theorem releasedThread_waiting {t : Thread} {r : BarRef} {g : Word} (h : t.st = .waiting (.barrier r.isPack r.num g)) :
    (releasedThread r (g + 1) t).pc = t.pc + 4 ∧
      (releasedThread r (g + 1) t).st = (if t.parkAsked then .parked .handler else .ready) ∧
      (releasedThread r (g + 1) t).pwait = if t.pendingAt r then none else t.pwait := by
  have hw : t.waitsReleased r (g + 1) none = true := by
    rw [Thread.waitsReleased, h]
    dsimp only
    rw [genPending_succ, beq_self_eq_true, beq_self_eq_true]
    rfl
  have hp : Thread.pendingAt { t with arrived := t.arrived &&& ~~~(1#24 <<< r.bit) } r = t.pendingAt r := rfl
  rw [releasedThread, if_pos hw, Thread.passBarrier, hp]
  simp only [Thread.wake, Thread.isWaiting, Thread.advance, h, if_true]
  cases t.parkAsked <;> exact ⟨rfl, rfl, rfl⟩

/-- A READY thread stays where it is. -/
theorem releasedThread_ready {t : Thread} (h : t.st = .ready) (r : BarRef) (new : Word) :
    (releasedThread r new t).pc = t.pc ∧ (releasedThread r new t).st = .ready := by
  have hw : t.waitsReleased r new none = false := by simp [Thread.waitsReleased, h]
  rw [releasedThread, hw, if_neg (by decide)]
  exact ⟨rfl, h⟩

/-! ### The state after a release -/

/-- A bundle after a release. -/
theorem bundle_release (x : State) (t n b : Nat) : (release x t n).bundle b =
    if (x.bundle b).team = some t then releasedBundle (.team t n) ((x.bar (.team t n)).gen + 1) (x.bundle b) else x.bundle b := by
  simp only [release, State.bundle, List.getD_eq_getElem?_getD, List.getElem?_map]
  cases x.bundles[b]? <;> rfl

/-- A thread of a team after a release of its barrier. -/
theorem thread_release {x : State} {t n b : Nat} (h : (x.bundle b).team = some t) (k : Nat) :
    (release x t n).thread b k = releasedThread (.team t n) ((x.bar (.team t n)).gen + 1) (x.thread b k) := by
  have habsent (r : BarRef) (new : Word) : releasedThread r new Thread.absent = Thread.absent := by
    have ha : Thread.absent.arrived &&& ~~~(1#24 <<< r.bit) = 0 := BitVec.zero_and
    have hw : Thread.absent.waitsReleased r new none = false := rfl
    rw [releasedThread, hw, ha]
    rfl
  unfold State.thread
  rw [bundle_release, if_pos h, releasedBundle]
  simp only [Bundle.thread, List.getD_eq_getElem?_getD, List.getElem?_map]
  cases (x.bundle b).threads[k]? with
  | none => exact (habsent _ _).symm
  | some th => rfl

/-- A release closes its barrier, and changes no other thing that barriers rest on. -/
theorem sameBarriers_release (x : State) (t n : Nat) : SameBarriers (x.modBar (.team t n) closed) (release x t n) := by
  refine ⟨rfl, rfl, rfl, ?_⟩
  simp only [release, List.map_map]
  refine List.map_congr_left fun y _ => ?_
  simp only [Function.comp_apply]
  split
  · simp [releasedBundle]
  · rfl

section
variable {s u : State} {l : BitVec 2} {n : BitVec 4} {ws : List (Nat × Reg)} {f : Thread → Thread}

/-- The teams once lanes have arrived. -/
theorem teams_arrived (hu : u.bare = arrival s n.toNat ws f) :
    u.teams = (s.modBar (.team s.curTeam n.toNat) (opened s.cur.pc)).teams :=
  (congrArg State.teams hu).trans arrival_teams

/-- The barrier at which lanes have arrived exists still. -/
theorem barHeld_arrived (h : Arrival s l n) (hu : u.bare = arrival s n.toNat ws f) : barHeld u (.team s.curTeam n.toNat) := by
  obtain ⟨hteam, hbar⟩ := h.team
  have hs : barHeld (s.modBar (.team s.curTeam n.toNat) (opened s.cur.pc)) (.team s.curTeam n.toNat) := by
    refine ⟨by simpa [State.modBar, State.modTeam] using hteam, ?_⟩
    rw [State.modBar, team_modTeam, if_pos hteam]
    simpa using hbar
  simpa only [barHeld, State.team, teams_arrived hu] using hs

/-- No monitor of the team is armed, as before. -/
theorem unarmed_arrived (h : Arrival s l n) (hu : u.bare = arrival s n.toNat ws f) : ∀ m ∈ (u.team s.curTeam).mons, m.st ≠ .armed := by
  obtain ⟨-, -, hm⟩ := h.plain
  obtain ⟨hmons, -⟩ := modBar_view (φ := Team.mons) (ψ := Pack.members) (fun _ _ => rfl) (fun _ _ => rfl) s
    (r := .team s.curTeam n.toNat) (opened s.cur.pc)
  have e : (u.team s.curTeam).mons = (s.team s.curTeam).mons := by
    simpa only [State.team, teams_arrived hu] using hmons s.curTeam
  rwa [e]

/-- The release of the generation that arrivals complete (R224). -/
theorem bare_releaseBar_arrived (h : Arrival s l n) (hu : u.bare = arrival s n.toNat ws f) (pc : DWord) :
    (u.releaseBar (.team s.curTeam n.toNat) pc).bare = release (arrival s n.toNat ws f) s.curTeam n.toNat := by
  have hbar := (barNow_arrived h hu).bar
  obtain ⟨hp, hd, -⟩ := h.plain
  rw [bare_releaseBar h.number (barHeld_arrived h hu) (by rw [hbar]; exact hp) (by rw [hbar]; exact hd) (unarmed_arrived h hu), hu]

/-- Each thread of the team after the release. -/
theorem thread_releaseBar_arrived (h : Arrival s l n) (hu : u.bare = arrival s n.toNat ws f) (pc : DWord) {b : Nat}
    (hb : (s.bundle b).team = some s.curTeam) (k : Nat) : bareThread ((u.releaseBar (.team s.curTeam n.toNat) pc).thread b k) =
      releasedThread (.team s.curTeam n.toNat) ((s.bar (.team s.curTeam n.toNat)).gen + 1)
        (if b = s.cur.bundle ∧ k ∈ s.issued then f (bareThread (s.thread b k)) else bareThread (s.thread b k)) := by
  have hbar := (barNow_arrival (ws := ws) (f := f) (barHeld_of_progBar (progBar_of_arrival h))).bar
  have hteam : ((arrival s n.toNat ws f).bundle b).team = some s.curTeam := by
    have e := bundle_bare u b
    rw [hu] at e
    rw [e]
    exact (bundle_arrived hu b).1.trans hb
  rw [← thread_bare, bare_releaseBar_arrived h hu, thread_release hteam, hbar, thread_arrival (bundle_of_arrival h)]
  rfl

/-- An issued lane after the release. -/
theorem issued_releaseBar_arrived (h : Arrival s l n) (hu : u.bare = arrival s n.toNat ws f) (pc : DWord) {k : Nat} (hk : k ∈ s.issued) :
    bareThread ((u.releaseBar (.team s.curTeam n.toNat) pc).curB.thread k) =
      releasedThread (.team s.curTeam n.toNat) ((s.bar (.team s.curTeam n.toNat)).gen + 1) (f (bareThread (s.curB.thread k))) := by
  obtain ⟨hteam, -, -⟩ := h.bundle
  have hcur : (u.releaseBar (.team s.curTeam n.toNat) pc).cur = s.cur :=
    (congrArg State.cur (bare_releaseBar_arrived h hu pc)).trans ((release_cur _ _ _).trans arrival_cur)
  have e := thread_releaseBar_arrived h hu pc hteam k
  rw [if_pos ⟨rfl, hk⟩, ← hcur] at e
  rw [State.curB, ← State.thread, e, hcur]
  rfl

/-- The generation that arrivals complete is released (R221, R224). -/
theorem released_releaseBar (h : Arrival s l n) (hu : u.bare = arrival s n.toNat ws f) (pc : DWord) :
    released s (u.releaseBar (.team s.curTeam n.toNat) pc) n.toNat := by
  have hbar : (u.releaseBar (.team s.curTeam n.toNat) pc).bar (.team s.curTeam n.toNat) =
      closed (opened s.cur.pc (s.bar (.team s.curTeam n.toNat))) := by
    have hr : barHeld (arrival s n.toNat ws f) (.team s.curTeam n.toNat) := by
      rw [← hu]
      exact barHeld_arrived (u := u) h hu
    rw [← (sameBarriers_bare _).bar, bare_releaseBar_arrived h hu, (sameBarriers_release _ _ _).bar, (barNow_modBar hr closed).bar,
      (barNow_arrival (barHeld_of_progBar (progBar_of_arrival h))).bar]
  refine ⟨by rw [hbar]; rfl, by rw [hbar]; rfl, fun b k hb => ?_, fun b k hb hst => ?_⟩
  · rw [← bareThread_arrived, thread_releaseBar_arrived h hu pc hb k]
    exact arrived_releasedThread (.team s.curTeam n.toNat) _ _
  · have hk : ¬ (b = s.cur.bundle ∧ k ∈ s.issued) := by
      rintro ⟨rfl, hk⟩
      have hready := h.ready k hk
      cases hready.symm.trans hst
    obtain ⟨hpc, hst', -⟩ := releasedThread_waiting (t := bareThread (s.thread b k)) (r := .team s.curTeam n.toNat) hst
    rw [← bareThread_pc, ← bareThread_st (State.thread _ b k), thread_releaseBar_arrived h hu pc hb k, if_neg hk]
    exact ⟨hpc, hst'⟩

/-- A release moves no byte of memory. -/
theorem mem_releaseBar_arrived (h : Arrival s l n) (hu : u.bare = arrival s n.toNat ws f) (pc : DWord) :
    (u.releaseBar (.team s.curTeam n.toNat) pc).mem = s.mem :=
  (congrArg State.mem (bare_releaseBar_arrived h hu pc)).trans ((release_mem _ _ _).trans arrival_mem)

/-- The order of accesses is no uniform register. -/
theorem regs_bare (x : State) : x.bare.curB.s = x.curB.s := by
  rw [State.curB, bundle_bare]
  rfl

/-- A release writes no uniform register of a bundle that waits for no payload. -/
theorem regs_releaseBar_arrived (h : Arrival s l n) (hu : u.bare = arrival s n.toNat ws f) (pc : DWord) :
    (u.releaseBar (.team s.curTeam n.toNat) pc).curB.s = ws.foldl (fun r w => r.set w.1 w.2) s.curB.s := by
  have hb := bare_releaseBar_arrived h hu pc
  have hregs (x : Bundle) (new : Word) : (if x.team = some s.curTeam then releasedBundle (.team s.curTeam n.toNat) new x else x).s = x.s := by
    split <;> rfl
  rw [← regs_bare, hb]
  exact ((congrArg Bundle.s (bundle_release _ _ _ _)).trans (hregs _ _)).trans (regs_arrival (bundle_of_arrival h))

/-! ### The words -/

/-- What arrivals leave unchanged that complete no generation. -/
theorem sameBut_arrived (h : Arrival s l n) (hu : u.bare = arrival s n.toNat ws f) : SameBut s.cur.bundle (withBars s u).bare u.bare := by
  have hw : (withBars s u).bare = withBars s.bare u.bare := rfl
  rw [hw, hu]
  exact sameBut_arrival (barHeld_of_progBar (progBar_of_arrival h))

/-- BARRIVE of lanes that are not the last (R221, R224). -/
theorem execBarrive_open {d : BitVec 6} (hi : s.issues (.barrive d l n)) (h : Arrival s l n) (hc : ¬ allCounted s n.toNat) :
    ∃ t, exec (.barrive d l n) s = .next t ∧ t.curB.s = s.curB.s.set d.toNat ⟨(s.bar (.team s.curTeam n.toNat)).gen, .int⟩ ∧
      t.bare.curB.threads = s.bare.curB.threads.mapIdx (fun k th =>
        if s.cur.lanes.getLsbD k then (arrivedAt th n.toNat).advance s.cur.pc else th) ∧
      BarNow s t (.team s.curTeam n.toNat) { s.bar (.team s.curTeam n.toNat) with counting := true, word := s.cur.pc } ∧
      SameBut s.cur.bundle (withBars s t).bare t.bare := by
  obtain ⟨u, hexec, hu⟩ := exec_barrive hi h
  have hb := bundle_of_arrival h
  have hn : n.toNat < 24 := n.isLt.trans (by decide)
  rw [settleBar_arrived_open h hu (fun t => arrived_arrivedAt hn t) hc] at hexec
  refine ⟨u, hexec, ?_, ?_, barNow_arrived h hu, sameBut_arrived h hu⟩
  · rw [← regs_bare, hu, regs_arrival hb]
    rfl
  · rw [hu]
    exact threads_arrival hb

/-- BARRIVE of the last lanes (R221, R224). -/
theorem execBarrive_released {d : BitVec 6} (hi : s.issues (.barrive d l n)) (h : Arrival s l n) (hc : allCounted s n.toNat) :
    ∃ t, exec (.barrive d l n) s = .next t ∧ released s t n.toNat ∧ t.mem = s.mem ∧
      t.curB.s = s.curB.s.set d.toNat ⟨(s.bar (.team s.curTeam n.toNat)).gen, .int⟩ ∧
      ∀ k ∈ s.issued, (t.curB.thread k).pc = s.cur.pc + 4 ∧ (t.curB.thread k).st = .ready := by
  obtain ⟨u, hexec, hu⟩ := exec_barrive hi h
  have hn : n.toNat < 24 := n.isLt.trans (by decide)
  rw [settleBar_arrived_released h hu (fun t => arrived_arrivedAt hn t) hc] at hexec
  refine ⟨_, hexec, released_releaseBar h hu _, mem_releaseBar_arrived h hu _, regs_releaseBar_arrived h hu _, fun k hk => ?_⟩
  have hst : (arrivedPast s.cur.pc n.toNat (bareThread (s.curB.thread k))).st = .ready := by
    rw [arrivedPast_st, bareThread_st, h.ready k hk]
  obtain ⟨hpc, hst⟩ := releasedThread_ready hst (.team s.curTeam n.toNat) ((s.bar (.team s.curTeam n.toNat)).gen + 1)
  rw [← bareThread_pc, ← bareThread_st, issued_releaseBar_arrived h hu s.cur.pc hk]
  exact ⟨hpc.trans (arrivedPast_pc _ _ _), hst⟩

/-- BSYNC of lanes that are not the last (R221, R224). -/
theorem execBsync_open (hi : s.issues (.bsync l n)) (h : Arrival s l n) (hc : ¬ allCounted s n.toNat) :
    ∃ t, exec (.bsync l n) s = .next t ∧
      t.bare.curB.threads = s.bare.curB.threads.mapIdx (fun k th => if s.cur.lanes.getLsbD k then { arrivedAt th n.toNat with
        pwait := some ⟨false, n.toNat, (s.bar (.team s.curTeam n.toNat)).gen⟩
        st := .waiting (.barrier false n.toNat (s.bar (.team s.curTeam n.toNat)).gen) } else th) ∧
      BarNow s t (.team s.curTeam n.toNat) { s.bar (.team s.curTeam n.toNat) with counting := true, word := s.cur.pc } ∧
      SameBut s.cur.bundle (withBars s t).bare t.bare := by
  obtain ⟨u, hexec, hu⟩ := exec_bsync hi h
  have hn : n.toNat < 24 := n.isLt.trans (by decide)
  rw [settleBar_arrived_open h hu (fun t => arrived_arrivedAt hn t) hc] at hexec
  refine ⟨u, hexec, ?_, barNow_arrived h hu, sameBut_arrived h hu⟩
  rw [hu]
  exact threads_arrival (bundle_of_arrival h)

/-- BSYNC of the last lanes (R221, R224). -/
theorem execBsync_released (hi : s.issues (.bsync l n)) (h : Arrival s l n) (hc : allCounted s n.toNat) :
    ∃ t, exec (.bsync l n) s = .next t ∧ released s t n.toNat ∧ t.mem = s.mem ∧
      ∀ k ∈ s.issued, (t.curB.thread k).pc = (s.curB.thread k).pc + 4 ∧ (t.curB.thread k).pwait = none := by
  obtain ⟨u, hexec, hu⟩ := exec_bsync hi h
  have hn : n.toNat < 24 := n.isLt.trans (by decide)
  rw [settleBar_arrived_released h hu (fun t => arrived_arrivedAt hn t) hc] at hexec
  refine ⟨_, hexec, released_releaseBar h hu _, mem_releaseBar_arrived h hu _, fun k hk => ?_⟩
  obtain ⟨hpc, -, hwait⟩ := releasedThread_waiting (r := .team s.curTeam n.toNat)
    (t := arrivedWaiting (s.bar (.team s.curTeam n.toNat)).gen n.toNat (bareThread (s.curB.thread k))) rfl
  rw [if_pos (by simp [Thread.pendingAt, arrivedWaiting, BarRef.isPack, BarRef.num])] at hwait
  rw [arrivedWaiting_pc, bareThread_pc] at hpc
  rw [← bareThread_pc, ← bareThread_pwait, issued_releaseBar_arrived h hu s.cur.pc hk]
  exact ⟨hpc, hwait⟩

end

end Sys2Proof.Laws

namespace Sys2Proof.Claims
open Sys2Proof.Machine

/-- Settles O23: `binit` is one change of one barrier or a trap, and arrivals leave the generation open or release it. -/
theorem barrierInitAndArrival : Obligations.BarrierInitAndArrival := by
  refine ⟨?_, ?_, ?_, ?_, ?_, ?_⟩
  case refine_1 =>
    intro s a l n r hi hr hu hc hv
    obtain ⟨t, hexec, hstep, hnow⟩ := Laws.execBinit_step hi hr hu hc hv
    refine ⟨t, hexec, hstep, ?_⟩
    convert hnow using 1
    unfold Laws.countBar
    by_cases h0 : (s.u32 a).toNat = 0
    · rw [if_neg (not_not.mpr h0), if_pos h0, decide_eq_true h0]
      cases r <;> rfl
    · rw [if_pos h0, if_neg h0, decide_eq_false h0]
  case refine_2 =>
    intro s a l n r hi hr hu hc
    rw [Laws.exec_binit hi hr hu, if_pos (by simpa using hc)]
    rfl
  case refine_3 =>
    intro s d l n hi h hc
    exact Laws.execBarrive_open hi h hc
  case refine_4 =>
    intro s d l n hi h hc
    exact Laws.execBarrive_released hi h hc
  case refine_5 =>
    intro s l n hi h hc
    exact Laws.execBsync_open hi h hc
  case refine_6 =>
    intro s l n hi h hc
    exact Laws.execBsync_released hi h hc

end Sys2Proof.Claims
end

section
/-! `sunmap` and `sflush` where no line is written back (R246, R247). A window is named by its number, which no other window of its team has:
`smap` gives the lowest number that the team has free (R245). -/
namespace Sys2Proof.Laws
open Sys2Proof.Machine Sys2Proof.Claims

/-- No two windows of a team have one number. -/
def numbered (t : Team) : Prop := (t.windows.map Window.num).Nodup

/-- A window is the one that its number names. -/
theorem window_eq_of_numbered {t : Team} {w x : Window} (h : numbered t) (hw : w ∈ t.windows) (hx : t.window w.num = some x) : x = w :=
  List.inj_on_of_nodup_map h (List.mem_of_find?_eq_some hx) hw (by simpa using List.find?_some hx)

/-- The window that `smap` makes has a number that the team has free (R245). -/
theorem smapWindow_free {s : State} {mode : WinMode} {va : DWord} {n q : Nat} {w : Window} (h : s.smapWindow mode va n q = .inr (some w)) :
    (s.team s.curTeam).window w.num = none := by
  unfold State.smapWindow at h
  dsimp only at h
  iterate 4
    split at h
    · cases h
  split at h
  · cases h
  next k hk =>
    split at h
    · cases h
    · obtain ⟨b, -, rfl⟩ := Option.map_eq_some_iff.mp (Sum.inr.inj h)
      have hfree := List.find?_some hk
      simp only [Bool.and_eq_true, Option.isNone_iff_eq_none] at hfree
      exact hfree.2

/-- No `smap` gives a number twice. -/
theorem numbered_smapWindow {s : State} {mode : WinMode} {va : DWord} {n q : Nat} {w : Window} (hd : numbered (s.team s.curTeam))
    (h : s.smapWindow mode va n q = .inr (some w)) :
    numbered { s.team s.curTeam with windows := (s.team s.curTeam).windows ++ [w] } := by
  have hnew : ∀ v ∈ (s.team s.curTeam).windows, v.num ≠ w.num := by
    simpa [Team.window] using smapWindow_free h
  rw [numbered, List.map_append]
  exact hd.append (List.nodup_singleton _) (by simpa [eq_comm] using hnew)

/-- Ranges of addresses meet. -/
theorem rangesMeet_iff {a n b m : Nat} : rangesMeet a n b m = true ↔ a < b + m ∧ b < a + n := by
  simp [rangesMeet]

/-- No line of a window is written back of which none in the range has bytes that its home lacks. -/
theorem cleanRange_clean {s : State} {t va n : Nat} {w : Window} (hd : numbered (s.team t)) (hw : w ∈ (s.team t).windows)
    (hc : ∀ l ∈ w.lines, l.st = .dirty ∨ l.st = .writing → ¬ lineIn w l.num va n) : s.cleanRange t w va n = s := by
  refine List.foldl_fixed' (fun k => ?_) _
  split
  next x hx =>
    split
    next l hl =>
      split
      next hu =>
        refine if_neg fun hin => ?_
        obtain ⟨hnum, hmeet⟩ := Bool.and_eq_true_iff.mp hin
        have hxk : x.num = k.1 := by simpa using List.find?_some hx
        obtain rfl : x = w := window_eq_of_numbered hd hw (by rwa [← beq_iff_eq.mp hnum, hxk])
        exact hc l (List.mem_of_find?_eq_some hl) (by simpa [Line.unsaved] using hu) (rangesMeet_iff.mp hmeet)
      · rfl
    · rfl
  · rfl

/-- `sunmap` of a window that no command holds, whose lines are as their homes (R246), where no other window has its number. -/
theorem execSunmap_numbered {s : State} {a : BitVec 6} {w : Window} (hd : numbered (s.team s.curTeam)) (hi : s.issues (.sunmap a))
    (hu : s.uniTrap (s.firstUses [⟨a.toNat, 2, .any⟩]) = none)
    (hw : (s.team s.curTeam).windows.find? (fun w => w.base == s.argS 0 a.toNat && w.num != 0) = some w)
    (hh : s.windowHeld s.curTeam w = false) (hc : ∀ l ∈ w.lines, l.st = .clean ∨ l.st = .filling) (ht : s.curTeam < s.teams.length) :
    ∃ t, exec (.sunmap a) s = .next t ∧ UniStep { s with teams := t.teams } t [] ∧
      t.team s.curTeam = { s.team s.curTeam with windows := (s.team s.curTeam).windows.filter (fun y => y.num != w.num) } ∧
      ∀ x, x ≠ s.curTeam → t.team x = s.team x := by
  have hclean : s.cleanRange s.curTeam w w.base.toNat w.size = s := by
    refine cleanRange_clean hd (List.mem_of_find?_eq_some hw) fun l hl hst => ?_
    rcases hc l hl with h | h <;> simp [h] at hst
  refine ⟨_, exec_issues_eq (t := (s.modTeam s.curTeam (fun x => { x with
    windows := x.windows.filter (fun y => y.num != w.num) })).advanceAll) (by rfl) hi ?_, advanceAll_step (s.modTeam s.curTeam _), ?_,
    fun x hx => team_modTeam_ne s _ x _ hx⟩
  · simp only [State.uniWord, src, if_true, hu, hw, hh, hclean]
    rfl
  · exact (team_modTeam s _ _).trans (if_pos ht)

/-- `sflush` of a range in which no line has bytes that its home lacks (R247), where no two windows have one number. -/
theorem execSflush_numbered {s : State} {a b : BitVec 6} (hd : numbered (s.team s.curTeam)) (hi : s.issues (.sflush a b))
    (hu : s.uniTrap [⟨a.toNat, 2, .any⟩, ⟨b.toNat, 1, .any⟩] = none)
    (hc : ∀ w ∈ (s.team s.curTeam).windows, w.mode ≠ .scratch → ∀ l ∈ w.lines, l.st = .dirty ∨ l.st = .writing →
      ¬ lineIn w l.num (s.u64 a).toNat (s.u32 b).toNat) :
    ∃ t, exec (.sflush a b) s = .next t ∧ UniStep s t [] := by
  have hclean : (s.team s.curTeam).windows.foldl (fun u w => if w.mode == .scratch then u else
      u.cleanRange s.curTeam w (s.u64 a).toNat (s.u32 b).toNat) s = s := by
    refine List.foldlRecOn (motive := (· = s)) _ _ rfl fun u hu w hw => ?_
    subst hu
    by_cases hm : w.mode = .scratch
    · simp [hm]
    · rw [if_neg (by simpa using hm), cleanRange_clean hd hw (hc w hw hm)]
  refine ⟨_, exec_issues_eq (t := s.advanceAll) (by rfl) hi ?_, advanceAll_step s⟩
  simp only [State.uniWord, src, if_true, Bool.false_eq_true, if_false, hu]
  exact congrArg State.advanceAll hclean

end Sys2Proof.Laws
end

section
/-! Lines that go home (R240), and the recall of a line of which there is no other copy (R239, R241). -/
namespace Sys2Proof.Laws
open Sys2Proof.Machine Sys2Proof.Claims

/-! ### Lines of a window -/

/-- A team that does not exist has no window. -/
theorem windows_absent {s : State} {y : Nat} (h : s.teams.length ≤ y) : (s.team y).windows = [] := by
  rw [State.team, List.getD_eq_default _ _ h]
  rfl

/-- The first entry of a number, after a change of the entries of that number that keeps it. -/
theorem find?_changed {α : Type} {num : α → Nat} {f : α → α} (hf : ∀ y, num (f y) = num y) (n : Nat) (xs : List α) :
    (xs.map (fun y => if num y == n then f y else y)).find? (fun y => num y == n) = (xs.find? (fun y => num y == n)).map f := by
  have hnum : (fun y => num y == n) ∘ (fun y => if num y == n then f y else y) = fun y => num y == n := by
    funext y
    by_cases hy : num y = n <;> simp [hy, hf]
  rw [List.find?_map, hnum]
  exact Option.map_congr fun y hy => if_pos (List.find?_some (p := fun y => num y == n) hy)

/-- A change of a window that keeps its number. -/
theorem window_modWindow {f : Window → Window} (hf : ∀ y, (f y).num = y.num) (s : State) (t w : Nat) :
    ((s.modWindow t w f).team t).window w = ((s.team t).window w).map f := by
  by_cases ht : t < s.teams.length
  · rw [State.modWindow, team_modTeam, if_pos ht]
    exact find?_changed hf w _
  · rw [State.modWindow, team_modTeam, if_neg ht, Team.window, windows_absent (Nat.le_of_not_lt ht)]
    rfl

/-- A change of a line that keeps its number. -/
theorem lineOf_modLine {f : Line → Line} (hf : ∀ y, (f y).num = y.num) (s : State) (t w n : Nat) :
    (s.modLine t w n f).lineOf t w n = (s.lineOf t w n).map f := by
  rw [State.lineOf, State.modLine, window_modWindow (by exact fun _ => rfl), Option.bind_map, State.lineOf, Option.map_bind]
  exact congrArg _ (funext fun x => find?_changed hf n x.lines)

/-- A line that is dropped is INVALID. -/
theorem lineOf_dropLine (s : State) (t w n : Nat) : (s.dropLine t w n).lineOf t w n = none := by
  rw [State.lineOf, State.dropLine, window_modWindow (by exact fun _ => rfl), Option.bind_map]
  cases (s.team t).window w with
  | none => rfl
  | some x => simp [Window.line]

/-! ### Lines that go home -/

/-- A thread none of whose increments of INPROG a line can take home stays as it is (R287). -/
theorem sent_thread {th : Thread} (h : ∀ x, th.graftHome = some x → x.off ≠ none) (va pa : Nat) (mask : BitVec 128) (ver : Option Nat) :
    (match th.st with
      | .waiting y => { th with st := .waiting (y.sent va pa mask ver) }
      | _ => th) = th := by
  split
  next y hy =>
    suffices e : y.sent va pa mask ver = y by rw [e, ← hy]
    cases y with
    | word ls i as home =>
      cases home with
      | none => rfl
      | some x => simp [Wait.sent, SyncHome.sent, h x (by rw [Thread.graftHome, hy])]
    | _ => rfl
  · rfl

/-- A line sends no increment of INPROG home where all of them stand there (R287). -/
theorem syncSent_counted {s : State} (hb : ∀ b k h, (s.thread b k).graftHome = some h → h.off ≠ none)
    (hc : ∀ h ∈ s.cur.homes, h.2.off ≠ none) (t : Nat) (w : Window) (l : Line) (mask : BitVec 128) : s.syncSent t w l mask = s := by
  have hcounted (x : Bundle) (hx : x ∈ s.bundles) (th : Thread) (hth : th ∈ x.threads) : ∀ h, th.graftHome = some h → h.off ≠ none := by
    obtain ⟨b, hlt, rfl⟩ := List.mem_iff_getElem.mp hx
    obtain ⟨k, hk, rfl⟩ := List.mem_iff_getElem.mp hth
    simpa [State.thread, Bundle.thread, State.bundle, List.getD_eq_getElem?_getD, hlt, hk] using hb b k
  have hhomes : (s.cur.homes.map fun h => (h.1, h.2.sent (w.base.toNat + 128 * l.num) l.pa mask (s.winVer t w))) = s.cur.homes :=
    (List.map_congr_left fun h hm => by simp [SyncHome.sent, hc h hm]).trans (List.map_id _)
  unfold State.syncSent
  simp only [hhomes, ite_self]
  congr 1
  refine (List.map_congr_left fun x hx => ?_).trans (List.map_id _)
  split
  · refine congrArg (fun ts => { x with threads := ts }) ?_
    exact (List.map_congr_left fun th hth => sent_thread (hcounted x hx th hth) _ _ _ _).trans (List.map_id _)
  · rfl

/-- A state in which memory alone has changed. -/
abbrev memoryOnly (s u : State) : Prop := { u with mem := s.mem, badmem := s.badmem } = s

/-- Bytes of a line of no version that are written home one by one. -/
theorem foldl_homeWrite {t : Nat} {w : Window} {l : Line} (hin : l.pa + 128 ≤ lpddrEnd) {is : List Nat} (hlt : ∀ i ∈ is, i < 128)
    {s : State} (hv : s.winVer t w = none) (hm : s.memOk) :
    memoryOnly s (is.foldl (fun s i => s.homeWrite (s.winVer t w) (l.pa + i) [lineGet l.data i]) s) ∧
      (is.foldl (fun s i => s.homeWrite (s.winVer t w) (l.pa + i) [lineGet l.data i]) s).memOk ∧
      ∀ a, (is.foldl (fun s i => s.homeWrite (s.winVer t w) (l.pa + i) [lineGet l.data i]) s).mem.read a =
        if l.pa ≤ a ∧ a - l.pa ∈ is then lineGet l.data (a - l.pa) else s.mem.read a := by
  induction is generalizing s with
  | nil => exact ⟨rfl, hm, fun a => by simp⟩
  | cons i is ih =>
    have hi : l.pa + i + [lineGet l.data i].length ≤ lpddrEnd := by
      have := hlt i List.mem_cons_self
      simp only [List.length_singleton]
      omega
    have hw := memWrite_wf s (l.pa + i) [lineGet l.data i] hm
    rw [List.foldl_cons, hv, homeWrite_none]
    rw [memWrite_inside hi] at hw ⊢
    obtain ⟨hrest, hok, hread⟩ := ih (fun j hj => hlt j (List.mem_cons_of_mem i hj)) (by exact hv) hw
    refine ⟨?_, hok, fun a => ?_⟩
    · exact congrArg (fun u : State => { u with mem := s.mem, badmem := s.badmem }) hrest
    · rw [hread]
      simp only [List.mem_cons, read_writeBytes hm, List.length_singleton]
      by_cases hj : l.pa ≤ a ∧ a - l.pa ∈ is
      · simp [hj]
      · by_cases ha : a = l.pa + i
        · subst ha
          simp at hj
          simp [hj]
        · rw [if_neg hj, if_neg (by omega), if_neg]
          rintro ⟨hle, heq | hmem⟩
          · omega
          · exact hj ⟨hle, hmem⟩

/-- A state in which bytes of a line have gone home, and in which only memory has changed. -/
structure Sent (s u : State) (l : Line) (mask : BitVec 128) : Prop where
  rest : memoryOnly s u
  ok : u.memOk
  home : wentHome s u l mask

/-- A line of no version goes home: the bytes that the mask marks, and nothing else changes. -/
theorem sendLine_home {s : State} {t : Nat} {w : Window} {l : Line} (hr : l.remote = false) (hv : s.winVer t w = none)
    (hin : l.pa + 128 ≤ lpddrEnd) (hm : s.memOk)
    (hb : (∀ b k h, (s.thread b k).graftHome = some h → h.off ≠ none) ∧ ∀ h ∈ s.cur.homes, h.2.off ≠ none) (mask : BitVec 128) :
    Sent s (s.sendLine t w l mask) l mask := by
  obtain ⟨hrest, hok, hread⟩ := foldl_homeWrite (is := (List.range 128).filter mask.getLsbD) hin
    (fun i hi => List.mem_range.mp (List.mem_filter.mp hi).1) hv hm
  obtain ⟨hgraft, hhomes⟩ := hb
  unfold State.sendLine State.sendBy
  rw [if_neg (by simp [hr])]
  generalize ((List.range 128).filter mask.getLsbD).foldl (fun s i => s.homeWrite (s.winVer t w) (l.pa + i) [lineGet l.data i]) s = u at *
  have hthread (b k : Nat) : u.thread b k = s.thread b k := by
    have e := congrArg (fun v : State => v.thread b k) hrest
    exact e
  have hcur : u.cur = s.cur := by
    have e := congrArg (fun v : State => v.cur) hrest
    exact e
  rw [syncSent_counted (by simpa only [hthread] using hgraft) (by simpa only [hcur] using hhomes)]
  refine ⟨hrest, hok, fun a => (hread a).trans (if_congr ?_ rfl rfl)⟩
  rw [List.mem_filter, List.mem_range]
  exact ⟨fun ⟨hle, hlt, hbit⟩ => ⟨hle, by omega, hbit⟩, fun ⟨hle, hlt, hbit⟩ => ⟨hle, by omega, hbit⟩⟩

/-- The only copy of a line, where no two windows of its team have one number. -/
theorem holder_own {s : State} {x w n : Nat} {win : Window} {l : Line} (ho : OwnLine s x w n win l) (hd : numbered (s.team x))
    {skip : Nat → Window → Bool} {h : Holder} (hh : h ∈ s.holders l.pa skip) : h = ⟨x, win, l⟩ := by
  obtain ⟨y, -, hh⟩ := List.mem_flatMap.mp hh
  obtain ⟨v, hv, hh⟩ := List.mem_flatMap.mp hh
  obtain ⟨m, hm, rfl⟩ := List.mem_map.mp hh
  obtain ⟨hm, hpa⟩ := List.mem_filter.mp hm
  have hv := (List.mem_filter.mp hv).1
  obtain ⟨rfl, rfl, rfl⟩ := ho.alone y v hv m hm (by simp at hpa; exact hpa.1)
  rw [window_eq_of_numbered hd hv ho.window]

/-- A line that is not FILLING is held. -/
theorem holders_ne_nil {s : State} {x w n : Nat} {win : Window} {l : Line} (ho : OwnLine s x w n win l) (hf : l.st ≠ .filling) :
    s.holders l.pa (fun _ _ => false) ≠ [] := by
  refine List.ne_nil_of_mem (a := ⟨x, win, l⟩) ?_
  refine List.mem_flatMap.mpr ⟨x, List.mem_range.mpr ho.team, List.mem_flatMap.mpr ⟨win, ?_, List.mem_map.mpr ⟨l, ?_, rfl⟩⟩⟩
  · exact List.mem_filter.mpr ⟨List.mem_of_find?_eq_some ho.window, rfl⟩
  · exact List.mem_filter.mpr ⟨List.mem_of_find?_eq_some ho.listed, by simp [hf]⟩

/-- A fold over entries that are all one, each step of which from where a predicate holds leads to where it holds. -/
theorem foldl_same {σ α : Type} {P : σ → Prop} {f : σ → α → σ} {xs : List α} {x : α} {s : σ} (hx : ∀ y ∈ xs, y = x) (hn : xs ≠ [])
    (h0 : P (f s x)) (h : ∀ u, P u → P (f u x)) : P (xs.foldl f s) := by
  cases xs with
  | nil => exact absurd rfl hn
  | cons y ys =>
    obtain rfl := hx y List.mem_cons_self
    refine List.foldlRecOn (motive := P) ys f h0 fun u hu z hz => ?_
    rw [hx z (List.mem_cons_of_mem y hz)]
    exact h u hu

/-- A line after a recall by a load (R241). -/
def recalled (l : Line) : Line := { l.cleaned with excl := false }

/-- What a recall does with a copy whose bytes are at home. -/
def recallCopy (store : Bool) (x w n : Nat) (u : State) : State := if store then u.dropLine x w n else u.modLine x w n recalled

/-- A copy that is recalled, for the first time or again, and memory, which has the bytes already. -/
theorem recallCopy_home {s u : State} {x w n : Nat} {l : Line} {mask : BitVec 128} {store : Bool} {o : Option Line}
    (ho : o = some l ∨ o = if store then none else some (recalled l)) (h : wentHome s u l mask ∧ LineNow s u x w n o) :
    wentHome s (recallCopy store x w n u) l mask ∧
      LineNow s (recallCopy store x w n u) x w n (if store then none else some (recalled l)) := by
  obtain ⟨hhome, hline, hothers, hrest⟩ := h
  have hteams (f : Team → Team) (y : Nat) (hy : y ≠ x) : (u.modTeam x f).team y = s.team y := (team_modTeam_ne u x y f hy).trans (hothers y hy)
  cases store with
  | true => exact ⟨hhome, lineOf_dropLine u x w n, hteams _, hrest⟩
  | false =>
    refine ⟨hhome, (lineOf_modLine (by exact fun _ => rfl) u x w n).trans ?_, hteams _, hrest⟩
    rcases ho with rfl | rfl <;> rw [hline] <;> rfl

section
variable {s : State} {x w n : Nat} {win : Window} {l : Line}

/-- Bytes that go home twice are at home. -/
theorem sent_again {u : State} {mask : BitVec 128} (ho : OwnLine s x w n win l) (hu : Sent s u l mask) :
    Sent s (u.sendLine x win l mask) l mask := by
  obtain ⟨hrest, hok, hhome⟩ := hu
  have hu : u = { s with mem := u.mem, badmem := u.badmem } := by
    have e := congrArg (fun v : State => { v with mem := u.mem, badmem := u.badmem }) hrest
    exact e
  have hthen := sendLine_home (s := { s with mem := u.mem, badmem := u.badmem }) ho.near ho.version ho.inside (hu ▸ hok) ho.counted mask
  rw [← hu] at hthen
  obtain ⟨hrest', hok', hhome'⟩ := hthen
  refine ⟨?_, hok', fun a => ?_⟩
  · have e := congrArg (fun v : State => { v with mem := s.mem, badmem := s.badmem }) hrest'
    exact e.trans hrest
  · rw [hhome' a, hhome a]
    split <;> rfl

/-- The copies of the line that are sent home before it is recalled (R241). -/
theorem sent_copies (ho : OwnLine s x w n win l) (hm : s.memOk) {hs : List Holder} (hown : ∀ h ∈ hs, h = ⟨x, win, l⟩)
    (hne : hs ≠ []) : Sent s ((hs.filter (fun h => h.line.dirty ||| h.line.redirty != 0)).foldl
      (fun s h => s.sendLine h.team h.win h.line (h.line.dirty ||| h.line.redirty)) s) l (l.dirty ||| l.redirty) := by
  by_cases hz : l.dirty ||| l.redirty = 0
  · rw [List.filter_eq_nil_iff.mpr fun h hh => by simp [hown h hh, hz]]
    exact ⟨rfl, hm, fun a => by simp [hz]⟩
  · rw [List.filter_eq_self.mpr fun h hh => by rw [hown h hh]; exact bne_iff_ne.mpr hz]
    exact foldl_same (P := fun u => Sent s u l (l.dirty ||| l.redirty)) hown hne
      (sendLine_home ho.near ho.version ho.inside hm ho.counted _) fun u hu => sent_again ho hu

/-- Every line is as it was where only memory has changed. -/
theorem lineNow_of_memoryOnly {u : State} {o : Option Line} (h : memoryOnly s u) (hl : s.lineOf x w n = o) : LineNow s u x w n o := by
  have hteams : u.teams = s.teams := by
    have e := congrArg State.teams h
    exact e
  have hteam (y : Nat) : u.team y = s.team y := by rw [State.team, hteams, State.team]
  refine ⟨by rw [State.lineOf, hteam, ← State.lineOf, hl], fun y _ => hteam y, ?_⟩
  have e := congrArg (fun v : State => { v with teams := s.teams }) h
  exact e

/-- STASH_RECALL of a line of which there is no other copy (R239, R241), where no two windows of its team have one number. -/
theorem execStashRecall_numbered (store : Bool) (ho : OwnLine s x w n win l) (hd : numbered (s.team x)) (hf : l.st ≠ .filling)
    (hm : s.memOk) : ∃ t, exec (.stashRecall x w n store) s = .next t ∧ wentHome s t l (l.dirty ||| l.redirty) ∧
      LineNow s t x w n (if store then none else some { homeward l .clean with excl := false }) := by
  have hline : s.lineOf x w n = some l := by simp [State.lineOf, ho.window, ho.listed]
  have hwin : win.num = w := by simpa using List.find?_some ho.window
  have hnum : l.num = n := by simpa using List.find?_some ho.listed
  have hown (h : Holder) (hh : h ∈ s.holders l.pa (fun _ _ => false)) : h = ⟨x, win, l⟩ := holder_own ho hd hh
  have hne := holders_ne_nil ho hf
  have hexec : exec (.stashRecall x w n store) s = .next (s.recall l.pa store none).1 := by
    change execStashRecall x w n store s = _
    simp [execStashRecall, hline, hf]
  refine ⟨_, hexec, ?_⟩
  obtain ⟨hrest, -, hhome⟩ := sent_copies ho hm hown hne
  change wentHome s (State.recallBy State.homeWrite s l.pa store (fun _ _ => false)).1 l _ ∧
    LineNow s (State.recallBy State.homeWrite s l.pa store (fun _ _ => false)).1 x w n _
  simp only [State.recallBy]
  simp only [State.sendLine] at hrest hhome
  generalize hds : (s.holders l.pa (fun _ _ => false)).filter (fun h => h.line.dirty ||| h.line.redirty != 0) = ds at hrest hhome ⊢
  generalize ds.foldl (fun s h => s.sendBy State.homeWrite h.team h.win h.line (h.line.dirty ||| h.line.redirty)) s = u at hrest hhome ⊢
  have hone : ds.any (fun d => !d.same ⟨x, win, l⟩) = false := by
    subst hds
    exact List.any_eq_false.mpr fun d hd => by simp [hown d (List.mem_filter.mp hd).1, Holder.same]
  have hact (v : State) : (if store || ds.any (fun d => !d.same ⟨x, win, l⟩) then v.dropLine x win.num l.num
      else v.modLine x win.num l.num (fun l => { l.cleaned with excl := false })) = recallCopy store x w n v := by
    rw [hone, Bool.or_false, hwin, hnum]
    rfl
  refine foldl_same (P := fun v => wentHome s v l (l.dirty ||| l.redirty) ∧ LineNow s v x w n _) hown hne ?_ fun v hv => ?_
  · exact (hact u).symm ▸ recallCopy_home (.inl rfl) ⟨hhome, lineNow_of_memoryOnly hrest hline⟩
  · exact (hact v).symm ▸ recallCopy_home (.inr rfl) hv

end

end Sys2Proof.Laws
end

section
/-! Two windows of one number. No `smap` makes them (R245, `numbered_smapWindow`), but the statements about the stash speak of every state,
also of those that have them. There a write-back takes the first window of the number for the other one, and a recall finds one line in both.
Each of the three statements fails in one clause for that; the clause holds where numbers differ (`execSunmap_numbered`,
`execSflush_numbered`, `execStashRecall_numbered`). -/
namespace Sys2Proof.Laws
open Sys2Proof.Machine

/-! ### A team with two windows of one number -/

/-- A dirty line, at home at 0x10000. -/
def twinLine : Line := ⟨0, .dirty, true, 0x10000, false, 1, 1, 0, 0, false, none⟩

/-- The first of two windows of number 1: its stream is direct, and it has the dirty line. -/
def firstTwin : Window := ⟨1, 0x20000, 0x1000, .rw, 0, true, [twinLine], []⟩

/-- The other: its stream is versioned (R242). -/
def secondTwin (ls : List Line) : Window := ⟨1, 0x30000, 0x1000, .rw, 0, false, ls, []⟩

/-- The team 0 of a versioned kernel has both windows, in a context with VPOOL 0 (R335); its thread is at issue. The pair s10 holds the base
of the second window, and s12 its size. -/
def twins (ls : List Line) : State :=
  let s := State.reset.startTeamAt
  let s : State := { s with
    ctxs := s.ctxs.map (fun c => { c with vpool := 0 })
    launches := s.launches.map (fun l => { l with obj := l.obj.map (fun o => { o with kflags := 0x81 }) })
    cur := { Issue.reset with lanes := 1, plain := true } }
  let s := s.modBundle 0 (fun x => { x with s := ((x.s.set 10 ⟨0x30000, .int⟩).set 11 ⟨0, .int⟩).set 12 ⟨0x1000, .int⟩ })
  s.modTeam 0 (fun x => { x with windows := [firstTwin, secondTwin ls], ver := ⟨.open, [], false⟩ })

/-- The instruction completes in a state that passes a test. -/
def endsWith (i : Instr) (s : State) (p : State → Bool) : Bool :=
  match exec i s with
  | .next t => p t
  | _ => false

theorem endsWith_next {i : Instr} {s t : State} {p : State → Bool} (h : endsWith i s p = true) (he : exec i s = .next t) : p t = true := by
  rwa [endsWith, he] at h

/-- No byte of memory is written yet. -/
theorem mem_twins : (twins []).mem = [] := rfl

/-- `sunmap` of the second window writes back the line of the first. -/
theorem sunmap_twins : endsWith (.sunmap 10) (twins []) (fun t => t.mem == [(0x10000, 1)]) = true := by decide +kernel

/-- `sflush` of the range of the second window writes back the line of the first, which is not in that range. -/
theorem sflush_twins : endsWith (.sflush 10 12) (twins []) (fun t => t.mem == [(0x10000, 1)]) = true := by decide +kernel

/-- No record waits yet. -/
theorem waiting_twins : (twins [twinLine]).intc.waiting = [] := rfl

/-- A recall of a line that both windows have sends it home twice: to memory, and into the version, which has no room and is published
early (R311), with a record (R316). -/
theorem recall_twins : endsWith (.stashRecall 0 1 0 true) (twins [twinLine]) (fun t => t.intc.waiting.length == 1) = true := by
  decide +kernel

/-- `sunmap` of the second window and `sflush` of its range are at issue. -/
theorem issues_twins : (twins []).issues (.sunmap 10) ∧ (twins []).issues (.sflush 10 12) := by
  unfold State.issues
  decide +kernel

/-- No thread of a bundle that exists waits with an increment of INPROG, so none does (R287). -/
theorem graftHome_none {s : State} (h : ∀ x ∈ s.bundles, ∀ th ∈ x.threads, th.graftHome = none) (b k : Nat) :
    (s.thread b k).graftHome = none := by
  simp only [State.thread, Bundle.thread, State.bundle, List.getD_eq_getElem?_getD]
  cases hb : s.bundles[b]? with
  | none => simp [Bundle.absent, Thread.absent, Thread.graftHome]
  | some x =>
    cases hk : x.threads[k]? with
    | none => simp [hk, Thread.absent, Thread.graftHome]
    | some th => simpa [hk] using h x (List.mem_of_getElem? hb) th (List.mem_of_getElem? hk)

/-- What only teams differ in beside a bundle has the same memory. -/
theorem mem_of_sameBut {b : Nat} {s t : State} (h : SameBut b s t) : t.mem = s.mem := by
  have e := congrArg State.mem h.rest
  exact e

end Sys2Proof.Laws

namespace Sys2Proof.Claims
open Sys2Proof.Machine

/-- The line of both windows is the team's own, as seen from the first. -/
theorem ownLine_twins : OwnLine (Laws.twins [Laws.twinLine]) 0 1 0 Laws.firstTwin Laws.twinLine where
  team := by decide +kernel
  window := by decide +kernel
  listed := by decide +kernel
  near := rfl
  version := by decide +kernel
  aligned := by decide
  inside := by decide
  alone := by
    intro y
    cases y with
    | zero => decide +kernel
    | succ y =>
      intro v hv
      rw [Laws.windows_absent (Nat.le_add_left 1 y)] at hv
      cases hv
  counted := by
    refine ⟨fun b k h he => ?_, by decide +kernel⟩
    rw [Laws.graftHome_none (by decide +kernel)] at he
    cases he

/-- Refutes O16, in its last clause: of two windows of one number, `sunmap` of the second writes back the dirty line of the first (R246). -/
theorem not_stashWindows : ¬ Obligations.StashWindows := by
  unfold Obligations.StashWindows
  rintro ⟨-, -, -, -, hsunmap⟩
  obtain ⟨-, hfree⟩ := hsunmap (Laws.twins []) 10 (Laws.secondTwin []) Laws.issues_twins.1 (by decide +kernel) (by decide +kernel)
  obtain ⟨t, hexec, hstep, -⟩ := hfree (by decide +kernel) (by decide) (by decide +kernel)
  have hne := Laws.endsWith_next Laws.sunmap_twins hexec
  have hmem := Laws.mem_of_sameBut hstep.same
  simp [hmem, Laws.mem_twins] at hne

/-- Refutes O17, in its clause that `sflush` of a range without a dirty line changes nothing: of two windows of one number, the second lies
in the range, and the dirty line of the first is written back as though it did (R247). -/
theorem not_stashFlushAndStatus : ¬ Obligations.StashFlushAndStatus := by
  unfold Obligations.StashFlushAndStatus
  rintro ⟨-, hclean, -⟩
  obtain ⟨t, hexec, hstep⟩ := hclean (Laws.twins []) 10 12 Laws.issues_twins.2 (by decide +kernel) (by decide +kernel)
  have hne := Laws.endsWith_next Laws.sflush_twins hexec
  have hmem := Laws.mem_of_sameBut hstep.same
  simp [hmem, Laws.mem_twins] at hne

/-- Refutes O18, in its clause about recalls: the line is in two windows of one number, of which the second is versioned, so that its bytes
also go into the team's version, which is full (R242, R311). -/
theorem not_stashEvents : ¬ Obligations.StashEvents := by
  unfold Obligations.StashEvents
  rintro ⟨-, hrecall, -⟩
  obtain ⟨t, hexec, -, hline⟩ := hrecall _ 0 1 0 _ _ true ownLine_twins (by decide) (by unfold State.memOk; decide +kernel)
  have hne := Laws.endsWith_next Laws.recall_twins hexec
  have hintc := congrArg State.intc hline.rest
  simp only at hintc
  simp [hintc, Laws.waiting_twins] at hne

end Sys2Proof.Claims
end

section
/-! Observation of commands (R251), and the words `mmfence`, `twait` and `stamp` (R266, R267, R273). -/
namespace Sys2Proof.Laws
open Sys2Proof.Machine Sys2Proof.Claims

/-! ### Changes of one bundle -/

/-- What a change of a bundle keeps of it, it keeps of every bundle. -/
theorem bundle_modBundle_view {α : Type} {φ : Bundle → α} {F : Bundle → Bundle} (h : ∀ x, φ (F x) = φ x) (s : State) (b k : Nat) :
    φ ((s.modBundle b F).bundle k) = φ (s.bundle k) := by
  by_cases hk : k = b
  · subst hk
    rw [bundle_modBundle]
    split
    · exact h _
    · rfl
  · rw [bundle_modBundle_ne s b k F hk]

/-- `t` is `s` but for one bundle, of which the change keeps what `φ` says of it. -/
def BundleKeeps {α : Type} (φ : Bundle → α) (b : Nat) (s t : State) : Prop := ∃ F : Bundle → Bundle, (∀ x, φ (F x) = φ x) ∧ t = s.modBundle b F

namespace BundleKeeps
variable {α : Type} {φ : Bundle → α} {b : Nat} {s t u : State}

theorem refl (φ : Bundle → α) (b : Nat) (s : State) : BundleKeeps φ b s s := ⟨id, fun _ => rfl, (modBundle_self rfl).symm⟩

theorem modBundle (h : BundleKeeps φ b s t) {G : Bundle → Bundle} (hG : ∀ x, φ (G x) = φ x) : BundleKeeps φ b s (t.modBundle b G) := by
  obtain ⟨F, hF, rfl⟩ := h
  exact ⟨G ∘ F, fun x => (hG _).trans (hF x), modBundle_modBundle s b F G⟩

theorem trans (hst : BundleKeeps φ b s t) (htu : BundleKeeps φ b t u) : BundleKeeps φ b s u := by
  obtain ⟨G, hG, rfl⟩ := htu
  exact hst.modBundle hG

/-- What is kept says less. -/
theorem comp {β : Type} (g : α → β) (h : BundleKeeps φ b s t) : BundleKeeps (g ∘ φ) b s t := by
  obtain ⟨F, hF, rfl⟩ := h
  exact ⟨F, fun x => congrArg g (hF x), rfl⟩

theorem bundle (h : BundleKeeps φ b s t) (k : Nat) : φ (t.bundle k) = φ (s.bundle k) := by
  obtain ⟨F, hF, rfl⟩ := h
  exact bundle_modBundle_view hF s b k

end BundleKeeps

/-- Where a thread stands, in which state, and whether it parks once its wait is over. -/
def stand (t : Thread) : DWord × TState × Bool := (t.pc, t.st, t.parkAsked)

/-- A bundle's uniform registers, and where its threads stand. -/
def stance (x : Bundle) : List Reg × List (DWord × TState × Bool) := (x.s, x.threads.map stand)

/-- `t` is `s` but for one bundle, of which the change keeps the stance. -/
abbrev KeepsStance : Nat → State → State → Prop := BundleKeeps stance

/-- A change of a thread that does not move it keeps its bundle's stance. -/
theorem stance_modThread {f : Thread → Thread} (h : ∀ t, stand (f t) = stand t) (x : Bundle) (l : Nat) :
    stance (x.modThread l f) = stance x := congrArg (Prod.mk x.s) (map_modify_of_eq h l x.threads)

theorem KeepsStance.modThread {b : Nat} {s t : State} (h : KeepsStance b s t) {f : Thread → Thread} (hf : ∀ t, stand (f t) = stand t)
    (l : Nat) : KeepsStance b s (t.modThread b l f) := h.modBundle fun x => stance_modThread hf x l

theorem KeepsStance.acquireThread {b : Nat} {s t : State} (h : KeepsStance b s t) (l : Nat) (set : BitVec 16) :
    KeepsStance b s (t.acquireThread b l set) := by
  refine KeepsStance.modThread (f := fun x => x.acquireAt t.ticks set) ?_ (fun _ => rfl) l
  unfold State.bindLoads
  split
  · exact h
  · exact h.modBundle fun _ => rfl

/-- A register that a thread's ring takes does not move the thread. -/
theorem stand_unbind (t : Thread) (tick l : Nat) (gone : Bound → Bool) : stand (t.unbind tick l gone) = stand t := by
  unfold Thread.unbind
  refine List.foldlRecOn (motive := fun u => stand u = stand t) _ _ rfl fun u hu y _ => ?_
  split
  · split
    · exact hu
    · exact hu
  · exact hu

/-! ### Observation (R251) -/

/-- The bundle observes the command by these registers. -/
def observable (b : Nat) (regs : List Nat) (c : Cmd) : Bool :=
  c.bundle == b && c.st == .done && !c.observed && (regs.contains c.token || regs.contains (c.token + 1))

/-- A command that has been observed. -/
def seen (c : Cmd) : Cmd := { c with observed := true }

/-- A command after the bundle has observed what it can by these registers. -/
def afterObserve (b : Nat) (regs : List Nat) (c : Cmd) : Cmd := if observable b regs c then seen c else c

/-- The numbers of the commands that the bundle observes by these registers. -/
def observedIds (s : State) (b : Nat) (regs : List Nat) : List Nat :=
  (indices s.cmds).filter (fun i => (s.cmds[i]?.map (observable b regs)).getD false)

/-- A bundle whose threads lose the bindings of the posts of these numbers (R263). -/
def unbound (tick : Nat) (ids : List Nat) (x : Bundle) : Bundle :=
  { x with threads := x.threads.mapIdx (fun l t => t.unbind tick l (fun y => ids.contains y.cmd)) }

theorem stance_unbound (tick : Nat) (ids : List Nat) (x : Bundle) : stance (unbound tick ids x) = stance x :=
  congrArg (Prod.mk x.s) (List.ext_getElem (by simp [unbound]) fun k _ _ => by simp [unbound, stand_unbind])

/-- `observe` as its three changes. -/
theorem observe_changes (s : State) (b : Nat) (regs ls : List Nat) : s.observe b regs ls =
    if (observedIds s b regs).isEmpty then s else
      let u := (observedIds s b regs).foldl (fun s i => s.modCmd i seen) (ls.foldl (fun s l => s.acquireThread b l 0xFFFF) s)
      u.modBundle b (unbound u.ticks (observedIds s b regs)) := rfl

/-- A state with other commands. -/
def withCmds (s : State) (cs : List Cmd) : State := { s with cmds := cs }

/-- A state none of whose commands changes. -/
theorem withCmds_unchanged (s : State) (f : Cmd → Cmd) : withCmds s (s.cmds.mapIdx (fun i c => if i ∈ ([] : List Nat) then f c else c)) = s := by
  simp only [List.not_mem_nil, if_false]
  exact congrArg (withCmds s) (mapIdx_id s.cmds)

/-- Commands that change in turn, each to the same effect however often. -/
theorem foldl_modCmd {f : Cmd → Cmd} (hf : ∀ c, f (f c) = f c) (ids : List Nat) (s : State) :
    ids.foldl (fun s i => s.modCmd i f) s = withCmds s (s.cmds.mapIdx (fun i c => if i ∈ ids then f c else c)) := by
  induction ids generalizing s with
  | nil => exact (withCmds_unchanged s f).symm
  | cons i ids ih =>
    rw [List.foldl_cons, ih]
    refine congrArg (withCmds s) (List.ext_getElem (by simp [State.modCmd]) fun k _ _ => ?_)
    simp only [State.modCmd, List.getElem_mapIdx, List.getElem_modify, List.mem_cons]
    by_cases h : i = k
    · subst h
      simp [hf]
    · simp [h, Ne.symm h]

/-- The commands that are observed are those at the numbers that are observed. -/
theorem mapIdx_observedIds (s : State) (b : Nat) (regs : List Nat) :
    s.cmds.mapIdx (fun i c => if i ∈ observedIds s b regs then seen c else c) = s.cmds.map (afterObserve b regs) := by
  refine List.ext_getElem (by simp) fun k hk _ => ?_
  rw [List.length_mapIdx] at hk
  simp [observedIds, afterObserve, indices, hk]

/-- What `observe` does: the commands are observed, and no thread moves. -/
theorem observe_eq (s : State) (b : Nat) (regs ls : List Nat) :
    ∃ u, KeepsStance b s u ∧ s.observe b regs ls = withCmds u (s.cmds.map (afterObserve b regs)) := by
  rw [observe_changes, ← mapIdx_observedIds]
  split
  next hnone =>
    refine ⟨s, .refl stance b s, ?_⟩
    rw [List.isEmpty_iff.mp hnone]
    exact (withCmds_unchanged s seen).symm
  next =>
    have hread : KeepsStance b s (ls.foldl (fun s l => s.acquireThread b l 0xFFFF) s) :=
      List.foldlRecOn (motive := KeepsStance b s) _ _ (.refl stance b s) fun _ hu l _ => hu.acquireThread l _
    refine ⟨_, hread.modBundle (stance_unbound s.ticks (observedIds s b regs)), ?_⟩
    obtain ⟨F, -, hF⟩ := hread
    rw [foldl_modCmd (f := seen) (fun _ => rfl), hF]
    rfl

/-- A bundle that has no command to observe observes none. -/
theorem observe_none {s : State} {b : Nat} {regs : List Nat} (h : ∀ c ∈ s.cmds, observable b regs c = false) (ls : List Nat) :
    s.observe b regs ls = s := by
  rw [observe_changes, if_pos]
  refine List.isEmpty_iff.mpr (List.filter_eq_nil_iff.mpr fun i hi => ?_)
  have hi : i < s.cmds.length := by simpa [indices] using hi
  simp [hi, h]

/-! ### The words (R266, R267, R273) -/

/-- The issued set waits. -/
theorem waitIssued_step (s : State) (w : Wait) : LaneStep s (s.waitIssued w) (fun _ th => { th with st := .waiting w }) :=
  mapLanes_step s _

/-- The issued set waits at its word. -/
theorem waitWord_step (s : State) (i : Instr) (args : List DWord) : LaneStep s (s.waitWord i args) (atWord s i args) := mapLanes_step s _

/-- Where the threads stand that the issued set leaves behind, by where they stood. -/
theorem passed_pc (s : State) : s.passed.map Thread.pc = (s.curB.threads.map stand).mapIdx (fun l x =>
    if s.cur.lanes.getLsbD l && x.2.1 == .ready then s.cur.pc + 4 else x.1) := by
  refine List.ext_getElem (by simp [State.passed]) fun l _ _ => ?_
  simp only [State.passed, List.getElem_map, List.getElem_mapIdx, Thread.isReady, stand]
  exact apply_ite Thread.pc _ _ _

/-- The bundle at issue keeps its stance where no thread moves. -/
theorem KeepsStance.curB {s u : State} (h : KeepsStance s.cur.bundle s u) : u.cur = s.cur ∧ stance u.curB = stance s.curB := by
  have hst := h.bundle s.cur.bundle
  obtain ⟨F, hF, rfl⟩ := h
  exact ⟨rfl, hst⟩

/-- Where no thread has moved, the issued set passes its word as it would have. -/
theorem KeepsStance.passed_pc {s u : State} (h : KeepsStance s.cur.bundle s u) : u.passed.map Thread.pc = s.passed.map Thread.pc := by
  obtain ⟨hcur, hst⟩ := h.curB
  rw [Laws.passed_pc, Laws.passed_pc, hcur, show u.curB.threads.map stand = s.curB.threads.map stand from congrArg Prod.snd hst]

/-- The commands that a bundle observes by the pair at `r` are those of R251. -/
theorem observable_iff {s : State} {r : BitVec 6} {c : Cmd} : observable s.cur.bundle [r.toNat] c = true ↔ observes s r c := by
  simp only [observable, observes, Bool.and_eq_true, beq_iff_eq, Bool.not_eq_true', Bool.or_eq_true, List.contains_iff_mem,
    List.mem_singleton, and_assoc, @eq_comm _ r.toNat]

/-- What a bundle observes by a pair, and its issued set past the word (R251, R267). -/
theorem observe_advance (s : State) (a : BitVec 6) : let t := (s.observe s.cur.bundle [a.toNat] s.issued).advanceAll
    t.cmds.length = s.cmds.length ∧
    (∀ i c, s.cmd? i = some c → observes s a c → t.cmd? i = some { c with observed := true }) ∧
    (∀ i c, s.cmd? i = some c → ¬ observes s a c → t.cmd? i = some c) ∧
    SameBut s.cur.bundle { s with cmds := t.cmds } t ∧ t.curB.threads.map Thread.pc = s.passed.map Thread.pc ∧
    ((∀ c ∈ s.cmds, ¬ observes s a c) → UniStep s t []) := by
  intro t
  obtain ⟨u, hu, he⟩ := observe_eq s s.cur.bundle [a.toNat] s.issued
  have ht : t = (withCmds u (s.cmds.map (afterObserve s.cur.bundle [a.toNat]))).advanceAll := congrArg State.advanceAll he
  have hcmds : t.cmds = s.cmds.map (afterObserve s.cur.bundle [a.toNat]) := by rw [ht]; rfl
  have hcmd (i : Nat) (c : Cmd) (hc : s.cmd? i = some c) : t.cmd? i = some (afterObserve s.cur.bundle [a.toNat] c) := by
    rw [State.cmd?, hcmds, List.getElem?_map, show s.cmds[i]? = some c from hc]
    rfl
  refine ⟨by simp [hcmds], fun i c hc ho => ?hit, fun i c hc ho => ?miss, ?same, ?pcs, fun h => ?none⟩
  case hit => rw [hcmd i c hc, afterObserve, if_pos (observable_iff.mpr ho)]; rfl
  case miss => rw [hcmd i c hc, afterObserve, if_neg (mt observable_iff.mp ho)]
  case same =>
    rw [ht]
    obtain ⟨F, -, rfl⟩ := hu
    exact ⟨rfl, fun k hk => (bundle_modBundle_ne _ _ k _ hk).trans (bundle_modBundle_ne s _ k F hk)⟩
  case pcs =>
    rw [ht, (advanceAll_step _).threads]
    exact hu.passed_pc
  case none =>
    have hnone : s.observe s.cur.bundle [a.toNat] s.issued = s :=
      observe_none (fun c hc => Bool.not_eq_true _ ▸ mt observable_iff.mp (h c hc)) _
    rw [show t = s.advanceAll from congrArg State.advanceAll hnone]
    exact advanceAll_step s

/-- `mmfence` (R266). -/
theorem execMmfence_step {s : State} (hi : s.issues .mmfence) : ∃ t, exec .mmfence s = .next t ∧
    (s.curB.late = [] ∧ s.curB.flags = 0 → UniStep s t []) ∧
    (¬ (s.curB.late = [] ∧ s.curB.flags = 0) → LaneStep s t (atWord s .mmfence [])) := by
  refine ⟨_, exec_issues (by rfl) hi, fun h => ?_, fun h => ?_⟩
  · rw [if_pos (by simpa using h)]
    exact advanceAll_step s
  · rw [if_neg (by simpa using h)]
    exact waitWord_step s _ _

/-- `twait` (R267). -/
theorem exec_twait {s : State} {a : BitVec 6} (hi : s.issues (.twait a)) : exec (.twait a) s =
    .next (if s.curB.pairPending a.toNat then s.waitIssued (.token a.toNat)
      else (s.observe s.cur.bundle [a.toNat] s.issued).advanceAll) := exec_issues (by rfl) hi

/-- A USER record is the stamp record of its fields (R271). -/
theorem stampRecord_user (s : State) (code : BitVec 12) : stampRecord s.cur.pc 0 s.clk [] code.toNat
    ((s.curB.team.map (fun t => (s.team t).index)).getD 0) 1 0 s.curB.bidx = userRecord s code := by
  simp [stampRecord, userRecord, List.range_succ, bytesOf]

/-- `stamp` (R273). -/
theorem execStamp_step {s : State} {i : BitVec 12} (hi : s.issues (.stamp i)) : exec (.stamp i) s =
    .next (s.stampRing s.curB.asid (userRecord s i)).advanceAll :=
  exec_issues_eq (by rfl) hi (congrArg (fun bs => (s.stampRing s.curB.asid bs).advanceAll) (stampRecord_user s i))

/-- A context without a stamp descriptor has no ring (R272). -/
theorem stampRing_none {s : State} {asid : BitVec 16} (h : (s.ctx asid).stampdesc = 0) (bs : List Byte) : s.stampRing asid bs = s :=
  if_pos (by simp [h])

end Sys2Proof.Laws

namespace Sys2Proof.Claims
open Sys2Proof.Machine

/-- Settles O22: `mmfence`, `twait` and `stamp` (R266, R267, R273). -/
theorem engineWords : Obligations.EngineWords := by
  unfold Obligations.EngineWords
  refine ⟨fun s hi => Laws.execMmfence_step hi, fun s a hi => ?_, fun s i hi => ⟨_, Laws.execStamp_step hi, Laws.advanceAll_step _, fun h => ?_⟩⟩
  · cases hp : s.curB.pairPending a.toNat with
    | true => exact ⟨_, Laws.exec_twait hi, fun _ => by rw [if_pos hp]; exact Laws.waitIssued_step s _, nofun⟩
    | false =>
      refine ⟨_, Laws.exec_twait hi, nofun, fun _ => ?_⟩
      rw [if_neg (by simp [hp])]
      exact Laws.observe_advance s a
  · rw [Laws.stampRing_none h]
    exact Laws.advanceAll_step s

end Sys2Proof.Claims
end

section
/-! Words that post an engine command (R252, R253): what a word in CHECKING leaves behind, and the records and blocks that describe commands. -/
namespace Sys2Proof.Laws
open Sys2Proof.Machine Sys2Proof.Claims

/-! ### The command of a posting word -/

/-- The model's command of a word is that of the statements. -/
theorem newCmd_eq_posted (s : State) (d : BitVec 6) (x : CmdSpec) (q slot : Nat) (stamp retire : Bool) :
    s.newCmd d x q slot stamp retire = posted s d x q slot stamp retire := by
  cases x <;> rfl

/-- The lines that a command names follow from teams, packs and the width of its bundle. -/
theorem ownLines_congr {s u : State} {c : Cmd} (ht : u.teams = s.teams) (hp : u.packs = s.packs)
    (hw : (u.bundle c.bundle).w = (s.bundle c.bundle).w) : u.ownLines c = s.ownLines c := by
  simp only [State.ownLines, State.cmdLines, State.cmdStash, State.teamOfRank, State.team, State.pack, ht, hp, hw]

/-- Whether a line holds its data follows from teams. -/
theorem lineReady_congr {s u : State} (ht : u.teams = s.teams) (t a : Nat) : u.lineReady t a = s.lineReady t a := by
  simp only [State.lineReady, State.team, ht]

/-- A state with other stamp slots. -/
def withStamps (s : State) (ss : List StampSlot) : State := { s with stamps := ss }

/-- A stamp changes the stamp slots alone (R271). -/
theorem stampAt_stamps (s : State) (c : Cmd) (n : Nat) (now : DWord) : ∃ ss, s.stampAt c n now = withStamps s ss := by
  unfold State.stampAt
  split
  · exact ⟨s.stamps, rfl⟩
  · exact ⟨_, rfl⟩

/-- A stamp under a condition. -/
theorem stampIf_stamps (s : State) (c : Cmd) (n : Nat) (p : Prop) [Decidable p] : ∃ ss, (if p then s.stampCmd c n else s) = withStamps s ss := by
  split
  · exact stampAt_stamps s c n s.clk
  · exact ⟨s.stamps, rfl⟩

/-! ### CHECKING (R252) -/

/-- A word in CHECKING whose lines are all there, and were not yet, is ready now (R271). -/
theorem readyPosting_ready {s : State} {b : Nat} {p : Posting} (hp : (s.bundle b).posting = some p) (hr : p.ready = none)
    (hl : ∀ a ∈ s.ownLines p.cmd, s.lineReady p.cmd.team a = true) :
    ∃ ss, s.readyPosting b = (withStamps s ss).modBundle b (fun x => { x with posting := some { p with ready := some s.clk } }) := by
  obtain ⟨ss, hss⟩ := stampIf_stamps s p.cmd 3 (p.cmd.spec.kind == 1)
  refine ⟨ss, ?_⟩
  unfold State.readyPosting
  simp only [hp, List.all_eq_true.mpr hl, hr, hss]

/-- A bundle whose lanes `m` wait for the command `c` of their posting word. -/
def posts (m : BitVec 64) (c : Cmd) (r : Option DWord) (x : Bundle) : Bundle :=
  { x with
    posting := some ⟨m, c, r⟩
    threads := x.threads.mapIdx (fun l th => if m.getLsbD l then { th with st := .waiting .posting } else th) }

/-- A posting word all of whose checks pass, and whose lines are there, waits in CHECKING. -/
theorem post_posts {s : State} {c : Cmd} {pins : List Pin} (hb : s.cur.bundle < s.bundles.length) (hcb : c.bundle = s.cur.bundle)
    (hpins : s.pinGlobals (s.cmdCore c) c.asid c.stream c.spec.pages = (s, .inr pins)) (hlines : linesReady s c) :
    ∃ ss, s.post c = (withStamps s ss).modBundle s.cur.bundle (posts s.cur.lanes c (some s.clk)) := by
  obtain ⟨hready, hrequest⟩ := hlines
  obtain ⟨ss, hss⟩ := stampIf_stamps s c 2 (c.spec.kind == 1)
  let u : State := (withStamps s ss).modBundle s.cur.bundle (posts s.cur.lanes c none)
  have hwait : ((withStamps s ss).modBundle s.cur.bundle (fun b => { b with posting := some ⟨s.cur.lanes, c, none⟩ })).waitIssued
      .posting = u := modBundle_modBundle _ _ _ _
  have hpost : s.post c = u.readyPosting s.cur.bundle := by
    unfold State.post
    simp only [hpins, hrequest, hss]
    exact congrArg (State.readyPosting · s.cur.bundle) hwait
  have hu : u.bundle s.cur.bundle = posts s.cur.lanes c none s.curB := (bundle_modBundle _ _ _).trans (if_pos hb)
  have hlines (a : Nat) (ha : a ∈ u.ownLines c) : u.lineReady c.team a = true := by
    rw [ownLines_congr (s := s) (u := u) rfl rfl (by rw [hcb, hu]; rfl)] at ha
    exact (lineReady_congr (s := s) rfl _ _).trans (hready a ha)
  obtain ⟨ss', hmark⟩ := readyPosting_ready (p := ⟨s.cur.lanes, c, none⟩) (by rw [hu]; rfl) rfl hlines
  exact ⟨ss', hpost.trans (hmark.trans (modBundle_modBundle (withStamps s ss') _ (posts s.cur.lanes c none) _))⟩

/-- What a posting word leaves that waits in CHECKING. -/
theorem checking_posts {s : State} {c : Cmd} (ss : List StampSlot) (hb : s.cur.bundle < s.bundles.length) :
    Checking s ((withStamps s ss).modBundle s.cur.bundle (posts s.cur.lanes c (some s.clk))) c := by
  have hcurB : ((withStamps s ss).modBundle s.cur.bundle (posts s.cur.lanes c (some s.clk))).curB =
      posts s.cur.lanes c (some s.clk) s.curB := (bundle_modBundle _ _ _).trans (if_pos hb)
  exact ⟨rfl, fun i hi => bundle_modBundle_ne _ _ i _ hi, by rw [hcurB]; rfl, by rw [hcurB]; rfl, by rw [hcurB]; rfl⟩

/-- A posting word whose pages and lines are there waits in CHECKING. -/
theorem post_checking {s : State} {d : BitVec 6} {x : CmdSpec} {q slot : Nat} {stamp retire : Bool} (hb : s.cur.bundle < s.bundles.length)
    (hpages : pagesReady s q x) (hlines : linesReady s (posted s d x q 0 false false)) :
    Checking s (s.post (s.newCmd d x q slot stamp retire)) (posted s d x q slot stamp retire) := by
  obtain ⟨pins, hpins⟩ := hpages
  obtain ⟨ss, hss⟩ := post_posts (c := posted s d x q slot stamp retire) hb rfl hpins hlines
  rw [newCmd_eq_posted, hss]
  exact checking_posts ss hb

/-- A posting word that issues, whose operands have their tags, does what it does where no other word of its bundle is in CHECKING. -/
theorem exec_posting {s t : State} {i : Instr} {us : List Use} {f : State → State} (he : exec i s = s.word i (fun s => s.posting us f))
    (hi : s.issues i) (hu : s.uniTrap us = none) (hp : s.curB.posting = none) (ht : f s = t) : exec i s = .next t :=
  exec_issues_eq he hi (by simp only [State.posting, State.uniWord, hu, hp, Option.isSome_none, Bool.false_eq_true, if_false, ht])

/-- A state that differs in the order of accesses has as many bundles. -/
theorem bundle_lt_of_bare {s m : State} (h : m.bare = s.bare) (hb : s.cur.bundle < s.bundles.length) : m.cur.bundle < m.bundles.length := by
  have hcur : m.bare.cur = s.bare.cur := by rw [h]
  have hlen := congrArg (fun x : State => x.bundles.length) h
  simp only [State.bare, List.length_map] at hlen
  rw [bare_cur, bare_cur] at hcur
  rwa [hcur, hlen]

/-! ### CPY (R256, R257) -/

/-- A shape record that describes a copy has its fields. -/
theorem copyFields_of_record {bs : List Byte} {x : CopySpec} (h : copyOfRecord bs = some x) : copyFields bs x := by
  unfold copyOfRecord at h
  dsimp only at h
  split at h
  · cases h
  · obtain ⟨hbad, ⟨⟩⟩ := Option.ite_none_left_eq_some.mp h
    simp only [Bool.or_eq_true, not_or, bne_iff_ne, ne_eq, Decidable.not_not] at hbad
    obtain ⟨⟨⟨⟨-, hzero⟩, hrow⟩, -⟩, -⟩ := hbad
    exact ⟨rfl, rfl, rfl, rfl, rfl, rfl, rfl, hrow, hzero⟩

/-- `cpy` whose record describes a copy that passes the checks (R253). -/
theorem exec_cpy {s m : State} {d a : BitVec 6} {bs : List Byte} {x : CopySpec} (hi : s.issues (.cpy d a))
    (hu : s.uniTrap [⟨a.toNat, 2, .any⟩] = none) (hp : s.curB.posting = none) (hal : (s.u64 a).toNat % 32 = 0)
    (hr : s.readBlock .engineRead (s.u64 a) 4 = (m, .ok bs)) (hx : copyOfRecord bs = some x) (ht : m.copyTrap x (field bs 27 1) = none) :
    exec (.cpy d a) s = .next (m.post (m.newCmd d (.copy x) (field bs 27 1) (field bs 28 2 / 16 % 16)
      (decide (field bs 28 2 / 256 % 2 = 1)) (decide (field bs 28 2 / 512 % 2 = 1)))) := by
  refine exec_posting (by rfl) hi hu hp ?_
  rw [if_neg (by simp [hal])]
  simp only [hr, State.uniNow, hx]
  rw [show m.copyTrap x (ofBytes ((bs.drop 27).take 1)) = none from ht]
  rfl

/-! ### MMPOST (R259 to R262) -/

/-- A parameter block that describes a matrix post gives it its time (R262). -/
theorem matTime_of_block {w : Nat} {p : Nat → Word} {m : MatSpec} (h : matOfBlock w p = some m) :
    m.time = 16 + (w * m.cols * m.k + matRate m.afmt - 1) / matRate m.afmt ∧ m.time ≤ 512 := by
  unfold matOfBlock at h
  obtain ⟨hbad, ⟨⟩⟩ := Option.ite_none_left_eq_some.mp h
  rw [Bool.or_eq_true, not_or, decide_eq_true_eq] at hbad
  exact ⟨rfl, not_lt.mp hbad.2⟩

/-- `mmpost` whose block describes a post that passes the checks (R253). -/
theorem exec_mmpost {s : State} {d a : BitVec 6} {p : Nat → Word} {m : MatSpec} (hi : s.issues (.mmpost d a))
    (hu : s.uniTrap [⟨a.toNat, 8, .int⟩] = none) (hp : s.curB.posting = none) (hw : s.curB.w ≠ 16)
    (he : p = fun i => (s.readS s.cur.bundle (a.toNat + i)).val) (hm : matOfBlock s.curB.w p = some m)
    (hl : ∀ l < s.curB.threads.length, s.matLaneTrap m l = none) (ht : s.matStashTrap m = none) :
    exec (.mmpost d a) s = .next (s.post (s.newCmd d (.matrix m) 0 ((p 0).toNat / 2 ^ 20 % 16) ((p 0).getLsbD 24) ((p 0).getLsbD 25))) := by
  have hlanes : (indices s.curB.threads).findSome? (s.matLaneTrap m) = none :=
    List.findSome?_eq_none_iff.mpr fun l h => hl l (by simpa [indices] using h)
  have hbit (k : Nat) : (bitsAt (p 0).toNat k 1 == 1) = (p 0).getLsbD k := by
    rw [Bool.eq_iff_iff, beq_iff_eq]
    simp [bitsAt, BitVec.getLsbD, Nat.testBit, Nat.shiftRight_eq_div_pow]
  subst he
  refine exec_posting (by rfl) hi hu hp ?_
  simp only [hm, hlanes, ht, beq_iff_eq, hw, if_false, ← hbit]
  rfl

/-! ### COLL (R269, R270) -/

/-- A block that describes a collective gives it its fields. -/
theorem collFields_of_block {bs : List Byte} {x : CollSpec} {table : DWord} (h : collOfBlock bs = some (x, table)) :
    x.send = BitVec.ofNat 64 (field bs 0 8) ∧ x.recv = BitVec.ofNat 64 (field bs 8 8) ∧ x.count = field bs 16 8 ∧
      x.rank = field bs 38 2 ∧ x.kind = field bs 40 1 ∧ x.rop = field bs 41 1 := by
  unfold collOfBlock at h
  obtain ⟨-, ⟨⟩⟩ := Option.ite_none_left_eq_some.mp h
  exact ⟨rfl, rfl, rfl, rfl, rfl, rfl⟩

/-- The entries of a member table of `n` members (R269). -/
def memberEntries (ts : List Byte) (n : Nat) : List Nat := (List.range n).map (fun i => field ts (2 * i) 2)

/-- A side of a collective passes the checks of its place (R253): its alignment and its range. -/
structure CollSide (x : CollSpec) (a n : Nat) : Prop where
  aligned : a % (collElement x.fmt.toNat).getD 1 = 0
  inside : a + n ≤ 2 ^ 56
  apart : rangesMeet a n 0xFFFF0000000000 (2 ^ 40) = false

/-- A collective passes the checks of R253 that its block and its member table decide. -/
structure CollPasses (n : State) (x : CollSpec) (table : DWord) (raw : List Nat) (q : Nat) : Prop where
  members : n.badMembers x raw = false
  stream : n.versioned n.curTeam = true → n.streamDirect n.cur.bundle q = true
  send : CollSide x x.send.toNat x.sizes.1
  recv : CollSide x x.recv.toNat x.sizes.2
  pages : (pagesOf [(x.send.toNat, x.sizes.1), (x.recv.toNat, x.sizes.2), (table.toNat, 2 * raw.length)]).length ≤ 1024

/-- The sides of a collective do not depend on which its members are. -/
theorem sizes_members (x : CollSpec) (ms : List (BitVec 9)) (h : ms.length = x.members.length) : ({ x with members := ms } : CollSpec).sizes = x.sizes := by
  simp only [CollSpec.sizes, h]

/-- `coll` whose block describes a collective that passes the checks (R253). -/
theorem exec_coll {s m n : State} {d a : BitVec 6} {bs ts : List Byte} {x : CollSpec} {table : DWord} (hi : s.issues (.coll d a))
    (hu : s.uniTrap [⟨a.toNat, 2, .any⟩] = none) (hp : s.curB.posting = none) (hal : (s.u64 a).toNat % 64 = 0)
    (hr : s.readBlock .engineRead (s.u64 a) 8 = (m, .ok bs)) (hx : collOfBlock bs = some (x, table))
    (ht : m.readTable table x.members.length = (n, .ok ts))
    (hc : CollPasses n x table (memberEntries ts x.members.length) (field bs 43 1)) :
    exec (.coll d a) s = .next (n.post (n.newCmd d
      (.coll { x with members := (memberEntries ts x.members.length).map (BitVec.ofNat 9) }) (field bs 43 1) 0 false false)) := by
  refine exec_posting (by rfl) hi hu hp ?_
  have hsizes := sizes_members x
    (((List.range x.members.length).map (fun i => ofBytes ((ts.drop (2 * i)).take 2))).map (BitVec.ofNat 9)) (by simp)
  obtain ⟨hmembers, hstream, ⟨hsa, hsi, hsm⟩, ⟨hra, hri, hrm⟩, hpages⟩ := hc
  have hver : (n.versioned n.curTeam && !n.streamDirect n.cur.bundle (field bs 43 1)) = false := by
    cases hv : n.versioned n.curTeam with
    | false => rfl
    | true => simp [hstream hv]
  rw [if_neg (by simp [hal])]
  simp only [hr, State.uniNow, hx, ht]
  change (if n.badMembers x (memberEntries ts x.members.length) || (n.versioned n.curTeam && !n.streamDirect n.cur.bundle (field bs 43 1)) then _ else _) = _
  rw [hmembers, hver, if_neg (by decide)]
  have hsm : rangesMeet x.send.toNat x.sizes.1 privateBase (2 ^ 40) = false := hsm
  have hrm : rangesMeet x.recv.toNat x.sizes.2 privateBase (2 ^ 40) = false := hrm
  have hpages : ¬ (pagesOf [(x.send.toNat, x.sizes.1), (x.recv.toNat, x.sizes.2), (table.toNat,
    2 * ((List.range x.members.length).map (fun i => ofBytes ((ts.drop (2 * i)).take 2))).length)]).length > 1024 := not_lt.mpr hpages
  simp only [hsizes, hsa, hra, hsm, hrm, decide_eq_false (not_lt.mpr hsi), decide_eq_false (not_lt.mpr hri), bne_self_eq_false,
    Bool.or_false, Bool.false_eq_true, if_false, if_neg hpages]
  rfl

end Sys2Proof.Laws

namespace Sys2Proof.Claims
open Sys2Proof.Machine

/-- Settles O19: words that post an engine command (R252, R253). -/
theorem postingWords : Obligations.PostingWords := by
  unfold Obligations.PostingWords
  refine ⟨fun s m d a bs x hi hb hu hp hal hr hbare hx ht hpages hlines => ?cpy, fun s d a p m hi hb hu hp hw he hm hl ht hlines => ?mmpost,
    fun s m n d a bs ts x y table hi hb hu hp hal hr hx ht hbare hmem hver hsa hra hsi hri hsm hrm hpg hy hpages => ?coll⟩
  case cpy =>
    exact ⟨_, Laws.exec_cpy hi hu hp hal hr hx ht, Laws.copyFields_of_record hx,
      Laws.post_checking (Laws.bundle_lt_of_bare hbare hb) hpages hlines⟩
  case mmpost =>
    exact ⟨_, Laws.exec_mmpost hi hu hp hw he hm hl ht, Laws.post_checking hb ⟨[], rfl⟩ hlines, Laws.matTime_of_block hm⟩
  case coll =>
    have hraw : y = { x with members := (Laws.memberEntries ts x.members.length).map (BitVec.ofNat 9) } := by
      rw [hy, Laws.memberEntries, List.map_map]
      rfl
    have hexec := Laws.exec_coll hi hu hp hal hr hx ht ⟨hmem, hver, ⟨hsa, hsi, hsm⟩, ⟨hra, hri, hrm⟩, by simpa [Laws.memberEntries] using hpg⟩
    rw [← hraw] at hexec
    exact ⟨_, hexec, Laws.post_checking (Laws.bundle_lt_of_bare hbare hb) hpages ⟨by simp [State.ownLines, State.cmdLines, State.cmdStash, posted], rfl⟩,
      Laws.collFields_of_block hx⟩

end Sys2Proof.Claims
end

section
/-! What a record of the stamp ring leaves as it was (R272): it is written with accesses of a context's memory, which may send stash lines home
and publish versions (R240, R311), but no command, no uniform register and no wait for a token changes by it. -/
namespace Sys2Proof.Laws
open Sys2Proof.Machine Sys2Proof.Claims

/-! ### Commands, uniform registers and waits for tokens -/

/-- The pair whose token a thread waits for (R267). -/
def tokenWait : TState → Option Nat
  | .waiting (.token r) => some r
  | _ => none

/-- A bundle's uniform registers, and the tokens that its threads wait for. -/
def tokenPart (x : Bundle) : List Reg × List (Option Nat) := (x.s, x.threads.map (fun t => tokenWait t.st))

/-- Two states agree in the commands, the uniform registers, and the tokens that threads wait for. -/
structure SameTokens (s u : State) : Prop where
  cmds : u.cmds = s.cmds
  bundles : u.bundles.map tokenPart = s.bundles.map tokenPart

/-- What `State.syncSent` makes of a thread. -/
def syncSentThread (w : Window) (l : Line) (mask : BitVec 128) (ver : Option Nat) (x : Thread) : Thread :=
  match x.st with
  | .waiting y => { x with st := .waiting (y.sent (w.base.toNat + 128 * l.num) l.pa mask ver) }
  | _ => x

theorem tokenWait_syncSentThread (w l mask ver) (x : Thread) : tokenWait (syncSentThread w l mask ver x).st = tokenWait x.st := by
  unfold syncSentThread
  split
  next y e =>
    rw [e]
    cases y <;> rfl
  · rfl

theorem tokenPart_leaveVersion (t : Nat) (x : Bundle) : tokenPart (Bundle.leaveVersion t x) = tokenPart x := by
  unfold Bundle.leaveVersion
  split
  · rfl
  · simp [tokenPart, Function.comp_def, Thread.leaveVersion]

namespace SameTokens
variable {s u : State}

theorem refl (s : State) : SameTokens s s := ⟨rfl, rfl⟩

theorem part (h : SameTokens s u) (b : Nat) : tokenPart (u.bundle b) = tokenPart (s.bundle b) := by
  simp only [State.bundle, List.getD_eq_getElem?_getD, ← Option.getD_map tokenPart, ← List.getElem?_map, h.bundles]

theorem regs (h : SameTokens s u) (b : Nat) : (u.bundle b).s = (s.bundle b).s := congrArg Prod.fst (h.part b)

theorem wait (h : SameTokens s u) (b l : Nat) : tokenWait (u.thread b l).st = tokenWait (s.thread b l).st := by
  have part (x : State) : tokenWait (x.thread b l).st = (tokenPart (x.bundle b)).2.getD l none := by
    simp only [tokenPart, State.thread, Bundle.thread, List.getD_eq_getElem?_getD, List.getElem?_map]
    cases (x.bundle b).threads[l]? <;> rfl
  rw [part, part, h.part]

/-- What a function answers beside the state does not matter. -/
theorem of_eq {α : Type} {p : State × α} {x : α} (e : p = (u, x)) (h : SameTokens s p.1) : SameTokens s u := by
  subst e
  exact h

theorem ite {v : State} {c : Prop} [Decidable c] (hu : SameTokens s u) (hv : SameTokens s v) : SameTokens s (if c then u else v) := by
  split <;> assumption

theorem ite_fst {α : Type} {p q : State × α} {c : Prop} [Decidable c] (hp : SameTokens s p.1) (hq : SameTokens s q.1) :
    SameTokens s (if c then p else q).1 := by
  split <;> assumption

theorem foldl {α : Type} {f : State → α → State} {l : List α} (h : SameTokens s u)
    (hf : ∀ {u x}, SameTokens s u → SameTokens s (f u x)) : SameTokens s (l.foldl f u) :=
  List.foldlRecOn (motive := SameTokens s) l f h fun _ hu _ _ => hf hu

/-- A change of bundles that keeps the part of each. -/
theorem mapBundles (h : SameTokens s u) {f : Bundle → Bundle} (hf : ∀ x, tokenPart (f x) = tokenPart x) :
    SameTokens s { u with bundles := u.bundles.map f } :=
  ⟨h.cmds, by simpa [Function.comp_def, hf] using h.bundles⟩

/-! ### Physical memory, versions and stash copies (R239 to R241, R310 to R312) -/

theorem memWrite {pa bs} (h : SameTokens s u) : SameTokens s (u.memWrite pa bs) := .ite ⟨h.cmds, h.bundles⟩ h

theorem modTeam {t f} (h : SameTokens s u) : SameTokens s (u.modTeam t f) := ⟨h.cmds, h.bundles⟩

theorem homePut {ver pa bs} (h : SameTokens s u) : SameTokens s (u.homePut ver pa bs) := by
  unfold State.homePut
  split
  · exact h.memWrite
  · exact .ite h.modTeam h.memWrite

theorem cur {c} (h : SameTokens s u) : SameTokens s { u with cur := c } := ⟨h.cmds, h.bundles⟩

theorem syncSent {t w l mask} (h : SameTokens s u) : SameTokens s (u.syncSent t w l mask) := by
  refine (h.mapBundles (f := fun x => if x.team == some t then { x with threads := x.threads.map (syncSentThread w l mask (u.winVer t w)) } else x)
    fun x => ?_).cur
  split
  · simp [tokenPart, Function.comp_def, tokenWait_syncSentThread]
  · rfl

theorem sendBy {put t w l mask} (h : SameTokens s u) (hput : ∀ {u x y z}, SameTokens s u → SameTokens s (put u x y z)) :
    SameTokens s (State.sendBy put u t w l mask) := .ite h (h.foldl hput).syncSent

theorem recallBy {put pa store skip} (h : SameTokens s u) (hput : ∀ {u x y z}, SameTokens s u → SameTokens s (put u x y z)) :
    SameTokens s (State.recallBy put u pa store skip).1 :=
  (h.foldl fun h => h.sendBy hput).foldl fun h => .ite h.modTeam h.modTeam

theorem publishEarlyBy {put t} (h : SameTokens s u) (hput : ∀ {u x y z}, SameTokens s u → SameTokens s (put u x y z)) :
    SameTokens s (State.publishEarlyBy put u t) := by
  have hpub : SameTokens s (State.publishBy put u t) := ((h.foldl fun h => h.recallBy hput).foldl fun h => h.memWrite).modTeam
  have hleft := hpub.modTeam (t := t) (f := fun x => { x with ver := { x.ver with st := .early, drain := true } })
    |>.mapBundles (f := Bundle.leaveVersion t) (tokenPart_leaveVersion t)
  exact ⟨hleft.cmds, hleft.bundles⟩

theorem writeHome {n busy ver pa bs} (h : SameTokens s u) : SameTokens s (u.writeHome n busy ver pa bs) := by
  induction n generalizing u busy ver pa bs with
  | zero => exact h.homePut
  | succ n ih =>
    unfold State.writeHome
    split
    · exact h.memWrite
    · exact .ite (h.publishEarlyBy ih).memWrite h.homePut

theorem recalled {pa store skip} (h : SameTokens s u) : SameTokens s (u.recall pa store skip).1 := h.recallBy fun h => h.writeHome

theorem outsideWrite {ver pa bs} (h : SameTokens s u) : SameTokens s (u.outsideWrite ver pa bs) := h.recalled.writeHome

theorem physRead {pa n} (h : SameTokens s u) : SameTokens s (u.physRead pa n).1 := h.recalled

theorem physWrite {pa n v} (h : SameTokens s u) : SameTokens s (u.physWrite pa n v) := h.outsideWrite

/-! ### Walks and a context's memory (R322 to R328, R272) -/

theorem walkFrom {place asid va ls table es} (h : SameTokens s u) : SameTokens s (u.walkFrom place asid va ls table es).1 := by
  induction ls generalizing u table es with
  | nil => exact h
  | cons l ls ih =>
    unfold State.walkFrom
    split
    · exact ih h
    · dsimp only
      simp only [apply_ite Prod.fst]
      exact .ite h (.ite h (.ite h.physRead (.ite h.physRead (.ite h.physRead (ih h.physRead)))))

theorem walkFill {place asid va store} (h : SameTokens s u) : SameTokens s (u.walkFill place asid va store).1 := by
  unfold State.walkFill
  split
  next e => exact .of_eq e h.walkFrom
  next e =>
    have h := SameTokens.of_eq e h.walkFrom
    have hw {c : Prop} [Decidable c] {pa n v} := h.ite (c := c) (h.physWrite (pa := pa) (n := n) (v := v))
    exact ⟨hw.cmds, hw.bundles⟩

theorem xlate {place asid va k} (h : SameTokens s u) : SameTokens s (u.xlate place asid va k).1 := by
  unfold State.xlate
  dsimp only
  split
  · exact .ite h ⟨h.cmds, h.bundles⟩
  · split
    · exact h
    · split <;> next e => exact .of_eq e h.walkFill

theorem virtLook {asid va n} (h : SameTokens s u) : SameTokens s (u.virtLook asid va n).1 := by
  unfold State.virtLook
  split
  · exact h
  · split
    next e =>
      have h := SameTokens.of_eq e h.xlate
      simp only [apply_ite Prod.fst]
      exact .ite h (.ite h (.ite (.ite h h.physRead) h))
    next e => exact .of_eq e h.xlate

theorem virtRead {asid va n} (h : SameTokens s u) : SameTokens s (u.virtRead asid va n).1 := h.virtLook

theorem virtWrite {asid va n v} (h : SameTokens s u) : SameTokens s (u.virtWrite asid va n v).1 := by
  unfold State.virtWrite
  split
  · exact h
  · split
    next e =>
      have h := SameTokens.of_eq e h.xlate
      exact .ite_fst h.physWrite h
    next e => exact .of_eq e h.xlate

theorem virtStore {asid va ps} (h : SameTokens s u) : SameTokens s (u.virtStore asid va ps).1 := by
  induction ps generalizing u va with
  | nil => exact h
  | cons p ps ih =>
    unfold State.virtStore
    split
    next e => exact ih (.of_eq e h.virtWrite)
    next e => exact .of_eq e h.virtWrite

theorem virtFields {asid fs} (h : SameTokens s u) : SameTokens s (u.virtFields asid fs).1 := by
  induction fs generalizing u with
  | nil => exact h
  | cons f fs ih =>
    unfold State.virtFields
    split
    next e =>
      have h := ih (.of_eq e h.virtRead)
      split
      next e => exact .of_eq e h
      · exact h
    next e => exact .of_eq e h.virtRead

/-! ### The stamp ring (R272) -/

theorem stampDrop {asid d} (h : SameTokens s u) : SameTokens s (u.stampDrop asid d) := by
  unfold State.stampDrop
  split
  next e => exact (SameTokens.of_eq e h.virtRead).virtWrite
  next e => exact .of_eq e h.virtRead

theorem stampRing {asid bs} (h : SameTokens s u) : SameTokens s (u.stampRing asid bs) := by
  refine .ite h ?_
  split
  next e =>
    have h := SameTokens.of_eq e h.virtFields
    refine .ite h (.ite h.stampDrop ?_)
    split
    next e => exact (SameTokens.of_eq e h.virtStore).virtWrite
    next e => exact (SameTokens.of_eq e h.virtStore).stampDrop
  next e => exact .of_eq e h.virtFields

end SameTokens

end Sys2Proof.Laws
end

section
/-! The engines (R252, R257, R262, R270): how a command starts, and how one ends, with its token, its stamps and the threads that wait for it. -/
namespace Sys2Proof.Laws
open Sys2Proof.Machine Sys2Proof.Claims

/-! ### Threads that wait for a token (R267) -/

/-- The register whose pair a thread of a bundle waits for, once it is no longer PEND. -/
def tokenDue (x : Bundle) (l : Nat) : Option Nat :=
  match (x.thread l).st with
  | .waiting (.token r) => if x.pairPending r then none else some r
  | _ => none

/-- A thread that waits for no token. -/
theorem tokenWait_eq_none {w : TState} (h : ∀ r, w ≠ .waiting (.token r)) : tokenWait w = none := by
  unfold tokenWait
  split
  · exact absurd rfl (h _)
  · rfl

/-- The threads of a bundle whose token is there. -/
def tokenLanes (x : Bundle) : List Nat := (indices x.threads).filter (fun l => (tokenDue x l).isSome)

/-- `wakeToken` as its changes. -/
theorem wakeToken_changes (s : State) (b : Nat) : s.wakeToken b =
    if (tokenLanes (s.bundle b)).isEmpty then s else
      ((tokenLanes (s.bundle b)).foldl (fun s l => s.modThread b l (fun t => (t.advance t.pc).wake)) s).observe b
        ((tokenLanes (s.bundle b)).filterMap (tokenDue (s.bundle b))) (tokenLanes (s.bundle b)) := rfl

/-- Where no thread waits for a token, none goes on. -/
theorem wakeToken_none {s : State} {b : Nat} (h : ∀ l, tokenWait (s.thread b l).st = none) : s.wakeToken b = s := by
  have hnone (l : Nat) : tokenDue (s.bundle b) l = none := by
    unfold tokenDue
    split
    next r e => exact absurd ((congrArg tokenWait e).symm.trans (h l)) (by simp [tokenWait])
    · rfl
  rw [wakeToken_changes, if_pos]
  simp [tokenLanes, hnone]

/-- What the threads that go on change: their bundle, whose uniform registers stay, and the commands that they observe. -/
theorem wakeToken_eq (s : State) (b : Nat) :
    ∃ u regs, BundleKeeps Bundle.s b s u ∧ s.wakeToken b = withCmds u (s.cmds.map (afterObserve b regs)) := by
  rw [wakeToken_changes]
  split
  · refine ⟨s, [], .refl Bundle.s b s, ?_⟩
    have hnone (c : Cmd) : afterObserve b [] c = c := by simp [afterObserve, observable]
    rw [funext hnone, List.map_id']
    rfl
  · have hwoken : BundleKeeps Bundle.s b s ((tokenLanes (s.bundle b)).foldl (fun s l => s.modThread b l (fun t => (t.advance t.pc).wake)) s) :=
      List.foldlRecOn (motive := BundleKeeps Bundle.s b s) _ _ (.refl Bundle.s b s) fun u hu l _ =>
        hu.modBundle (G := fun x => x.modThread l (fun t => (t.advance t.pc).wake)) fun _ => rfl
    obtain ⟨v, hv, hobserve⟩ := observe_eq _ b ((tokenLanes (s.bundle b)).filterMap (tokenDue (s.bundle b))) (tokenLanes (s.bundle b))
    refine ⟨v, (tokenLanes (s.bundle b)).filterMap (tokenDue (s.bundle b)), hwoken.trans (hv.comp Prod.fst), hobserve.trans ?_⟩
    obtain ⟨F, -, hF⟩ := hwoken
    rw [hF]
    rfl

/-! ### The end of a command (R250, R252, R271) -/

/-- The record of a command that retires its slot goes to the ring, once the slot is clear; another command has none. -/
theorem retireStamp_eq (s : State) (c : Cmd) :
    ∃ bs ss, s.retireStamp c = if c.retire then (withStamps s ss).stampRing c.asid bs else withStamps s ss := by
  unfold State.retireStamp
  cases c.retire with
  | false => exact ⟨[], s.stamps, rfl⟩
  | true => exact ⟨_, _, rfl⟩

/-- The fields of a token lie beside each other. -/
theorem token_fields {r o f q : Nat} (ho : o ≤ 1) (hr : r < 8) (hf : f < 32) (hq : q < 2 ^ 48) :
    2 ^ 63 + r * 2 ^ 60 + 2 ^ 59 * o + f * 2 ^ 48 + q = 2 ^ 63 * 1 ||| (2 ^ 60 * r ||| (2 ^ 59 * o ||| (2 ^ 48 * f ||| q))) := by
  rw [← Nat.two_pow_add_eq_or_of_lt hq, ← Nat.two_pow_add_eq_or_of_lt (i := 59) (by omega), ← Nat.two_pow_add_eq_or_of_lt (i := 60) (by omega),
    ← Nat.two_pow_add_eq_or_of_lt (i := 63) (by omega)]
  omega

/-- A field of a token, at its place. -/
theorem toNat_field {n k : Nat} (x : BitVec n) (hn : n + k ≤ 64) : (x.setWidth 64 <<< k).toNat = 2 ^ k * x.toNat := by
  have hlt : 2 ^ k * x.toNat < 2 ^ 64 := calc
    2 ^ k * x.toNat < 2 ^ k * 2 ^ n := Nat.mul_lt_mul_of_pos_left x.isLt (Nat.two_pow_pos k)
    _ = 2 ^ (n + k) := by rw [← Nat.pow_add, Nat.add_comm]
    _ ≤ 2 ^ 64 := Nat.pow_le_pow_right (by omega) hn
  rw [BitVec.toNat_shiftLeft, BitVec.toNat_setWidth_of_le (by omega), Nat.shiftLeft_eq, Nat.mul_comm, Nat.mod_eq_of_lt hlt]

/-- The model's token of a command is that of R250. -/
theorem tokenValue_eq (c : Cmd) : c.tokenValue = token c := by
  have hone : (1#64 <<< 63).toNat = 2 ^ 63 * 1 := by decide
  have hovl : (if c.sizeovl then 1#64 <<< 59 else 0).toNat = 2 ^ 59 * c.sizeovl.toNat := by cases c.sizeovl <;> decide
  have hovl' : (if c.sizeovl then 2 ^ 59 else 0) = 2 ^ 59 * c.sizeovl.toNat := by cases c.sizeovl <;> decide
  have hr := c.result.isLt
  have hf := c.flags.isLt
  have hq := c.seq.isLt
  have ho := Bool.toNat_le c.sizeovl
  refine BitVec.eq_of_toNat_eq ?_
  calc c.tokenValue.toNat
    _ = 2 ^ 63 + c.result.toNat * 2 ^ 60 + 2 ^ 59 * c.sizeovl.toNat + c.flags.toNat * 2 ^ 48 + c.seq.toNat := by
      rw [Cmd.tokenValue, BitVec.toNat_ofNat, hovl', Nat.mod_eq_of_lt (by omega)]
    _ = _ := token_fields ho hr hf hq
    _ = (token c).toNat := by
      rw [token, BitVec.toNat_or, BitVec.toNat_or, BitVec.toNat_or, BitVec.toNat_or, hone, hovl, toNat_field (k := 60) _ (by decide),
        toNat_field (k := 48) _ (by decide), BitVec.toNat_setWidth_of_le (by decide), Nat.or_assoc, Nat.or_assoc, Nat.or_assoc]

/-- The token pair of a command, written (R250). -/
theorem bundle_token (x : Bundle) (c : Cmd) : x.token c = { x with s := pairInt x.s c.token (token c) } := by
  rw [← tokenValue_eq]
  rfl

/-- A command that is DONE. -/
def finished (c : Cmd) : Cmd := { c with st := .done }

/-- The state once a command is DONE and its token is written, before its record. -/
def tokenWritten (s : State) (i : Nat) (c : Cmd) : State :=
  if c.orphan then s.modCmd i finished else (s.modCmd i finished).modBundle c.bundle (fun b => b.token (finished c))

theorem withStamps_tokenWritten (s : State) (i : Nat) (c : Cmd) (ss : List StampSlot) :
    withStamps (tokenWritten s i c) ss = Claims.ended s i c ss := by
  unfold tokenWritten Claims.ended
  simp only [bundle_token]
  split <;> rfl

/-- How a command ends: DONE, with its token, its record, and the threads that waited for it. -/
theorem finishCmd_eq {s : State} {i : Nat} {c : Cmd} (hc : s.cmd? i = some c) : ∃ bs ss u,
    u = (if c.retire then (Claims.ended s i c ss).stampRing c.asid bs else Claims.ended s i c ss) ∧
    s.finishCmd i = if c.orphan then u else u.wakeToken c.bundle := by
  obtain ⟨bs, ss, hrecord⟩ := retireStamp_eq (tokenWritten s i c) (finished c)
  refine ⟨bs, ss, (tokenWritten s i c).retireStamp (finished c), ?_, ?_⟩
  · exact withStamps_tokenWritten s i c ss ▸ hrecord
  · unfold State.finishCmd tokenWritten
    simp only [hc]
    split <;> rfl

/-- What a record leaves of a state. -/
theorem SameTokens.record (s : State) (retire : Bool) (asid : BitVec 16) (bs : List Byte) :
    SameTokens s (if retire then s.stampRing asid bs else s) := .ite (.stampRing (.refl s)) (.refl s)

/-- The stamp slots that a command ends with are its own. -/
theorem ended_withStamps (s : State) (i : Nat) (c : Cmd) (ss ss' : List StampSlot) :
    Claims.ended (withStamps s ss) i c ss' = Claims.ended s i c ss' := by
  unfold Claims.ended
  split <;> rfl

/-- The command that ends is DONE. -/
theorem cmd?_ended {s : State} {i : Nat} {c : Cmd} (hc : s.cmd? i = some c) (ss : List StampSlot) :
    (Claims.ended s i c ss).cmd? i = some (finished c) := by
  simp only [Claims.ended, State.cmd?, List.getElem?_modify_eq]
  exact congrArg (Option.map finished) hc

/-- The token pair of a command that ends, in its bundle. -/
theorem regs_ended {s : State} {c : Cmd} (hb : c.bundle < s.bundles.length) (i : Nat) (ss : List StampSlot) :
    ((Claims.ended s i c ss).bundle c.bundle).s =
      if c.orphan then (s.bundle c.bundle).s else pairInt (s.bundle c.bundle).s c.token (token c) := by
  unfold Claims.ended
  cases c.orphan with
  | true => rfl
  | false => exact congrArg Bundle.s ((bundle_modBundle s c.bundle _).trans (if_pos hb))

/-- The end of a command moves no thread by itself. -/
theorem thread_ended (s : State) (i : Nat) (c : Cmd) (ss : List StampSlot) (b l : Nat) :
    (Claims.ended s i c ss).thread b l = s.thread b l := by
  unfold Claims.ended
  cases c.orphan with
  | true => rfl
  | false => exact
    bundle_modBundle_view (φ := fun x => x.thread l) (F := fun x => { x with s := pairInt x.s c.token (token c) }) (fun _ => rfl) s c.bundle b

/-- The threads that a command wakes keep the registers of every bundle, and every command but for what they observe. -/
theorem wakeIf_eq (s : State) (b : Nat) (p : Bool) : ∃ u regs, BundleKeeps Bundle.s b s u ∧
    (if p then s else s.wakeToken b) = withCmds u (s.cmds.map (fun c => if p then c else afterObserve b regs c)) := by
  cases p with
  | true => exact ⟨s, [], .refl Bundle.s b s, by simp [withCmds]⟩
  | false => exact wakeToken_eq s b

/-- Of a command, a bundle changes at most whether it has observed it. -/
theorem wakeIf_observed (b : Nat) (regs : List Nat) (p : Bool) (c : Cmd) :
    ∃ o, (if p then c else afterObserve b regs c) = { c with observed := o } := by
  unfold afterObserve
  split
  · exact ⟨c.observed, rfl⟩
  · split
    · exact ⟨true, rfl⟩
    · exact ⟨c.observed, rfl⟩

/-- A running command that ends is the one the statements describe, whatever stamps have been taken. -/
theorem finishCmd_ends (m : State) (ss : List StampSlot) (i : Nat) : CmdEnds m ((withStamps m ss).finishCmd i) i := by
  intro c hc _
  obtain ⟨bs, ss', u, hu, hfinish⟩ := finishCmd_eq (s := withStamps m ss) hc
  rw [ended_withStamps] at hu
  have hsame : SameTokens (Claims.ended m i c ss') u := hu ▸ .record _ _ _ _
  obtain ⟨v, regs, hv, hwake⟩ := wakeIf_eq u c.bundle c.orphan
  have ht := hfinish.trans hwake
  refine ⟨?cmd, fun hb => ?regs, bs, ss', u, hu, ?rest, fun hnone => ?same⟩
  case cmd =>
    have hdone : u.cmds[i]? = some (finished c) := (congrArg (·[i]?) hsame.cmds).trans (cmd?_ended hc ss')
    obtain ⟨o, ho⟩ := wakeIf_observed c.bundle regs c.orphan (finished c)
    exact ⟨o, by rw [ht, State.cmd?, withCmds, List.getElem?_map, hdone, Option.map_some, ho, finished]⟩
  case regs =>
    rw [ht]
    exact (hv.bundle _).trans ((hsame.regs _).trans (regs_ended hb i ss'))
  case rest =>
    rw [ht]
    obtain ⟨F, -, rfl⟩ := hv
    rfl
  case same =>
    rw [hfinish]
    split
    · rfl
    · refine wakeToken_none fun l => ?_
      rw [hsame.wait, thread_ended]
      exact tokenWait_eq_none (hnone l)

end Sys2Proof.Laws
end

section
/-! Copies, matrix posts and collectives (R252, R257, R262, R270), each by its event. -/
namespace Sys2Proof.Laws
open Sys2Proof.Machine Sys2Proof.Claims

/-! ### Commands start (R252, R262) -/

/-- Two changes of a list's entry that agree on it are one. -/
theorem modify_congr_of_getElem? {α : Type} {l : List α} {i : Nat} {a : α} (h : l[i]? = some a) {f g : α → α} (hfg : f a = g a) :
    l.modify i f = l.modify i g := by
  rw [List.modify_eq_set_getElem?, List.modify_eq_set_getElem?, h]
  exact congrArg (l.set i) hfg

/-- COPY_START takes a queued copy, which sends its requests to other nodes. -/
theorem exec_copyStart {s : State} {i : Nat} {c : Cmd} {x : CopySpec} (hc : s.cmd? i = some c) (hx : c.spec = .copy x)
    (hq : c.st = .queued) : exec (.copyStart i) s =
      .next (withCmds s (s.cmds.modify i (fun c => { c with st := .running, sent := s.sentTo (s.farPages c x) }))) := by
  have hexec : exec (.copyStart i) s = .next (s.startCmd i) := by
    change execCopyStart i s = _
    unfold execCopyStart
    simp only [hc, hx, hq, beq_self_eq_true, if_true]
  rw [hexec]
  refine congrArg (fun cs => Host.Outcome.next (withCmds s cs)) (modify_congr_of_getElem? hc ?_)
  simp [State.cmdFar, hx]

/-- An earlier matrix post of the command's core is in its FIFO. -/
def earlierPost (s : State) (i : Nat) (c : Cmd) : Bool :=
  (List.range i).any (fun j => match s.cmd? j with
    | some y => y.spec.kind == 1 && s.cmdCore y == s.cmdCore c && (y.st == .queued || y.st == .running)
    | none => false)

theorem earlierPost_eq_false {s : State} {i : Nat} {c : Cmd}
    (h : ∀ j < i, ∀ y, s.cmd? j = some y → y.spec.kind = 1 → s.cmdCore y = s.cmdCore c → y.st ≠ .queued ∧ y.st ≠ .running) :
    earlierPost s i c = false := by
  refine List.any_eq_false.mpr fun j hj => ?_
  split
  next y hy =>
    simp only [Bool.and_eq_true, beq_iff_eq, Bool.or_eq_true, not_and, not_or, and_imp]
    exact h j (List.mem_range.mp hj) y hy
  next => exact Bool.false_ne_true

/-- The time at which a matrix post that starts ends, where it meets no contention (R271). -/
def matrixDue (s : State) (i : Nat) (m : MatSpec) : Option DWord :=
  if Config.freeBool s.ticks i 271 then none else some (s.clk + BitVec.ofNat 64 m.time)

/-- MATRIX_TURN starts the first post of a FIFO. -/
theorem exec_matrixTurn {s : State} {i : Nat} {c : Cmd} {m : MatSpec} (hc : s.cmd? i = some c) (hm : c.spec = .matrix m)
    (hq : c.st = .queued) (hfirst : earlierPost s i c = false) : ∃ ss, exec (.matrixTurn i) s =
      .next (withStamps (s.modCmd i (fun c => { c with st := .running, due := matrixDue s i m })) ss) := by
  obtain ⟨ss, hss⟩ := stampAt_stamps (s.modCmd i (fun c => { c with st := .running, due := matrixDue s i m })) c 4 s.clk
  have hgo : ¬ (c.st != .queued || earlierPost s i c) = true := by simp [hq, hfirst]
  refine ⟨ss, ?_⟩
  rw [← hss]
  change execMatrixTurn i s = _
  unfold execMatrixTurn
  simp only [hc, hm]
  exact congrArg Host.Outcome.next (if_neg hgo)

/-! ### Commands end (R257, R262, R270) -/

/-- A command that runs ends, after a stamp. -/
theorem stampFinish_ends (m : State) (c : Cmd) (n : Nat) (now : DWord) (i : Nat) : CmdEnds m ((m.stampAt c n now).finishCmd i) i := by
  obtain ⟨ss, h⟩ := stampAt_stamps m c n now
  rw [h]
  exact finishCmd_ends m ss i

/-- A copy that has made its beats ends; one that was cancelled meanwhile does not. -/
theorem copyEnd_ends (m : State) (i : Nat) (c : Cmd) (x : CopySpec) :
    CmdEnds m (m.copyEnd i c x) i ∧ ((∀ y, m.cmd? i = some y → y.st ≠ .running) → m.copyEnd i c x = m) := by
  by_cases hrun : (m.cmd? i).map (·.st) = some .running
  · have hend : m.copyEnd i c x = (m.stampCmd c (if x.dir % 2 == 0 then 1 else 6)).finishCmd i := if_neg (by simpa using hrun)
    obtain ⟨y, hy, hst⟩ := Option.map_eq_some_iff.mp hrun
    exact ⟨hend ▸ stampFinish_ends m c _ m.clk i, fun h => absurd hst (h y hy)⟩
  · exact ⟨fun y hy hst => absurd (by rw [hy, ← hst]; rfl) hrun, fun _ => if_pos (by simpa using hrun)⟩

/-- COPY_DONE makes the beats of a running copy that no watchpoint stops, and ends it. -/
theorem exec_copyDone {s m : State} {i : Nat} {c : Cmd} {x : CopySpec} (hc : s.cmd? i = some c) (hx : c.spec = .copy x)
    (hrun : c.st = .running) (hpause : c.paused = false) (hlost : s.copyLost c x = false)
    (hbeats : (s.handlerBundle (s.bundle c.bundle).pid (s.bundle c.bundle).core = none ∧
        m = (x.beats.drop c.progress).foldl (fun s b => s.copyBeat i c x b) s) ∨
      (s.handlerBundle (s.bundle c.bundle).pid (s.bundle c.bundle).core ≠ none ∧
        s.copyBeats i c x (x.beats.drop c.progress) = (m, none, []))) : exec (.copyDone i) s = .next (m.copyEnd i c x) := by
  change execCopyDone i s = _
  unfold execCopyDone
  simp only [hc, hx, hrun, hpause, hlost]
  obtain ⟨hnone, rfl⟩ | ⟨hsome, hmade⟩ := hbeats
  · simp [hnone]
  · simp [hmade, Option.isSome_iff_ne_none.mpr hsome]

/-- The flags of a matrix post that its lanes raise (R262). -/
def raisedFlags (rows : List (List Nat × BitVec 6)) : BitVec 6 := rows.foldl (fun f r => f ||| r.2) 0

theorem getLsbD_foldl_or (rows : List (List Nat × BitVec 6)) (f : BitVec 6) (k : Nat) :
    (rows.foldl (fun f r => f ||| r.2) f).getLsbD k = true ↔ f.getLsbD k = true ∨ ∃ r ∈ rows, r.2.getLsbD k = true := by
  induction rows generalizing f with
  | nil => simp
  | cons r rows ih => simp [ih, BitVec.getLsbD_or, or_assoc]

theorem getLsbD_raisedFlags (rows : List (List Nat × BitVec 6)) (k : Nat) :
    (raisedFlags rows).getLsbD k = true ↔ ∃ r ∈ rows, r.2.getLsbD k = true :=
  (getLsbD_foldl_or rows 0 k).trans (by simp)

/-- A flag of a matrix post is one that some lane raises, but never DZ (R262). -/
theorem getLsbD_postFlags (rows : List (List Nat × BitVec 6)) {k : Nat} (hk : k < 5) :
    ((raisedFlags rows &&& ~~~flagDZ).setWidth 5).getLsbD k = true ↔ k ≠ 1 ∧ ∃ r ∈ rows, r.2.getLsbD k = true := by
  have hdz : (~~~flagDZ).getLsbD k = true ↔ k ≠ 1 := by
    have : ∀ k < 5, (~~~flagDZ).getLsbD k = true ↔ k ≠ 1 := by decide
    exact this k hk
  simp only [BitVec.getLsbD_setWidth, BitVec.getLsbD_and, Bool.and_eq_true, decide_eq_true_iff, hk, true_and, hdz, getLsbD_raisedFlags]
  exact and_comm

/-- Operands that have not changed since the acceptance are what the post reads (R265). -/
theorem chooseBytes_self (tick place : Nat) (bs : List Byte) : chooseBytes tick place bs bs = bs := by
  refine List.ext_getElem (by simp [chooseBytes]) fun k hk _ => ?_
  simp only [chooseBytes, List.length_mapIdx] at hk
  simp [chooseBytes, hk]

/-- The C rows of a matrix post, by lane, with the flags that each raises (R262). -/
def matrixRows (s : State) (i : Nat) (c : Cmd) (m : MatSpec) (ops : List Byte) : List (List Nat × BitVec 6) :=
  (s.bundle c.bundle).threads.mapIdx (fun l th => s.matRow i m ops (s.bundle c.bundle).w l th)

/-- The FLAGS of a matrix post (R262). -/
def matrixFlags (s : State) (i : Nat) (c : Cmd) (m : MatSpec) (ops : List Byte) : BitVec 5 :=
  (raisedFlags (matrixRows s i c m ops) &&& ~~~flagDZ).setWidth 5

theorem matrixFlags_postFlags (s : State) (i : Nat) (c : Cmd) (m : MatSpec) (ops : List Byte) :
    postFlags s i c m ops (matrixFlags s i c m ops) := by
  intro k hk
  rw [matrixFlags, getLsbD_postFlags _ hk]
  refine and_congr_right fun _ => ?_
  simp only [matrixRows, List.mem_mapIdx, State.thread, Bundle.thread]
  constructor
  · rintro ⟨_, ⟨l, hl, rfl⟩, h⟩
    exact ⟨l, hl, by rwa [List.getD_eq_getElem _ _ hl]⟩
  · rintro ⟨l, hl, h⟩
    exact ⟨_, ⟨l, hl, rfl⟩, by rwa [List.getD_eq_getElem _ _ hl] at h⟩

/-- The state after the effects of a matrix post (R262): C is written in every lane. -/
def matrixWritten (s : State) (i : Nat) (c : Cmd) (m : MatSpec) (ops : List Byte) : State :=
  { s.modBundle c.bundle (fun b => { b with threads := b.threads.mapIdx (fun l th =>
      th.matWrite i m (s.matRow i m ops (s.bundle c.bundle).w l th).1) }) with
    cmds := s.cmds.modify i (fun y => { y with flags := matrixFlags s i c m ops, snap := [] }) }

/-- A matrix post whose time is not over. -/
theorem early_eq_true {c : Cmd} {now : DWord} (h : ∃ d, c.due = some d ∧ now < d) : c.early now = true := by
  obtain ⟨d, hd, hlt⟩ := h
  simp [Cmd.early, hd, hlt]

/-- A matrix post whose time is over. -/
theorem early_eq_false {c : Cmd} {now : DWord} (h : ∀ d, c.due = some d → d ≤ now) : c.early now = false := by
  unfold Cmd.early
  split
  next d hd => simpa using h d hd
  next => rfl

/-- MATRIX_DONE does nothing before its time. -/
theorem exec_matrixDone_early {s : State} {i : Nat} {c : Cmd} {m : MatSpec} (hc : s.cmd? i = some c) (hm : c.spec = .matrix m)
    (he : c.early s.clk = true) : exec (.matrixDone i) s = .next s := by
  change execMatrixDone i s = _
  unfold execMatrixDone
  simp only [hc, hm, he, Bool.or_true, if_true]

/-- MATRIX_DONE of a killed team's post ends it. -/
theorem exec_matrixDone_orphan {s : State} {i : Nat} {c : Cmd} {m : MatSpec} (hc : s.cmd? i = some c) (hm : c.spec = .matrix m)
    (hrun : c.st = .running) (he : c.early s.clk = false) (ho : c.orphan = true) :
    exec (.matrixDone i) s = .next ((s.stampAt c 5 (c.due.getD s.clk)).finishCmd i) := by
  change execMatrixDone i s = _
  unfold execMatrixDone
  simp only [hc, hm, he, hrun, ho, bne_self_eq_false, Bool.or_false, Bool.false_eq_true, if_false, if_true]

/-- MATRIX_DONE writes C and FLAGS, and ends the post. -/
theorem exec_matrixDone {s : State} {i : Nat} {c : Cmd} {m : MatSpec} {ops : List Byte} (hc : s.cmd? i = some c) (hm : c.spec = .matrix m)
    (hrun : c.st = .running) (he : c.early s.clk = false) (ho : c.orphan = false)
    (hops : s.operandBytes c (m.ranges (s.bundle c.bundle).w) = (s, ops)) (hsnap : c.snap = ops) :
    exec (.matrixDone i) s = .next (((matrixWritten s i c m ops).stampAt c 5 (c.due.getD s.clk)).finishCmd i) := by
  have hrow : s.modBundle c.bundle (fun b => { b with threads := b.threads.mapIdx (fun l th =>
        th.matWrite i m ((matrixRows s i c m ops).getD l ([], 0)).1) }) =
      s.modBundle c.bundle (fun b => { b with threads := b.threads.mapIdx (fun l th =>
        th.matWrite i m (s.matRow i m ops (s.bundle c.bundle).w l th).1) }) := by
    refine modBundle_congr _ _ _ _ (congrArg (fun ts => { s.bundle c.bundle with threads := ts }) ?_)
    refine List.ext_getElem (by simp) fun l hl _ => ?_
    rw [List.length_mapIdx] at hl
    simp [matrixRows, hl]
  change execMatrixDone i s = _
  unfold execMatrixDone
  simp only [hc, hm, he, hrun, ho, bne_self_eq_false, Bool.or_false, Bool.false_eq_true, if_false, hops, hsnap, chooseBytes_self]
  exact congrArg (fun u => Host.Outcome.next (((State.modCmd u i (fun y => { y with flags := matrixFlags s i c m ops, snap := [] })).stampAt c 5
    (c.due.getD s.clk)).finishCmd i)) hrow

/-- The FLAGS of a collective (R270): those given, without DZ, of a reduction of floating-point elements that succeeds. -/
def collFlags (x : CollSpec) (r : BitVec 3) (f : BitVec 5) : BitVec 5 :=
  if x.kind != 1 && (x.fmt == 0x11 || x.fmt == 0x12 || x.fmt == 0x13) && r == 0 then f &&& 0x1D else 0

theorem getLsbD_collFlags (x : CollSpec) (r : BitVec 3) (f : BitVec 5) {k : Nat} (hk : k < 5) :
    (collFlags x r f).getLsbD k = true ↔ f.getLsbD k = true ∧ k ≠ 1 ∧ raises x ∧ r = 0 := by
  have hdz : (0x1D : BitVec 5).getLsbD k = true ↔ k ≠ 1 := by
    have : ∀ k < 5, (0x1D : BitVec 5).getLsbD k = true ↔ k ≠ 1 := by decide
    exact this k hk
  have hraises : (x.kind != 1 && (x.fmt == 0x11 || x.fmt == 0x12 || x.fmt == 0x13) && r == 0) = true ↔ raises x ∧ r = 0 := by
    simp [raises, or_assoc]
  unfold collFlags
  split
  next h => rw [BitVec.getLsbD_and, Bool.and_eq_true, hdz, and_iff_left (hraises.mp h)]
  next h => exact iff_of_false (by simp) fun ⟨_, _, hr⟩ => hraises.not.mp h hr

/-- The state after the effects of a collective that ends (R270): SEND is read, unless it has failed, RECV is written, and the command has its
RESULT and FLAGS. -/
def collWritten (s : State) (i : Nat) (c : Cmd) (x : CollSpec) (r : BitVec 3) (f : BitVec 5) : State :=
  let a := if r = 0 then s.collSend c x else (s, [], false)
  let e := a.1.collRecv c x (r == 0) a.2.1
  e.1.modCmd i (fun y => { y with progress := 1, result := r, flags := f, sizeovl := a.2.2 || e.2 })

/-- COLLECTIVE_DONE ends a running collective, with RESULT LINK where a member cannot be reached. -/
theorem exec_collectiveDone {s : State} {i : Nat} {c : Cmd} {x : CollSpec} {r r' : BitVec 3} (f : BitVec 5) (hc : s.cmd? i = some c)
    (hx : c.spec = .coll x) (hrun : c.st = .running) (hr : r.toNat ≤ 2) (hr' : r' = if s.collLost x then 1 else r) :
    exec (.collectiveDone i r f) s = .next ((collWritten s i c x r' (collFlags x r' f)).finishCmd i) := by
  have hle : ¬ r' > 2 := by
    rw [hr']
    split
    · decide
    · exact BitVec.not_lt.mpr hr
  have hexec : exec (.collectiveDone i r f) s = .next (s.endColl i r' f) := by
    change execCollectiveDone i r f s = _
    unfold execCollectiveDone
    simp only [hc, hx, hr']
  rw [hexec]
  unfold State.endColl
  simp only [hc, hx, hrun, bne_self_eq_false, Bool.false_or, decide_eq_true_iff, hle, if_false, beq_iff_eq]
  rfl
end Sys2Proof.Laws

namespace Sys2Proof.Claims
open Sys2Proof.Machine

/-- Settles O21: copies, matrix posts and collectives (R252, R257, R262, R270), each by its event. -/
theorem engines : Obligations.Engines := by
  unfold Obligations.Engines
  refine ⟨fun s i c x hc hx hq => ?copyStart, fun s i c m hc hm hq hfirst => ?matrixTurn,
    fun s m i c x hc hx hrun hpause hlost hbeats => ?copyDone, fun s i c m ops hc hm hrun hdue ho hops hsnap => ?matrixDone,
    fun s i c m hc hm hrun hdue ho => ?orphanDone, fun s i c x r r' f hc hx hrun hr hr' => ?collectiveDone,
    fun s i c m hc hm _ hdue => ?early⟩
  case copyStart => exact ⟨_, Laws.exec_copyStart hc hx hq, rfl, rfl⟩
  case matrixTurn =>
    obtain ⟨ss, hexec⟩ := Laws.exec_matrixTurn hc hm hq (Laws.earlierPost_eq_false hfirst)
    exact ⟨_, Laws.matrixDue s i m, hexec, rfl, by unfold Laws.matrixDue; split <;> simp, rfl⟩
  case copyDone => exact ⟨_, Laws.exec_copyDone hc hx hrun hpause hlost hbeats, Laws.copyEnd_ends m i c x⟩
  case matrixDone =>
    exact ⟨_, _, Laws.exec_matrixDone hc hm hrun (Laws.early_eq_false hdue) ho hops hsnap, Laws.matrixFlags_postFlags s i c m ops,
      Laws.stampFinish_ends _ c 5 _ i⟩
  case orphanDone =>
    exact ⟨_, Laws.exec_matrixDone_orphan hc hm hrun (Laws.early_eq_false hdue) ho, Laws.stampFinish_ends s c 5 _ i⟩
  case collectiveDone =>
    exact ⟨_, _, Laws.exec_collectiveDone f hc hx hrun hr hr', Laws.finishCmd_ends _ _ i, fun k hk => Laws.getLsbD_collFlags x r' f hk⟩
  case early => exact Laws.exec_matrixDone_early hc hm (Laws.early_eq_true hdue)

end Sys2Proof.Claims
end

section
/-! Acceptance of a command (R249, R252), where no two windows of its team have one number. -/
namespace Sys2Proof.Laws
open Sys2Proof.Machine Sys2Proof.Claims

/-! ### Operands of a matrix post (R254, R265) -/

/-- A window is found by its number, where no other has it. -/
theorem window_of_numbered {t : Team} {w : Window} (h : numbered t) (hw : w ∈ t.windows) : t.window w.num = some w := by
  cases hx : t.window w.num with
  | none => exact absurd (List.find?_eq_none.mp hx w hw) (by simp)
  | some x => rw [window_eq_of_numbered h hw hx]

/-- A line that holds its data is not fetched again. -/
theorem refetch_ready {s : State} {t a : Nat} {w : Window} {l : Line} (c : Cmd) (hw : (s.team t).window w.num = some w)
    (hl : w.line ((a - w.base.toNat) / 128) = some l) (hst : l.st ≠ .filling) : s.refetch c t w a = s := by
  have hfill (home : Nat) : s.fillNow t w.num ((a - w.base.toNat) / 128) home = s := by
    have hstart : s.startFill t w.num ((a - w.base.toNat) / 128) home = s := by
      unfold State.startFill
      simp only [hw, Option.bind_some, hl]
    unfold State.fillNow
    simp only [hstart, hw, hl, beq_iff_eq, hst, if_false]
  unfold State.refetch
  simp only [hl, Option.map_some, Option.some_or, hfill, State.lineOf, hw, Option.bind_some, Option.isNone_some, Bool.false_eq_true, if_false]

/-- Bytes of a line that holds its data are read without any effect. -/
theorem stashGet_ready {s : State} {t a : Nat} (c : Cmd) (n : Nat) (hn : numbered (s.team t)) (hr : s.lineReady t a = true) :
    (s.stashGet c t a n).1 = s := by
  have hplace : (s.stashPlace c t a).1 = s := by
    unfold State.stashPlace
    unfold State.lineReady at hr
    dsimp only at hr
    split
    · rfl
    next w hw =>
      rw [hw] at hr
      split
      · rfl
      next hmode =>
        dsimp only at hr ⊢
        cases hl : w.line ((a - w.base.toNat) / 128) with
        | none => simp [hl, hmode] at hr
        | some l => exact refetch_ready c (window_of_numbered hn (List.mem_of_find?_eq_some hw)) hl (by simpa [hl, hmode] using hr)
  unfold State.stashGet
  split <;> next e => simpa [e] using hplace

/-- The operands of a matrix post are read without any effect, where every line holds its data. -/
theorem operandBytes_ready {s : State} {c : Cmd} {rs : List (Nat × Nat)} (hn : numbered (s.team c.team))
    (hr : ∀ r ∈ rs, ∀ i < r.2, s.lineReady c.team (r.1 + i) = true) : (s.operandBytes c rs).1 = s := by
  unfold State.operandBytes
  refine List.foldlRecOn (motive := fun acc : State × List Byte => acc.1 = s) _ _ rfl fun acc hacc r hrs => ?_
  refine List.foldlRecOn (motive := fun acc : State × List Byte => acc.1 = s) _ _ hacc fun acc hacc i hi => ?_
  rw [hacc]
  exact stashGet_ready c 1 hn (hr r hrs i (List.mem_range.mp hi))

/-! ### Accesses before the command (R258, R270) -/

/-- What a bundle keeps where accesses of its threads are ordered: its stance, and the accesses that are outstanding. -/
def stanceOuts (x : Bundle) : (List Reg × List (DWord × TState × Bool)) × List (List Pending) := (stance x, x.threads.map Thread.out)

theorem stanceOuts_out {x y : Bundle} (h : stanceOuts x = stanceOuts y) (l : Nat) : (x.thread l).out = (y.thread l).out := by
  have part (x : Bundle) : (x.thread l).out = (stanceOuts x).2.getD l [] := by
    simp only [stanceOuts, Bundle.thread, List.getD_eq_getElem?_getD, List.getElem?_map]
    cases x.threads[l]? <;> rfl
  rw [part, part, h]

theorem stanceOuts_modThread {f : Thread → Thread} (hs : ∀ t, stand (f t) = stand t) (ho : ∀ t, (f t).out = t.out) (x : Bundle) (l : Nat) :
    stanceOuts (x.modThread l f) = stanceOuts x := Prod.ext (stance_modThread hs x l) (map_modify_of_eq ho l x.threads)

theorem BundleKeeps.bindLoads {b : Nat} {s u : State} (h : BundleKeeps stanceOuts b s u) (l : Nat) (test : LateLoad → Bool) :
    BundleKeeps stanceOuts b s (u.bindLoads b l test) := by
  unfold State.bindLoads
  split
  · exact h
  · exact h.modBundle fun _ => rfl

theorem BundleKeeps.releaseTouches {b : Nat} {s u : State} (h : BundleKeeps stanceOuts b s u) (l : Nat) (early late : BitVec 16) :
    BundleKeeps stanceOuts b s (u.releaseTouches b l early late) := by
  unfold State.releaseTouches
  split
  · exact h
  · exact h.modBundle fun x => stanceOuts_modThread (f := fun t => { t with recent := t.recent.map (Touch.releasedAt u.ticks early late) })
      (fun _ => rfl) (fun _ => rfl) x l

/-- What the accesses of lanes that have none outstanding leave: their bundle, in which no thread moves. -/
theorem drainStream_keeps {s : State} {b : Nat} {ls : List Nat} (q : Nat) (hseen : ∀ c l, ∀ x ∈ (s.thread c l).stores, s.shows b c x = false)
    (hout : ∀ l ∈ ls, (s.thread b l).out = []) : KeepsStance b s (s.drainStream b ls q) := by
  have hstart : s.performSeen b (fun _ => true) = s := performSeen_unselected fun c l x hx hs => absurd hs (by simp [hseen c l x hx])
  unfold State.drainStream
  rw [hstart]
  refine BundleKeeps.comp (φ := stanceOuts) Prod.fst ?_
  refine List.foldlRecOn (motive := BundleKeeps stanceOuts b s) _ _ (.refl _ b s) fun u hu l hl => ?_
  have hnone : (u.thread b l).out = [] := (stanceOuts_out (hu.bundle b) l).trans (hout l hl)
  rw [performStores_none (fun x hx => by rw [Thread.stores, hnone] at hx; cases hx)]
  exact (hu.bindLoads l _).releaseTouches l _ _

/-! ### The number of a command (R249) -/

theorem lookupKey_setKey_self {α : Type} (k : Nat) (v : α) (rs : List (Nat × α)) : lookupKey k (setKey k v rs) = some v := by
  induction rs with
  | nil => simp [setKey, lookupKey]
  | cons r rs ih =>
    unfold setKey
    split
    next h => simp [lookupKey]
    next h => simp [lookupKey, h, ih]

/-- The model's next number of an engine is that of R249. -/
theorem nextSeq_eq (x : Context) (engine : Nat) : x.nextSeq engine = nextNumber ((lookupKey engine x.seqs).getD 0) := by
  unfold Context.nextSeq nextNumber
  simp only [beq_iff_eq]

/-- A context that changes is found where it was. -/
theorem ctx_modCtx {s : State} {asid : BitVec 16} {x : Context} {f : Context → Context} (h : s.ctxs.find? (fun c => c.asid == asid) = some x)
    (hf : ∀ c, (f c).asid = c.asid) : (s.modCtx asid f).ctx asid = f x := by
  have hx : x.asid = asid := by simpa using List.find?_some h
  have hsame : (fun c : Context => c.asid == asid) ∘ (fun c => if c.asid == asid then f c else c) = (fun c => c.asid == asid) := by
    funext c
    simp only [Function.comp_apply]
    split
    · rw [hf]
    · rfl
  rw [State.ctx, State.modCtx, List.find?_map, hsame, h]
  simp [hx]

/-! ### What acceptance does (R249, R252) -/

/-- The lanes of a posting word that still wait in CHECKING. -/
def checkingLanes (s : State) (p : Posting) : List Nat :=
  (lanesIn p.lanes (s.bundle p.cmd.bundle).threads.length).filter (fun l => (s.thread p.cmd.bundle l).st == .waiting .posting)

theorem mem_checkingLanes {s : State} {p : Posting} {l : Nat} :
    l ∈ checkingLanes s p ↔ l < (s.bundle p.cmd.bundle).threads.length ∧ checkingLane s p.cmd.bundle p l := by
  simp only [checkingLanes, lanesIn, checkingLane, List.mem_filter, List.mem_range, beq_iff_eq, and_assoc]

theorem nodup_checkingLanes (s : State) (p : Posting) : (checkingLanes s p).Nodup := (List.nodup_range.filter _).filter _

/-- The bit of a lane in a set of lanes. -/
theorem getLsbD_laneSet (ls : List Nat) {l : Nat} (hl : l < 64) : (laneSet ls).getLsbD l = true ↔ l ∈ ls := by
  suffices h : ∀ m : BitVec 64, (ls.foldl (fun m k => m ||| laneBit k) m).getLsbD l = true ↔ m.getLsbD l = true ∨ l ∈ ls by
    simpa [laneSet] using h 0
  induction ls with
  | nil => simp
  | cons k ls ih =>
    intro m
    rw [List.foldl_cons, ih, BitVec.getLsbD_or, getLsbD_laneBit hl, Bool.or_eq_true, decide_eq_true_iff, List.mem_cons, or_assoc]

/-! ### The bundle of the command -/

/-- Two registers in turn become PEND. -/
def becomePend (r : List Reg) (n : Nat) : List Reg :=
  (r.modify n (fun x => { x with tag := .pend })).modify (n + 1) (fun x => { x with tag := .pend })

theorem becomePend_eq (r : List Reg) (n : Nat) : becomePend r n = pairPend r n := by
  refine List.ext_getElem (by simp [becomePend, pairPend]) fun k _ _ => ?_
  simp only [becomePend, pairPend, List.getElem_modify, List.getElem_mapIdx, @eq_comm _ k]
  by_cases h : n = k
  · subst h
    simp
  · by_cases h' : n + 1 = k <;> simp [h, h']

/-- The bundle of a command that is accepted as command `i`: its token pair is PEND, and the registers of a matrix post are bound. -/
def accepting (c : Cmd) (i : Nat) (x : Bundle) : Bundle :=
  let y : Bundle := { x with posting := none, s := becomePend x.s c.token }
  match c.spec with
  | .matrix m => { y with threads := y.threads.map (fun t => t.bindPost i m) }
  | _ => y

/-- The lanes go on at the next word. -/
def goOn (ls : List Nat) (x : Bundle) : Bundle :=
  { x with threads := x.threads.mapIdx (fun l t => if l ∈ ls then (t.advance t.pc).wake else t) }

theorem accepting_posting (c : Cmd) (i : Nat) (x : Bundle) : (accepting c i x).posting = none := by
  unfold accepting
  cases c.spec <;> rfl

theorem accepting_regs (c : Cmd) (i : Nat) (x : Bundle) : (accepting c i x).s = pairPend x.s c.token := by
  rw [← becomePend_eq]
  unfold accepting
  cases c.spec <;> rfl

/-- Acceptance binds registers, and moves no thread. -/
theorem accepting_stand (c : Cmd) (i : Nat) (x : Bundle) : (accepting c i x).threads.map stand = x.threads.map stand := by
  unfold accepting
  cases c.spec with
  | copy => rfl
  | coll => rfl
  | matrix m => simp only [List.map_map]; rfl

/-- Threads that stand alike, by their number. -/
theorem stand_thread {x y : Bundle} (h : x.threads.map stand = y.threads.map stand) (l : Nat) : stand (x.thread l) = stand (y.thread l) := by
  have part (x : Bundle) : stand (x.thread l) = (x.threads.map stand).getD l (stand Thread.absent) := by
    simp only [Bundle.thread, List.getD_eq_getElem?_getD, List.getElem?_map]
    cases x.threads[l]? <;> rfl
  rw [part, part, h]

theorem goOn_thread_mem {ls : List Nat} {x : Bundle} {l : Nat} (hl : l < x.threads.length) (h : l ∈ ls) :
    (goOn ls x).thread l = ((x.thread l).advance (x.thread l).pc).wake := by
  simp [goOn, Bundle.thread, List.getD_eq_getElem?_getD, hl, h]

theorem goOn_thread_not_mem {ls : List Nat} {l : Nat} (x : Bundle) (h : l ∉ ls) : (goOn ls x).thread l = x.thread l := by
  simp only [goOn, Bundle.thread, List.getD_eq_getElem?_getD, List.getElem?_mapIdx, h, if_false]
  cases x.threads[l]? <;> rfl

/-- A thread that waits in CHECKING goes on, or parks where a handler park waited for this. -/
theorem wake_posting {t : Thread} (h : t.st = .waiting .posting) : ((t.advance t.pc).wake).pc = t.pc + 4 ∧
    ((t.advance t.pc).wake).st = if t.parkAsked then .parked .handler else .ready := by
  have hw : (t.advance t.pc).isWaiting = true := by simp [Thread.isWaiting, Thread.advance, h]
  unfold Thread.wake
  rw [if_pos hw]
  cases hp : t.parkAsked <;> simp [Thread.advance, hp]

/-! ### Acceptance (R249, R252) -/

/-- A context once a command has its number (R249, R270). -/
def numbering (c : Cmd) (seq : BitVec 48) (x : Context) : Context :=
  { x with
    seqs := setKey c.engine seq x.seqs
    colls := match c.spec with
      | .coll y => (y.group, y.number + 1) :: x.colls.filter (fun g => g.1 != y.group)
      | _ => x.colls }

/-- The state with a command added, which its bundle and its context have taken. -/
def taking (s : State) (b : Nat) (F : Bundle → Bundle) (asid : BitVec 16) (g : Context → Context) (c : Cmd) : State :=
  { (s.modBundle b F).modCtx asid g with cmds := s.cmds ++ [c] }

/-- The changes of acceptance, in turn, are one change of the bundle, one of the context, and the command. -/
theorem taking_goOn {s : State} {b : Nat} (F : Bundle → Bundle) (ls : List Nat) (hn : ls.Nodup) (asid : BitVec 16) (g : Context → Context) (c : Cmd)
    (i : Nat) : ls.foldl (fun s l => s.modThread b l (fun t => (t.advance t.pc).wake))
      (((withCmds (s.modBundle b F) (s.cmds ++ [c])).modCtx asid g).modBundle b (accepting c i)) =
    taking s b (goOn ls ∘ accepting c i ∘ F) asid g c := by
  rw [foldl_modThread_mapIdx _ _ (fun _ t => (t.advance t.pc).wake) hn, modBundle_modBundle]
  exact congrArg (fun u : State => { u.modCtx asid g with cmds := s.cmds ++ [c] }) (modBundle_modBundle s b F (goOn ls ∘ accepting c i))

/-- A command in a state, with the requests to other nodes that it has sent. -/
def sending (c : Cmd) (st : CmdState) (sent : List Machine.Sent) : Cmd := { c with st := st, sent := sent }

/-- A collective runs as it is accepted (R270). -/
theorem startCmd_taking (s : State) (b : Nat) (F : Bundle → Bundle) (asid : BitVec 16) (g : Context → Context) (c : Cmd) : ∃ sent,
    (taking s b F asid g c).startCmd s.cmds.length = taking s b F asid g (sending c .running sent) := by
  refine ⟨(taking s b F asid g c).sentTo ((taking s b F asid g c).cmdFar c), ?_⟩
  refine congrArg (withCmds (taking s b F asid g c)) (?_ : (s.cmds ++ [c]).modify s.cmds.length _ = s.cmds ++ [_])
  rw [List.modify_eq_take_cons_drop (by simp)]
  simp [sending]

/-- The accesses of a posting word's lanes in its stream are performed; a matrix post reads no memory (R258). -/
def ordered (s : State) (p : Posting) : State :=
  match p.cmd.spec with
  | .matrix _ => s
  | _ => s.drainStream p.cmd.bundle (checkingLanes s p) p.cmd.stream

/-- The command of a posting word with its pinned pages (R254). -/
def pinned (s : State) (p : Posting) (pins : List Pin) : Cmd :=
  { p.cmd with
    pins := pins.map (fun x => (x.page, x.pa)) ++ s.linePins p.cmd
    devs := (pins.filter (fun x => x.dev)).map (fun x => x.page) }

/-- The stash operands of a command as it is accepted (R265). -/
def snapped (u : State) (c : Cmd) : State × List Byte :=
  match c.spec with
  | .matrix m => u.operandBytes c (m.ranges (u.bundle c.bundle).w)
  | _ => (u, [])

/-- What a command does, with the number of a collective in its group (R270). -/
def specNow (u : State) (c : Cmd) : CmdSpec :=
  match c.spec with
  | .coll x => .coll { x with
      number := (lookupKey x.group.toNat ((u.ctx c.asid).colls.map (fun g => (g.1.toNat, g.2)))).getD 0 }
  | x => x

/-- The command as it is accepted on its lanes, after the state `u`, with its stash operands. -/
def accepted (u : State) (c : Cmd) (ls : List Nat) (r : State × List Byte) : Cmd :=
  { c with
    seq := (u.ctx c.asid).nextSeq c.engine, spec := specNow u c, snap := r.2, lanes := laneSet ls, born := r.1.ticks
    acq := (r.1.bundle c.bundle).acquired (laneSet ls) c.stream }

/-- What acceptance does before an engine takes the command. -/
def queueing (u : State) (ls : List Nat) (c : Cmd) : State :=
  ls.foldl (fun s l => s.modThread c.bundle l (fun t => (t.advance t.pc).wake))
    (((withCmds u (u.cmds ++ [c])).modCtx c.asid (numbering c c.seq)).modBundle c.bundle (accepting c u.cmds.length))

/-- An engine takes a command: a copy has a stamp, and is over if it is empty; a collective runs. -/
def taken (c : Cmd) (i : Nat) (v : State) : State :=
  match c.spec with
  | .copy x =>
    let v := if x.dir % 2 == 0 then v.stampCmd c 0 else v
    if x.rows = 0 || x.rbytes = 0 then (if x.dir % 2 == 0 then v.stampCmd c 1 else v.stampCmd c 6).finishCmd i else v
  | .matrix _ => v
  | .coll _ => v.startCmd i

/-- Acceptance, as its steps. -/
theorem acceptCmd_steps (s : State) (p : Posting) (pins : List Pin) :
    let r := snapped (ordered s p) (pinned s p pins)
    let c := accepted (ordered s p) (pinned s p pins) (checkingLanes s p) r
    s.acceptCmd p pins = taken c r.1.cmds.length (queueing r.1 (checkingLanes s p) c) := rfl

theorem ordered_keeps {s : State} {p : Posting} (hseen : ∀ c l, ∀ x ∈ (s.thread c l).stores, s.shows p.cmd.bundle c x = false)
    (hout : ∀ l ∈ checkingLanes s p, (s.thread p.cmd.bundle l).out = []) : KeepsStance p.cmd.bundle s (ordered s p) := by
  unfold ordered
  split
  · exact .refl _ _ s
  · exact drainStream_keeps _ hseen hout

theorem snapped_ordered {s : State} {p : Posting} (pins : List Pin) (hstand : operandsStand s p.cmd) (hn : numbered (s.team p.cmd.team)) :
    (snapped (ordered s p) (pinned s p pins)).1 = ordered s p := by
  cases hspec : p.cmd.spec with
  | copy x => simp only [snapped, pinned, hspec]
  | coll x => simp only [snapped, pinned, hspec]
  | matrix m =>
    have hready : ∀ r ∈ m.ranges (s.bundle p.cmd.bundle).w, ∀ i < r.2, s.lineReady p.cmd.team (r.1 + i) = true := by
      simpa only [operandsStand, hspec] using hstand
    simp only [snapped, pinned, ordered, hspec]
    exact operandBytes_ready hn hready

theorem hasWork_accepted {c : Cmd} (h : hasWork c) (u : State) (ls : List Nat) (r : State × List Byte) : hasWork (accepted u c ls r) := by
  unfold accepted specNow
  cases hspec : c.spec with
  | copy x => simpa only [hasWork, hspec] using h
  | matrix m => trivial
  | coll x => trivial

/-- What an engine changes as it takes a command that has work: the command may run, and the stamp slots. -/
theorem taken_taking {c : Cmd} (h : hasWork c) (s : State) (b : Nat) (F : Bundle → Bundle) (asid : BitVec 16) (g : Context → Context) :
    ∃ st sent ss, taken c s.cmds.length (taking s b F asid g c) = withStamps (taking s b F asid g (sending c st sent)) ss := by
  unfold taken
  cases hspec : c.spec with
  | copy x =>
    obtain ⟨ss, hss⟩ := stampIf_stamps (taking s b F asid g c) c 0 ((x.dir % 2 == 0) = true)
    have hwork : ¬ (x.rows = 0 || x.rbytes = 0) = true := by simpa [hasWork, hspec] using h
    exact ⟨c.st, c.sent, ss, (if_neg hwork).trans hss⟩
  | matrix m => exact ⟨c.st, c.sent, s.stamps, rfl⟩
  | coll x =>
    obtain ⟨sent, hstart⟩ := startCmd_taking s b F asid g c
    exact ⟨.running, sent, s.stamps, hstart⟩

/-- What acceptance leaves, as one change of the bundle, one of the context, and the command. -/
theorem acceptCmd_eq {s : State} {p : Posting} (pins : List Pin) (hseen : ∀ c l, ∀ x ∈ (s.thread c l).stores, s.shows p.cmd.bundle c x = false)
    (hout : ∀ l ∈ checkingLanes s p, (s.thread p.cmd.bundle l).out = []) (hwork : hasWork p.cmd) (hstand : operandsStand s p.cmd)
    (hn : numbered (s.team p.cmd.team)) : ∃ F r st sent ss, (∀ x, stance (F x) = stance x) ∧ r.1 = ordered s p ∧
    ordered s p = s.modBundle p.cmd.bundle F ∧
    let c := accepted (ordered s p) (pinned s p pins) (checkingLanes s p) r
    s.acceptCmd p pins = withStamps (taking s p.cmd.bundle (goOn (checkingLanes s p) ∘ accepting c s.cmds.length ∘ F) p.cmd.asid (numbering c c.seq)
      (sending c st sent)) ss := by
  obtain ⟨F, hF, hordered⟩ := ordered_keeps hseen hout
  have hr := snapped_ordered pins hstand hn
  let r := snapped (ordered s p) (pinned s p pins)
  let c := accepted (ordered s p) (pinned s p pins) (checkingLanes s p) r
  have hwork : hasWork c := hasWork_accepted (c := pinned s p pins) hwork _ _ _
  obtain ⟨st, sent, ss, htaken⟩ := taken_taking hwork s p.cmd.bundle (goOn (checkingLanes s p) ∘ accepting c s.cmds.length ∘ F) p.cmd.asid
    (numbering c c.seq)
  refine ⟨F, r, st, sent, ss, hF, hr, hordered, ?_⟩
  have hu : r.1 = s.modBundle p.cmd.bundle F := hr.trans hordered
  have hqueue : queueing r.1 (checkingLanes s p) c = taking s p.cmd.bundle (goOn (checkingLanes s p) ∘ accepting c s.cmds.length ∘ F) p.cmd.asid
      (numbering c c.seq) c := by
    rw [hu]
    exact taking_goOn F _ (nodup_checkingLanes s p) _ _ c _
  have hlen : r.1.cmds.length = s.cmds.length := by rw [hu]; rfl
  rw [acceptCmd_steps, hlen, hqueue]
  exact htaken

/-- The engine of a command does not change with the number of a collective in its group. -/
theorem engine_accepted (u : State) (c : Cmd) (ls : List Nat) (r : State × List Byte) : (accepted u c ls r).engine = c.engine := by
  unfold accepted specNow Cmd.engine
  cases c.spec <;> rfl

/-- No thread that exists is missing. -/
theorem checkingLane_lt {s : State} {b : Nat} {p : Posting} {l : Nat} (h : checkingLane s b p l) : l < (s.bundle b).threads.length := by
  refine Nat.lt_of_not_le fun hle => ?_
  have hst : (s.thread b l).st = .exited := by
    rw [State.thread, Bundle.thread, List.getD_eq_getElem?_getD, List.getElem?_eq_none hle]
    rfl
  exact absurd (hst.symm.trans h.2) nofun

/-- What acceptance leaves of a bundle that it orders and of the threads that go on or stay. -/
theorem goOn_accepting {F : Bundle → Bundle} (hF : ∀ x, stance (F x) = stance x) (ls : List Nat) (c : Cmd) (i : Nat) (x : Bundle) :
    let y := (goOn ls ∘ accepting c i ∘ F) x
    y.posting = none ∧ y.s = pairPend x.s c.token ∧
    (∀ l < x.threads.length, l ∈ ls → (x.thread l).st = .waiting .posting → (y.thread l).pc = (x.thread l).pc + 4 ∧
      (y.thread l).st = if (x.thread l).parkAsked then .parked .handler else .ready) ∧
    (∀ l, l ∉ ls → (y.thread l).pc = (x.thread l).pc ∧ (y.thread l).st = (x.thread l).st) := by
  have hstand : (accepting c i (F x)).threads.map stand = x.threads.map stand := (accepting_stand c i _).trans (congrArg Prod.snd (hF x))
  have hlen : (accepting c i (F x)).threads.length = x.threads.length := by simpa using congrArg List.length hstand
  refine ⟨accepting_posting c i _, (accepting_regs c i _).trans (congrArg (pairPend · c.token) (congrArg Prod.fst (hF x))), fun l hl hmem hw => ?_,
    fun l hmem => ?_⟩
  · obtain ⟨hpc, hst, hpark⟩ : _ ∧ _ ∧ _ := by simpa only [stand, Prod.mk.injEq] using stand_thread hstand l
    rw [Function.comp_apply, Function.comp_apply, goOn_thread_mem (hlen ▸ hl) hmem, ← hpc, ← hpark]
    exact wake_posting (hst.trans hw)
  · obtain ⟨hpc, hst, -⟩ : _ ∧ _ ∧ _ := by simpa only [stand, Prod.mk.injEq] using stand_thread hstand l
    rw [Function.comp_apply, Function.comp_apply, goOn_thread_not_mem _ hmem]
    exact ⟨hpc, hst⟩

/-- ENGINE_COMMAND_QUEUED accepts a word in CHECKING whose lines are there, where its engine has space and no fence holds it back. -/
theorem exec_engineCommandQueued {s : State} {p : Posting} {pins : List Pin} (hp : (s.bundle p.cmd.bundle).posting = some p)
    (hready : p.ready.isSome = true) (hlines : linesReady s p.cmd)
    (hpins : s.pinGlobals (s.bundle p.cmd.bundle).coreNo p.cmd.asid p.cmd.stream p.cmd.spec.pages = (s, .inr pins))
    (hspace : s.queueSpace p.cmd = true) (hout : ∀ l ∈ checkingLanes s p, (s.thread p.cmd.bundle l).out = []) :
    exec (.engineCommandQueued p.cmd.bundle) s = .next (s.acceptCmd p pins) := by
  obtain ⟨hall, hrequest⟩ := hlines
  have hall : (s.ownLines p.cmd).all (s.lineReady p.cmd.team) = true := List.all_eq_true.mpr hall
  have hmark : s.readyPosting p.cmd.bundle = s := by
    obtain ⟨k, hk⟩ := Option.isSome_iff_exists.mp hready
    unfold State.readyPosting
    simp only [hp, hall, hk]
  have hfence : s.fenceKeeps p = false := by
    refine Bool.and_eq_false_imp.mpr fun _ => List.any_eq_false.mpr fun l hl => ?_
    obtain ⟨hlt, hlane⟩ : l < (s.bundle p.cmd.bundle).threads.length ∧ p.lanes.getLsbD l = true := by simpa [lanesIn] using hl
    by_cases hst : (s.thread p.cmd.bundle l).st = .waiting .posting
    · simp [Thread.held, hout l (mem_checkingLanes.mpr ⟨hlt, hlane, hst⟩)]
    · simp [hst]
  have hpins : s.pinGlobals (s.cmdCore p.cmd) p.cmd.asid p.cmd.stream p.cmd.spec.pages = (s, .inr pins) := hpins
  change execEngineCommandQueued p.cmd.bundle s = _
  unfold execEngineCommandQueued
  simp only [hp, hrequest, hmark, hall, hspace, hfence, hpins, Bool.and_true, Bool.not_true, Bool.or_false, Bool.false_eq_true, if_false]

/-- What the statement of acceptance says of the state after and the command, but for the hypotheses. -/
structure Accepts (s t : State) (p : Posting) (x : Context) (pins : List Pin) (c : Cmd) : Prop where
  cmds : t.cmds = s.cmds ++ [c]
  seq : c.seq = nextNumber ((lookupKey p.cmd.engine x.seqs).getD 0)
  number : lookupKey p.cmd.engine (t.ctx p.cmd.asid).seqs = some c.seq
  pages : c.pins = pins.map (fun x => (x.page, x.pa)) ++ s.linePins p.cmd
  devices : c.devs = (pins.filter (fun x => x.dev)).map (fun x => x.page)
  born : c.born = s.ticks
  lanes : ∀ l < 64, c.lanes.getLsbD l = true ↔ l < (s.bundle p.cmd.bundle).threads.length ∧ checkingLane s p.cmd.bundle p l
  cmd : { c with
    seq := p.cmd.seq, spec := p.cmd.spec, snap := p.cmd.snap, st := p.cmd.st, pins := p.cmd.pins, devs := p.cmd.devs
    lanes := p.cmd.lanes, born := p.cmd.born, acq := p.cmd.acq, sent := p.cmd.sent } = p.cmd
  posting : (t.bundle p.cmd.bundle).posting = none
  token : (t.bundle p.cmd.bundle).s = pairPend (s.bundle p.cmd.bundle).s p.cmd.token
  going : ∀ l, checkingLane s p.cmd.bundle p l → (t.thread p.cmd.bundle l).pc = (s.thread p.cmd.bundle l).pc + 4 ∧
    (t.thread p.cmd.bundle l).st = if (s.thread p.cmd.bundle l).parkAsked then .parked .handler else .ready
  staying : ∀ l, ¬ checkingLane s p.cmd.bundle p l → (t.thread p.cmd.bundle l).pc = (s.thread p.cmd.bundle l).pc ∧
    (t.thread p.cmd.bundle l).st = (s.thread p.cmd.bundle l).st
  others : ∀ i, i ≠ p.cmd.bundle → t.bundle i = s.bundle i
  rest : { t with bundles := s.bundles, cmds := s.cmds, ctxs := s.ctxs, stamps := s.stamps } = s

/-- Acceptance holds as it is stated, where no two windows of the team have one number (R245, `numbered_smapWindow`). -/
theorem acceptCmd_numbered {s : State} {p : Posting} {x : Context} (pins : List Pin) (hb : p.cmd.bundle < s.bundles.length)
    (hseen : ∀ c l, ∀ x ∈ (s.thread c l).stores, s.shows p.cmd.bundle c x = false) (hwork : hasWork p.cmd) (hstand : operandsStand s p.cmd)
    (hx : s.ctxs.find? (fun c => c.asid == p.cmd.asid) = some x) (hout : ∀ l ∈ checkingLanes s p, (s.thread p.cmd.bundle l).out = [])
    (hn : numbered (s.team p.cmd.team)) : ∃ c, Accepts s (s.acceptCmd p pins) p x pins c := by
  obtain ⟨F, r, st, sent, ss, hF, hr, hordered, haccept⟩ := acceptCmd_eq pins hseen hout hwork hstand hn
  let c := accepted (ordered s p) (pinned s p pins) (checkingLanes s p) r
  have hctx : (ordered s p).ctx p.cmd.asid = x := by
    rw [hordered]
    exact congrArg (Option.getD · Context.absent) hx
  have hseq : c.seq = nextNumber ((lookupKey p.cmd.engine x.seqs).getD 0) :=
    (congrArg (fun y : Context => y.nextSeq p.cmd.engine) hctx).trans (nextSeq_eq x _)
  obtain ⟨hposting, htoken, hgo, hstay⟩ := goOn_accepting hF (checkingLanes s p) c s.cmds.length (s.bundle p.cmd.bundle)
  have hbundle : (s.acceptCmd p pins).bundle p.cmd.bundle =
      (goOn (checkingLanes s p) ∘ accepting c s.cmds.length ∘ F) (s.bundle p.cmd.bundle) := by
    rw [haccept]
    exact (bundle_modBundle s p.cmd.bundle _).trans (if_pos hb)
  refine ⟨sending c st sent, ?_⟩
  constructor
  case cmds => rw [haccept]; rfl
  case seq => exact hseq
  case number =>
    have hctx : (s.acceptCmd p pins).ctx p.cmd.asid = numbering c c.seq x := by
      rw [haccept]
      exact ctx_modCtx hx fun _ => rfl
    rw [hctx, show p.cmd.engine = c.engine from (engine_accepted (ordered s p) (pinned s p pins) _ r).symm]
    exact lookupKey_setKey_self _ _ _
  case pages => rfl
  case devices => rfl
  case born =>
    have hticks := congrArg State.ticks (hr.trans hordered)
    exact hticks
  case lanes => exact fun l hl => (getLsbD_laneSet _ hl).trans mem_checkingLanes
  case cmd => rfl
  case posting => exact hbundle ▸ hposting
  case token => exact hbundle ▸ htoken
  case going =>
    intro l hl
    have hlt := checkingLane_lt hl
    rw [State.thread, hbundle]
    exact hgo l hlt (mem_checkingLanes.mpr ⟨hlt, hl⟩) hl.2
  case staying =>
    intro l hl
    rw [State.thread, hbundle]
    exact hstay l fun hmem => hl (mem_checkingLanes.mp hmem).2
  case others =>
    intro i hi
    rw [haccept]
    exact bundle_modBundle_ne s _ i _ hi
  case rest => rw [haccept]; rfl

/-- ENGINE_COMMAND_QUEUED accepts a posting word as the statement says, where no two windows of the team have one number. -/
theorem engineCommandQueued_numbered {s : State} {p : Posting} {x : Context} {pins : List Pin}
    (hp : (s.bundle p.cmd.bundle).posting = some p) (hb : p.cmd.bundle < s.bundles.length) (hready : p.ready.isSome = true)
    (hlines : linesReady s p.cmd)
    (hpins : s.pinGlobals (s.bundle p.cmd.bundle).coreNo p.cmd.asid p.cmd.stream p.cmd.spec.pages = (s, .inr pins))
    (hseen : ∀ c l, ∀ x ∈ (s.thread c l).stores, s.shows p.cmd.bundle c x = false) (hspace : s.queueSpace p.cmd = true) (hwork : hasWork p.cmd)
    (hstand : operandsStand s p.cmd) (hx : s.ctxs.find? (fun c => c.asid == p.cmd.asid) = some x)
    (hout : ∀ l, checkingLane s p.cmd.bundle p l → (s.thread p.cmd.bundle l).out = []) (hn : numbered (s.team p.cmd.team)) :
    ∃ t c, exec (.engineCommandQueued p.cmd.bundle) s = .next t ∧ Accepts s t p x pins c := by
  have hout (l : Nat) (hl : l ∈ checkingLanes s p) : (s.thread p.cmd.bundle l).out = [] := hout l (mem_checkingLanes.mp hl).2
  obtain ⟨c, hc⟩ := acceptCmd_numbered pins hb hseen hwork hstand hx hout hn
  exact ⟨_, c, exec_engineCommandQueued hp hready hlines hpins hspace hout, hc⟩

end Sys2Proof.Laws
end

section
/-! Acceptance (R249, R252) where a team has two windows of one number. No `smap` makes them (R245, `numbered_smapWindow`), but the statement
speaks of every state. Operands of a matrix post that lie in the second window are read there, but a line is fetched again by its window's
number (R254), and so into the first window, where the line is INVALID. Where numbers differ, acceptance holds as it is stated
(`engineCommandQueued_numbered`). -/
namespace Sys2Proof.Laws
open Sys2Proof.Machine Sys2Proof.Claims

/-- A CLEAN line, at home at 0x10000. -/
def operandLine : Line := ⟨0, .clean, false, 0x10000, false, 0, 0, 0, 0, false, none⟩

/-- Two windows of number 1, of which the second has the line. -/
def operandTwins : List Window := [⟨1, 0x20000, 0x1000, .rw, 0, false, [], []⟩, ⟨1, 0x30000, 0x1000, .rw, 0, false, [operandLine], []⟩]

/-- A product of two elements of BF16 in each lane: the 32 rows of B are the 128 bytes at 0x30000. -/
def twinProduct : MatSpec := ⟨0x11, 0x11, 2, 40, 8, true, false, false, 0, 0x30000, 0, 4, 0, 0, 17⟩

/-- The command of the post. -/
def twinPost : Cmd := { posted State.reset.startTeamAt 24 (.matrix twinProduct) 0 0 false false with asid := 1, pc := 0x10040 }

/-- The posting word of the post, by the one lane, with its lines there. -/
def twinPosting : Posting := ⟨1, twinPost, some 0⟩

/-- The posting word is in CHECKING. -/
def twinChecking : State :=
  ((State.reset.startTeamAt.modTeam 0 (fun t => { t with windows := operandTwins })).modBundle 0
    (fun x => { x with posting := some twinPosting })).modThread 0 0 (fun t => { t with st := .waiting .posting })

theorem linesReady_twinChecking : linesReady twinChecking twinPost := ⟨by decide +kernel, rfl⟩

theorem operandsStand_twinChecking : operandsStand twinChecking twinPost := by
  have hready : ∀ r ∈ twinProduct.ranges (twinChecking.bundle 0).w, ∀ i < r.2, twinChecking.lineReady 0 (r.1 + i) = true := by
    decide +kernel
  exact hready

/-- What holds of every thread, and of what stands for a missing one, holds of every thread asked for. -/
theorem thread_of_all {P : Thread → Prop} {s : State} (h0 : P Thread.absent) (h : ∀ x ∈ s.bundles, ∀ th ∈ x.threads, P th) (b l : Nat) :
    P (s.thread b l) := by
  simp only [State.thread, Bundle.thread, State.bundle, List.getD_eq_getElem?_getD]
  cases hb : s.bundles[b]? with
  | none => simpa [Bundle.absent] using h0
  | some x =>
    cases hl : x.threads[l]? with
    | none => simpa [hl] using h0
    | some th => simpa [hl] using h x (List.mem_of_getElem? hb) th (List.mem_of_getElem? hl)

/-- No thread has an access outstanding. -/
theorem out_twinChecking (b l : Nat) : (twinChecking.thread b l).out = [] :=
  thread_of_all (P := fun th => th.out = []) rfl (by decide +kernel) b l

/-- The first window has no line, and has one as the post is accepted. -/
theorem accept_twinChecking :
    endsWith (.engineCommandQueued 0) twinChecking
      (fun t => (t.teams.map Team.windows).map (fun ws => ws.map (fun w => w.lines.length)) == [[1, 2]]) = true := by
  decide +kernel

end Sys2Proof.Laws

namespace Sys2Proof.Claims
open Sys2Proof.Machine

/-- Refutes O20, in its last clause: of two windows of one number, the second holds the operands of a matrix post, and as it is accepted their
line is fetched into the first (R254). -/
theorem not_commandAccepted : ¬ Obligations.CommandAccepted := by
  unfold Obligations.CommandAccepted
  intro h
  obtain ⟨t, c, hexec, -, -, -, -, -, -, -, -, -, -, -, -, -, hrest⟩ := h Laws.twinChecking 0 Laws.twinPosting
    ((Laws.twinChecking.ctxs.find? (fun c => c.asid == 1)).get (by decide +kernel)) [] (by decide +kernel)
    (by decide +kernel) (by decide +kernel) (by decide +kernel) Laws.linesReady_twinChecking rfl
    (fun c l x hx => by rw [Thread.stores, Laws.out_twinChecking] at hx; cases hx) (by decide +kernel)
    trivial Laws.operandsStand_twinChecking (Option.some_get _).symm (fun l _ => Laws.out_twinChecking 0 l)
  have hteams : t.teams = Laws.twinChecking.teams := by
    have e := congrArg State.teams hrest
    exact e
  have hne := Laws.endsWith_next Laws.accept_twinChecking hexec
  rw [hteams] at hne
  exact absurd hne (by decide +kernel)

end Sys2Proof.Claims
end
